-- ==== Sys2Proof/Word.lean ====
section
/-! DEFINITION. The word types of the Tvedtan: bytes, 16-, 32- and 64-bit words, addresses, register numbers. -/

namespace Sys2Proof

/-- A byte of memory. -/
abbrev Byte := BitVec 8
/-- A 16-bit half word. -/
abbrev Half := BitVec 16
/-- A 32-bit word: one instruction word, one element word of a lane. -/
abbrev Word := BitVec 32
/-- A 64-bit scalar register value. -/
abbrev DWord := BitVec 64
/-- A 64-bit address before it is checked (R154). -/
abbrev Addr := BitVec 64
/-- A lane mask of 1,024 bits (R54, R58). -/
abbrev Mask := BitVec 1024
/-- Number of a vector register, v0 to v127 (R58). -/
abbrev VReg := BitVec 7
/-- Number of a scalar register, s0 to s63 (R58). -/
abbrev SReg := BitVec 6

end Sys2Proof
end

