-- ==== Sys2Proof/Syntax.lean ====
section
/-! DEFINITION. Instructions and events of the Tvedtan: one constructor of `Instr` per row of spec/opcode_table.json.
The rows with an encoding carry the fields of their word (R29) and `sw`, the switch marker S (R22); the event rows
(95_what_each_step_holds) carry what the acting unit or the outside world supplies. -/

namespace Sys2Proof

/-- The 8-bit source operand src8 (R30), with its literal word where it has one (R15). -/
inductive Src where
  /-- v0 to v127 -/
  | v (n : VReg)
  /-- s0 to s63 -/
  | s (n : SReg)
  /-- the integers -16 to 15: codes 0xC0 to 0xDF, whose low five bits are the number -/
  | int (n : BitVec 5)
  /-- the FP constants 0.5, 1, 2, 4, -0.5, -1, -2, -4 -/
  | fpc (n : BitVec 3)
  /-- LANEIX -/
  | laneix
  /-- a reserved code, 0xE9 to 0xFE: ILLEGAL_OPERAND when it executes -/
  | res (c : BitVec 8)
  /-- the literal word -/
  | lit (w : Word)
  deriving DecidableEq, Repr

/-- COND of VICMP and VFCMP (R39). -/
inductive Cmp where
  | eq | ne | lt | le | gt | ge | ord | uno
  deriving DecidableEq, Repr

/-- TYPE of VRED (R39). -/
inductive RedType where
  | s32 | n32 | f32 | vi
  deriving DecidableEq, Repr

/-- ORD of the MA format (R37). -/
inductive Ord where
  | relaxed | acquire | release | acqRel
  deriving DecidableEq, Repr

/-- SCOPE (R36); code 7 raises ILLEGAL_OPERAND. -/
inductive Scope where
  | team | wg | core | cluster | die | pkg | pod | reserved
  deriving DecidableEq, Repr

/-- Conversion codes of VFCVT (R143), named destination then source. -/
inductive Conv where
  | f32F16 | f32Bf16 | f32F8e4 | f32F8e5 | f32S32 | f32N32
  | f16F32 | bf16F32 | f8e4F32 | f8e5F32 | s32F32 | n32F32
  | f8e4F16 | f8e5F16 | f8e4Bf16 | f8e5Bf16 | f16Bf16 | bf16F16
  deriving DecidableEq, Repr

/-- The foal extension word FX (R34). -/
structure Fx where
  tok : SReg
  desc : SReg
  prio : BitVec 3
  detach : Bool
  chain : BitVec 2
  depv : Bool
  dep : SReg
  aux : VReg
  deriving DecidableEq, Repr

/-- The header flit of a fabric frame and its payload bytes (R417). -/
structure Frame where
  lseq : BitVec 16
  lack : BitVec 16
  part : Byte
  cls : Byte
  inc : Byte
  nflit : Byte
  job : Word
  slot : Word
  group : Word
  chunk : DWord
  srcpkg : BitVec 16
  dstpkg : BitVec 16
  plen : Word
  hops : Byte
  /-- the bytes the header flit keeps zero: true where they are -/
  zeros : Bool
  /-- what the first chunk of a collective carries beside its payload (R218, R219); the manual gives it no place (log 15) -/
  desc : List Byte
  payload : List Byte
  deriving DecidableEq, Repr

/-- What a PTP message brings to its port (R345): its domain, sequence and the timestamps it carries or was given at the
MAC-PHY boundary, in ns. -/
structure PtpMsg where
  domain : Nat
  seq : Nat
  /-- egress timestamp the message or its follow-up carries -/
  origin : Nat
  /-- ingress timestamp taken at this port -/
  ingress : Nat
  /-- time the peer received our Pdelay_Req, in a Pdelay_Resp -/
  reqReceipt : Nat
  oneStep : Bool
  deriving DecidableEq, Repr

/-- What the sensors give at a control-interval boundary (R274, R282, R284, R285). -/
structure Measure where
  /-- measured energy of the ended interval per physical cluster, in nJ; clusters not listed used 0 -/
  energy : List (Nat × Nat)
  /-- hottest sensor per physical cluster, in degrees C; clusters not listed are below 50 -/
  temp : List (Nat × Nat)
  /-- package input power over the ended interval, in W -/
  power : Nat
  /-- firmware has boost enabled -/
  boost : Bool
  deriving DecidableEq, Repr

/-- The copies whose errors affect no one (R398, last row but one). -/
inductive CopyUnit where
  | guest (die line : Nat)
  | l1 (core line : Nat)
  | tlb (k : Nat)
  deriving DecidableEq, Repr

/-- How a start step ended (R420), as the unit that ran it reports. -/
structure StepReport where
  ok : Bool
  /-- step 6: ports whose links trained -/
  ports : List Nat
  /-- step 7: the grandmaster's time when a lock was reached, none after 10 s without a parent -/
  lock : Option (BitVec 64)
  deriving DecidableEq, Repr

/-- One constructor per row of spec/opcode_table.json. -/
inductive Instr where
  /-- Branch unconditionally to the target clause. (R105) -/
  | br (sw : Bool) (o : BitVec 22)
  /-- Branch if scc is 1. (R105) -/
  | brS1 (sw : Bool) (o : BitVec 22)
  /-- Branch if scc is 0. (R105) -/
  | brS0 (sw : Bool) (o : BitVec 22)
  /-- Branch if EXECSUM is 0. (R105) -/
  | brEz (sw : Bool) (o : BitVec 22)
  /-- Write the next clause address into s63 and branch. (R105) -/
  | call (sw : Bool) (o : BitVec 22)
  /-- Jump to the 64-bit value of A. (R105) -/
  | jmp (sw : Bool) (a : Src)
  /-- Read A, write the next clause address into s63, and jump to A. (R105) -/
  | jmpl (sw : Bool) (a : Src)
  /-- Jump to s63. (R105) -/
  | ret (sw : Bool)
  /-- Push EXEC on the mask stack and AND the selected mask into EXEC, trapping MSTK_OVER at depth 16. (R107) -/
  | mpush (sw : Bool) (m : BitVec 4)
  /-- Pop the mask stack into EXEC, trapping MSTK_REFILL or MSTK_UNDER at depth 0. (R107) -/
  | mpop (sw : Bool)
  /-- Set EXEC to the top stack entry AND NOT EXEC. (R107) -/
  | melse (sw : Bool)
  /-- Read MSDEPTH into a scalar. (R107) -/
  | mdepth (sw : Bool) (d : SReg)
  /-- AND the selected mask into EXEC. (R109) -/
  | mand (sw : Bool) (m : BitVec 4)
  /-- Load the selected mask into EXEC. (R109) -/
  | mload (sw : Bool) (m : BitVec 4)
  /-- Save EXEC into the selected mask. (R109) -/
  | msave (sw : Bool) (m : BitVec 4)
  /-- AND NOT the selected mask into EXEC. (R109) -/
  | mandn (sw : Bool) (m : BitVec 4)
  /-- Read 64 bits of a mask into a scalar. (R110) -/
  | mrd (sw : Bool) (d : SReg) (m : BitVec 4) (p : BitVec 4)
  /-- Write a scalar into 64 bits of a mask. (R110) -/
  | mwr (sw : Bool) (d : SReg) (m : BitVec 4) (p : BitVec 4)
  /-- Count the set bits of a mask below W. (R110) -/
  | mpopc (sw : Bool) (d : SReg) (m : BitVec 4)
  /-- Find the lowest set bit of a mask below W. (R110) -/
  | mffs (sw : Bool) (d : SReg) (m : BitVec 4)
  /-- Compact the active lanes into the fewest physical words after loads and register foals finish. (R111) -/
  | lpack (sw : Bool)
  /-- Restore the identity lane placement. (R111) -/
  | lunpack (sw : Bool)
  /-- Write each active lane's physical position into a vector register. (R111) -/
  | lperm (sw : Bool) (d : VReg)
  /-- Arrive at a named barrier and wait for its phase to complete. (R113) -/
  | barSync (sw : Bool) (b : BitVec 4) (n : BitVec 16)
  /-- Arrive at a named barrier without waiting. (R113) -/
  | barArv (sw : Bool) (b : BitVec 4) (n : BitVec 16)
  /-- Wait for the phase of the team's last arrival to complete. (R113) -/
  | barWt (sw : Bool) (b : BitVec 4)
  /-- Wait for loads, stores, the open batch and attached foals, then end the team. (R117) -/
  | exit (sw : Bool)
  /-- Wait for loads, stores and the open batch, detach every attached foal, and end the team. (R117) -/
  | exitD (sw : Bool)
  /-- Do nothing. (R118) -/
  | nop (sw : Bool)
  /-- Reset the watchdog and give up the next issue clock, or mark a switch point in deterministic mode. (R118) -/
  | yield (sw : Bool)
  /-- Keep the team from issue for imm16 cluster clocks. (R118) -/
  | sleep (sw : Bool) (i : BitVec 16)
  /-- 64-bit scalar add. (R119) -/
  | sadd (sw : Bool) (d : SReg) (b : SReg) (a : Src)
  /-- 64-bit scalar subtract. (R119) -/
  | ssub (sw : Bool) (d : SReg) (b : SReg) (a : Src)
  /-- Low 64 bits of a scalar product, over 4 clocks. (R119) -/
  | smul (sw : Bool) (d : SReg) (b : SReg) (a : Src)
  /-- High 64 bits of a signed 128-bit scalar product. (R119) -/
  | smulh (sw : Bool) (d : SReg) (b : SReg) (a : Src)
  /-- Add a sign-extended immediate to a scalar. (R121) -/
  | saddi (sw : Bool) (d : SReg) (i : BitVec 16)
  /-- Load a sign-extended immediate into a scalar. (R121) -/
  | smovi (sw : Bool) (d : SReg) (i : BitVec 16)
  /-- Load a sign-extended immediate shifted left by 16. (R121) -/
  | slui (sw : Bool) (d : SReg) (i : BitVec 16)
  /-- OR a zero-extended immediate into a scalar. (R121) -/
  | sori (sw : Bool) (d : SReg) (i : BitVec 16)
  /-- Scalar bitwise AND. (R119) -/
  | sand (sw : Bool) (d : SReg) (b : SReg) (a : Src)
  /-- Scalar bitwise OR. (R119) -/
  | sor (sw : Bool) (d : SReg) (b : SReg) (a : Src)
  /-- Scalar bitwise XOR. (R119) -/
  | sxor (sw : Bool) (d : SReg) (b : SReg) (a : Src)
  /-- Scalar bitwise AND NOT. (R119) -/
  | sandn (sw : Bool) (d : SReg) (b : SReg) (a : Src)
  /-- Scalar shift left. (R119) -/
  | sshl (sw : Bool) (d : SReg) (b : SReg) (a : Src)
  /-- Scalar logical shift right. (R119) -/
  | sshr (sw : Bool) (d : SReg) (b : SReg) (a : Src)
  /-- Scalar arithmetic shift right. (R119) -/
  | ssar (sw : Bool) (d : SReg) (b : SReg) (a : Src)
  /-- Scalar rotate left. (R119) -/
  | srot (sw : Bool) (d : SReg) (b : SReg) (a : Src)
  /-- Set scc to x equal to y. (R119) -/
  | scmpeq (sw : Bool) (b : SReg) (a : Src)
  /-- Set scc to signed x below y. (R119) -/
  | scmplt (sw : Bool) (b : SReg) (a : Src)
  /-- Set scc to unsigned x below y. (R119) -/
  | scmpltn (sw : Bool) (b : SReg) (a : Src)
  /-- Set scc to signed x at most y. (R119) -/
  | scmple (sw : Bool) (b : SReg) (a : Src)
  /-- Select x or y on scc. (R119) -/
  | ssel (sw : Bool) (d : SReg) (b : SReg) (a : Src)
  /-- Signed scalar minimum. (R119) -/
  | smin (sw : Bool) (d : SReg) (b : SReg) (a : Src)
  /-- Signed scalar maximum. (R119) -/
  | smax (sw : Bool) (d : SReg) (b : SReg) (a : Src)
  /-- Unsigned scalar minimum. (R119) -/
  | sminn (sw : Bool) (d : SReg) (b : SReg) (a : Src)
  /-- Count the set bits of y. (R119) -/
  | spopc (sw : Bool) (d : SReg) (a : Src)
  /-- Count the leading zeros of y. (R119) -/
  | sclz (sw : Bool) (d : SReg) (a : Src)
  /-- Count the trailing zeros of y. (R119) -/
  | sctz (sw : Bool) (d : SReg) (a : Src)
  /-- Bit-reverse y. (R119) -/
  | sbrev (sw : Bool) (d : SReg) (a : Src)
  /-- Signed scalar quotient, over 4 + q clocks. (R120) -/
  | sdiv (sw : Bool) (d : SReg) (b : SReg) (a : Src)
  /-- Unsigned scalar quotient. (R120) -/
  | sdivn (sw : Bool) (d : SReg) (b : SReg) (a : Src)
  /-- Signed scalar remainder. (R120) -/
  | srem (sw : Bool) (d : SReg) (b : SReg) (a : Src)
  /-- Unsigned scalar remainder. (R120) -/
  | sremn (sw : Bool) (d : SReg) (b : SReg) (a : Src)
  /-- Read a special register into a scalar. (R65) -/
  | sget (sw : Bool) (d : SReg) (i : BitVec 8)
  /-- Clear FLAGS bits by W1C from a scalar. (R65) -/
  | sset (sw : Bool) (d : SReg) (i : BitVec 8)
  /-- Read one lane of a vector register into a scalar. (R123) -/
  | srdln (sw : Bool) (d : SReg) (b : SReg) (a : Src)
  /-- Write a scalar into one lane of a vector register. (R123) -/
  | swrln (sw : Bool) (d : SReg) (b : SReg) (a : Src)
  /-- Read the team's run clocks. (R124) -/
  | rclock (sw : Bool) (d : SReg)
  /-- Read TIME in TAI nanoseconds. (R124) -/
  | rtime (sw : Bool) (d : SReg)
  /-- Arm or disarm the run-clock deadline. (R124) -/
  | timer (sw : Bool) (a : Src)
  /-- Arm or disarm the absolute TIME deadline. (R124) -/
  | timera (sw : Bool) (a : Src)
  /-- Set scc to the scalar equal to the immediate. (R121) -/
  | scmpieq (sw : Bool) (d : SReg) (i : BitVec 16)
  /-- Set scc to the scalar signed below the immediate. (R121) -/
  | scmpilt (sw : Bool) (d : SReg) (i : BitVec 16)
  /-- Set scc to the scalar unsigned below the immediate. (R121) -/
  | scmpiltn (sw : Bool) (d : SReg) (i : BitVec 16)
  /-- Wrapping 32-bit vector add. (R130) -/
  | viaddI32 (sw : Bool) (d : VReg) (b : VReg) (a : Src)
  /-- Wrapping packed 16-bit vector add. (R130) -/
  | viaddI16x2 (sw : Bool) (d : VReg) (b : VReg) (a : Src)
  /-- Wrapping packed 8-bit vector add. (R130) -/
  | viaddI8x4 (sw : Bool) (d : VReg) (b : VReg) (a : Src)
  /-- Saturating signed 32-bit vector add. (R130) -/
  | viaddS32sat (sw : Bool) (d : VReg) (b : VReg) (a : Src)
  /-- Wrapping 32-bit vector subtract. (R130) -/
  | visubI32 (sw : Bool) (d : VReg) (b : VReg) (a : Src)
  /-- Wrapping packed 16-bit vector subtract. (R130) -/
  | visubI16x2 (sw : Bool) (d : VReg) (b : VReg) (a : Src)
  /-- Wrapping packed 8-bit vector subtract. (R130) -/
  | visubI8x4 (sw : Bool) (d : VReg) (b : VReg) (a : Src)
  /-- Saturating signed 32-bit vector subtract. (R130) -/
  | visubS32sat (sw : Bool) (d : VReg) (b : VReg) (a : Src)
  /-- Low 32 bits of a vector product. (R131) -/
  | vimulLo (sw : Bool) (d : VReg) (b : VReg) (a : Src)
  /-- High 32 bits of a signed vector product. (R131) -/
  | vimulHs (sw : Bool) (d : VReg) (b : VReg) (a : Src)
  /-- High 32 bits of an unsigned vector product. (R131) -/
  | vimulHn (sw : Bool) (d : VReg) (b : VReg) (a : Src)
  /-- Packed 16-bit vector multiply. (R131) -/
  | vimulI16x2 (sw : Bool) (d : VReg) (b : VReg) (a : Src)
  /-- 32-bit multiply-accumulate into D. (R132) -/
  | vimadI32 (sw : Bool) (d : VReg) (b : VReg) (a : Src)
  /-- Packed 16-bit multiply-accumulate into D. (R132) -/
  | vimadI16x2 (sw : Bool) (d : VReg) (b : VReg) (a : Src)
  /-- Signed 4-way byte dot product accumulated into D. (R132) -/
  | vimadDot4s8 (sw : Bool) (d : VReg) (b : VReg) (a : Src)
  /-- Unsigned 4-way byte dot product accumulated into D. (R132) -/
  | vimadDot4n8 (sw : Bool) (d : VReg) (b : VReg) (a : Src)
  /-- Vector bitwise AND. (R133) -/
  | vlogAnd (sw : Bool) (d : VReg) (b : VReg) (a : Src)
  /-- Vector bitwise OR. (R133) -/
  | vlogOr (sw : Bool) (d : VReg) (b : VReg) (a : Src)
  /-- Vector bitwise XOR. (R133) -/
  | vlogXor (sw : Bool) (d : VReg) (b : VReg) (a : Src)
  /-- Vector bitwise AND NOT. (R133) -/
  | vlogAndn (sw : Bool) (d : VReg) (b : VReg) (a : Src)
  /-- Vector shift left by A[4:0]. (R133) -/
  | vshfShl (sw : Bool) (d : VReg) (b : VReg) (a : Src)
  /-- Vector logical shift right by A[4:0]. (R133) -/
  | vshfShr (sw : Bool) (d : VReg) (b : VReg) (a : Src)
  /-- Vector arithmetic shift right by A[4:0]. (R133) -/
  | vshfSar (sw : Bool) (d : VReg) (b : VReg) (a : Src)
  /-- Vector rotate left by A[4:0]. (R133) -/
  | vshfRot (sw : Bool) (d : VReg) (b : VReg) (a : Src)
  /-- Vector shift left by an immediate. (R133) -/
  | vshfiShl (sw : Bool) (d : VReg) (b : VReg) (i : BitVec 8)
  /-- Vector logical shift right by an immediate. (R133) -/
  | vshfiShr (sw : Bool) (d : VReg) (b : VReg) (i : BitVec 8)
  /-- Vector arithmetic shift right by an immediate. (R133) -/
  | vshfiSar (sw : Bool) (d : VReg) (b : VReg) (i : BitVec 8)
  /-- Vector rotate left by an immediate. (R133) -/
  | vshfiRot (sw : Bool) (d : VReg) (b : VReg) (i : BitVec 8)
  /-- Signed vector minimum. (R134) -/
  | viminS32min (sw : Bool) (d : VReg) (b : VReg) (a : Src)
  /-- Unsigned vector minimum. (R134) -/
  | viminN32min (sw : Bool) (d : VReg) (b : VReg) (a : Src)
  /-- Signed vector maximum. (R134) -/
  | viminS32max (sw : Bool) (d : VReg) (b : VReg) (a : Src)
  /-- Unsigned vector maximum. (R134) -/
  | viminN32max (sw : Bool) (d : VReg) (b : VReg) (a : Src)
  /-- Count the set bits of A per lane. (R135) -/
  | vbitPopc (sw : Bool) (d : VReg) (a : Src)
  /-- Count the leading zeros of A per lane. (R135) -/
  | vbitClz (sw : Bool) (d : VReg) (a : Src)
  /-- Bit-reverse A per lane. (R135) -/
  | vbitBrev (sw : Bool) (d : VReg) (a : Src)
  /-- Find the lowest set bit of A per lane. (R135) -/
  | vbitFfs (sw : Bool) (d : VReg) (a : Src)
  /-- Signed integer compare of B with A into a lane mask. (R136) -/
  | vicmpS32 (sw : Bool) (l : BitVec 3) (c : Cmp) (b : VReg) (a : Src)
  /-- Unsigned integer compare of B with A into a lane mask. (R136) -/
  | vicmpN32 (sw : Bool) (l : BitVec 3) (c : Cmp) (b : VReg) (a : Src)
  /-- Select A or B per lane on lm0. (R137) -/
  | vselLm0 (sw : Bool) (d : VReg) (b : VReg) (a : Src)
  /-- Select A or B per lane on lm1. (R137) -/
  | vselLm1 (sw : Bool) (d : VReg) (b : VReg) (a : Src)
  /-- Select A or B per lane on lm2. (R137) -/
  | vselLm2 (sw : Bool) (d : VReg) (b : VReg) (a : Src)
  /-- Select A or B per lane on lm3. (R137) -/
  | vselLm3 (sw : Bool) (d : VReg) (b : VReg) (a : Src)
  /-- Copy A into D per lane. (R138) -/
  | vmov (sw : Bool) (d : VReg) (a : Src)
  /-- Sign-extend A[15:0] into D. (R138) -/
  | vsx16 (sw : Bool) (d : VReg) (a : Src)
  /-- Sign-extend A[7:0] into D. (R138) -/
  | vsx8 (sw : Bool) (d : VReg) (a : Src)
  /-- Zero-extend A[15:0] into D. (R138) -/
  | vzx16 (sw : Bool) (d : VReg) (a : Src)
  /-- FP32 vector add. (R139) -/
  | vfaddF32 (sw : Bool) (d : VReg) (b : VReg) (a : Src)
  /-- Packed FP16 vector add. (R139) -/
  | vfaddF16x2 (sw : Bool) (d : VReg) (b : VReg) (a : Src)
  /-- Packed BF16 vector add. (R139) -/
  | vfaddBf16x2 (sw : Bool) (d : VReg) (b : VReg) (a : Src)
  /-- FP32 vector subtract. (R139) -/
  | vfsubF32 (sw : Bool) (d : VReg) (b : VReg) (a : Src)
  /-- Packed FP16 vector subtract. (R139) -/
  | vfsubF16x2 (sw : Bool) (d : VReg) (b : VReg) (a : Src)
  /-- Packed BF16 vector subtract. (R139) -/
  | vfsubBf16x2 (sw : Bool) (d : VReg) (b : VReg) (a : Src)
  /-- FP32 vector multiply. (R139) -/
  | vfmulF32 (sw : Bool) (d : VReg) (b : VReg) (a : Src)
  /-- Packed FP16 vector multiply. (R139) -/
  | vfmulF16x2 (sw : Bool) (d : VReg) (b : VReg) (a : Src)
  /-- Packed BF16 vector multiply. (R139) -/
  | vfmulBf16x2 (sw : Bool) (d : VReg) (b : VReg) (a : Src)
  /-- FP32 fused multiply-add into D. (R139) -/
  | vfmaF32 (sw : Bool) (d : VReg) (b : VReg) (a : Src)
  /-- Packed FP16 fused multiply-add into D. (R139) -/
  | vfmaF16x2 (sw : Bool) (d : VReg) (b : VReg) (a : Src)
  /-- Packed BF16 fused multiply-add into D. (R139) -/
  | vfmaBf16x2 (sw : Bool) (d : VReg) (b : VReg) (a : Src)
  /-- FP32 vector minimum. (R140) -/
  | vfminF32 (sw : Bool) (d : VReg) (b : VReg) (a : Src)
  /-- FP32 vector maximum. (R140) -/
  | vfmaxF32 (sw : Bool) (d : VReg) (b : VReg) (a : Src)
  /-- Packed FP16 vector minimum. (R140) -/
  | vfminF16x2 (sw : Bool) (d : VReg) (b : VReg) (a : Src)
  /-- Packed FP16 vector maximum. (R140) -/
  | vfmaxF16x2 (sw : Bool) (d : VReg) (b : VReg) (a : Src)
  /-- FP32 compare of B with A into a lane mask. (R141) -/
  | vfcmpF32 (sw : Bool) (l : BitVec 3) (c : Cmp) (b : VReg) (a : Src)
  /-- FP16 compare of the low halves into a lane mask. (R141) -/
  | vfcmpF16 (sw : Bool) (l : BitVec 3) (c : Cmp) (b : VReg) (a : Src)
  /-- BF16 compare of the low halves into a lane mask. (R141) -/
  | vfcmpBf16 (sw : Bool) (l : BitVec 3) (c : Cmp) (b : VReg) (a : Src)
  /-- Convert A by the conversion code, rounding to nearest even. (R143) -/
  | vfcvtRne (sw : Bool) (d : VReg) (k : Conv) (a : Src)
  /-- Convert A by the conversion code, rounding toward zero. (R143) -/
  | vfcvtRtz (sw : Bool) (d : VReg) (k : Conv) (a : Src)
  /-- Convert A by the conversion code, rounding down. (R143) -/
  | vfcvtDn (sw : Bool) (d : VReg) (k : Conv) (a : Src)
  /-- Convert A by the conversion code, rounding up. (R143) -/
  | vfcvtUp (sw : Bool) (d : VReg) (k : Conv) (a : Src)
  /-- Correctly rounded FP32 reciprocal. (R145) -/
  | vrcp (sw : Bool) (d : VReg) (a : Src)
  /-- Correctly rounded FP32 reciprocal square root. (R145) -/
  | vrsq (sw : Bool) (d : VReg) (a : Src)
  /-- Correctly rounded FP32 base-2 exponential. (R145) -/
  | vex2 (sw : Bool) (d : VReg) (a : Src)
  /-- Correctly rounded FP32 base-2 logarithm. (R145) -/
  | vlg2 (sw : Bool) (d : VReg) (a : Src)
  /-- Correctly rounded FP32 sin(pi x). (R145) -/
  | vsinpi (sw : Bool) (d : VReg) (a : Src)
  /-- Correctly rounded FP32 cos(pi x). (R145) -/
  | vcospi (sw : Bool) (d : VReg) (a : Src)
  /-- Correctly rounded FP32 square root. (R145) -/
  | vsqrt (sw : Bool) (d : VReg) (a : Src)
  /-- Correctly rounded FP32 hyperbolic tangent. (R145) -/
  | vtanh (sw : Bool) (d : VReg) (a : Src)
  /-- Round FP32 to integral, nearest even. (R144) -/
  | vfrndRne (sw : Bool) (d : VReg) (a : Src)
  /-- Round FP32 to integral toward zero. (R144) -/
  | vfrndRtz (sw : Bool) (d : VReg) (a : Src)
  /-- Round FP32 to integral downward. (R144) -/
  | vfrndFloor (sw : Bool) (d : VReg) (a : Src)
  /-- Round FP32 to integral upward. (R144) -/
  | vfrndCeil (sw : Bool) (d : VReg) (a : Src)
  /-- Two-element BF16 dot product accumulated into FP32 D. (R142) -/
  | vfdotDot2bf16 (sw : Bool) (d : VReg) (b : VReg) (a : Src)
  /-- Two-element FP16 dot product accumulated into FP32 D. (R142) -/
  | vfdotDot2f16 (sw : Bool) (d : VReg) (b : VReg) (a : Src)
  /-- Four-element F8E4 dot product accumulated into FP32 D. (R142) -/
  | vfdotDot4f8e4 (sw : Bool) (d : VReg) (b : VReg) (a : Src)
  /-- Four-element F8E5 dot product accumulated into FP32 D. (R142) -/
  | vfdotDot4f8e5 (sw : Bool) (d : VReg) (b : VReg) (a : Src)
  /-- Choose the better value-index word under MAX. (R146) -/
  | vmaxiMax (sw : Bool) (d : VReg) (b : VReg) (a : Src)
  /-- Choose the better value-index word under MIN. (R146) -/
  | vmaxiMin (sw : Bool) (d : VReg) (b : VReg) (a : Src)
  /-- Round two FP32 values into a packed FP16 word. (R147) -/
  | vpackF16x2 (sw : Bool) (d : VReg) (b : VReg) (a : Src)
  /-- Round two FP32 values into a packed BF16 word. (R147) -/
  | vpackBf16x2 (sw : Bool) (d : VReg) (b : VReg) (a : Src)
  /-- Saturate two signed 32-bit values into a packed 16-bit word. (R147) -/
  | vpackS16x2sat (sw : Bool) (d : VReg) (b : VReg) (a : Src)
  /-- Expand two INT4 elements of A into a BF16x2 word. (R148) -/
  | vexpd (sw : Bool) (d : VReg) (p : BitVec 2) (a : Src)
  /-- One CRC-32C step over the four bytes of A. (R149) -/
  | vhashCrc32c (sw : Bool) (d : VReg) (b : VReg) (a : Src)
  /-- One MIX32 hash step of B XOR A. (R149) -/
  | vhashMix32 (sw : Bool) (d : VReg) (b : VReg) (a : Src)
  /-- Read B from an indexed lane of the same 32-lane word. (R150) -/
  | vshflIdx (sw : Bool) (d : VReg) (b : VReg) (a : Src)
  /-- Read B from the lane at index XOR k within the word. (R150) -/
  | vshflXor (sw : Bool) (d : VReg) (b : VReg) (a : Src)
  /-- Read B from the lane k below within the word. (R150) -/
  | vshflUp (sw : Bool) (d : VReg) (b : VReg) (a : Src)
  /-- Read B from the lane k above within the word. (R150) -/
  | vshflDown (sw : Bool) (d : VReg) (b : VReg) (a : Src)
  /-- Sum a vector register over active lanes into a scalar. (R151) -/
  | vredAdd (sw : Bool) (d : SReg) (t : RedType) (a : Src)
  /-- Maximum of a vector register over active lanes into a scalar. (R151) -/
  | vredMax (sw : Bool) (d : SReg) (t : RedType) (a : Src)
  /-- Minimum of a vector register over active lanes into a scalar. (R151) -/
  | vredMin (sw : Bool) (d : SReg) (t : RedType) (a : Src)
  /-- Best value-index word over active lanes into a scalar. (R151) -/
  | vredMaxi (sw : Bool) (d : SReg) (t : RedType) (a : Src)
  /-- Inclusive integer prefix sum over logical lanes. (R152) -/
  | vscanInclAddS32 (sw : Bool) (d : VReg) (a : Src)
  /-- Exclusive integer prefix sum over logical lanes. (R152) -/
  | vscanExclAddS32 (sw : Bool) (d : VReg) (a : Src)
  /-- Inclusive FP32 prefix sum by recursive doubling. (R152) -/
  | vscanInclAddF32 (sw : Bool) (d : VReg) (a : Src)
  /-- Inclusive prefix of the best value-index word under MAX. (R152) -/
  | vscanInclMaxi (sw : Bool) (d : VReg) (a : Src)
  /-- Write a lane mask of active lanes whose A is non-zero. (R153) -/
  | ballot (sw : Bool) (l : BitVec 3) (a : Src)
  /-- Write each active lane's count of mask bits below it. (R153) -/
  | mpre (sw : Bool) (l : BitVec 3) (d : VReg)
  /-- Set scc if any active lane has A non-zero. (R153) -/
  | vany (sw : Bool) (a : Src)
  /-- Set scc if every active lane has A non-zero. (R153) -/
  | vall (sw : Bool) (a : Src)
  /-- Contiguous vector load of bytes, zero-extended. (R161) -/
  | ldvB8 (sw : Bool) (d : VReg) (b : SReg) (i : BitVec 9)
  /-- Contiguous vector load of halfwords, zero-extended. (R161) -/
  | ldvB16 (sw : Bool) (d : VReg) (b : SReg) (i : BitVec 9)
  /-- Contiguous vector load of words. (R161) -/
  | ldvB32 (sw : Bool) (d : VReg) (b : SReg) (i : BitVec 9)
  /-- Contiguous vector load of doublewords into a pair. (R161) -/
  | ldvB64 (sw : Bool) (d : VReg) (b : SReg) (i : BitVec 9)
  /-- Contiguous vector load of bytes, sign-extended. (R161) -/
  | ldvsS8 (sw : Bool) (d : VReg) (b : SReg) (i : BitVec 9)
  /-- Contiguous vector load of halfwords, sign-extended. (R161) -/
  | ldvsS16 (sw : Bool) (d : VReg) (b : SReg) (i : BitVec 9)
  /-- Gather load of bytes from global memory. (R161) -/
  | ldgB8 (sw : Bool) (k : BitVec 2) (d : VReg) (b : SReg) (x : VReg)
  /-- Gather load of halfwords from global memory. (R161) -/
  | ldgB16 (sw : Bool) (k : BitVec 2) (d : VReg) (b : SReg) (x : VReg)
  /-- Gather load of words from global memory. (R161) -/
  | ldgB32 (sw : Bool) (k : BitVec 2) (d : VReg) (b : SReg) (x : VReg)
  /-- Gather load of doublewords from global memory. (R161) -/
  | ldgB64 (sw : Bool) (k : BitVec 2) (d : VReg) (b : SReg) (x : VReg)
  /-- Contiguous vector store of bytes. (R161) -/
  | stvB8 (sw : Bool) (d : VReg) (b : SReg) (i : BitVec 9)
  /-- Contiguous vector store of halfwords. (R161) -/
  | stvB16 (sw : Bool) (d : VReg) (b : SReg) (i : BitVec 9)
  /-- Contiguous vector store of words. (R161) -/
  | stvB32 (sw : Bool) (d : VReg) (b : SReg) (i : BitVec 9)
  /-- Contiguous vector store of doublewords from a pair. (R161) -/
  | stvB64 (sw : Bool) (d : VReg) (b : SReg) (i : BitVec 9)
  /-- Scatter store of bytes to global memory. (R161) -/
  | stgB8 (sw : Bool) (k : BitVec 2) (d : VReg) (b : SReg) (x : VReg)
  /-- Scatter store of halfwords to global memory. (R161) -/
  | stgB16 (sw : Bool) (k : BitVec 2) (d : VReg) (b : SReg) (x : VReg)
  /-- Scatter store of words to global memory. (R161) -/
  | stgB32 (sw : Bool) (k : BitVec 2) (d : VReg) (b : SReg) (x : VReg)
  /-- Scatter store of doublewords to global memory. (R161) -/
  | stgB64 (sw : Bool) (k : BitVec 2) (d : VReg) (b : SReg) (x : VReg)
  /-- Scalar load of a byte from global memory. (R161) -/
  | ldsB8 (sw : Bool) (d : SReg) (b : SReg) (i : BitVec 10)
  /-- Scalar load of a halfword from global memory. (R161) -/
  | ldsB16 (sw : Bool) (d : SReg) (b : SReg) (i : BitVec 10)
  /-- Scalar load of a word from global memory. (R161) -/
  | ldsB32 (sw : Bool) (d : SReg) (b : SReg) (i : BitVec 10)
  /-- Scalar load of a doubleword from global memory. (R161) -/
  | ldsB64 (sw : Bool) (d : SReg) (b : SReg) (i : BitVec 10)
  /-- Scalar store of a byte to global memory. (R161) -/
  | stsB8 (sw : Bool) (d : SReg) (b : SReg) (i : BitVec 10)
  /-- Scalar store of a halfword to global memory. (R161) -/
  | stsB16 (sw : Bool) (d : SReg) (b : SReg) (i : BitVec 10)
  /-- Scalar store of a word to global memory. (R161) -/
  | stsB32 (sw : Bool) (d : SReg) (b : SReg) (i : BitVec 10)
  /-- Scalar store of a doubleword to global memory. (R161) -/
  | stsB64 (sw : Bool) (d : SReg) (b : SReg) (i : BitVec 10)
  /-- Gather load of bytes from scratchpad. (R161) -/
  | ldspB8 (sw : Bool) (k : BitVec 2) (d : VReg) (b : SReg) (x : VReg)
  /-- Gather load of halfwords from scratchpad. (R161) -/
  | ldspB16 (sw : Bool) (k : BitVec 2) (d : VReg) (b : SReg) (x : VReg)
  /-- Gather load of words from scratchpad. (R161) -/
  | ldspB32 (sw : Bool) (k : BitVec 2) (d : VReg) (b : SReg) (x : VReg)
  /-- Gather load of doublewords from scratchpad. (R161) -/
  | ldspB64 (sw : Bool) (k : BitVec 2) (d : VReg) (b : SReg) (x : VReg)
  /-- Scatter store of bytes to scratchpad. (R161) -/
  | stspB8 (sw : Bool) (k : BitVec 2) (d : VReg) (b : SReg) (x : VReg)
  /-- Scatter store of halfwords to scratchpad. (R161) -/
  | stspB16 (sw : Bool) (k : BitVec 2) (d : VReg) (b : SReg) (x : VReg)
  /-- Scatter store of words to scratchpad. (R161) -/
  | stspB32 (sw : Bool) (k : BitVec 2) (d : VReg) (b : SReg) (x : VReg)
  /-- Scatter store of doublewords to scratchpad. (R161) -/
  | stspB64 (sw : Bool) (k : BitVec 2) (d : VReg) (b : SReg) (x : VReg)
  /-- Scalar load of a word from scratchpad. (R161) -/
  | sldspB32 (sw : Bool) (d : SReg) (b : SReg) (i : BitVec 10)
  /-- Scalar load of a doubleword from scratchpad. (R161) -/
  | sldspB64 (sw : Bool) (d : SReg) (b : SReg) (i : BitVec 10)
  /-- Scalar store of a word to scratchpad. (R161) -/
  | sstspB32 (sw : Bool) (d : SReg) (b : SReg) (i : BitVec 10)
  /-- Scalar store of a doubleword to scratchpad. (R161) -/
  | sstspB64 (sw : Bool) (d : SReg) (b : SReg) (i : BitVec 10)
  /-- Global atomic 32-bit add returning the old value. (R169) -/
  | atomAddI32 (sw : Bool) (o : Ord) (c : Scope) (d : VReg) (a : VReg)
  /-- Global atomic FP32 add returning the old value. (R169) -/
  | atomAddF32 (sw : Bool) (o : Ord) (c : Scope) (d : VReg) (a : VReg)
  /-- Global atomic signed minimum. (R169) -/
  | atomMinS32 (sw : Bool) (o : Ord) (c : Scope) (d : VReg) (a : VReg)
  /-- Global atomic signed maximum. (R169) -/
  | atomMaxS32 (sw : Bool) (o : Ord) (c : Scope) (d : VReg) (a : VReg)
  /-- Global atomic unsigned minimum. (R169) -/
  | atomMinN32 (sw : Bool) (o : Ord) (c : Scope) (d : VReg) (a : VReg)
  /-- Global atomic unsigned maximum. (R169) -/
  | atomMaxN32 (sw : Bool) (o : Ord) (c : Scope) (d : VReg) (a : VReg)
  /-- Global atomic AND. (R169) -/
  | atomAnd (sw : Bool) (o : Ord) (c : Scope) (d : VReg) (a : VReg)
  /-- Global atomic OR. (R169) -/
  | atomOr (sw : Bool) (o : Ord) (c : Scope) (d : VReg) (a : VReg)
  /-- Global atomic XOR. (R169) -/
  | atomXor (sw : Bool) (o : Ord) (c : Scope) (d : VReg) (a : VReg)
  /-- Global atomic exchange. (R169) -/
  | atomExch (sw : Bool) (o : Ord) (c : Scope) (d : VReg) (a : VReg)
  /-- Global atomic compare-and-swap. (R169) -/
  | atomCas (sw : Bool) (o : Ord) (c : Scope) (d : VReg) (a : VReg)
  /-- Global atomic value-index maximum. (R169) -/
  | atomMaxi (sw : Bool) (o : Ord) (c : Scope) (d : VReg) (a : VReg)
  /-- Global atomic packed FP16 add. (R169) -/
  | atomAddF16x2 (sw : Bool) (o : Ord) (c : Scope) (d : VReg) (a : VReg)
  /-- Global atomic 64-bit add. (R169) -/
  | atomAddI64 (sw : Bool) (o : Ord) (c : Scope) (d : VReg) (a : VReg)
  /-- Scratchpad atomic 32-bit add returning the old value. (R169) -/
  | atomsAddI32 (sw : Bool) (o : Ord) (c : Scope) (d : VReg) (a : VReg)
  /-- Scratchpad atomic FP32 add. (R169) -/
  | atomsAddF32 (sw : Bool) (o : Ord) (c : Scope) (d : VReg) (a : VReg)
  /-- Scratchpad atomic signed minimum. (R169) -/
  | atomsMinS32 (sw : Bool) (o : Ord) (c : Scope) (d : VReg) (a : VReg)
  /-- Scratchpad atomic signed maximum. (R169) -/
  | atomsMaxS32 (sw : Bool) (o : Ord) (c : Scope) (d : VReg) (a : VReg)
  /-- Scratchpad atomic unsigned minimum. (R169) -/
  | atomsMinN32 (sw : Bool) (o : Ord) (c : Scope) (d : VReg) (a : VReg)
  /-- Scratchpad atomic unsigned maximum. (R169) -/
  | atomsMaxN32 (sw : Bool) (o : Ord) (c : Scope) (d : VReg) (a : VReg)
  /-- Scratchpad atomic AND. (R169) -/
  | atomsAnd (sw : Bool) (o : Ord) (c : Scope) (d : VReg) (a : VReg)
  /-- Scratchpad atomic OR. (R169) -/
  | atomsOr (sw : Bool) (o : Ord) (c : Scope) (d : VReg) (a : VReg)
  /-- Scratchpad atomic XOR. (R169) -/
  | atomsXor (sw : Bool) (o : Ord) (c : Scope) (d : VReg) (a : VReg)
  /-- Scratchpad atomic exchange. (R169) -/
  | atomsExch (sw : Bool) (o : Ord) (c : Scope) (d : VReg) (a : VReg)
  /-- Scratchpad atomic compare-and-swap. (R169) -/
  | atomsCas (sw : Bool) (o : Ord) (c : Scope) (d : VReg) (a : VReg)
  /-- Scratchpad atomic value-index maximum. (R169) -/
  | atomsMaxi (sw : Bool) (o : Ord) (c : Scope) (d : VReg) (a : VReg)
  /-- Scratchpad atomic packed FP16 add. (R169) -/
  | atomsAddF16x2 (sw : Bool) (o : Ord) (c : Scope) (d : VReg) (a : VReg)
  /-- Scratchpad atomic 64-bit add. (R169) -/
  | atomsAddI64 (sw : Bool) (o : Ord) (c : Scope) (d : VReg) (a : VReg)
  /-- Global reduction 32-bit add with no return. (R169) -/
  | redAddI32 (sw : Bool) (o : Ord) (c : Scope) (d : VReg) (a : VReg)
  /-- Global reduction FP32 add. (R169) -/
  | redAddF32 (sw : Bool) (o : Ord) (c : Scope) (d : VReg) (a : VReg)
  /-- Global reduction signed minimum. (R169) -/
  | redMinS32 (sw : Bool) (o : Ord) (c : Scope) (d : VReg) (a : VReg)
  /-- Global reduction signed maximum. (R169) -/
  | redMaxS32 (sw : Bool) (o : Ord) (c : Scope) (d : VReg) (a : VReg)
  /-- Global reduction unsigned minimum. (R169) -/
  | redMinN32 (sw : Bool) (o : Ord) (c : Scope) (d : VReg) (a : VReg)
  /-- Global reduction unsigned maximum. (R169) -/
  | redMaxN32 (sw : Bool) (o : Ord) (c : Scope) (d : VReg) (a : VReg)
  /-- Global reduction AND. (R169) -/
  | redAnd (sw : Bool) (o : Ord) (c : Scope) (d : VReg) (a : VReg)
  /-- Global reduction OR. (R169) -/
  | redOr (sw : Bool) (o : Ord) (c : Scope) (d : VReg) (a : VReg)
  /-- Global reduction XOR. (R169) -/
  | redXor (sw : Bool) (o : Ord) (c : Scope) (d : VReg) (a : VReg)
  /-- Global reduction value-index maximum. (R169) -/
  | redMaxi (sw : Bool) (o : Ord) (c : Scope) (d : VReg) (a : VReg)
  /-- Global reduction packed FP16 add. (R169) -/
  | redAddF16x2 (sw : Bool) (o : Ord) (c : Scope) (d : VReg) (a : VReg)
  /-- Global reduction 64-bit add. (R169) -/
  | redAddI64 (sw : Bool) (o : Ord) (c : Scope) (d : VReg) (a : VReg)
  /-- Ordered global halfword load with optional acquire at a scope. (R171) -/
  | ldaB16 (sw : Bool) (o : Ord) (c : Scope) (d : VReg) (a : VReg)
  /-- Ordered global word load with optional acquire at a scope. (R171) -/
  | ldaB32 (sw : Bool) (o : Ord) (c : Scope) (d : VReg) (a : VReg)
  /-- Ordered global doubleword load with optional acquire at a scope. (R171) -/
  | ldaB64 (sw : Bool) (o : Ord) (c : Scope) (d : VReg) (a : VReg)
  /-- Ordered global halfword store with optional release. (R171) -/
  | stlB16 (sw : Bool) (o : Ord) (c : Scope) (d : VReg) (a : VReg)
  /-- Ordered global word store with optional release. (R171) -/
  | stlB32 (sw : Bool) (o : Ord) (c : Scope) (d : VReg) (a : VReg)
  /-- Ordered global doubleword store with optional release. (R171) -/
  | stlB64 (sw : Bool) (o : Ord) (c : Scope) (d : VReg) (a : VReg)
  /-- Wait for loads, then apply acquire effects at the scope. (R172) -/
  | fenceAcq (sw : Bool) (c : Scope)
  /-- Wait until loads and stores are complete. (R172) -/
  | fenceRel (sw : Bool) (c : Scope)
  /-- Release fence followed by acquire fence. (R172) -/
  | fenceAr (sw : Bool) (c : Scope)
  /-- Acquire-release fence plus PKG-scope acquire effects. (R172) -/
  | fenceSc (sw : Bool) (c : Scope)
  /-- Lane copy of 4 bytes per lane from global to scratchpad into the open batch. (R173) -/
  | lcpy4 (sw : Bool) (d : VReg) (b : SReg) (v : VReg)
  /-- Lane copy of 8 bytes per lane. (R173) -/
  | lcpy8 (sw : Bool) (d : VReg) (b : SReg) (v : VReg)
  /-- Lane copy of 16 bytes per lane. (R173) -/
  | lcpy16 (sw : Bool) (d : VReg) (b : SReg) (v : VReg)
  /-- Lane copy of 32 bytes per lane. (R173) -/
  | lcpy32 (sw : Bool) (d : VReg) (b : SReg) (v : VReg)
  /-- Park until a 64-bit memory value equals the scalar. (R175) -/
  | waitvEq (sw : Bool) (a : SReg) (v : SReg)
  /-- Park until a 64-bit memory value differs from the scalar. (R175) -/
  | waitvNe (sw : Bool) (a : SReg) (v : SReg)
  /-- Park until a 64-bit memory value is unsigned at least the scalar. (R175) -/
  | waitvGe (sw : Bool) (a : SReg) (v : SReg)
  /-- Park until a 64-bit memory value is unsigned below the scalar. (R175) -/
  | waitvLt (sw : Bool) (a : SReg) (v : SReg)
  /-- Prefetch a line into this die's L2. (R176) -/
  | prefL2 (sw : Bool) (b : SReg) (i : BitVec 10)
  /-- Prefetch a line into this die's L2 and this core's L1. (R176) -/
  | prefL1 (sw : Bool) (b : SReg) (i : BitVec 10)
  /-- Drop this die's guest copy of a line. (R176) -/
  | prefGinv (sw : Bool) (b : SReg) (i : BitVec 10)
  /-- Write a dirty home line back to HBM4 and keep it clean. (R176) -/
  | prefWb (sw : Bool) (b : SReg) (i : BitVec 10)
  /-- Create a MATRIX foal accumulating a dense 64x64 tile per block into D from register fragments. (R182) -/
  | mmaDense (sw : Bool) (d : VReg) (a : VReg) (b : VReg) (fx : Fx)
  /-- Create a MATRIX foal with 2:4 sparse A and index words from AUX. (R185) -/
  | mmaSp (sw : Bool) (d : VReg) (a : VReg) (b : VReg) (fx : Fx)
  /-- Create a MATRIX foal whose accumulator starts at +0. (R182) -/
  | mmaZ (sw : Bool) (d : VReg) (a : VReg) (b : VReg) (fx : Fx)
  /-- Create a scratchpad tile MATRIX foal accumulating into C. (R189) -/
  | tmmaAcc (sw : Bool) (r : SReg) (m : BitVec 2) (n : BitVec 2) (fx : Fx)
  /-- Create a scratchpad tile MATRIX foal starting C at +0. (R189) -/
  | tmmaZ (sw : Bool) (r : SReg) (m : BitVec 2) (n : BitVec 2) (fx : Fx)
  /-- Load an A fragment from a scratchpad tile into registers. (R166) -/
  | tlda (sw : Bool) (d : VReg) (a : SReg) (w : BitVec 2) (p : BitVec 7)
  /-- Load a B fragment from a scratchpad tile into registers. (R166) -/
  | tldb (sw : Bool) (d : VReg) (a : SReg) (w : BitVec 2) (p : BitVec 7)
  /-- Store a D fragment from registers into a scratchpad tile. (R166) -/
  | tstd (sw : Bool) (d : VReg) (a : SReg) (w : BitVec 2) (p : BitVec 7)
  /-- Load a D fragment from a scratchpad tile into registers. (R166) -/
  | tldd (sw : Bool) (d : VReg) (a : SReg) (w : BitVec 2) (p : BitVec 7)
  /-- Create a COPY foal streaming global memory into scratchpad. (R204) -/
  | cpyGs (sw : Bool) (r : SReg) (b : SReg) (fx : Fx)
  /-- Create a COPY foal streaming scratchpad into global memory. (R204) -/
  | cpySg (sw : Bool) (r : SReg) (b : SReg) (fx : Fx)
  /-- Create a COPY foal streaming global memory to global memory. (R204) -/
  | cpyGg (sw : Bool) (r : SReg) (b : SReg) (fx : Fx)
  /-- Create a COPY foal streaming scratchpad into a peer workgroup's scratchpad. (R204) -/
  | cpySs (sw : Bool) (r : SReg) (b : SReg) (fx : Fx)
  /-- Create a looping COPY foal that fills ring slots. (R214) -/
  | cplFill (sw : Bool) (r : SReg) (g : SReg) (fx : Fx)
  /-- Create a looping COPY foal that drains ring slots. (R214) -/
  | cplDrain (sw : Bool) (r : SReg) (g : SReg) (fx : Fx)
  /-- Seal the open lane-copy batch into a LANEBATCH foal and open the next slot. (R216) -/
  | lcseal (sw : Bool) (t : SReg)
  /-- Create a COLL foal performing an all-reduce. (R218) -/
  | collAr (sw : Bool) (r : SReg) (b : SReg) (fx : Fx)
  /-- Create a COLL foal performing an all-gather. (R218) -/
  | collAg (sw : Bool) (r : SReg) (b : SReg) (fx : Fx)
  /-- Create a COLL foal performing a reduce-scatter. (R218) -/
  | collRs (sw : Bool) (r : SReg) (b : SReg) (fx : Fx)
  /-- Create a COLL foal performing a broadcast. (R218) -/
  | collBc (sw : Bool) (r : SReg) (b : SReg) (fx : Fx)
  /-- Park while a foal runs, then return its status. (R221) -/
  | fwait (sw : Bool) (d : SReg) (b : SReg)
  /-- As FWAIT, trapping FOAL_FAULT on a faulted foal. (R221) -/
  | fwaitT (sw : Bool) (d : SReg) (b : SReg)
  /-- Return a foal's status now and set scc if it has ended. (R221) -/
  | ftest (sw : Bool) (d : SReg) (b : SReg)
  /-- Park until every attached foal has ended and count the faulted ones. (R221) -/
  | fwaitall (sw : Bool) (d : SReg)
  /-- Request cancellation of a foal at its next boundary. (R222) -/
  | fcancel (sw : Bool) (b : SReg)
  /-- Detach a foal for adoption. (R222) -/
  | fdetach (sw : Bool) (b : SReg)
  /-- Set a foal's priority from its next boundary. (R222) -/
  | fprio (sw : Bool) (b : SReg) (a : Src)
  /-- Read one 8-byte word of a foal record. (R222) -/
  | fstat (sw : Bool) (d : SReg) (b : SReg) (a : Src)
  /-- Declare a matrix burst of an intensity, onset and length. (R223) -/
  | pwrhD (sw : Bool) (i : BitVec 4) (o : BitVec 4) (l : BitVec 4)
  /-- Ask to extend the held declaration. (R223) -/
  | pwrhX (sw : Bool) (l : BitVec 4)
  /-- End the held declaration and return its grant. (R223) -/
  | pwrhE (sw : Bool)
  /-- Set scc if the team's declaration is granted or active. (R223) -/
  | pwrhQ (sw : Bool)
  /-- Park while no slot is filled, then acquire the next ring slot. (R212) -/
  | racq (sw : Bool) (d : SReg) (b : SReg)
  /-- Release the oldest held ring slot to the engine. (R212) -/
  | rrel (sw : Bool) (b : SReg)
  /-- Initialise a ring descriptor and its slot barriers as fill or drain ring. (R213) -/
  | rinit (sw : Bool) (b : SReg) (a : Src)
  /-- Read the ring counts and indexes atomically. (R212) -/
  | rstat (sw : Bool) (d : SReg) (b : SReg)
  /-- Initialise a transaction barrier with ARRIVE0 and SECT0. (R210) -/
  | tbinit (sw : Bool) (b : SReg) (a : Src)
  /-- Arrive at a transaction barrier after loads and stores complete. (R210) -/
  | tbarv (sw : Bool) (d : SReg) (b : SReg)
  /-- Park until a transaction barrier leaves a phase or faults. (R210) -/
  | tbwait (sw : Bool) (d : SReg) (b : SReg) (a : Src)
  /-- Add expected sectors to a transaction barrier. (R210) -/
  | tbexp (sw : Bool) (b : SReg) (a : Src)
  /-- Post a launch packet into a queue. (R224) -/
  | qpostL (sw : Bool) (d : SReg) (b : SReg) (a : Src)
  /-- Post a range packet into a queue. (R224) -/
  | qpostR (sw : Bool) (d : SReg) (b : SReg) (a : Src)
  /-- Post a signal packet into a queue. (R224) -/
  | qpostS (sw : Bool) (d : SReg) (b : SReg) (a : Src)
  /-- Take the next leaf of the range, stealing if the interval is empty. (R225) -/
  | rtake (sw : Bool) (d : SReg)
  /-- Split this workgroup's interval at its midpoint. (R225) -/
  | rsplit (sw : Bool) (d : SReg)
  /-- Report range iterations done. (R225) -/
  | rdone (sw : Bool) (b : SReg)
  /-- Add a signed value to the own entity's completion counter. (R226) -/
  | cntAdd (sw : Bool) (d : SReg) (l : BitVec 3) (a : Src)
  /-- Park until an entity's counter is at most a value. (R226) -/
  | cntWait (sw : Bool) (d : SReg) (l : BitVec 3) (a : Src)
  /-- Read an entity's completion counter. (R226) -/
  | cntRd (sw : Bool) (d : SReg) (l : BitVec 3) (a : Src)
  /-- Start the cancel of an entity. (R226) -/
  | cntCncl (sw : Bool) (l : BitVec 3) (a : Src)
  /-- Raise SWTRAP with a software code after loads and stores complete. (R229) -/
  | trap (sw : Bool) (i : BitVec 16)
  /-- Raise BRK with a breakpoint number. (R229) -/
  | brk (sw : Bool) (i : BitVec 16)
  /-- Park the control-core thread until an exception is pending. (R230) -/
  | halt (sw : Bool)
  /-- Read a control and status register. (R233) -/
  | csrr (sw : Bool) (d : SReg) (a : Src)
  /-- Swap a scalar into a control and status register. (R233) -/
  | csrw (sw : Bool) (d : SReg) (b : SReg) (a : Src)
  /-- Set bits of a control and status register. (R233) -/
  | csrs (sw : Bool) (d : SReg) (b : SReg) (a : Src)
  /-- Clear bits of a control and status register. (R233) -/
  | csrc (sw : Bool) (d : SReg) (b : SReg) (a : Src)
  /-- Restore LEVEL and IE and return to EPC and EIDX. (R232) -/
  | eret (sw : Bool)
  /-- Post invalidation of the translations of one 64 KiB page of partition PSEL. (R237) -/
  | tlbiVa (sw : Bool) (a : Src)
  /-- Post invalidation of all translations of a partition. (R237) -/
  | tlbiPart (sw : Bool) (a : Src)
  /-- Post invalidation of all translations of all partitions. (R237) -/
  | tlbiAll (sw : Bool)
  /-- Park until earlier invalidations and accesses through removed entries are complete. (R238) -/
  | tlbiSync (sw : Bool)
  /-- Read a partition meter. (R239) -/
  | mrdc (sw : Bool) (d : SReg) (a : Src)
  /-- Close and sign an interim usage record into a buffer. (R240) -/
  | msign (sw : Bool) (d : SReg) (b : SReg) (a : Src)
  /-- Read an item of a trapped team's state by handle. (R242) -/
  | rctxRd (sw : Bool) (d : SReg) (b : SReg) (a : Src)
  /-- Write an item of a trapped team's state by handle. (R242) -/
  | rctxWr (sw : Bool) (d : SReg) (b : SReg) (a : Src)
  /-- Send a RESUME, RETRY or EMULATE reply to a trapped team. (R243) -/
  | rctxResume (sw : Bool) (d : SReg) (b : SReg) (a : Src)
  /-- Send a KILL_TEAM, KILL_WG or KILL_CONTEXT reply to a trapped team. (R243) -/
  | rctxKill (sw : Bool) (d : SReg) (b : SReg) (a : Src)
  /-- Arm a verified timetable entry. (R244) -/
  | switchArm (sw : Bool) (d : SReg) (b : SReg)
  /-- Arm a verified urgent timetable entry. (R244) -/
  | switchUrgent (sw : Bool) (d : SReg) (b : SReg)
  /-- Disarm an armed entry if its START is at least 3 us away. (R244) -/
  | switchCancel (sw : Bool) (d : SReg) (a : Src)
  /-- Check a configuration block and begin creating a partition. (R245) -/
  | partCreate (sw : Bool) (d : SReg) (b : SReg) (a : Src)
  /-- Kill every context of a partition, write back its lines, emit the final record and clear LIVE. (R245) -/
  | partDestroy (sw : Bool) (d : SReg) (a : Src)
  /-- Replace one ownership bitmap of a live partition. (R246) -/
  | partBitmap (sw : Bool) (d : SReg) (b : SReg) (a : Src)
  /-- Set a partition's fill mask for a slice or all slices. (R246) -/
  | partWays (sw : Bool) (d : SReg) (b : SReg) (a : Src)
  /-- Read 8 bytes of capability space. (R247) -/
  | capr (sw : Bool) (d : SReg) (a : Src)
  /-- Fetch a whole clause and check its header before its first word issues. (R25) -/
  | clauseFetch
  /-- A parked team or control-core thread leaves its park when its reason clears and completes the instruction that parked. (R53) -/
  | parkResume (h : Nat)
  /-- A load or atomic return lands in its destination lanes and lowers the load count. (R164) -/
  | loadReturn (t : Nat) (r : Nat) (lanes : BitVec 1024)
  /-- The home's acknowledgement of a store arrives and lowers the store count. (R164) -/
  | storeAck (t : Nat) (r : Nat)
  /-- A home slice performs a write or atomic in home order once its causal predecessors are applied. (R302) -/
  | homeWriteApply (t : Nat) (r : Nat) (lane : Nat)
  /-- A home invalidation arrives at a die and drops its guest copy. (R300) -/
  | guestInvalidation (die : Nat)
  /-- A missed line returns from HBM4 and fills a way chosen by the fill mask. (R377) -/
  | lineFill (k : Nat)
  /-- A table walk ends and its result is given to every coalesced access. (R395) -/
  | translationWalkComplete (core : Nat) (part : Nat) (va : Addr)
  /-- A lane copy writes its bytes to scratchpad and lowers its batch counter. (R173) -/
  | laneCopyLand (t : Nat) (c : Nat)
  /-- The sleep count of a team runs out and it may issue again. (R118) -/
  | sleepEnd (t : Nat)
  /-- A TIMER or TIMERA deadline is reached and traps at the next boundary. (R125) -/
  | timerFire (t : Nat)
  /-- WDLEFT reaches 0 and the team traps WATCHDOG. (R375) -/
  | watchdogExpire (t : Nat)
  /-- A trapped team's fault record is sent to the fault server once its counts are 0 and the queue has room. (R371) -/
  | faultRecordSend (t : Nat)
  /-- The matrix engine completes a step and chooses the next startable foal. (R177) -/
  | matrixStep (core : Nat)
  /-- The streamer translates and issues the next sector read of a COPY foal. (R205) -/
  | copySectorIssue (core : Nat) (slot : Nat)
  /-- A sector's read returns and the sector lands, decrementing its barrier. (R205) -/
  | copySectorLand (core : Nat) (slot : Nat) (n : Nat)
  /-- A looping copy starts its next iteration once a slot is free. (R215) -/
  | cplIterationStart (core : Nat) (slot : Nat)
  /-- A collective engine sends the next chunk to the next member. (R218) -/
  | collChunkSend (core : Nat) (slot : Nat)
  /-- A chunk packet arrives and is delivered, penned, dropped or refused. (R361) -/
  | fabricChunkReceive (port : Nat) (f : Frame)
  /-- An acknowledgement packet arrives and updates ACKED or is penned. (R361) -/
  | fabricAckReceive (port : Nat) (f : Frame)
  /-- A refusal arrives and the sender rewinds or schedules a resend. (R361) -/
  | fabricRefusalReceive (port : Nat) (f : Frame)
  /-- A cancel or mismatch notice arrives, is acted on and passed on. (R218) -/
  | fabricNoticeReceive (port : Nat) (f : Frame)
  /-- A class 4 trap record arrives and is written at TQTAIL. (R371) -/
  | trapRecordReceive (port : Nat) (f : Frame)
  /-- A class 5 trap reply or RCTX access arrives for a handle. (R243) -/
  | trapReplyReceive (port : Nat) (f : Frame)
  /-- A frame carrying only LACK frees acknowledged retry-buffer frames. (R419) -/
  | linkAckFrameReceive (port : Nat) (f : Frame)
  /-- A frame for another package is forwarded by the route table. (R418) -/
  | frameForward (port : Nat) (f : Frame)
  /-- No LACK for 5 us: resend every unacknowledged frame. (R419) -/
  | linkRetryTimeout (port : Nat)
  /-- A port comes up and waiting trap frames are sent. (R419) -/
  | portLinkUp (port : Nat)
  /-- A refused acknowledgement or notice is sent again after 10 us. (R361) -/
  | ackResendTimer (k : Nat)
  /-- A PTP Sync message is timestamped and used to discipline TIME. (R345) -/
  | ptpSyncReceive (port : Nat) (m : PtpMsg)
  /-- A Pdelay_Req arrives and is answered. (R345) -/
  | ptpPdelayReqReceive (port : Nat) (m : PtpMsg)
  /-- A Pdelay_Resp arrives for the peer delay measurement. (R345) -/
  | ptpPdelayRespReceive (port : Nat) (m : PtpMsg)
  /-- A Pdelay_Resp_Follow_Up arrives completing the peer delay measurement. (R345) -/
  | ptpPdelayRespFollowUp (port : Nat) (m : PtpMsg)
  /-- A PTP management message is received and discarded. (R345) -/
  | ptpManagementReceive (port : Nat) (m : PtpMsg)
  /-- The sync interval of a port elapses and a Sync is sent. (R345) -/
  | ptpSyncInterval (port : Nat)
  /-- The Pdelay request interval elapses and a Pdelay_Req is sent. (R345) -/
  | ptpPdelayReqInterval (port : Nat)
  /-- The package loses its PTP parent and TIME runs free. (R344) -/
  | holdoverEnter
  /-- The package locks to its grandmaster and leaves holdover. (R344) -/
  | ptpLock (tai : BitVec 64)
  /-- A candidate sends its 1 ms heartbeat. (R347) -/
  | heartbeatSend
  /-- A heartbeat arrives carrying the sender's EPOCH. (R347) -/
  | heartbeatReceive (src : Nat) (epoch : Nat) (won : Option Nat)
  /-- Three heartbeats missed: propose a new EPOCH and ask for votes. (R347) -/
  | heartbeatLoss
  /-- A vote request arrives and the package votes at most once for the EPOCH. (R347) -/
  | voteRequestReceive (src : Nat) (epoch : Nat)
  /-- A vote arrives and a majority makes the candidate bellwether. (R347) -/
  | voteReceive (src : Nat) (epoch : Nat) (cand : Nat)
  /-- A timetable page arrives and is verified, accepted or rejected. (R348) -/
  | timetablePageReceive (pa : Nat) (page : List Byte)
  /-- The bellwether receives an urgent request and publishes an urgent page. (R363) -/
  | urgentRequestReceive (part : Nat) (job : BitVec 32) (inc : BitVec 8) (len : BitVec 32)
  /-- At START - 2 us, fabric injection of the outgoing job stops. (R360) -/
  | injectionStop (k : Nat)
  /-- At an armed START, the partition's cores stop issuing at boundaries. (R352) -/
  | switchStart (k : Nat)
  /-- Every team is at a boundary and MMA foals are drained; foals freeze and the drain window opens. (R353) -/
  | haltComplete (core : Nat)
  /-- The 2 us drain window closes and outstanding work is classified. (R354) -/
  | drainWindowClose (core : Nat)
  /-- The context image is written after the awaited acknowledgements. (R365) -/
  | contextSaveComplete (core : Nat)
  /-- A saved image is verified and loaded onto a core that can accept it. (R367) -/
  | contextRestore (part : Nat) (n : Nat) (core : Nat)
  /-- A restored context's held first issue is released after its overrun sum. (R357) -/
  | overrunHoldEnd (core : Nat)
  /-- 20 us after START an incomplete halt kills its core context. (R357) -/
  | switchWatchdogExpire (part : Nat)
  /-- START + LEN passes and the slot's usage record closes. (R351) -/
  | slotEnd (part : Nat)
  /-- Every 100 ms a partition without entries gets a KIND 2 record. (R402) -/
  | usageRecordPeriodic (part : Nat)
  /-- Trapped teams exceed PARKTH and the core context is saved. (R373) -/
  | coreSwitchOut (core : Nat)
  /-- Every counted team has its reply and the context is restored. (R373) -/
  | coreSwitchIn (part : Nat) (n : Nat) (core : Nat)
  /-- At each 10 us boundary the admission and package controllers act. (R274) -/
  | controlIntervalBoundary (m : Measure)
  /-- A granted window begins and held MATRIX foals start. (R277) -/
  | powerWindowStart (t : Nat)
  /-- A granted window ends and its units are returned. (R277) -/
  | powerWindowEnd (t : Nat)
  /-- An undeclared foal's 16 us of throttled run time ends. (R281) -/
  | undeclaredThrottleEnd (core : Nat) (slot : Nat)
  /-- The queue monitor pops and checks the packet at READ of the chosen queue. (R321) -/
  | queuePop (part : Nat)
  /-- A signal packet writes ARGS to SIGNAL after earlier packets end. (R323) -/
  | signalPacketWrite (part : Nat) (q : Nat)
  /-- Every 1 ms the monitor retries an untranslatable queue descriptor. (R320) -/
  | queueTranslationRetry (part : Nat)
  /-- The next workgroup of a popped launch becomes resident on a core. (R328) -/
  | workgroupPlace (e : Nat) (core : Nat)
  /-- A control-core thread takes a pending event as an exception. (R231) -/
  | controlEventException (h : Nat)
  /-- PART.CREATE finishes installing and scrubbing, emits the first record and sets LIVE. (R387) -/
  | partCreateComplete (part : Nat)
  /-- An L2 tag parity error invalidates a line and may poison affected partitions. (R398) -/
  | l2TagError (slice : Nat) (set : Nat) (way : Nat) (unknown : Bool)
  /-- An uncorrectable L2 data error refetches or poisons the line. (R398) -/
  | l2DataError (slice : Nat) (set : Nat) (way : Nat)
  /-- An uncorrectable HBM4 error poisons a 64-byte block. (R398) -/
  | hbm4Uncorrectable (pa : Nat)
  /-- An error in a guest copy, L1 line or translation entry invalidates it. (R398) -/
  | copySramError (c : CopyUnit)
  /-- A PCIe memory write to a function's BAR is performed. (R412) -/
  | hostMemoryWrite (link : Nat) (fn : Nat) (bar : Nat) (off : Nat) (bytes : List Byte)
  /-- A PCIe memory read to a function's BAR is completed. (R412) -/
  | hostMemoryRead (link : Nat) (fn : Nat) (bar : Nat) (off : Nat) (len : Nat)
  /-- A PCIe configuration request is served or retried. (R420) -/
  | hostConfigRequest (link : Nat) (fn : Nat) (off : Nat)
  /-- A write to an MSI-X vector control unmasks it and fires a pending event. (R413) -/
  | msixVectorUnmask (fn : Nat) (vec : Nat)
  /-- A write of 1 to GO starts an attestation report. (R407) -/
  | attestGo (w : Nat)
  /-- The signed report is written and ASTAT becomes done or failed. (R407) -/
  | attestComplete (w : Nat)
  /-- A write to STARTREQ requests a cold or warm start. (R414) -/
  | startRequest (v : BitVec 64)
  /-- A write to PORTCFG takes effect whole, or is ignored if out of range. (R415) -/
  | portcfgWrite (port : Nat) (v : BitVec 64)
  /-- A write to a management register without a row of its own. (R414) -/
  | registerWrite (off : Nat) (v : BitVec 64)
  /-- Power-on resets TIME and starts a cold start. (R422) -/
  | powerOn
  /-- A start step finishes; the next begins, the start fails, or READY rises. (R420) -/
  | startStepComplete (ok : StepReport)
  /-- A sensor reaches 110 C: every context is killed and the compute dies power off. (R411) -/
  | thermalShutdown
  /-- Coolant flow below 5 L/min for 1 s shuts the package down. (R411) -/
  | flowShutdown
  /-- The input supply leaves 40-60 V and the package throttles or shuts down. (R411) -/
  | supplyOutOfRange (atLimit : Bool)
  /-- A word with OP 0x00 or 0x61 to 0x7F, or a reserved FN value, reaches issue and raises ILLEGAL_OPCODE. (R27) -/
  | reservedOpcodeIssue (w : Word)
  /-- PART.DESTROY finishes writing back and invalidating the partition's L2 lines, emits the final KIND 4 usage record and clears LIVE. (R389) -/
  | partDestroyComplete (part : Nat)
  /-- A fabric frame with a bad FCS arrives, is discarded, and the receiver sends LACK at once. (R419) -/
  | badFcsFrameReceive (port : Nat)
  /-- Coolant inlet temperature or flow leaves its operating range short of the shutdown limits, and the package lowers FSTEP and throttles every cluster. (R411) -/
  | coolantOutOfRange
  /-- The input supply or the coolant returns within its operating range, and the package lifts the throttle it had imposed. (R411) -/
  | operatingConditionsRestored
  deriving DecidableEq, Repr

end Sys2Proof
end

