-- ==== Sys2Proof/Machine/Flags.lean ====
section
/-! DEFINITION. The floating-point sticky flags of R67 and R87. -/

namespace Sys2Proof.Machine

/-- FLAGS[4:0]: NV, DZ, OF, UF, NX from bit 0 up (R67). -/
abbrev FFlags := BitVec 5

def FFlags.none : FFlags := 0#5
def FFlags.nv : FFlags := 1#5
def FFlags.dz : FFlags := 2#5
def FFlags.of : FFlags := 4#5
def FFlags.uf : FFlags := 8#5
def FFlags.nx : FFlags := 16#5

/-- A flag, raised when a condition holds. -/
def FFlags.cond (b : Bool) (f : FFlags) : FFlags := if b then f else FFlags.none

/-- Flags merge by OR (R88). -/
def FFlags.merge (fs : List FFlags) : FFlags := fs.foldl (· ||| ·) FFlags.none

/-- SSET of FLAGS: each 1 of the written value clears its flag (R67). -/
def FFlags.clear (f : FFlags) (w : BitVec 5) : FFlags := f &&& ~~~w

end Sys2Proof.Machine
end

