-- ==== Sys2Proof/Machine/Float.lean ====
section
/-! DEFINITION. Floating-point formats, exact values, and the one rounding into a format (R74-R88). A value is a sign, a
magnitude `m` and an exponent `e` meaning m * 2^e, so that sums and products are exact; every operation rounds once. -/

namespace Sys2Proof.Machine

/-- A floating-point format (R74). `fn8` marks F8E4, whose special encodings are its own (R75). -/
structure Fmt where
  ebits : Nat
  fbits : Nat
  bias : Nat
  /-- F8E4: no infinities, one NaN, one zero -/
  fn8 : Bool
  /-- FP8 destinations saturate on overflow (R84) -/
  sat : Bool
  deriving DecidableEq, Repr

def Fmt.fp32 : Fmt := ⟨8, 23, 127, false, false⟩
def Fmt.fp16 : Fmt := ⟨5, 10, 15, false, false⟩
def Fmt.bf16 : Fmt := ⟨8, 7, 127, false, false⟩
def Fmt.f8e4 : Fmt := ⟨4, 3, 7, true, true⟩
def Fmt.f8e5 : Fmt := ⟨5, 2, 15, false, true⟩

/-- Width of the exponent and fraction together. -/
def Fmt.mag (f : Fmt) : Nat := f.ebits + f.fbits

/-- The sign bit as a number. -/
def Fmt.signBit (f : Fmt) (neg : Bool) : Nat := if neg then 2 ^ f.mag else 0

/-- Magnitude code of the largest finite value (R74). -/
def Fmt.maxMag (f : Fmt) : Nat :=
  if f.fn8 then 2 ^ f.mag - 1 else (2 ^ f.ebits - 1) * 2 ^ f.fbits - 1

/-- Magnitude code of infinity. -/
def Fmt.infMag (f : Fmt) : Nat := (2 ^ f.ebits - 1) * 2 ^ f.fbits

/-- The canonical NaN (R75). -/
def Fmt.nan (f : Fmt) : Nat :=
  if f.fn8 then 2 ^ f.mag else f.infMag + 2 ^ (f.fbits - 1)

/-- Exponent of the least significant bit of a subnormal. -/
def Fmt.emin (f : Fmt) : Int := 1 - (f.bias : Int) - (f.fbits : Int)

/-- An exact value. -/
inductive FVal where
  /-- NaN; true if signalling -/
  | nan (sig : Bool)
  | inf (neg : Bool)
  /-- (-1)^neg * m * 2^e, with a signed zero where m = 0 -/
  | fin (neg : Bool) (m : Nat) (e : Int)
  deriving DecidableEq, Repr

/-- The value a code of a format holds (R74, R75). -/
def Fmt.value (f : Fmt) (c : Nat) : FVal :=
  let neg := c.testBit f.mag
  let m := c % 2 ^ f.mag
  let ex := m / 2 ^ f.fbits
  let fr := m % 2 ^ f.fbits
  if f.fn8 then
    if neg && m == 0 then .nan false
    else if ex == 0 then .fin neg fr f.emin
    else .fin neg (2 ^ f.fbits + fr) (f.emin + ex - 1)
  else if ex == 2 ^ f.ebits - 1 then
    if fr == 0 then .inf neg else .nan (!fr.testBit (f.fbits - 1))
  else if ex == 0 then .fin neg fr f.emin
  else .fin neg (2 ^ f.fbits + fr) (f.emin + ex - 1)

def FVal.isNan : FVal → Bool
  | .nan _ => true
  | .inf _ => false
  | .fin _ _ _ => false

def FVal.isSig : FVal → Bool
  | .nan s => s
  | .inf _ => false
  | .fin _ _ _ => false

def FVal.isInf : FVal → Bool
  | .inf _ => true
  | .nan _ => false
  | .fin _ _ _ => false

def FVal.isZero : FVal → Bool
  | .fin _ m _ => m == 0
  | .nan _ => false
  | .inf _ => false

def FVal.isNeg : FVal → Bool
  | .fin n _ _ => n
  | .inf n => n
  | .nan _ => false

/-- Sign reversal of a value that is not NaN. -/
def FVal.negate : FVal → FVal
  | .fin n m e => .fin (!n) m e
  | .inf n => .inf (!n)
  | .nan s => .nan s

/-- Rounding modes (R77). -/
inductive RMode where
  | rne | rtz | dn | up
  deriving DecidableEq, Repr

/-- Whether a magnitude q + r/2^sh rounds up to q + 1; `above`, `tie` compare the discarded part with one half. -/
def RMode.roundsUp (k : RMode) (neg : Bool) (odd above tie inexact : Bool) : Bool :=
  match k with
  | .rne => above || (tie && odd)
  | .rtz => false
  | .dn => neg && inexact
  | .up => !neg && inexact

/-- m * 2^e rounded to a multiple of 2^q: the multiple and whether it is inexact. -/
def roundAt (k : RMode) (neg : Bool) (m : Nat) (e q : Int) : Nat × Bool :=
  if e ≥ q then (m <<< (e - q).toNat, false)
  else
    let sh := (q - e).toNat
    if sh > m.log2 + 2 then
      (if k.roundsUp neg false false false (m != 0) then 1 else 0, m != 0)
    else
      let n := m >>> sh
      let r := m % 2 ^ sh
      let h := 2 ^ (sh - 1)
      let up := k.roundsUp neg (n % 2 == 1) (r > h) (r == h) (r != 0)
      (if up then n + 1 else n, r != 0)

/-- A rounded result: the code and the flags it raises. -/
structure FRes where
  bits : Nat
  flags : FFlags
  deriving DecidableEq, Repr

/-- R79 and R84: what an overflow gives. -/
def Fmt.overflow (f : Fmt) (k : RMode) (neg : Bool) : Nat :=
  f.signBit neg +
    (if f.sat then f.maxMag
     else match k with
      | .rne => f.infMag
      | .rtz => f.maxMag
      | .dn => if neg then f.infMag else f.maxMag
      | .up => if neg then f.maxMag else f.infMag)

/-- The code of a zero: F8E4 has no negative zero (R75). -/
def Fmt.zero (f : Fmt) (neg : Bool) : Nat := if f.fn8 then 0 else f.signBit neg

/-- The one rounding of a finite value into a format (R77-R80, R84). -/
def Fmt.roundFin (f : Fmt) (k : RMode) (neg : Bool) (m : Nat) (e : Int) : FRes :=
  if m == 0 then ⟨f.zero neg, FFlags.none⟩
  else
    let q0 := e + (m.log2 : Int) - (f.fbits : Int)
    let u := roundAt k neg m e q0
    let q := if q0 < f.emin then f.emin else q0
    let b := if q0 < f.emin then roundAt k neg m e q else u
    -- magnitudes beyond every format's range are not laid out bit by bit
    let big := q0 > f.emin + 2 ^ f.ebits
    let mag := if big then f.maxMag + 1 else (q - f.emin).toNat * 2 ^ f.fbits + b.1
    if mag > f.maxMag then ⟨f.overflow k neg, FFlags.of ||| FFlags.nx⟩
    else
      let lim : Int := 1 - (f.bias : Int)
      -- tiny: the unbounded rounding, nonzero, lies below the smallest normal (R84)
      let tiny := q0 < f.emin && !(u.1 == 2 ^ (f.fbits + 1) && q0 + (f.fbits : Int) + 1 ≥ lim)
      ⟨if mag == 0 then f.zero neg else f.signBit neg + mag,
        FFlags.cond b.2 FFlags.nx ||| FFlags.cond (tiny && b.2) FFlags.uf⟩

/-- A value rounded into a format, with no flags for what its operands were. F8E4 takes an infinity to ±480 with NV
(R84). -/
def Fmt.round (f : Fmt) (k : RMode) : FVal → FRes
  | .nan _ => ⟨f.nan, FFlags.none⟩
  | .inf n => if f.fn8 then ⟨f.signBit n + f.maxMag, FFlags.nv⟩ else ⟨f.signBit n + f.infMag, FFlags.none⟩
  | .fin n m e => f.roundFin k n m e

/-- NV for a signalling operand (R83). -/
def sigFlag (vs : List FVal) : FFlags := FFlags.cond (vs.any FVal.isSig) FFlags.nv

/-- An exact product (R81), and whether it is the invalid 0 × infinity. -/
def FVal.mul : FVal → FVal → FVal × Bool
  | .nan s, .nan t => (.nan (s || t), false)
  | .nan s, .inf _ => (.nan s, false)
  | .nan s, .fin _ _ _ => (.nan s, false)
  | .inf _, .nan s => (.nan s, false)
  | .fin _ _ _, .nan s => (.nan s, false)
  | .inf a, .inf b => (.inf (a != b), false)
  | .inf a, .fin b m _ => if m == 0 then (.nan false, true) else (.inf (a != b), false)
  | .fin a m _, .inf b => if m == 0 then (.nan false, true) else (.inf (a != b), false)
  | .fin a m e, .fin b n g => (.fin (a != b) (m * n) (e + g), false)

/-- The smallest exponent among finite non-zero terms. -/
def minExp : List FVal → Option Int
  | [] => none
  | .fin _ m e :: r =>
    if m == 0 then minExp r
    else match minExp r with
      | none => some e
      | some g => some (if e < g then e else g)
  | .nan _ :: r => minExp r
  | .inf _ :: r => minExp r

/-- A finite term as an integer multiple of 2^e0. -/
def FVal.scaled (e0 : Int) : FVal → Int
  | .fin n m e => if m == 0 then 0 else
      let v : Int := ((m <<< (e - e0).toNat : Nat) : Int)
      if n then -v else v
  | .nan _ => 0
  | .inf _ => 0

/-- An exact sum (R80, R81), and whether it is infinity − infinity. DESIGN CHOICE: beside a NaN term, infinities of both signs
do not count as infinity − infinity (R87, R142; log 64). -/
def FVal.sum (ts : List FVal) : FVal × Bool :=
  let pos := ts.any (· == .inf false)
  let neg := ts.any (· == .inf true)
  if ts.any FVal.isNan then (.nan false, false)
  else if pos && neg then (.nan false, true)
  else if pos then (.inf false, false)
  else if neg then (.inf true, false)
  else
    match minExp ts with
    | none => (.fin (!ts.isEmpty && ts.all FVal.isNeg) 0 0, false)
    | some e0 =>
      let v := ts.foldl (fun a t => a + t.scaled e0) (0 : Int)
      if v == 0 then (.fin false 0 0, false) else (.fin (v < 0) v.natAbs e0, false)

/-- Sum of exact terms rounded once in RNE. -/
def Fmt.addTerms (f : Fmt) (ts : List FVal) : FRes :=
  let s := FVal.sum ts
  let r := f.round .rne s.1
  ⟨r.bits, r.flags ||| FFlags.cond s.2 FFlags.nv ||| sigFlag ts⟩

/-- VFADD on one element (R80, R81). -/
def Fmt.add (f : Fmt) (a b : Nat) : FRes := f.addTerms [f.value a, f.value b]

/-- VFSUB: b − a is formed by the caller as a sum with the second operand's sign reversed; a NaN keeps its kind. -/
def Fmt.sub (f : Fmt) (a b : Nat) : FRes := f.addTerms [f.value a, (f.value b).negate]

/-- VFMUL on one element. -/
def Fmt.mul (f : Fmt) (a b : Nat) : FRes :=
  let p := (f.value a).mul (f.value b)
  let r := f.round .rne p.1
  ⟨r.bits, r.flags ||| FFlags.cond p.2 FFlags.nv ||| sigFlag [f.value a, f.value b]⟩

/-- D plus products, formed exactly and rounded once into `g` (VFMA, VFDOT; R80). -/
def dotAdd (f g : Fmt) (d : Nat) (ps : List (Nat × Nat)) : FRes :=
  let vs := ps.map fun p => (f.value p.1).mul (f.value p.2)
  let s := FVal.sum (g.value d :: vs.map (·.1))
  let r := g.round .rne s.1
  ⟨r.bits, r.flags ||| FFlags.cond (s.2 || vs.any (·.2)) FFlags.nv |||
    sigFlag (g.value d :: (ps.map fun p => f.value p.1) ++ ps.map fun p => f.value p.2)⟩

/-- A × B + D with one rounding. -/
def Fmt.fma (f : Fmt) (a b d : Nat) : FRes := dotAdd f f d [(a, b)]

/-- A finite value or infinity as an ordering key: compares two values neither of which is NaN; −0 below +0 when
`zeros`. -/
def FVal.lt (zeros : Bool) (a b : FVal) : Bool :=
  match a, b with
  | .nan _, _ => false
  | _, .nan _ => false
  | .inf n, .inf k => n && !k
  | .inf n, .fin _ _ _ => n
  | .fin _ _ _, .inf k => !k
  | .fin n m e, .fin k l g =>
    match minExp [.fin n m e, .fin k l g] with
    | none => zeros && n && !k
    | some e0 =>
      (FVal.fin n m e).scaled e0 < (FVal.fin k l g).scaled e0

/-- VFMIN and VFMAX on one element (R83). -/
def Fmt.minMax (f : Fmt) (max : Bool) (a b : Nat) : FRes :=
  let x := f.value a
  let y := f.value b
  let fl := sigFlag [x, y]
  if x.isNan && y.isNan then ⟨f.nan, fl⟩
  else if x.isNan then ⟨b, fl⟩
  else if y.isNan then ⟨a, fl⟩
  else if max then ⟨if x.lt true y then b else a, fl⟩
  else ⟨if y.lt true x then b else a, fl⟩

/-- VFCMP: `a COND b` (R83), with its NV. -/
def Fmt.cmp (f : Fmt) (c : Cmp) (a b : Nat) : Bool × FFlags :=
  let x := f.value a
  let y := f.value b
  let un := x.isNan || y.isNan
  let eq := !un && !(x.lt false y) && !(y.lt false x)
  match c with
  | .eq => (eq, sigFlag [x, y])
  | .ne => (!eq, sigFlag [x, y])
  | .lt => (x.lt false y, FFlags.cond un FFlags.nv)
  | .le => (!un && !(y.lt false x), FFlags.cond un FFlags.nv)
  | .gt => (y.lt false x, FFlags.cond un FFlags.nv)
  | .ge => (!un && !(x.lt false y), FFlags.cond un FFlags.nv)
  | .ord => (!un, sigFlag [x, y])
  | .uno => (un, sigFlag [x, y])

/-- A conversion between floating-point formats in a mode (R84, R86). -/
def Fmt.convert (src dst : Fmt) (k : RMode) (a : Nat) : FRes :=
  let v := src.value a
  let r := dst.round k v
  ⟨r.bits, r.flags ||| sigFlag [v]⟩

/-- A conversion to an integer in [lo, hi] (R85), and its flags. -/
def Fmt.toInt (f : Fmt) (k : RMode) (lo hi : Int) (a : Nat) : Int × FFlags :=
  match f.value a with
  | .nan _ => (0, FFlags.nv)
  | .inf n => (if n then lo else hi, FFlags.nv)
  | .fin n m e =>
    -- every magnitude from 2^64 up is out of every integer type's range
    if m != 0 && e + m.log2 ≥ 64 then (if n then lo else hi, FFlags.nv)
    else
      let r := roundAt k n m e 0
      let v : Int := if n then -(r.1 : Int) else (r.1 : Int)
      if v < lo then (lo, FFlags.nv)
      else if v > hi then (hi, FFlags.nv)
      else (v, FFlags.cond r.2 FFlags.nx)

/-- A conversion from an integer (R86). -/
def Fmt.ofInt (f : Fmt) (k : RMode) (v : Int) : FRes := f.roundFin k (v < 0) v.natAbs 0

/-- VFRND: the integral value in a mode, with the sign of the operand on a zero result; NV for a signalling NaN only
(R87). -/
def Fmt.toIntegral (f : Fmt) (k : RMode) (a : Nat) : FRes :=
  match f.value a with
  | .nan s => ⟨f.nan, FFlags.cond s FFlags.nv⟩
  | .inf _ => ⟨a, FFlags.none⟩
  | .fin n m e =>
    if e ≥ 0 then ⟨a, FFlags.none⟩
    else
      let r := roundAt k n m e 0
      ⟨(f.roundFin .rne n r.1 0).bits, FFlags.none⟩

/-! ### The value-index order (R99) -/

/-- Value part of a value-index word. -/
def viValue (w : Nat) : FVal := Fmt.fp16.value (w / 2 ^ 16 % 2 ^ 16)

/-- Index part. -/
def viIndex (w : Nat) : Nat := w % 2 ^ 16

/-- Whether word `a` is better than `b` by R99. -/
def viBetter (max : Bool) (a b : Nat) : Bool :=
  let x := viValue a
  let y := viValue b
  if x.isNan && y.isNan then
    viIndex a < viIndex b || (viIndex a == viIndex b && a < b)
  else if y.isNan then true
  else if x.isNan then false
  else if (if max then y.lt true x else x.lt true y) then true
  else if (if max then x.lt true y else y.lt true x) then false
  else viIndex a < viIndex b

/-- The better of two value-index words, unchanged. -/
def viPick (max : Bool) (a b : Nat) : Nat := if viBetter max b a then b else a

end Sys2Proof.Machine
end

