-- ==== Sys2Proof/WellFormed.lean ====
section
/-! DEFINITION. Well-formed instructions: those that some instruction words encode. An event row is never well-formed,
since it has no encoding. -/

namespace Sys2Proof

/-- A reserved src8 code is one of 0xE9 to 0xFE (R30). -/
def Src.wf : Src → Bool
  | .res c => (0xE8#8).ult c && c.ult 0xFF#8
  | .v _ => true
  | .s _ => true
  | .int _ => true
  | .fpc _ => true
  | .laneix => true
  | .lit _ => true

/-- DEP is zero when DEPV is 0 (R35). -/
def Fx.wf (fx : Fx) : Bool := fx.depv || fx.dep == 0#6

/-- The conditions that R27, R35, R39 and R133 put on an encoded instruction's fields. -/
def Instr.wf : Instr → Bool
  | .br _ _ => true
  | .brS1 _ _ => true
  | .brS0 _ _ => true
  | .brEz _ _ => true
  | .call _ _ => true
  | .jmp _ a => a.wf
  | .jmpl _ a => a.wf
  | .ret _ => true
  | .mpush _ _ => true
  | .mpop _ => true
  | .melse _ => true
  | .mdepth _ _ => true
  | .mand _ _ => true
  | .mload _ _ => true
  | .msave _ _ => true
  | .mandn _ _ => true
  | .mrd _ _ _ _ => true
  | .mwr _ _ _ _ => true
  | .mpopc _ _ _ => true
  | .mffs _ _ _ => true
  | .lpack _ => true
  | .lunpack _ => true
  | .lperm _ _ => true
  | .barSync _ _ _ => true
  | .barArv _ _ _ => true
  | .barWt _ _ => true
  | .exit _ => true
  | .exitD _ => true
  | .nop _ => true
  | .yield _ => true
  | .sleep _ _ => true
  | .sadd _ _ _ a => a.wf
  | .ssub _ _ _ a => a.wf
  | .smul _ _ _ a => a.wf
  | .smulh _ _ _ a => a.wf
  | .saddi _ _ _ => true
  | .smovi _ _ _ => true
  | .slui _ _ _ => true
  | .sori _ _ _ => true
  | .sand _ _ _ a => a.wf
  | .sor _ _ _ a => a.wf
  | .sxor _ _ _ a => a.wf
  | .sandn _ _ _ a => a.wf
  | .sshl _ _ _ a => a.wf
  | .sshr _ _ _ a => a.wf
  | .ssar _ _ _ a => a.wf
  | .srot _ _ _ a => a.wf
  | .scmpeq _ _ a => a.wf
  | .scmplt _ _ a => a.wf
  | .scmpltn _ _ a => a.wf
  | .scmple _ _ a => a.wf
  | .ssel _ _ _ a => a.wf
  | .smin _ _ _ a => a.wf
  | .smax _ _ _ a => a.wf
  | .sminn _ _ _ a => a.wf
  | .spopc _ _ a => a.wf
  | .sclz _ _ a => a.wf
  | .sctz _ _ a => a.wf
  | .sbrev _ _ a => a.wf
  | .sdiv _ _ _ a => a.wf
  | .sdivn _ _ _ a => a.wf
  | .srem _ _ _ a => a.wf
  | .sremn _ _ _ a => a.wf
  | .sget _ _ _ => true
  | .sset _ _ _ => true
  | .srdln _ _ _ a => a.wf
  | .swrln _ _ _ a => a.wf
  | .rclock _ _ => true
  | .rtime _ _ => true
  | .timer _ a => a.wf
  | .timera _ a => a.wf
  | .scmpieq _ _ _ => true
  | .scmpilt _ _ _ => true
  | .scmpiltn _ _ _ => true
  | .viaddI32 _ _ _ a => a.wf
  | .viaddI16x2 _ _ _ a => a.wf
  | .viaddI8x4 _ _ _ a => a.wf
  | .viaddS32sat _ _ _ a => a.wf
  | .visubI32 _ _ _ a => a.wf
  | .visubI16x2 _ _ _ a => a.wf
  | .visubI8x4 _ _ _ a => a.wf
  | .visubS32sat _ _ _ a => a.wf
  | .vimulLo _ _ _ a => a.wf
  | .vimulHs _ _ _ a => a.wf
  | .vimulHn _ _ _ a => a.wf
  | .vimulI16x2 _ _ _ a => a.wf
  | .vimadI32 _ _ _ a => a.wf
  | .vimadI16x2 _ _ _ a => a.wf
  | .vimadDot4s8 _ _ _ a => a.wf
  | .vimadDot4n8 _ _ _ a => a.wf
  | .vlogAnd _ _ _ a => a.wf
  | .vlogOr _ _ _ a => a.wf
  | .vlogXor _ _ _ a => a.wf
  | .vlogAndn _ _ _ a => a.wf
  | .vshfShl _ _ _ a => a.wf
  | .vshfShr _ _ _ a => a.wf
  | .vshfSar _ _ _ a => a.wf
  | .vshfRot _ _ _ a => a.wf
  | .vshfiShl _ _ _ i => i.ult 32#8
  | .vshfiShr _ _ _ i => i.ult 32#8
  | .vshfiSar _ _ _ i => i.ult 32#8
  | .vshfiRot _ _ _ i => i.ult 32#8
  | .viminS32min _ _ _ a => a.wf
  | .viminN32min _ _ _ a => a.wf
  | .viminS32max _ _ _ a => a.wf
  | .viminN32max _ _ _ a => a.wf
  | .vbitPopc _ _ a => a.wf
  | .vbitClz _ _ a => a.wf
  | .vbitBrev _ _ a => a.wf
  | .vbitFfs _ _ a => a.wf
  | .vicmpS32 _ _ c _ a => a.wf && c != .ord && c != .uno
  | .vicmpN32 _ _ c _ a => a.wf && c != .ord && c != .uno
  | .vselLm0 _ _ _ a => a.wf
  | .vselLm1 _ _ _ a => a.wf
  | .vselLm2 _ _ _ a => a.wf
  | .vselLm3 _ _ _ a => a.wf
  | .vmov _ _ a => a.wf
  | .vsx16 _ _ a => a.wf
  | .vsx8 _ _ a => a.wf
  | .vzx16 _ _ a => a.wf
  | .vfaddF32 _ _ _ a => a.wf
  | .vfaddF16x2 _ _ _ a => a.wf
  | .vfaddBf16x2 _ _ _ a => a.wf
  | .vfsubF32 _ _ _ a => a.wf
  | .vfsubF16x2 _ _ _ a => a.wf
  | .vfsubBf16x2 _ _ _ a => a.wf
  | .vfmulF32 _ _ _ a => a.wf
  | .vfmulF16x2 _ _ _ a => a.wf
  | .vfmulBf16x2 _ _ _ a => a.wf
  | .vfmaF32 _ _ _ a => a.wf
  | .vfmaF16x2 _ _ _ a => a.wf
  | .vfmaBf16x2 _ _ _ a => a.wf
  | .vfminF32 _ _ _ a => a.wf
  | .vfmaxF32 _ _ _ a => a.wf
  | .vfminF16x2 _ _ _ a => a.wf
  | .vfmaxF16x2 _ _ _ a => a.wf
  | .vfcmpF32 _ _ _ _ a => a.wf
  | .vfcmpF16 _ _ _ _ a => a.wf
  | .vfcmpBf16 _ _ _ _ a => a.wf
  | .vfcvtRne _ _ _ a => a.wf
  | .vfcvtRtz _ _ _ a => a.wf
  | .vfcvtDn _ _ _ a => a.wf
  | .vfcvtUp _ _ _ a => a.wf
  | .vrcp _ _ a => a.wf
  | .vrsq _ _ a => a.wf
  | .vex2 _ _ a => a.wf
  | .vlg2 _ _ a => a.wf
  | .vsinpi _ _ a => a.wf
  | .vcospi _ _ a => a.wf
  | .vsqrt _ _ a => a.wf
  | .vtanh _ _ a => a.wf
  | .vfrndRne _ _ a => a.wf
  | .vfrndRtz _ _ a => a.wf
  | .vfrndFloor _ _ a => a.wf
  | .vfrndCeil _ _ a => a.wf
  | .vfdotDot2bf16 _ _ _ a => a.wf
  | .vfdotDot2f16 _ _ _ a => a.wf
  | .vfdotDot4f8e4 _ _ _ a => a.wf
  | .vfdotDot4f8e5 _ _ _ a => a.wf
  | .vmaxiMax _ _ _ a => a.wf
  | .vmaxiMin _ _ _ a => a.wf
  | .vpackF16x2 _ _ _ a => a.wf
  | .vpackBf16x2 _ _ _ a => a.wf
  | .vpackS16x2sat _ _ _ a => a.wf
  | .vexpd _ _ _ a => a.wf
  | .vhashCrc32c _ _ _ a => a.wf
  | .vhashMix32 _ _ _ a => a.wf
  | .vshflIdx _ _ _ a => a.wf
  | .vshflXor _ _ _ a => a.wf
  | .vshflUp _ _ _ a => a.wf
  | .vshflDown _ _ _ a => a.wf
  | .vredAdd _ _ t a => a.wf && t != .vi
  | .vredMax _ _ t a => a.wf && t != .vi
  | .vredMin _ _ t a => a.wf && t != .vi
  | .vredMaxi _ _ t a => a.wf && t == .vi
  | .vscanInclAddS32 _ _ a => a.wf
  | .vscanExclAddS32 _ _ a => a.wf
  | .vscanInclAddF32 _ _ a => a.wf
  | .vscanInclMaxi _ _ a => a.wf
  | .ballot _ _ a => a.wf
  | .mpre _ _ _ => true
  | .vany _ a => a.wf
  | .vall _ a => a.wf
  | .ldvB8 _ _ _ _ => true
  | .ldvB16 _ _ _ _ => true
  | .ldvB32 _ _ _ _ => true
  | .ldvB64 _ _ _ _ => true
  | .ldvsS8 _ _ _ _ => true
  | .ldvsS16 _ _ _ _ => true
  | .ldgB8 _ _ _ _ _ => true
  | .ldgB16 _ _ _ _ _ => true
  | .ldgB32 _ _ _ _ _ => true
  | .ldgB64 _ _ _ _ _ => true
  | .stvB8 _ _ _ _ => true
  | .stvB16 _ _ _ _ => true
  | .stvB32 _ _ _ _ => true
  | .stvB64 _ _ _ _ => true
  | .stgB8 _ _ _ _ _ => true
  | .stgB16 _ _ _ _ _ => true
  | .stgB32 _ _ _ _ _ => true
  | .stgB64 _ _ _ _ _ => true
  | .ldsB8 _ _ _ _ => true
  | .ldsB16 _ _ _ _ => true
  | .ldsB32 _ _ _ _ => true
  | .ldsB64 _ _ _ _ => true
  | .stsB8 _ _ _ _ => true
  | .stsB16 _ _ _ _ => true
  | .stsB32 _ _ _ _ => true
  | .stsB64 _ _ _ _ => true
  | .ldspB8 _ _ _ _ _ => true
  | .ldspB16 _ _ _ _ _ => true
  | .ldspB32 _ _ _ _ _ => true
  | .ldspB64 _ _ _ _ _ => true
  | .stspB8 _ _ _ _ _ => true
  | .stspB16 _ _ _ _ _ => true
  | .stspB32 _ _ _ _ _ => true
  | .stspB64 _ _ _ _ _ => true
  | .sldspB32 _ _ _ _ => true
  | .sldspB64 _ _ _ _ => true
  | .sstspB32 _ _ _ _ => true
  | .sstspB64 _ _ _ _ => true
  | .atomAddI32 _ _ _ _ _ => true
  | .atomAddF32 _ _ _ _ _ => true
  | .atomMinS32 _ _ _ _ _ => true
  | .atomMaxS32 _ _ _ _ _ => true
  | .atomMinN32 _ _ _ _ _ => true
  | .atomMaxN32 _ _ _ _ _ => true
  | .atomAnd _ _ _ _ _ => true
  | .atomOr _ _ _ _ _ => true
  | .atomXor _ _ _ _ _ => true
  | .atomExch _ _ _ _ _ => true
  | .atomCas _ _ _ _ _ => true
  | .atomMaxi _ _ _ _ _ => true
  | .atomAddF16x2 _ _ _ _ _ => true
  | .atomAddI64 _ _ _ _ _ => true
  | .atomsAddI32 _ _ _ _ _ => true
  | .atomsAddF32 _ _ _ _ _ => true
  | .atomsMinS32 _ _ _ _ _ => true
  | .atomsMaxS32 _ _ _ _ _ => true
  | .atomsMinN32 _ _ _ _ _ => true
  | .atomsMaxN32 _ _ _ _ _ => true
  | .atomsAnd _ _ _ _ _ => true
  | .atomsOr _ _ _ _ _ => true
  | .atomsXor _ _ _ _ _ => true
  | .atomsExch _ _ _ _ _ => true
  | .atomsCas _ _ _ _ _ => true
  | .atomsMaxi _ _ _ _ _ => true
  | .atomsAddF16x2 _ _ _ _ _ => true
  | .atomsAddI64 _ _ _ _ _ => true
  | .redAddI32 _ _ _ _ _ => true
  | .redAddF32 _ _ _ _ _ => true
  | .redMinS32 _ _ _ _ _ => true
  | .redMaxS32 _ _ _ _ _ => true
  | .redMinN32 _ _ _ _ _ => true
  | .redMaxN32 _ _ _ _ _ => true
  | .redAnd _ _ _ _ _ => true
  | .redOr _ _ _ _ _ => true
  | .redXor _ _ _ _ _ => true
  | .redMaxi _ _ _ _ _ => true
  | .redAddF16x2 _ _ _ _ _ => true
  | .redAddI64 _ _ _ _ _ => true
  | .ldaB16 _ _ _ _ _ => true
  | .ldaB32 _ _ _ _ _ => true
  | .ldaB64 _ _ _ _ _ => true
  | .stlB16 _ _ _ _ _ => true
  | .stlB32 _ _ _ _ _ => true
  | .stlB64 _ _ _ _ _ => true
  | .fenceAcq _ _ => true
  | .fenceRel _ _ => true
  | .fenceAr _ _ => true
  | .fenceSc _ _ => true
  | .lcpy4 _ _ _ _ => true
  | .lcpy8 _ _ _ _ => true
  | .lcpy16 _ _ _ _ => true
  | .lcpy32 _ _ _ _ => true
  | .waitvEq _ _ _ => true
  | .waitvNe _ _ _ => true
  | .waitvGe _ _ _ => true
  | .waitvLt _ _ _ => true
  | .prefL2 _ _ _ => true
  | .prefL1 _ _ _ => true
  | .prefGinv _ _ _ => true
  | .prefWb _ _ _ => true
  | .mmaDense _ _ _ _ fx => fx.wf && fx.aux == 0#7
  | .mmaSp _ _ _ _ fx => fx.wf
  | .mmaZ _ _ _ _ fx => fx.wf && fx.aux == 0#7
  | .tmmaAcc _ _ _ _ fx => fx.wf && fx.aux == 0#7
  | .tmmaZ _ _ _ _ fx => fx.wf && fx.aux == 0#7
  | .tlda _ _ _ _ _ => true
  | .tldb _ _ _ _ _ => true
  | .tstd _ _ _ _ _ => true
  | .tldd _ _ _ _ _ => true
  | .cpyGs _ _ _ fx => fx.wf && fx.desc == 0#6 && fx.aux == 0#7
  | .cpySg _ _ _ fx => fx.wf && fx.desc == 0#6 && fx.aux == 0#7
  | .cpyGg _ _ _ fx => fx.wf && fx.desc == 0#6 && fx.aux == 0#7
  | .cpySs _ _ _ fx => fx.wf && fx.desc == 0#6 && fx.aux == 0#7
  | .cplFill _ _ _ fx => fx.wf && fx.desc == 0#6 && fx.aux == 0#7
  | .cplDrain _ _ _ fx => fx.wf && fx.desc == 0#6 && fx.aux == 0#7
  | .lcseal _ _ => true
  | .collAr _ _ _ fx => fx.wf && fx.desc == 0#6 && fx.aux == 0#7
  | .collAg _ _ _ fx => fx.wf && fx.desc == 0#6 && fx.aux == 0#7
  | .collRs _ _ _ fx => fx.wf && fx.desc == 0#6 && fx.aux == 0#7
  | .collBc _ _ _ fx => fx.wf && fx.desc == 0#6 && fx.aux == 0#7
  | .fwait _ _ _ => true
  | .fwaitT _ _ _ => true
  | .ftest _ _ _ => true
  | .fwaitall _ _ => true
  | .fcancel _ _ => true
  | .fdetach _ _ => true
  | .fprio _ _ a => a.wf
  | .fstat _ _ _ a => a.wf
  | .pwrhD _ _ _ _ => true
  | .pwrhX _ _ => true
  | .pwrhE _ => true
  | .pwrhQ _ => true
  | .racq _ _ _ => true
  | .rrel _ _ => true
  | .rinit _ _ a => a.wf
  | .rstat _ _ _ => true
  | .tbinit _ _ a => a.wf
  | .tbarv _ _ _ => true
  | .tbwait _ _ _ a => a.wf
  | .tbexp _ _ a => a.wf
  | .qpostL _ _ _ a => a.wf
  | .qpostR _ _ _ a => a.wf
  | .qpostS _ _ _ a => a.wf
  | .rtake _ _ => true
  | .rsplit _ _ => true
  | .rdone _ _ => true
  | .cntAdd _ _ _ a => a.wf
  | .cntWait _ _ _ a => a.wf
  | .cntRd _ _ _ a => a.wf
  | .cntCncl _ _ a => a.wf
  | .trap _ _ => true
  | .brk _ _ => true
  | .halt _ => true
  | .csrr _ _ a => a.wf
  | .csrw _ _ _ a => a.wf
  | .csrs _ _ _ a => a.wf
  | .csrc _ _ _ a => a.wf
  | .eret _ => true
  | .tlbiVa _ a => a.wf
  | .tlbiPart _ a => a.wf
  | .tlbiAll _ => true
  | .tlbiSync _ => true
  | .mrdc _ _ a => a.wf
  | .msign _ _ _ a => a.wf
  | .rctxRd _ _ _ a => a.wf
  | .rctxWr _ _ _ a => a.wf
  | .rctxResume _ _ _ a => a.wf
  | .rctxKill _ _ _ a => a.wf
  | .switchArm _ _ _ => true
  | .switchUrgent _ _ _ => true
  | .switchCancel _ _ a => a.wf
  | .partCreate _ _ _ a => a.wf
  | .partDestroy _ _ a => a.wf
  | .partBitmap _ _ _ a => a.wf
  | .partWays _ _ _ a => a.wf
  | .capr _ _ a => a.wf
  | .clauseFetch => false
  | .parkResume _ => false
  | .loadReturn _ _ _ => false
  | .storeAck _ _ => false
  | .homeWriteApply _ _ _ => false
  | .guestInvalidation _ => false
  | .lineFill _ => false
  | .translationWalkComplete _ _ _ => false
  | .laneCopyLand _ _ => false
  | .sleepEnd _ => false
  | .timerFire _ => false
  | .watchdogExpire _ => false
  | .faultRecordSend _ => false
  | .matrixStep _ => false
  | .copySectorIssue _ _ => false
  | .copySectorLand _ _ _ => false
  | .cplIterationStart _ _ => false
  | .collChunkSend _ _ => false
  | .fabricChunkReceive _ _ => false
  | .fabricAckReceive _ _ => false
  | .fabricRefusalReceive _ _ => false
  | .fabricNoticeReceive _ _ => false
  | .trapRecordReceive _ _ => false
  | .trapReplyReceive _ _ => false
  | .linkAckFrameReceive _ _ => false
  | .frameForward _ _ => false
  | .linkRetryTimeout _ => false
  | .portLinkUp _ => false
  | .ackResendTimer _ => false
  | .ptpSyncReceive _ _ => false
  | .ptpPdelayReqReceive _ _ => false
  | .ptpPdelayRespReceive _ _ => false
  | .ptpPdelayRespFollowUp _ _ => false
  | .ptpManagementReceive _ _ => false
  | .ptpSyncInterval _ => false
  | .ptpPdelayReqInterval _ => false
  | .holdoverEnter => false
  | .ptpLock _ => false
  | .heartbeatSend => false
  | .heartbeatReceive _ _ _ => false
  | .heartbeatLoss => false
  | .voteRequestReceive _ _ => false
  | .voteReceive _ _ _ => false
  | .timetablePageReceive _ _ => false
  | .urgentRequestReceive _ _ _ _ => false
  | .injectionStop _ => false
  | .switchStart _ => false
  | .haltComplete _ => false
  | .drainWindowClose _ => false
  | .contextSaveComplete _ => false
  | .contextRestore _ _ _ => false
  | .overrunHoldEnd _ => false
  | .switchWatchdogExpire _ => false
  | .slotEnd _ => false
  | .usageRecordPeriodic _ => false
  | .coreSwitchOut _ => false
  | .coreSwitchIn _ _ _ => false
  | .controlIntervalBoundary _ => false
  | .powerWindowStart _ => false
  | .powerWindowEnd _ => false
  | .undeclaredThrottleEnd _ _ => false
  | .queuePop _ => false
  | .signalPacketWrite _ _ => false
  | .queueTranslationRetry _ => false
  | .workgroupPlace _ _ => false
  | .controlEventException _ => false
  | .partCreateComplete _ => false
  | .l2TagError _ _ _ _ => false
  | .l2DataError _ _ _ => false
  | .hbm4Uncorrectable _ => false
  | .copySramError _ => false
  | .hostMemoryWrite _ _ _ _ _ => false
  | .hostMemoryRead _ _ _ _ _ => false
  | .hostConfigRequest _ _ _ => false
  | .msixVectorUnmask _ _ => false
  | .attestGo _ => false
  | .attestComplete _ => false
  | .startRequest _ => false
  | .portcfgWrite _ _ => false
  | .registerWrite _ _ => false
  | .powerOn => false
  | .startStepComplete _ => false
  | .thermalShutdown => false
  | .flowShutdown => false
  | .supplyOutOfRange _ => false
  | .reservedOpcodeIssue _ => false
  | .partDestroyComplete _ => false
  | .badFcsFrameReceive _ => false
  | .coolantOutOfRange => false
  | .operatingConditionsRestored => false

end Sys2Proof
end

