-- ==== Sys2Proof/Decode.lean ====
section
/-! DEFINITION. The decoder (R27-R41), total on any words, and after it the encoder, written from the same layouts. -/

namespace Sys2Proof

/- Lean's runtime has no object tags for the later of 449 constructors with fields, so what builds an `Instr` is not
compiled to code; the kernel evaluates it. -/
noncomputable section

/-- What the decoder answers for a first word and the word that follows it in the clause, if one does. -/
inductive Decoded where
  /-- ILLEGAL_OPCODE (R27) -/
  | opcode
  /-- the instruction's FX or literal word lies beyond the clause: ILLEGAL_CLAUSE (R15) -/
  | missing
  /-- a field whose stated fate is ILLEGAL_OPERAND and which no operand can hold (R223) -/
  | operand
  /-- the instruction and the number of words it owns -/
  | ok (i : Instr) (n : Nat)
  deriving DecidableEq, Repr

/-- Bits [lo + len - 1 : lo] of a word. -/
def fld (w : Word) (lo len : Nat) : BitVec len := w.extractLsb' lo len

/-- One bit as a Bool. -/
def flag (w : Word) (n : Nat) : Bool := w.extractLsb' n 1 == 1#1

/-- A Bool as one bit. -/
def bit (b : Bool) : BitVec 1 := if b then 1#1 else 0#1

/-- R30, without the literal. -/
def srcCode (c : BitVec 8) : Src :=
  if c.extractLsb' 7 1 == 0#1 then .v (c.extractLsb' 0 7)
  else if c.extractLsb' 6 1 == 0#1 then .s (c.extractLsb' 0 6)
  else if c.extractLsb' 5 1 == 0#1 then .int (c.extractLsb' 0 5)
  else if c.extractLsb' 3 2 == 0#2 then .fpc (c.extractLsb' 0 3)
  else if c == 0xE8#8 then .laneix
  else .res c

/-- R30 with R15: code 0xFF takes the next word as its literal. -/
def withSrc (c : BitVec 8) (x : Option Word) (k : Src → Instr) : Decoded :=
  if c == 0xFF#8 then
    match x with
    | some l => .ok (k (.lit l)) 2
    | none => .missing
  else .ok (k (srcCode c)) 1

/-- The code of src8 (R30). -/
def Src.code : Src → BitVec 8
  | .v n => 0#1 ++ n
  | .s n => 2#2 ++ n
  | .int n => 6#3 ++ n
  | .fpc n => 28#5 ++ n
  | .laneix => 0xE8#8
  | .res c => c
  | .lit _ => 0xFF#8

/-- The literal word, where there is one (R15). -/
def Src.ext : Src → List Word
  | .lit w => [w]
  | .v _ => []
  | .s _ => []
  | .int _ => []
  | .fpc _ => []
  | .laneix => []
  | .res _ => []

def Cmp.code : Cmp → BitVec 3
  | .eq => 0 | .ne => 1 | .lt => 2 | .le => 3 | .gt => 4 | .ge => 5 | .ord => 6 | .uno => 7

def Cmp.ofCode (c : BitVec 3) : Cmp :=
  match c.toNat with
  | 0 => .eq | 1 => .ne | 2 => .lt | 3 => .le | 4 => .gt | 5 => .ge | 6 => .ord | _ => .uno

def RedType.code : RedType → BitVec 3
  | .s32 => 0 | .n32 => 1 | .f32 => 2 | .vi => 3

def RedType.ofCode (c : BitVec 3) : Option RedType :=
  match c.toNat with
  | 0 => some .s32 | 1 => some .n32 | 2 => some .f32 | 3 => some .vi | _ => none

def Ord.code : Ord → BitVec 2
  | .relaxed => 0 | .acquire => 1 | .release => 2 | .acqRel => 3

def Ord.ofCode (c : BitVec 2) : Ord :=
  match c.toNat with
  | 0 => .relaxed | 1 => .acquire | 2 => .release | _ => .acqRel

def Scope.code : Scope → BitVec 3
  | .team => 0 | .wg => 1 | .core => 2 | .cluster => 3 | .die => 4 | .pkg => 5 | .pod => 6 | .reserved => 7

def Scope.ofCode (c : BitVec 3) : Scope :=
  match c.toNat with
  | 0 => .team | 1 => .wg | 2 => .core | 3 => .cluster | 4 => .die | 5 => .pkg | 6 => .pod | _ => .reserved

/-- R143. -/
def Conv.code : Conv → BitVec 7
  | .f32F16 => 0x00 | .f32Bf16 => 0x01 | .f32F8e4 => 0x02 | .f32F8e5 => 0x03 | .f32S32 => 0x04 | .f32N32 => 0x05
  | .f16F32 => 0x08 | .bf16F32 => 0x09 | .f8e4F32 => 0x0A | .f8e5F32 => 0x0B | .s32F32 => 0x0C | .n32F32 => 0x0D
  | .f8e4F16 => 0x10 | .f8e5F16 => 0x11 | .f8e4Bf16 => 0x12 | .f8e5Bf16 => 0x13 | .f16Bf16 => 0x14 | .bf16F16 => 0x15

def Conv.ofCode (c : BitVec 7) : Option Conv :=
  match c.toNat with
  | 0x00 => some .f32F16 | 0x01 => some .f32Bf16 | 0x02 => some .f32F8e4 | 0x03 => some .f32F8e5
  | 0x04 => some .f32S32 | 0x05 => some .f32N32 | 0x08 => some .f16F32 | 0x09 => some .bf16F32
  | 0x0A => some .f8e4F32 | 0x0B => some .f8e5F32 | 0x0C => some .s32F32 | 0x0D => some .n32F32
  | 0x10 => some .f8e4F16 | 0x11 => some .f8e5F16 | 0x12 => some .f8e4Bf16 | 0x13 => some .f8e5Bf16
  | 0x14 => some .f16Bf16 | 0x15 => some .bf16F16 | _ => none

/-- The FX word (R34). -/
def Fx.ofWord (w : Word) : Fx :=
  ⟨fld w 26 6, fld w 20 6, fld w 17 3, flag w 16, fld w 14 2, flag w 13, fld w 7 6, fld w 0 7⟩

def Fx.word (fx : Fx) : Word :=
  fx.tok ++ fx.desc ++ fx.prio ++ bit fx.detach ++ fx.chain ++ bit fx.depv ++ fx.dep ++ fx.aux

/-- The FX word follows the first word (R15); its own checks are those of R35. -/
def withFx (x : Option Word) (k : Fx → Instr) : Decoded :=
  match x with
  | none => .missing
  | some w => if (k (Fx.ofWord w)).wf then .ok (k (Fx.ofWord w)) 2 else .opcode

/-- Opcode 0x01. -/
def decode01 (w : Word) (_x : Option Word) : Decoded :=
  if fld w 22 2 == 0#2 then
    .ok (.br (flag w 31) (fld w 0 22)) 1
  else
  if fld w 22 2 == 1#2 then
    .ok (.brS1 (flag w 31) (fld w 0 22)) 1
  else
  if fld w 22 2 == 2#2 then
    .ok (.brS0 (flag w 31) (fld w 0 22)) 1
  else
  if fld w 22 2 == 3#2 then
    .ok (.brEz (flag w 31) (fld w 0 22)) 1
  else
  .opcode

/-- Opcode 0x02. -/
def decode02 (w : Word) (_x : Option Word) : Decoded :=
  if fld w 22 2 == 0#2 then
    .ok (.call (flag w 31) (fld w 0 22)) 1
  else
  .opcode

/-- Opcode 0x03. -/
def decode03 (w : Word) (x : Option Word) : Decoded :=
  if fld w 8 16 == 0#16 then
    withSrc (fld w 0 8) x fun a => .jmp (flag w 31) a
  else
  if fld w 8 16 == 16384#16 then
    withSrc (fld w 0 8) x fun a => .jmpl (flag w 31) a
  else
  if fld w 0 24 == 8388608#24 then
    .ok (.ret (flag w 31)) 1
  else
  .opcode

/-- Opcode 0x04. -/
def decode04 (w : Word) (_x : Option Word) : Decoded :=
  if fld w 16 8 == 0#8 && fld w 0 12 == 0#12 then
    .ok (.mpush (flag w 31) (fld w 12 4)) 1
  else
  if fld w 0 24 == 4194304#24 then
    .ok (.mpop (flag w 31)) 1
  else
  if fld w 0 24 == 8388608#24 then
    .ok (.melse (flag w 31)) 1
  else
  if fld w 22 2 == 3#2 && fld w 0 16 == 0#16 then
    .ok (.mdepth (flag w 31) (fld w 16 6)) 1
  else
  .opcode

/-- Opcode 0x05. -/
def decode05 (w : Word) (_x : Option Word) : Decoded :=
  if fld w 16 8 == 0#8 && fld w 0 12 == 0#12 then
    .ok (.mand (flag w 31) (fld w 12 4)) 1
  else
  if fld w 16 8 == 64#8 && fld w 0 12 == 0#12 then
    .ok (.mload (flag w 31) (fld w 12 4)) 1
  else
  if fld w 16 8 == 128#8 && fld w 0 12 == 0#12 then
    .ok (.msave (flag w 31) (fld w 12 4)) 1
  else
  if fld w 16 8 == 192#8 && fld w 0 12 == 0#12 then
    .ok (.mandn (flag w 31) (fld w 12 4)) 1
  else
  .opcode

/-- Opcode 0x06. -/
def decode06 (w : Word) (_x : Option Word) : Decoded :=
  if fld w 22 2 == 0#2 && fld w 0 8 == 0#8 then
    .ok (.mrd (flag w 31) (fld w 16 6) (fld w 12 4) (fld w 8 4)) 1
  else
  if fld w 22 2 == 1#2 && fld w 0 8 == 0#8 then
    .ok (.mwr (flag w 31) (fld w 16 6) (fld w 12 4) (fld w 8 4)) 1
  else
  if fld w 22 2 == 2#2 && fld w 0 12 == 0#12 then
    .ok (.mpopc (flag w 31) (fld w 16 6) (fld w 12 4)) 1
  else
  if fld w 22 2 == 3#2 && fld w 0 12 == 0#12 then
    .ok (.mffs (flag w 31) (fld w 16 6) (fld w 12 4)) 1
  else
  .opcode

/-- Opcode 0x07. -/
def decode07 (w : Word) (_x : Option Word) : Decoded :=
  if fld w 0 24 == 0#24 then
    .ok (.lpack (flag w 31)) 1
  else
  if fld w 0 24 == 4194304#24 then
    .ok (.lunpack (flag w 31)) 1
  else
  if fld w 22 2 == 2#2 && fld w 0 15 == 0#15 then
    .ok (.lperm (flag w 31) (fld w 15 7)) 1
  else
  .opcode

/-- Opcode 0x08. -/
def decode08 (w : Word) (_x : Option Word) : Decoded :=
  if fld w 22 2 == 0#2 && fld w 16 2 == 0#2 then
    .ok (.barSync (flag w 31) (fld w 18 4) (fld w 0 16)) 1
  else
  if fld w 22 2 == 1#2 && fld w 16 2 == 0#2 then
    .ok (.barArv (flag w 31) (fld w 18 4) (fld w 0 16)) 1
  else
  if fld w 22 2 == 2#2 && fld w 0 18 == 0#18 then
    .ok (.barWt (flag w 31) (fld w 18 4)) 1
  else
  .opcode

/-- Opcode 0x09. -/
def decode09 (w : Word) (_x : Option Word) : Decoded :=
  if fld w 0 24 == 0#24 then
    .ok (.exit (flag w 31)) 1
  else
  if fld w 0 24 == 4194304#24 then
    .ok (.exitD (flag w 31)) 1
  else
  .opcode

/-- Opcode 0x0A. -/
def decode0A (w : Word) (_x : Option Word) : Decoded :=
  if fld w 0 24 == 0#24 then
    .ok (.nop (flag w 31)) 1
  else
  if fld w 0 24 == 4194304#24 then
    .ok (.yield (flag w 31)) 1
  else
  if fld w 16 8 == 128#8 then
    .ok (.sleep (flag w 31) (fld w 0 16)) 1
  else
  .opcode

/-- Opcode 0x0B. -/
def decode0B (w : Word) (x : Option Word) : Decoded :=
  if fld w 22 2 == 0#2 && fld w 8 2 == 0#2 then
    withSrc (fld w 0 8) x fun a => .sadd (flag w 31) (fld w 16 6) (fld w 10 6) a
  else
  if fld w 22 2 == 1#2 && fld w 8 2 == 0#2 then
    withSrc (fld w 0 8) x fun a => .ssub (flag w 31) (fld w 16 6) (fld w 10 6) a
  else
  if fld w 22 2 == 2#2 && fld w 8 2 == 0#2 then
    withSrc (fld w 0 8) x fun a => .smul (flag w 31) (fld w 16 6) (fld w 10 6) a
  else
  if fld w 22 2 == 3#2 && fld w 8 2 == 0#2 then
    withSrc (fld w 0 8) x fun a => .smulh (flag w 31) (fld w 16 6) (fld w 10 6) a
  else
  .opcode

/-- Opcode 0x0C. -/
def decode0C (w : Word) (_x : Option Word) : Decoded :=
  if fld w 22 2 == 0#2 then
    .ok (.saddi (flag w 31) (fld w 16 6) (fld w 0 16)) 1
  else
  if fld w 22 2 == 1#2 then
    .ok (.smovi (flag w 31) (fld w 16 6) (fld w 0 16)) 1
  else
  if fld w 22 2 == 2#2 then
    .ok (.slui (flag w 31) (fld w 16 6) (fld w 0 16)) 1
  else
  if fld w 22 2 == 3#2 then
    .ok (.sori (flag w 31) (fld w 16 6) (fld w 0 16)) 1
  else
  .opcode

/-- Opcode 0x0D. -/
def decode0D (w : Word) (x : Option Word) : Decoded :=
  if fld w 22 2 == 0#2 && fld w 8 2 == 0#2 then
    withSrc (fld w 0 8) x fun a => .sand (flag w 31) (fld w 16 6) (fld w 10 6) a
  else
  if fld w 22 2 == 1#2 && fld w 8 2 == 0#2 then
    withSrc (fld w 0 8) x fun a => .sor (flag w 31) (fld w 16 6) (fld w 10 6) a
  else
  if fld w 22 2 == 2#2 && fld w 8 2 == 0#2 then
    withSrc (fld w 0 8) x fun a => .sxor (flag w 31) (fld w 16 6) (fld w 10 6) a
  else
  if fld w 22 2 == 3#2 && fld w 8 2 == 0#2 then
    withSrc (fld w 0 8) x fun a => .sandn (flag w 31) (fld w 16 6) (fld w 10 6) a
  else
  .opcode

/-- Opcode 0x0E. -/
def decode0E (w : Word) (x : Option Word) : Decoded :=
  if fld w 22 2 == 0#2 && fld w 8 2 == 0#2 then
    withSrc (fld w 0 8) x fun a => .sshl (flag w 31) (fld w 16 6) (fld w 10 6) a
  else
  if fld w 22 2 == 1#2 && fld w 8 2 == 0#2 then
    withSrc (fld w 0 8) x fun a => .sshr (flag w 31) (fld w 16 6) (fld w 10 6) a
  else
  if fld w 22 2 == 2#2 && fld w 8 2 == 0#2 then
    withSrc (fld w 0 8) x fun a => .ssar (flag w 31) (fld w 16 6) (fld w 10 6) a
  else
  if fld w 22 2 == 3#2 && fld w 8 2 == 0#2 then
    withSrc (fld w 0 8) x fun a => .srot (flag w 31) (fld w 16 6) (fld w 10 6) a
  else
  .opcode

/-- Opcode 0x0F. -/
def decode0F (w : Word) (x : Option Word) : Decoded :=
  if fld w 16 8 == 0#8 && fld w 8 2 == 0#2 then
    withSrc (fld w 0 8) x fun a => .scmpeq (flag w 31) (fld w 10 6) a
  else
  if fld w 16 8 == 64#8 && fld w 8 2 == 0#2 then
    withSrc (fld w 0 8) x fun a => .scmplt (flag w 31) (fld w 10 6) a
  else
  if fld w 16 8 == 128#8 && fld w 8 2 == 0#2 then
    withSrc (fld w 0 8) x fun a => .scmpltn (flag w 31) (fld w 10 6) a
  else
  if fld w 16 8 == 192#8 && fld w 8 2 == 0#2 then
    withSrc (fld w 0 8) x fun a => .scmple (flag w 31) (fld w 10 6) a
  else
  .opcode

/-- Opcode 0x10. -/
def decode10 (w : Word) (x : Option Word) : Decoded :=
  if fld w 22 2 == 0#2 && fld w 8 2 == 0#2 then
    withSrc (fld w 0 8) x fun a => .ssel (flag w 31) (fld w 16 6) (fld w 10 6) a
  else
  if fld w 22 2 == 1#2 && fld w 8 2 == 0#2 then
    withSrc (fld w 0 8) x fun a => .smin (flag w 31) (fld w 16 6) (fld w 10 6) a
  else
  if fld w 22 2 == 2#2 && fld w 8 2 == 0#2 then
    withSrc (fld w 0 8) x fun a => .smax (flag w 31) (fld w 16 6) (fld w 10 6) a
  else
  if fld w 22 2 == 3#2 && fld w 8 2 == 0#2 then
    withSrc (fld w 0 8) x fun a => .sminn (flag w 31) (fld w 16 6) (fld w 10 6) a
  else
  .opcode

/-- Opcode 0x11. -/
def decode11 (w : Word) (x : Option Word) : Decoded :=
  if fld w 22 2 == 0#2 && fld w 8 8 == 0#8 then
    withSrc (fld w 0 8) x fun a => .spopc (flag w 31) (fld w 16 6) a
  else
  if fld w 22 2 == 1#2 && fld w 8 8 == 0#8 then
    withSrc (fld w 0 8) x fun a => .sclz (flag w 31) (fld w 16 6) a
  else
  if fld w 22 2 == 2#2 && fld w 8 8 == 0#8 then
    withSrc (fld w 0 8) x fun a => .sctz (flag w 31) (fld w 16 6) a
  else
  if fld w 22 2 == 3#2 && fld w 8 8 == 0#8 then
    withSrc (fld w 0 8) x fun a => .sbrev (flag w 31) (fld w 16 6) a
  else
  .opcode

/-- Opcode 0x12. -/
def decode12 (w : Word) (x : Option Word) : Decoded :=
  if fld w 22 2 == 0#2 && fld w 8 2 == 0#2 then
    withSrc (fld w 0 8) x fun a => .sdiv (flag w 31) (fld w 16 6) (fld w 10 6) a
  else
  if fld w 22 2 == 1#2 && fld w 8 2 == 0#2 then
    withSrc (fld w 0 8) x fun a => .sdivn (flag w 31) (fld w 16 6) (fld w 10 6) a
  else
  if fld w 22 2 == 2#2 && fld w 8 2 == 0#2 then
    withSrc (fld w 0 8) x fun a => .srem (flag w 31) (fld w 16 6) (fld w 10 6) a
  else
  if fld w 22 2 == 3#2 && fld w 8 2 == 0#2 then
    withSrc (fld w 0 8) x fun a => .sremn (flag w 31) (fld w 16 6) (fld w 10 6) a
  else
  .opcode

/-- Opcode 0x13. -/
def decode13 (w : Word) (_x : Option Word) : Decoded :=
  if fld w 22 2 == 0#2 && fld w 8 8 == 0#8 then
    .ok (.sget (flag w 31) (fld w 16 6) (fld w 0 8)) 1
  else
  if fld w 22 2 == 1#2 && fld w 8 8 == 0#8 then
    .ok (.sset (flag w 31) (fld w 16 6) (fld w 0 8)) 1
  else
  .opcode

/-- Opcode 0x14. -/
def decode14 (w : Word) (x : Option Word) : Decoded :=
  if fld w 22 2 == 0#2 && fld w 8 2 == 0#2 then
    withSrc (fld w 0 8) x fun a => .srdln (flag w 31) (fld w 16 6) (fld w 10 6) a
  else
  if fld w 22 2 == 1#2 && fld w 8 2 == 0#2 then
    withSrc (fld w 0 8) x fun a => .swrln (flag w 31) (fld w 16 6) (fld w 10 6) a
  else
  .opcode

/-- Opcode 0x15. -/
def decode15 (w : Word) (x : Option Word) : Decoded :=
  if fld w 22 2 == 0#2 && fld w 0 16 == 0#16 then
    .ok (.rclock (flag w 31) (fld w 16 6)) 1
  else
  if fld w 22 2 == 1#2 && fld w 0 16 == 0#16 then
    .ok (.rtime (flag w 31) (fld w 16 6)) 1
  else
  if fld w 8 16 == 32768#16 then
    withSrc (fld w 0 8) x fun a => .timer (flag w 31) a
  else
  if fld w 8 16 == 49152#16 then
    withSrc (fld w 0 8) x fun a => .timera (flag w 31) a
  else
  .opcode

/-- Opcode 0x16. -/
def decode16 (w : Word) (_x : Option Word) : Decoded :=
  if fld w 22 2 == 0#2 then
    .ok (.scmpieq (flag w 31) (fld w 16 6) (fld w 0 16)) 1
  else
  if fld w 22 2 == 1#2 then
    .ok (.scmpilt (flag w 31) (fld w 16 6) (fld w 0 16)) 1
  else
  if fld w 22 2 == 2#2 then
    .ok (.scmpiltn (flag w 31) (fld w 16 6) (fld w 0 16)) 1
  else
  .opcode

/-- Opcode 0x17. -/
def decode17 (w : Word) (x : Option Word) : Decoded :=
  if fld w 22 2 == 0#2 then
    withSrc (fld w 0 8) x fun a => .viaddI32 (flag w 31) (fld w 15 7) (fld w 8 7) a
  else
  if fld w 22 2 == 1#2 then
    withSrc (fld w 0 8) x fun a => .viaddI16x2 (flag w 31) (fld w 15 7) (fld w 8 7) a
  else
  if fld w 22 2 == 2#2 then
    withSrc (fld w 0 8) x fun a => .viaddI8x4 (flag w 31) (fld w 15 7) (fld w 8 7) a
  else
  if fld w 22 2 == 3#2 then
    withSrc (fld w 0 8) x fun a => .viaddS32sat (flag w 31) (fld w 15 7) (fld w 8 7) a
  else
  .opcode

/-- Opcode 0x18. -/
def decode18 (w : Word) (x : Option Word) : Decoded :=
  if fld w 22 2 == 0#2 then
    withSrc (fld w 0 8) x fun a => .visubI32 (flag w 31) (fld w 15 7) (fld w 8 7) a
  else
  if fld w 22 2 == 1#2 then
    withSrc (fld w 0 8) x fun a => .visubI16x2 (flag w 31) (fld w 15 7) (fld w 8 7) a
  else
  if fld w 22 2 == 2#2 then
    withSrc (fld w 0 8) x fun a => .visubI8x4 (flag w 31) (fld w 15 7) (fld w 8 7) a
  else
  if fld w 22 2 == 3#2 then
    withSrc (fld w 0 8) x fun a => .visubS32sat (flag w 31) (fld w 15 7) (fld w 8 7) a
  else
  .opcode

/-- Opcode 0x19. -/
def decode19 (w : Word) (x : Option Word) : Decoded :=
  if fld w 22 2 == 0#2 then
    withSrc (fld w 0 8) x fun a => .vimulLo (flag w 31) (fld w 15 7) (fld w 8 7) a
  else
  if fld w 22 2 == 1#2 then
    withSrc (fld w 0 8) x fun a => .vimulHs (flag w 31) (fld w 15 7) (fld w 8 7) a
  else
  if fld w 22 2 == 2#2 then
    withSrc (fld w 0 8) x fun a => .vimulHn (flag w 31) (fld w 15 7) (fld w 8 7) a
  else
  if fld w 22 2 == 3#2 then
    withSrc (fld w 0 8) x fun a => .vimulI16x2 (flag w 31) (fld w 15 7) (fld w 8 7) a
  else
  .opcode

/-- Opcode 0x1A. -/
def decode1A (w : Word) (x : Option Word) : Decoded :=
  if fld w 22 2 == 0#2 then
    withSrc (fld w 0 8) x fun a => .vimadI32 (flag w 31) (fld w 15 7) (fld w 8 7) a
  else
  if fld w 22 2 == 1#2 then
    withSrc (fld w 0 8) x fun a => .vimadI16x2 (flag w 31) (fld w 15 7) (fld w 8 7) a
  else
  if fld w 22 2 == 2#2 then
    withSrc (fld w 0 8) x fun a => .vimadDot4s8 (flag w 31) (fld w 15 7) (fld w 8 7) a
  else
  if fld w 22 2 == 3#2 then
    withSrc (fld w 0 8) x fun a => .vimadDot4n8 (flag w 31) (fld w 15 7) (fld w 8 7) a
  else
  .opcode

/-- Opcode 0x1B. -/
def decode1B (w : Word) (x : Option Word) : Decoded :=
  if fld w 22 2 == 0#2 then
    withSrc (fld w 0 8) x fun a => .vlogAnd (flag w 31) (fld w 15 7) (fld w 8 7) a
  else
  if fld w 22 2 == 1#2 then
    withSrc (fld w 0 8) x fun a => .vlogOr (flag w 31) (fld w 15 7) (fld w 8 7) a
  else
  if fld w 22 2 == 2#2 then
    withSrc (fld w 0 8) x fun a => .vlogXor (flag w 31) (fld w 15 7) (fld w 8 7) a
  else
  if fld w 22 2 == 3#2 then
    withSrc (fld w 0 8) x fun a => .vlogAndn (flag w 31) (fld w 15 7) (fld w 8 7) a
  else
  .opcode

/-- Opcode 0x1C. -/
def decode1C (w : Word) (x : Option Word) : Decoded :=
  if fld w 22 2 == 0#2 then
    withSrc (fld w 0 8) x fun a => .vshfShl (flag w 31) (fld w 15 7) (fld w 8 7) a
  else
  if fld w 22 2 == 1#2 then
    withSrc (fld w 0 8) x fun a => .vshfShr (flag w 31) (fld w 15 7) (fld w 8 7) a
  else
  if fld w 22 2 == 2#2 then
    withSrc (fld w 0 8) x fun a => .vshfSar (flag w 31) (fld w 15 7) (fld w 8 7) a
  else
  if fld w 22 2 == 3#2 then
    withSrc (fld w 0 8) x fun a => .vshfRot (flag w 31) (fld w 15 7) (fld w 8 7) a
  else
  .opcode

/-- Opcode 0x1D. -/
def decode1D (w : Word) (_x : Option Word) : Decoded :=
  if fld w 22 2 == 0#2 then
    if (fld w 5 3) != 0#3 then .opcode else .ok (.vshfiShl (flag w 31) (fld w 15 7) (fld w 8 7) (fld w 0 8)) 1
  else
  if fld w 22 2 == 1#2 then
    if (fld w 5 3) != 0#3 then .opcode else .ok (.vshfiShr (flag w 31) (fld w 15 7) (fld w 8 7) (fld w 0 8)) 1
  else
  if fld w 22 2 == 2#2 then
    if (fld w 5 3) != 0#3 then .opcode else .ok (.vshfiSar (flag w 31) (fld w 15 7) (fld w 8 7) (fld w 0 8)) 1
  else
  if fld w 22 2 == 3#2 then
    if (fld w 5 3) != 0#3 then .opcode else .ok (.vshfiRot (flag w 31) (fld w 15 7) (fld w 8 7) (fld w 0 8)) 1
  else
  .opcode

/-- Opcode 0x1E. -/
def decode1E (w : Word) (x : Option Word) : Decoded :=
  if fld w 22 2 == 0#2 then
    withSrc (fld w 0 8) x fun a => .viminS32min (flag w 31) (fld w 15 7) (fld w 8 7) a
  else
  if fld w 22 2 == 1#2 then
    withSrc (fld w 0 8) x fun a => .viminN32min (flag w 31) (fld w 15 7) (fld w 8 7) a
  else
  if fld w 22 2 == 2#2 then
    withSrc (fld w 0 8) x fun a => .viminS32max (flag w 31) (fld w 15 7) (fld w 8 7) a
  else
  if fld w 22 2 == 3#2 then
    withSrc (fld w 0 8) x fun a => .viminN32max (flag w 31) (fld w 15 7) (fld w 8 7) a
  else
  .opcode

/-- Opcode 0x1F. -/
def decode1F (w : Word) (x : Option Word) : Decoded :=
  if fld w 22 2 == 0#2 && fld w 8 7 == 0#7 then
    withSrc (fld w 0 8) x fun a => .vbitPopc (flag w 31) (fld w 15 7) a
  else
  if fld w 22 2 == 1#2 && fld w 8 7 == 0#7 then
    withSrc (fld w 0 8) x fun a => .vbitClz (flag w 31) (fld w 15 7) a
  else
  if fld w 22 2 == 2#2 && fld w 8 7 == 0#7 then
    withSrc (fld w 0 8) x fun a => .vbitBrev (flag w 31) (fld w 15 7) a
  else
  if fld w 22 2 == 3#2 && fld w 8 7 == 0#7 then
    withSrc (fld w 0 8) x fun a => .vbitFfs (flag w 31) (fld w 15 7) a
  else
  .opcode

/-- Opcode 0x20. -/
def decode20 (w : Word) (x : Option Word) : Decoded :=
  if fld w 22 2 == 0#2 && fld w 15 1 == 0#1 then
    if (fld w 17 2) == 3#2 then .opcode else withSrc (fld w 0 8) x fun a => .vicmpS32 (flag w 31) (fld w 19 3) (Cmp.ofCode (fld w 16 3)) (fld w 8 7) a
  else
  if fld w 22 2 == 1#2 && fld w 15 1 == 0#1 then
    if (fld w 17 2) == 3#2 then .opcode else withSrc (fld w 0 8) x fun a => .vicmpN32 (flag w 31) (fld w 19 3) (Cmp.ofCode (fld w 16 3)) (fld w 8 7) a
  else
  .opcode

/-- Opcode 0x21. -/
def decode21 (w : Word) (x : Option Word) : Decoded :=
  if fld w 22 2 == 0#2 then
    withSrc (fld w 0 8) x fun a => .vselLm0 (flag w 31) (fld w 15 7) (fld w 8 7) a
  else
  if fld w 22 2 == 1#2 then
    withSrc (fld w 0 8) x fun a => .vselLm1 (flag w 31) (fld w 15 7) (fld w 8 7) a
  else
  if fld w 22 2 == 2#2 then
    withSrc (fld w 0 8) x fun a => .vselLm2 (flag w 31) (fld w 15 7) (fld w 8 7) a
  else
  if fld w 22 2 == 3#2 then
    withSrc (fld w 0 8) x fun a => .vselLm3 (flag w 31) (fld w 15 7) (fld w 8 7) a
  else
  .opcode

/-- Opcode 0x22. -/
def decode22 (w : Word) (x : Option Word) : Decoded :=
  if fld w 22 2 == 0#2 && fld w 8 7 == 0#7 then
    withSrc (fld w 0 8) x fun a => .vmov (flag w 31) (fld w 15 7) a
  else
  if fld w 22 2 == 1#2 && fld w 8 7 == 0#7 then
    withSrc (fld w 0 8) x fun a => .vsx16 (flag w 31) (fld w 15 7) a
  else
  if fld w 22 2 == 2#2 && fld w 8 7 == 0#7 then
    withSrc (fld w 0 8) x fun a => .vsx8 (flag w 31) (fld w 15 7) a
  else
  if fld w 22 2 == 3#2 && fld w 8 7 == 0#7 then
    withSrc (fld w 0 8) x fun a => .vzx16 (flag w 31) (fld w 15 7) a
  else
  .opcode

/-- Opcode 0x23. -/
def decode23 (w : Word) (x : Option Word) : Decoded :=
  if fld w 22 2 == 0#2 then
    withSrc (fld w 0 8) x fun a => .vfaddF32 (flag w 31) (fld w 15 7) (fld w 8 7) a
  else
  if fld w 22 2 == 1#2 then
    withSrc (fld w 0 8) x fun a => .vfaddF16x2 (flag w 31) (fld w 15 7) (fld w 8 7) a
  else
  if fld w 22 2 == 2#2 then
    withSrc (fld w 0 8) x fun a => .vfaddBf16x2 (flag w 31) (fld w 15 7) (fld w 8 7) a
  else
  .opcode

/-- Opcode 0x24. -/
def decode24 (w : Word) (x : Option Word) : Decoded :=
  if fld w 22 2 == 0#2 then
    withSrc (fld w 0 8) x fun a => .vfsubF32 (flag w 31) (fld w 15 7) (fld w 8 7) a
  else
  if fld w 22 2 == 1#2 then
    withSrc (fld w 0 8) x fun a => .vfsubF16x2 (flag w 31) (fld w 15 7) (fld w 8 7) a
  else
  if fld w 22 2 == 2#2 then
    withSrc (fld w 0 8) x fun a => .vfsubBf16x2 (flag w 31) (fld w 15 7) (fld w 8 7) a
  else
  .opcode

/-- Opcode 0x25. -/
def decode25 (w : Word) (x : Option Word) : Decoded :=
  if fld w 22 2 == 0#2 then
    withSrc (fld w 0 8) x fun a => .vfmulF32 (flag w 31) (fld w 15 7) (fld w 8 7) a
  else
  if fld w 22 2 == 1#2 then
    withSrc (fld w 0 8) x fun a => .vfmulF16x2 (flag w 31) (fld w 15 7) (fld w 8 7) a
  else
  if fld w 22 2 == 2#2 then
    withSrc (fld w 0 8) x fun a => .vfmulBf16x2 (flag w 31) (fld w 15 7) (fld w 8 7) a
  else
  .opcode

/-- Opcode 0x26. -/
def decode26 (w : Word) (x : Option Word) : Decoded :=
  if fld w 22 2 == 0#2 then
    withSrc (fld w 0 8) x fun a => .vfmaF32 (flag w 31) (fld w 15 7) (fld w 8 7) a
  else
  if fld w 22 2 == 1#2 then
    withSrc (fld w 0 8) x fun a => .vfmaF16x2 (flag w 31) (fld w 15 7) (fld w 8 7) a
  else
  if fld w 22 2 == 2#2 then
    withSrc (fld w 0 8) x fun a => .vfmaBf16x2 (flag w 31) (fld w 15 7) (fld w 8 7) a
  else
  .opcode

/-- Opcode 0x27. -/
def decode27 (w : Word) (x : Option Word) : Decoded :=
  if fld w 22 2 == 0#2 then
    withSrc (fld w 0 8) x fun a => .vfminF32 (flag w 31) (fld w 15 7) (fld w 8 7) a
  else
  if fld w 22 2 == 1#2 then
    withSrc (fld w 0 8) x fun a => .vfmaxF32 (flag w 31) (fld w 15 7) (fld w 8 7) a
  else
  if fld w 22 2 == 2#2 then
    withSrc (fld w 0 8) x fun a => .vfminF16x2 (flag w 31) (fld w 15 7) (fld w 8 7) a
  else
  if fld w 22 2 == 3#2 then
    withSrc (fld w 0 8) x fun a => .vfmaxF16x2 (flag w 31) (fld w 15 7) (fld w 8 7) a
  else
  .opcode

/-- Opcode 0x28. -/
def decode28 (w : Word) (x : Option Word) : Decoded :=
  if fld w 22 2 == 0#2 && fld w 15 1 == 0#1 then
    withSrc (fld w 0 8) x fun a => .vfcmpF32 (flag w 31) (fld w 19 3) (Cmp.ofCode (fld w 16 3)) (fld w 8 7) a
  else
  if fld w 22 2 == 1#2 && fld w 15 1 == 0#1 then
    withSrc (fld w 0 8) x fun a => .vfcmpF16 (flag w 31) (fld w 19 3) (Cmp.ofCode (fld w 16 3)) (fld w 8 7) a
  else
  if fld w 22 2 == 2#2 && fld w 15 1 == 0#1 then
    withSrc (fld w 0 8) x fun a => .vfcmpBf16 (flag w 31) (fld w 19 3) (Cmp.ofCode (fld w 16 3)) (fld w 8 7) a
  else
  .opcode

/-- Opcode 0x29. -/
def decode29 (w : Word) (x : Option Word) : Decoded :=
  if fld w 22 2 == 0#2 then
    (match Conv.ofCode (fld w 8 7) with
      | none => .opcode
      | some k => withSrc (fld w 0 8) x fun a => .vfcvtRne (flag w 31) (fld w 15 7) k a)
  else
  if fld w 22 2 == 1#2 then
    (match Conv.ofCode (fld w 8 7) with
      | none => .opcode
      | some k => withSrc (fld w 0 8) x fun a => .vfcvtRtz (flag w 31) (fld w 15 7) k a)
  else
  if fld w 22 2 == 2#2 then
    (match Conv.ofCode (fld w 8 7) with
      | none => .opcode
      | some k => withSrc (fld w 0 8) x fun a => .vfcvtDn (flag w 31) (fld w 15 7) k a)
  else
  if fld w 22 2 == 3#2 then
    (match Conv.ofCode (fld w 8 7) with
      | none => .opcode
      | some k => withSrc (fld w 0 8) x fun a => .vfcvtUp (flag w 31) (fld w 15 7) k a)
  else
  .opcode

/-- Opcode 0x2A. -/
def decode2A (w : Word) (x : Option Word) : Decoded :=
  if fld w 22 2 == 0#2 && fld w 8 7 == 0#7 then
    withSrc (fld w 0 8) x fun a => .vrcp (flag w 31) (fld w 15 7) a
  else
  if fld w 22 2 == 1#2 && fld w 8 7 == 0#7 then
    withSrc (fld w 0 8) x fun a => .vrsq (flag w 31) (fld w 15 7) a
  else
  if fld w 22 2 == 2#2 && fld w 8 7 == 0#7 then
    withSrc (fld w 0 8) x fun a => .vex2 (flag w 31) (fld w 15 7) a
  else
  if fld w 22 2 == 3#2 && fld w 8 7 == 0#7 then
    withSrc (fld w 0 8) x fun a => .vlg2 (flag w 31) (fld w 15 7) a
  else
  .opcode

/-- Opcode 0x2B. -/
def decode2B (w : Word) (x : Option Word) : Decoded :=
  if fld w 22 2 == 0#2 && fld w 8 7 == 0#7 then
    withSrc (fld w 0 8) x fun a => .vsinpi (flag w 31) (fld w 15 7) a
  else
  if fld w 22 2 == 1#2 && fld w 8 7 == 0#7 then
    withSrc (fld w 0 8) x fun a => .vcospi (flag w 31) (fld w 15 7) a
  else
  if fld w 22 2 == 2#2 && fld w 8 7 == 0#7 then
    withSrc (fld w 0 8) x fun a => .vsqrt (flag w 31) (fld w 15 7) a
  else
  if fld w 22 2 == 3#2 && fld w 8 7 == 0#7 then
    withSrc (fld w 0 8) x fun a => .vtanh (flag w 31) (fld w 15 7) a
  else
  .opcode

/-- Opcode 0x2C. -/
def decode2C (w : Word) (x : Option Word) : Decoded :=
  if fld w 22 2 == 0#2 && fld w 8 7 == 0#7 then
    withSrc (fld w 0 8) x fun a => .vfrndRne (flag w 31) (fld w 15 7) a
  else
  if fld w 22 2 == 1#2 && fld w 8 7 == 0#7 then
    withSrc (fld w 0 8) x fun a => .vfrndRtz (flag w 31) (fld w 15 7) a
  else
  if fld w 22 2 == 2#2 && fld w 8 7 == 0#7 then
    withSrc (fld w 0 8) x fun a => .vfrndFloor (flag w 31) (fld w 15 7) a
  else
  if fld w 22 2 == 3#2 && fld w 8 7 == 0#7 then
    withSrc (fld w 0 8) x fun a => .vfrndCeil (flag w 31) (fld w 15 7) a
  else
  .opcode

/-- Opcode 0x2D. -/
def decode2D (w : Word) (x : Option Word) : Decoded :=
  if fld w 22 2 == 0#2 then
    withSrc (fld w 0 8) x fun a => .vfdotDot2bf16 (flag w 31) (fld w 15 7) (fld w 8 7) a
  else
  if fld w 22 2 == 1#2 then
    withSrc (fld w 0 8) x fun a => .vfdotDot2f16 (flag w 31) (fld w 15 7) (fld w 8 7) a
  else
  if fld w 22 2 == 2#2 then
    withSrc (fld w 0 8) x fun a => .vfdotDot4f8e4 (flag w 31) (fld w 15 7) (fld w 8 7) a
  else
  if fld w 22 2 == 3#2 then
    withSrc (fld w 0 8) x fun a => .vfdotDot4f8e5 (flag w 31) (fld w 15 7) (fld w 8 7) a
  else
  .opcode

/-- Opcode 0x2E. -/
def decode2E (w : Word) (x : Option Word) : Decoded :=
  if fld w 22 2 == 0#2 then
    withSrc (fld w 0 8) x fun a => .vmaxiMax (flag w 31) (fld w 15 7) (fld w 8 7) a
  else
  if fld w 22 2 == 1#2 then
    withSrc (fld w 0 8) x fun a => .vmaxiMin (flag w 31) (fld w 15 7) (fld w 8 7) a
  else
  .opcode

/-- Opcode 0x2F. -/
def decode2F (w : Word) (x : Option Word) : Decoded :=
  if fld w 22 2 == 0#2 then
    withSrc (fld w 0 8) x fun a => .vpackF16x2 (flag w 31) (fld w 15 7) (fld w 8 7) a
  else
  if fld w 22 2 == 1#2 then
    withSrc (fld w 0 8) x fun a => .vpackBf16x2 (flag w 31) (fld w 15 7) (fld w 8 7) a
  else
  if fld w 22 2 == 2#2 then
    withSrc (fld w 0 8) x fun a => .vpackS16x2sat (flag w 31) (fld w 15 7) (fld w 8 7) a
  else
  .opcode

/-- Opcode 0x30. -/
def decode30 (w : Word) (x : Option Word) : Decoded :=
  if fld w 22 2 == 0#2 && fld w 10 5 == 0#5 then
    withSrc (fld w 0 8) x fun a => .vexpd (flag w 31) (fld w 15 7) (fld w 8 2) a
  else
  .opcode

/-- Opcode 0x31. -/
def decode31 (w : Word) (x : Option Word) : Decoded :=
  if fld w 22 2 == 0#2 then
    withSrc (fld w 0 8) x fun a => .vhashCrc32c (flag w 31) (fld w 15 7) (fld w 8 7) a
  else
  if fld w 22 2 == 1#2 then
    withSrc (fld w 0 8) x fun a => .vhashMix32 (flag w 31) (fld w 15 7) (fld w 8 7) a
  else
  .opcode

/-- Opcode 0x32. -/
def decode32 (w : Word) (x : Option Word) : Decoded :=
  if fld w 22 2 == 0#2 then
    withSrc (fld w 0 8) x fun a => .vshflIdx (flag w 31) (fld w 15 7) (fld w 8 7) a
  else
  if fld w 22 2 == 1#2 then
    withSrc (fld w 0 8) x fun a => .vshflXor (flag w 31) (fld w 15 7) (fld w 8 7) a
  else
  if fld w 22 2 == 2#2 then
    withSrc (fld w 0 8) x fun a => .vshflUp (flag w 31) (fld w 15 7) (fld w 8 7) a
  else
  if fld w 22 2 == 3#2 then
    withSrc (fld w 0 8) x fun a => .vshflDown (flag w 31) (fld w 15 7) (fld w 8 7) a
  else
  .opcode

/-- Opcode 0x33. -/
def decode33 (w : Word) (x : Option Word) : Decoded :=
  if fld w 22 2 == 0#2 && fld w 8 5 == 0#5 then
    (match RedType.ofCode (fld w 13 3) with
      | none => .opcode
      | some t => if t != .vi then withSrc (fld w 0 8) x fun a => .vredAdd (flag w 31) (fld w 16 6) t a else .opcode)
  else
  if fld w 22 2 == 1#2 && fld w 8 5 == 0#5 then
    (match RedType.ofCode (fld w 13 3) with
      | none => .opcode
      | some t => if t != .vi then withSrc (fld w 0 8) x fun a => .vredMax (flag w 31) (fld w 16 6) t a else .opcode)
  else
  if fld w 22 2 == 2#2 && fld w 8 5 == 0#5 then
    (match RedType.ofCode (fld w 13 3) with
      | none => .opcode
      | some t => if t != .vi then withSrc (fld w 0 8) x fun a => .vredMin (flag w 31) (fld w 16 6) t a else .opcode)
  else
  if fld w 22 2 == 3#2 && fld w 8 5 == 0#5 then
    (match RedType.ofCode (fld w 13 3) with
      | none => .opcode
      | some t => if t == .vi then withSrc (fld w 0 8) x fun a => .vredMaxi (flag w 31) (fld w 16 6) t a else .opcode)
  else
  .opcode

/-- Opcode 0x34. -/
def decode34 (w : Word) (x : Option Word) : Decoded :=
  if fld w 22 2 == 0#2 && fld w 8 7 == 0#7 then
    withSrc (fld w 0 8) x fun a => .vscanInclAddS32 (flag w 31) (fld w 15 7) a
  else
  if fld w 22 2 == 1#2 && fld w 8 7 == 0#7 then
    withSrc (fld w 0 8) x fun a => .vscanExclAddS32 (flag w 31) (fld w 15 7) a
  else
  if fld w 22 2 == 2#2 && fld w 8 7 == 0#7 then
    withSrc (fld w 0 8) x fun a => .vscanInclAddF32 (flag w 31) (fld w 15 7) a
  else
  if fld w 22 2 == 3#2 && fld w 8 7 == 0#7 then
    withSrc (fld w 0 8) x fun a => .vscanInclMaxi (flag w 31) (fld w 15 7) a
  else
  .opcode

/-- Opcode 0x35. -/
def decode35 (w : Word) (x : Option Word) : Decoded :=
  if fld w 22 2 == 0#2 && fld w 8 11 == 0#11 then
    withSrc (fld w 0 8) x fun a => .ballot (flag w 31) (fld w 19 3) a
  else
  if fld w 22 2 == 1#2 && fld w 15 4 == 0#4 && fld w 0 8 == 0#8 then
    .ok (.mpre (flag w 31) (fld w 19 3) (fld w 8 7)) 1
  else
  if fld w 8 16 == 32768#16 then
    withSrc (fld w 0 8) x fun a => .vany (flag w 31) a
  else
  if fld w 8 16 == 49152#16 then
    withSrc (fld w 0 8) x fun a => .vall (flag w 31) a
  else
  .opcode

/-- Opcode 0x36. -/
def decode36 (w : Word) (_x : Option Word) : Decoded :=
  if fld w 22 2 == 0#2 then
    .ok (.ldvB8 (flag w 31) (fld w 15 7) (fld w 9 6) (fld w 0 9)) 1
  else
  if fld w 22 2 == 1#2 then
    .ok (.ldvB16 (flag w 31) (fld w 15 7) (fld w 9 6) (fld w 0 9)) 1
  else
  if fld w 22 2 == 2#2 then
    .ok (.ldvB32 (flag w 31) (fld w 15 7) (fld w 9 6) (fld w 0 9)) 1
  else
  if fld w 22 2 == 3#2 then
    .ok (.ldvB64 (flag w 31) (fld w 15 7) (fld w 9 6) (fld w 0 9)) 1
  else
  .opcode

/-- Opcode 0x37. -/
def decode37 (w : Word) (_x : Option Word) : Decoded :=
  if fld w 22 2 == 0#2 then
    .ok (.ldvsS8 (flag w 31) (fld w 15 7) (fld w 9 6) (fld w 0 9)) 1
  else
  if fld w 22 2 == 1#2 then
    .ok (.ldvsS16 (flag w 31) (fld w 15 7) (fld w 9 6) (fld w 0 9)) 1
  else
  .opcode

/-- Opcode 0x38. -/
def decode38 (w : Word) (_x : Option Word) : Decoded :=
  if fld w 22 2 == 0#2 then
    .ok (.ldgB8 (flag w 31) (fld w 20 2) (fld w 13 7) (fld w 7 6) (fld w 0 7)) 1
  else
  if fld w 22 2 == 1#2 then
    .ok (.ldgB16 (flag w 31) (fld w 20 2) (fld w 13 7) (fld w 7 6) (fld w 0 7)) 1
  else
  if fld w 22 2 == 2#2 then
    .ok (.ldgB32 (flag w 31) (fld w 20 2) (fld w 13 7) (fld w 7 6) (fld w 0 7)) 1
  else
  if fld w 22 2 == 3#2 then
    .ok (.ldgB64 (flag w 31) (fld w 20 2) (fld w 13 7) (fld w 7 6) (fld w 0 7)) 1
  else
  .opcode

/-- Opcode 0x39. -/
def decode39 (w : Word) (_x : Option Word) : Decoded :=
  if fld w 22 2 == 0#2 then
    .ok (.stvB8 (flag w 31) (fld w 15 7) (fld w 9 6) (fld w 0 9)) 1
  else
  if fld w 22 2 == 1#2 then
    .ok (.stvB16 (flag w 31) (fld w 15 7) (fld w 9 6) (fld w 0 9)) 1
  else
  if fld w 22 2 == 2#2 then
    .ok (.stvB32 (flag w 31) (fld w 15 7) (fld w 9 6) (fld w 0 9)) 1
  else
  if fld w 22 2 == 3#2 then
    .ok (.stvB64 (flag w 31) (fld w 15 7) (fld w 9 6) (fld w 0 9)) 1
  else
  .opcode

/-- Opcode 0x3A. -/
def decode3A (w : Word) (_x : Option Word) : Decoded :=
  if fld w 22 2 == 0#2 then
    .ok (.stgB8 (flag w 31) (fld w 20 2) (fld w 13 7) (fld w 7 6) (fld w 0 7)) 1
  else
  if fld w 22 2 == 1#2 then
    .ok (.stgB16 (flag w 31) (fld w 20 2) (fld w 13 7) (fld w 7 6) (fld w 0 7)) 1
  else
  if fld w 22 2 == 2#2 then
    .ok (.stgB32 (flag w 31) (fld w 20 2) (fld w 13 7) (fld w 7 6) (fld w 0 7)) 1
  else
  if fld w 22 2 == 3#2 then
    .ok (.stgB64 (flag w 31) (fld w 20 2) (fld w 13 7) (fld w 7 6) (fld w 0 7)) 1
  else
  .opcode

/-- Opcode 0x3B. -/
def decode3B (w : Word) (_x : Option Word) : Decoded :=
  if fld w 22 2 == 0#2 then
    .ok (.ldsB8 (flag w 31) (fld w 16 6) (fld w 10 6) (fld w 0 10)) 1
  else
  if fld w 22 2 == 1#2 then
    .ok (.ldsB16 (flag w 31) (fld w 16 6) (fld w 10 6) (fld w 0 10)) 1
  else
  if fld w 22 2 == 2#2 then
    .ok (.ldsB32 (flag w 31) (fld w 16 6) (fld w 10 6) (fld w 0 10)) 1
  else
  if fld w 22 2 == 3#2 then
    .ok (.ldsB64 (flag w 31) (fld w 16 6) (fld w 10 6) (fld w 0 10)) 1
  else
  .opcode

/-- Opcode 0x3C. -/
def decode3C (w : Word) (_x : Option Word) : Decoded :=
  if fld w 22 2 == 0#2 then
    .ok (.stsB8 (flag w 31) (fld w 16 6) (fld w 10 6) (fld w 0 10)) 1
  else
  if fld w 22 2 == 1#2 then
    .ok (.stsB16 (flag w 31) (fld w 16 6) (fld w 10 6) (fld w 0 10)) 1
  else
  if fld w 22 2 == 2#2 then
    .ok (.stsB32 (flag w 31) (fld w 16 6) (fld w 10 6) (fld w 0 10)) 1
  else
  if fld w 22 2 == 3#2 then
    .ok (.stsB64 (flag w 31) (fld w 16 6) (fld w 10 6) (fld w 0 10)) 1
  else
  .opcode

/-- Opcode 0x3D. -/
def decode3D (w : Word) (_x : Option Word) : Decoded :=
  if fld w 22 2 == 0#2 then
    .ok (.ldspB8 (flag w 31) (fld w 20 2) (fld w 13 7) (fld w 7 6) (fld w 0 7)) 1
  else
  if fld w 22 2 == 1#2 then
    .ok (.ldspB16 (flag w 31) (fld w 20 2) (fld w 13 7) (fld w 7 6) (fld w 0 7)) 1
  else
  if fld w 22 2 == 2#2 then
    .ok (.ldspB32 (flag w 31) (fld w 20 2) (fld w 13 7) (fld w 7 6) (fld w 0 7)) 1
  else
  if fld w 22 2 == 3#2 then
    .ok (.ldspB64 (flag w 31) (fld w 20 2) (fld w 13 7) (fld w 7 6) (fld w 0 7)) 1
  else
  .opcode

/-- Opcode 0x3E. -/
def decode3E (w : Word) (_x : Option Word) : Decoded :=
  if fld w 22 2 == 0#2 then
    .ok (.stspB8 (flag w 31) (fld w 20 2) (fld w 13 7) (fld w 7 6) (fld w 0 7)) 1
  else
  if fld w 22 2 == 1#2 then
    .ok (.stspB16 (flag w 31) (fld w 20 2) (fld w 13 7) (fld w 7 6) (fld w 0 7)) 1
  else
  if fld w 22 2 == 2#2 then
    .ok (.stspB32 (flag w 31) (fld w 20 2) (fld w 13 7) (fld w 7 6) (fld w 0 7)) 1
  else
  if fld w 22 2 == 3#2 then
    .ok (.stspB64 (flag w 31) (fld w 20 2) (fld w 13 7) (fld w 7 6) (fld w 0 7)) 1
  else
  .opcode

/-- Opcode 0x3F. -/
def decode3F (w : Word) (_x : Option Word) : Decoded :=
  if fld w 22 2 == 0#2 then
    .ok (.sldspB32 (flag w 31) (fld w 16 6) (fld w 10 6) (fld w 0 10)) 1
  else
  if fld w 22 2 == 1#2 then
    .ok (.sldspB64 (flag w 31) (fld w 16 6) (fld w 10 6) (fld w 0 10)) 1
  else
  if fld w 22 2 == 2#2 then
    .ok (.sstspB32 (flag w 31) (fld w 16 6) (fld w 10 6) (fld w 0 10)) 1
  else
  if fld w 22 2 == 3#2 then
    .ok (.sstspB64 (flag w 31) (fld w 16 6) (fld w 10 6) (fld w 0 10)) 1
  else
  .opcode

/-- Opcode 0x40. -/
def decode40 (w : Word) (_x : Option Word) : Decoded :=
  if fld w 20 4 == 0#4 && fld w 0 1 == 0#1 then
    .ok (.atomAddI32 (flag w 31) (Ord.ofCode (fld w 18 2)) (Scope.ofCode (fld w 15 3)) (fld w 8 7) (fld w 1 7)) 1
  else
  if fld w 20 4 == 1#4 && fld w 0 1 == 0#1 then
    .ok (.atomAddF32 (flag w 31) (Ord.ofCode (fld w 18 2)) (Scope.ofCode (fld w 15 3)) (fld w 8 7) (fld w 1 7)) 1
  else
  if fld w 20 4 == 2#4 && fld w 0 1 == 0#1 then
    .ok (.atomMinS32 (flag w 31) (Ord.ofCode (fld w 18 2)) (Scope.ofCode (fld w 15 3)) (fld w 8 7) (fld w 1 7)) 1
  else
  if fld w 20 4 == 3#4 && fld w 0 1 == 0#1 then
    .ok (.atomMaxS32 (flag w 31) (Ord.ofCode (fld w 18 2)) (Scope.ofCode (fld w 15 3)) (fld w 8 7) (fld w 1 7)) 1
  else
  if fld w 20 4 == 4#4 && fld w 0 1 == 0#1 then
    .ok (.atomMinN32 (flag w 31) (Ord.ofCode (fld w 18 2)) (Scope.ofCode (fld w 15 3)) (fld w 8 7) (fld w 1 7)) 1
  else
  if fld w 20 4 == 5#4 && fld w 0 1 == 0#1 then
    .ok (.atomMaxN32 (flag w 31) (Ord.ofCode (fld w 18 2)) (Scope.ofCode (fld w 15 3)) (fld w 8 7) (fld w 1 7)) 1
  else
  if fld w 20 4 == 6#4 && fld w 0 1 == 0#1 then
    .ok (.atomAnd (flag w 31) (Ord.ofCode (fld w 18 2)) (Scope.ofCode (fld w 15 3)) (fld w 8 7) (fld w 1 7)) 1
  else
  if fld w 20 4 == 7#4 && fld w 0 1 == 0#1 then
    .ok (.atomOr (flag w 31) (Ord.ofCode (fld w 18 2)) (Scope.ofCode (fld w 15 3)) (fld w 8 7) (fld w 1 7)) 1
  else
  if fld w 20 4 == 8#4 && fld w 0 1 == 0#1 then
    .ok (.atomXor (flag w 31) (Ord.ofCode (fld w 18 2)) (Scope.ofCode (fld w 15 3)) (fld w 8 7) (fld w 1 7)) 1
  else
  if fld w 20 4 == 9#4 && fld w 0 1 == 0#1 then
    .ok (.atomExch (flag w 31) (Ord.ofCode (fld w 18 2)) (Scope.ofCode (fld w 15 3)) (fld w 8 7) (fld w 1 7)) 1
  else
  if fld w 20 4 == 10#4 && fld w 0 1 == 0#1 then
    .ok (.atomCas (flag w 31) (Ord.ofCode (fld w 18 2)) (Scope.ofCode (fld w 15 3)) (fld w 8 7) (fld w 1 7)) 1
  else
  if fld w 20 4 == 11#4 && fld w 0 1 == 0#1 then
    .ok (.atomMaxi (flag w 31) (Ord.ofCode (fld w 18 2)) (Scope.ofCode (fld w 15 3)) (fld w 8 7) (fld w 1 7)) 1
  else
  if fld w 20 4 == 12#4 && fld w 0 1 == 0#1 then
    .ok (.atomAddF16x2 (flag w 31) (Ord.ofCode (fld w 18 2)) (Scope.ofCode (fld w 15 3)) (fld w 8 7) (fld w 1 7)) 1
  else
  if fld w 20 4 == 13#4 && fld w 0 1 == 0#1 then
    .ok (.atomAddI64 (flag w 31) (Ord.ofCode (fld w 18 2)) (Scope.ofCode (fld w 15 3)) (fld w 8 7) (fld w 1 7)) 1
  else
  .opcode

/-- Opcode 0x41. -/
def decode41 (w : Word) (_x : Option Word) : Decoded :=
  if fld w 20 4 == 0#4 && fld w 0 1 == 0#1 then
    .ok (.atomsAddI32 (flag w 31) (Ord.ofCode (fld w 18 2)) (Scope.ofCode (fld w 15 3)) (fld w 8 7) (fld w 1 7)) 1
  else
  if fld w 20 4 == 1#4 && fld w 0 1 == 0#1 then
    .ok (.atomsAddF32 (flag w 31) (Ord.ofCode (fld w 18 2)) (Scope.ofCode (fld w 15 3)) (fld w 8 7) (fld w 1 7)) 1
  else
  if fld w 20 4 == 2#4 && fld w 0 1 == 0#1 then
    .ok (.atomsMinS32 (flag w 31) (Ord.ofCode (fld w 18 2)) (Scope.ofCode (fld w 15 3)) (fld w 8 7) (fld w 1 7)) 1
  else
  if fld w 20 4 == 3#4 && fld w 0 1 == 0#1 then
    .ok (.atomsMaxS32 (flag w 31) (Ord.ofCode (fld w 18 2)) (Scope.ofCode (fld w 15 3)) (fld w 8 7) (fld w 1 7)) 1
  else
  if fld w 20 4 == 4#4 && fld w 0 1 == 0#1 then
    .ok (.atomsMinN32 (flag w 31) (Ord.ofCode (fld w 18 2)) (Scope.ofCode (fld w 15 3)) (fld w 8 7) (fld w 1 7)) 1
  else
  if fld w 20 4 == 5#4 && fld w 0 1 == 0#1 then
    .ok (.atomsMaxN32 (flag w 31) (Ord.ofCode (fld w 18 2)) (Scope.ofCode (fld w 15 3)) (fld w 8 7) (fld w 1 7)) 1
  else
  if fld w 20 4 == 6#4 && fld w 0 1 == 0#1 then
    .ok (.atomsAnd (flag w 31) (Ord.ofCode (fld w 18 2)) (Scope.ofCode (fld w 15 3)) (fld w 8 7) (fld w 1 7)) 1
  else
  if fld w 20 4 == 7#4 && fld w 0 1 == 0#1 then
    .ok (.atomsOr (flag w 31) (Ord.ofCode (fld w 18 2)) (Scope.ofCode (fld w 15 3)) (fld w 8 7) (fld w 1 7)) 1
  else
  if fld w 20 4 == 8#4 && fld w 0 1 == 0#1 then
    .ok (.atomsXor (flag w 31) (Ord.ofCode (fld w 18 2)) (Scope.ofCode (fld w 15 3)) (fld w 8 7) (fld w 1 7)) 1
  else
  if fld w 20 4 == 9#4 && fld w 0 1 == 0#1 then
    .ok (.atomsExch (flag w 31) (Ord.ofCode (fld w 18 2)) (Scope.ofCode (fld w 15 3)) (fld w 8 7) (fld w 1 7)) 1
  else
  if fld w 20 4 == 10#4 && fld w 0 1 == 0#1 then
    .ok (.atomsCas (flag w 31) (Ord.ofCode (fld w 18 2)) (Scope.ofCode (fld w 15 3)) (fld w 8 7) (fld w 1 7)) 1
  else
  if fld w 20 4 == 11#4 && fld w 0 1 == 0#1 then
    .ok (.atomsMaxi (flag w 31) (Ord.ofCode (fld w 18 2)) (Scope.ofCode (fld w 15 3)) (fld w 8 7) (fld w 1 7)) 1
  else
  if fld w 20 4 == 12#4 && fld w 0 1 == 0#1 then
    .ok (.atomsAddF16x2 (flag w 31) (Ord.ofCode (fld w 18 2)) (Scope.ofCode (fld w 15 3)) (fld w 8 7) (fld w 1 7)) 1
  else
  if fld w 20 4 == 13#4 && fld w 0 1 == 0#1 then
    .ok (.atomsAddI64 (flag w 31) (Ord.ofCode (fld w 18 2)) (Scope.ofCode (fld w 15 3)) (fld w 8 7) (fld w 1 7)) 1
  else
  .opcode

/-- Opcode 0x42. -/
def decode42 (w : Word) (_x : Option Word) : Decoded :=
  if fld w 20 4 == 0#4 && fld w 0 1 == 0#1 then
    .ok (.redAddI32 (flag w 31) (Ord.ofCode (fld w 18 2)) (Scope.ofCode (fld w 15 3)) (fld w 8 7) (fld w 1 7)) 1
  else
  if fld w 20 4 == 1#4 && fld w 0 1 == 0#1 then
    .ok (.redAddF32 (flag w 31) (Ord.ofCode (fld w 18 2)) (Scope.ofCode (fld w 15 3)) (fld w 8 7) (fld w 1 7)) 1
  else
  if fld w 20 4 == 2#4 && fld w 0 1 == 0#1 then
    .ok (.redMinS32 (flag w 31) (Ord.ofCode (fld w 18 2)) (Scope.ofCode (fld w 15 3)) (fld w 8 7) (fld w 1 7)) 1
  else
  if fld w 20 4 == 3#4 && fld w 0 1 == 0#1 then
    .ok (.redMaxS32 (flag w 31) (Ord.ofCode (fld w 18 2)) (Scope.ofCode (fld w 15 3)) (fld w 8 7) (fld w 1 7)) 1
  else
  if fld w 20 4 == 4#4 && fld w 0 1 == 0#1 then
    .ok (.redMinN32 (flag w 31) (Ord.ofCode (fld w 18 2)) (Scope.ofCode (fld w 15 3)) (fld w 8 7) (fld w 1 7)) 1
  else
  if fld w 20 4 == 5#4 && fld w 0 1 == 0#1 then
    .ok (.redMaxN32 (flag w 31) (Ord.ofCode (fld w 18 2)) (Scope.ofCode (fld w 15 3)) (fld w 8 7) (fld w 1 7)) 1
  else
  if fld w 20 4 == 6#4 && fld w 0 1 == 0#1 then
    .ok (.redAnd (flag w 31) (Ord.ofCode (fld w 18 2)) (Scope.ofCode (fld w 15 3)) (fld w 8 7) (fld w 1 7)) 1
  else
  if fld w 20 4 == 7#4 && fld w 0 1 == 0#1 then
    .ok (.redOr (flag w 31) (Ord.ofCode (fld w 18 2)) (Scope.ofCode (fld w 15 3)) (fld w 8 7) (fld w 1 7)) 1
  else
  if fld w 20 4 == 8#4 && fld w 0 1 == 0#1 then
    .ok (.redXor (flag w 31) (Ord.ofCode (fld w 18 2)) (Scope.ofCode (fld w 15 3)) (fld w 8 7) (fld w 1 7)) 1
  else
  if fld w 20 4 == 11#4 && fld w 0 1 == 0#1 then
    .ok (.redMaxi (flag w 31) (Ord.ofCode (fld w 18 2)) (Scope.ofCode (fld w 15 3)) (fld w 8 7) (fld w 1 7)) 1
  else
  if fld w 20 4 == 12#4 && fld w 0 1 == 0#1 then
    .ok (.redAddF16x2 (flag w 31) (Ord.ofCode (fld w 18 2)) (Scope.ofCode (fld w 15 3)) (fld w 8 7) (fld w 1 7)) 1
  else
  if fld w 20 4 == 13#4 && fld w 0 1 == 0#1 then
    .ok (.redAddI64 (flag w 31) (Ord.ofCode (fld w 18 2)) (Scope.ofCode (fld w 15 3)) (fld w 8 7) (fld w 1 7)) 1
  else
  .opcode

/-- Opcode 0x43. -/
def decode43 (w : Word) (_x : Option Word) : Decoded :=
  if fld w 20 4 == 0#4 && fld w 0 1 == 0#1 then
    .ok (.ldaB16 (flag w 31) (Ord.ofCode (fld w 18 2)) (Scope.ofCode (fld w 15 3)) (fld w 8 7) (fld w 1 7)) 1
  else
  if fld w 20 4 == 4#4 && fld w 0 1 == 0#1 then
    .ok (.ldaB32 (flag w 31) (Ord.ofCode (fld w 18 2)) (Scope.ofCode (fld w 15 3)) (fld w 8 7) (fld w 1 7)) 1
  else
  if fld w 20 4 == 8#4 && fld w 0 1 == 0#1 then
    .ok (.ldaB64 (flag w 31) (Ord.ofCode (fld w 18 2)) (Scope.ofCode (fld w 15 3)) (fld w 8 7) (fld w 1 7)) 1
  else
  .opcode

/-- Opcode 0x44. -/
def decode44 (w : Word) (_x : Option Word) : Decoded :=
  if fld w 20 4 == 0#4 && fld w 0 1 == 0#1 then
    .ok (.stlB16 (flag w 31) (Ord.ofCode (fld w 18 2)) (Scope.ofCode (fld w 15 3)) (fld w 8 7) (fld w 1 7)) 1
  else
  if fld w 20 4 == 4#4 && fld w 0 1 == 0#1 then
    .ok (.stlB32 (flag w 31) (Ord.ofCode (fld w 18 2)) (Scope.ofCode (fld w 15 3)) (fld w 8 7) (fld w 1 7)) 1
  else
  if fld w 20 4 == 8#4 && fld w 0 1 == 0#1 then
    .ok (.stlB64 (flag w 31) (Ord.ofCode (fld w 18 2)) (Scope.ofCode (fld w 15 3)) (fld w 8 7) (fld w 1 7)) 1
  else
  .opcode

/-- Opcode 0x45. -/
def decode45 (w : Word) (_x : Option Word) : Decoded :=
  if fld w 22 2 == 0#2 && fld w 0 19 == 0#19 then
    .ok (.fenceAcq (flag w 31) (Scope.ofCode (fld w 19 3))) 1
  else
  if fld w 22 2 == 1#2 && fld w 0 19 == 0#19 then
    .ok (.fenceRel (flag w 31) (Scope.ofCode (fld w 19 3))) 1
  else
  if fld w 22 2 == 2#2 && fld w 0 19 == 0#19 then
    .ok (.fenceAr (flag w 31) (Scope.ofCode (fld w 19 3))) 1
  else
  if fld w 22 2 == 3#2 && fld w 0 19 == 0#19 then
    .ok (.fenceSc (flag w 31) (Scope.ofCode (fld w 19 3))) 1
  else
  .opcode

/-- Opcode 0x46. -/
def decode46 (w : Word) (_x : Option Word) : Decoded :=
  if fld w 22 2 == 0#2 && fld w 0 2 == 0#2 then
    .ok (.lcpy4 (flag w 31) (fld w 15 7) (fld w 9 6) (fld w 2 7)) 1
  else
  if fld w 22 2 == 1#2 && fld w 0 2 == 0#2 then
    .ok (.lcpy8 (flag w 31) (fld w 15 7) (fld w 9 6) (fld w 2 7)) 1
  else
  if fld w 22 2 == 2#2 && fld w 0 2 == 0#2 then
    .ok (.lcpy16 (flag w 31) (fld w 15 7) (fld w 9 6) (fld w 2 7)) 1
  else
  if fld w 22 2 == 3#2 && fld w 0 2 == 0#2 then
    .ok (.lcpy32 (flag w 31) (fld w 15 7) (fld w 9 6) (fld w 2 7)) 1
  else
  .opcode

/-- Opcode 0x47. -/
def decode47 (w : Word) (_x : Option Word) : Decoded :=
  if fld w 22 2 == 0#2 && fld w 0 10 == 0#10 then
    .ok (.waitvEq (flag w 31) (fld w 16 6) (fld w 10 6)) 1
  else
  if fld w 22 2 == 1#2 && fld w 0 10 == 0#10 then
    .ok (.waitvNe (flag w 31) (fld w 16 6) (fld w 10 6)) 1
  else
  if fld w 22 2 == 2#2 && fld w 0 10 == 0#10 then
    .ok (.waitvGe (flag w 31) (fld w 16 6) (fld w 10 6)) 1
  else
  if fld w 22 2 == 3#2 && fld w 0 10 == 0#10 then
    .ok (.waitvLt (flag w 31) (fld w 16 6) (fld w 10 6)) 1
  else
  .opcode

/-- Opcode 0x48. -/
def decode48 (w : Word) (_x : Option Word) : Decoded :=
  if fld w 16 8 == 0#8 then
    .ok (.prefL2 (flag w 31) (fld w 10 6) (fld w 0 10)) 1
  else
  if fld w 16 8 == 64#8 then
    .ok (.prefL1 (flag w 31) (fld w 10 6) (fld w 0 10)) 1
  else
  if fld w 16 8 == 128#8 then
    .ok (.prefGinv (flag w 31) (fld w 10 6) (fld w 0 10)) 1
  else
  if fld w 16 8 == 192#8 then
    .ok (.prefWb (flag w 31) (fld w 10 6) (fld w 0 10)) 1
  else
  .opcode

/-- Opcode 0x49. -/
def decode49 (w : Word) (x : Option Word) : Decoded :=
  if fld w 22 2 == 0#2 && fld w 0 1 == 0#1 then
    withFx x fun fx => .mmaDense (flag w 31) (fld w 15 7) (fld w 8 7) (fld w 1 7) fx
  else
  if fld w 22 2 == 1#2 && fld w 0 1 == 0#1 then
    withFx x fun fx => .mmaSp (flag w 31) (fld w 15 7) (fld w 8 7) (fld w 1 7) fx
  else
  if fld w 22 2 == 2#2 && fld w 0 1 == 0#1 then
    withFx x fun fx => .mmaZ (flag w 31) (fld w 15 7) (fld w 8 7) (fld w 1 7) fx
  else
  .opcode

/-- Opcode 0x4A. -/
def decode4A (w : Word) (x : Option Word) : Decoded :=
  if fld w 22 2 == 0#2 && fld w 0 12 == 0#12 then
    withFx x fun fx => .tmmaAcc (flag w 31) (fld w 16 6) (fld w 14 2) (fld w 12 2) fx
  else
  if fld w 22 2 == 1#2 && fld w 0 12 == 0#12 then
    withFx x fun fx => .tmmaZ (flag w 31) (fld w 16 6) (fld w 14 2) (fld w 12 2) fx
  else
  .opcode

/-- Opcode 0x4B. -/
def decode4B (w : Word) (_x : Option Word) : Decoded :=
  if fld w 22 2 == 0#2 then
    .ok (.tlda (flag w 31) (fld w 15 7) (fld w 9 6) (fld w 7 2) (fld w 0 7)) 1
  else
  if fld w 22 2 == 1#2 then
    .ok (.tldb (flag w 31) (fld w 15 7) (fld w 9 6) (fld w 7 2) (fld w 0 7)) 1
  else
  if fld w 22 2 == 2#2 then
    .ok (.tstd (flag w 31) (fld w 15 7) (fld w 9 6) (fld w 7 2) (fld w 0 7)) 1
  else
  if fld w 22 2 == 3#2 then
    .ok (.tldd (flag w 31) (fld w 15 7) (fld w 9 6) (fld w 7 2) (fld w 0 7)) 1
  else
  .opcode

/-- Opcode 0x4C. -/
def decode4C (w : Word) (x : Option Word) : Decoded :=
  if fld w 22 2 == 0#2 && fld w 0 10 == 0#10 then
    withFx x fun fx => .cpyGs (flag w 31) (fld w 16 6) (fld w 10 6) fx
  else
  if fld w 22 2 == 1#2 && fld w 0 10 == 0#10 then
    withFx x fun fx => .cpySg (flag w 31) (fld w 16 6) (fld w 10 6) fx
  else
  if fld w 22 2 == 2#2 && fld w 0 10 == 0#10 then
    withFx x fun fx => .cpyGg (flag w 31) (fld w 16 6) (fld w 10 6) fx
  else
  if fld w 22 2 == 3#2 && fld w 0 10 == 0#10 then
    withFx x fun fx => .cpySs (flag w 31) (fld w 16 6) (fld w 10 6) fx
  else
  .opcode

/-- Opcode 0x4D. -/
def decode4D (w : Word) (x : Option Word) : Decoded :=
  if fld w 22 2 == 0#2 && fld w 0 10 == 0#10 then
    withFx x fun fx => .cplFill (flag w 31) (fld w 16 6) (fld w 10 6) fx
  else
  if fld w 22 2 == 1#2 && fld w 0 10 == 0#10 then
    withFx x fun fx => .cplDrain (flag w 31) (fld w 16 6) (fld w 10 6) fx
  else
  .opcode

/-- Opcode 0x4E. -/
def decode4E (w : Word) (_x : Option Word) : Decoded :=
  if fld w 22 2 == 0#2 && fld w 0 16 == 0#16 then
    .ok (.lcseal (flag w 31) (fld w 16 6)) 1
  else
  .opcode

/-- Opcode 0x4F. -/
def decode4F (w : Word) (x : Option Word) : Decoded :=
  if fld w 22 2 == 0#2 && fld w 0 10 == 0#10 then
    withFx x fun fx => .collAr (flag w 31) (fld w 16 6) (fld w 10 6) fx
  else
  if fld w 22 2 == 1#2 && fld w 0 10 == 0#10 then
    withFx x fun fx => .collAg (flag w 31) (fld w 16 6) (fld w 10 6) fx
  else
  if fld w 22 2 == 2#2 && fld w 0 10 == 0#10 then
    withFx x fun fx => .collRs (flag w 31) (fld w 16 6) (fld w 10 6) fx
  else
  if fld w 22 2 == 3#2 && fld w 0 10 == 0#10 then
    withFx x fun fx => .collBc (flag w 31) (fld w 16 6) (fld w 10 6) fx
  else
  .opcode

/-- Opcode 0x50. -/
def decode50 (w : Word) (_x : Option Word) : Decoded :=
  if fld w 22 2 == 0#2 && fld w 0 10 == 0#10 then
    .ok (.fwait (flag w 31) (fld w 16 6) (fld w 10 6)) 1
  else
  if fld w 22 2 == 1#2 && fld w 0 10 == 0#10 then
    .ok (.fwaitT (flag w 31) (fld w 16 6) (fld w 10 6)) 1
  else
  if fld w 22 2 == 2#2 && fld w 0 10 == 0#10 then
    .ok (.ftest (flag w 31) (fld w 16 6) (fld w 10 6)) 1
  else
  if fld w 22 2 == 3#2 && fld w 0 16 == 0#16 then
    .ok (.fwaitall (flag w 31) (fld w 16 6)) 1
  else
  .opcode

/-- Opcode 0x51. -/
def decode51 (w : Word) (x : Option Word) : Decoded :=
  if fld w 16 8 == 0#8 && fld w 0 10 == 0#10 then
    .ok (.fcancel (flag w 31) (fld w 10 6)) 1
  else
  if fld w 16 8 == 64#8 && fld w 0 10 == 0#10 then
    .ok (.fdetach (flag w 31) (fld w 10 6)) 1
  else
  if fld w 16 8 == 128#8 && fld w 8 2 == 0#2 then
    withSrc (fld w 0 8) x fun a => .fprio (flag w 31) (fld w 10 6) a
  else
  if fld w 22 2 == 3#2 && fld w 8 2 == 0#2 then
    withSrc (fld w 0 8) x fun a => .fstat (flag w 31) (fld w 16 6) (fld w 10 6) a
  else
  .opcode

/-- Opcode 0x52. -/
def decode52 (w : Word) (_x : Option Word) : Decoded :=
  if fld w 22 2 == 0#2 && fld w 0 10 == 0#10 then
    .ok (.pwrhD (flag w 31) (fld w 18 4) (fld w 14 4) (fld w 10 4)) 1
  else
  if fld w 14 10 == 256#10 && fld w 0 10 == 0#10 then
    .ok (.pwrhX (flag w 31) (fld w 10 4)) 1
  else
  if fld w 0 24 == 8388608#24 then
    .ok (.pwrhE (flag w 31)) 1
  else
  if fld w 0 24 == 12582912#24 then
    .ok (.pwrhQ (flag w 31)) 1
  else
  if fld w 0 10 == 0#10 then .operand else .opcode

/-- Opcode 0x53. -/
def decode53 (w : Word) (x : Option Word) : Decoded :=
  if fld w 22 2 == 0#2 && fld w 0 10 == 0#10 then
    .ok (.racq (flag w 31) (fld w 16 6) (fld w 10 6)) 1
  else
  if fld w 16 8 == 64#8 && fld w 0 10 == 0#10 then
    .ok (.rrel (flag w 31) (fld w 10 6)) 1
  else
  if fld w 16 8 == 128#8 && fld w 8 2 == 0#2 then
    withSrc (fld w 0 8) x fun a => .rinit (flag w 31) (fld w 10 6) a
  else
  if fld w 22 2 == 3#2 && fld w 0 10 == 0#10 then
    .ok (.rstat (flag w 31) (fld w 16 6) (fld w 10 6)) 1
  else
  .opcode

/-- Opcode 0x54. -/
def decode54 (w : Word) (x : Option Word) : Decoded :=
  if fld w 16 8 == 0#8 && fld w 8 2 == 0#2 then
    withSrc (fld w 0 8) x fun a => .tbinit (flag w 31) (fld w 10 6) a
  else
  if fld w 22 2 == 1#2 && fld w 0 10 == 0#10 then
    .ok (.tbarv (flag w 31) (fld w 16 6) (fld w 10 6)) 1
  else
  if fld w 22 2 == 2#2 && fld w 8 2 == 0#2 then
    withSrc (fld w 0 8) x fun a => .tbwait (flag w 31) (fld w 16 6) (fld w 10 6) a
  else
  if fld w 16 8 == 192#8 && fld w 8 2 == 0#2 then
    withSrc (fld w 0 8) x fun a => .tbexp (flag w 31) (fld w 10 6) a
  else
  .opcode

/-- Opcode 0x55. -/
def decode55 (w : Word) (x : Option Word) : Decoded :=
  if fld w 22 2 == 0#2 && fld w 8 2 == 0#2 then
    withSrc (fld w 0 8) x fun a => .qpostL (flag w 31) (fld w 16 6) (fld w 10 6) a
  else
  if fld w 22 2 == 1#2 && fld w 8 2 == 0#2 then
    withSrc (fld w 0 8) x fun a => .qpostR (flag w 31) (fld w 16 6) (fld w 10 6) a
  else
  if fld w 22 2 == 2#2 && fld w 8 2 == 0#2 then
    withSrc (fld w 0 8) x fun a => .qpostS (flag w 31) (fld w 16 6) (fld w 10 6) a
  else
  .opcode

/-- Opcode 0x56. -/
def decode56 (w : Word) (_x : Option Word) : Decoded :=
  if fld w 22 2 == 0#2 && fld w 0 16 == 0#16 then
    .ok (.rtake (flag w 31) (fld w 16 6)) 1
  else
  if fld w 22 2 == 1#2 && fld w 0 16 == 0#16 then
    .ok (.rsplit (flag w 31) (fld w 16 6)) 1
  else
  if fld w 16 8 == 128#8 && fld w 0 10 == 0#10 then
    .ok (.rdone (flag w 31) (fld w 10 6)) 1
  else
  .opcode

/-- Opcode 0x57. -/
def decode57 (w : Word) (x : Option Word) : Decoded :=
  if fld w 22 2 == 0#2 && fld w 8 5 == 0#5 then
    withSrc (fld w 0 8) x fun a => .cntAdd (flag w 31) (fld w 16 6) (fld w 13 3) a
  else
  if fld w 22 2 == 1#2 && fld w 8 5 == 0#5 then
    withSrc (fld w 0 8) x fun a => .cntWait (flag w 31) (fld w 16 6) (fld w 13 3) a
  else
  if fld w 22 2 == 2#2 && fld w 8 5 == 0#5 then
    withSrc (fld w 0 8) x fun a => .cntRd (flag w 31) (fld w 16 6) (fld w 13 3) a
  else
  if fld w 16 8 == 192#8 && fld w 8 5 == 0#5 then
    withSrc (fld w 0 8) x fun a => .cntCncl (flag w 31) (fld w 13 3) a
  else
  .opcode

/-- Opcode 0x58. -/
def decode58 (w : Word) (_x : Option Word) : Decoded :=
  if fld w 16 8 == 0#8 then
    .ok (.trap (flag w 31) (fld w 0 16)) 1
  else
  if fld w 16 8 == 64#8 then
    .ok (.brk (flag w 31) (fld w 0 16)) 1
  else
  if fld w 0 24 == 8388608#24 then
    .ok (.halt (flag w 31)) 1
  else
  .opcode

/-- Opcode 0x59. -/
def decode59 (w : Word) (x : Option Word) : Decoded :=
  if fld w 22 2 == 0#2 && fld w 8 8 == 0#8 then
    withSrc (fld w 0 8) x fun a => .csrr (flag w 31) (fld w 16 6) a
  else
  if fld w 22 2 == 1#2 && fld w 8 2 == 0#2 then
    withSrc (fld w 0 8) x fun a => .csrw (flag w 31) (fld w 16 6) (fld w 10 6) a
  else
  if fld w 22 2 == 2#2 && fld w 8 2 == 0#2 then
    withSrc (fld w 0 8) x fun a => .csrs (flag w 31) (fld w 16 6) (fld w 10 6) a
  else
  if fld w 22 2 == 3#2 && fld w 8 2 == 0#2 then
    withSrc (fld w 0 8) x fun a => .csrc (flag w 31) (fld w 16 6) (fld w 10 6) a
  else
  .opcode

/-- Opcode 0x5A. -/
def decode5A (w : Word) (_x : Option Word) : Decoded :=
  if fld w 0 24 == 0#24 then
    .ok (.eret (flag w 31)) 1
  else
  .opcode

/-- Opcode 0x5B. -/
def decode5B (w : Word) (x : Option Word) : Decoded :=
  if fld w 8 16 == 0#16 then
    withSrc (fld w 0 8) x fun a => .tlbiVa (flag w 31) a
  else
  if fld w 8 16 == 16384#16 then
    withSrc (fld w 0 8) x fun a => .tlbiPart (flag w 31) a
  else
  if fld w 0 24 == 8388608#24 then
    .ok (.tlbiAll (flag w 31)) 1
  else
  if fld w 0 24 == 12582912#24 then
    .ok (.tlbiSync (flag w 31)) 1
  else
  .opcode

/-- Opcode 0x5C. -/
def decode5C (w : Word) (x : Option Word) : Decoded :=
  if fld w 22 2 == 0#2 && fld w 8 8 == 0#8 then
    withSrc (fld w 0 8) x fun a => .mrdc (flag w 31) (fld w 16 6) a
  else
  if fld w 22 2 == 1#2 && fld w 8 2 == 0#2 then
    withSrc (fld w 0 8) x fun a => .msign (flag w 31) (fld w 16 6) (fld w 10 6) a
  else
  .opcode

/-- Opcode 0x5D. -/
def decode5D (w : Word) (x : Option Word) : Decoded :=
  if fld w 22 2 == 0#2 && fld w 8 2 == 0#2 then
    withSrc (fld w 0 8) x fun a => .rctxRd (flag w 31) (fld w 16 6) (fld w 10 6) a
  else
  if fld w 22 2 == 1#2 && fld w 8 2 == 0#2 then
    withSrc (fld w 0 8) x fun a => .rctxWr (flag w 31) (fld w 16 6) (fld w 10 6) a
  else
  if fld w 22 2 == 2#2 && fld w 8 2 == 0#2 then
    withSrc (fld w 0 8) x fun a => .rctxResume (flag w 31) (fld w 16 6) (fld w 10 6) a
  else
  if fld w 22 2 == 3#2 && fld w 8 2 == 0#2 then
    withSrc (fld w 0 8) x fun a => .rctxKill (flag w 31) (fld w 16 6) (fld w 10 6) a
  else
  .opcode

/-- Opcode 0x5E. -/
def decode5E (w : Word) (x : Option Word) : Decoded :=
  if fld w 22 2 == 0#2 && fld w 0 10 == 0#10 then
    .ok (.switchArm (flag w 31) (fld w 16 6) (fld w 10 6)) 1
  else
  if fld w 22 2 == 1#2 && fld w 0 10 == 0#10 then
    .ok (.switchUrgent (flag w 31) (fld w 16 6) (fld w 10 6)) 1
  else
  if fld w 22 2 == 2#2 && fld w 8 8 == 0#8 then
    withSrc (fld w 0 8) x fun a => .switchCancel (flag w 31) (fld w 16 6) a
  else
  .opcode

/-- Opcode 0x5F. -/
def decode5F (w : Word) (x : Option Word) : Decoded :=
  if fld w 22 2 == 0#2 && fld w 8 2 == 0#2 then
    withSrc (fld w 0 8) x fun a => .partCreate (flag w 31) (fld w 16 6) (fld w 10 6) a
  else
  if fld w 22 2 == 1#2 && fld w 8 8 == 0#8 then
    withSrc (fld w 0 8) x fun a => .partDestroy (flag w 31) (fld w 16 6) a
  else
  if fld w 22 2 == 2#2 && fld w 8 2 == 0#2 then
    withSrc (fld w 0 8) x fun a => .partBitmap (flag w 31) (fld w 16 6) (fld w 10 6) a
  else
  if fld w 22 2 == 3#2 && fld w 8 2 == 0#2 then
    withSrc (fld w 0 8) x fun a => .partWays (flag w 31) (fld w 16 6) (fld w 10 6) a
  else
  .opcode

/-- Opcode 0x60. -/
def decode60 (w : Word) (x : Option Word) : Decoded :=
  if fld w 22 2 == 0#2 && fld w 8 8 == 0#8 then
    withSrc (fld w 0 8) x fun a => .capr (flag w 31) (fld w 16 6) a
  else
  .opcode

/-- The decoder: a first word and the word after it in the clause (R27, R40, R41). -/
def decode (w : Word) (x : Option Word) : Decoded :=
  match (fld w 24 7).toNat with
  | 0x01 => decode01 w x
  | 0x02 => decode02 w x
  | 0x03 => decode03 w x
  | 0x04 => decode04 w x
  | 0x05 => decode05 w x
  | 0x06 => decode06 w x
  | 0x07 => decode07 w x
  | 0x08 => decode08 w x
  | 0x09 => decode09 w x
  | 0x0A => decode0A w x
  | 0x0B => decode0B w x
  | 0x0C => decode0C w x
  | 0x0D => decode0D w x
  | 0x0E => decode0E w x
  | 0x0F => decode0F w x
  | 0x10 => decode10 w x
  | 0x11 => decode11 w x
  | 0x12 => decode12 w x
  | 0x13 => decode13 w x
  | 0x14 => decode14 w x
  | 0x15 => decode15 w x
  | 0x16 => decode16 w x
  | 0x17 => decode17 w x
  | 0x18 => decode18 w x
  | 0x19 => decode19 w x
  | 0x1A => decode1A w x
  | 0x1B => decode1B w x
  | 0x1C => decode1C w x
  | 0x1D => decode1D w x
  | 0x1E => decode1E w x
  | 0x1F => decode1F w x
  | 0x20 => decode20 w x
  | 0x21 => decode21 w x
  | 0x22 => decode22 w x
  | 0x23 => decode23 w x
  | 0x24 => decode24 w x
  | 0x25 => decode25 w x
  | 0x26 => decode26 w x
  | 0x27 => decode27 w x
  | 0x28 => decode28 w x
  | 0x29 => decode29 w x
  | 0x2A => decode2A w x
  | 0x2B => decode2B w x
  | 0x2C => decode2C w x
  | 0x2D => decode2D w x
  | 0x2E => decode2E w x
  | 0x2F => decode2F w x
  | 0x30 => decode30 w x
  | 0x31 => decode31 w x
  | 0x32 => decode32 w x
  | 0x33 => decode33 w x
  | 0x34 => decode34 w x
  | 0x35 => decode35 w x
  | 0x36 => decode36 w x
  | 0x37 => decode37 w x
  | 0x38 => decode38 w x
  | 0x39 => decode39 w x
  | 0x3A => decode3A w x
  | 0x3B => decode3B w x
  | 0x3C => decode3C w x
  | 0x3D => decode3D w x
  | 0x3E => decode3E w x
  | 0x3F => decode3F w x
  | 0x40 => decode40 w x
  | 0x41 => decode41 w x
  | 0x42 => decode42 w x
  | 0x43 => decode43 w x
  | 0x44 => decode44 w x
  | 0x45 => decode45 w x
  | 0x46 => decode46 w x
  | 0x47 => decode47 w x
  | 0x48 => decode48 w x
  | 0x49 => decode49 w x
  | 0x4A => decode4A w x
  | 0x4B => decode4B w x
  | 0x4C => decode4C w x
  | 0x4D => decode4D w x
  | 0x4E => decode4E w x
  | 0x4F => decode4F w x
  | 0x50 => decode50 w x
  | 0x51 => decode51 w x
  | 0x52 => decode52 w x
  | 0x53 => decode53 w x
  | 0x54 => decode54 w x
  | 0x55 => decode55 w x
  | 0x56 => decode56 w x
  | 0x57 => decode57 w x
  | 0x58 => decode58 w x
  | 0x59 => decode59 w x
  | 0x5A => decode5A w x
  | 0x5B => decode5B w x
  | 0x5C => decode5C w x
  | 0x5D => decode5D w x
  | 0x5E => decode5E w x
  | 0x5F => decode5F w x
  | 0x60 => decode60 w x
  | _ => .opcode

/-- The words of an instruction (R29, R34); an event row has none. -/
def encode : Instr → List Word
  | .br sw o => [((bit sw) ++ 1#7 ++ 0#2 ++ o : Word)]
  | .brS1 sw o => [((bit sw) ++ 1#7 ++ 1#2 ++ o : Word)]
  | .brS0 sw o => [((bit sw) ++ 1#7 ++ 2#2 ++ o : Word)]
  | .brEz sw o => [((bit sw) ++ 1#7 ++ 3#2 ++ o : Word)]
  | .call sw o => [((bit sw) ++ 2#7 ++ 0#2 ++ o : Word)]
  | .jmp sw a => ((bit sw) ++ 3#7 ++ 0#16 ++ a.code : Word) :: a.ext
  | .jmpl sw a => ((bit sw) ++ 3#7 ++ 16384#16 ++ a.code : Word) :: a.ext
  | .ret sw => [((bit sw) ++ 3#7 ++ 8388608#24 : Word)]
  | .mpush sw m => [((bit sw) ++ 4#7 ++ 0#8 ++ m ++ 0#12 : Word)]
  | .mpop sw => [((bit sw) ++ 4#7 ++ 4194304#24 : Word)]
  | .melse sw => [((bit sw) ++ 4#7 ++ 8388608#24 : Word)]
  | .mdepth sw d => [((bit sw) ++ 4#7 ++ 3#2 ++ d ++ 0#16 : Word)]
  | .mand sw m => [((bit sw) ++ 5#7 ++ 0#8 ++ m ++ 0#12 : Word)]
  | .mload sw m => [((bit sw) ++ 5#7 ++ 64#8 ++ m ++ 0#12 : Word)]
  | .msave sw m => [((bit sw) ++ 5#7 ++ 128#8 ++ m ++ 0#12 : Word)]
  | .mandn sw m => [((bit sw) ++ 5#7 ++ 192#8 ++ m ++ 0#12 : Word)]
  | .mrd sw d m p => [((bit sw) ++ 6#7 ++ 0#2 ++ d ++ m ++ p ++ 0#8 : Word)]
  | .mwr sw d m p => [((bit sw) ++ 6#7 ++ 1#2 ++ d ++ m ++ p ++ 0#8 : Word)]
  | .mpopc sw d m => [((bit sw) ++ 6#7 ++ 2#2 ++ d ++ m ++ 0#12 : Word)]
  | .mffs sw d m => [((bit sw) ++ 6#7 ++ 3#2 ++ d ++ m ++ 0#12 : Word)]
  | .lpack sw => [((bit sw) ++ 7#7 ++ 0#24 : Word)]
  | .lunpack sw => [((bit sw) ++ 7#7 ++ 4194304#24 : Word)]
  | .lperm sw d => [((bit sw) ++ 7#7 ++ 2#2 ++ d ++ 0#15 : Word)]
  | .barSync sw b n => [((bit sw) ++ 8#7 ++ 0#2 ++ b ++ 0#2 ++ n : Word)]
  | .barArv sw b n => [((bit sw) ++ 8#7 ++ 1#2 ++ b ++ 0#2 ++ n : Word)]
  | .barWt sw b => [((bit sw) ++ 8#7 ++ 2#2 ++ b ++ 0#18 : Word)]
  | .exit sw => [((bit sw) ++ 9#7 ++ 0#24 : Word)]
  | .exitD sw => [((bit sw) ++ 9#7 ++ 4194304#24 : Word)]
  | .nop sw => [((bit sw) ++ 10#7 ++ 0#24 : Word)]
  | .yield sw => [((bit sw) ++ 10#7 ++ 4194304#24 : Word)]
  | .sleep sw i => [((bit sw) ++ 10#7 ++ 128#8 ++ i : Word)]
  | .sadd sw d b a => ((bit sw) ++ 11#7 ++ 0#2 ++ d ++ b ++ 0#2 ++ a.code : Word) :: a.ext
  | .ssub sw d b a => ((bit sw) ++ 11#7 ++ 1#2 ++ d ++ b ++ 0#2 ++ a.code : Word) :: a.ext
  | .smul sw d b a => ((bit sw) ++ 11#7 ++ 2#2 ++ d ++ b ++ 0#2 ++ a.code : Word) :: a.ext
  | .smulh sw d b a => ((bit sw) ++ 11#7 ++ 3#2 ++ d ++ b ++ 0#2 ++ a.code : Word) :: a.ext
  | .saddi sw d i => [((bit sw) ++ 12#7 ++ 0#2 ++ d ++ i : Word)]
  | .smovi sw d i => [((bit sw) ++ 12#7 ++ 1#2 ++ d ++ i : Word)]
  | .slui sw d i => [((bit sw) ++ 12#7 ++ 2#2 ++ d ++ i : Word)]
  | .sori sw d i => [((bit sw) ++ 12#7 ++ 3#2 ++ d ++ i : Word)]
  | .sand sw d b a => ((bit sw) ++ 13#7 ++ 0#2 ++ d ++ b ++ 0#2 ++ a.code : Word) :: a.ext
  | .sor sw d b a => ((bit sw) ++ 13#7 ++ 1#2 ++ d ++ b ++ 0#2 ++ a.code : Word) :: a.ext
  | .sxor sw d b a => ((bit sw) ++ 13#7 ++ 2#2 ++ d ++ b ++ 0#2 ++ a.code : Word) :: a.ext
  | .sandn sw d b a => ((bit sw) ++ 13#7 ++ 3#2 ++ d ++ b ++ 0#2 ++ a.code : Word) :: a.ext
  | .sshl sw d b a => ((bit sw) ++ 14#7 ++ 0#2 ++ d ++ b ++ 0#2 ++ a.code : Word) :: a.ext
  | .sshr sw d b a => ((bit sw) ++ 14#7 ++ 1#2 ++ d ++ b ++ 0#2 ++ a.code : Word) :: a.ext
  | .ssar sw d b a => ((bit sw) ++ 14#7 ++ 2#2 ++ d ++ b ++ 0#2 ++ a.code : Word) :: a.ext
  | .srot sw d b a => ((bit sw) ++ 14#7 ++ 3#2 ++ d ++ b ++ 0#2 ++ a.code : Word) :: a.ext
  | .scmpeq sw b a => ((bit sw) ++ 15#7 ++ 0#8 ++ b ++ 0#2 ++ a.code : Word) :: a.ext
  | .scmplt sw b a => ((bit sw) ++ 15#7 ++ 64#8 ++ b ++ 0#2 ++ a.code : Word) :: a.ext
  | .scmpltn sw b a => ((bit sw) ++ 15#7 ++ 128#8 ++ b ++ 0#2 ++ a.code : Word) :: a.ext
  | .scmple sw b a => ((bit sw) ++ 15#7 ++ 192#8 ++ b ++ 0#2 ++ a.code : Word) :: a.ext
  | .ssel sw d b a => ((bit sw) ++ 16#7 ++ 0#2 ++ d ++ b ++ 0#2 ++ a.code : Word) :: a.ext
  | .smin sw d b a => ((bit sw) ++ 16#7 ++ 1#2 ++ d ++ b ++ 0#2 ++ a.code : Word) :: a.ext
  | .smax sw d b a => ((bit sw) ++ 16#7 ++ 2#2 ++ d ++ b ++ 0#2 ++ a.code : Word) :: a.ext
  | .sminn sw d b a => ((bit sw) ++ 16#7 ++ 3#2 ++ d ++ b ++ 0#2 ++ a.code : Word) :: a.ext
  | .spopc sw d a => ((bit sw) ++ 17#7 ++ 0#2 ++ d ++ 0#8 ++ a.code : Word) :: a.ext
  | .sclz sw d a => ((bit sw) ++ 17#7 ++ 1#2 ++ d ++ 0#8 ++ a.code : Word) :: a.ext
  | .sctz sw d a => ((bit sw) ++ 17#7 ++ 2#2 ++ d ++ 0#8 ++ a.code : Word) :: a.ext
  | .sbrev sw d a => ((bit sw) ++ 17#7 ++ 3#2 ++ d ++ 0#8 ++ a.code : Word) :: a.ext
  | .sdiv sw d b a => ((bit sw) ++ 18#7 ++ 0#2 ++ d ++ b ++ 0#2 ++ a.code : Word) :: a.ext
  | .sdivn sw d b a => ((bit sw) ++ 18#7 ++ 1#2 ++ d ++ b ++ 0#2 ++ a.code : Word) :: a.ext
  | .srem sw d b a => ((bit sw) ++ 18#7 ++ 2#2 ++ d ++ b ++ 0#2 ++ a.code : Word) :: a.ext
  | .sremn sw d b a => ((bit sw) ++ 18#7 ++ 3#2 ++ d ++ b ++ 0#2 ++ a.code : Word) :: a.ext
  | .sget sw d i => [((bit sw) ++ 19#7 ++ 0#2 ++ d ++ 0#8 ++ i : Word)]
  | .sset sw d i => [((bit sw) ++ 19#7 ++ 1#2 ++ d ++ 0#8 ++ i : Word)]
  | .srdln sw d b a => ((bit sw) ++ 20#7 ++ 0#2 ++ d ++ b ++ 0#2 ++ a.code : Word) :: a.ext
  | .swrln sw d b a => ((bit sw) ++ 20#7 ++ 1#2 ++ d ++ b ++ 0#2 ++ a.code : Word) :: a.ext
  | .rclock sw d => [((bit sw) ++ 21#7 ++ 0#2 ++ d ++ 0#16 : Word)]
  | .rtime sw d => [((bit sw) ++ 21#7 ++ 1#2 ++ d ++ 0#16 : Word)]
  | .timer sw a => ((bit sw) ++ 21#7 ++ 32768#16 ++ a.code : Word) :: a.ext
  | .timera sw a => ((bit sw) ++ 21#7 ++ 49152#16 ++ a.code : Word) :: a.ext
  | .scmpieq sw d i => [((bit sw) ++ 22#7 ++ 0#2 ++ d ++ i : Word)]
  | .scmpilt sw d i => [((bit sw) ++ 22#7 ++ 1#2 ++ d ++ i : Word)]
  | .scmpiltn sw d i => [((bit sw) ++ 22#7 ++ 2#2 ++ d ++ i : Word)]
  | .viaddI32 sw d b a => ((bit sw) ++ 23#7 ++ 0#2 ++ d ++ b ++ a.code : Word) :: a.ext
  | .viaddI16x2 sw d b a => ((bit sw) ++ 23#7 ++ 1#2 ++ d ++ b ++ a.code : Word) :: a.ext
  | .viaddI8x4 sw d b a => ((bit sw) ++ 23#7 ++ 2#2 ++ d ++ b ++ a.code : Word) :: a.ext
  | .viaddS32sat sw d b a => ((bit sw) ++ 23#7 ++ 3#2 ++ d ++ b ++ a.code : Word) :: a.ext
  | .visubI32 sw d b a => ((bit sw) ++ 24#7 ++ 0#2 ++ d ++ b ++ a.code : Word) :: a.ext
  | .visubI16x2 sw d b a => ((bit sw) ++ 24#7 ++ 1#2 ++ d ++ b ++ a.code : Word) :: a.ext
  | .visubI8x4 sw d b a => ((bit sw) ++ 24#7 ++ 2#2 ++ d ++ b ++ a.code : Word) :: a.ext
  | .visubS32sat sw d b a => ((bit sw) ++ 24#7 ++ 3#2 ++ d ++ b ++ a.code : Word) :: a.ext
  | .vimulLo sw d b a => ((bit sw) ++ 25#7 ++ 0#2 ++ d ++ b ++ a.code : Word) :: a.ext
  | .vimulHs sw d b a => ((bit sw) ++ 25#7 ++ 1#2 ++ d ++ b ++ a.code : Word) :: a.ext
  | .vimulHn sw d b a => ((bit sw) ++ 25#7 ++ 2#2 ++ d ++ b ++ a.code : Word) :: a.ext
  | .vimulI16x2 sw d b a => ((bit sw) ++ 25#7 ++ 3#2 ++ d ++ b ++ a.code : Word) :: a.ext
  | .vimadI32 sw d b a => ((bit sw) ++ 26#7 ++ 0#2 ++ d ++ b ++ a.code : Word) :: a.ext
  | .vimadI16x2 sw d b a => ((bit sw) ++ 26#7 ++ 1#2 ++ d ++ b ++ a.code : Word) :: a.ext
  | .vimadDot4s8 sw d b a => ((bit sw) ++ 26#7 ++ 2#2 ++ d ++ b ++ a.code : Word) :: a.ext
  | .vimadDot4n8 sw d b a => ((bit sw) ++ 26#7 ++ 3#2 ++ d ++ b ++ a.code : Word) :: a.ext
  | .vlogAnd sw d b a => ((bit sw) ++ 27#7 ++ 0#2 ++ d ++ b ++ a.code : Word) :: a.ext
  | .vlogOr sw d b a => ((bit sw) ++ 27#7 ++ 1#2 ++ d ++ b ++ a.code : Word) :: a.ext
  | .vlogXor sw d b a => ((bit sw) ++ 27#7 ++ 2#2 ++ d ++ b ++ a.code : Word) :: a.ext
  | .vlogAndn sw d b a => ((bit sw) ++ 27#7 ++ 3#2 ++ d ++ b ++ a.code : Word) :: a.ext
  | .vshfShl sw d b a => ((bit sw) ++ 28#7 ++ 0#2 ++ d ++ b ++ a.code : Word) :: a.ext
  | .vshfShr sw d b a => ((bit sw) ++ 28#7 ++ 1#2 ++ d ++ b ++ a.code : Word) :: a.ext
  | .vshfSar sw d b a => ((bit sw) ++ 28#7 ++ 2#2 ++ d ++ b ++ a.code : Word) :: a.ext
  | .vshfRot sw d b a => ((bit sw) ++ 28#7 ++ 3#2 ++ d ++ b ++ a.code : Word) :: a.ext
  | .vshfiShl sw d b i => [((bit sw) ++ 29#7 ++ 0#2 ++ d ++ b ++ i : Word)]
  | .vshfiShr sw d b i => [((bit sw) ++ 29#7 ++ 1#2 ++ d ++ b ++ i : Word)]
  | .vshfiSar sw d b i => [((bit sw) ++ 29#7 ++ 2#2 ++ d ++ b ++ i : Word)]
  | .vshfiRot sw d b i => [((bit sw) ++ 29#7 ++ 3#2 ++ d ++ b ++ i : Word)]
  | .viminS32min sw d b a => ((bit sw) ++ 30#7 ++ 0#2 ++ d ++ b ++ a.code : Word) :: a.ext
  | .viminN32min sw d b a => ((bit sw) ++ 30#7 ++ 1#2 ++ d ++ b ++ a.code : Word) :: a.ext
  | .viminS32max sw d b a => ((bit sw) ++ 30#7 ++ 2#2 ++ d ++ b ++ a.code : Word) :: a.ext
  | .viminN32max sw d b a => ((bit sw) ++ 30#7 ++ 3#2 ++ d ++ b ++ a.code : Word) :: a.ext
  | .vbitPopc sw d a => ((bit sw) ++ 31#7 ++ 0#2 ++ d ++ 0#7 ++ a.code : Word) :: a.ext
  | .vbitClz sw d a => ((bit sw) ++ 31#7 ++ 1#2 ++ d ++ 0#7 ++ a.code : Word) :: a.ext
  | .vbitBrev sw d a => ((bit sw) ++ 31#7 ++ 2#2 ++ d ++ 0#7 ++ a.code : Word) :: a.ext
  | .vbitFfs sw d a => ((bit sw) ++ 31#7 ++ 3#2 ++ d ++ 0#7 ++ a.code : Word) :: a.ext
  | .vicmpS32 sw l c b a => ((bit sw) ++ 32#7 ++ 0#2 ++ l ++ c.code ++ 0#1 ++ b ++ a.code : Word) :: a.ext
  | .vicmpN32 sw l c b a => ((bit sw) ++ 32#7 ++ 1#2 ++ l ++ c.code ++ 0#1 ++ b ++ a.code : Word) :: a.ext
  | .vselLm0 sw d b a => ((bit sw) ++ 33#7 ++ 0#2 ++ d ++ b ++ a.code : Word) :: a.ext
  | .vselLm1 sw d b a => ((bit sw) ++ 33#7 ++ 1#2 ++ d ++ b ++ a.code : Word) :: a.ext
  | .vselLm2 sw d b a => ((bit sw) ++ 33#7 ++ 2#2 ++ d ++ b ++ a.code : Word) :: a.ext
  | .vselLm3 sw d b a => ((bit sw) ++ 33#7 ++ 3#2 ++ d ++ b ++ a.code : Word) :: a.ext
  | .vmov sw d a => ((bit sw) ++ 34#7 ++ 0#2 ++ d ++ 0#7 ++ a.code : Word) :: a.ext
  | .vsx16 sw d a => ((bit sw) ++ 34#7 ++ 1#2 ++ d ++ 0#7 ++ a.code : Word) :: a.ext
  | .vsx8 sw d a => ((bit sw) ++ 34#7 ++ 2#2 ++ d ++ 0#7 ++ a.code : Word) :: a.ext
  | .vzx16 sw d a => ((bit sw) ++ 34#7 ++ 3#2 ++ d ++ 0#7 ++ a.code : Word) :: a.ext
  | .vfaddF32 sw d b a => ((bit sw) ++ 35#7 ++ 0#2 ++ d ++ b ++ a.code : Word) :: a.ext
  | .vfaddF16x2 sw d b a => ((bit sw) ++ 35#7 ++ 1#2 ++ d ++ b ++ a.code : Word) :: a.ext
  | .vfaddBf16x2 sw d b a => ((bit sw) ++ 35#7 ++ 2#2 ++ d ++ b ++ a.code : Word) :: a.ext
  | .vfsubF32 sw d b a => ((bit sw) ++ 36#7 ++ 0#2 ++ d ++ b ++ a.code : Word) :: a.ext
  | .vfsubF16x2 sw d b a => ((bit sw) ++ 36#7 ++ 1#2 ++ d ++ b ++ a.code : Word) :: a.ext
  | .vfsubBf16x2 sw d b a => ((bit sw) ++ 36#7 ++ 2#2 ++ d ++ b ++ a.code : Word) :: a.ext
  | .vfmulF32 sw d b a => ((bit sw) ++ 37#7 ++ 0#2 ++ d ++ b ++ a.code : Word) :: a.ext
  | .vfmulF16x2 sw d b a => ((bit sw) ++ 37#7 ++ 1#2 ++ d ++ b ++ a.code : Word) :: a.ext
  | .vfmulBf16x2 sw d b a => ((bit sw) ++ 37#7 ++ 2#2 ++ d ++ b ++ a.code : Word) :: a.ext
  | .vfmaF32 sw d b a => ((bit sw) ++ 38#7 ++ 0#2 ++ d ++ b ++ a.code : Word) :: a.ext
  | .vfmaF16x2 sw d b a => ((bit sw) ++ 38#7 ++ 1#2 ++ d ++ b ++ a.code : Word) :: a.ext
  | .vfmaBf16x2 sw d b a => ((bit sw) ++ 38#7 ++ 2#2 ++ d ++ b ++ a.code : Word) :: a.ext
  | .vfminF32 sw d b a => ((bit sw) ++ 39#7 ++ 0#2 ++ d ++ b ++ a.code : Word) :: a.ext
  | .vfmaxF32 sw d b a => ((bit sw) ++ 39#7 ++ 1#2 ++ d ++ b ++ a.code : Word) :: a.ext
  | .vfminF16x2 sw d b a => ((bit sw) ++ 39#7 ++ 2#2 ++ d ++ b ++ a.code : Word) :: a.ext
  | .vfmaxF16x2 sw d b a => ((bit sw) ++ 39#7 ++ 3#2 ++ d ++ b ++ a.code : Word) :: a.ext
  | .vfcmpF32 sw l c b a => ((bit sw) ++ 40#7 ++ 0#2 ++ l ++ c.code ++ 0#1 ++ b ++ a.code : Word) :: a.ext
  | .vfcmpF16 sw l c b a => ((bit sw) ++ 40#7 ++ 1#2 ++ l ++ c.code ++ 0#1 ++ b ++ a.code : Word) :: a.ext
  | .vfcmpBf16 sw l c b a => ((bit sw) ++ 40#7 ++ 2#2 ++ l ++ c.code ++ 0#1 ++ b ++ a.code : Word) :: a.ext
  | .vfcvtRne sw d k a => ((bit sw) ++ 41#7 ++ 0#2 ++ d ++ k.code ++ a.code : Word) :: a.ext
  | .vfcvtRtz sw d k a => ((bit sw) ++ 41#7 ++ 1#2 ++ d ++ k.code ++ a.code : Word) :: a.ext
  | .vfcvtDn sw d k a => ((bit sw) ++ 41#7 ++ 2#2 ++ d ++ k.code ++ a.code : Word) :: a.ext
  | .vfcvtUp sw d k a => ((bit sw) ++ 41#7 ++ 3#2 ++ d ++ k.code ++ a.code : Word) :: a.ext
  | .vrcp sw d a => ((bit sw) ++ 42#7 ++ 0#2 ++ d ++ 0#7 ++ a.code : Word) :: a.ext
  | .vrsq sw d a => ((bit sw) ++ 42#7 ++ 1#2 ++ d ++ 0#7 ++ a.code : Word) :: a.ext
  | .vex2 sw d a => ((bit sw) ++ 42#7 ++ 2#2 ++ d ++ 0#7 ++ a.code : Word) :: a.ext
  | .vlg2 sw d a => ((bit sw) ++ 42#7 ++ 3#2 ++ d ++ 0#7 ++ a.code : Word) :: a.ext
  | .vsinpi sw d a => ((bit sw) ++ 43#7 ++ 0#2 ++ d ++ 0#7 ++ a.code : Word) :: a.ext
  | .vcospi sw d a => ((bit sw) ++ 43#7 ++ 1#2 ++ d ++ 0#7 ++ a.code : Word) :: a.ext
  | .vsqrt sw d a => ((bit sw) ++ 43#7 ++ 2#2 ++ d ++ 0#7 ++ a.code : Word) :: a.ext
  | .vtanh sw d a => ((bit sw) ++ 43#7 ++ 3#2 ++ d ++ 0#7 ++ a.code : Word) :: a.ext
  | .vfrndRne sw d a => ((bit sw) ++ 44#7 ++ 0#2 ++ d ++ 0#7 ++ a.code : Word) :: a.ext
  | .vfrndRtz sw d a => ((bit sw) ++ 44#7 ++ 1#2 ++ d ++ 0#7 ++ a.code : Word) :: a.ext
  | .vfrndFloor sw d a => ((bit sw) ++ 44#7 ++ 2#2 ++ d ++ 0#7 ++ a.code : Word) :: a.ext
  | .vfrndCeil sw d a => ((bit sw) ++ 44#7 ++ 3#2 ++ d ++ 0#7 ++ a.code : Word) :: a.ext
  | .vfdotDot2bf16 sw d b a => ((bit sw) ++ 45#7 ++ 0#2 ++ d ++ b ++ a.code : Word) :: a.ext
  | .vfdotDot2f16 sw d b a => ((bit sw) ++ 45#7 ++ 1#2 ++ d ++ b ++ a.code : Word) :: a.ext
  | .vfdotDot4f8e4 sw d b a => ((bit sw) ++ 45#7 ++ 2#2 ++ d ++ b ++ a.code : Word) :: a.ext
  | .vfdotDot4f8e5 sw d b a => ((bit sw) ++ 45#7 ++ 3#2 ++ d ++ b ++ a.code : Word) :: a.ext
  | .vmaxiMax sw d b a => ((bit sw) ++ 46#7 ++ 0#2 ++ d ++ b ++ a.code : Word) :: a.ext
  | .vmaxiMin sw d b a => ((bit sw) ++ 46#7 ++ 1#2 ++ d ++ b ++ a.code : Word) :: a.ext
  | .vpackF16x2 sw d b a => ((bit sw) ++ 47#7 ++ 0#2 ++ d ++ b ++ a.code : Word) :: a.ext
  | .vpackBf16x2 sw d b a => ((bit sw) ++ 47#7 ++ 1#2 ++ d ++ b ++ a.code : Word) :: a.ext
  | .vpackS16x2sat sw d b a => ((bit sw) ++ 47#7 ++ 2#2 ++ d ++ b ++ a.code : Word) :: a.ext
  | .vexpd sw d p a => ((bit sw) ++ 48#7 ++ 0#2 ++ d ++ 0#5 ++ p ++ a.code : Word) :: a.ext
  | .vhashCrc32c sw d b a => ((bit sw) ++ 49#7 ++ 0#2 ++ d ++ b ++ a.code : Word) :: a.ext
  | .vhashMix32 sw d b a => ((bit sw) ++ 49#7 ++ 1#2 ++ d ++ b ++ a.code : Word) :: a.ext
  | .vshflIdx sw d b a => ((bit sw) ++ 50#7 ++ 0#2 ++ d ++ b ++ a.code : Word) :: a.ext
  | .vshflXor sw d b a => ((bit sw) ++ 50#7 ++ 1#2 ++ d ++ b ++ a.code : Word) :: a.ext
  | .vshflUp sw d b a => ((bit sw) ++ 50#7 ++ 2#2 ++ d ++ b ++ a.code : Word) :: a.ext
  | .vshflDown sw d b a => ((bit sw) ++ 50#7 ++ 3#2 ++ d ++ b ++ a.code : Word) :: a.ext
  | .vredAdd sw d t a => ((bit sw) ++ 51#7 ++ 0#2 ++ d ++ t.code ++ 0#5 ++ a.code : Word) :: a.ext
  | .vredMax sw d t a => ((bit sw) ++ 51#7 ++ 1#2 ++ d ++ t.code ++ 0#5 ++ a.code : Word) :: a.ext
  | .vredMin sw d t a => ((bit sw) ++ 51#7 ++ 2#2 ++ d ++ t.code ++ 0#5 ++ a.code : Word) :: a.ext
  | .vredMaxi sw d t a => ((bit sw) ++ 51#7 ++ 3#2 ++ d ++ t.code ++ 0#5 ++ a.code : Word) :: a.ext
  | .vscanInclAddS32 sw d a => ((bit sw) ++ 52#7 ++ 0#2 ++ d ++ 0#7 ++ a.code : Word) :: a.ext
  | .vscanExclAddS32 sw d a => ((bit sw) ++ 52#7 ++ 1#2 ++ d ++ 0#7 ++ a.code : Word) :: a.ext
  | .vscanInclAddF32 sw d a => ((bit sw) ++ 52#7 ++ 2#2 ++ d ++ 0#7 ++ a.code : Word) :: a.ext
  | .vscanInclMaxi sw d a => ((bit sw) ++ 52#7 ++ 3#2 ++ d ++ 0#7 ++ a.code : Word) :: a.ext
  | .ballot sw l a => ((bit sw) ++ 53#7 ++ 0#2 ++ l ++ 0#11 ++ a.code : Word) :: a.ext
  | .mpre sw l d => [((bit sw) ++ 53#7 ++ 1#2 ++ l ++ 0#4 ++ d ++ 0#8 : Word)]
  | .vany sw a => ((bit sw) ++ 53#7 ++ 32768#16 ++ a.code : Word) :: a.ext
  | .vall sw a => ((bit sw) ++ 53#7 ++ 49152#16 ++ a.code : Word) :: a.ext
  | .ldvB8 sw d b i => [((bit sw) ++ 54#7 ++ 0#2 ++ d ++ b ++ i : Word)]
  | .ldvB16 sw d b i => [((bit sw) ++ 54#7 ++ 1#2 ++ d ++ b ++ i : Word)]
  | .ldvB32 sw d b i => [((bit sw) ++ 54#7 ++ 2#2 ++ d ++ b ++ i : Word)]
  | .ldvB64 sw d b i => [((bit sw) ++ 54#7 ++ 3#2 ++ d ++ b ++ i : Word)]
  | .ldvsS8 sw d b i => [((bit sw) ++ 55#7 ++ 0#2 ++ d ++ b ++ i : Word)]
  | .ldvsS16 sw d b i => [((bit sw) ++ 55#7 ++ 1#2 ++ d ++ b ++ i : Word)]
  | .ldgB8 sw k d b x => [((bit sw) ++ 56#7 ++ 0#2 ++ k ++ d ++ b ++ x : Word)]
  | .ldgB16 sw k d b x => [((bit sw) ++ 56#7 ++ 1#2 ++ k ++ d ++ b ++ x : Word)]
  | .ldgB32 sw k d b x => [((bit sw) ++ 56#7 ++ 2#2 ++ k ++ d ++ b ++ x : Word)]
  | .ldgB64 sw k d b x => [((bit sw) ++ 56#7 ++ 3#2 ++ k ++ d ++ b ++ x : Word)]
  | .stvB8 sw d b i => [((bit sw) ++ 57#7 ++ 0#2 ++ d ++ b ++ i : Word)]
  | .stvB16 sw d b i => [((bit sw) ++ 57#7 ++ 1#2 ++ d ++ b ++ i : Word)]
  | .stvB32 sw d b i => [((bit sw) ++ 57#7 ++ 2#2 ++ d ++ b ++ i : Word)]
  | .stvB64 sw d b i => [((bit sw) ++ 57#7 ++ 3#2 ++ d ++ b ++ i : Word)]
  | .stgB8 sw k d b x => [((bit sw) ++ 58#7 ++ 0#2 ++ k ++ d ++ b ++ x : Word)]
  | .stgB16 sw k d b x => [((bit sw) ++ 58#7 ++ 1#2 ++ k ++ d ++ b ++ x : Word)]
  | .stgB32 sw k d b x => [((bit sw) ++ 58#7 ++ 2#2 ++ k ++ d ++ b ++ x : Word)]
  | .stgB64 sw k d b x => [((bit sw) ++ 58#7 ++ 3#2 ++ k ++ d ++ b ++ x : Word)]
  | .ldsB8 sw d b i => [((bit sw) ++ 59#7 ++ 0#2 ++ d ++ b ++ i : Word)]
  | .ldsB16 sw d b i => [((bit sw) ++ 59#7 ++ 1#2 ++ d ++ b ++ i : Word)]
  | .ldsB32 sw d b i => [((bit sw) ++ 59#7 ++ 2#2 ++ d ++ b ++ i : Word)]
  | .ldsB64 sw d b i => [((bit sw) ++ 59#7 ++ 3#2 ++ d ++ b ++ i : Word)]
  | .stsB8 sw d b i => [((bit sw) ++ 60#7 ++ 0#2 ++ d ++ b ++ i : Word)]
  | .stsB16 sw d b i => [((bit sw) ++ 60#7 ++ 1#2 ++ d ++ b ++ i : Word)]
  | .stsB32 sw d b i => [((bit sw) ++ 60#7 ++ 2#2 ++ d ++ b ++ i : Word)]
  | .stsB64 sw d b i => [((bit sw) ++ 60#7 ++ 3#2 ++ d ++ b ++ i : Word)]
  | .ldspB8 sw k d b x => [((bit sw) ++ 61#7 ++ 0#2 ++ k ++ d ++ b ++ x : Word)]
  | .ldspB16 sw k d b x => [((bit sw) ++ 61#7 ++ 1#2 ++ k ++ d ++ b ++ x : Word)]
  | .ldspB32 sw k d b x => [((bit sw) ++ 61#7 ++ 2#2 ++ k ++ d ++ b ++ x : Word)]
  | .ldspB64 sw k d b x => [((bit sw) ++ 61#7 ++ 3#2 ++ k ++ d ++ b ++ x : Word)]
  | .stspB8 sw k d b x => [((bit sw) ++ 62#7 ++ 0#2 ++ k ++ d ++ b ++ x : Word)]
  | .stspB16 sw k d b x => [((bit sw) ++ 62#7 ++ 1#2 ++ k ++ d ++ b ++ x : Word)]
  | .stspB32 sw k d b x => [((bit sw) ++ 62#7 ++ 2#2 ++ k ++ d ++ b ++ x : Word)]
  | .stspB64 sw k d b x => [((bit sw) ++ 62#7 ++ 3#2 ++ k ++ d ++ b ++ x : Word)]
  | .sldspB32 sw d b i => [((bit sw) ++ 63#7 ++ 0#2 ++ d ++ b ++ i : Word)]
  | .sldspB64 sw d b i => [((bit sw) ++ 63#7 ++ 1#2 ++ d ++ b ++ i : Word)]
  | .sstspB32 sw d b i => [((bit sw) ++ 63#7 ++ 2#2 ++ d ++ b ++ i : Word)]
  | .sstspB64 sw d b i => [((bit sw) ++ 63#7 ++ 3#2 ++ d ++ b ++ i : Word)]
  | .atomAddI32 sw o c d a => [((bit sw) ++ 64#7 ++ 0#4 ++ o.code ++ c.code ++ d ++ a ++ 0#1 : Word)]
  | .atomAddF32 sw o c d a => [((bit sw) ++ 64#7 ++ 1#4 ++ o.code ++ c.code ++ d ++ a ++ 0#1 : Word)]
  | .atomMinS32 sw o c d a => [((bit sw) ++ 64#7 ++ 2#4 ++ o.code ++ c.code ++ d ++ a ++ 0#1 : Word)]
  | .atomMaxS32 sw o c d a => [((bit sw) ++ 64#7 ++ 3#4 ++ o.code ++ c.code ++ d ++ a ++ 0#1 : Word)]
  | .atomMinN32 sw o c d a => [((bit sw) ++ 64#7 ++ 4#4 ++ o.code ++ c.code ++ d ++ a ++ 0#1 : Word)]
  | .atomMaxN32 sw o c d a => [((bit sw) ++ 64#7 ++ 5#4 ++ o.code ++ c.code ++ d ++ a ++ 0#1 : Word)]
  | .atomAnd sw o c d a => [((bit sw) ++ 64#7 ++ 6#4 ++ o.code ++ c.code ++ d ++ a ++ 0#1 : Word)]
  | .atomOr sw o c d a => [((bit sw) ++ 64#7 ++ 7#4 ++ o.code ++ c.code ++ d ++ a ++ 0#1 : Word)]
  | .atomXor sw o c d a => [((bit sw) ++ 64#7 ++ 8#4 ++ o.code ++ c.code ++ d ++ a ++ 0#1 : Word)]
  | .atomExch sw o c d a => [((bit sw) ++ 64#7 ++ 9#4 ++ o.code ++ c.code ++ d ++ a ++ 0#1 : Word)]
  | .atomCas sw o c d a => [((bit sw) ++ 64#7 ++ 10#4 ++ o.code ++ c.code ++ d ++ a ++ 0#1 : Word)]
  | .atomMaxi sw o c d a => [((bit sw) ++ 64#7 ++ 11#4 ++ o.code ++ c.code ++ d ++ a ++ 0#1 : Word)]
  | .atomAddF16x2 sw o c d a => [((bit sw) ++ 64#7 ++ 12#4 ++ o.code ++ c.code ++ d ++ a ++ 0#1 : Word)]
  | .atomAddI64 sw o c d a => [((bit sw) ++ 64#7 ++ 13#4 ++ o.code ++ c.code ++ d ++ a ++ 0#1 : Word)]
  | .atomsAddI32 sw o c d a => [((bit sw) ++ 65#7 ++ 0#4 ++ o.code ++ c.code ++ d ++ a ++ 0#1 : Word)]
  | .atomsAddF32 sw o c d a => [((bit sw) ++ 65#7 ++ 1#4 ++ o.code ++ c.code ++ d ++ a ++ 0#1 : Word)]
  | .atomsMinS32 sw o c d a => [((bit sw) ++ 65#7 ++ 2#4 ++ o.code ++ c.code ++ d ++ a ++ 0#1 : Word)]
  | .atomsMaxS32 sw o c d a => [((bit sw) ++ 65#7 ++ 3#4 ++ o.code ++ c.code ++ d ++ a ++ 0#1 : Word)]
  | .atomsMinN32 sw o c d a => [((bit sw) ++ 65#7 ++ 4#4 ++ o.code ++ c.code ++ d ++ a ++ 0#1 : Word)]
  | .atomsMaxN32 sw o c d a => [((bit sw) ++ 65#7 ++ 5#4 ++ o.code ++ c.code ++ d ++ a ++ 0#1 : Word)]
  | .atomsAnd sw o c d a => [((bit sw) ++ 65#7 ++ 6#4 ++ o.code ++ c.code ++ d ++ a ++ 0#1 : Word)]
  | .atomsOr sw o c d a => [((bit sw) ++ 65#7 ++ 7#4 ++ o.code ++ c.code ++ d ++ a ++ 0#1 : Word)]
  | .atomsXor sw o c d a => [((bit sw) ++ 65#7 ++ 8#4 ++ o.code ++ c.code ++ d ++ a ++ 0#1 : Word)]
  | .atomsExch sw o c d a => [((bit sw) ++ 65#7 ++ 9#4 ++ o.code ++ c.code ++ d ++ a ++ 0#1 : Word)]
  | .atomsCas sw o c d a => [((bit sw) ++ 65#7 ++ 10#4 ++ o.code ++ c.code ++ d ++ a ++ 0#1 : Word)]
  | .atomsMaxi sw o c d a => [((bit sw) ++ 65#7 ++ 11#4 ++ o.code ++ c.code ++ d ++ a ++ 0#1 : Word)]
  | .atomsAddF16x2 sw o c d a => [((bit sw) ++ 65#7 ++ 12#4 ++ o.code ++ c.code ++ d ++ a ++ 0#1 : Word)]
  | .atomsAddI64 sw o c d a => [((bit sw) ++ 65#7 ++ 13#4 ++ o.code ++ c.code ++ d ++ a ++ 0#1 : Word)]
  | .redAddI32 sw o c d a => [((bit sw) ++ 66#7 ++ 0#4 ++ o.code ++ c.code ++ d ++ a ++ 0#1 : Word)]
  | .redAddF32 sw o c d a => [((bit sw) ++ 66#7 ++ 1#4 ++ o.code ++ c.code ++ d ++ a ++ 0#1 : Word)]
  | .redMinS32 sw o c d a => [((bit sw) ++ 66#7 ++ 2#4 ++ o.code ++ c.code ++ d ++ a ++ 0#1 : Word)]
  | .redMaxS32 sw o c d a => [((bit sw) ++ 66#7 ++ 3#4 ++ o.code ++ c.code ++ d ++ a ++ 0#1 : Word)]
  | .redMinN32 sw o c d a => [((bit sw) ++ 66#7 ++ 4#4 ++ o.code ++ c.code ++ d ++ a ++ 0#1 : Word)]
  | .redMaxN32 sw o c d a => [((bit sw) ++ 66#7 ++ 5#4 ++ o.code ++ c.code ++ d ++ a ++ 0#1 : Word)]
  | .redAnd sw o c d a => [((bit sw) ++ 66#7 ++ 6#4 ++ o.code ++ c.code ++ d ++ a ++ 0#1 : Word)]
  | .redOr sw o c d a => [((bit sw) ++ 66#7 ++ 7#4 ++ o.code ++ c.code ++ d ++ a ++ 0#1 : Word)]
  | .redXor sw o c d a => [((bit sw) ++ 66#7 ++ 8#4 ++ o.code ++ c.code ++ d ++ a ++ 0#1 : Word)]
  | .redMaxi sw o c d a => [((bit sw) ++ 66#7 ++ 11#4 ++ o.code ++ c.code ++ d ++ a ++ 0#1 : Word)]
  | .redAddF16x2 sw o c d a => [((bit sw) ++ 66#7 ++ 12#4 ++ o.code ++ c.code ++ d ++ a ++ 0#1 : Word)]
  | .redAddI64 sw o c d a => [((bit sw) ++ 66#7 ++ 13#4 ++ o.code ++ c.code ++ d ++ a ++ 0#1 : Word)]
  | .ldaB16 sw o c d a => [((bit sw) ++ 67#7 ++ 0#4 ++ o.code ++ c.code ++ d ++ a ++ 0#1 : Word)]
  | .ldaB32 sw o c d a => [((bit sw) ++ 67#7 ++ 4#4 ++ o.code ++ c.code ++ d ++ a ++ 0#1 : Word)]
  | .ldaB64 sw o c d a => [((bit sw) ++ 67#7 ++ 8#4 ++ o.code ++ c.code ++ d ++ a ++ 0#1 : Word)]
  | .stlB16 sw o c d a => [((bit sw) ++ 68#7 ++ 0#4 ++ o.code ++ c.code ++ d ++ a ++ 0#1 : Word)]
  | .stlB32 sw o c d a => [((bit sw) ++ 68#7 ++ 4#4 ++ o.code ++ c.code ++ d ++ a ++ 0#1 : Word)]
  | .stlB64 sw o c d a => [((bit sw) ++ 68#7 ++ 8#4 ++ o.code ++ c.code ++ d ++ a ++ 0#1 : Word)]
  | .fenceAcq sw c => [((bit sw) ++ 69#7 ++ 0#2 ++ c.code ++ 0#19 : Word)]
  | .fenceRel sw c => [((bit sw) ++ 69#7 ++ 1#2 ++ c.code ++ 0#19 : Word)]
  | .fenceAr sw c => [((bit sw) ++ 69#7 ++ 2#2 ++ c.code ++ 0#19 : Word)]
  | .fenceSc sw c => [((bit sw) ++ 69#7 ++ 3#2 ++ c.code ++ 0#19 : Word)]
  | .lcpy4 sw d b v => [((bit sw) ++ 70#7 ++ 0#2 ++ d ++ b ++ v ++ 0#2 : Word)]
  | .lcpy8 sw d b v => [((bit sw) ++ 70#7 ++ 1#2 ++ d ++ b ++ v ++ 0#2 : Word)]
  | .lcpy16 sw d b v => [((bit sw) ++ 70#7 ++ 2#2 ++ d ++ b ++ v ++ 0#2 : Word)]
  | .lcpy32 sw d b v => [((bit sw) ++ 70#7 ++ 3#2 ++ d ++ b ++ v ++ 0#2 : Word)]
  | .waitvEq sw a v => [((bit sw) ++ 71#7 ++ 0#2 ++ a ++ v ++ 0#10 : Word)]
  | .waitvNe sw a v => [((bit sw) ++ 71#7 ++ 1#2 ++ a ++ v ++ 0#10 : Word)]
  | .waitvGe sw a v => [((bit sw) ++ 71#7 ++ 2#2 ++ a ++ v ++ 0#10 : Word)]
  | .waitvLt sw a v => [((bit sw) ++ 71#7 ++ 3#2 ++ a ++ v ++ 0#10 : Word)]
  | .prefL2 sw b i => [((bit sw) ++ 72#7 ++ 0#8 ++ b ++ i : Word)]
  | .prefL1 sw b i => [((bit sw) ++ 72#7 ++ 64#8 ++ b ++ i : Word)]
  | .prefGinv sw b i => [((bit sw) ++ 72#7 ++ 128#8 ++ b ++ i : Word)]
  | .prefWb sw b i => [((bit sw) ++ 72#7 ++ 192#8 ++ b ++ i : Word)]
  | .mmaDense sw d a b fx => [((bit sw) ++ 73#7 ++ 0#2 ++ d ++ a ++ b ++ 0#1 : Word), fx.word]
  | .mmaSp sw d a b fx => [((bit sw) ++ 73#7 ++ 1#2 ++ d ++ a ++ b ++ 0#1 : Word), fx.word]
  | .mmaZ sw d a b fx => [((bit sw) ++ 73#7 ++ 2#2 ++ d ++ a ++ b ++ 0#1 : Word), fx.word]
  | .tmmaAcc sw r m n fx => [((bit sw) ++ 74#7 ++ 0#2 ++ r ++ m ++ n ++ 0#12 : Word), fx.word]
  | .tmmaZ sw r m n fx => [((bit sw) ++ 74#7 ++ 1#2 ++ r ++ m ++ n ++ 0#12 : Word), fx.word]
  | .tlda sw d a w p => [((bit sw) ++ 75#7 ++ 0#2 ++ d ++ a ++ w ++ p : Word)]
  | .tldb sw d a w p => [((bit sw) ++ 75#7 ++ 1#2 ++ d ++ a ++ w ++ p : Word)]
  | .tstd sw d a w p => [((bit sw) ++ 75#7 ++ 2#2 ++ d ++ a ++ w ++ p : Word)]
  | .tldd sw d a w p => [((bit sw) ++ 75#7 ++ 3#2 ++ d ++ a ++ w ++ p : Word)]
  | .cpyGs sw r b fx => [((bit sw) ++ 76#7 ++ 0#2 ++ r ++ b ++ 0#10 : Word), fx.word]
  | .cpySg sw r b fx => [((bit sw) ++ 76#7 ++ 1#2 ++ r ++ b ++ 0#10 : Word), fx.word]
  | .cpyGg sw r b fx => [((bit sw) ++ 76#7 ++ 2#2 ++ r ++ b ++ 0#10 : Word), fx.word]
  | .cpySs sw r b fx => [((bit sw) ++ 76#7 ++ 3#2 ++ r ++ b ++ 0#10 : Word), fx.word]
  | .cplFill sw r g fx => [((bit sw) ++ 77#7 ++ 0#2 ++ r ++ g ++ 0#10 : Word), fx.word]
  | .cplDrain sw r g fx => [((bit sw) ++ 77#7 ++ 1#2 ++ r ++ g ++ 0#10 : Word), fx.word]
  | .lcseal sw t => [((bit sw) ++ 78#7 ++ 0#2 ++ t ++ 0#16 : Word)]
  | .collAr sw r b fx => [((bit sw) ++ 79#7 ++ 0#2 ++ r ++ b ++ 0#10 : Word), fx.word]
  | .collAg sw r b fx => [((bit sw) ++ 79#7 ++ 1#2 ++ r ++ b ++ 0#10 : Word), fx.word]
  | .collRs sw r b fx => [((bit sw) ++ 79#7 ++ 2#2 ++ r ++ b ++ 0#10 : Word), fx.word]
  | .collBc sw r b fx => [((bit sw) ++ 79#7 ++ 3#2 ++ r ++ b ++ 0#10 : Word), fx.word]
  | .fwait sw d b => [((bit sw) ++ 80#7 ++ 0#2 ++ d ++ b ++ 0#10 : Word)]
  | .fwaitT sw d b => [((bit sw) ++ 80#7 ++ 1#2 ++ d ++ b ++ 0#10 : Word)]
  | .ftest sw d b => [((bit sw) ++ 80#7 ++ 2#2 ++ d ++ b ++ 0#10 : Word)]
  | .fwaitall sw d => [((bit sw) ++ 80#7 ++ 3#2 ++ d ++ 0#16 : Word)]
  | .fcancel sw b => [((bit sw) ++ 81#7 ++ 0#8 ++ b ++ 0#10 : Word)]
  | .fdetach sw b => [((bit sw) ++ 81#7 ++ 64#8 ++ b ++ 0#10 : Word)]
  | .fprio sw b a => ((bit sw) ++ 81#7 ++ 128#8 ++ b ++ 0#2 ++ a.code : Word) :: a.ext
  | .fstat sw d b a => ((bit sw) ++ 81#7 ++ 3#2 ++ d ++ b ++ 0#2 ++ a.code : Word) :: a.ext
  | .pwrhD sw i o l => [((bit sw) ++ 82#7 ++ 0#2 ++ i ++ o ++ l ++ 0#10 : Word)]
  | .pwrhX sw l => [((bit sw) ++ 82#7 ++ 256#10 ++ l ++ 0#10 : Word)]
  | .pwrhE sw => [((bit sw) ++ 82#7 ++ 8388608#24 : Word)]
  | .pwrhQ sw => [((bit sw) ++ 82#7 ++ 12582912#24 : Word)]
  | .racq sw d b => [((bit sw) ++ 83#7 ++ 0#2 ++ d ++ b ++ 0#10 : Word)]
  | .rrel sw b => [((bit sw) ++ 83#7 ++ 64#8 ++ b ++ 0#10 : Word)]
  | .rinit sw b a => ((bit sw) ++ 83#7 ++ 128#8 ++ b ++ 0#2 ++ a.code : Word) :: a.ext
  | .rstat sw d b => [((bit sw) ++ 83#7 ++ 3#2 ++ d ++ b ++ 0#10 : Word)]
  | .tbinit sw b a => ((bit sw) ++ 84#7 ++ 0#8 ++ b ++ 0#2 ++ a.code : Word) :: a.ext
  | .tbarv sw d b => [((bit sw) ++ 84#7 ++ 1#2 ++ d ++ b ++ 0#10 : Word)]
  | .tbwait sw d b a => ((bit sw) ++ 84#7 ++ 2#2 ++ d ++ b ++ 0#2 ++ a.code : Word) :: a.ext
  | .tbexp sw b a => ((bit sw) ++ 84#7 ++ 192#8 ++ b ++ 0#2 ++ a.code : Word) :: a.ext
  | .qpostL sw d b a => ((bit sw) ++ 85#7 ++ 0#2 ++ d ++ b ++ 0#2 ++ a.code : Word) :: a.ext
  | .qpostR sw d b a => ((bit sw) ++ 85#7 ++ 1#2 ++ d ++ b ++ 0#2 ++ a.code : Word) :: a.ext
  | .qpostS sw d b a => ((bit sw) ++ 85#7 ++ 2#2 ++ d ++ b ++ 0#2 ++ a.code : Word) :: a.ext
  | .rtake sw d => [((bit sw) ++ 86#7 ++ 0#2 ++ d ++ 0#16 : Word)]
  | .rsplit sw d => [((bit sw) ++ 86#7 ++ 1#2 ++ d ++ 0#16 : Word)]
  | .rdone sw b => [((bit sw) ++ 86#7 ++ 128#8 ++ b ++ 0#10 : Word)]
  | .cntAdd sw d l a => ((bit sw) ++ 87#7 ++ 0#2 ++ d ++ l ++ 0#5 ++ a.code : Word) :: a.ext
  | .cntWait sw d l a => ((bit sw) ++ 87#7 ++ 1#2 ++ d ++ l ++ 0#5 ++ a.code : Word) :: a.ext
  | .cntRd sw d l a => ((bit sw) ++ 87#7 ++ 2#2 ++ d ++ l ++ 0#5 ++ a.code : Word) :: a.ext
  | .cntCncl sw l a => ((bit sw) ++ 87#7 ++ 192#8 ++ l ++ 0#5 ++ a.code : Word) :: a.ext
  | .trap sw i => [((bit sw) ++ 88#7 ++ 0#8 ++ i : Word)]
  | .brk sw i => [((bit sw) ++ 88#7 ++ 64#8 ++ i : Word)]
  | .halt sw => [((bit sw) ++ 88#7 ++ 8388608#24 : Word)]
  | .csrr sw d a => ((bit sw) ++ 89#7 ++ 0#2 ++ d ++ 0#8 ++ a.code : Word) :: a.ext
  | .csrw sw d b a => ((bit sw) ++ 89#7 ++ 1#2 ++ d ++ b ++ 0#2 ++ a.code : Word) :: a.ext
  | .csrs sw d b a => ((bit sw) ++ 89#7 ++ 2#2 ++ d ++ b ++ 0#2 ++ a.code : Word) :: a.ext
  | .csrc sw d b a => ((bit sw) ++ 89#7 ++ 3#2 ++ d ++ b ++ 0#2 ++ a.code : Word) :: a.ext
  | .eret sw => [((bit sw) ++ 90#7 ++ 0#24 : Word)]
  | .tlbiVa sw a => ((bit sw) ++ 91#7 ++ 0#16 ++ a.code : Word) :: a.ext
  | .tlbiPart sw a => ((bit sw) ++ 91#7 ++ 16384#16 ++ a.code : Word) :: a.ext
  | .tlbiAll sw => [((bit sw) ++ 91#7 ++ 8388608#24 : Word)]
  | .tlbiSync sw => [((bit sw) ++ 91#7 ++ 12582912#24 : Word)]
  | .mrdc sw d a => ((bit sw) ++ 92#7 ++ 0#2 ++ d ++ 0#8 ++ a.code : Word) :: a.ext
  | .msign sw d b a => ((bit sw) ++ 92#7 ++ 1#2 ++ d ++ b ++ 0#2 ++ a.code : Word) :: a.ext
  | .rctxRd sw d b a => ((bit sw) ++ 93#7 ++ 0#2 ++ d ++ b ++ 0#2 ++ a.code : Word) :: a.ext
  | .rctxWr sw d b a => ((bit sw) ++ 93#7 ++ 1#2 ++ d ++ b ++ 0#2 ++ a.code : Word) :: a.ext
  | .rctxResume sw d b a => ((bit sw) ++ 93#7 ++ 2#2 ++ d ++ b ++ 0#2 ++ a.code : Word) :: a.ext
  | .rctxKill sw d b a => ((bit sw) ++ 93#7 ++ 3#2 ++ d ++ b ++ 0#2 ++ a.code : Word) :: a.ext
  | .switchArm sw d b => [((bit sw) ++ 94#7 ++ 0#2 ++ d ++ b ++ 0#10 : Word)]
  | .switchUrgent sw d b => [((bit sw) ++ 94#7 ++ 1#2 ++ d ++ b ++ 0#10 : Word)]
  | .switchCancel sw d a => ((bit sw) ++ 94#7 ++ 2#2 ++ d ++ 0#8 ++ a.code : Word) :: a.ext
  | .partCreate sw d b a => ((bit sw) ++ 95#7 ++ 0#2 ++ d ++ b ++ 0#2 ++ a.code : Word) :: a.ext
  | .partDestroy sw d a => ((bit sw) ++ 95#7 ++ 1#2 ++ d ++ 0#8 ++ a.code : Word) :: a.ext
  | .partBitmap sw d b a => ((bit sw) ++ 95#7 ++ 2#2 ++ d ++ b ++ 0#2 ++ a.code : Word) :: a.ext
  | .partWays sw d b a => ((bit sw) ++ 95#7 ++ 3#2 ++ d ++ b ++ 0#2 ++ a.code : Word) :: a.ext
  | .capr sw d a => ((bit sw) ++ 96#7 ++ 0#2 ++ d ++ 0#8 ++ a.code : Word) :: a.ext
  | .clauseFetch => []
  | .parkResume _ => []
  | .loadReturn _ _ _ => []
  | .storeAck _ _ => []
  | .homeWriteApply _ _ _ => []
  | .guestInvalidation _ => []
  | .lineFill _ => []
  | .translationWalkComplete _ _ _ => []
  | .laneCopyLand _ _ => []
  | .sleepEnd _ => []
  | .timerFire _ => []
  | .watchdogExpire _ => []
  | .faultRecordSend _ => []
  | .matrixStep _ => []
  | .copySectorIssue _ _ => []
  | .copySectorLand _ _ _ => []
  | .cplIterationStart _ _ => []
  | .collChunkSend _ _ => []
  | .fabricChunkReceive _ _ => []
  | .fabricAckReceive _ _ => []
  | .fabricRefusalReceive _ _ => []
  | .fabricNoticeReceive _ _ => []
  | .trapRecordReceive _ _ => []
  | .trapReplyReceive _ _ => []
  | .linkAckFrameReceive _ _ => []
  | .frameForward _ _ => []
  | .linkRetryTimeout _ => []
  | .portLinkUp _ => []
  | .ackResendTimer _ => []
  | .ptpSyncReceive _ _ => []
  | .ptpPdelayReqReceive _ _ => []
  | .ptpPdelayRespReceive _ _ => []
  | .ptpPdelayRespFollowUp _ _ => []
  | .ptpManagementReceive _ _ => []
  | .ptpSyncInterval _ => []
  | .ptpPdelayReqInterval _ => []
  | .holdoverEnter => []
  | .ptpLock _ => []
  | .heartbeatSend => []
  | .heartbeatReceive _ _ _ => []
  | .heartbeatLoss => []
  | .voteRequestReceive _ _ => []
  | .voteReceive _ _ _ => []
  | .timetablePageReceive _ _ => []
  | .urgentRequestReceive _ _ _ _ => []
  | .injectionStop _ => []
  | .switchStart _ => []
  | .haltComplete _ => []
  | .drainWindowClose _ => []
  | .contextSaveComplete _ => []
  | .contextRestore _ _ _ => []
  | .overrunHoldEnd _ => []
  | .switchWatchdogExpire _ => []
  | .slotEnd _ => []
  | .usageRecordPeriodic _ => []
  | .coreSwitchOut _ => []
  | .coreSwitchIn _ _ _ => []
  | .controlIntervalBoundary _ => []
  | .powerWindowStart _ => []
  | .powerWindowEnd _ => []
  | .undeclaredThrottleEnd _ _ => []
  | .queuePop _ => []
  | .signalPacketWrite _ _ => []
  | .queueTranslationRetry _ => []
  | .workgroupPlace _ _ => []
  | .controlEventException _ => []
  | .partCreateComplete _ => []
  | .l2TagError _ _ _ _ => []
  | .l2DataError _ _ _ => []
  | .hbm4Uncorrectable _ => []
  | .copySramError _ => []
  | .hostMemoryWrite _ _ _ _ _ => []
  | .hostMemoryRead _ _ _ _ _ => []
  | .hostConfigRequest _ _ _ => []
  | .msixVectorUnmask _ _ => []
  | .attestGo _ => []
  | .attestComplete _ => []
  | .startRequest _ => []
  | .portcfgWrite _ _ => []
  | .registerWrite _ _ => []
  | .powerOn => []
  | .startStepComplete _ => []
  | .thermalShutdown => []
  | .flowShutdown => []
  | .supplyOutOfRange _ => []
  | .reservedOpcodeIssue _ => []
  | .partDestroyComplete _ => []
  | .badFcsFrameReceive _ => []
  | .coolantOutOfRange => []
  | .operatingConditionsRestored => []

/-- Decoding a list of words: the instruction and the words after it. -/
def decodeWords : List Word → Option (Instr × List Word)
  | [] => none
  | w :: ws =>
    match decode w ws.head? with
    | .ok i n => some (i, ws.drop (n - 1))
    | .opcode => none
    | .missing => none
    | .operand => none

/-- The instruction the decoder reads from an instruction whose bits are `w`, numbered as spec/opcode_table.json numbers
them; the bits from `nbits` up are zero. An instruction is its first word and at most one more (R15), so two words hold it. -/
def decodeTableWord (nbits w : Nat) : Option Instr :=
  let v := w % 2 ^ nbits
  match decode (BitVec.ofNat 32 v) (some (BitVec.ofNat 32 (v / 2 ^ 32))) with
  | .ok i _ => some i
  | .opcode => none
  | .missing => none
  | .operand => none

/-- Engine classes (R13, R40, R41). -/
inductive Cls where
  | gen | mem | foal | sys
  deriving DecidableEq, Repr

/-- The class to which the opcode map assigns a major opcode. -/
def opClass (op : Nat) : Cls :=
  if op < 0x36 then .gen
  else if op < 0x49 || op == 0x4B then .mem
  else if op < 0x58 then .foal
  else .sys

/-- The control transfers (R17). -/
def Instr.isTransfer : Instr → Bool
  | .br _ _ => true
  | .brS1 _ _ => true
  | .brS0 _ _ => true
  | .brEz _ _ => true
  | .call _ _ => true
  | .jmp _ _ => true
  | .jmpl _ _ => true
  | .ret _ => true
  | .exit _ => true
  | .exitD _ => true
  | .eret _ => true
  | _ => false

end

end Sys2Proof
end

