-- ==== Sys2Proof/Machine/Store.lean ====
section
/-! DEFINITION. Sparse stores: lists of (key, value) pairs, keys strictly rising, no entry equal to the default that an
unlisted key reads as. Every sparse piece of state, memory among them, is one of these. -/

namespace Sys2Proof.Machine

/-- A sparse store: (key, value) pairs. -/
abbrev Store (β : Type) := List (Nat × β)

/-- The value listed at a key. -/
def Store.find {β : Type} (k : Nat) : Store β → Option β
  | [] => none
  | (j, v) :: r => if j == k then some v else Store.find k r

/-- The value at a key, `d` where none is listed. -/
def Store.get {β : Type} (d : β) (st : Store β) (k : Nat) : β := (Store.find k st).getD d

/-- Unlists a key. -/
def Store.erase {β : Type} (k : Nat) : Store β → Store β
  | [] => []
  | (j, v) :: r => if j == k then Store.erase k r else (j, v) :: Store.erase k r

/-- Lists a value at a key, in place of what was listed there. -/
def Store.put {β : Type} (k : Nat) (v : β) : Store β → Store β
  | [] => [(k, v)]
  | (j, w) :: r =>
    if j < k then (j, w) :: Store.put k v r
    else if j == k then (k, v) :: r
    else (k, v) :: (j, w) :: r

/-- Writes a value at a key; the default is not listed. -/
def Store.set {β : Type} [DecidableEq β] (d : β) (st : Store β) (k : Nat) (v : β) : Store β :=
  if v = d then Store.erase k st else Store.put k v st

/-- Canonical form: keys strictly rising from `lo`, and no entry equal to the default. -/
def Store.wfFrom {β : Type} [DecidableEq β] (d : β) (lo : Nat) : Store β → Bool
  | [] => true
  | (j, v) :: r => decide (lo ≤ j) && decide (v ≠ d) && Store.wfFrom d (j + 1) r

/-- The store is in canonical form. -/
def Store.wf {β : Type} [DecidableEq β] (d : β) (st : Store β) : Bool := Store.wfFrom d 0 st

/-- Keeps the entries whose key and value pass a test. -/
def Store.keep {β : Type} (p : Nat → β → Bool) (st : Store β) : Store β := st.filter fun e => p e.1 e.2

end Sys2Proof.Machine
end

