-- ==== Sys2Proof/Machine/Types.lean ====
section
/-! DEFINITION. The pieces of state of a team, a control-core thread, a workgroup and a foal, as plain data. -/

namespace Sys2Proof.Machine

/-- One vector register of a team: lane i in bits [32 i + 31 : 32 i] (R58). -/
abbrev VecReg := BitVec 32768

/-- The trap codes (R368). -/
inductive TrapCode where
  | illegalOpcode | illegalClause | illegalOperand | priv | mstkOver | mstkRefill | mstkUnder | partialMask
  | notProducer | detachReg | memFault | align | perm | detViolation | watchdog | timer | brk | swtrap | foalFault
  | memPoison | killContext
  deriving DecidableEq, Repr

/-- Park reasons (R53, R366). -/
inductive Reason where
  | switchMarker | clauseWait | barrier | ring | fwait | waitv | heldRegister | enginePage | faultServer
  deriving DecidableEq, Repr

/-- A byte's place: physical address and the home slice its page is pinned to, or an offset of the scratchpad
(R154, R155, R294). -/
structure Loc where
  pa : Nat
  pin : Option Nat
  deriving DecidableEq, Repr

/-- The condition of WAITV (R175). -/
inductive WaitCond where
  | eq | ne | ge | lt
  deriving DecidableEq, Repr

/-- What a park waits for. A park taken before an instruction executes leaves PC and word index at it, and the
instruction issues again once the wait is over; the others are latched: the instruction has executed. -/
inductive Wait where
  /-- R22, after an S-marked instruction: loads, stores and register-destination foals -/
  | marker
  /-- R13: the header's wait fields -/
  | header (ldw stw : Nat) (mw : Bool)
  /-- loads, and stores too where `st`, before an instruction executes (R112, R113, R171, R172, R210, R212, R224, R229) -/
  | counts (r : Reason) (st mw : Bool)
  /-- R171: an acquire load has landed; then the switch marker where `sw` -/
  | landed (req : Nat) (sw : Bool)
  /-- R113: the phase of a named barrier; the instruction is past its arrival -/
  | barrierPhase (b : Nat) (sw : Bool)
  /-- R24: registers v[lo] up to v[lo + n - 1] held -/
  | held (regs : List Nat)
  /-- R165: pages of the scratchpad owned by the engine -/
  | pages (ps : List Nat)
  /-- R117: counts 0 and the open batch empty, and then (for EXIT) every attached foal ended -/
  | exiting (foals : Bool)
  /-- R173, R216: the open batch slot holds a sealed, unfinished batch -/
  | batch
  /-- R221: a foal of the core, by slot and generation -/
  | foal (slot : Nat) (gen : Nat)
  /-- R221: every attached foal of the team -/
  | allFoals
  /-- R220, R251: the kind limit or a slot of the foal table -/
  | foalSlot (kind : Nat)
  /-- R175; the address and the eight bytes watched; latched by the read that meets it -/
  | value (scratch : Bool) (va : Addr) (place : List Loc) (c : WaitCond) (y : DWord) (sw : Bool)
  /-- R210: a transaction barrier leaves phase p, or has FAULT (the status goes to s[d]; n words); latched by the engine's or a team's update -/
  | tbar (addr p d n : Nat) (sw : Bool)
  /-- R212: the ring at a descriptor address has a filled slot -/
  | ringFilled (addr : Nat)
  /-- R224: the queue at a physical address has room -/
  | queueRoom (pa : Loc)
  /-- R226: counter of an entity ≤ limit -/
  | counter (e : Nat) (limit : DWord)
  /-- R230: HALT, until an exception is pending -/
  | halt
  /-- R238: TLBI.SYNC -/
  | tlbi
  /-- R241: an RCTX of n words carried over the fabric, by request number; the answer goes to s[d] -/
  | rctx (req d n : Nat)
  /-- R53, R356: a trap of a replay packet has been replied to, and other packets of the team are not settled -/
  | server
  deriving DecidableEq, Repr

/-- Where a hart stands (R53). A control-core thread that firmware has not started is `stopped` (log 2). -/
inductive Status where
  | ready
  | parked (w : Wait)
  | trapped
  | stopped
  deriving DecidableEq, Repr

/-- What runs: nothing, a control-core thread, a compute team. -/
inductive HartKind where
  | absent | thread | team
  deriving DecidableEq, Repr

/-- The clause a hart is in: fetched whole before its first word issues (R13, R25). -/
structure Clause where
  cls : Cls
  words : List Word
  ldw : Nat
  stw : Nat
  mw : Bool
  yp : Bool
  /-- the header's waits and YP have been dealt with (R19, R26) -/
  entered : Bool
  /-- its words are fetched again before the next of them issues: the context has been restored (R25, R26) -/
  refetch : Bool
  deriving DecidableEq, Repr

/-- What a team and a control-core thread have in common. -/
structure Ctx where
  kind : HartKind
  status : Status
  /-- s0-s63, those that are not zero -/
  sregs : Store DWord
  scc : Bool
  /-- address of the clause header -/
  pc : Addr
  /-- index of the next word in the clause -/
  widx : Nat
  clause : Option Clause
  deriving DecidableEq, Repr

def Ctx.blank : Ctx := ⟨.absent, .stopped, [], false, 0#64, 0, none⟩

/-- Access spaces (R154, R155). -/
inductive Space where
  | global | scratch
  deriving DecidableEq, Repr

/-- The atomic operations (R169), named by their rows. -/
inductive Aop where
  | addI32 | addF32 | minS32 | maxS32 | minN32 | maxN32 | and | or | xor | exch | cas | maxi | addF16x2 | addI64
  deriving DecidableEq, Repr

/-- What an outstanding request does when it is performed. -/
inductive ReqKind where
  | load
  | store
  /-- returns the old value (ATOM, ATOMS) -/
  | atom (op : Aop)
  /-- returns nothing (RED) -/
  | red (op : Aop)
  deriving DecidableEq, Repr

/-- Where a load's value goes. -/
inductive Dest where
  | none
  /-- v[d], and the registers after it for values over 4 bytes -/
  | vec (d : Nat)
  /-- s[d] -/
  | scalar (d : Nat)
  deriving DecidableEq, Repr

/-- One lane's part of a request: the addresses of its bytes in order (physical, or offsets of the scratchpad), the bytes
it stores or its operand, for CAS the word it swaps in, and of a load performed in parts the bytes read so far. -/
structure LaneReq where
  lane : Nat
  va : Addr
  bytes : List Loc
  data : Nat
  data2 : Nat
  read : List Byte
  deriving DecidableEq, Repr

/-- How near a load may be served (R171, R298). -/
inductive Reach where
  | near | die | home
  deriving DecidableEq, Repr

/-- An outstanding memory request of one instruction (R19, R160). -/
structure Req where
  id : Nat
  kind : ReqKind
  space : Space
  dest : Dest
  /-- sign-extend the loaded value (LDVS) -/
  sext : Bool
  reach : Reach
  /-- the scope of the acquire effects to apply when it has landed (R171) -/
  acquire : Option Scope
  /-- the instruction: header address, word index, and its words, for MEM_POISON and replay packets -/
  pc : Addr
  widx : Nat
  word : Word
  /-- lanes not yet performed, in increasing lane order -/
  todo : List LaneReq
  /-- lanes of an atomic performed at the home and not yet landed: lane and old value, none where a poisoned block was
  read -/
  back : List (Nat × Option Nat)
  /-- requests whose writes the issuing die had read before they were applied (R302) -/
  deps : List Nat
  /-- poisoned lanes met so far, with their addresses (R159) -/
  pois : List (Nat × Addr)
  /-- a store that this core's L1 and this die's guest copies do not show yet: an earlier load of the team to its bytes is
  not performed (R163, R164) -/
  quiet : Bool
  /-- moments at which the home applied its lanes, with the lines (R300) -/
  applied : List (Nat × Nat)
  deriving DecidableEq, Repr

/-- One outstanding lane copy (R173). -/
structure LaneCopy where
  id : Nat
  slot : Nat
  lane : Nat
  /-- destination offset, size, and the physical addresses of the c source bytes -/
  dst : Nat
  n : Nat
  src : List Loc
  deriving DecidableEq, Repr

/-- What has landed of a slot's batch: copies, the destination of the first poisoned one, and the poisoned lanes modulo 64
(R216). -/
structure BatchSlot where
  landed : Nat
  addr : Option Nat
  lanes : DWord
  deriving DecidableEq, Repr

def BatchSlot.blank : BatchSlot := ⟨0, none, 0#64⟩

/-- A pending trap of a team: what its fault record will hold (R370). -/
structure TrapRec where
  code : TrapCode
  pc : Addr
  widx : Nat
  addr : DWord
  lanes : Mask
  /-- the issuing instruction's words, 0 where none -/
  instr : DWord
  spaddr : Bool
  replay : Bool
  /-- the core context was switched out before the record was sent (R373) -/
  out : Bool
  handle : Option DWord
  time : DWord
  /-- the park the team left for the trap, entered again on RESUME (R125) -/
  resumePark : Option Wait
  /-- words of the trapping instruction, by which RESUME and EMULATE move on; 0 where it is fetched again -/
  len : Nat
  /-- the record waits, and has been logged, because no way leads to the fault server (R371) -/
  logged : Bool
  /-- the lanes in place of EXEC under which the instruction executed, if a RETRY had named them (R158) -/
  under : Option Mask
  deriving DecidableEq, Repr

/-- A deferred MEM_POISON (R159): the load's place and the poisoned lanes. -/
structure PoisonRec where
  pc : Addr
  widx : Nat
  lanes : Mask
  addr : DWord
  word : Word
  deriving DecidableEq, Repr

/-- A team's power declaration (R275, R286). -/
structure PowerDecl where
  /-- 1 pending, 2 granted, 3 active -/
  state : Nat
  intensity : Nat
  /-- TIME of the declaration, and its onset in µs -/
  t0 : DWord
  onset : Nat
  /-- start of the granted window -/
  start : DWord
  /-- length in µs -/
  len : Nat
  /-- boundaries passed while pending, saturating -/
  wait : Nat
  /-- summed length of the extension requests not yet evaluated, in µs (R279) -/
  ext : Option Nat
  /-- such a request arrived while an aged declaration was pending: it is refused at its evaluation (R279) -/
  doomed : Bool
  /-- a halt has returned the grant: `len` is what was left of the window (R287) -/
  kept : Bool
  deriving DecidableEq, Repr

/-- How a translation fails (R154). -/
inductive XErr where
  | fault | perm
  deriving DecidableEq, Repr

/-- A combined translation of the 64 KiB page of a virtual address: the page's physical base, the permissions both
leaves grant, the pin, and the leaf's run (R392). -/
structure Page where
  base : Nat
  r : Bool
  w : Bool
  x : Bool
  pin : Option Nat
  run : Nat
  deriving DecidableEq, Repr

/-- What a walk has returned to an access that waits at issue: its virtual page, how it failed or the page, and the value of
`nextId` then (R395). -/
structure Walked where
  vpage : Nat
  err : Option XErr
  page : Page
  stamp : Nat
  deriving DecidableEq, Repr

/-- What an instruction waits for at issue: a count below 63, room for n lane copies in the open batch (R19, R173), or walks
of these virtual pages, tracked since `nextId` stood at `since`; with no page, room among the misses that its die tracks
(R157, R395). -/
inductive Room where
  | count (load : Bool)
  | copies (n : Nat)
  | walks (pages : List Nat) (since : Nat)
  deriving DecidableEq, Repr

/-- A compute team (R51-R71). The registers it shares in form with a thread are in its `Ctx`, its vector registers in the
state's `vregs`. -/
structure Team where
  wg : Nat
  teamix : Nat
  width : Nat
  vregs : Nat
  sector : Nat
  /-- base priority (R70) -/
  prio : Nat
  exec : Mask
  /-- lm0-lm7; an unlisted one is all ones -/
  lm : Store Mask
  /-- mask-stack entries 0-15, the oldest at 0; an unlisted one is 0 -/
  mstack : Store Mask
  depth : Nat
  spill : BitVec 32
  /-- spill slots 0-15 of the team record (R374) -/
  spillSlots : Store Mask
  /-- EXEC at the last LPACK; none for identity (R111) -/
  packed : Option Mask
  flags : FFlags
  openSlot : Nat
  copies : List LaneCopy
  slots : Store BatchSlot
  reqs : List Req
  rclock : DWord
  timer : Option DWord
  /-- that deadline was held at 2^64 - 1, and never fires (R124) -/
  timerHeld : Bool
  timera : Option DWord
  /-- TIMERA passed while the context was out (R126) -/
  late : Bool
  /-- clocks of sleep left and one more; 0 when it does not sleep -/
  sleep : Nat
  wdleft : Nat
  undecl : BitVec 32
  power : Option PowerDecl
  /-- the last PWRH.X was refused (R279) -/
  xref : Bool
  poison : List PoisonRec
  trap : Option TrapRec
  /-- lane mask in place of EXEC for one execution (R158) -/
  retry : Option Mask
  /-- its instruction waits at issue, not parked -/
  stalled : Option Room
  /-- what the walks of its instruction's pages have returned so far (R395) -/
  walked : List Walked
  /-- the faulted-lane mask of the live trap (FLANE, R366) -/
  flane : Mask
  lastPhase : Store (BitVec 32)
  /-- clocks resident-ready since the last issue (R332) -/
  waited : Nat
  /-- the issue throttle has withheld a clock from it since (R283) -/
  withheld : Bool
  /-- the team yields its next clock (R118) -/
  yielded : Bool
  /-- guest copies filled before this moment are not used (R171) -/
  fresh : Nat
  /-- loads to reissue at the restore, oldest first, with the CGEN of their issue (R356) -/
  replay : List (Req × Word)
  /-- requests reissued from replay packets: the team waits for them before it goes on (R356) -/
  replayed : List Nat
  /-- the park it goes back to once its replay packets are settled (R356) -/
  behind : Option Wait
  /-- a fault record not yet sent; a reply that arrived while the team is saved (R243, R366) -/
  unsent : Bool
  reply : Option Nat
  deriving DecidableEq, Repr

def Team.blank : Team :=
  { wg := 0, teamix := 0, width := 32, vregs := 8, sector := 0, prio := 0, exec := 0#1024, lm := [], mstack := [], depth := 0,
    spill := 0#32, spillSlots := [], packed := none, flags := 0#5, openSlot := 0, copies := [], slots := [], reqs := [],
    rclock := 0#64, timer := none, timerHeld := false, timera := none, late := false, sleep := 0, wdleft := 0, undecl := 0#32,
    power := none, xref := false, poison := [], trap := none, retry := none, stalled := none, walked := [], flane := 0#1024, lastPhase := [], waited := 0,
    withheld := false, yielded := false, fresh := 0, replay := [], replayed := [], behind := none, unsent := false, reply := none }

/-- What a launch packet gives its workgroups and teams (R66, R317, R318). -/
structure Launch where
  part : Nat
  job : Word
  launch : Word
  graph : Word
  phase : Word
  grid : Nat
  teams : Nat
  width : Nat
  vregs : Nat
  spkib : Nat
  code : Addr
  args : DWord
  prio : Nat
  ceil : Nat
  wdlim : Nat
  det : Bool
  /-- the declared producer team (R199) -/
  producer : Option Nat
  persistent : Bool
  /-- KIND 2, with its range and leaf (R225) -/
  range : Option (DWord × DWord × DWord)
  deriving DecidableEq, Repr

/-- A named barrier (R113). -/
structure Barrier where
  phase : BitVec 32
  arrived : BitVec 16
  expect : Nat
  deriving DecidableEq, Repr

/-- A resident workgroup (R52). -/
structure Workgroup where
  core : Nat
  /-- logical core in its die (R66, R288) -/
  lcore : Nat
  wgix : Nat
  /-- entity of its launch in the completion table -/
  entity : Nat
  launch : Launch
  /-- hart numbers of its teams by TEAMIX; an ended team's hart is absent -/
  teams : List Nat
  /-- the named barriers 0-15; an unlisted one has had no arrival -/
  barriers : Store Barrier
  /-- scratchpad pages owned by the engine side -/
  engPages : List Nat
  /-- its interval of a range launch, [lo, hi) -/
  lo : DWord
  hi : DWord
  /-- saved in this image slot of its partition (R386); resident when none -/
  saved : Option Nat
  /-- order in which it became resident (R332) -/
  since : Nat
  /-- 64 KiB steps of the core's SRAM that its scratchpad takes (R60) -/
  steps : List Nat
  /-- a kill has reached it (R204, R372) -/
  killed : Bool
  deriving DecidableEq, Repr

def Launch.blank : Launch :=
  { part := 1, job := 0#32, launch := 0#32, graph := 0#32, phase := 0#32, grid := 1, teams := 1, width := 32, vregs := 8,
    spkib := 0, code := 0#64, args := 0#64, prio := 0, ceil := 0, wdlim := 40, det := false, producer := none,
    persistent := false, range := none }

def Workgroup.blank : Workgroup :=
  { core := 0, lcore := 0, wgix := 0, entity := 0, launch := Launch.blank, teams := [], barriers := [], engPages := [], lo := 0#64,
    hi := 0#64, saved := none, since := 0, steps := [], killed := false }

def Barrier.blank : Barrier := ⟨0#32, 0#16, 0⟩

/-- A control-core thread's own registers (R231, R234, R235). -/
structure Thread where
  level : BitVec 2
  plev : BitVec 2
  ie : Bool
  pie : Bool
  epc : DWord
  eidx : BitVec 4
  ecause : DWord
  eval : DWord
  evec : DWord
  /-- PSEL. DESIGN CHOICE: each thread has its own (R234; log 86) -/
  psel : Nat
  /-- bytes of the misaligned LDS or STS at which it stands that are performed (R156) -/
  bytes : List Byte
  /-- events raised and not yet taken, oldest first, each with its EVAL -/
  events : List (Nat × DWord)
  /-- `nextId` at its last TLBI (R238) -/
  posted : Nat
  deriving DecidableEq, Repr

def Thread.blank : Thread :=
  { level := 0#2, plev := 0#2, ie := false, pie := false, epc := 0#64, eidx := 0#4, ecause := 0#64, eval := 0#64,
    evec := 0#64, psel := 1, bytes := [], events := [], posted := 0 }

/-! ### Foals -/

/-- Status of a foal (R254, R265). -/
inductive FoalStatus where
  | running | done | fault | cancelled | frozen
  deriving DecidableEq, Repr

/-- Kind codes of R251. -/
inductive FoalKind where
  | matrix | copy | lanebatch | coll
  deriving DecidableEq, Repr

/-- Adopter levels of R264. -/
inductive Level where
  | attached | workgroup | launch | graph | phase | job
  deriving DecidableEq, Repr

/-- The stream pattern record (R202). -/
structure StreamRec where
  base : DWord
  run : Nat
  indim : Nat
  idxsz : Nat
  cnt : List Nat
  str : List (BitVec 32)
  idxaddr : DWord
  dest : DWord
  deriving DecidableEq, Repr

/-- Directions of a COPY foal (R198, R204, R214). -/
inductive CopyForm where
  | gs | sg | gg | ss | fill | drain
  deriving DecidableEq, Repr

/-- A sector whose read has issued and which has not landed (R205): its ordinal, the bytes it writes (address, value;
physical addresses for a global destination), and whether a poisoned line was read, with the address. -/
structure Sector where
  ord : Nat
  global : Bool
  /-- destination workgroup of a scratchpad sector -/
  wg : Nat
  writes : List (Loc × Byte)
  poison : Option DWord
  deriving DecidableEq, Repr

/-- A running CPY or CPL (R202-R207, R214, R215, R268). -/
structure CopyJob where
  form : CopyForm
  rcd : StreamRec
  iters : Nat
  step : DWord
  /-- transaction barrier offset, CPY only -/
  tb : Option Nat
  /-- ring descriptor offset, CPL only -/
  ring : Option Nat
  iter : Nat
  rslot : Nat
  /-- the current iteration has taken its slot (CPL) -/
  inIter : Bool
  /-- ordinal of the next sector to issue in this iteration -/
  next : Nat
  out : List Sector
  /-- ordinals landed out of order, above the lowest unlanded one -/
  ahead : List Nat
  /-- ordinal of the lowest unlanded sector -/
  restart : Nat
  /-- the index element in use: the iteration of its dimension, and its value (R203) -/
  idx : Option (Nat × DWord)
  /-- the fault found: its sector, code and address; the foal ends in it once the earlier sectors have landed (R207) -/
  bad : Option (Nat × TrapCode × DWord)
  deriving DecidableEq, Repr

/-- MMA's forms (R182). -/
inductive MmaForm where
  | dense | sp | z
  deriving DecidableEq, Repr

/-- An MMA foal: its operands as read at issue (R183) and the next block. -/
structure MmaJob where
  form : MmaForm
  fmt : DWord
  d : Nat
  a : List VecReg
  b : List VecReg
  aux : List VecReg
  sca : List Byte
  scb : List Byte
  blocks : Nat
  next : Nat
  deriving DecidableEq, Repr

/-- The tile-op record (R190). -/
structure TileRec where
  aaddr : Nat
  baddr : Nat
  caddr : Nat
  apitch : Nat
  bpitch : Nat
  cpitch : Nat
  m : Nat
  n : Nat
  k : Nat
  kvalid : Nat
  deriving DecidableEq, Repr

/-- A TMMA foal (R189-R197). -/
structure TmmaJob where
  rcdAddr : Nat
  tile : TileRec
  zero : Bool
  fmt : DWord
  mm : BitVec 256
  mn : BitVec 256
  next : Nat
  /-- it has been frozen at a switch: its predicates stand in the foal record (R197) -/
  frozen : Bool
  deriving DecidableEq, Repr

/-- COLL's forms (R218). -/
inductive CollForm where
  | ar | ag | rs | bc
  deriving DecidableEq, Repr

/-- A COLL foal (R217-R219, R268, R359): its record, its group as read at issue, and how far its ring has come. -/
structure CollJob where
  form : CollForm
  op : Nat
  ty : Nat
  comp : Nat
  group : Word
  gen : Word
  members : List Nat
  r : Nat
  send : DWord
  recv : DWord
  count : Nat
  tb : Option Nat
  /-- how many collectives this member had issued on the group before this one -/
  ordinal : Nat
  nextSend : Nat
  acked : Nat
  recvd : Nat
  /-- chunks received and not yet combined: chunk number and payload -/
  arrived : List (Nat × List Byte × List Byte)
  /-- payloads that can be sent, kept until they are acknowledged: chunk number and bytes -/
  ready : List (Nat × List Byte)
  /-- pieces of RECV held back until every member is known to match: address and bytes (R218) -/
  held : List (DWord × List Byte)
  /-- bytes of RECV that wait for the rest of their aligned 4-byte word, by address (R305) -/
  words : List (Nat × Byte)
  /-- 32-byte sectors of RECV that have landed in part: sector number and bytes landed (R218) -/
  sectors : List (Nat × Nat)
  /-- the collective engine that runs it -/
  engine : Nat
  /-- a notice of its end has been sent or passed on (R218) -/
  noticed : Bool
  deriving DecidableEq, Repr

/-- What a foal does. -/
inductive Job where
  | mma (j : MmaJob)
  | tmma (j : TmmaJob)
  | copy (j : CopyJob)
  | batch (slot : Nat)
  | coll (j : CollJob)
  deriving DecidableEq, Repr

/-- A foal (R251-R269). -/
structure Foal where
  /-- creation order -/
  id : Nat
  kind : FoalKind
  gen : BitVec 12
  status : FoalStatus
  prio : Nat
  chain : Nat
  detached : Bool
  regdest : Bool
  depv : Bool
  canreq : Bool
  /-- creating team's hart, TEAMIX and workgroup -/
  team : Nat
  teamix : Nat
  wg : Nat
  /-- WGIX of that workgroup, and its launch -/
  wgix : Nat
  origin : Launch
  /-- adopter level and the entity or workgroup that counts it -/
  level : Level
  adopter : Nat
  /-- earlier foals of the chain not ended at creation, and the dependence, by id (R256, R257) -/
  preds : List Nat
  dep : Option Nat
  progress : Nat
  fcode : Option TrapCode
  faddr : DWord
  flanes : DWord
  started : Bool
  /-- an FWAIT, FWAIT.T or FTEST has returned its FAULT (R117) -/
  told : Bool
  /-- an orphan that ended in FAULT: the handle of its record, until the fault server's reply (R266) -/
  orphan : Option DWord
  /-- scratchpad pages it holds, of its workgroup (R194, R200) -/
  pages : List Nat
  /-- pages it reads and writes, compared by R195 -/
  reads : List Nat
  writes : List Nat
  /-- ns of undeclared throttle left, once begun (R281) -/
  throttle : Option Nat
  declared : Bool
  job : Job
  deriving DecidableEq, Repr

end Sys2Proof.Machine
end

