-- ==== Sys2Proof/Machine/Units.lean ====
section
/-! DEFINITION. The pieces of state outside the teams: memory copies, partitions, core contexts, clusters, launches, the
timetable, the election, PTP, the fabric ports, the host link, the security block and the start sequencer. -/

namespace Sys2Proof.Machine

/-- What happens next besides the current hart's own instruction: an event of spec/95_what_each_step_holds.md with what
the acting unit or the outside world supplies, time passing, the choice of the hart that issues (log 4), or an uncorrectable
error in the SRAM of a core, at an address of its scratchpad, that the next step of its matrix engine finds (R196, log 76). -/
inductive Input where
  | event (i : Instr)
  /-- n ns of TIME -/
  | advance (n : Nat)
  | select (h : Nat)
  | sramError (core addr : Nat)
  deriving DecidableEq, Repr

/-! ### Copies of memory -/

/-- A line held in an L2 slice: the home's copy or a guest copy (R293, R295, R377, R423). -/
structure L2Line where
  /-- line number, pa / 128 -/
  line : Nat
  guest : Bool
  data : BitVec 1024
  dirty : Bool
  /-- partition whose miss filled it; 0 the system owner (R378) -/
  owner : Nat
  /-- moments of the last use and of the fill -/
  used : Nat
  filled : Nat
  /-- a guest copy that an invalidation passed by because it held its die's own write (R300) -/
  stale : Bool
  /-- of a guest copy: the moment of the latest write that the home has applied since it was there (R300) -/
  wrote : Nat
  /-- poison of each half, and the bytes written since the fill (R423) -/
  pois : BitVec 2
  written : BitVec 128
  deriving DecidableEq, Repr

/-- An L1 line (R293): its data, the moment from which its data dates, the 64 KiB step it lies in, and the moment it was
filled. -/
structure L1Line where
  data : BitVec 1024
  filled : Nat
  step : Nat
  since : Nat
  deriving DecidableEq, Repr

/-- A miss waiting for its line (R377): the line with its pin, whether a guest copy is to be filled and on which die, for
which owner, and whether the L1 of a core is to be filled too (PREF.L1). -/
structure Fill where
  line : Nat
  pin : Option Nat
  guest : Option Nat
  owner : Nat
  core : Option Nat
  deriving DecidableEq, Repr

/-- A cached translation (R395): of `pages` 64 KiB pages from virtual page `vpage`, in the cache of a core or of a
cluster. -/
structure TlbEntry where
  cluster : Bool
  unit : Nat
  part : Nat
  vpage : Nat
  pages : Nat
  ppage : Nat
  r : Bool
  w : Bool
  x : Bool
  pin : Option Nat
  deriving DecidableEq, Repr

/-- An invalidation on its way to a die (R300): the line and the moment of the write. -/
structure Inval where
  die : Nat
  line : Nat
  seq : Nat
  deriving DecidableEq, Repr

/-! ### Cores and clusters -/

/-- Where a core's context stands in the switch sequence (R352). -/
inductive CoreStep where
  | running
  /-- stopping since START; `out` when R373 switches it out -/
  | halting (start : DWord) (out : Bool)
  /-- the drain window, open since the halt was complete -/
  | draining (start halted : DWord) (out : Bool)
  /-- the window has closed and the save is being written; the TIME at which the last access it waited for landed -/
  | saving (start halted closed : DWord) (landed : Option DWord) (out : Bool)
  deriving DecidableEq, Repr

/-- A physical core (R51, R66, R352, R355, R357). -/
structure Core where
  /-- partition of its context; 0 when the core is free -/
  part : Nat
  job : Word
  inc : Nat
  cgen : Word
  step : CoreStep
  /-- sum of the overruns of its halts since its last restore, in ns -/
  overrun : Nat
  /-- no team issues before this TIME -/
  hold : Option DWord
  /-- its context has been restored and has not issued since (R281) -/
  unissued : Bool
  /-- deterministic mode: the place in its cyclic order of each sector's turn (R336) -/
  turn : Store Nat
  /-- clocks of each sector in which a team issued and that TIME has not passed yet (R332) -/
  ahead : Store Nat
  /-- teams parked for a kind limit or a slot of the foal table, each with the kind's code, in the order they parked (R220,
  R251) -/
  queue : List (Nat × Nat)
  /-- the MATRIX foal in the engine, by slot (R177) -/
  engine : Option Nat
  deriving DecidableEq, Repr

def Core.blank : Core :=
  { part := 0, job := 0#32, inc := 0, cgen := 0#32, step := .running, overrun := 0, hold := none, unissued := false, turn := [], ahead := [], queue := [],
    engine := none }

/-- A cluster's admission unit and frequency controller (R274, R282, R284). -/
structure Cluster where
  fstep : Nat
  tband : Nat
  /-- boost allowance in µJ -/
  boost : Nat
  /-- configured budgets -/
  cbudget : Nat
  istep : Nat
  /-- throttle level of this interval; 0 when it is not throttled -/
  thr : Nat
  /-- CBUDGET minus held units after the last boundary -/
  freeu : Nat
  /-- fortieths of a clock carried -/
  frac : Nat
  /-- what each partition has added to its selector 0 here in this interval (R400) -/
  counts : Store Nat
  deriving DecidableEq, Repr

def Cluster.blank : Cluster :=
  { fstep := 68, tband := 0, boost := 0, cbudget := 192, istep := 64, thr := 0, freeu := 0, frac := 0, counts := [] }

/-- The package power controller (R285): the factor in sixteenths, the measured powers of the last intervals (newest first,
at most 10,000), the intervals of the current excursion, whether 1/4 is being held, and the TIME of the last boundary. -/
structure Controller where
  f16 : Nat
  powers : List Nat
  excursion : Nat
  held : Bool
  boundary : DWord
  deriving DecidableEq, Repr

/-! ### Launches -/

/-- The part of a completion-table entry that a launch or range packet has (R317, R324, R328, R330). -/
structure LaunchRec where
  desc : Launch
  /-- workgroups not yet placed, in order -/
  waiting : List Nat
  /-- die preference of each workgroup, when the packet has a placement map -/
  map : Option (List Byte)
  parent : Option Nat
  /-- graph, phase and job entities -/
  above : List Nat
  /-- place in the partition's queue list it was popped from -/
  queue : Nat
  signal : DWord
  /-- a workgroup of it was killed: it ends with STATUS 2 (R372) -/
  killed : Bool
  /-- sum of RDONE reports -/
  done : Nat
  /-- the pieces of R330, by WGIX; a placed workgroup's is empty here -/
  pieces : List (DWord × DWord)
  /-- intervals that RSPLIT made available (R225) -/
  spare : List (DWord × DWord)
  /-- TIME of the pop, and the clusters the partition owned then (R288) -/
  popped : DWord
  owned : BitVec 144
  deriving DecidableEq, Repr

/-- A live entry of the completion table (R324). -/
structure Entity where
  part : Nat
  level : Level
  id : Word
  /-- JOB of the packet that opened it -/
  job : Word
  counter : DWord
  /-- what CNT.ADD has contributed to the counter (R226) -/
  added : Int
  cancelled : Bool
  launch : Option LaunchRec
  deriving DecidableEq, Repr

def Entity.blank : Entity :=
  { part := 0, level := .launch, id := 0#32, job := 0#32, counter := 0#64, added := 0, cancelled := false, launch := none }

/-- A cancel token (R327): level and id, the WRITE of every queue when it was recorded. -/
structure CancelToken where
  level : Nat
  id : Word
  writes : List DWord
  deriving DecidableEq, Repr

/-- What the queue monitor keeps of one queue of a partition's list (R320, R323). -/
structure QueueState where
  /-- its turn has begun: 16 × WEIGHT has been added (R322) -/
  inTurn : Bool
  /-- a signal packet holds it: the virtual address and the value, LAUNCH being 0 -/
  held : Option (DWord × DWord)
  /-- launch entities popped earlier from it and not ended -/
  live : List Nat
  /-- vector 2 has been raised for a descriptor that does not translate, and it is not served until the next retry -/
  blind : Bool
  deriving DecidableEq, Repr

def QueueState.blank : QueueState := { inTurn := false, held := none, live := [], blind := false }

/-! ### Timetable and switches -/

/-- A timetable entry (R349). -/
structure TEntry where
  start : DWord
  job : Word
  seq : Word
  len : Word
  part : Nat
  urgent : Bool
  inc : Nat
  deriving DecidableEq, Repr

/-- A verified timetable page: its physical address and its entries (R348). -/
structure TPage where
  pa : Nat
  entries : List TEntry
  deriving DecidableEq, Repr

/-- The entry in force of a partition (R349, R351): whether its slot has ended, and whether its record is closed. -/
structure InForce where
  entry : TEntry
  ended : Bool
  closed : Bool
  deriving DecidableEq, Repr

/-- A switch of a partition under way (R352). -/
structure SwitchRun where
  entry : TEntry
  /-- TIME at which the sequence began -/
  start : DWord
  /-- a usage record is to be closed when the last save has been written, and the entry of its slot -/
  record : Bool
  prev : Option TEntry
  /-- SLOT of the outgoing contexts -/
  seq : Word
  deriving DecidableEq, Repr

/-- A saved context (R364, R386): what the image of its slot holds beside its teams, workgroups, registers and foals, which
stay in the state's own stores under the virtual core of the slot, where RCTX and kills reach them. -/
structure Image where
  job : Word
  inc : Nat
  /-- directory STATE: 1 being written, 2 saved, 3 being read -/
  state : Nat
  /-- physical core at the halt -/
  core : Nat
  cgen : Word
  /-- START of the halt -/
  start : DWord
  /-- SEQ and TIME at the halt -/
  slotSeq : Word
  halted : DWord
  /-- workgroups, by slot -/
  wgs : List Nat
  overrun : Nat
  /-- saved under R373 -/
  out : Bool
  deriving DecidableEq, Repr

/-- An arrival pen (R361, R362): its directory entry, the numbers of its blocks in order, and its packets in arrival order. -/
structure Pen where
  job : Word
  inc : Nat
  entry : Nat
  blocks : List Nat
  packets : List Frame
  deriving DecidableEq, Repr

/-- A partition's usage chain (R402, R403). -/
structure Usage where
  seq : Nat
  tend : DWord
  /-- SHA3-512 of the previous record and its signature -/
  prev : List Byte
  /-- energy not yet a whole mJ, in 2^-20 nJ, and the bytes of selectors 5 and 6 charged so far (R400) -/
  charge : Nat
  hbm : Nat
  fabric : Nat
  deriving DecidableEq, Repr

/-- A partition's entry in the package (R236, R384). -/
structure Partition where
  /-- PCFG.DET as written; the mode of a live partition was taken at PART.CREATE -/
  det : Bool
  live : Bool
  creating : Bool
  destroying : Bool
  fsrv : Nat
  s1root : Nat
  s2root : Nat
  clusters : BitVec 144
  pchan : BitVec 768
  ceng : BitVec 48
  ports : BitVec 24
  ctent : Nat
  penbase : Nat
  penbytes : Nat
  ctxbase : Nat
  ctxbytes : Nat
  /-- queue list: virtual addresses -/
  queues : List DWord
  qstate : Store QueueState
  ulogn : Nat
  ulogbase : Nat
  gtbase : Nat
  gtcount : Nat
  meters : Store DWord
  usage : Usage
  /-- last sequence armed (R244) -/
  armed : Option Word
  force : Option InForce
  switch : Option SwitchRun
  /-- TIME at which the last switch finished step 6 -/
  switched : DWord
  images : Store Image
  pens : List Pen
  /-- collectives issued on each group, by GROUP number (R218) -/
  colls : Store Nat
  /-- members of the ring of the latest of them (R218) -/
  rings : Store (List Nat)
  tokens : List CancelToken
  /-- jobs and incarnations whose injection is stopped (R360) -/
  stops : List (Word × Nat)
  deriving DecidableEq, Repr

def Partition.blank : Partition :=
  { det := false, live := false, creating := false, destroying := false, fsrv := 0, s1root := 0, s2root := 0,
    clusters := 0#144, pchan := 0#768, ceng := 0#48, ports := 0#24, ctent := 0, penbase := 0, penbytes := 0, ctxbase := 0,
    ctxbytes := 0, queues := [], qstate := [], ulogn := 0, ulogbase := 0, gtbase := 0, gtcount := 0, meters := [],
    usage := ⟨0, 0#64, [], 0, 0, 0⟩, armed := none, force := none, switch := none, switched := 0#64, images := [], pens := [], colls := [], rings := [],
    tokens := [], stops := [] }

/-! ### Time and the election -/

/-- The PTP clock of the package (R344): whether it has locked since the cold start, holds a valid parent, and the offset
still to be slewed. -/
structure Clock where
  locked : Bool
  holdover : Bool
  parent : Option Nat
  offset : Int
  deriving DecidableEq, Repr

/-- What a PTP port keeps (R345): mean link delay in ns, the last Pdelay_Req's sequence and egress time, the peer's
receipt and transmit times while a follow-up is awaited, and the settings in use since its last message interval. -/
structure PtpPort where
  delay : Int
  reqSeq : Nat
  reqSent : Nat
  pending : Option PtpMsg
  domain : Nat
  oneStep : Bool
  on : Bool
  /-- k of a Sync, and of a Pdelay_Req, every 2^-k s -/
  sync : Nat
  pdelay : Nat
  /-- TIME of its last message intervals -/
  syncAt : DWord
  reqAt : DWord
  /-- the sequence number of its next Sync -/
  syncSeq : Nat
  deriving DecidableEq, Repr

def PtpPort.blank : PtpPort :=
  { delay := 0, reqSeq := 0, reqSent := 0, pending := none, domain := 0, oneStep := false, on := false,
    sync := 0, pdelay := 0, syncAt := 0#64, reqAt := 0#64, syncSeq := 0 }

/-- The election (R347): the pod's configured packages, those marked as candidates, the highest EPOCH known and the
package known to have won it, the highest EPOCH this package has voted for, the votes it holds as a candidate, the
candidates' last heartbeats with the TIME of each, and the TIME of this package's own. -/
structure Election where
  pod : List Nat
  candidates : List Nat
  epoch : Nat
  winner : Option Nat
  voted : Nat
  votes : List Nat
  voteEpoch : Nat
  heard : List (Nat × DWord)
  beat : Option DWord
  deriving DecidableEq, Repr

/-! ### Fabric, host link, security, start-up -/

/-- A fabric port (R414, R415, R419): EN, PTPEN and the PTP fields of PORTCFG as written, LINKUP, RETRYING, ASYM, the link
sequence numbers, the unacknowledged frames oldest first, how often each of them has been sent again, and the TIME since which the
sender has waited for a LACK. -/
structure Port where
  cfg : BitVec 18
  linkup : Bool
  retrying : Bool
  asym : DWord
  nextOut : BitVec 16
  nextIn : BitVec 16
  buffer : List Frame
  resent : List Nat
  since : DWord
  deriving DecidableEq, Repr

def Port.blank : Port :=
  { cfg := 0#18, linkup := false, retrying := false, asym := 0#64, nextOut := 0#16, nextIn := 0#16, buffer := [],
    resent := [], since := 0#64 }

/-- An acknowledgement or notice that could not be sent, or that a full pen refused and that is sent again 10 µs later (R361):
the TIME from which it may go, and whether the injection stop of its job holds it back (R360). -/
structure Resend where
  due : DWord
  held : Bool
  part : Nat
  job : Word
  frame : Frame
  deriving DecidableEq, Repr

/-- An attestation window (R407). -/
structure Window where
  nonce : BitVec 512
  buf : DWord
  stat : Nat
  /-- NONCE and BUF as the request in progress took them -/
  taken : BitVec 512
  deriving DecidableEq, Repr

def Window.blank : Window := ⟨0#512, 0#64, 0, 0#512⟩

/-- An MSI-X vector (R413): its address, data, mask bit and pending bit. -/
structure Vector where
  addr : DWord
  data : Word
  masked : Bool
  pending : Bool
  deriving DecidableEq, Repr

def Vector.blank : Vector := ⟨0#64, 0#32, true, false⟩

/-- A saved HBM4 training set (R405, R420): the package it was made on, its bytes and the signature over their digest. -/
structure Training where
  pkg : Nat
  body : List Byte
  sign : List Byte
  deriving DecidableEq, Repr

/-- STARTSTAT and the start sequencer (R420-R422). -/
structure Start where
  kind : Nat
  step : Nat
  ready : Bool
  hold : Bool
  fails : Nat
  warmok : Bool
  cause : Nat
  /-- a start is running -/
  busy : Bool
  /-- the training set for the configuration record that the flash holds -/
  trained : Option Training
  /-- TIMESEED has been written during this start: its value and TIME at the write -/
  seed : Option (DWord × DWord)
  deriving DecidableEq, Repr

/-- A trap record that waits to be sent (R266, R370, R371): the partition whose FSRV decides, its handle, and its 128 or
256 bytes. -/
structure TrapMsg where
  part : Nat
  handle : DWord
  bytes : List Byte
  deriving DecidableEq, Repr

/-- What the package sends out or reports. -/
inductive Msg where
  /-- completion of a host request: link, function, status (0 success, 1 Unsupported Request, 2 Completer Abort,
  3 Request Retry Status) and data -/
  | host (link fn status : Nat) (data : List Byte)
  | msix (fn vec : Nat) (addr : DWord) (data : Word)
  | frame (port : Nat) (f : Frame)
  /-- a link acknowledgement sent at once: LACK -/
  | lack (port : Nat) (lack : BitVec 16)
  | ptp (port : Nat) (kind : Nat) (m : PtpMsg)
  | heartbeat (epoch : Nat) (won : Option Nat)
  | voteRequest (epoch : Nat)
  | vote (epoch cand : Nat)
  /-- a published timetable page -/
  | page (bytes : List Byte)
  /-- a logged event: 1 a job packet of a partition that is not present, 2 a frame whose header is broken, 3 a job packet on
  a port its partition does not own, 4 a frame dropped at HOPS 7 or for want of a port, 5 a rejected timetable page, 6 an L2
  or data error, 7 a VF request that does not translate, 8 an HBM4 error, 9 a fault record that cannot be sent, 10 a queue descriptor that does
  not translate -/
  | log (what : Nat) (detail : Nat)
  deriving DecidableEq, Repr

end Sys2Proof.Machine
end

