-- ==== Sys2Proof/Machine/State.lean ====
section
/-! DEFINITION. The state of one Tvedtan package, as plain data, and its state at power-on. Every sparse field is a
`Store`; what an unlisted key reads as is said beside it. -/

namespace Sys2Proof.Machine

/-- Faults: stops of the machine. -/
inductive Fault where
  /-- raised by every instruction's meaning when the hart that is to issue is neither a control-core thread nor a team:
  no agent exists to run it. Safe: such a state has no counterpart in the manual. -/
  | noHart
  deriving DecidableEq, Repr

/-- Refusals. -/
inductive Refusal where
  /-- raised by exec for an instruction that has no meaning here yet. Safe. -/
  | notModelled (mnemonic : String)
  deriving DecidableEq, Repr

/-- The package. -/
structure State where
  agenda : List Input
  cur : Nat
  nextId : Nat
  /-- index of the next free value -/
  freeCtr : Nat
  /-- moments: counts home writes, fills and uses -/
  now : Nat
  ctxs : Store Ctx
  teams : Store Team
  threads : Store Thread
  /-- v[r] of hart h at h * 128 + r; an unlisted one is 0 -/
  vregs : Store VecReg
  wgs : Store Workgroup
  /-- scratchpad byte o of workgroup g at g * 2^20 + o; an unlisted one is 0 -/
  sp : Store Byte
  /-- slot n of core c's foal table at c * 256 + n -/
  foals : Store Foal
  foalGens : Store (BitVec 12)
  /-- HBM4: physical byte addresses; unlisted bytes read 0 (log 3) -/
  mem : List Host.Cell
  /-- HBM4 blocks, pa / 64, that are poisoned (R423) -/
  poison : Store Bool
  /-- way w of set n of slice k at k * 2^14 + n * 16 + w -/
  l2 : Store L2Line
  /-- fill mask of owner p in slice k at p * 1024 + k (R377, R397) -/
  ways : Store (BitVec 16)
  /-- L1 line l of core c at c * 2^45 + l -/
  l1 : Store L1Line
  tlb : List TlbEntry
  fills : List Fill
  invals : List Inval
  /-- per die: requests whose unapplied writes a load of the die has returned (R302) -/
  dieSeen : Store (List Nat)
  /-- bytes as they stood before a running launch's first write to them, for its own clause fetches (R25): byte pa of
  entity e at e * 2^52 + pa; the value plus 1 -/
  oldCode : Store Nat
  /-- partitions 1-63 -/
  parts : Store Partition
  cores : Store Core
  clusters : Store Cluster
  /-- cores, each with an address of scratchpad in which its SRAM has an uncorrectable error that the next step of the core's
  matrix engine finds (R196) -/
  sramErrs : List (Nat × Nat)
  control : Controller
  /-- the completion table, by entry number -/
  entities : Store Entity
  /-- place in the queue list whose turn it is among the queues of PRIO p of partition n, at n * 8 + p (R322) -/
  qturn : Store Nat
  pages : List TPage
  /-- armed entries by arm index (R244) -/
  arms : Store TEntry
  time : DWord
  clock : Clock
  ptp : Store PtpPort
  election : Election
  ports : Store Port
  /-- acknowledgements and notices to send again (R361), and frames of classes 4 and 5 that no port takes (R419) -/
  resends : List Resend
  stuck : List Frame
  routes : Store (BitVec 16)
  /-- TIMESEED (R414) -/
  timeseed : DWord
  windows : Store Window
  /-- vector v of function f at f * 2048 + v -/
  vectors : Store Vector
  start : Start
  /-- compute dies powered (R411); throttled by supply or coolant conditions -/
  powered : Bool
  limited : Bool
  /-- TQBASE, TQHEAD, TQTAIL, TQSIZE, PARKTH (R234) -/
  tqbase : DWord
  tqhead : DWord
  tqtail : DWord
  tqsize : DWord
  parkth : DWord
  /-- trap records not yet sent, oldest first, and handles queued here (R371, R419) -/
  records : List TrapMsg
  queued : List DWord
  /-- PKG (R66) and the serial number of the last trap handle (R241) -/
  pkg : Nat
  serial : Word
  /-- what the package has sent or logged, newest first -/
  msgs : List Msg
  deriving DecidableEq, Repr

/-- Power-on, before its cold start has taken its first step. -/
def State.reset : State :=
  { agenda := [], cur := 0, nextId := 16, freeCtr := 0, now := 0, ctxs := [], teams := [], threads := [], vregs := [],
    wgs := [], sp := [], foals := [], foalGens := [], mem := [], poison := [], l2 := [], ways := [], l1 := [],
    tlb := [], fills := [], invals := [], dieSeen := [], oldCode := [], parts := [], cores := [], clusters := [],
    sramErrs := [], control := ⟨16, [], 0, false, 0#64⟩, entities := [], qturn := [], pages := [], arms := [], time := 0#64,
    clock := ⟨false, true, none, 0⟩, ptp := [],
    election := ⟨[], [], 0, none, 0, [], 0, [], none⟩, ports := [], resends := [], stuck := [], routes := [],
    timeseed := 0#64, windows := [], vectors := [], start := ⟨0, 0, false, false, 0, false, 0, false, none, none⟩,
    powered := true, limited := false, tqbase := 0#64, tqhead := 0#64, tqtail := 0#64, tqsize := 64#64, parkth := 50#64,
    records := [], queued := [], pkg := 0, serial := 0#32, msgs := [] }

end Sys2Proof.Machine
end

