-- ==== Sys2Proof/Machine/Ops.lean ====
section
/-! DEFINITION. The shared operations: reading and writing the state's parts, taking a trap or an exception and coming back,
moving past an instruction, parking. -/

namespace Sys2Proof.Machine

/-- The answer of a meaning. -/
abbrev Out := Host.Outcome State Fault Refusal

/-! ### Parts of the state -/

def State.ctx (s : State) (h : Nat) : Ctx := Store.get Ctx.blank s.ctxs h
def State.team (s : State) (h : Nat) : Team := Store.get Team.blank s.teams h
def State.thread (s : State) (h : Nat) : Thread := Store.get Thread.blank s.threads h
def State.wg (s : State) (g : Nat) : Workgroup := Store.get Workgroup.blank s.wgs g

def State.setCtx (s : State) (h : Nat) (c : Ctx) : State := { s with ctxs := Store.set Ctx.blank s.ctxs h c }
def State.setTeam (s : State) (h : Nat) (t : Team) : State := { s with teams := Store.set Team.blank s.teams h t }
def State.setThread (s : State) (h : Nat) (t : Thread) : State :=
  { s with threads := Store.set Thread.blank s.threads h t }
def State.setWg (s : State) (g : Nat) (w : Workgroup) : State := { s with wgs := Store.set Workgroup.blank s.wgs g w }

/-- The workgroup of a team. -/
def State.wgOf (s : State) (h : Nat) : Workgroup := s.wg (s.team h).wg
/-- The core a team is resident on. -/
def State.coreOf (s : State) (h : Nat) : Nat := (s.wgOf h).core
/-- Die of a physical core: 192 cores a die (R2, R51). -/
def dieOfCore (c : Nat) : Nat := c / 192
/-- Deterministic mode of a team's partition (R66). -/
def State.det (s : State) (h : Nat) : Bool := (s.wgOf h).launch.det

/-- s[r] of a hart (R58). -/
def State.sreg (s : State) (h : Nat) (r : SReg) : DWord := Store.get 0#64 (s.ctx h).sregs r.toNat
/-- s[r] := v. -/
def State.setSreg (s : State) (h : Nat) (r : SReg) (v : DWord) : State :=
  s.setCtx h { s.ctx h with sregs := Store.set 0#64 (s.ctx h).sregs r.toNat v }
def State.setScc (s : State) (h : Nat) (b : Bool) : State := s.setCtx h { s.ctx h with scc := b }

/-- v[r] of a team, whole. -/
def State.vreg (s : State) (h r : Nat) : VecReg := Store.get 0#32768 s.vregs (h * 128 + r)
def State.setVreg (s : State) (h r : Nat) (v : VecReg) : State :=
  { s with vregs := Store.set 0#32768 s.vregs (h * 128 + r) v }

/-- Lane i of a vector register. -/
def VecReg.lane (v : VecReg) (i : Nat) : Word := v.extractLsb' (32 * i) 32
/-- Writes one lane. -/
def VecReg.setLane (v : VecReg) (i : Nat) (x : Word) : VecReg :=
  (v &&& ~~~((0xFFFFFFFF#32768) <<< (32 * i))) ||| ((x.setWidth 32768) <<< (32 * i))
/-- Writes the listed lanes. -/
def VecReg.setLanes (v : VecReg) (ls : List Nat) (f : Nat → Word) : VecReg :=
  ls.foldl (fun v i => VecReg.setLane v i (f i)) v

def State.part (s : State) (p : Nat) : Partition := Store.get Partition.blank s.parts p
def State.setPart (s : State) (p : Nat) (x : Partition) : State := { s with parts := Store.set Partition.blank s.parts p x }

/-- A partition's meter rises, saturating at 2^64 - 1 (R400, R401); 0, the system owner, has none. -/
def State.meterAdd (s : State) (p sel n : Nat) : State :=
  if p == 0 then s
  else
    let x := s.part p
    let v := (Store.get 0#64 x.meters sel).toNat + n
    s.setPart p { x with meters := Store.set 0#64 x.meters sel (BitVec.ofNat 64 (if v < 2 ^ 64 then v else 2 ^ 64 - 1)) }

/-! ### Masks -/

/-- The lanes a mask names among those of a team of width w, in increasing order. -/
def lanesOf (m : Mask) (w : Nat) : List Nat := (List.range w).filter fun i => m.getLsbD i
/-- The active lanes (R55). -/
def Team.active (t : Team) : List Nat := lanesOf t.exec t.width
/-- Ones at the lanes below w. -/
def maskBelow (w : Nat) : Mask := BitVec.ofNat 1024 (2 ^ w - 1)
/-- A mask with the listed lanes. -/
def maskOf (ls : List Nat) : Mask := ls.foldl (fun m i => m ||| (1#1024 <<< i)) 0#1024
/-- Every write of EXEC: words at or above W/32 stay zero (R54). -/
def Team.setExec (t : Team) (m : Mask) : Team := { t with exec := m &&& maskBelow t.width }
/-- EXECSUM (R54). -/
def execSum (m : Mask) : Word :=
  BitVec.ofNat 32 ((List.range 32).foldl (fun a w => if m.extractLsb' (32 * w) 32 == 0#32 then a else a + 2 ^ w) 0)
def Team.lmk (t : Team) (k : Nat) : Mask := Store.get (BitVec.allOnes 1024) t.lm k
def Team.setLm (t : Team) (k : Nat) (m : Mask) : Team := { t with lm := Store.set (BitVec.allOnes 1024) t.lm k m }
/-- Writes only the bits of active lanes of a lane mask (R61). -/
def Team.putLm (t : Team) (k : Nat) (m : Mask) : Team := t.setLm k ((m &&& t.exec) ||| (t.lmk k &&& ~~~t.exec))

/-! ### Outstanding work -/

def ReqKind.isLoad : ReqKind → Bool
  | .load => true
  | .atom _ => true
  | .store => false
  | .red _ => false

/-- The load count (R19). -/
def Team.loads (t : Team) : Nat := (t.reqs.filter fun r => r.kind.isLoad).length
/-- The store count (R19). -/
def Team.stores (t : Team) : Nat := (t.reqs.filter fun r => !r.kind.isLoad).length
/-- Batch counter of a slot (R64, R173). -/
def Team.batch (t : Team) (k : Nat) : Nat := (t.copies.filter fun c => c.slot == k).length

/-- A foal that has not ended (R251, R254). -/
def Foal.live (f : Foal) : Bool := f.status == .running || f.status == .frozen

/-- The foals of a team. -/
def State.foalsOf (s : State) (h : Nat) : List (Nat × Foal) := s.foals.filter fun e => e.2.team == h

/-- Whether a register-destination foal of the team is outstanding (R13, R22). -/
def State.regFoal (s : State) (h : Nat) : Bool := (s.foalsOf h).any fun e => e.2.live && e.2.regdest

/-- Registers held by outstanding register-destination foals of a team (R24). -/
def State.isHeld (s : State) (h r : Nat) : Bool :=
  (s.foalsOf h).any fun e => e.2.live && match e.2.job with
    | .mma j => decide (j.d ≤ r ∧ r < j.d + 32)
    | .tmma _ => false
    | .copy _ => false
    | .batch _ => false
    | .coll _ => false

/-- R22: load count 0, store count 0, no register-destination foal outstanding. -/
def State.markerClear (s : State) (h : Nat) : Bool :=
  (s.team h).loads == 0 && (s.team h).stores == 0 && !s.regFoal h

/-! ### Traps and exceptions -/

/-- Trap numbers (R368). -/
def TrapCode.num : TrapCode → Nat
  | .illegalOpcode => 0x01 | .illegalClause => 0x02 | .illegalOperand => 0x03 | .priv => 0x04 | .mstkOver => 0x05
  | .mstkRefill => 0x06 | .mstkUnder => 0x07 | .partialMask => 0x08 | .notProducer => 0x09 | .detachReg => 0x0A
  | .memFault => 0x0B | .align => 0x0C | .perm => 0x0D | .detViolation => 0x0E | .watchdog => 0x0F | .timer => 0x10
  | .brk => 0x11 | .swtrap => 0x12 | .foalFault => 0x13 | .memPoison => 0x14 | .killContext => 0x15

/-- The words of the instruction at a hart's word index (R370, INSTR): the first word and, where it owns one, the next. -/
def Ctx.instrWords (c : Ctx) (len : Nat) : DWord :=
  match c.clause with
  | none => 0#64
  | some cl =>
    let w := (cl.words.drop c.widx).take len
    (w[1]?.getD 0#32) ++ (w[0]?.getD 0#32)

/-- The exception of R231, in one step: EPC, EIDX, ECAUSE, EVAL, PLEV, PIE and IE are written, LEVEL stays, and the
thread goes to EVEC, word 0. -/
def State.exception (s : State) (h : Nat) (cause : Nat) (val : DWord) : State :=
  let c := s.ctx h
  let t := s.thread h
  (s.setThread h { t with epc := c.pc, eidx := BitVec.ofNat 4 c.widx, ecause := BitVec.ofNat 64 cause, eval := val,
                          plev := t.level, pie := t.ie, ie := false, bytes := [] }).setCtx h
    { c with pc := t.evec, widx := 0, clause := none, status := .ready }

/-- A team's trap (R53, R241, R370): it stops, and its fault record waits to be sent. A trap of a boundary or of a fetch
comes before the instruction, which keeps the lanes a RETRY left it (R158). -/
def State.teamTrap (s : State) (h : Nat) (r : TrapRec) : State :=
  let ser := s.serial + 1
  let hd : DWord := BitVec.ofNat 64 (ser.toNat + 2 ^ 32 * s.pkg)
  let s := { s with serial := ser }
  (s.setTeam h { s.team h with trap := some { r with handle := some hd, time := s.time, under := (s.team h).retry },
                               flane := r.lanes,
                               retry := if r.len == 0 then (s.team h).retry else none,
                               stalled := none, walked := [], unsent := true }).setCtx h { s.ctx h with status := .trapped }

/-- A precise trap of the instruction that is issuing, of `len` words, with the address field and the faulted lanes of
its record. A control-core thread takes it as an exception. -/
def State.raiseAt (s : State) (h : Nat) (code : TrapCode) (len : Nat) (addr : DWord) (lanes : Mask) (spaddr : Bool) : State :=
  let c := s.ctx h
  match c.kind with
  | .team => s.teamTrap h
      { code := code, pc := c.pc, widx := c.widx, addr := addr, lanes := lanes, instr := c.instrWords len, spaddr := spaddr,
        replay := false, out := false, handle := none, time := 0#64, resumePark := none, len := len, logged := false, under := none }
  | .thread => s.exception h code.num addr
  | .absent => s

/-- A precise trap with no address. -/
def State.raise (s : State) (h : Nat) (code : TrapCode) (len : Nat) : State := s.raiseAt h code len 0#64 0#1024 false

/-- R232: ERET's effect once its checks have passed: LEVEL and IE come back from PLEV and PIE, and the thread continues at
EPC, word EIDX. -/
def State.exceptionReturn (s : State) (h : Nat) : State :=
  let t := s.thread h
  (s.setThread h { t with level := t.plev, ie := t.pie }).setCtx h
    { s.ctx h with pc := t.epc, widx := t.eidx.toNat, clause := none, status := .ready }

/-! ### Moving on -/

/-- Moves a hart past `n` words; at the end of its clause it stands at the next header (R12, R17). -/
def Ctx.past (c : Ctx) (n : Nat) : Ctx :=
  let cnt := match c.clause with
    | some cl => cl.words.length
    | none => 0
  if c.widx + n ≥ cnt then { c with pc := c.pc + BitVec.ofNat 64 (4 * (1 + cnt)), widx := 0, clause := none }
  else { c with widx := c.widx + n }

/-- Address of the next clause (R18). -/
def Ctx.nextClause (c : Ctx) : Addr :=
  match c.clause with
  | some cl => c.pc + BitVec.ofNat 64 (4 * (1 + cl.words.length))
  | none => c.pc + 4#64

/-- Parks a hart where it stands. -/
def State.park (s : State) (h : Nat) (w : Wait) : State := s.setCtx h { s.ctx h with status := .parked w }

/-- The switch marker: after an instruction with S = 1 the team parks until R22's conditions hold. -/
def State.marked (s : State) (h : Nat) (sw : Bool) : State :=
  if sw && !s.markerClear h then s.park h .marker else s

/-- A team's own record once it has issued: the replayed lane mask is used up (R158), it waits for no room and its walks are
used (R395), its waiting clocks restart (R283, R332), and the clock it gave way for is over (R118). -/
def Team.moved (t : Team) : Team := { t with retry := none, stalled := none, walked := [], waited := 0, withheld := false, yielded := false }

/-- That record for a hart; a control-core thread has none. -/
def State.issued (s : State) (h : Nat) : State :=
  match (s.ctx h).kind with
  | .team => s.setTeam h (s.team h).moved
  | .thread => s
  | .absent => s

/-- An instruction of `n` words has executed: the hart moves past it, and parks at its marker. -/
def State.done (s : State) (h n : Nat) (sw : Bool) : State :=
  let s := s.issued h
  (s.setCtx h ((s.ctx h).past n)).marked h sw

/-- A taken control transfer. -/
def State.jump (s : State) (h : Nat) (target : Addr) (sw : Bool) : State :=
  let s := s.issued h
  (s.setCtx h { s.ctx h with pc := target, widx := 0, clause := none }).marked h sw

/-- The watchdog counter is loaded afresh (R375). -/
def State.watch (s : State) (h : Nat) : State :=
  s.setTeam h { s.team h with wdleft := 2 ^ (s.wgOf h).launch.wdlim }

/-! ### What an instruction needs before it executes -/

/-- The decode checks of one instruction (R28, third and fourth), and its registers. -/
structure Need where
  /-- its number of words -/
  len : Nat
  /-- no form of the supervisor profile (R228): ILLEGAL_OPCODE on a control core -/
  teamOnly : Bool
  /-- 0 user, 1 supervisor, 2 hypervisor (R42) -/
  level : Nat
  /-- its operand values are legal (R30, R32, R36, R37, R39) -/
  legal : Bool
  /-- vector registers it names, pairs and fixed groups in full (R33) -/
  regs : List Nat
  /-- it parks while one of them is held (R24) -/
  hold : Bool
  deriving DecidableEq, Repr

/-- Runs the decode checks and the held-register park, then the instruction. -/
def begin (n : Need) (s : State) (k : Nat → Out) : Out :=
  let h := s.cur
  match (s.ctx h).kind with
  | .absent => .fault .noHart
  | .thread =>
    if n.teamOnly then .next (s.raise h .illegalOpcode n.len)
    else if (s.thread h).level.toNat < n.level then .next (s.raise h .priv n.len)
    else if !n.legal then .next (s.raise h .illegalOperand n.len)
    else k h
  | .team =>
    if 0 < n.level then .next (s.raise h .priv n.len)
    else if !n.legal || n.regs.any (fun r => (s.team h).vregs ≤ r) then .next (s.raise h .illegalOperand n.len)
    else if n.hold && n.regs.any (fun r => s.isHeld h r) then .next (s.park h (.held n.regs))
    else k h

end Sys2Proof.Machine
end

