-- ==== Sys2Proof/Machine/Operands.lean ====
section
/-! DEFINITION. Every operand form: the src8 operand in scalar and vector instructions (R30-R33) and the mask select
(R39). -/

namespace Sys2Proof.Machine

/-- Words of an instruction whose last operand is `a`: its literal follows it (R15). -/
def Src.len (a : Src) : Nat := 1 + a.ext.length

/-- src8 is legal in a vector instruction (R30). -/
def Src.vecOk : Src → Bool
  | .res _ => false
  | .v _ => true
  | .s _ => true
  | .int _ => true
  | .fpc _ => true
  | .laneix => true
  | .lit _ => true

/-- src8 is legal in a scalar instruction (R32). -/
def Src.scalOk : Src → Bool
  | .s _ => true
  | .int _ => true
  | .lit _ => true
  | .v _ => false
  | .fpc _ => false
  | .laneix => false
  | .res _ => false

/-- src8 names a vector register: SRDLN, SWRLN (R123). -/
def Src.isVec : Src → Bool
  | .v _ => true
  | .s _ => false
  | .int _ => false
  | .lit _ => false
  | .fpc _ => false
  | .laneix => false
  | .res _ => false

/-- The vector register src8 names. -/
def Src.regs : Src → List Nat
  | .v n => [n.toNat]
  | .s _ => []
  | .int _ => []
  | .lit _ => []
  | .fpc _ => []
  | .laneix => []
  | .res _ => []

/-- The 64-bit value of a scalar operand (R32). -/
def Src.scalar (s : State) (h : Nat) : Src → DWord
  | .s n => s.sreg h n
  | .int n => n.signExtend 64
  | .lit w => w.signExtend 64
  | .v _ => 0#64
  | .fpc _ => 0#64
  | .laneix => 0#64
  | .res _ => 0#64

/-- Element type of an instruction, for its FP constants (R31). -/
inductive Elem where
  | f32 | f16 | bf16 | f8e4 | f8e5
  deriving DecidableEq, Repr

/-- The table of R31: constants 0.5, 1, 2, 4 and their negatives, replicated into every element of the word. -/
def fpConst (e : Elem) (n : BitVec 3) : Word :=
  let k := n.toNat % 4
  let g := n.toNat / 4
  match e with
  | .f32 => BitVec.ofNat 32 ([0x3F000000, 0x3F800000, 0x40000000, 0x40800000][k]! + g * 0x80000000)
  | .f16 => BitVec.ofNat 32 (([0x3800, 0x3C00, 0x4000, 0x4400][k]! + g * 0x8000) * 0x10001)
  | .bf16 => BitVec.ofNat 32 (([0x3F00, 0x3F80, 0x4000, 0x4080][k]! + g * 0x8000) * 0x10001)
  | .f8e4 => BitVec.ofNat 32 (([0x30, 0x38, 0x40, 0x48][k]! + g * 0x80) * 0x01010101)
  | .f8e5 => BitVec.ofNat 32 (([0x38, 0x3C, 0x40, 0x44][k]! + g * 0x80) * 0x01010101)

/-- The 32-bit operand word src8 supplies to lane i (R31). -/
def Src.lane (s : State) (h : Nat) (e : Elem) (i : Nat) : Src → Word
  | .v n => (s.vreg h n.toNat).lane i
  | .s n => (s.sreg h n).setWidth 32
  | .int n => n.signExtend 32
  | .lit w => w
  | .fpc n => fpConst e n
  | .laneix => BitVec.ofNat 32 i
  | .res _ => 0#32

/-- A mask select is lm0-lm7 or EXEC (R39, R107). -/
def maskSelOk (m : BitVec 4) : Bool := m.toNat ≤ 8

/-- The selected mask. -/
def Team.mask (t : Team) (m : BitVec 4) : Mask := if m.toNat < 8 then t.lmk m.toNat else t.exec

/-- Writes the selected mask. -/
def Team.setMask (t : Team) (m : BitVec 4) (v : Mask) : Team :=
  if m.toNat < 8 then t.setLm m.toNat v else t.setExec v

/-- What a scalar instruction with operand `a` needs; it runs on control cores too. -/
def needS (a : Src) : Need :=
  { len := Src.len a, teamOnly := false, level := 0, legal := Src.scalOk a, regs := [], hold := true }

/-- What a one-word scalar instruction without src8 needs. -/
def need1 : Need := { len := 1, teamOnly := false, level := 0, legal := true, regs := [], hold := true }

/-- What a one-word instruction of a team needs. -/
def needT (legal : Bool) (regs : List Nat) : Need :=
  { len := 1, teamOnly := true, level := 0, legal := legal, regs := regs, hold := true }

/-- What a vector instruction with operand `a` and registers `regs` needs. -/
def needV (regs : List Nat) (a : Src) : Need :=
  { len := Src.len a, teamOnly := true, level := 0, legal := Src.vecOk a, regs := regs ++ Src.regs a, hold := true }

end Sys2Proof.Machine
end

