-- ==== Sys2Proof/Machine/Control.lean ====
section
/-! DEFINITION. Control, mask, placement, barrier and idle instructions (R104-R118), EXIT apart. -/

namespace Sys2Proof.Machine

/-! ### Branches, calls and jumps -/

/-- Target of a C-format branch: the word after the branch plus 4 × offset (R18). -/
def branchTarget (c : Ctx) (o : BitVec 22) : Addr := c.nextClause + ((o.signExtend 64) <<< 2)

/-- A conditional branch: taken to its target, or falls through (R17, R105). -/
def branchIf (teamOnly : Bool) (cond : State → Nat → Bool) (sw : Bool) (o : BitVec 22) (s : State) : Out :=
  begin { need1 with teamOnly := teamOnly } s fun h =>
    .next (if cond s h then s.jump h (branchTarget (s.ctx h) o) sw else s.done h 1 sw)

def execBr (sw : Bool) (o : BitVec 22) (s : State) : Out := branchIf false (fun _ _ => true) sw o s
def execBrS1 (sw : Bool) (o : BitVec 22) (s : State) : Out := branchIf false (fun s h => (s.ctx h).scc) sw o s
def execBrS0 (sw : Bool) (o : BitVec 22) (s : State) : Out := branchIf false (fun s h => !(s.ctx h).scc) sw o s
def execBrEz (sw : Bool) (o : BitVec 22) (s : State) : Out :=
  branchIf true (fun s h => execSum (s.team h).exec == 0#32) sw o s

def execCall (sw : Bool) (o : BitVec 22) (s : State) : Out :=
  begin need1 s fun h =>
    .next ((s.setSreg h 63#6 (s.ctx h).nextClause).jump h (branchTarget (s.ctx h) o) sw)

def execJmp (sw : Bool) (a : Src) (s : State) : Out :=
  begin (needS a) s fun h => .next (s.jump h (Src.scalar s h a) sw)

/-- A control transfer with a literal is last in its clause with it, so the next clause follows the clause as a whole. -/
def execJmpl (sw : Bool) (a : Src) (s : State) : Out :=
  begin (needS a) s fun h =>
    .next ((s.setSreg h 63#6 (s.ctx h).nextClause).jump h (Src.scalar s h a) sw)

def execRet (sw : Bool) (s : State) : Out := begin need1 s fun h => .next (s.jump h (s.sreg h 63#6) sw)

/-! ### The mask stack -/

/-- Mask-stack entry r. -/
def Team.entry (t : Team) (r : Nat) : Mask := Store.get 0#1024 t.mstack r
def Team.setEntry (t : Team) (r : Nat) (m : Mask) : Team := { t with mstack := Store.set 0#1024 t.mstack r m }

/-- The trap of MPOP and MELSE on an empty stack (R107). -/
def Team.emptyStack (t : Team) : TrapCode := if t.spill == 0#32 then .mstkUnder else .mstkRefill

def execMpush (sw : Bool) (m : BitVec 4) (s : State) : Out :=
  begin (needT (maskSelOk m) []) s fun h =>
    let t := s.team h
    if 16 ≤ t.depth then .next (s.raise h .mstkOver 1)
    else
      let t' := { t.setEntry t.depth t.exec with depth := t.depth + 1 }
      .next ((s.setTeam h (if m.toNat == 8 then t' else t'.setExec (t.exec &&& t.mask m))).done h 1 sw)

def execMpop (sw : Bool) (s : State) : Out :=
  begin (needT true []) s fun h =>
    let t := s.team h
    if t.depth == 0 then .next (s.raise h t.emptyStack 1)
    else .next ((s.setTeam h ({ t with depth := t.depth - 1 }.setExec (t.entry (t.depth - 1)))).done h 1 sw)

def execMelse (sw : Bool) (s : State) : Out :=
  begin (needT true []) s fun h =>
    let t := s.team h
    if t.depth == 0 then .next (s.raise h t.emptyStack 1)
    else .next ((s.setTeam h (t.setExec (t.entry (t.depth - 1) &&& ~~~t.exec))).done h 1 sw)

/-- MSDEPTH (R68). -/
def Team.msdepth (t : Team) : DWord := BitVec.ofNat 64 (t.depth + 2 ^ 16 * t.spill.toNat)

def execMdepth (sw : Bool) (d : SReg) (s : State) : Out :=
  begin (needT true []) s fun h => .next ((s.setSreg h d (s.team h).msdepth).done h 1 sw)

/-! ### Masks -/

/-- An instruction that changes only the team's masks. -/
def maskOp (f : Team → Team) (sw : Bool) (m : BitVec 4) (s : State) : Out :=
  begin (needT (maskSelOk m) []) s fun h => .next ((s.setTeam h (f (s.team h))).done h 1 sw)

def execMand (sw : Bool) (m : BitVec 4) (s : State) : Out :=
  maskOp (fun t => t.setExec (t.exec &&& t.mask m)) sw m s
def execMload (sw : Bool) (m : BitVec 4) (s : State) : Out := maskOp (fun t => t.setExec (t.mask m)) sw m s
def execMsave (sw : Bool) (m : BitVec 4) (s : State) : Out := maskOp (fun t => t.setMask m t.exec) sw m s
def execMandn (sw : Bool) (m : BitVec 4) (s : State) : Out :=
  maskOp (fun t => t.setExec (t.exec &&& ~~~(t.mask m))) sw m s

/-- Pair p of a mask: bits [64 p + 63 : 64 p] (R110). -/
def maskPair (m : Mask) (p : Nat) : DWord := m.extractLsb' (64 * p) 64
/-- A mask with pair p replaced. -/
def setMaskPair (m : Mask) (p : Nat) (v : DWord) : Mask :=
  (m &&& ~~~((BitVec.ofNat 1024 (2 ^ 64 - 1)) <<< (64 * p))) ||| ((v.setWidth 1024) <<< (64 * p))

/-- An instruction that writes one scalar from a mask. -/
def maskRead (f : Team → DWord) (sw : Bool) (d : SReg) (m : BitVec 4) (s : State) : Out :=
  begin (needT (maskSelOk m) []) s fun h => .next ((s.setSreg h d (f (s.team h))).done h 1 sw)

def execMrd (sw : Bool) (d : SReg) (m p : BitVec 4) (s : State) : Out :=
  maskRead (fun t => maskPair (t.mask m) p.toNat) sw d m s

def execMwr (sw : Bool) (d : SReg) (m p : BitVec 4) (s : State) : Out :=
  begin (needT (maskSelOk m) []) s fun h =>
    let t := s.team h
    .next ((s.setTeam h (t.setMask m (setMaskPair (t.mask m) p.toNat (s.sreg h d)))).done h 1 sw)

def execMpopc (sw : Bool) (d : SReg) (m : BitVec 4) (s : State) : Out :=
  maskRead (fun t => BitVec.ofNat 64 (lanesOf (t.mask m) t.width).length) sw d m s

def execMffs (sw : Bool) (d : SReg) (m : BitVec 4) (s : State) : Out :=
  maskRead (fun t => match lanesOf (t.mask m) t.width with
    | [] => BitVec.allOnes 64
    | i :: _ => BitVec.ofNat 64 i) sw d m s

/-! ### Placement -/

/-- LPACK and LUNPACK wait for loads and register-destination foals first (R112). -/
def placeOp (f : Team → Option Mask) (sw : Bool) (s : State) : Out :=
  begin (needT true []) s fun h =>
    if (s.team h).loads != 0 || s.regFoal h then .next (s.park h (.counts .switchMarker false true))
    else .next ((s.setTeam h { s.team h with packed := f (s.team h) }).done h 1 sw)

def execLpack (sw : Bool) (s : State) : Out :=
  placeOp (fun t => if t.exec == 0#1024 then none else some t.exec) sw s
def execLunpack (sw : Bool) (s : State) : Out := placeOp (fun _ => none) sw s

/-- Physical position of lane i: the active lanes of the last LPACK first, then the others (R111). -/
def Team.position (t : Team) (i : Nat) : Nat :=
  match t.packed with
  | none => i
  | some m =>
    let before := (lanesOf m i).length
    if m.getLsbD i then before else (lanesOf m t.width).length + (i - before)

def execLperm (sw : Bool) (d : VReg) (s : State) : Out :=
  begin (needT true [d.toNat]) s fun h =>
    let t := s.team h
    .next ((s.setVreg h d.toNat ((s.vreg h d.toNat).setLanes t.active fun i => BitVec.ofNat 32 (t.position i))).done h 1 sw)

/-! ### Barriers -/

def Workgroup.barrier (g : Workgroup) (b : Nat) : Barrier := Store.get Barrier.blank g.barriers b
def Workgroup.setBarrier (g : Workgroup) (b : Nat) (x : Barrier) : Workgroup :=
  { g with barriers := Store.set Barrier.blank g.barriers b x }

/-- Teams of a workgroup that have not ended (R113). -/
def State.liveTeams (s : State) (g : Workgroup) : List Nat := g.teams.filter fun h => (s.ctx h).kind == .team

/-- Set bits of an arrived mask. -/
def arrivals (m : BitVec 16) : Nat := ((List.range 16).filter fun i => m.getLsbD i).length

/-- A team whose wait in BAR.WT or BAR.SYNC the completion ends: the instruction has executed (R114). -/
def State.leaveBarrier (s : State) (b h : Nat) : State :=
  match (s.ctx h).status with
  | .parked (.barrierPhase b' sw) =>
    if b' == b then ((s.setCtx h { s.ctx h with status := .ready }).watch h).done h 1 sw else s
  | .parked _ => s
  | .ready => s
  | .trapped => s
  | .stopped => s

/-- check_complete of R113; a released team's watchdog is reset (R114). -/
def State.barrierCheck (s : State) (g b : Nat) : State :=
  let w := s.wg g
  let x := w.barrier b
  let need := if x.expect == 0 then (s.liveTeams w).length else x.expect
  if x.arrived != 0#16 && need ≤ arrivals x.arrived then
    let s := s.setWg g (w.setBarrier b { x with phase := x.phase + 1, arrived := 0#16 })
    (s.liveTeams w).foldl (fun s h => s.leaveBarrier b h) s
  else s

/-- Arrival once the park of R113 is over: its traps, or the state with the arrival recorded. -/
def State.arrive (s : State) (h b n : Nat) : Option State :=
  let t := s.team h
  let w := s.wg t.wg
  let x := w.barrier b
  if w.launch.teams < n then none
  else if x.arrived.getLsbD t.teamix then none
  else if x.arrived != 0#16 && n != x.expect then none
  else
    let s := s.setWg t.wg (w.setBarrier b { x with expect := n, arrived := x.arrived ||| (1#16 <<< t.teamix) })
    some (s.setTeam h { t with lastPhase := Store.set 0#32 t.lastPhase b x.phase })

/-- wait(b) of R113: whether the team's last arrival is still pending. -/
def State.mustWait (s : State) (h b : Nat) : Bool :=
  let t := s.team h
  let x := (s.wg t.wg).barrier b
  Store.get 0#32 t.lastPhase b == x.phase && x.arrived.getLsbD t.teamix

def execBarSync (sw : Bool) (b : BitVec 4) (n : BitVec 16) (s : State) : Out :=
  begin (needT true []) s fun h =>
    if (s.team h).loads != 0 || (s.team h).stores != 0 then .next (s.park h (.counts .barrier true false))
    else match s.arrive h b.toNat n.toNat with
      | none => .next (s.raise h .illegalOperand 1)
      | some s' => .next ((s'.park h (.barrierPhase b.toNat sw)).barrierCheck (s.team h).wg b.toNat)

def execBarArv (sw : Bool) (b : BitVec 4) (n : BitVec 16) (s : State) : Out :=
  begin (needT true []) s fun h =>
    if (s.team h).loads != 0 || (s.team h).stores != 0 then .next (s.park h (.counts .barrier true false))
    else match s.arrive h b.toNat n.toNat with
      | none => .next (s.raise h .illegalOperand 1)
      | some s' =>
        let g := (s.team h).wg
        let t := s'.barrierCheck g b.toNat
        -- an arrival that completes the phase resets its team's watchdog (R114)
        let done := ((t.wg g).barrier b.toNat).phase != ((s'.wg g).barrier b.toNat).phase
        .next ((if done then t.watch h else t).done h 1 sw)

def execBarWt (sw : Bool) (b : BitVec 4) (s : State) : Out :=
  begin (needT true []) s fun h =>
    if s.mustWait h b.toNat then .next (s.park h (.barrierPhase b.toNat sw)) else .next (s.done h 1 sw)

/-! ### Idle -/

def execNop (sw : Bool) (s : State) : Out := begin need1 s fun h => .next (s.done h 1 sw)

/-- YIELD: the watchdog is reset and the team gives way for the next clock (R118). A control-core thread has no
watchdog. -/
def execYield (sw : Bool) (s : State) : Out :=
  begin need1 s fun h =>
    match (s.ctx h).kind with
    | .team =>
      let s := (s.watch h).done h 1 sw
      .next (s.setTeam h { s.team h with yielded := !s.det h })
    | .thread => .next (s.done h 1 sw)
    | .absent => .fault .noHart

/-- SLEEP: `sleep` is one above the clocks that are left, and 0 in a team that does not sleep. -/
def execSleep (sw : Bool) (i : BitVec 16) (s : State) : Out :=
  begin need1 s fun h =>
    match (s.ctx h).kind with
    | .team => .next ((s.setTeam h { s.team h with sleep := if i == 0#16 then 0 else i.toNat + 1 }).done h 1 sw)
    | .thread => .next (s.done h 1 sw)
    | .absent => .fault .noHart

end Sys2Proof.Machine
end

