-- ==== Sys2Proof/Config.lean ====
section
/-! DEFINITION. What an implementation fixes and the manual leaves open: constants and uninterpreted values. An `opaque`
constant has no body, so no proof can lean on a value of it. -/

namespace Sys2Proof.Config

/-- A special-function result that the fixed-point enclosure of Machine/Special.lean could not decide: function number and
operand. No input that reaches it is known (log 7). -/
opaque specialTie (fn x : Nat) : BitVec 32

/-- Free values (log 5): the n-th value that the manual leaves open in a run. -/
opaque freeValue (n : Nat) : BitVec 64

/-- Byte i of the package's identity public key, 2,592 bytes (R405). -/
opaque identityKey (i : Nat) : Byte

/-- Byte i of the ML-DSA-87 signature of a digest by the identity key, 4,627 bytes (R404-R406); `n` tells one signing from
another, since every report is signed afresh. -/
opaque sign (digest : List Byte) (n i : Nat) : Byte

/-- Whether a signature verifies over a digest against the configured identity key of a package of the pod (R348). -/
opaque verifies (pkg : Nat) (digest signature : List Byte) : Bool

/-- What the flash holds (R408): the firmware image, the package OS image and the configuration record, 0, 1 and 2, and the
4,627 bytes of the ML-DSA-87 signature of each. -/
opaque image (which : Nat) : List Byte
opaque imageSign (which : Nat) : List Byte

/-- Whether a signature verifies over a digest against Idzemen's firmware key, which the boot ROM fixes (R408). -/
opaque firmwareVerifies (digest signature : List Byte) : Bool

/-- Where configuration space of a function holds its MSI-X capability structure (R413): in 4-byte steps from 0x40. -/
opaque msixCap (fn : Nat) : Fin 45

/-- Energy rates of the configuration record in µJ per 2^20 bytes (R400): 0 HBM4, 1 fabric, 2 die-to-die. -/
opaque energyRate (which : Nat) : Nat

/-- The budgets of a cluster in the configuration record (R274): CBUDGET, and ISTEP less 1. -/
opaque cbudget (cluster : Nat) : Fin 257
opaque istepLess1 (cluster : Nat) : Fin 256

/-- The system owner's fill mask in a slice, from the configuration record (R397). -/
opaque systemWays (slice : Nat) : BitVec 16

/-- The packages of the pod that the configuration record names (R408), and those that system software has marked as
candidates (R347; how it marks them is left open, log 78). -/
opaque pod : List Nat
opaque candidates : List Nat

/-- The bytes of the HBM4 training set that the n-th training of the package finds (R420). -/
opaque trainingSet (n : Nat) : List Byte

end Sys2Proof.Config
end

