-- ==== Sys2Proof/Machine/Cache.lean ====
section
/-! DEFINITION. Where a physical byte lives: HBM4, home lines, guest copies and L1 lines, with their fills, evictions, write
through and poison (R164, R293-R300, R377, R378, R396, R397, R423). -/

namespace Sys2Proof.Machine

/-- Byte i of a line. -/
def lineByte (d : BitVec 1024) (i : Nat) : Byte := d.extractLsb' (8 * i) 8
def setLineByte (d : BitVec 1024) (i : Nat) (b : Byte) : BitVec 1024 :=
  (d &&& ~~~((0xFF#1024) <<< (8 * i))) ||| ((b.setWidth 1024) <<< (8 * i))

/-- HBM4's byte at a physical address. -/
def State.hbm (s : State) (pa : Nat) : Byte := Store.get 0#8 s.mem pa
def State.setHbm (s : State) (pa : Nat) (b : Byte) : State := { s with mem := Store.set 0#8 s.mem pa b }

/-- The 128 bytes of a line in HBM4. -/
def State.hbmLine (s : State) (line : Nat) : BitVec 1024 :=
  BitVec.ofNat 1024 ((List.range 128).foldl (fun a i => a + (s.hbm (128 * line + i)).toNat * 2 ^ (8 * i)) 0)

/-- First byte of HBM4's unmapped remainder (R294). -/
def hbmTop : Nat := 0x12000000000

/-- Home slice of a byte (R294). -/
def homeSlice (l : Loc) : Nat :=
  match l.pin with
  | some k => k
  | none => 48 * (l.pa / 0x60000000 / 64) + (l.pa / 128) % 48

/-- Set of a line in its home slice (R377). -/
def setOf (l : Loc) : Nat :=
  match l.pin with
  | some _ => (l.pa / 128) % 1024
  | none => (l.pa / 128 / 48) % 1024

/-- The slice of a die that holds its guest copy of a line: the slice of the same place in its die (log 9). -/
def guestSlice (die : Nat) (l : Loc) : Nat := 48 * die + homeSlice l % 48

def l2Key (slice set way : Nat) : Nat := slice * 2 ^ 14 + set * 16 + way
def sliceOfKey (k : Nat) : Nat := k / 2 ^ 14
def wayOfKey (k : Nat) : Nat := k % 16

/-- The home copy of a line. -/
def State.homeLine (s : State) (line : Nat) : Option (Nat × L2Line) := s.l2.find? fun e => e.2.line == line && !e.2.guest
/-- The guest copy of a line on a die (R295: at most one). -/
def State.guestLine (s : State) (die line : Nat) : Option (Nat × L2Line) :=
  s.l2.find? fun e => e.2.line == line && e.2.guest && sliceOfKey e.1 / 48 == die

def State.putL2 (s : State) (k : Nat) (l : L2Line) : State := { s with l2 := Store.put k l s.l2 }
def State.dropL2 (s : State) (k : Nat) : State := { s with l2 := Store.erase k s.l2 }

/-- Fill mask of an owner in a slice (R384, R397). -/
def State.fillMask (s : State) (owner slice : Nat) : BitVec 16 := Store.get 0#16 s.ways (owner * 1024 + slice)

/-- Sets HBM4's poison of one block. -/
def State.setPoison (s : State) (block : Nat) (b : Bool) : State :=
  { s with poison := Store.set false s.poison block b }

/-- Writes a line's data and poison to HBM4. -/
def State.writeBack (s : State) (l : L2Line) : State :=
  let s := (List.range 128).foldl (fun s i => s.setHbm (128 * l.line + i) (lineByte l.data i)) s
  (s.setPoison (2 * l.line) (l.pois.getLsbD 0)).setPoison (2 * l.line + 1) (l.pois.getLsbD 1)

/-- Evicts what a way holds, a dirty home line with its write-back (R293, R378). -/
def State.evict (s : State) (k : Nat) : State :=
  match Store.find k s.l2 with
  | none => s
  | some l => (if l.dirty && !l.guest then (s.writeBack l).meterAdd l.owner 5 128 else s).dropL2 k

/-- The way a fill takes: the lowest invalid candidate, else the lowest foreign one, else the least recently used
(R377). -/
def State.victim (s : State) (owner slice set : Nat) : Option Nat :=
  let m := s.fillMask owner slice
  let cand := (List.range 16).filter fun w => m.getLsbD w
  let line := fun w => Store.find (l2Key slice set w) s.l2
  match cand.filter fun w => (line w).isNone with
  | w :: _ => some w
  | [] =>
    match cand.filter fun w => match line w with
      | some l => !(s.fillMask l.owner slice).getLsbD w
      | none => false with
    | w :: _ => some w
    | [] =>
      match cand with
      | [] => none
      | w :: ws => some (ws.foldl (fun b w =>
          match line w, line b with
          | some x, some y => if x.used < y.used then w else b
          | some _, none => b
          | none, some _ => b
          | none, none => b) w)

/-- A moment passes. -/
def State.tick (s : State) : State := { s with now := s.now + 1 }

/-- A die's guest copy of a line goes. -/
def State.dropCopy (s : State) (die line : Nat) : State :=
  match s.guestLine die line with
  | some e => s.dropL2 e.1
  | none => s

/-- Fills a home line for an owner, if its mask has a way (R377); a line already there stays. The die of the home line keeps
no guest copy beside it (R295). -/
def State.fillHome (s : State) (owner : Nat) (l : Loc) : State :=
  let line := l.pa / 128
  match s.homeLine line with
  | some _ => s
  | none =>
    match s.victim owner (homeSlice l) (setOf l) with
    | none => s
    | some w =>
      let k := l2Key (homeSlice l) (setOf l) w
      let s := (s.evict k).dropCopy (homeSlice l / 48) line
      let p := fun b => Store.get false s.poison (2 * line + b)
      (s.putL2 k { line := line, guest := false, data := s.hbmLine line, dirty := false, owner := owner, used := s.now,
                   filled := s.now, stale := false, wrote := 0, pois := bit (p 1) ++ bit (p 0), written := 0#128 }).tick.meterAdd owner 5 128

/-- The die of a line's home: where its home line stands, or would be filled (R294, R295). -/
def State.homeDie (s : State) (l : Loc) : Nat :=
  match s.homeLine (l.pa / 128) with
  | some e => sliceOfKey e.1 / 48
  | none => homeSlice l / 48

/-- A hit updates recency (R377). -/
def State.touch (s : State) (k : Nat) : State :=
  match Store.find k s.l2 with
  | none => s
  | some l => (s.putL2 k { l with used := s.now }).tick

/-- The byte at the home (R298): the home line's, or HBM4's. -/
def State.homeByte (s : State) (l : Loc) : Byte :=
  match s.homeLine (l.pa / 128) with
  | some e => lineByte e.2.data (l.pa % 128)
  | none => s.hbm l.pa

/-- Whether the byte's block is poisoned at the home (R423). -/
def State.homePoison (s : State) (l : Loc) : Bool :=
  match s.homeLine (l.pa / 128) with
  | some e => e.2.pois.getLsbD (l.pa % 128 / 64)
  | none => Store.get false s.poison (l.pa / 64)

/-- A read at the home by an owner uses the line or, where it misses, fills it under the owner's mask; a line that fills
nothing is read from HBM4 (R377, R397, R400). -/
def State.useHome (s : State) (owner : Nat) (l : Loc) : State :=
  match s.homeLine (l.pa / 128) with
  | some e => s.touch e.1
  | none =>
    let t := s.fillHome owner l
    if (t.homeLine (l.pa / 128)).isSome then t else t.meterAdd owner 5 128

/-- First place of each line of a list of places. -/
def lineHeads (bs : List Loc) : List Loc :=
  bs.foldl (fun hs b => if hs.any fun x => x.pa / 128 == b.pa / 128 then hs else hs ++ [b]) []

/-- A read of a list of bytes at the home. -/
def State.useAll (s : State) (owner : Nat) (bs : List Loc) : State :=
  (lineHeads bs).foldl (fun s l => s.useHome owner l) s

/-- Valid lines of a slice that an owner owns (R378). -/
def State.occupancy (s : State) (slice owner : Nat) : Nat :=
  (s.l2.filter fun e => sliceOfKey e.1 == slice && e.2.owner == owner).length

/-- A write's effect on a home line's data, poison and written-byte mask (R423). -/
def L2Line.write (x : L2Line) (i : Nat) (b : Byte) : L2Line :=
  let wr := x.written ||| (1#128 <<< i)
  let h := i / 64
  let full := wr.extractLsb' (64 * h) 64 == BitVec.allOnes 64
  { x with data := setLineByte x.data i b, written := wr,
           pois := if full then x.pois &&& ~~~(1#2 <<< h) else x.pois }

/-- One byte written at the home on an owner's account: a hit in the owner's mask leaves the line dirty, a hit outside it
is written through, a miss under a mask fills first, a miss under an empty mask goes to HBM4 (R396). -/
def State.writeHomeByte (s : State) (owner : Nat) (l : Loc) (b : Byte) : State :=
  let s := s.fillHome owner l
  match s.homeLine (l.pa / 128) with
  | none => s.setHbm l.pa b
  | some (k, x) =>
    let y := { x.write (l.pa % 128) b with used := s.now }
    if (s.fillMask owner (sliceOfKey k)).getLsbD (wayOfKey k) then s.putL2 k { y with dirty := true }
    else (s.writeBack y).putL2 k { y with dirty := false }

/-- What a write of bytes of one line has written to HBM4 on its owner's account: the line where it was written through,
the bytes where the owner's mask is empty (R396, R400). -/
def State.meterWrite (s : State) (owner line n : Nat) : State :=
  match s.homeLine line with
  | none => s.meterAdd owner 5 n
  | some (k, _) => if (s.fillMask owner (sliceOfKey k)).getLsbD (wayOfKey k) then s else s.meterAdd owner 5 128

/-- Lines of a list of bytes, once each. -/
def linesOf (ls : List Loc) : List Nat := (ls.map fun l => l.pa / 128).eraseDups

/-- Bytes written at the home as one write of a source die (none: no die's own), with invalidations sent to every other
die that holds a guest copy (R300). -/
def State.writeHome (s : State) (owner : Nat) (src : Option Nat) (bs : List (Loc × Byte)) : State :=
  let s := bs.foldl (fun s p => s.writeHomeByte owner p.1 p.2) s
  let s := (linesOf (bs.map (·.1))).foldl (fun s line =>
    s.meterWrite owner line (bs.filter fun p => p.1.pa / 128 == line).length) s
  let invs := (linesOf (bs.map (·.1))).flatMap fun line =>
    ((List.range 12).filter fun d => some d != src && (s.guestLine d line).isSome).map fun d => (⟨d, line, s.now⟩ : Inval)
  let l2 := s.l2.map fun (e : Nat × L2Line) =>
    if e.2.guest && (linesOf (bs.map (·.1))).contains e.2.line then (e.1, { e.2 with wrote := s.now }) else e
  { s with l2 := l2, invals := s.invals ++ invs, now := s.now + 1 }

/-! ### Guest copies and L1 -/

/-- Updates a die's guest copy with bytes of one of its own writes, if it holds the line (R164, R300): a hit (R377). -/
def State.writeGuest (s : State) (die : Nat) (bs : List (Loc × Byte)) : State :=
  bs.foldl (fun s p =>
    match s.guestLine die (p.1.pa / 128) with
    | none => s
    | some (k, x) => (s.putL2 k { x with data := setLineByte x.data (p.1.pa % 128) p.2, used := s.now }).tick) s

def l1Key (core line : Nat) : Nat := core * 2 ^ 45 + line

def State.l1Line (s : State) (core line : Nat) : Option L1Line := Store.find (l1Key core line) s.l1

/-- Updates a core's L1 lines with bytes stored from that core; none is allocated (R164). -/
def State.writeL1 (s : State) (core : Nat) (bs : List (Loc × Byte)) : State :=
  bs.foldl (fun s p =>
    match s.l1Line core (p.1.pa / 128) with
    | none => s
    | some x => { s with l1 := Store.put (l1Key core (p.1.pa / 128)) { x with data := setLineByte x.data (p.1.pa % 128) p.2 } s.l1 }) s

/-- Invalidates a core's L1 (R171, R312). -/
def State.dropL1 (s : State) (core : Nat) : State := { s with l1 := Store.keep (fun k _ => k / 2 ^ 45 != core) s.l1 }

/-- Workgroups resident on a core. -/
def State.wgsOn (s : State) (core : Nat) : List (Nat × Workgroup) := s.wgs.filter fun e => e.2.core == core

/-- The 64 KiB steps of a core's SRAM that no workgroup's scratchpad takes: its L1 (R60). -/
def State.freeSteps (s : State) (core : Nat) : List Nat :=
  let taken := (s.wgsOn core).flatMap fun e => e.2.steps
  (List.range 16).filter fun k => !taken.contains k

/-- Invalidates the L1 lines of a core that lie in the steps a scratchpad takes (R60). -/
def State.dropSteps (s : State) (core : Nat) (steps : List Nat) : State :=
  { s with l1 := Store.keep (fun k x => k / 2 ^ 45 != core || !steps.contains x.step) s.l1 }

/-- Fills an L1 line whose data dates from moment `age`. Each free step is 64 sets of 8 ways; of a full set the line
filled longest ago leaves (R60, R293; log 9). -/
def State.fillL1 (s : State) (core line : Nat) (data : BitVec 1024) (age : Nat) : State :=
  let free := s.freeSteps core
  match free[line / 64 % free.length]? with
  | none => s
  | some st =>
    let set := s.l1.filter fun e =>
      e.1 / 2 ^ 45 == core && e.1 % 64 == line % 64 && e.2.step == st && e.1 != l1Key core line
    let s := if set.length < 8 then s
      else match set with
        | [] => s
        | e :: es =>
          let v := es.foldl (fun (b : Nat × L1Line) e => if e.2.since < b.2.since then e else b) e
          { s with l1 := Store.erase v.1 s.l1 }
    ({ s with l1 := Store.put (l1Key core line) ⟨data, age, st, s.now⟩ s.l1 }).tick

/-- The bytes of a lane's store that its home has not applied, placed. -/
def LaneReq.left (q : LaneReq) : List (Loc × Byte) :=
  (q.bytes.zipIdx.drop q.read.length).map fun p => (p.1, BitVec.ofNat 8 (q.data / 2 ^ (8 * p.2)))

/-- A global store that its core and die show (R164). -/
def Req.shown (r : Req) : Bool := r.kind == .store && r.space == .global && !r.quiet

/-- Outstanding requests of a die's teams. -/
def State.dieReqs (s : State) (die : Nat) : List Req :=
  (s.teams.filter fun e => dieOfCore (s.coreOf e.1) == die).flatMap fun e => e.2.reqs

/-- Outstanding requests of a core's teams. -/
def State.coreReqs (s : State) (core : Nat) : List Req :=
  (s.teams.filter fun e => s.coreOf e.1 == core).flatMap fun e => e.2.reqs

/-- The stores among a list of requests to a line that its home has not applied, in issue order: place and byte. -/
def pendingStores (rs : List Req) (line : Nat) : List (Nat × Byte) :=
  ((rs.filter Req.shown).mergeSort fun a b => a.id ≤ b.id).flatMap fun r => r.todo.flatMap fun q =>
    (q.left.filter fun p => p.1.pa / 128 == line).map fun p => (p.1.pa % 128, p.2)

/-- A byte of a line under the stores that its home has not applied. -/
def overByte (ps : List (Nat × Byte)) (i : Nat) (b : Byte) : Byte := ps.foldl (fun b p => if p.1 == i then p.2 else b) b

/-- The stores of a die's teams to a line that its home has not applied. -/
def State.ownPending (s : State) (die line : Nat) : List (Nat × Byte) := pendingStores (s.dieReqs die) line

/-- What the copies of a core and its die show of bytes that the home has just written for them: the stores of their own
that the home has still to apply, and else the home's bytes, since the home may apply stores in another order than that of
their issue (R164, R298-R300). -/
def State.showOwn (s : State) (core : Nat) (ls : List Loc) : State :=
  let shown := fun (rs : List Req) => ls.map fun l => (l, overByte (pendingStores rs (l.pa / 128)) (l.pa % 128) (s.homeByte l))
  (s.writeL1 core (shown (s.coreReqs core))).writeGuest (dieOfCore core) (shown (s.dieReqs (dieOfCore core)))

/-- Whether a load of a die has returned a write to a line, of another die's team, that the home has not applied: the team
that read it has come from there (R299, R312). -/
def State.seenAbroad (s : State) (die line : Nat) : Bool :=
  (Store.get [] s.dieSeen die).any fun id => s.teams.any fun e => dieOfCore (s.coreOf e.1) != die &&
    e.2.reqs.any fun r => r.id == id && r.todo.any fun q => q.bytes.any fun b => b.pa / 128 == line

/-- A store that is not acknowledged and that the home has not applied to a line before a moment (R300). -/
def Req.holds (r : Req) (line seq : Nat) : Bool :=
  r.shown && (r.todo.any (fun q => q.bytes.any fun b => b.pa / 128 == line) || r.applied.any fun a => a.1 == line && decide (seq < a.2))

/-- The line at the home. -/
def State.homeData (s : State) (line : Nat) : BitVec 1024 :=
  match s.homeLine line with
  | some e => e.2.data
  | none => s.hbmLine line

/-- Whether any byte of a line is poisoned at the home. -/
def State.linePoison (s : State) (line : Nat) : Bool :=
  s.homePoison ⟨128 * line, none⟩ || s.homePoison ⟨128 * line + 64, none⟩

/-- Fills or refreshes a die's guest copy from the home, keeping the die's own writes that the home has not applied
(R295, R300); the fill uses the home line (R377). A poisoned line is not copied, and leaves no older copy (R299, R423). The
die of the home line has no guest copy of it, and a line is not copied while a load of the die has returned a write of
another die to it that the home has not applied (R299). -/
def State.fillGuest (s : State) (owner die : Nat) (l : Loc) : State :=
  let line := l.pa / 128
  let s := s.useHome owner l
  if s.homeDie l == die || s.seenAbroad die line then s
  else if s.linePoison line then s.dropCopy die line
  else
    let data := (s.ownPending die line).foldl (fun d p => setLineByte d p.1 p.2) (s.homeData line)
    match s.guestLine die line with
    | some (k, x) => (s.putL2 k { x with data := data, filled := s.now, used := s.now, stale := false }).tick
    | none =>
      match s.victim owner (guestSlice die l) (setOf l) with
      | none => s
      | some w =>
        let k := l2Key (guestSlice die l) (setOf l) w
        ((s.evict k).putL2 k { line := line, guest := true, data := data, dirty := false, owner := owner, used := s.now,
                               filled := s.now, stale := false, wrote := 0, pois := 0#2, written := 0#128 }).tick

/-- An invalidation reaches its die (R300): the copy goes, unless it holds a write of its own die that is not yet
acknowledged and that the home has not applied before this one. -/
def State.invalidate (s : State) (i : Inval) : State :=
  match s.guestLine i.die i.line with
  | none => s
  | some (k, x) =>
    if i.seq < x.filled then s
    else if (s.dieReqs i.die).any fun r => r.holds i.line i.seq then s.putL2 k { x with stale := true }
    else s.dropL2 k

/-- A store of a die has been acknowledged: a guest copy of a line it wrote goes if an invalidation has passed it by, or if
the home has applied a later write, of any die, unless another store of the die that is not acknowledged holds it (R300). -/
def State.dropStale (s : State) (die : Nat) (r : Req) : State :=
  (r.applied.map (·.1)).eraseDups.foldl (fun s line =>
    match s.guestLine die line with
    | none => s
    | some (k, x) =>
      let own := r.applied.foldl (fun m a => if a.1 == line && m < a.2 then a.2 else m) 0
      if (x.stale || decide (own < x.wrote)) && !((s.dieReqs die).any fun y => y.holds line 0) then s.dropL2 k else s) s

end Sys2Proof.Machine
end

