-- ==== Sys2Proof/Machine/Translate.lean ====
section
/-! DEFINITION. Address translation in two stages, with its faults, and the translation caches (R390-R395). -/

namespace Sys2Proof.Machine

/-- What an access asks of a page. -/
inductive Access where
  | read | write | exec | readWrite
  deriving DecidableEq, Repr

/-- A translated page: base address, permissions, pin, pages in the leaf's group and this page's place in it. -/
structure Leaf where
  base : Nat
  size : Nat
  r : Bool
  w : Bool
  x : Bool
  pin : Option Nat
  scrub : Bool
  run : Nat
  /-- physical address of the entry -/
  entry : Nat
  deriving DecidableEq, Repr

/-- Eight bytes at the home, little-endian (R394: walks read at the home slice). -/
def State.home64 (s : State) (pa : Nat) : DWord :=
  BitVec.ofNat 64 ((List.range 8).foldl (fun a i => a + (s.homeByte ⟨pa + i, none⟩).toNat * 2 ^ (8 * i)) 0)

/-- The zero and reserved fields of an entry (R391, R392); `s2` for stage 2. -/
def entryOk (s2 : Bool) (e : DWord) : Bool :=
  e.getLsbD 0 && e.extractLsb' 8 8 == 0#8 && !e.getLsbD 63 &&
    (if s2 then !(e.getLsbD 62) || (e.extractLsb' 52 10).toNat ≤ 575
     else !e.getLsbD 7 && e.extractLsb' 55 7 == 0#7 && !e.getLsbD 62)

/-- Address field of an entry: 55 bits in stage 1, 52 in stage 2. -/
def entryAddr (s2 : Bool) (e : DWord) : Nat :=
  if s2 then (e.extractLsb' 16 36).toNat * 2 ^ 16 else (e.extractLsb' 16 39).toNat * 2 ^ 16

/-- A leaf entry. -/
def leafOf (s2 : Bool) (e : DWord) (size entry : Nat) : Leaf :=
  { base := entryAddr s2 e, size := size, r := e.getLsbD 2, w := e.getLsbD 3, x := e.getLsbD 4,
    pin := if s2 && e.getLsbD 62 then some (e.extractLsb' 52 10).toNat else none, scrub := e.getLsbD 7,
    run := (e.extractLsb' 5 2).toNat, entry := entry }

/-- Whether a page of a stage-2 leaf lies in an owned pseudo-channel of HBM4 (R392). -/
def Partition.ownsPa (p : Partition) (pa : Nat) : Bool := decide (pa < hbmTop) && p.pchan.getLsbD (pa / 0x60000000)

/-- A table walk of one stage: `rd` gives the physical address of a table's byte and `a` is the address translated
(R390-R392). -/
def walkStage (s : State) (s2 : Bool) (rd : Nat → Except XErr Nat) (root a : Nat) : Except XErr Leaf :=
  match rd (root + 8 * (a / 2 ^ 42 % 8192)) with
  | .error x => .error x
  | .ok p1 =>
    let e1 := s.home64 p1
    -- level 1 holds tables only; RUN belongs to level 3
    if !entryOk s2 e1 || !e1.getLsbD 1 || e1.extractLsb' 5 2 != 0#2 then .error .fault
    else match rd (entryAddr s2 e1 + 8 * (a / 2 ^ 29 % 8192)) with
    | .error x => .error x
    | .ok p2 =>
      let e2 := s.home64 p2
      if !entryOk s2 e2 || e2.extractLsb' 5 2 != 0#2 then .error .fault
      else if !e2.getLsbD 1 then
        if entryAddr s2 e2 % 2 ^ 29 != 0 then .error .fault else .ok (leafOf s2 e2 (2 ^ 29) p2)
      else match rd (entryAddr s2 e2 + 8 * (a / 2 ^ 16 % 8192)) with
      | .error x => .error x
      | .ok p3 =>
        let e3 := s.home64 p3
        if !entryOk s2 e3 || e3.getLsbD 1 || e3.extractLsb' 5 2 == 3#2 then .error .fault
        else .ok (leafOf s2 e3 (2 ^ 16) p3)

/-- Stage 2: an intermediate address to its leaf. -/
def stage2 (s : State) (p : Partition) (ipa : Nat) : Except XErr Leaf :=
  if 2 ^ 55 ≤ ipa then .error .fault
  else match walkStage s true (fun a => .ok a) p.s2root ipa with
    | .error x => .error x
    | .ok l => if p.ownsPa (l.base + ipa % l.size) then .ok l else .error .fault

/-- Where a stage-1 table's byte lies: its table is an intermediate address, read through stage 2, whose leaf may pin it
(R390, R394). -/
def stage1Loc (s : State) (p : Partition) (ipa : Nat) : Except XErr Loc :=
  match stage2 s p ipa with
  | .error x => .error x
  | .ok l => if l.r then .ok ⟨l.base + ipa % l.size, l.pin⟩ else .error .perm

/-- That byte's physical address. -/
def stage1Read (s : State) (p : Partition) (ipa : Nat) : Except XErr Nat := (stage1Loc s p ipa).map Loc.pa

/-- Pages of the group that RUN names (R393). -/
def runPages (run : Nat) : Nat := if run == 1 then 32 else if run == 2 then 512 else 1

/-- The two-stage walk of a virtual address (R390, R392). -/
def walk (s : State) (part va : Nat) : Except XErr Page :=
  let p := s.part part
  match walkStage s false (stage1Read s p) p.s1root va with
  | .error x => .error x
  | .ok l1 =>
    match stage2 s p (l1.base + va % l1.size / 2 ^ 16 * 2 ^ 16) with
    | .error x => .error x
    | .ok l2 =>
      let ipa := l1.base + va % l1.size / 2 ^ 16 * 2 ^ 16
      let run := if l1.run ≤ l2.run then l1.run else l2.run
      .ok { base := l2.base + ipa % l2.size, r := l1.r && l2.r, w := l1.w && l2.w, x := l1.x && l2.x, pin := l2.pin,
            -- a group of both stages has the same place in each
            run := if va / 2 ^ 16 % runPages run == ipa / 2 ^ 16 % runPages run then run else 0 }

/-- The pin of a stage-2 leaf of a partition whose page holds a physical byte (R392, R294). -/
def leafPin (s : State) (p : Partition) (pa : Nat) : Option Nat :=
  let hit := fun (e : DWord) (size : Nat) =>
    if decide (entryAddr true e ≤ pa) && decide (pa < entryAddr true e + size) then (leafOf true e size 0).pin else none
  (List.range 8192).findSome? fun i =>
    let e1 := s.home64 (p.s2root + 8 * i)
    if !entryOk true e1 || !e1.getLsbD 1 then none
    else (List.range 8192).findSome? fun j =>
      let e2 := s.home64 (entryAddr true e1 + 8 * j)
      if !entryOk true e2 then none
      else if !e2.getLsbD 1 then hit e2 (2 ^ 29)
      else (List.range 8192).findSome? fun n =>
        let e3 := s.home64 (entryAddr true e2 + 8 * n)
        if !entryOk true e3 || e3.getLsbD 1 then none else hit e3 (2 ^ 16)

/-- The place of a physical byte that an owner reaches without a translation: the pin its page carries matters where the
owner fills lines (R294, R397). -/
def State.physLoc (s : State) (owner pa : Nat) : Loc :=
  ⟨pa, if s.ways.any fun e => e.1 / 1024 == owner then
      s.parts.findSome? fun e => if e.2.live then leafPin s e.2 pa else none
    else none⟩

/-- A cached translation of a page for a core, its own cache before its cluster's (R395). -/
def State.cached (s : State) (core part vpage : Nat) : Option Page :=
  let hit := fun (cl : Bool) (u : Nat) => s.tlb.find? fun e =>
    e.cluster == cl && e.unit == u && e.part == part && e.vpage ≤ vpage && vpage < e.vpage + e.pages
  match (hit false core).orElse fun _ => hit true (core / 16) with
  | none => none
  | some e => some { base := (e.ppage + (vpage - e.vpage)) * 2 ^ 16, r := e.r, w := e.w, x := e.x, pin := e.pin, run := 0 }

/-- Whether a page grants an access. -/
def Page.allows (p : Page) : Access → Bool
  | .read => p.r
  | .write => p.w
  | .exec => p.x
  | .readWrite => p.r && p.w

/-- The place of one byte of a virtual address for an access by core `core` (none: an agent without a translation
cache) of a partition; `ws` are walks that have returned to it (R154, R390-R395). -/
def translate (s : State) (core : Option Nat) (part : Nat) (va : Addr) (k : Access) (ws : List Walked := []) :
    Except XErr Loc :=
  let a := va.toNat
  if 2 ^ 55 ≤ a then .error .fault
  else
    let pg : Except XErr Page :=
      match core.bind fun c => s.cached c part (a / 2 ^ 16) with
      | some p => .ok p
      | none =>
        match ws.find? fun w => w.vpage == a / 2 ^ 16 with
        | some w => (match w.err with
          | some x => .error x
          | none => .ok w.page)
        | none => walk s part a
    match pg with
    | .error x => .error x
    | .ok p => if p.allows k then .ok ⟨p.base + a % 2 ^ 16, p.pin⟩ else .error .perm

/-- The places of `n` bytes from a virtual address, or the first address that fails; how, is the worse of the failures of
its pages (R154, R157). -/
def translateBytes (s : State) (core : Option Nat) (part : Nat) (va : Addr) (n : Nat) (k : Access)
    (ws : List Walked := []) : Except (XErr × Addr) (List Loc) :=
  match n with
  | 0 => .ok []
  | m + 1 =>
    match translate s core part va k ws with
    | .error x =>
      let room := 2 ^ 16 - va.toNat % 2 ^ 16
      let next := translate s core part (va + BitVec.ofNat 64 room) k ws
      .error (if m + 1 ≤ room then x else match next with
        | .error .fault => .fault
        | .error .perm => x
        | .ok _ => x, va)
    | .ok l =>
      -- the bytes of one page share its translation
      let room := 2 ^ 16 - va.toNat % 2 ^ 16
      let here := (List.range (m + 1)).filter fun i => i < room
      let ls := here.map fun i => (⟨l.pa + i, l.pin⟩ : Loc)
      if m + 1 ≤ room then .ok ls
      else
        let va2 := va + BitVec.ofNat 64 room
        match translate s core part va2 k ws with
        | .error x => .error (x, va2)
        | .ok l2 => .ok (ls ++ (List.range (m + 1 - room)).map fun i => (⟨l2.pa + i, l2.pin⟩ : Loc))

/-- The first n entries of one cache, newest first, and the entries of the others. -/
def keepTlb (cluster : Bool) (unit : Nat) : Nat → List TlbEntry → List TlbEntry
  | _, [] => []
  | n, e :: r =>
    if e.cluster == cluster && e.unit == unit then
      (match n with
       | 0 => keepTlb cluster unit 0 r
       | m + 1 => e :: keepTlb cluster unit m r)
    else e :: keepTlb cluster unit n r

/-- Table addresses that one stage of a walk goes through, before they are translated themselves (R390). -/
def tablesOf (s : State) (s2 : Bool) (rd : Nat → Except XErr Nat) (root a : Nat) : List Nat :=
  let i1 := root + 8 * (a / 2 ^ 42 % 8192)
  match rd i1 with
  | .error _ => [i1]
  | .ok p1 =>
    let i2 := entryAddr s2 (s.home64 p1) + 8 * (a / 2 ^ 29 % 8192)
    match rd i2 with
    | .error _ => [i1, i2]
    | .ok p2 =>
      let e2 := s.home64 p2
      if !e2.getLsbD 1 then [i1, i2] else [i1, i2, entryAddr s2 e2 + 8 * (a / 2 ^ 16 % 8192)]

/-- Entries of stage 2 that the translation of an intermediate address reads, each at its home (R390, R394). -/
def stage2Reads (s : State) (part ipa : Nat) : List Loc :=
  if 2 ^ 55 ≤ ipa then []
  else (tablesOf s true (fun x => .ok x) (s.part part).s2root ipa).map (s.physLoc part)

/-- Table entries that a walk of a virtual address reads: those of stage 2 for each table of stage 1 and for the page
itself, and those of stage 1, each at its home (R390, R394). -/
def walkReads (s : State) (part va : Nat) : List Loc :=
  let p := s.part part
  let two := stage2Reads s part
  let one := (tablesOf s false (stage1Read s p) p.s1root va).flatMap fun a =>
    two a ++ match stage1Loc s p a with
      | .ok x => [x]
      | .error _ => []
  match walkStage s false (stage1Read s p) p.s1root va with
  | .error _ => one
  | .ok l1 => one ++ two (l1.base + va % l1.size)

/-- A walk's reads of its tables, on the partition's account (R394, R397). -/
def State.chargeWalk (s : State) (part : Nat) (va : Nat) : State :=
  if 2 ^ 55 ≤ va then s else s.useAll part (walkReads s part va)

/-- Virtual pages of n bytes at an address. -/
def vpagesOf (va : Addr) (n : Nat) : List Nat :=
  if n == 0 then []
  else ([va.toNat / 2 ^ 16, (va + BitVec.ofNat 64 (n - 1)).toNat / 2 ^ 16].eraseDups).filter fun p => decide (p < 2 ^ 39)

/-- An access that waits for no walk at issue, a fetch or an engine's, makes the walks of the pages that its caches miss
(R395, R397). -/
def State.chargeMisses (s : State) (core : Option Nat) (part : Nat) (va : Addr) (n : Nat) : State :=
  ((vpagesOf va n).filter fun p => (core.bind fun c => s.cached c part p).isNone).foldl
    (fun s p => s.chargeWalk part (p * 2 ^ 16)) s

/-- A walk that has completed (R393, R395): its result enters the caches of its core and cluster, a run as one entry taken
from the page walked; the oldest entry of a full cache leaves (log 60). A fault is never cached (R394). -/
def State.cacheWalk (s : State) (core part : Nat) (va : Addr) : State :=
  if 2 ^ 55 ≤ va.toNat then s
  else match walk s part va.toNat with
    | .error _ => s.chargeWalk part va.toNat
    | .ok p =>
      let vp := va.toNat / 2 ^ 16
      let off' := vp % runPages p.run
      -- a group whose page lies below its place is held as the page walked alone
      let n := if p.base / 2 ^ 16 < off' then 1 else runPages p.run
      let off := vp % n
      let e : TlbEntry := { cluster := false, unit := core, part := part, vpage := vp - off, pages := n,
                            ppage := p.base / 2 ^ 16 - off, r := p.r, w := p.w, x := p.x, pin := p.pin }
      let s := s.chargeWalk part va.toNat
      { s with tlb := keepTlb true (core / 16) 8192 (keepTlb false core 512
                 ({ e with cluster := true, unit := core / 16 } :: e :: s.tlb)) }

end Sys2Proof.Machine
end

