-- ==== Sys2Proof/Machine/Memory.lean ====
section
/-! DEFINITION. Memory requests: how an instruction's accesses are checked and issued, how loads take their values, how
writes are performed, and what a performed write wakes (R19, R154-R176, R298-R302). -/

namespace Sys2Proof.Machine

/-! ### Bytes -/

/-- Little-endian number of a list of bytes (R9). -/
def leNat : List Byte → Nat
  | [] => 0
  | b :: r => b.toNat + 256 * leNat r

/-- The low n bytes of a number, little-endian. -/
def leBytes (n x : Nat) : List Byte := (List.range n).map fun i => BitVec.ofNat 8 (x / 2 ^ (8 * i))

/-- Scratchpad byte o of workgroup g. -/
def State.spByte (s : State) (g o : Nat) : Byte := Store.get 0#8 s.sp (g * 2 ^ 20 + o)
def State.setSpByte (s : State) (g o : Nat) (b : Byte) : State :=
  { s with sp := Store.set 0#8 s.sp (g * 2 ^ 20 + o) b }
def State.spRead (s : State) (g o n : Nat) : List Byte := (List.range n).map fun i => s.spByte g (o + i)
def State.spWrite (s : State) (g o : Nat) (bs : List Byte) : State :=
  bs.zipIdx.foldl (fun s p => s.setSpByte g (o + p.2) p.1) s
/-- A little-endian number of n scratchpad bytes. -/
def State.spNat (s : State) (g o n : Nat) : Nat := leNat (s.spRead g o n)

/-- Offsets of n scratchpad bytes. -/
def spLocs (o n : Nat) : List Loc := (List.range n).map fun i => ⟨o + i, none⟩

/-- SPSIZE of a team's workgroup (R66). -/
def State.spSize (s : State) (h : Nat) : Nat := 1024 * (s.wgOf h).launch.spkib

/-- 4 KiB pages of a list of scratchpad bytes (R308). -/
def pagesOf (bs : List Loc) : List Nat := (bs.map fun b => b.pa / 4096).eraseDups

/-! ### Requests -/

/-- A request touches one of the bytes. -/
def LaneReq.touches (q : LaneReq) (bs : List Loc) : Bool := q.bytes.any fun b => bs.any fun c => c.pa == b.pa
def Req.touches (r : Req) (sp : Space) (bs : List Loc) : Bool := r.space == sp && r.todo.any fun q => q.touches bs

/-- Requests of a team issued before request number `id` that touch one of the bytes and are not yet performed (R163). -/
def Team.before (t : Team) (id : Nat) (sp : Space) (bs : List Loc) : List Req :=
  t.reqs.filter fun r => decide (r.id < id) && r.touches sp bs

/-- Requests whose unapplied writes loads of a die have returned, and that touch the bytes. -/
def State.seenBlocks (s : State) (die : Nat) (bs : List Loc) : Bool :=
  (Store.get [] s.dieSeen die).any fun id =>
    s.teams.any fun e => e.2.reqs.any fun r => r.id == id && r.touches .global bs

/-- Whether any page of a list is the engine's (R165). -/
def Workgroup.enginePage (g : Workgroup) (ps : List Nat) : Bool := ps.any fun p => g.engPages.contains p

/-! ### Wakes -/

/-- R171: what an acquire at a scope does to a team's copies. -/
def State.acquire (s : State) (h : Nat) (c : Scope) : State :=
  match (s.ctx h).kind with
  | .thread => s
  | .absent => s
  | .team =>
  let drop := match c with
    | .team => 0 | .wg => 0 | .core => 0 | .cluster => 1 | .die => 1 | .pkg => 2 | .pod => 2 | .reserved => 0
  let s := if drop ≥ 1 then s.dropL1 (s.coreOf h) else s
  if drop == 2 then (s.setTeam h { s.team h with fresh := s.now }).tick else s

/-- R175: whether a value meets a condition. -/
def WaitCond.holds (c : WaitCond) (x y : DWord) : Bool :=
  match c with
  | .eq => x == y
  | .ne => x != y
  | .ge => y ≤ x
  | .lt => x < y

/-- The eight bytes a WAITV watches. DESIGN CHOICE: poison in them raises nothing in a team (R175; log 67). -/
def State.watched (s : State) (h : Nat) (scratch : Bool) (place : List Loc) : DWord :=
  BitVec.ofNat 64 (leNat (place.map fun l => if scratch then s.spByte (s.team h).wg l.pa else s.homeByte l))

/-- Whether a WAITV may read now: its team is resident, the team's earlier accesses to the bytes are performed (R163), no
page of them is the engine's (R309), and no write that its die has read is still on its way to the home (R299). -/
def State.mayRead (s : State) (h : Nat) (scratch : Bool) (place : List Loc) : Bool :=
  match (s.ctx h).kind with
  | .thread => true
  | .absent => false
  | .team =>
    (s.wgOf h).saved.isNone &&
      ((s.team h).before s.nextId (if scratch then .scratch else .global) place).isEmpty &&
      (if scratch then !(s.wgOf h).enginePage (pagesOf place) else !s.seenBlocks (dieOfCore (s.coreOf h)) place)

/-- The partition on whose account a hart's accesses are (R397). -/
def State.owner (s : State) (h : Nat) : Nat :=
  match (s.ctx h).kind with
  | .team => (s.wgOf h).launch.part
  | .thread => 0
  | .absent => 0

/-- A WAITV whose read meets its condition: an acquire, at PKG scope for global memory, and the instruction has executed
(R175). -/
def State.waitMet (s : State) (h : Nat) (scratch sw : Bool) : State :=
  let s := s.setCtx h { s.ctx h with status := .ready }
  (if scratch then s else s.acquire h .pkg).done h 1 sw

/-- A WAITV reads, if it may: the line at the home is used, and where the value meets the condition the wait is over
(R175, R377). -/
def State.readWait (s : State) (h : Nat) (sc : Bool) (pl : List Loc) (c : WaitCond) (y : DWord) (sw : Bool) : State :=
  if !s.mayRead h sc pl then s
  else
    let r := if sc then s else s.useAll (s.owner h) pl
    if c.holds (s.watched h sc pl) y then r.waitMet h sc sw else r

/-- One hart's WAITV reads again (R175). -/
def State.reread (s : State) (h : Nat) : State :=
  match (s.ctx h).status with
  | .parked (.value sc _ pl c y sw) => s.readWait h sc pl c y sw
  | .parked _ => s
  | .ready => s
  | .trapped => s
  | .stopped => s

/-- Whether a hart's WAITV watches a byte of global memory that is among those given. -/
def Ctx.watchesGlobal (c : Ctx) (bs : List Loc) : Bool :=
  match c.status with
  | .parked (.value false _ pl _ _ _) => pl.any fun l => bs.any fun b => b.pa == l.pa
  | .parked _ => false
  | .ready => false
  | .trapped => false
  | .stopped => false

def Ctx.watchesScratch (c : Ctx) (o n : Nat) : Bool :=
  match c.status with
  | .parked (.value true _ pl _ _ _) => pl.any fun l => decide (o ≤ l.pa ∧ l.pa < o + n)
  | .parked _ => false
  | .ready => false
  | .trapped => false
  | .stopped => false

/-- R25: bytes a launch's teams and foals are about to write at home keep their old value for its own clause fetches. -/
def State.keepCode (s : State) (e : Nat) (bs : List Loc) : State :=
  bs.foldl (fun s b =>
    match Store.find (e * 2 ^ 52 + b.pa) s.oldCode with
    | some _ => s
    | none => { s with oldCode := Store.put (e * 2 ^ 52 + b.pa) ((s.homeByte b).toNat + 1) s.oldCode }) s

/-- One write performed at the home, with the WAITVs that read again after it (R175, R300). -/
def State.write (s : State) (owner : Nat) (src : Option Nat) (bs : List (Loc × Byte)) : State :=
  let s := s.writeHome owner src bs
  let hs := (s.ctxs.filter fun e => e.2.watchesGlobal (bs.map (·.1))).map (·.1)
  hs.foldl State.reread s

/-- One write performed at the scratchpad, with the WAITVs that read again after it. -/
def State.scratch (s : State) (g o : Nat) (bs : List Byte) : State :=
  let s := s.spWrite g o bs
  let hs := (s.ctxs.filter fun e => e.2.watchesScratch o bs.length && (s.team e.1).wg == g).map (·.1)
  hs.foldl State.reread s

/-! ### Checks at issue (R154-R158) -/

/-- One lane's access as its instruction forms it. -/
structure Ask where
  lane : Nat
  /-- virtual address, or scratchpad offset -/
  addr : Addr
  n : Nat
  data : Nat
  data2 : Nat
  deriving DecidableEq, Repr

/-- Lanes an instruction acts on: EXEC, or the lanes a RETRY names (R158). -/
def Team.lanes (t : Team) : List Nat :=
  lanesOf (match t.retry with
    | some m => m
    | none => t.exec) t.width

/-- What walks have returned to a team's instruction; a TLBI issued since discards it (R238, R395). -/
def State.walksOf (s : State) (h : Nat) : List Walked :=
  (s.team h).walked.filter fun w => s.threads.all fun e => decide (e.2.posted < w.stamp)

/-- Pages that a team's access still needs a walk for: no cache holds them, and no walk has returned (R157, R395). -/
def State.unwalked (s : State) (h : Nat) (ps : List Nat) : List Nat :=
  ps.eraseDups.filter fun p => (s.cached (s.coreOf h) (s.wgOf h).launch.part p).isNone &&
    !(s.walksOf h).any fun w => w.vpage == p

/-- Pages whose walks a team's instruction waits for. -/
def Team.awaits (t : Team) : List Nat :=
  match t.stalled with
  | some (.walks ps _) => ps
  | some (.count _) => []
  | some (.copies _) => []
  | none => []

/-- `nextId` as it stood when that wait began. -/
def Team.since (t : Team) : Nat :=
  match t.stalled with
  | some (.walks _ n) => n
  | some (.count _) => 0
  | some (.copies _) => 0
  | none => 0

/-- Misses that a die's walker tracks: partition and page, in the order they came, one for each access (R395). -/
def State.misses (s : State) (die : Nat) : List (Nat × Nat) :=
  ((s.teams.filter fun e => dieOfCore (s.coreOf e.1) == die).mergeSort fun a b => a.2.since ≤ b.2.since).flatMap fun e =>
    e.2.awaits.map fun p => ((s.wg e.2.wg).launch.part, p)

/-- Its walks in progress: misses of one partition to one page share a walk, and 128 walks run at a time (R395). -/
def State.walksRunning (s : State) (die : Nat) : List (Nat × Nat) := (s.misses die).eraseDups.take 128

/-- An instruction waits at issue for walks, as many as the 4,096 misses that its die tracks leave room for (R157, R395). -/
def State.awaitWalks (s : State) (h : Nat) (ps : List Nat) : State :=
  let room := 4096 - (s.misses (dieOfCore (s.coreOf h))).length
  { s with nextId := s.nextId + 1 }.setTeam h { s.team h with stalled := some (.walks (ps.take room) s.nextId) }

/-- One lane's range, translation and permission (R154, R155). -/
def State.checkAsk (s : State) (h : Nat) (sp : Space) (k : Access) (addr : Addr) (n : Nat) :
    Except (XErr × Addr) (List Loc) :=
  match sp with
  | .scratch =>
    if addr.toNat + n ≤ s.spSize h then .ok (spLocs addr.toNat n)
    -- of a fragment's 4-byte words the first that fails (R157, R167)
    else .error (.fault, if n ≤ 8 then addr else addr + BitVec.ofNat 64 (4 * ((s.spSize h - addr.toNat) / 4)))
  | .global => translateBytes s (some (s.coreOf h)) (s.wgOf h).launch.part addr n k (s.walksOf h)

/-- What the checks of R157 leave: lanes to perform, and lanes that failed with the address that failed. -/
structure Checked where
  good : List LaneReq
  bad : List (Nat × XErr × Addr × Bool)
  deriving DecidableEq, Repr

def State.checkAll (s : State) (h : Nat) (sp : Space) (k : Access) : List Ask → Checked
  | [] => ⟨[], []⟩
  | q :: r =>
    let c := s.checkAll h sp k r
    match s.checkAsk h sp k q.addr q.n with
    | .ok bs => { c with good := ⟨q.lane, q.addr, bs, q.data, q.data2, []⟩ :: c.good }
    | .error x => { c with bad := (q.lane, x.1, x.2, sp == .scratch) :: c.bad }

/-- R157: the trap of the lanes that failed. -/
def State.raiseLanes (s : State) (h : Nat) (bad : List (Nat × XErr × Addr × Bool)) : State :=
  match bad with
  | [] => s
  | b :: _ =>
    s.raiseAt h (if bad.any fun b => b.2.1 == .fault then .memFault else .perm) 1 b.2.2.1 (maskOf (bad.map (·.1))) b.2.2.2

/-! ### Issue -/

/-- What a memory instruction's requests have in common. -/
structure MemForm where
  kind : ReqKind
  space : Space
  access : Access
  /-- natural alignment is required (R156) -/
  align : Bool
  dest : Dest
  sext : Bool
  reach : Reach
  acquire : Option Scope
  /-- waits for the counts first (R170, R171) -/
  release : Bool
  /-- forbidden in deterministic mode (R168, R171) -/
  noDet : Bool
  deriving DecidableEq, Repr

/-- The bytes of one lane's store, placed. -/
def LaneReq.placed (q : LaneReq) : List (Loc × Byte) := q.bytes.zip (leBytes q.bytes.length q.data)

/-- Bytes of a lane's access performed as one: all of an aligned access of up to 8 bytes, a 4-byte word of a longer one,
one byte of a misaligned one (R156, R305). -/
def LaneReq.unit (q : LaneReq) : Nat :=
  if 8 < q.bytes.length then 4 else if q.va.toNat % q.bytes.length == 0 then q.bytes.length else 1

/-- The bytes of a lane that are performed next. -/
def LaneReq.next (q : LaneReq) : List Loc := (q.bytes.drop q.read.length).take q.unit

/-- A lane of which `bs` more have been performed, if any of it is left. -/
def LaneReq.after (q : LaneReq) (bs : List Byte) : Option LaneReq :=
  if (q.read ++ bs).length < q.bytes.length then some { q with read := q.read ++ bs } else none

/-- What a store writes next: the bytes of `next`. -/
def LaneReq.nextPlaced (q : LaneReq) : List (Loc × Byte) := q.next.zip ((leBytes q.bytes.length q.data).drop q.read.length)

/-- A count of R19 is full. -/
def Team.full (t : Team) (load : Bool) : Bool := if load then t.loads ≥ 63 else t.stores ≥ 63

/-- What its instruction waits for at issue is not there: another team of the sector issues meanwhile (R19, R157, R173). -/
def State.noRoom (s : State) (h : Nat) : Bool :=
  let t := s.team h
  match t.stalled with
  | none => false
  | some (.count load) => t.full load
  | some (.copies n) => decide (65535 < t.batch t.openSlot + n)
  | some (.walks [] _) => decide (4096 ≤ (s.misses (dieOfCore (s.coreOf h))).length)
  | some (.walks (_ :: _) _) => true

/-- Whether an earlier load of the team to the same bytes is not performed when a store issues, or an earlier store to them not
shown: the store's bytes are not shown to its core and die before that (R163, R164). -/
def Team.hazard (t : Team) (id : Nat) (f : MemForm) (good : List LaneReq) : Bool :=
  f.kind == .store && f.space == .global &&
    good.any fun q => (t.before id .global q.bytes).any fun r => r.kind.isLoad || r.quiet

/-- A store's bytes are shown to its core's L1 lines and its die's guest copies (R164). -/
def State.showStore (s : State) (core : Nat) (qs : List LaneReq) : State :=
  qs.foldl (fun s q => (s.writeL1 core q.placed).writeGuest (dieOfCore core) q.placed) s

/-- The request leaves issue; a global store updates this core's L1 lines and this die's guest copies (R164). -/
def State.issueReq (s : State) (h : Nat) (f : MemForm) (good : List LaneReq) : State :=
  if good.isEmpty then
    match f.acquire with
    | some c => s.acquire h c
    | none => s
  else
    let t := s.team h
    let c := s.ctx h
    let core := s.coreOf h
    let die := dieOfCore core
    let r : Req :=
      { id := s.nextId, kind := f.kind, space := f.space, dest := f.dest, sext := f.sext, reach := f.reach,
        acquire := f.acquire, pc := c.pc, widx := c.widx, word := (c.instrWords 1).setWidth 32, todo := good, back := [],
        deps := Store.get [] s.dieSeen die, pois := [], quiet := t.hazard s.nextId f good, applied := [] }
    let s := { s with nextId := s.nextId + 1 }.setTeam h { t with reqs := t.reqs ++ [r] }
    match f.kind, f.space with
    | .store, .global => if r.quiet then s else s.showStore core good
    | _, _ => s

/-- Pages for whose walks an instruction's accesses wait: none in the scratchpad. -/
def State.asksWalks (s : State) (h : Nat) (sp : Space) (asks : List Ask) : List Nat :=
  match sp with
  | .global => s.unwalked h (asks.flatMap fun q => vpagesOf q.addr q.n)
  | .scratch => []

/-- A one-word memory instruction of a team (R157): DET_VIOLATION, the release park, ALIGN, the wait for translation, the
address checks, the park on engine-owned pages, the wait at a full count, and then the request with the lanes that passed
and the trap of those that did not. -/
def State.memory (s : State) (h : Nat) (f : MemForm) (asks : List Ask) (sw : Bool) : State :=
  let t := s.team h
  if f.noDet && s.det h then s.raise h .detViolation 1
  else if f.release && (t.loads != 0 || t.stores != 0) then s.park h (.counts .switchMarker true false)
  else
    let odd := asks.filter fun q => f.align && q.addr.toNat % q.n != 0
    match odd with
    | q :: _ => s.raiseAt h .align 1 q.addr (maskOf (odd.map (·.lane))) (f.space == .scratch)
    | [] =>
    let walks := s.asksWalks h f.space asks
    if !walks.isEmpty then s.awaitWalks h walks
    else
      let c := s.checkAll h f.space f.access asks
      let pages := pagesOf (c.good.flatMap (·.bytes))
      if f.space == .scratch && (s.wgOf h).enginePage pages then s.park h (.pages pages)
      else if !c.good.isEmpty && t.full f.kind.isLoad then s.setTeam h { t with stalled := some (.count f.kind.isLoad) }
      else
        let id := s.nextId
        let s := s.issueReq h f c.good
        if c.bad.isEmpty then
          let s := s.done h 1 sw
          match f.acquire with
          | some _ => if c.good.isEmpty then s else s.park h (.landed id sw)
          | none => s
        else s.raiseLanes h c.bad

/-! ### Where a load's bytes come from (R164, R171, R298-R300) -/

/-- A line as a load may read it now, or what it waits for. -/
inductive Served where
  /-- the line is on its way -/
  | wait (f : Fill)
  /-- held back by a write of the die that some load of it has returned (R299, R302) -/
  | held
  /-- the line's bytes; poison of its halves; whether a copy of the die served it -/
  | line (data : BitVec 1024) (pois : BitVec 2) (copy : Bool)

/-- Poison of the halves of a line at its home. -/
def State.homePois (s : State) (line : Nat) : BitVec 2 :=
  bit (s.homePoison ⟨128 * line + 64, none⟩) ++ bit (s.homePoison ⟨128 * line, none⟩)

/-- The line at its home, once it is there or its miss fills nothing (R377). -/
def State.serveHome (s : State) (owner die : Nat) (l : Loc) (bs : List Loc) : Served :=
  let line := l.pa / 128
  if s.seenBlocks die bs then .held
  else if (s.homeLine line).isSome || s.fillMask owner (homeSlice l) == 0#16 then .line (s.homeData line) (s.homePois line) false
  else .wait ⟨line, l.pin, none, owner, none⟩

/-- The line in a die's L2: the home on this die, or the guest copy, filled no earlier than `fresh`; served from the home
where no guest copy may be filled. -/
def State.serveDie (s : State) (owner die fresh : Nat) (l : Loc) (bs : List Loc) : Served :=
  let line := l.pa / 128
  if s.homeDie l == die then s.serveHome owner die l bs
  else if s.seenAbroad die line then .held
  else
    match s.guestLine die line with
    | some e =>
      if fresh ≤ e.2.filled then .line e.2.data 0#2 true
      else .wait ⟨line, l.pin, some die, owner, none⟩
    | none =>
      if s.linePoison line || s.fillMask owner (guestSlice die l) == 0#16 then s.serveHome owner die l bs
      else .wait ⟨line, l.pin, some die, owner, none⟩

/-- A line with the bytes that teams of a core have stored and no home has applied. -/
def State.overlayCore (s : State) (core line : Nat) (d : BitVec 1024) : BitVec 1024 :=
  (pendingStores (s.coreReqs core) line).foldl (fun d p => setLineByte d p.1 p.2) d

/-- A core's line of L1 whose data dates from `fresh` or later. -/
def State.freshL1 (s : State) (core fresh line : Nat) : Option L1Line :=
  (s.l1Line core line).filter fun x => decide (fresh ≤ x.filled)

/-- A line as a load of a reach reads it. -/
def State.serve (s : State) (core owner fresh : Nat) (reach : Reach) (l : Loc) (bs : List Loc) : Served :=
  let die := dieOfCore core
  match reach with
  | .near =>
    match s.freshL1 core fresh (l.pa / 128) with
    | some x => .line x.data 0#2 true
    | none =>
      match s.serveDie owner die fresh l bs with
      | .line d p _ => .line (s.overlayCore core (l.pa / 128) d) p true
      | .wait f => .wait f
      | .held => .held
  | .die => s.serveDie owner die fresh l bs
  | .home => s.serveHome owner die l bs

/-- The use of the copy in a die's L2 that serves a load, or of the home (R377, R400). -/
def State.useDie (s : State) (owner die : Nat) (l : Loc) : State :=
  match s.guestLine die (l.pa / 128) with
  | some e => s.touch e.1
  | none => s.useHome owner l

/-- A core's line of L1 goes, and an older guest copy of its die is filled again (R163, R299). -/
def State.renew (s : State) (core owner : Nat) (l : Loc) : State :=
  let s := { s with l1 := Store.erase (l1Key core (l.pa / 128)) s.l1 }
  match s.guestLine (dieOfCore core) (l.pa / 128) with
  | some _ => s.fillGuest owner (dieOfCore core) l
  | none => s

/-- The moment from which the data that a die's L2 serves dates. -/
def State.dataAge (s : State) (die line : Nat) : Nat :=
  match s.guestLine die line with
  | some e => e.2.filled
  | none => s.now

/-- What serving a line leaves behind: recency; a near load fills the L1 (R164), and one served beyond the L1 leaves no
older L1 line, nor, at the home, an older guest copy (R299). DESIGN CHOICE: a line with a poisoned half fills no L1 line and no
guest copy (R164; log 66). -/
def State.afterServe (s : State) (core owner fresh : Nat) (reach : Reach) (l : Loc) (d : BitVec 1024) (p : BitVec 2) : State :=
  let die := dieOfCore core
  let line := l.pa / 128
  match reach with
  | .near =>
    match s.freshL1 core fresh line with
    | some _ => s
    | none =>
      let age := s.dataAge die line
      if p == 0#2 then (s.useDie owner die l).fillL1 core line d age else s.useDie owner die l
  | .die => { s.useDie owner die l with l1 := Store.erase (l1Key core line) s.l1 }
  | .home => (s.useHome owner l).renew core owner l

/-- The unapplied writes of a die to a list of bytes are now seen by it (R301). -/
def State.noteSeen (s : State) (die : Nat) (bs : List Loc) : State :=
  let ids := (s.teams.filter fun e => dieOfCore (s.coreOf e.1) == die).flatMap fun e =>
    (e.2.reqs.filter fun r => !r.kind.isLoad && !r.quiet && r.touches .global bs).map (·.id)
  let old := Store.get [] s.dieSeen die
  { s with dieSeen := Store.set [] s.dieSeen die (old ++ ids.filter fun i => !old.contains i) }

/-- Reads a list of bytes of global memory for a core, or says which fill it waits for. -/
inductive Fetched where
  | wait (f : Fill)
  | held
  | got (s : State) (bytes : List Byte) (pois : Bool)

/-- Reads places line by line (R164): `todo` gives each line's first place, in order. -/
def State.fetchLines (s : State) (core owner fresh : Nat) (reach : Reach) (bs : List Loc) :
    List Loc → State → List (Nat × BitVec 1024 × BitVec 2) → Fetched
  | [], s', got =>
    let val := fun (b : Loc) => match got.find? fun g => g.1 == b.pa / 128 with
      | some g => (lineByte g.2.1 (b.pa % 128), g.2.2.getLsbD (b.pa % 128 / 64))
      | none => (0#8, false)
    .got s' (bs.map fun b => (val b).1) (bs.any fun b => (val b).2)
  | l :: r, s', got =>
    match s'.serve core owner fresh reach l (bs.filter fun b => b.pa / 128 == l.pa / 128) with
    | .wait f => .wait f
    | .held => .held
    | .line d p copy =>
      let s' := s'.afterServe core owner fresh reach l d p
      let s' := if copy then s'.noteSeen (dieOfCore core) bs else s'
      s.fetchLines core owner fresh reach bs r s' ((l.pa / 128, d, p) :: got)

def State.fetchBytes (s : State) (core owner fresh : Nat) (reach : Reach) (bs : List Loc) : Fetched :=
  s.fetchLines core owner fresh reach bs (lineHeads bs) s []

/-- A miss joins the lines on their way. -/
def State.addFill (s : State) (f : Fill) : State := if s.fills.contains f then s else { s with fills := s.fills ++ [f] }

/-- Slices and sets that a fill changes: the home's, and a guest copy's. -/
def Fill.sets (f : Fill) : List (Nat × Nat) :=
  let l : Loc := ⟨128 * f.line, f.pin⟩
  (homeSlice l, setOf l) :: match f.guest with
    | some d => [(guestSlice d l, setOf l)]
    | none => []

/-- Two fills change one set. -/
def Fill.meets (f g : Fill) : Bool := f.sets.any fun x => g.sets.contains x

/-- Whether a load that the team issued earlier, or a lower lane of the same one, misses in a set that this miss fills and has
not reached it yet: the misses of a team reach a set in their order (R377, R380). DEDUCED (log 88). -/
def State.missAhead (s : State) (h : Nat) (r : Req) (q : LaneReq) (f : Fill) : Bool :=
  let t := s.team h
  t.reqs.any fun x => x.kind == .load && x.space == .global && x.todo.any fun y =>
    (decide (x.id < r.id) || x.id == r.id && decide (y.lane < q.lane)) &&
      match s.fetchBytes (s.coreOf h) (s.wgOf h).launch.part t.fresh x.reach y.next with
      | .wait g => g.meets f && !s.fills.contains g
      | .held => false
      | .got _ _ _ => false

/-! ### Landing -/

/-- A value of n bytes lands in its destination (R161, R167, R169). -/
def State.land (s : State) (h lane : Nat) (d : Dest) (sext : Bool) (n x : Nat) : State :=
  match d with
  | .none => s
  | .scalar r => s.setSreg h (BitVec.ofNat 6 r) (BitVec.ofNat 64 x)
  | .vec r =>
    let word := fun j : Nat => (BitVec.ofNat 32 (x / 2 ^ (32 * j)) : Word)
    let lo : Word := if sext then (if n == 1 then (BitVec.ofNat 8 x).signExtend 32 else (BitVec.ofNat 16 x).signExtend 32)
      else word 0
    (List.range ((n + 3) / 4)).foldl (fun s j =>
      s.setVreg h (r + j) ((s.vreg h (r + j)).setLane lane (if j == 0 then lo else word j))) s

def State.setReqs (s : State) (h : Nat) (f : List Req → List Req) : State :=
  s.setTeam h { s.team h with reqs := f (s.team h).reqs }

def Team.req (t : Team) (id : Nat) : Option Req := t.reqs.find? fun r => r.id == id

def State.putReq (s : State) (h : Nat) (r : Req) : State :=
  s.setReqs h fun rs => rs.map fun x => if x.id == r.id then r else x

/-- A team's park on the landing of a load ends (R171). -/
def State.landedWake (s : State) (h id : Nat) : State :=
  match (s.ctx h).status with
  | .parked (.landed i sw) =>
    if i == id then (s.setCtx h { s.ctx h with status := .ready }).marked h sw else s
  | .parked _ => s
  | .ready => s
  | .trapped => s
  | .stopped => s

/-- The MEM_POISON of a load or an atomic is armed (R159). -/
def Team.armPoison (t : Team) (r : Req) : Team :=
  match r.pois with
  | [] => t
  | p :: ps => { t with poison := t.poison ++
      [⟨r.pc, r.widx, maskOf (r.pois.map (·.1)), (ps.foldl (fun b q => if q.1 < b.1 then q else b) p).2, r.word⟩] }

/-- A request that is done in every lane leaves its count; a poisoned load's MEM_POISON is armed (R159); an acquire takes
effect (R171). DESIGN CHOICE: the record's address is that of the lowest poisoned lane for a load, and 0 for an atomic
(log 65). -/
def State.finishReq (s : State) (h id : Nat) : State :=
  match (s.team h).req id with
  | none => s
  | some r =>
    if !r.todo.isEmpty || !r.back.isEmpty then s
    else
      let t := s.team h
      let s := s.setTeam h ({ t with reqs := t.reqs.filter fun x => x.id != id }.armPoison r)
      let s := { s with dieSeen := (s.dieSeen.map fun (e : Nat × List Nat) => (e.1, e.2.filter (· != id))).filter fun e => !e.2.isEmpty }
      let s := match r.acquire with
        | some c => s.acquire h c
        | none => s
      s.landedWake h id

/-- The earlier requests of the team allow a lane of a request to be performed (R163): a load served near reads the
team's own stores, so it waits only for its atomics and loads, and for stores that its core does not show. -/
def Team.clearFor (t : Team) (r : Req) (q : LaneReq) : Bool :=
  (t.before r.id r.space q.bytes).all fun x =>
    r.kind == .load && r.space == .global && r.reach == .near && x.shown

/-- A lane of request `id` has read `bs` of its bytes, and lands once it has them all; a lane that has met poison is done
without landing (R156, R159). -/
def State.laneRead (s : State) (h : Nat) (r : Req) (q : LaneReq) (bs : List Byte) (pois : Bool) : State :=
  match if pois then none else q.after bs with
  | some q' =>
    s.setReqs h fun rs => rs.map fun y =>
      if y.id == r.id then { y with todo := y.todo.map fun z => if z.lane == q.lane then q' else z } else y
  | none =>
    (if pois then s else s.land h q.lane r.dest r.sext q.bytes.length (leNat (q.read ++ bs))).setReqs h fun rs =>
      rs.map fun y =>
        if y.id == r.id then
          { y with todo := y.todo.filter fun z => z.lane != q.lane,
                   pois := if pois then y.pois ++ [(q.lane, q.va)] else y.pois }
        else y

/-- One lane of a load, or the next part of it. -/
def State.loadLane (s : State) (h : Nat) (r : Req) (q : LaneReq) : State :=
  let t := s.team h
  if !t.clearFor r q then s
  else
    match r.space with
    | .scratch => s.laneRead h r q (q.next.map fun b => s.spByte t.wg b.pa) false
    | .global =>
      match s.fetchBytes (s.coreOf h) (s.wgOf h).launch.part t.fresh r.reach q.next with
      | .wait f => if s.missAhead h r q f then s else s.addFill f
      | .held => s
      | .got s' bs pois => s'.laneRead h r q bs pois

/-- Stores of a team that waited for its earlier loads are shown to its core and die once those are performed, in issue order
(R163, R164). -/
def State.showStores (s : State) (h : Nat) : State :=
  (s.team h).reqs.foldl (fun s r =>
    if r.quiet && r.todo.all fun q => ((s.team h).before r.id .global q.bytes).all fun x => !x.kind.isLoad && !x.quiet then
      (s.showStore (s.coreOf h) r.todo).putReq h { r with quiet := false }
    else s) s

/-- R169: the value an atomic writes; `n` bytes of old value, operand x, and CAS's second operand y. -/
def Aop.apply (op : Aop) (old x y : Nat) : Nat :=
  let w := fun n : Nat => (BitVec.ofNat 32 n : Word)
  match op with
  | .addI32 => (old + x) % 2 ^ 32
  | .addF32 => (Fmt.fp32.add old x).bits
  | .minS32 => if (w x).slt (w old) then x else old
  | .maxS32 => if (w old).slt (w x) then x else old
  | .minN32 => if x < old then x else old
  | .maxN32 => if old < x then x else old
  | .and => ((w old) &&& (w x)).toNat
  | .or => ((w old) ||| (w x)).toNat
  | .xor => ((w old) ^^^ (w x)).toNat
  | .exch => x
  | .cas => if old == x then y else old
  | .maxi => viPick true old x
  | .addF16x2 =>
    (Fmt.fp16.add (old % 2 ^ 16) (x % 2 ^ 16)).bits + 2 ^ 16 * (Fmt.fp16.add (old / 2 ^ 16) (x / 2 ^ 16)).bits
  | .addI64 => (old + x) % 2 ^ 64

/-- Every lane of an ATOMS, in increasing order with nothing between (R170). -/
def State.atomScratch (s : State) (h : Nat) (r : Req) (op : Aop) : State :=
  let g := (s.team h).wg
  let s := r.todo.foldl (fun s q =>
    match q.bytes with
    | [] => s
    | b :: _ =>
      let n := q.bytes.length
      let old := s.spNat g b.pa n
      (s.scratch g b.pa (leBytes n (op.apply old q.data q.data2))).land h q.lane r.dest false n old) s
  s.putReq h { r with todo := [] }

/-- LOAD_RETURN (R164): the return for the named lanes of request `id` of team `h` lands, in increasing lane order; a lane
whose data is not there yet, or that an earlier access of the team holds back, stays outstanding. -/
def State.loadReturn (s : State) (h id : Nat) (lanes : Mask) : State :=
  match (s.team h).req id with
  | none => s
  | some r =>
    match r.kind with
    | .load =>
      let s := (r.todo.filter fun q => lanes.getLsbD q.lane).foldl (fun s q =>
        match (s.team h).req id with
        | some r => s.loadLane h r q
        | none => s) s
      (s.finishReq h id).showStores h
    | .atom op =>
      match r.space with
      | .scratch => if r.todo.all fun q => (s.team h).clearFor r q then (s.atomScratch h r op).finishReq h id else s
      | .global =>
        let now := r.back.filter fun b => lanes.getLsbD b.1
        let n := match op with | .addI64 => 8 | _ => 4
        let s := now.foldl (fun s b =>
          match b.2 with
          | some x => s.land h b.1 r.dest false n x
          | none => s) s
        let s := s.putReq h { r with
          back := r.back.filter fun b => !lanes.getLsbD b.1,
          pois := r.pois ++ (now.filter fun b => b.2.isNone).map fun b => (b.1, 0#64) }
        s.finishReq h id
    | .store => s
    | .red _ => s

/-! ### Performing writes -/

/-- Causal predecessors of a write that no home has applied (R302). -/
def State.depsOpen (s : State) (ids : List Nat) : Bool :=
  ids.any fun id => s.teams.any fun e => e.2.reqs.any fun r => r.id == id && !r.todo.isEmpty && !r.kind.isLoad

/-- HOME_WRITE_APPLY (R302): the home performs the next lane of request `id` of team `h`, the lowest of those left
(R162, R170), once earlier accesses of the team to its bytes and its causal predecessors are performed. -/
def State.applyWrite (s : State) (h id lane : Nat) : State :=
  match (s.team h).req id with
  | none => s
  | some r =>
    match r.todo with
    | [] => s
    | q :: rest =>
      let t := s.team h
      let core := s.coreOf h
      let die := dieOfCore core
      let part := (s.wgOf h).launch.part
      if r.space != .global || r.quiet || q.lane != lane || !(t.before r.id .global q.bytes).isEmpty || s.depsOpen r.deps then s
      else
        let e := (s.wgOf h).entity
        match r.kind with
        | .load => s
        | .store =>
          let s := (s.keepCode e q.next).write part (some die) q.nextPlaced
          (s.putReq h { r with
            todo := (q.after (q.nextPlaced.map (·.2))).toList ++ rest,
            applied := r.applied ++ (linesOf q.next).map fun line => (line, s.now - 1) }).showOwn core q.next
        | .atom op =>
          let s := s.useAll part q.bytes
          let old := leNat (q.bytes.map s.homeByte)
          let pois := q.bytes.any s.homePoison
          let new := leBytes q.bytes.length (op.apply old q.data q.data2)
          let s := (s.keepCode e q.bytes).write part (some die) (q.bytes.zip new)
          let s := match q.bytes with | b :: _ => s.renew core part b | [] => s
          (s.putReq h { r with todo := rest, back := r.back ++ [(q.lane, if pois then none else some old)] }).showStores h
        | .red op =>
          let s := s.useAll part q.bytes
          let old := leNat (q.bytes.map s.homeByte)
          let new := leBytes q.bytes.length (op.apply old q.data q.data2)
          let s := (s.keepCode e q.bytes).write part (some die) (q.bytes.zip new)
          let s := match q.bytes with | b :: _ => s.renew core part b | [] => s
          s.putReq h { r with todo := rest }

/-- STORE_ACK (R19, R164, R165): the next lane of a store to the scratchpad is performed, or the next part of it (R156,
R162); a store or RED that the home has applied in every lane is acknowledged. -/
def State.storeAck (s : State) (h id : Nat) : State :=
  match (s.team h).req id with
  | none => s
  | some r =>
    if r.kind.isLoad then s
    else
      match r.space with
      | .scratch =>
        (match r.todo with
         | [] => s.finishReq h id
         | q :: rest =>
           if (s.team h).clearFor r q then
             let bs := q.nextPlaced.map (·.2)
             ((s.scratch (s.team h).wg ((q.next.map (·.pa)).headD 0) bs).putReq h
               { r with todo := (q.after bs).toList ++ rest }).finishReq h id
           else s)
      | .global =>
        if r.todo.isEmpty then (s.finishReq h id).dropStale (dieOfCore (s.coreOf h)) r else s

/-- Steps that perform everything a request has left at the scratchpad. -/
def Req.parts (r : Req) : Nat := r.todo.foldl (fun a q => a + q.bytes.length) 1

/-- A request of a team to the scratchpad is performed whole, in its lane order. -/
def State.performScratch (s : State) (h : Nat) (r : Req) : State :=
  (List.range r.parts).foldl (fun s _ =>
    if r.kind.isLoad then s.loadReturn h r.id (BitVec.allOnes 1024) else s.storeAck h r.id) s

end Sys2Proof.Machine
end

