-- ==== Sys2Proof/Machine/Mgmt.lean ====
section
/-! DEFINITION. The physical address map as control cores and hosts reach it: HBM4, the management window and the
capability space, with the start request and the attestation request (R407, R409, R413-R416, R420-R422). -/

namespace Sys2Proof.Machine

/-! ### Parts -/

def State.port (s : State) (p : Nat) : Port := Store.get Port.blank s.ports p
def State.setPort (s : State) (p : Nat) (x : Port) : State := { s with ports := Store.set Port.blank s.ports p x }
def State.window (s : State) (w : Nat) : Window := Store.get Window.blank s.windows w
def State.setWindow (s : State) (w : Nat) (x : Window) : State := { s with windows := Store.set Window.blank s.windows w x }
def State.vector (s : State) (fn v : Nat) : Vector := Store.get Vector.blank s.vectors (fn * 2048 + v)
def State.setVector (s : State) (fn v : Nat) (x : Vector) : State :=
  { s with vectors := Store.set Vector.blank s.vectors (fn * 2048 + v) x }
def State.core (s : State) (c : Nat) : Core := Store.get Core.blank s.cores c
def State.setCore (s : State) (c : Nat) (x : Core) : State := { s with cores := Store.set Core.blank s.cores c x }
def State.cluster (s : State) (c : Nat) : Cluster := Store.get Cluster.blank s.clusters c
def State.setCluster (s : State) (c : Nat) (x : Cluster) : State :=
  { s with clusters := Store.set Cluster.blank s.clusters c x }

/-- Cluster of a physical core (R2). -/
def clusterOf (core : Nat) : Nat := core / 16

def State.send (s : State) (m : Msg) : State := { s with msgs := m :: s.msgs }

/-- An MSI-X vector's event (R413): it fires, or sets its pending bit while masked. -/
def State.msix (s : State) (fn v : Nat) : State :=
  let x := s.vector fn v
  if x.masked then s.setVector fn v { x with pending := true } else s.send (.msix fn v x.addr x.data)

/-- An event raised at the control cores, with its EVAL (R231, R368): it is pending for every thread. -/
def State.raiseEvent (s : State) (code : Nat) (val : DWord) : State :=
  { s with threads := s.threads.map fun (e : Nat × Thread) => (e.1, { e.2 with events := e.2.events ++ [(code, val)] }) }

/-! ### Registers of the management window -/

/-- STARTSTAT (R421). -/
def Start.stat (x : Start) : DWord :=
  BitVec.ofNat 64 (x.kind % 4 + 4 * (x.step % 16) + 64 * x.ready.toNat + 128 * x.hold.toNat + 256 * (x.fails % 4) +
    1024 * x.warmok.toNat + 2048 * (x.cause % 32))

/-- PORTCFG (R415). -/
def Port.portcfg (p : Port) : DWord := (bit p.retrying ++ bit p.linkup ++ p.cfg).setWidth 64

/-- A PORTCFG write whose fields lie in their ranges; any other is ignored whole (R415). -/
def portcfgOk (v : DWord) : Bool :=
  let ls := (v.extractLsb' 10 4).toInt
  let lp := (v.extractLsb' 14 4).toInt
  decide (-7 ≤ ls ∧ ls ≤ 0 ∧ -4 ≤ lp ∧ lp ≤ 0)

def State.writePortcfg (s : State) (p : Nat) (v : DWord) : State :=
  if p < 24 && portcfgOk v then s.setPort p { s.port p with cfg := v.setWidth 18 } else s

/-- ATTEST_GO (R407): NONCE is taken and the window is busy. -/
def State.attestGo (s : State) (w : Nat) : State :=
  let x := s.window w
  if x.stat == 1 then s else s.setWindow w { x with stat := 1, taken := x.nonce }

/-- A partition that a start ends: what it has used stays counted (R401). -/
def Partition.ended (p : Partition) : Partition := { Partition.blank with meters := p.meters }

/-- What a start leaves of the state before its first step (R344, R401, R420, R422): HBM4, the L2 until step 8, the management
window's registers, the meters, and the flash (log 10). -/
def State.beginStart (s : State) (cold : Bool) : State :=
  { State.reset with
    agenda := s.agenda, nextId := s.nextId, freeCtr := s.freeCtr, now := s.now, mem := s.mem, poison := s.poison, l2 := s.l2,
    ways := s.ways.filter fun e => decide (e.1 < 1024), parts := s.parts.map fun e => (e.1, e.2.ended), ports := s.ports, routes := s.routes, timeseed := s.timeseed,
    vectors := s.vectors, pkg := s.pkg, msgs := s.msgs, serial := s.serial,
    time := if cold then 0#64 else s.time,
    clock := if cold then State.reset.clock else s.clock,
    ptp := s.ptp,
    election := { State.reset.election with pod := s.election.pod, candidates := s.election.candidates, voted := s.election.voted,
                                            epoch := s.election.epoch },
    start := { s.start with kind := if cold then 1 else 2, step := 0, ready := false, hold := false, cause := 0, busy := true,
                            seed := none } }

/-- START_REQUEST (R414, R422): 1 asks for a cold start, 2 for a warm one, which WARMOK and a saved training set must
permit; a request while a start runs is ignored. -/
def State.startRequest (s : State) (v : DWord) : State :=
  if s.start.busy then s
  else if v == 1#64 then s.beginStart true
  else if v == 2#64 then s.beginStart (!(s.start.warmok && s.start.trained.isSome))
  else s

/-- Byte of a 64-bit register. -/
def dwByte (v : DWord) (i : Nat) : Byte := v.extractLsb' (8 * i) 8
/-- A 64-bit register with one byte replaced. -/
def setDwByte (v : DWord) (i : Nat) (b : Byte) : DWord :=
  (v &&& ~~~((0xFF#64) <<< (8 * i))) ||| ((b.setWidth 64) <<< (8 * i))

/-- An attestation window's eight bytes at offset o (R407). -/
def Window.read (x : Window) (o : Nat) : DWord :=
  if o < 0x40 then x.nonce.extractLsb' (8 * o) 64
  else if o == 0x40 then x.buf
  else if o == 0x50 then BitVec.ofNat 64 x.stat
  else 0#64

def State.windowWrite (s : State) (w o : Nat) (v : DWord) : State :=
  let x := s.window w
  if o < 0x40 then
    s.setWindow w { x with nonce := (x.nonce &&& ~~~((BitVec.ofNat 512 (2 ^ 64 - 1)) <<< (8 * o))) ||| ((v.setWidth 512) <<< (8 * o)) }
  else if o == 0x40 then s.setWindow w { x with buf := v }
  else if o == 0x48 then (if v == 1#64 then s.attestGo w else s)
  else s

/-- Eight bytes of a function's MSI-X table of 128 vectors at offset o, or of its pending-bit array from offset 0x800; what
lies beyond the array reads zero (R10, R413). -/
def State.msixRead (s : State) (fn o : Nat) : DWord :=
  if o < 0x800 then
    let x := s.vector fn (o / 16)
    if o % 16 == 0 then x.addr else (BitVec.ofNat 32 x.masked.toNat) ++ x.data
  else
    BitVec.ofNat 64 ((List.range 64).foldl (fun a i =>
      if 8 * (o - 0x800) + i < 128 && (s.vector fn (8 * (o - 0x800) + i)).pending then a + 2 ^ i else a) 0)

/-- MSIX_VECTOR_UNMASK (R413): a pending vector fires once it is unmasked. -/
def State.unmask (s : State) (fn v : Nat) : State :=
  let x := s.vector fn v
  let s := s.setVector fn v { x with masked := false, pending := false }
  if x.masked && x.pending then s.send (.msix fn v x.addr x.data) else s

/-- A write of a function's MSI-X table, or of its pending-bit array, which is read and write too (R412, R414): a written
bit is the vector's pending bit, and fires as any other once the vector is unmasked (DESIGN CHOICE, log 92). -/
def State.msixWrite (s : State) (fn o : Nat) (v : DWord) : State :=
  if o < 0x800 then
    let k := o / 16
    let x := s.vector fn k
    if o % 16 == 0 then s.setVector fn k { x with addr := v }
    else
      let s := s.setVector fn k { x with data := v.setWidth 32, masked := x.masked || v.getLsbD 32 }
      if v.getLsbD 32 then s else s.unmask fn k
  else if o < 0x810 then
    (List.range 64).foldl (fun s i =>
      let k := 8 * (o - 0x800) + i
      s.setVector fn k { s.vector fn k with pending := v.getLsbD i }) s
  else s

/-- The level a byte of the management window asks for (R414, R415): hypervisor where these rules say so, and none
elsewhere. -/
def mgmtLevel (o : Nat) : Nat :=
  if (0x100 ≤ o && o < 0x100 + 16 * 24) || (0x2008 ≤ o && o < 0x2010) || (0x3000 ≤ o && o < 0x3058) ||
    (0x8000 ≤ o && o < 0xA000) || 0xFF000 ≤ o then 2
  else 0

/-- Eight bytes of the management window (R414). -/
def State.mgmtRead (s : State) (o : Nat) : DWord :=
  if o == 0 then s.start.stat
  else if 0x100 ≤ o && o < 0x100 + 16 * 24 then
    (if o % 16 == 0 then (s.port ((o - 0x100) / 16)).portcfg else (s.port ((o - 0x100) / 16)).asym)
  else if 0x1000 ≤ o && o < 0x1000 + 2592 then
    BitVec.ofNat 64 (leNat ((List.range 8).map fun i => Config.identityKey (o - 0x1000 + i)))
  else if o == 0x2008 then s.timeseed
  else if 0x3000 ≤ o && o < 0x3058 then (s.window 0).read (o - 0x3000)
  else if 0x8000 ≤ o && o < 0xA000 then
    BitVec.ofNat 64 ((List.range 4).foldl (fun a i =>
      a + (Store.get 0#16 s.routes ((o - 0x8000) / 2 + i)).toNat * 2 ^ (16 * i)) 0)
  else if 0xFF000 ≤ o && o < 0x100000 then s.msixRead 0 (o - 0xFF000)
  else 0#64

/-- REGISTER_WRITE (R414): eight bytes written to the management window. -/
def State.mgmtWrite (s : State) (o : Nat) (v : DWord) : State :=
  if 0x100 ≤ o && o < 0x100 + 16 * 24 then
    let p := (o - 0x100) / 16
    if o % 16 == 0 then s.writePortcfg p v else s.setPort p { s.port p with asym := v }
  else if o == 0x2000 then s.startRequest v
  else if o == 0x2008 then { s with timeseed := v, start := { s.start with seed := some (v, s.time) } }
  else if 0x3000 ≤ o && o < 0x3058 then s.windowWrite 0 (o - 0x3000) v
  else if 0x8000 ≤ o && o < 0xA000 then
    (List.range 4).foldl (fun s i =>
      let r := (v.extractLsb' (16 * i) 16) &&& 0x0FFF#16
      { s with routes := Store.set 0#16 s.routes ((o - 0x8000) / 2 + i) r }) s
  else if 0xFF000 ≤ o && o < 0x100000 then s.msixWrite 0 (o - 0xFF000) v
  else s

/-- Bytes written to the management window, register by register: a register written in part keeps its other bytes. -/
def State.mgmtWriteBytes (s : State) (o : Nat) (bs : List Byte) : State :=
  let regs := (List.range ((o + bs.length + 7) / 8 - o / 8)).map fun i => (o / 8 + i) * 8
  regs.foldl (fun s r =>
    let v := (List.range 8).foldl (fun v i =>
      if o ≤ r + i && r + i < o + bs.length then setDwByte v i (bs.getD (r + i - o) 0#8) else v) (s.mgmtRead r)
    s.mgmtWrite r v) s

/-! ### Capability space -/

/-- Payloads of the ten records of R416, in id order. -/
def capPayloads : List Nat :=
  [0x0110100004100C0C, 0x00000000000F1F07, 1, 1, 0x0401, 1,
   0x01000186A0FF, 0x00400032000A, 0x010A, 0x004000C8081888B5]

/-- The eight bytes of capability space at a multiple of 8 (R416). -/
def capRead (o : Nat) : DWord :=
  let k := o / 16
  if 10 ≤ k then 0#64
  else if o % 16 == 0 then
    BitVec.ofNat 64 ((k + 1) + 2 ^ 16 + 2 ^ 24 + 2 ^ 32 * (if k == 9 then 0 else 16 * (k + 1)))
  else BitVec.ofNat 64 (capPayloads.getD k 0)

/-! ### Physical accesses -/

/-- What a physical address names (R409). -/
inductive Region where
  | hbm | mgmt | cap | none
  deriving DecidableEq, Repr

def regionOf (pa : Nat) : Region :=
  if pa < hbmTop then .hbm
  else if 0x000F000000000000 ≤ pa && pa < 0x000F000000100000 then .mgmt
  else if 0x000F000000100000 ≤ pa && pa < 0x000F000000110000 then .cap
  else .none

/-- The first byte of a physical access that fails, with its trap: an unassigned address, or a register above the level
of the thread (R409, R414, log 11). -/
def physCheck (pa n level : Nat) : Option (TrapCode × Nat) :=
  (List.range n).findSome? fun i =>
    match regionOf (pa + i) with
    | .hbm => none
    | .cap => none
    | .none => some (.memFault, pa + i)
    | .mgmt => if level < mgmtLevel (pa + i - 0x000F000000000000) then some (.perm, pa + i) else none

/-- The byte at a physical address; what lies beyond every region reads 0 (`physCheck` stops such an access). -/
def State.physByte (s : State) (pa : Nat) : Byte :=
  match regionOf pa with
  | .hbm => s.homeByte ⟨pa, none⟩
  | .mgmt =>
    let o := pa - 0x000F000000000000
    dwByte (s.mgmtRead (o / 8 * 8)) (o % 8)
  | .cap =>
    let o := pa - 0x000F000000100000
    dwByte (capRead (o / 8 * 8)) (o % 8)
  | .none => 0#8

/-- Bytes from a physical address, each of its own region (R409). -/
def State.physRead (s : State) (pa n : Nat) : List Byte := (List.range n).map fun i => s.physByte (pa + i)

def State.physPoison (s : State) (pa n : Nat) : Bool :=
  regionOf pa == .hbm && (List.range n).any fun i => s.homePoison ⟨pa + i, none⟩

/-- A physical read's use of the lines it reads (R377, R397). -/
def State.usePhys (s : State) (owner pa n : Nat) : State :=
  match regionOf pa with
  | .hbm => ((List.range ((pa + n + 127) / 128 - pa / 128)).map fun i => s.physLoc owner (128 * (pa / 128 + i))).foldl
      (fun s l => s.useHome owner l) s
  | .mgmt => s
  | .cap => s
  | .none => s

/-- A write on an owner's account; capability space, and what of the write lies in it, is read-only. -/
def State.physWrite (s : State) (owner pa : Nat) (bs : List Byte) : State :=
  match regionOf pa with
  | .hbm => s.write owner none (bs.zipIdx.map fun p => (s.physLoc owner (pa + p.2), p.1))
  | .mgmt => s.mgmtWriteBytes (pa - 0x000F000000000000) (bs.take (0x000F000000100000 - pa))
  | .cap => s
  | .none => s

end Sys2Proof.Machine
end

