-- ==== Sys2Proof/Machine/Fabric.lean ====
section
/-! DEFINITION. Sending on the fabric: routes, the link sequence and the retry buffers (R383, R417-R419), and the bytes of a
frame. -/

namespace Sys2Proof


/-- A frame that a package originates. -/
def Frame.make (part cls : Nat) (src dst : Nat) (payload : List Byte) : Frame :=
  { lseq := 0#16, lack := 0#16, part := BitVec.ofNat 8 part, cls := BitVec.ofNat 8 cls, inc := 0#8,
    nflit := BitVec.ofNat 8 ((payload.length + 63) / 64), job := 0#32, slot := 0#32, group := 0#32, chunk := 0#64,
    srcpkg := BitVec.ofNat 16 src, dstpkg := BitVec.ofNat 16 dst, plen := BitVec.ofNat 32 payload.length, hops := 0#8,
    zeros := true, desc := [], payload := payload }

/-- The 64-byte header flit (R417). -/
def Frame.header (f : Frame) : List Byte :=
  Machine.leBytes 2 f.lseq.toNat ++ Machine.leBytes 2 f.lack.toNat ++ [f.part, f.cls, f.inc, f.nflit] ++ Machine.leBytes 4 f.job.toNat ++
    Machine.leBytes 4 f.slot.toNat ++ Machine.leBytes 4 f.group.toNat ++ Machine.leBytes 4 0 ++ Machine.leBytes 8 f.chunk.toNat ++
    Machine.leBytes 2 f.srcpkg.toNat ++ Machine.leBytes 2 f.dstpkg.toNat ++ Machine.leBytes 4 f.plen.toNat ++ [f.hops] ++ Machine.leBytes 23 0

/-- The bytes of a packet: header flit and payload flits, the last padded with zeros. -/
def Frame.bytes (f : Frame) : List Byte :=
  f.header ++ f.payload ++ Machine.leBytes (64 * f.nflit.toNat - f.payload.length) 0

/-- Bytes of the Ethernet frame (R417). -/
def Frame.size (f : Frame) : Nat := 14 + 64 + 64 * f.nflit.toNat + 4

/-- The chunk a job packet names, and the number of its collective on the group (log 15). -/
def Frame.chunkNo (f : Frame) : Nat := f.chunk.toNat % 2 ^ 40
def Frame.ordinal (f : Frame) : Nat := f.chunk.toNat / 2 ^ 40
/-- Bytes a packet takes in a pen (R362). -/
def Frame.penBytes (f : Frame) : Nat := 64 + 64 * f.nflit.toNat

/-- A job packet: every class but the trap classes and a bare acknowledgement (R359). -/
def Frame.isJob (f : Frame) : Bool := f.cls == 1#8 || f.cls == 2#8 || f.cls == 3#8 || f.cls == 6#8
/-- Trap records and replies. -/
def Frame.isTrap (f : Frame) : Bool := f.cls == 4#8 || f.cls == 5#8

/-- A header that R417's table allows. -/
def Frame.headerOk (f : Frame) : Bool :=
  f.zeros && decide (f.cls.toNat ≤ 6 ∧ f.nflit.toNat ≤ 64 ∧ f.plen.toNat ≤ 64 * f.nflit.toNat ∧
    f.payload.length = f.plen.toNat) && (f.cls != 6#8 || f.chunk == 1#64 || f.chunk == 2#64) && (f.cls != 0#8 || f.nflit == 0#8) && (f.isTrap || f.cls == 0#8 || (decide (1 ≤ f.part.toNat) && decide (f.part.toNat ≤ 63)))

end Sys2Proof

namespace Sys2Proof.Machine

/-- Whether a port is up. -/
def State.portUp (s : State) (p : Nat) : Bool := decide (p < 24) && (s.port p).linkup

/-- The ports the route table names for a package, in order: primary, alternate (R418). DESIGN CHOICE: a DSTPKG of 4,096 or
above, which no package of a pod has (R5), is routed by its low 12 bits (log 62). -/
def State.routePorts (s : State) (dst : Nat) : List Nat :=
  let r := Store.get 0#16 s.routes (dst % 4096)
  (if r.getLsbD 5 then [(r.extractLsb' 0 5).toNat] else []) ++ (if r.getLsbD 11 then [(r.extractLsb' 6 5).toNat] else [])

/-- The port a frame to a package leaves on: the first of the two that is up. -/
def State.route (s : State) (dst : Nat) : Option Nat := (s.routePorts dst).find? fun p => s.portUp p

/-- The port a partition's job packet is injected on: as `route`, among the ports the partition owns (R383, R418). -/
def State.jobRoute (s : State) (part dst : Nat) : Option Nat :=
  (s.routePorts dst).find? fun p => s.portUp p && (s.part part).ports.getLsbD p

/-- Sends a frame on a port, with its link sequence and the acknowledgement of what has come in; it stays in the retry
buffer until acknowledged, and the first that does begins the wait for a LACK (R419). -/
def State.enqueue (s : State) (p : Nat) (f : Frame) : State :=
  let x := s.port p
  let f := { f with lseq := x.nextOut, lack := x.nextIn - 1#16 }
  (s.setPort p { x with nextOut := x.nextOut + 1#16, buffer := x.buffer ++ [f], resent := x.resent ++ [0],
                         since := if x.buffer.isEmpty then s.time else x.since }).send (.frame p f)

/-- The partition's fabric meter counts a job packet that the package transmits once (R400). -/
def State.transmit (s : State) (p : Nat) (f : Frame) : State :=
  let s := if f.isJob && (s.part f.part.toNat).live then s.meterAdd f.part.toNat 6 f.size else s
  s.enqueue p f

/-- A port whose retry buffer has room. -/
def State.portRoom (s : State) (p : Nat) : Bool := decide ((s.port p).buffer.length < 512)

/-- SLOT: SEQ of the entry in force, or 0 (R349, R351). -/
def Partition.slotSeq (p : Partition) : Word :=
  match p.force with
  | some f => f.entry.seq
  | none => 0#32

/-- Injects a job packet of a partition, with SLOT as it stands then (R359); none where no port of it leads there or its buffer is full. -/
def State.inject (s : State) (f : Frame) : Option State :=
  match s.jobRoute f.part.toNat f.dstpkg.toNat with
  | none => none
  | some p => if s.portRoom p then some (s.transmit p { f with slot := (s.part f.part.toNat).slotSeq }) else none

/-- Sends a trap record or reply, on any port that leads there; it waits where none is up (R419). -/
def State.sendTrap (s : State) (f : Frame) : State :=
  match s.route f.dstpkg.toNat with
  | none => { s with stuck := s.stuck ++ [f] }
  | some p => if s.portRoom p then s.transmit p f else { s with stuck := s.stuck ++ [f] }

end Sys2Proof.Machine
end

