-- ==== Sys2Proof/Machine/Records.lean ====
section
/-! DEFINITION. Fault records and foal records, and their way to the fault server (R264-R266, R268, R370, R371). -/

namespace Sys2Proof.Machine

/-! ### Foal records -/

def FoalKind.code : FoalKind → Nat
  | .matrix => 0 | .copy => 1 | .lanebatch => 2 | .coll => 3
def FoalStatus.code : FoalStatus → Nat
  | .running => 0 | .done => 1 | .fault => 2 | .cancelled => 3 | .frozen => 5
def Level.code : Level → Nat
  | .attached => 0 | .workgroup => 1 | .launch => 2 | .graph => 3 | .phase => 4 | .job => 5

/-- The token of a foal in a slot (R253). -/
def Foal.token (f : Foal) (slot : Nat) : DWord := BitVec.ofNat 64 (slot + 2 ^ 8 * f.gen.toNat + 2 ^ 20 * f.kind.code)

/-- STATE of a foal record (R265). -/
def Foal.stateWord (f : Foal) : Nat :=
  f.kind.code + 2 ^ 4 * f.status.code + 2 ^ 8 * (f.prio % 8) + 2 ^ 11 * (f.chain % 4) + 2 ^ 13 * f.detached.toNat +
    2 ^ 14 * f.regdest.toNat + 2 ^ 15 * f.depv.toNat + 2 ^ 16 * f.canreq.toNat

/-- ORIGIN of a foal record (R264). -/
def Foal.originWord (f : Foal) : Nat :=
  let id := match f.level with
    | .attached => f.origin.launch
    | .workgroup => f.origin.launch
    | .launch => f.origin.launch
    | .graph => f.origin.graph
    | .phase => f.origin.phase
    | .job => f.origin.job
  f.teamix % 16 + 16 * f.level.code + 2 ^ 8 * (f.wgix % 2 ^ 24) + 2 ^ 32 * id.toNat

/-- AHEAD of a copy's resume state (R268). -/
def CopyJob.aheadBits (j : CopyJob) : Nat :=
  (List.range 64).foldl (fun a i => if j.ahead.contains (j.restart + 1 + i) then a + 2 ^ i else a) 0

/-- The 64 bytes of RESUME (R268). -/
def Job.resume : Job → List Byte
  | .mma _ => leBytes 64 0
  | .tmma j => if j.frozen then leBytes 32 j.mm.toNat ++ leBytes 32 j.mn.toNat else leBytes 64 0
  | .copy j => leBytes 8 j.restart ++ leBytes 8 j.aheadBits ++ leBytes 4 j.iter ++ leBytes 1 j.rslot ++ leBytes 43 0
  | .batch k => leBytes 1 k ++ leBytes 63 0
  | .coll j => leBytes 8 j.nextSend ++ leBytes 8 (j.acked + 2 ^ 64 - 1) ++ leBytes 8 j.recvd ++ leBytes 4 j.r ++ leBytes 36 0

/-- The 128-byte foal record (R264). -/
def Foal.record (f : Foal) (slot : Nat) : List Byte :=
  leBytes 4 (f.token slot).toNat ++ leBytes 4 f.stateWord ++ leBytes 8 f.originWord ++ leBytes 8 f.progress ++
    leBytes 8 (match f.fcode with | some c => c.num | none => 0) ++ leBytes 8 f.faddr.toNat ++ leBytes 8 f.flanes.toNat ++
    leBytes 16 0 ++ f.job.resume

/-! ### The cores of saved contexts -/

/-- First virtual core: physical cores are below it. -/
def savedBase : Nat := 4096
/-- The core number under which the workgroups and foals of a saved context stand in the state's stores. -/
def virtualCore (part slot : Nat) : Nat := savedBase + part * 8192 + slot

/-- The physical core of a context: for a saved one the core of its halt (R364, R370). -/
def State.physCore (s : State) (core : Nat) : Nat :=
  if core < savedBase then core
  else match Store.find ((core - savedBase) % 8192) (s.part ((core - savedBase) / 8192)).images with
    | some x => x.core
    | none => core

/-! ### Fault records -/

/-- What every fault record holds of its place. -/
structure Place where
  part : Nat
  core : Nat
  teamix : Nat
  wgix : Nat
  job : Word
  launch : Word
  graph : Word
  deriving DecidableEq, Repr

/-- MASKSUM, MASKLO and MASKPAIR of a faulted-lane mask (R370). -/
def maskSum (m : Mask) : Nat × DWord × Nat :=
  let p := ((List.range 16).find? fun p => m.extractLsb' (64 * p) 64 != 0#64).getD 0
  ((execSum m).toNat, m.extractLsb' (64 * p) 64, p)

/-- The 128-byte fault record (R370). -/
def State.faultRecord (s : State) (w : Place) (r : TrapRec) (foalrec : Bool) : List Byte :=
  let ms := maskSum r.lanes
  leBytes 8 (r.handle.getD 0#64).toNat ++ leBytes 2 r.code.num ++ leBytes 1 r.widx ++
    leBytes 1 (foalrec.toNat + 2 * r.out.toNat + 4 * r.replay.toNat + 8 * r.spaddr.toNat) ++ leBytes 1 w.part ++
    leBytes 1 w.teamix ++ leBytes 2 (s.physCore w.core) ++ leBytes 8 r.pc.toNat ++ leBytes 8 r.addr.toNat ++ leBytes 4 w.job.toNat ++
    leBytes 4 (s.core w.core).cgen.toNat ++ leBytes 8 r.time.toNat ++ leBytes 4 w.launch.toNat ++ leBytes 4 w.wgix ++
    leBytes 4 w.graph.toNat ++ leBytes 4 (s.part w.part).slotSeq.toNat ++ leBytes 4 ms.1 ++ leBytes 4 0 ++
    leBytes 8 ms.2.1.toNat ++ leBytes 1 ms.2.2 ++ leBytes 7 0 ++ leBytes 8 r.instr.toNat ++ leBytes 32 0

/-- Place of a team. -/
def State.placeOf (s : State) (h : Nat) : Place :=
  let g := s.wgOf h
  ⟨g.launch.part, g.core, (s.team h).teamix, g.wgix, g.launch.job, g.launch.launch, g.launch.graph⟩

/-! ### Sending -/

/-- The next handle (R241). -/
def State.newHandle (s : State) : State × DWord :=
  let ser := s.serial + 1
  ({ s with serial := ser }, BitVec.ofNat 64 (ser.toNat + 2 ^ 32 * s.pkg))

/-- Writes a record at TQTAIL, if the trap queue has room for it, and raises the arrival (R231, R371). The queue's indices
run freely and slot i is record i mod TQSIZE (log 12). -/
def State.queueRecord (s : State) (handle : DWord) (bytes : List Byte) : Option State :=
  let n := bytes.length / 128
  if s.tqsize.toNat < (s.tqtail - s.tqhead).toNat + n then none
  else
    let s := (List.range n).foldl (fun s i =>
      s.physWrite 0 (s.tqbase.toNat + 128 * ((s.tqtail.toNat + i) % s.tqsize.toNat)) ((bytes.drop (128 * i)).take 128)) s
    some ({ s with tqtail := s.tqtail + BitVec.ofNat 64 n, queued := handle :: s.queued }.raiseEvent 0x100 0#64)

/-- No way leads to the fault server of a partition: it is another package that no route reaches, or that the configured
pod does not hold (R371). -/
def State.unreachable (s : State) (part : Nat) : Bool :=
  let dst := (s.part part).fsrv
  dst != s.pkg && ((s.route dst).isNone || (!s.election.pod.isEmpty && !s.election.pod.contains dst))

/-- Sends one record to the package FSRV names: into this package's own queue, or over the fabric; none where the queue is
full or no route is up (R371). -/
def State.sendRecord (s : State) (m : TrapMsg) : Option State :=
  let dst := (s.part m.part).fsrv
  if dst == s.pkg then s.queueRecord m.handle m.bytes
  else if s.unreachable m.part then none
  else match s.route dst with
    | none => none
    | some p => if s.portRoom p then some (s.transmit p (Frame.make m.part 4 s.pkg dst m.bytes)) else none

/-- The waiting records are tried in order; those of one partition keep theirs. -/
def State.flush (s : State) : State :=
  s.records.foldl (fun s m =>
    match s.records.find? fun x => x.part == m.part with
    | none => s
    | some x =>
      match s.sendRecord x with
      | none => s
      | some s' => { s' with records := s'.records.erase x }) s

/-- A record joins those that wait, and is tried at once; it is logged where no way leads to the fault server. -/
def State.postRecord (s : State) (m : TrapMsg) : State :=
  let s := if s.unreachable m.part then s.send (.log 9 (s.part m.part).fsrv) else s
  { s with records := s.records ++ [m] }.flush

/-- A record of a trap that no team waits on: an orphan's (with its foal record) or a kill's for information (R266, R368). -/
def State.notifyServer (s : State) (w : Place) (code : TrapCode) (addr : DWord) (foalrec : List Byte) : State × DWord :=
  let (s, hd) := s.newHandle
  let r : TrapRec :=
    { code := code, pc := 0#64, widx := 0, addr := addr, lanes := 0#1024, instr := 0#64, spaddr := false, replay := false,
      out := false, handle := some hd, time := s.time, resumePark := none, len := 0, logged := false, under := none }
  (s.postRecord ⟨w.part, hd, s.faultRecord w r (!foalrec.isEmpty) ++ foalrec⟩, hd)

/-- FAULT_RECORD_SEND (R371): a trapped team whose counts are 0 sends its record. A team saved at a switch sends it after its
restore (R358), one switched out under R373 sends it with OUT. -/
def State.faultRecordSend (s : State) (h : Nat) : State :=
  let t := s.team h
  let out := match (s.wgOf h).saved with
    | some n => match Store.find n (s.part (s.wgOf h).launch.part).images with
      | some x => some x.out
      | none => some false
    | none => none
  match t.trap with
  | none => s
  | some r =>
    if !t.unsent || t.loads != 0 || t.stores != 0 || out == some false then s
    else
      let r := { r with out := r.out || out == some true }
      let w := s.placeOf h
      match s.sendRecord ⟨w.part, r.handle.getD 0#64, s.faultRecord w r false⟩ with
      | none =>
        if s.unreachable w.part && !r.logged then
          (s.send (.log 9 (s.part w.part).fsrv)).setTeam h { t with trap := some { r with logged := true } }
        else s
      | some s' => s'.setTeam h { s'.team h with unsent := false, trap := some r }

end Sys2Proof.Machine
end

