-- ==== Sys2Proof/Machine/Entities.lean ====
section
/-! DEFINITION. The completion table: counters, signal words and what a completed entity leaves (R319, R320, R324, R325). -/

namespace Sys2Proof.Machine

def State.entity (s : State) (e : Nat) : Entity := Store.get Entity.blank s.entities e
def State.setEntity (s : State) (e : Nat) (x : Entity) : State := { s with entities := Store.set Entity.blank s.entities e x }
/-- Whether an entry of the completion table is live. -/
def State.entityLive (s : State) (e : Nat) : Bool := (Store.find e s.entities).isSome
/-- The live entity of a partition at a level with an id (R324). -/
def State.findEntity (s : State) (part : Nat) (l : Level) (id : Word) : Option Nat :=
  (s.entities.find? fun e => e.2.part == part && e.2.level == l && e.2.id == id).map (·.1)

/-- A counter changes. -/
def State.counterAdd (s : State) (e : Nat) (v : Int) : State :=
  let x := s.entity e
  s.setEntity e { x with counter := BitVec.ofInt 64 (x.counter.toNat + v) }

def Partition.queueAddr (p : Partition) (q : Nat) : DWord := p.queues.getD q 0#64
def Partition.qst (p : Partition) (q : Nat) : QueueState := Store.get QueueState.blank p.qstate q
def State.setQst (s : State) (part q : Nat) (x : QueueState) : State :=
  s.setPart part { s.part part with qstate := Store.set QueueState.blank (s.part part).qstate q x }

/-- Bytes read at the home from a partition's virtual address by an agent without a translation cache. -/
def State.readVa (s : State) (part : Nat) (va : Addr) (n : Nat) (k : Access) : Option (List Byte) :=
  match translateBytes s none part va n k with
  | .error _ => none
  | .ok ls => some (ls.map s.homeByte)

/-- What such a read does to the lines it reads (R377, R397, R400). -/
def State.useVa (s : State) (part : Nat) (va : Addr) (n : Nat) (k : Access) : State :=
  let s := s.chargeMisses none part va n
  match translateBytes s none part va n k with
  | .error _ => s
  | .ok ls => s.useAll part ls

/-- Bytes written at the home; none where an address fails. -/
def State.writeVa (s : State) (part : Nat) (va : Addr) (bs : List Byte) : Option State :=
  match translateBytes s none part va bs.length .write with
  | .error _ => none
  | .ok ls => some ((s.chargeMisses none part va bs.length).write part none (ls.zip bs))

/-- The monitor sets ERR in a queue's descriptor and raises vector 2 (R318-R320). -/
def State.queueErr (s : State) (part q : Nat) : State :=
  let va := (s.part part).queueAddr q + 0x0F#64
  let s := match s.readVa part va 1 .readWrite with
    | some [b] => (s.writeVa part va [b ||| 2#8]).getD s
    | some _ => s
    | none => s
  s.msix part 2

/-- LAUNCH_SIGNAL_WRITE (R318, R319): the signal word of a packet of queue `q`. A SIGNAL that is no multiple of 8 or does not
translate sets ERR. -/
def State.writeSignal (s : State) (part q : Nat) (va : DWord) (status reason : Nat) (launch : Word) : State :=
  if va == 0#64 then s
  else if va.toNat % 8 != 0 then s.queueErr part q
  else
    match s.writeVa part va (leBytes 8 (status + 2 ^ 8 * reason + 2 ^ 32 * launch.toNat)) with
    | some s' => s'
    | none => s.queueErr part q

/-- STATUS of a launch that ends (R319, R331). -/
def Entity.signalStatus (x : Entity) (r : LaunchRec) : Nat :=
  if x.cancelled || r.killed then 2
  else match r.desc.range with
    | some (lo, hi, _) => if r.done < (hi - lo).toNat then 4 else 1
    | none => 1

/-- ENTITY_COMPLETE (R324, R325): the entry is freed; a launch writes its signal word and then lowers the counters of its
parent and of its graph, phase and job. -/
def State.completeEntity (s : State) (e : Nat) : State :=
  let x := s.entity e
  let s := { s with entities := Store.erase e s.entities }
  match x.launch with
  | none => s
  | some r =>
    let s := s.writeSignal x.part r.queue r.signal (x.signalStatus r) 0 x.id
    let s := match r.parent with
      | some p => s.counterAdd p (-1)
      | none => s
    let s := r.above.foldl (fun s a => s.counterAdd a (-1)) s
    let p := s.part x.part
    let q := p.qst r.queue
    let s := s.setQst x.part r.queue { q with live := q.live.filter (· != e) }
    { s with oldCode := Store.keep (fun k _ => k / 2 ^ 52 != e) s.oldCode }

end Sys2Proof.Machine
end

