-- ==== Sys2Proof/Machine/TBar.lean ====
section
/-! DEFINITION. Transaction barriers in scratchpad (R208-R210). -/

namespace Sys2Proof.Machine

/-- The fields of a transaction barrier (R208). -/
structure TBar where
  phase : Nat
  arrive : Nat
  owner : Bool
  fault : Bool
  frozen : Bool
  sect : Int
  arrive0 : Nat
  sect0 : Nat
  /-- a bit marked zero is 1, ARRIVE0 is 0, or SECT0 is 2^31 or more -/
  broken : Bool
  deriving DecidableEq, Repr

/-- A barrier's fields from its 128 bits. -/
def TBar.ofBits (v : BitVec 128) : TBar :=
  { phase := (v.extractLsb' 0 4).toNat, arrive := (v.extractLsb' 8 16).toNat, owner := v.getLsbD 24, fault := v.getLsbD 25,
    frozen := v.getLsbD 26, sect := (v.extractLsb' 32 32).toInt, arrive0 := (v.extractLsb' 64 16).toNat,
    sect0 := (v.extractLsb' 96 32).toNat,
    broken := v.extractLsb' 4 4 != 0#4 || v.extractLsb' 27 5 != 0#5 || v.extractLsb' 80 16 != 0#16 ||
      v.extractLsb' 64 16 == 0#16 || v.getLsbD 127 }

/-- Its 16 bytes. -/
def TBar.bytes (x : TBar) : List Byte :=
  leBytes 4 (x.phase % 16 + 2 ^ 8 * (x.arrive % 2 ^ 16) + 2 ^ 24 * x.owner.toNat + 2 ^ 25 * x.fault.toNat +
    2 ^ 26 * x.frozen.toNat) ++ leBytes 4 (BitVec.ofInt 32 x.sect).toNat ++ leBytes 4 x.arrive0 ++ leBytes 4 x.sect0

def State.tbar (s : State) (g a : Nat) : TBar := TBar.ofBits (BitVec.ofNat 128 (s.spNat g a 16))

/-- A team parked in TBWAIT whose barrier has left its phase or has FAULT: the instruction has executed (R209,
R210). A saved team leaves it after its restore. -/
def State.leaveTbar (s : State) (a : Nat) (x : TBar) (h : Nat) : State :=
  match (s.ctx h).status with
  | .parked (.tbar b p d n sw) =>
    if b == a && (x.fault || x.phase != p) && (s.wgOf h).saved.isNone then
      ((((s.setCtx h { s.ctx h with status := .ready }).setSreg h (BitVec.ofNat 6 d) (if x.fault then 2#64 else 0#64)).watch
        h).done h n sw)
    else s
  | .parked _ => s
  | .ready => s
  | .trapped => s
  | .stopped => s

/-- TB_PHASE_COMPLETE (R209). -/
def TBar.check (x : TBar) : TBar :=
  if x.arrive == 0 && x.sect == 0 then { x with phase := (x.phase + 1) % 16, arrive := x.arrive0, sect := x.sect0 } else x

/-- Stores a barrier's fields and releases its waiters. -/
def State.putTbar (s : State) (g a : Nat) (x : TBar) : State :=
  let s := s.scratch g a x.bytes
  (s.wg g).teams.foldl (fun s h => s.leaveTbar a x h) s

/-- One step of an engine on a barrier: a broken one gets FAULT and releases its waiters, and nothing else changes
(R208). -/
def State.tbUpdate (s : State) (g a : Nat) (f : TBar → TBar) : State :=
  let x := s.tbar g a
  if x.broken then
    let s := s.scratch g (a + 3) [s.spByte g (a + 3) ||| 2#8]
    (s.wg g).teams.foldl (fun s h => s.leaveTbar a { x with fault := true } h) s
  else s.putTbar g a (f x).check

/-- A foal that counts toward a barrier ended in FAULT (R209). -/
def State.tbFault (s : State) (g a : Nat) : State := s.tbUpdate g a fun x => { x with fault := true }

/-- A landed sector decrements SECT (R209). -/
def State.tbSector (s : State) (g a : Nat) : State := s.tbUpdate g a fun x => { x with sect := x.sect - 1 }

end Sys2Proof.Machine
end

