-- ==== Sys2Proof/Machine/Foals.lean ====
section
/-! DEFINITION. Foals: the table, creation, order, ending, adoption, cancellation and kills, and the ending of teams,
workgroups and core contexts (R53, R115, R220, R251-R269, R324-R327, R372). -/

namespace Sys2Proof.Machine

/-- First number beyond the physical cores. -/
def coreCount : Nat := 2304

/-! ### The table -/

def foalKey (core slot : Nat) : Nat := core * 256 + slot
def State.foalAt (s : State) (k : Nat) : Option Foal := Store.find k s.foals
def State.putFoal (s : State) (k : Nat) (f : Foal) : State := { s with foals := Store.put k f s.foals }
def State.slotGen (s : State) (k : Nat) : BitVec 12 := Store.get 0#12 s.foalGens k
/-- Foals of a core's table, by key. -/
def State.foalsOn (s : State) (core : Nat) : List (Nat × Foal) := s.foals.filter fun e => e.1 / 256 == core
def State.foalById (s : State) (id : Nat) : Option (Nat × Foal) := s.foals.find? fun e => e.2.id == id

/-- A slot is freed: its generation rises (R252). -/
def State.freeSlot (s : State) (k : Nat) : State :=
  { s with foals := Store.erase k s.foals, foalGens := Store.set 0#12 s.foalGens k (s.slotGen k + 1#12) }

/-- The foal a token names to a team, by key; none is STALE (R220). -/
def State.resolve (s : State) (h : Nat) (tok : DWord) : Option (Nat × Foal) :=
  if tok.extractLsb' 24 8 != 0#8 || 4 ≤ (tok.extractLsb' 20 4).toNat then none
  else
    let k := foalKey (s.coreOf h) (tok.extractLsb' 0 8).toNat
    if s.slotGen k != tok.extractLsb' 8 12 then none
    else match s.foalAt k with
      | none => none
      | some f => if f.wg == (s.team h).wg then some (k, f) else none

/-- Whether a foal has ended and nothing still needs its record (R220, R266). -/
def Foal.reclaimable (f : Foal) : Bool := !f.live && f.orphan.isNone

/-- Oldest of a list of foals. -/
def oldestFoal : List (Nat × Foal) → Option (Nat × Foal)
  | [] => none
  | e :: r => match oldestFoal r with
    | none => some e
    | some x => some (if x.2.id < e.2.id then x else e)

/-- The slot a new foal of a workgroup takes: the lowest free one, else the oldest reclaimable one of the workgroup, else of
the core (R220, R252). -/
def State.takeSlot (s : State) (core wg : Nat) : Option (State × Nat) :=
  match (List.range 256).find? fun n => (s.foalAt (foalKey core n)).isNone with
  | some n => some (s, foalKey core n)
  | none =>
    let rs := (s.foalsOn core).filter fun e => e.2.reclaimable
    match oldestFoal (rs.filter fun e => e.2.wg == wg) with
    | some e => some (s.freeSlot e.1, e.1)
    | none => (oldestFoal rs).map fun e => (s.freeSlot e.1, e.1)

/-- Slots that are free or reclaimable. -/
def State.slotRoom (s : State) (core : Nat) : Nat := 256 - ((s.foalsOn core).filter fun e => !e.2.reclaimable).length

/-- Unended foals that count toward a kind's limit for a team, and the limit (R251). -/
def State.kindCount (s : State) (h : Nat) (k : FoalKind) : Nat :=
  ((s.foalsOn (s.coreOf h)).filter fun e => e.2.live && e.2.kind == k && (k != .lanebatch || e.2.team == h)).length
def FoalKind.limit : FoalKind → Nat
  | .matrix => 8 | .copy => 128 | .lanebatch => 4 | .coll => 16

/-- Teams of the core that parked earlier for a limit or a slot and have not issued since: those parked still, and those
that are ready again. -/
def State.queuedAhead (s : State) (h : Nat) : List (Nat × Nat) :=
  ((s.core (s.coreOf h)).queue.takeWhile fun e => e.1 != h).filter fun e =>
    match (s.ctx e.1).status with
    | .parked (.foalSlot _) => true
    | .parked _ => false
    | .ready => true
    | .trapped => false
    | .stopped => false

/-- Slots that the teams parked ahead take first: of each kind no more than its limit lets them create (R220, R251). -/
def State.slotClaims (s : State) (h : Nat) (ahead : List (Nat × Nat)) : Nat :=
  ([FoalKind.matrix, .copy, .coll].foldl (fun a k => a + min (ahead.filter fun e => e.2 == k.code).length (k.limit - s.kindCount h k)) 0) +
    (ahead.filter fun e => e.2 == FoalKind.lanebatch.code && decide (s.kindCount e.1 .lanebatch < FoalKind.lanebatch.limit)).length

/-- Whether a team may create a foal of a kind in this clock (R220, R251). -/
def State.foalRoom (s : State) (h : Nat) (k : FoalKind) : Bool :=
  let ahead := s.queuedAhead h
  decide (s.kindCount h k < k.limit) && !(k != .lanebatch && ahead.any fun e => e.2 == k.code) &&
    decide (s.slotClaims h ahead < s.slotRoom (s.coreOf h))

/-- The park for a limit or a slot, in its place in the queue. -/
def State.parkFoal (s : State) (h : Nat) (k : FoalKind) : State :=
  let c := s.coreOf h
  let x := s.core c
  (s.setCore c { x with queue := if x.queue.any (·.1 == h) then x.queue else x.queue ++ [(h, k.code)] }).park h (.foalSlot k.code)

/-! ### Pages (R194, R200, R308) -/

def State.flipToEngine (s : State) (g : Nat) (ps : List Nat) : State :=
  let w := s.wg g
  s.setWg g { w with engPages := w.engPages ++ (ps.filter fun p => !w.engPages.contains p).eraseDups }

/-- Pages return to the team unless an unfinished foal still holds them. -/
def State.returnPages (s : State) (g : Nat) (ps : List Nat) : State :=
  let held := (s.foals.filter fun e => e.2.wg == g && e.2.live).flatMap fun e => e.2.pages
  let w := s.wg g
  s.setWg g { w with engPages := w.engPages.filter fun p => !ps.contains p || held.contains p }

/-- An engine of a core writes global memory: at the home, and shown by the die's guest copies and the core's L1 (R205, R218,
R310). -/
def State.engineWrite (s : State) (core part e : Nat) (ws : List (Loc × Byte)) : State :=
  ((s.keepCode e (ws.map (·.1))).write part (some (dieOfCore core)) ws).showOwn core (ws.map (·.1))

/-! ### Adoption (R258-R261) -/

/-- The transaction barrier a foal names, as an offset, with the workgroup it lies in: for a .SS copy the peer's (R204). -/
def Foal.barrier (f : Foal) : Option Nat :=
  match f.job with
  | .mma _ => none
  | .tmma _ => none
  | .copy j => j.tb
  | .batch _ => none
  | .coll j => j.tb

/-- Whether a foal has scratchpad operands (R259). -/
def Foal.hasScratch (f : Foal) : Bool :=
  match f.job with
  | .mma _ => false
  | .tmma _ => true
  | .copy j => j.form != .gg || j.tb.isSome
  | .batch _ => true
  | .coll j => j.tb.isSome

/-- Whether its adopter counts a foal (R260, R266). -/
def Foal.counted (f : Foal) : Bool := f.level != .attached && (f.live || f.orphan.isSome)

/-- Entities above a workgroup's teams, nearest first: launch, graph, phase, job. -/
def State.entitiesAbove (s : State) (e : Nat) : List Nat :=
  e :: match (s.entity e).launch with
    | some r => r.above
    | none => []

/-- A foal is adopted by the first living entity of a list; where none is living, by the nearest existing one, and it is
cancelled (R260). -/
def State.adoptByEntity (s : State) (k : Nat) (f : Foal) (es : List Nat) : State :=
  let es := es.filter s.entityLive
  match es.find? fun e => !(s.entity e).cancelled with
  | some e => (s.putFoal k { f with detached := true, level := (s.entity e).level, adopter := e }).counterAdd e 1
  | none => match es with
    | e :: _ =>
      (s.putFoal k { f with detached := true, level := (s.entity e).level, adopter := e, canreq := true }).counterAdd e 1
    | [] => s.putFoal k { f with detached := true, canreq := true }

/-- Detachment (R258, R260): `kill` when its team is killed, which leaves the workgroup no living level unless it has
another team. -/
def State.detach (s : State) (k : Nat) : State :=
  match s.foalAt k with
  | none => s
  | some f =>
    let w := s.wg f.wg
    let dead := (s.entity w.entity).cancelled
    let f := { f with canreq := f.canreq || dead }
    if f.hasScratch || (!dead && !(s.liveTeams w).isEmpty) then
      s.putFoal k { f with detached := true, level := .workgroup, adopter := f.wg }
    else if dead then (s.putFoal k { f with detached := true, level := .launch, adopter := w.entity }).counterAdd w.entity 1
    else s.adoptByEntity k f (s.entitiesAbove w.entity)

/-- Its adopter stops counting a foal. -/
def State.uncount (s : State) (f : Foal) : State :=
  match f.level with
  | .attached => s
  | .workgroup => s
  | .launch => s.counterAdd f.adopter (-1)
  | .graph => s.counterAdd f.adopter (-1)
  | .phase => s.counterAdd f.adopter (-1)
  | .job => s.counterAdd f.adopter (-1)

/-! ### Faults of orphans (R266) -/

/-- Place of a foal, for its fault record. -/
def State.foalPlace (_s : State) (k : Nat) (f : Foal) : Place :=
  ⟨f.origin.part, k / 256, f.teamix, f.wgix, f.origin.job, f.origin.launch, f.origin.graph⟩

/-- ORPHAN_FAULT_REPORT: the fault record with the foal record after it. -/
def State.reportOrphan (s : State) (k : Nat) : State :=
  match s.foalAt k with
  | none => s
  | some f =>
    let tok := f.token (k % 256)
    let (s, hd) := s.notifyServer (s.foalPlace k f) .foalFault tok (f.record (k % 256))
    s.putFoal k { f with orphan := some hd, told := true }

/-! ### Notices of a collective (R218) -/

/-- A job packet of a collective: PART, JOB, INC, SLOT, class, GROUP and CHUNK (R359). -/
def State.jobFrame (s : State) (w : Launch) (inc : Nat) (cls dst : Nat) (group : Word) (chunk : DWord) (payload : List Byte) :
    Frame :=
  { Frame.make w.part cls s.pkg dst payload with
    job := w.job, inc := BitVec.ofNat 8 inc, group := group, chunk := chunk }

/-- Whether packets of a job may be injected (R360). -/
def State.mayInject (s : State) (part : Nat) (job : Word) (inc : Nat) : Bool := !(s.part part).stops.contains (job, inc)

/-- A notice or acknowledgement is injected, or waits to be sent again (R361). -/
def State.sendJob (s : State) (f : Frame) : State :=
  let again := { s with resends := s.resends ++ [⟨s.time, true, f.part.toNat, f.job, f⟩] }
  if s.mayInject f.part.toNat f.job f.inc.toNat then
    (match s.inject f with
     | some s' => s'
     | none => again)
  else again

/-- Member after this one in the ring. -/
def CollJob.nextMember (j : CollJob) : Nat := j.members.getD ((j.r + 1) % j.members.length) 0

/-- The notice of a collective that this member ends: 1 cancel, 2 mismatch. -/
def State.sendNotice (s : State) (k : Nat) (f : Foal) (j : CollJob) (kind : Nat) : State :=
  s.sendJob (s.jobFrame f.origin (s.core (k / 256)).inc 6 j.nextMember j.group (BitVec.ofNat 64 kind) [])

/-! ### FROZEN (R208, R267) -/

/-- The transaction barrier a foal counts toward, with its workgroup, wherever that is: of a .SS copy the peer's, of a CPL that
of its slot. -/
def State.namedBarrier (s : State) (f : Foal) : Option (Nat × Nat) :=
  let at_ : Option (Nat × Nat) := match f.job with
    | .copy j => (match j.ring with
      | some q => if j.inIter then some (f.wg, s.spNat f.wg (q + 0x10) 4 + 16 * j.rslot) else none
      | none => j.tb.bind fun a =>
        if j.form == .ss then
          (s.wgs.find? fun e => e.2.entity == (s.wg f.wg).entity && e.2.wgix == (j.rcd.dest.extractLsb' 20 32).toNat).map
            fun e => (e.1, a)
        else some (f.wg, a))
    | .coll j => j.tb.map fun a => (f.wg, a)
    | .mma _ => none
    | .tmma _ => none
    | .batch _ => none
  at_.filter fun b => decide (b.2 + 16 ≤ 1024 * (s.wg b.1).launch.spkib)

/-- FROZEN of a barrier. -/
def State.markFrozen (s : State) (b : Nat × Nat) (v : Bool) : State :=
  let x := s.tbar b.1 b.2
  if x.broken || x.frozen == v then s else s.scratch b.1 b.2 { x with frozen := v }.bytes

/-- The barriers in the workgroups of a core toward which foals of some kind count, on whatever core they are. -/
def State.barriersOn (s : State) (core : Nat) (p : Foal → Bool) : List (Nat × Nat) :=
  (s.foals.filterMap fun e => if p e.2 then s.namedBarrier e.2 else none).filter fun b => (s.wg b.1).core == core

/-- A foal ends: the barrier it counts toward, in an image, is FROZEN only while another frozen foal counts toward it. -/
def State.endFrozen (s : State) (k : Nat) (f : Foal) : State :=
  match s.namedBarrier f with
  | none => s
  | some b =>
    if (s.wg b.1).saved.isNone || s.foals.any (fun e => e.1 != k && e.2.status == .frozen && s.namedBarrier e.2 == some b) then s
    else s.markFrozen b false

/-! ### Ending (R254) -/

/-- A collective that ends CANCELLED sends its notice, unless one has reached it. -/
def State.endNotice (s : State) (k : Nat) (f : Foal) (st : FoalStatus) : State :=
  match f.job with
  | .coll j => if st == .cancelled && !j.noticed then s.sendNotice k f j 1 else s
  | .mma _ => s
  | .tmma _ => s
  | .copy _ => s
  | .batch _ => s

/-- ACTIVE := 0 in the ring of a CPL that ends (R215, R262). -/
def State.ringIdle (s : State) (f : Foal) : State :=
  match f.job with
  | .copy j => match j.ring with
    | some q => s.scratch f.wg (q + 0x0E) [s.spByte f.wg (q + 0x0E) &&& 0x7F#8]
    | none => s
  | .mma _ => s
  | .tmma _ => s
  | .batch _ => s
  | .coll _ => s

/-- A foal ends: its pages return, its engine is free, its adopter stops counting it, and a detached one that ended in
FAULT is reported. -/
def State.endFoal (s : State) (k : Nat) (st : FoalStatus) (code : Option TrapCode) (addr : DWord) : State :=
  match s.foalAt k with
  | none => s
  | some f =>
    if !f.live then s
    else
      let f' := { f with status := st, fcode := code, faddr := addr, dep := none, preds := [], pages := [], reads := [], writes := [] }
      let s := ((s.putFoal k f').returnPages f.wg f.pages).ringIdle f
      let s := s.endFrozen k f
      let c := s.core (k / 256)
      let s := if c.engine == some (k % 256) then s.setCore (k / 256) { c with engine := none } else s
      let s := s.endNotice k f st
      if f.detached then (if st == .fault then s.reportOrphan k else s.uncount f) else s

/-- A cancel reaches a foal (R262, R265): a LANEBATCH runs to DONE all the same, the others stop at their next boundary. -/
def State.cancelFoal (s : State) (k : Nat) : State :=
  match s.foalAt k with
  | none => s
  | some f => if f.live then s.putFoal k { f with canreq := true } else s

/-- The fault server's reply to an orphan's record (R266). -/
def State.settleOrphan (s : State) (k : Nat) : State :=
  match s.foalAt k with
  | none => s
  | some f => if f.orphan.isSome then (s.putFoal k { f with orphan := none }).uncount f else s

/-! ### Ending a team -/

/-- The team's own scratchpad accesses are performed, oldest first, before an instruction that reads or writes scratchpad
as it executes (R163, R249). -/
def State.settle (s : State) (h : Nat) : State :=
  (s.team h).reqs.foldl (fun s r =>
    match r.space with
    | .scratch => s.performScratch h r
    | .global => s) s

/-- What a team leaves when it ends: its writes and atomics on their way, whose values no register takes any more, and its
lane copies (R160, R216, R262). -/
def Team.remnant (t : Team) : Team :=
  { Team.blank with
    wg := t.wg, teamix := t.teamix, fresh := t.fresh, copies := t.copies, slots := t.slots,
    reqs := (t.reqs.filter fun r => r.kind != .load).map fun r => { r with dest := .none, acquire := none } }

/-- Nothing is left of it. -/
def Team.spent (t : Team) : Bool := t.reqs.isEmpty && t.copies.isEmpty

/-- The barriers of a workgroup without an explicit count are checked against its live teams (R115); those of a saved one
at its restore (R116). -/
def State.barriersCheck (s : State) (g : Nat) : State :=
  if (s.wg g).saved.isSome then s
  else (List.range 16).foldl (fun s b => if ((s.wg g).barrier b).expect == 0 then s.barrierCheck g b else s) s

/-- TEAM_END (R115, R117): the team's context, registers, mask stack, timers and declaration go (R280); what it has on its way
stays until it has landed. -/
def State.endTeam (s : State) (h : Nat) : State :=
  let t := s.team h
  let rest := t.remnant
  let s := { s with
    ctxs := Store.erase h s.ctxs, vregs := Store.keep (fun k _ => k / 128 != h) s.vregs,
    teams := if rest.spent then Store.erase h s.teams else Store.put h rest s.teams }
  (s.showStores h).barriersCheck t.wg

/-- KILL_TEAM (R263, R372): every foal attached to the team is cancelled; one whose destination is registers goes with the
team, the others are adopted. -/
def State.killTeam (s : State) (h : Nat) : State :=
  let s := s.settle h
  let fs := (s.foalsOf h).filter fun e => e.2.level == .attached && e.2.live
  let s := s.endTeam h
  fs.foldl (fun s e =>
    if e.2.regdest then s.endFoal e.1 .cancelled none 0#64 else (s.detach e.1).cancelFoal e.1) s

/-- KILL_WG (R263, R372). -/
def State.killWg (s : State) (g : Nat) : State :=
  let w := s.wg g
  let s := (s.liveTeams w).foldl State.killTeam (s.setWg g { w with killed := true })
  let s := (s.foals.filter fun e => e.2.level == .workgroup && e.2.adopter == g).foldl (fun s e => s.cancelFoal e.1) s
  let x := s.entity w.entity
  s.setEntity w.entity { x with launch := x.launch.map fun r => { r with killed := true } }

/-- KILL_CONTEXT (R263, R372): the record for information and vector 1 go with it (R368, R413). -/
def State.killContext (s : State) (core : Nat) : State :=
  let c := s.core core
  let s := (s.wgsOn core).foldl (fun s e => s.killWg e.1) s
  let s := (s.foalsOn core).foldl (fun s e => s.cancelFoal e.1) s
  let s := (s.notifyServer ⟨c.part, core, 0, 0, c.job, 0#32, 0#32⟩ .killContext 0#64 []).1
  s.msix c.part 1

/-! ### Cancelling an entity (R327) -/

/-- Launches below an entity: those it is above, their children, and so on; `n` bounds the depth. -/
def State.launchesBelow (s : State) (n : Nat) (es : List Nat) : List Nat :=
  match n with
  | 0 => es
  | m + 1 =>
    let more := (s.entities.filter fun x => match x.2.launch with
      | none => false
      | some r => !es.contains x.1 && (r.above.any es.contains || (match r.parent with
        | some p => es.contains p
        | none => false))).map (·.1)
    if more.isEmpty then es else s.launchesBelow m (es ++ more)

/-- A foal counted by a graph or phase below an entity: its launch was of that phase or job (R263). -/
def Foal.below (f : Foal) (x : Entity) : Bool :=
  f.origin.part == x.part && match x.level with
    | .job => f.origin.job == x.id && (f.level == .graph || f.level == .phase)
    | .phase => f.origin.phase == x.id && f.level == .graph
    | .graph => false
    | .launch => false
    | .workgroup => false
    | .attached => false

/-- The cancel of an entity and of every entity below it: workgroups not yet resident are dropped, resident ones killed,
foals cancelled. -/
def State.cancelEntity (s : State) (e : Nat) : State :=
  let es := s.launchesBelow s.entities.length [e]
  let top := s.entity e
  let s := es.foldl (fun s e =>
    let x := s.entity e
    let n := match x.launch with
      | some r => r.waiting.length
      | none => 0
    (s.setEntity e { x with cancelled := true, launch := x.launch.map fun r => { r with waiting := [] } }).counterAdd e (-n)) s
  let s := (s.wgs.filter fun g => es.contains g.2.entity).foldl (fun s g => s.killWg g.1) s
  (s.foals.filter fun f =>
      f.2.level != .attached && f.2.level != .workgroup && (es.contains f.2.adopter || f.2.below top)).foldl
    (fun s f => s.cancelFoal f.1) s

/-- The token of a cancel (R327). -/
def State.recordToken (s : State) (part level : Nat) (id : Word) : State :=
  let p := s.part part
  let ws := p.queues.map fun q => BitVec.ofNat 64 (leNat ((s.readVa part (q + 0x20#64) 8 .read).getD []))
  s.setPart part { p with tokens := p.tokens ++ [⟨level, id, ws⟩] }

/-! ### What follows from a change -/

/-- Whether every team of a workgroup has ended and nothing of one is on its way. -/
def State.teamsGone (s : State) (w : Workgroup) : Bool :=
  (s.liveTeams w).isEmpty && w.teams.all fun h => (s.team h).spent

/-- Unfinished .SS copies of a launch that target a workgroup (R204). -/
def State.targeted (s : State) (g : Workgroup) : Bool :=
  s.foals.any fun e => e.2.live && match e.2.job with
    | .copy j => j.form == .ss && (s.wg e.2.wg).entity == g.entity && (j.rcd.dest.extractLsb' 20 32).toNat == g.wgix
    | .mma _ => false
    | .tmma _ => false
    | .batch _ => false
    | .coll _ => false

/-- WORKGROUP_RETIRE (R53): its allocation goes and its launch counts one less. -/
def State.retire (s : State) (g : Nat) : State :=
  let w := s.wg g
  let s := { s with wgs := Store.erase g s.wgs, teams := Store.keep (fun h _ => !w.teams.contains h) s.teams, sp := Store.keep (fun k _ => k / 2 ^ 20 != g) s.sp }
  s.counterAdd w.entity (-1)

/-- A copy with reads outstanding: they land before a cancel takes effect (R262). -/
def Foal.landing (f : Foal) : Bool :=
  match f.job with
  | .copy j => !j.out.isEmpty
  | .mma _ => false
  | .tmma _ => false
  | .batch _ => false
  | .coll _ => false

/-- A foal not started, or frozen, whose dependence has ended or that a cancel has reached: what becomes of it (R257, R262,
R358). -/
def State.sweepFoal (s : State) (k : Nat) (f : Foal) : Option State :=
  if !f.live || (f.started && f.status != .frozen) then none
  else if f.canreq && f.kind != .lanebatch && !f.landing then some (s.endFoal k .cancelled none 0#64)
  else match f.dep with
    | none => none
    | some d => match s.foalById d with
      | none => some (s.putFoal k { f with dep := none })
      | some (kd, x) =>
        if x.live then none
        else if x.status == .done then some (s.putFoal k { f with dep := none })
        else some (s.endFoal k .cancelled none (x.token (kd % 256)))

/-- A workgroup without a live team: its foals without scratchpad operands pass upward, and it retires once the others
are done (R53, R261), a killed one though .SS copies target it (R204). -/
def State.sweepWg (s : State) (g : Nat) (w : Workgroup) : Option State :=
  if !s.teamsGone w then none
  else
    let mine := s.foals.filter fun e => e.2.level == .workgroup && e.2.adopter == g && e.2.counted
    match mine.find? fun e => !e.2.hasScratch with
    | some e => some (s.adoptByEntity e.1 e.2 (s.entitiesAbove w.entity))
    | none =>
      if mine.isEmpty && (w.killed || !s.targeted w) then some (s.retire g) else none

/-- An entity whose counter is 0, or a persistent launch of which only adopted foals are left (R261, R324). -/
def State.sweepEntity (s : State) (e : Nat) (x : Entity) : Option State :=
  if x.counter == 0#64 then some (s.completeEntity e)
  else match x.launch with
    | none => none
    | some r =>
      let mine := s.foals.filter fun f => f.2.level == .launch && f.2.adopter == e && f.2.counted
      if r.desc.persistent && !r.above.isEmpty && (x.counter.toNat : Int) - x.added == mine.length then
        match mine with
        | [] => none
        | f :: _ => some ((s.adoptByEntity f.1 f.2 r.above).counterAdd e (-1))
      else none

/-- A slot whose foal has ended, whose team has ended, and whose record nothing needs is freed (R252). -/
def State.sweepSlot (s : State) (k : Nat) (f : Foal) : Option State :=
  if f.reclaimable && (s.ctx f.team).kind == .absent then some (s.freeSlot k) else none

/-- A core becomes free: the generations of its slots go with its context, and the core keeps CGEN (R252, R355). -/
def State.freeCore (s : State) (c : Nat) : State :=
  { s with foalGens := Store.keep (fun k _ => k / 256 != c) s.foalGens }.setCore c { Core.blank with cgen := (s.core c).cgen }

/-- A core without workgroups and foals is free: its context ends. -/
def State.sweepCore (s : State) (c : Nat) (x : Core) : Option State :=
  if x.part != 0 && x.step == .running && (s.wgsOn c).isEmpty && (s.foalsOn c).isEmpty then
    some (s.freeCore c)
  else none

/-- The first consequence that is due. -/
def State.sweepOnce (s : State) : Option State :=
  (s.foals.findSome? fun e => s.sweepFoal e.1 e.2).orElse fun _ =>
  (s.wgs.findSome? fun e => s.sweepWg e.1 e.2).orElse fun _ =>
  (s.entities.findSome? fun e => s.sweepEntity e.1 e.2).orElse fun _ =>
  (s.foals.findSome? fun e => s.sweepSlot e.1 e.2).orElse fun _ =>
  s.cores.findSome? fun e => s.sweepCore e.1 e.2

/-- All of them, in the clock in which they fall due. -/
def State.sweepGo : Nat → State → State
  | 0, s => s
  | n + 1, s => match s.sweepOnce with
    | none => s
    | some s' => State.sweepGo n s'

def State.sweep (s : State) : State :=
  State.sweepGo (8 * (s.foals.length + s.wgs.length + s.entities.length + s.cores.length) + 8) s

/-- After a part of what a team had on its way: where the team has ended, its workgroup may retire (R261). -/
def State.afterPart (s : State) (h : Nat) : State := if (s.ctx h).kind == .absent then s.sweep else s

/-! ### Creation (R251-R257) -/

/-- What a creating instruction gives its foal. -/
structure NewFoal where
  kind : FoalKind
  prio : Nat
  chain : Nat
  detach : Bool
  regdest : Bool
  /-- the token in s[DEP], when DEPV is 1 -/
  dep : Option DWord
  pages : List Nat
  reads : List Nat
  writes : List Nat
  job : Job

/-- Priority at creation and by FPRIO (R222, R255). -/
def State.foalPrio (s : State) (h p : Nat) : Nat :=
  if p == 0 then (s.team h).prio else min p (s.wgOf h).launch.ceil

/-- Creates a foal; `foalRoom` has been checked. The state, and the token. -/
def State.createFoal (s : State) (h : Nat) (n : NewFoal) : State × DWord :=
  let core := s.coreOf h
  let t := s.team h
  let w := s.wgOf h
  match s.takeSlot core t.wg with
  | none => (s, 0#64)
  | some (s, k) =>
    let pred := n.dep.bind fun tok => s.resolve h tok
    let gen := s.slotGen k
    let f : Foal :=
      { id := s.nextId, kind := n.kind, gen := gen, status := .running, prio := s.foalPrio h n.prio, chain := n.chain,
        detached := false, regdest := n.regdest, depv := n.dep.isSome, canreq := false, team := h, teamix := t.teamix,
        wg := t.wg, wgix := w.wgix, origin := w.launch, level := .attached, adopter := t.wg,
        preds := if n.kind == .lanebatch then [] else
          ((s.foalsOf h).filter fun e => e.2.live && e.2.kind == n.kind && e.2.chain == n.chain).map fun e => e.2.id,
        dep := match pred with
          | some (_, p) => if p.status == .done then none else some p.id
          | none => none,
        progress := 0, fcode := none, faddr := 0#64, flanes := 0#64, started := false, told := false, orphan := none,
        pages := n.pages, reads := n.reads, writes := n.writes, throttle := none, declared := false, job := n.job }
    let s := { s with nextId := s.nextId + 1 }.putFoal k f
    let c := s.core core
    let s := s.setCore core { c with queue := c.queue.filter (·.1 != h) }
    let s := s.flipToEngine t.wg n.pages
    let s := if n.detach then s.detach k else s
    (s, f.token (k % 256))

/-- Whether a foal may start: its chain and its dependence permit it (R256, R257), and it is not frozen. -/
def State.startable (s : State) (f : Foal) : Bool :=
  f.status == .running && f.dep.isNone && f.preds.all fun i => match s.foalById i with
    | none => true
    | some e => !e.2.live

/-- The accesses its team made before a foal have been performed (R194, R200), and those of any team of the workgroup to pages
of the scratchpad that the engine holds, which came before the pages went to it (R309). -/
def State.released (s : State) (f : Foal) : Bool :=
  ((s.team f.team).reqs.all fun r => decide (f.id < r.id) || (!r.kind.isLoad && r.todo.isEmpty)) &&
    (!f.hasScratch || (s.wg f.wg).teams.all fun h => (s.team h).reqs.all fun r =>
      r.space != .scratch || !(s.wg f.wg).enginePage (pagesOf (r.todo.flatMap (·.bytes))))

/-- No write that its die has read is still on its way to the home: an engine's write comes after it (R302). -/
def State.engineMay (s : State) (k : Nat) : Bool := !s.depsOpen (Store.get [] s.dieSeen (dieOfCore (k / 256)))

end Sys2Proof.Machine
end

