-- ==== Sys2Proof/Machine/Matrix.lean ====
section
/-! DEFINITION. MMA and TMMA, and the steps of the matrix engine (R89-R93, R177-R197, R278, R281). -/

namespace Sys2Proof.Machine

/-! ### The format block (R179-R181) -/

def fmtA (v : DWord) : Nat := (v.extractLsb' 0 4).toNat
def fmtB (v : DWord) : Nat := (v.extractLsb' 4 4).toNat
def blkA (v : DWord) : Nat := 16 * 2 ^ (v.extractLsb' 8 2).toNat
def blkB (v : DWord) : Nat := 16 * 2 ^ (v.extractLsb' 10 2).toNat
def fmtSel (v : DWord) : Nat := (v.extractLsb' 12 2).toNat
def scaEn (v : DWord) : Bool := v.getLsbD 16
def scbEn (v : DWord) : Bool := v.getLsbD 17
def scaAddr (v : DWord) : Nat := (v.extractLsb' 18 20).toNat
def scbAddr (v : DWord) : Nat := (v.extractLsb' 38 20).toNat
/-- BF16 class; the other is FP8. -/
def fmtBf16 (v : DWord) : Bool := fmtA v == 0
/-- Dense K per step. -/
def kstep (v : DWord) : Nat := if fmtBf16 v then 32 else 64

/-- R180. -/
def fmtOk (sp : Bool) (v : DWord) : Bool :=
  (if fmtA v == 0 then fmtB v == 0 else decide (fmtA v ≤ 2 ∧ 1 ≤ fmtB v ∧ fmtB v ≤ 4)) &&
    (sp || fmtSel v == 0) && v.extractLsb' 14 2 == 0#2 && v.extractLsb' 58 6 == 0#6 &&
    (scaEn v || scaAddr v == 0) && (scbEn v || scbAddr v == 0)

/-- Scale blocks of one row or column (R181). -/
def nBlocks (k blk : Nat) : Nat := (k + blk - 1) / blk

/-- An element of an operand format, exactly (R74, R89, R90, R179). -/
def elemValue (fmt c : Nat) : FVal :=
  let small := fun (w : Nat) => if c < 2 ^ (w - 1) then FVal.fin false c 0 else FVal.fin true (2 ^ w - c) 0
  if fmt == 0 then Fmt.bf16.value c else if fmt == 1 then Fmt.f8e4.value c else if fmt == 2 then Fmt.f8e5.value c
  else if fmt == 3 then small 4 else small 3

/-- One group's contribution, rounded once (R92, R93). -/
def dotGroup (terms : List (FVal × FVal)) (sa sb : FVal) : Nat :=
  let s := (FVal.sum (terms.map fun p => (p.1.mul p.2).1)).1
  (Fmt.fp32.round .rne ((s.mul sa).1.mul sb).1).bits

/-- R92 for one accumulator element: `terms k` is the product at K = k where it is present, `sa` and `sb` the scales of the
blocks that hold K = k. -/
def dotElem (kbase klen : Nat) (terms : Nat → List (FVal × FVal)) (sa sb : Nat → FVal) (d : Nat) : Nat :=
  (List.range (klen / 16)).foldl (fun d g =>
    let k0 := kbase + 16 * g
    (Fmt.fp32.add d (dotGroup ((List.range 16).flatMap fun i => terms (k0 + i)) (sa k0) (sb k0))).bits) d

/-- Scale 1. -/
def scaleOne : FVal := .fin false 1 0
/-- A BF16 scale from a list of bytes. -/
def scaleAt (bs : List Byte) (i : Nat) : FVal := Fmt.bf16.value ((bs.getD (2 * i) 0#8).toNat + 256 * (bs.getD (2 * i + 1) 0#8).toNat)

/-! ### Register fragments (R184, R185) -/

/-- Element k of row or column r of block b in a fragment of registers. -/
def fragElem (rs : List VecReg) (fmt b r k : Nat) : FVal :=
  let reg := fun j lane => (VecReg.lane (rs.getD j 0#32768) lane).toNat
  if fmt == 0 then
    elemValue 0 (reg (k % 16 / 2) (128 * b + 64 * (k / 16) + r) / 2 ^ (16 * (k % 2)) % 2 ^ 16)
  else
    let lane := 128 * b + 64 * (k / 32) + r
    let kk := k % 32
    if fmt ≤ 2 then elemValue fmt (reg (kk / 4) lane / 2 ^ (8 * (kk % 4)) % 2 ^ 8)
    else if fmt == 3 then elemValue 3 (reg (kk / 8) lane / 2 ^ (4 * (kk % 8)) % 2 ^ 4)
    else elemValue 4 ((reg 0 lane + 2 ^ 32 * reg 1 lane + 2 ^ 64 * reg 2 lane) / 2 ^ (3 * kk) % 2 ^ 3)

/-- Registers of one B fragment. -/
def bRegs (v : DWord) : Nat := if fmtB v == 3 then 4 else if fmtB v == 4 then 3 else 8
/-- Registers of the AUX group. -/
def auxRegs (v : DWord) : Nat := if fmtBf16 v then 4 else 8

/-- The index nibble of group g of row m of block b (R185). -/
def sparseNibble (j : MmaJob) (b m g : Nat) : Nat :=
  let wpr := kstep j.fmt / 16
  let lane := 128 * b + 32 * fmtSel j.fmt + m / 2
  (VecReg.lane (j.aux.getD (m % 2 * wpr + g / 8) 0#32768) lane).toNat / 2 ^ (4 * (g % 8)) % 16

/-- B at dense K of an MMA. -/
def MmaJob.bElem (j : MmaJob) (b n k : Nat) : FVal :=
  let kd := kstep j.fmt
  fragElem (j.b.drop (k / kd * bRegs j.fmt)) (fmtB j.fmt) b n (k % kd)

/-- Products present at dense K (R186). -/
def MmaJob.terms (j : MmaJob) (b m n k : Nat) : List (FVal × FVal) :=
  match j.form with
  | .dense => [(fragElem j.a (fmtA j.fmt) b m k, j.bElem b n k)]
  | .z => [(fragElem j.a (fmtA j.fmt) b m k, j.bElem b n k)]
  | .sp =>
    let nib := sparseNibble j b m (k / 4)
    [0, 1].filterMap fun slot =>
      if nib / 4 ^ slot % 4 == k % 4 then some (fragElem j.a (fmtA j.fmt) b m (2 * (k / 4) + slot), j.bElem b n k) else none

/-- Dense K range of an MMA (R181). -/
def mmaK (form : MmaForm) (v : DWord) : Nat := match form with | .sp => 2 * kstep v | .dense => kstep v | .z => kstep v

/-- One element of the tile of block b. -/
def MmaJob.elem (j : MmaJob) (b m n d : Nat) : Nat :=
  let k := mmaK j.form j.fmt
  dotElem 0 k (j.terms b m n)
    (fun k0 => if scaEn j.fmt then scaleAt j.sca ((64 * b + m) * nBlocks k (blkA j.fmt) + k0 / blkA j.fmt) else scaleOne)
    (fun k0 => if scbEn j.fmt then scaleAt j.scb ((64 * b + n) * nBlocks k (blkB j.fmt) + k0 / blkB j.fmt) else scaleOne)
    (match j.form with | .z => 0 | .dense => d | .sp => d)

/-- The step of block b: its 32 D registers are written at its end. -/
def State.mmaStep (s : State) (h : Nat) (j : MmaJob) : State :=
  let b := j.next
  (List.range 32).foldl (fun s' r =>
    let old := s.vreg h (j.d + r)
    s'.setVreg h (j.d + r) (old.setLanes ((List.range 128).map fun l => 128 * b + l) fun lane =>
      let l := lane - 128 * b
      BitVec.ofNat 32 (j.elem b (l % 64) (32 * (l / 64) + r) (old.lane lane).toNat))) s

/-! ### Tiles in scratchpad (R190-R193) -/

/-- Bytes of a packed row or column of kpad elements. -/
def packedBytes (fmt kpad : Nat) : Nat :=
  if fmt == 0 then 2 * kpad else if fmt ≤ 2 then kpad else if fmt == 3 then kpad / 2 else 12 * kpad / 32

def pitchOr (p packed : Nat) : Nat := if p == 0 then packed else p

/-- Element k of a packed row or column at an address. -/
def State.tileElem (s : State) (g fmt a k : Nat) : FVal :=
  if fmt == 0 then elemValue 0 (s.spNat g (a + 2 * k) 2)
  else if fmt ≤ 2 then elemValue fmt (s.spNat g (a + k) 1)
  else if fmt == 3 then elemValue 3 (s.spNat g (a + k / 2) 1 / 2 ^ (4 * (k % 2)) % 16)
  else elemValue 4 (s.spNat g (a + 12 * (k / 32)) 12 / 2 ^ (3 * (k % 32)) % 8)

def TileRec.nK (r : TileRec) (v : DWord) : Nat := (r.k + kstep v - 1) / kstep v
def TileRec.kpad (r : TileRec) (v : DWord) : Nat := r.nK v * kstep v
def TileRec.nM (r : TileRec) : Nat := (r.m + 63) / 64
def TileRec.nN (r : TileRec) : Nat := (r.n + 63) / 64
def TileRec.pa (r : TileRec) (v : DWord) : Nat := pitchOr r.apitch (packedBytes (fmtA v) (r.kpad v))
def TileRec.pb (r : TileRec) (v : DWord) : Nat := pitchOr r.bpitch (packedBytes (fmtB v) (r.kpad v))
def TileRec.pc (r : TileRec) : Nat := pitchOr r.cpitch (4 * r.n)

/-- The footprints of A, B, C and the enabled scales: first byte and length (R192). -/
def TileRec.regA (r : TileRec) (v : DWord) : Nat × Nat := (r.aaddr, (r.m - 1) * r.pa v + packedBytes (fmtA v) (r.kpad v))
def TileRec.regB (r : TileRec) (v : DWord) : Nat × Nat := (r.baddr, (r.n - 1) * r.pb v + packedBytes (fmtB v) (r.kpad v))
def TileRec.regC (r : TileRec) : Nat × Nat := (r.caddr, (r.m - 1) * r.pc + 4 * r.n)
/-- Enabled scale arrays over `rows` rows and `cols` columns and a dense K range (R181). -/
def scaleRegs (v : DWord) (rows cols k : Nat) : List (Nat × Nat) :=
  (if scaEn v then [(scaAddr v, 2 * rows * nBlocks k (blkA v))] else []) ++
    (if scbEn v then [(scbAddr v, 2 * cols * nBlocks k (blkB v))] else [])

/-- 4 KiB pages of a region. -/
def regPages (r : Nat × Nat) : List Nat :=
  if r.2 == 0 then [] else (List.range ((r.1 + r.2 - 1) / 4096 - r.1 / 4096 + 1)).map fun i => r.1 / 4096 + i
def regsPages (rs : List (Nat × Nat)) : List Nat := (rs.flatMap regPages).eraseDups

/-- First byte of a region at or above SPSIZE, if any (R370). -/
def regFault (size : Nat) (r : Nat × Nat) : Option Nat :=
  if r.1 + r.2 ≤ size then none else some (max r.1 size)

/-- The rows of one step that are computed, and its columns. -/
def TmmaJob.rows (j : TmmaJob) : List Nat :=
  let mb := j.next / j.tile.nK j.fmt % j.tile.nM
  ((List.range 64).map fun i => 64 * mb + i).filter fun m => decide (m < j.tile.m) && j.mm.getLsbD m
def TmmaJob.cols (j : TmmaJob) : List Nat :=
  let nb := j.next / j.tile.nK j.fmt / j.tile.nM
  ((List.range 64).map fun i => 64 * nb + i).filter fun n => decide (n < j.tile.n) && j.mn.getLsbD n

/-- One accumulator element of a step (R193). -/
def State.tmmaElem (s : State) (g : Nat) (j : TmmaJob) (m n d : Nat) : Nat :=
  let v := j.fmt
  let r := j.tile
  let kb := j.next % r.nK v
  let kp := r.kpad v
  dotElem (kb * kstep v) (kstep v)
    (fun k => if k < r.kvalid then
      [(s.tileElem g (fmtA v) (r.aaddr + m * r.pa v) k, s.tileElem g (fmtB v) (r.baddr + n * r.pb v) k)] else [])
    (fun k0 => if scaEn v then
      Fmt.bf16.value (s.spNat g (scaAddr v + 2 * (m * nBlocks kp (blkA v) + k0 / blkA v)) 2) else scaleOne)
    (fun k0 => if scbEn v then
      Fmt.bf16.value (s.spNat g (scbAddr v + 2 * (n * nBlocks kp (blkB v) + k0 / blkB v)) 2) else scaleOne)
    (if j.zero && kb == 0 then 0 else d)

def State.tmmaStep (s : State) (g : Nat) (j : TmmaJob) : State :=
  j.rows.foldl (fun s' m => j.cols.foldl (fun s' n =>
    let a := j.tile.caddr + m * j.tile.pc + 4 * n
    s'.spWrite g a (leBytes 4 (s.tmmaElem g j m n (s.spNat g a 4)))) s') s

/-! ### Issue -/

/-- Every EXECW below W/32 is all ones (R183, R192, R199). -/
def Team.fullMask (t : Team) : Bool := t.exec == maskBelow t.width

/-- A trap on a scratchpad region that an instruction names as a whole (R370). -/
def State.raiseRegion (s : State) (h : Nat) (code : TrapCode) (len a : Nat) : State :=
  s.raiseAt h code len (BitVec.ofNat 64 a) 0#1024 true

/-- ALIGN, then MEM_FAULT, of the enabled scale arrays (R181). DESIGN CHOICE: where both arrays fail one check, A's is named
(R183; log 70). -/
def scaleTrap (v : DWord) (size : Nat) (rs : List (Nat × Nat)) : Option (TrapCode × Nat) :=
  if scaEn v && scaAddr v % 2 == 1 then some (.align, scaAddr v)
  else if scbEn v && scbAddr v % 2 == 1 then some (.align, scbAddr v)
  else (rs.findSome? (regFault size)).map fun a => (.memFault, a)

def overlaps (a n b m : Nat) : Bool := decide (a < b + m) && decide (b < a + n)

/-- The meters of a completed step (R239, R400). -/
def macMeter (v : DWord) : Nat × Nat :=
  if fmtBf16 v then (1, 131072) else (if fmtB v ≤ 2 then 2 else if fmtB v == 3 then 3 else 4, 262144)

/-- MMA (R183). -/
def mmaOp (form : MmaForm) (sw : Bool) (d a b : VReg) (fx : Fx) (s : State) : Out :=
  let range := fun (r : VReg) (n : Nat) => (List.range n).map fun i => r.toNat + i
  begin { len := 2, teamOnly := true, level := 0, legal := true, regs := range d 32 ++ range a 8, hold := false } s fun h =>
    let s := s.settle h
    let t := s.team h
    let v := s.sreg h fx.desc
    let sp := form == .sp
    let nb := (if sp then 2 else 1) * bRegs v
    let nx := if sp then auxRegs v else 0
    let k := mmaK form v
    let rows := t.width / 128 * 64
    let rs := scaleRegs v rows rows k
    let regs := range d 32 ++ range a 8 ++ range b nb ++ range fx.aux nx
    if fx.detach then .next (s.raise h .detachReg 2)
    else if !t.fullMask then .next (s.raise h .partialMask 2)
    else if t.width % 128 != 0 || !fmtOk sp v || t.vregs < b.toNat + nb || (sp && t.vregs < fx.aux.toNat + nx) ||
      overlaps d.toNat 32 a.toNat 8 || overlaps d.toNat 32 b.toNat nb || (sp && overlaps d.toNat 32 fx.aux.toNat nx) then
      .next (s.raise h .illegalOperand 2)
    else match scaleTrap v (s.spSize h) rs with
    | some (c, x) => .next (s.raiseRegion h c 2 x)
    | none =>
      if regs.any fun r => s.isHeld h r then .next (s.park h (.held regs))
      else if (s.wgOf h).enginePage (regsPages rs) then .next (s.park h (.pages (regsPages rs)))
      else if !s.foalRoom h .matrix then .next (s.parkFoal h .matrix)
      else
        let read := fun (r : VReg) (n : Nat) => (range r n).map fun i => s.vreg h i
        let job : MmaJob :=
          { form := form, fmt := v, d := d.toNat, a := read a 8, b := read b nb, aux := read fx.aux nx,
            sca := if scaEn v then s.spRead t.wg (scaAddr v) (2 * rows * nBlocks k (blkA v)) else [],
            scb := if scbEn v then s.spRead t.wg (scbAddr v) (2 * rows * nBlocks k (blkB v)) else [],
            blocks := t.width / 128, next := 0 }
        let r := s.createFoal h
          { kind := .matrix, prio := fx.prio.toNat, chain := fx.chain.toNat, detach := false, regdest := true,
            dep := if fx.depv then some (s.sreg h fx.dep) else none, pages := [], reads := regsPages rs, writes := [],
            job := .mma job }
        .next ((r.1.setSreg h fx.tok r.2).sweep.done h 2 sw)

def execMmaDense (sw : Bool) (d a b : VReg) (fx : Fx) (s : State) : Out := mmaOp .dense sw d a b fx s
def execMmaSp (sw : Bool) (d a b : VReg) (fx : Fx) (s : State) : Out := mmaOp .sp sw d a b fx s
def execMmaZ (sw : Bool) (d a b : VReg) (fx : Fx) (s : State) : Out := mmaOp .z sw d a b fx s

/-- The tile-op record at an offset (R190). -/
def State.tileRec (s : State) (g o : Nat) : TileRec :=
  let n := s.spNat g
  { aaddr := n o 4, baddr := n (o + 4) 4, caddr := n (o + 8) 4, apitch := n (o + 0x0C) 2, bpitch := n (o + 0x0E) 2,
    cpitch := n (o + 0x10) 2, m := n (o + 0x12) 2, n := n (o + 0x14) 2, k := n (o + 0x16) 2, kvalid := n (o + 0x18) 2 }

/-- The range checks of step 6 of R192, the page comparison apart. -/
def TileRec.ok (r : TileRec) (v : DWord) : Bool :=
  fmtOk false v && decide (1 ≤ r.m ∧ r.m ≤ 256 ∧ 1 ≤ r.n ∧ r.n ≤ 256 ∧ 1 ≤ r.k ∧ r.k ≤ 8192 ∧ r.kvalid ≤ r.k) &&
    decide (r.aaddr < 2 ^ 20 ∧ r.baddr < 2 ^ 20 ∧ r.caddr < 2 ^ 20) &&
    (r.apitch == 0 || decide (packedBytes (fmtA v) (r.kpad v) ≤ r.apitch)) &&
    (r.bpitch == 0 || decide (packedBytes (fmtB v) (r.kpad v) ≤ r.bpitch)) &&
    (r.cpitch == 0 || decide (4 * r.n ≤ r.cpitch))

/-- TMMA (R192). DESIGN CHOICE: where several regions fail one check, ADDR names the first of A, B, C, A's scales and B's
(R370; log 70). -/
def tmmaOp (zero sw : Bool) (r : SReg) (m n : BitVec 2) (fx : Fx) (s : State) : Out :=
  begin { len := 2, teamOnly := true, level := 0, legal := true, regs := [], hold := false } s fun h =>
    let s := s.settle h
    let t := s.team h
    let g := t.wg
    let o := (s.sreg h r).toNat % 2 ^ 20
    let size := s.spSize h
    if !t.fullMask then .next (s.raise h .partialMask 2)
    else if o % 64 != 0 then .next (s.raiseRegion h .align 2 o)
    else if size < o + 64 then .next (s.raiseRegion h .memFault 2 (max o size))
    else if (s.wgOf h).enginePage [o / 4096] then .next (s.park h (.pages [o / 4096]))
    else
      let x := s.tileRec g o
      let v := s.sreg h fx.desc
      let rest := s.spRead g (o + 0x1A) 38
      let scs := scaleRegs v x.m x.n (x.kpad v)
      let cp := regPages x.regC
      let others := regsPages ([x.regA v, x.regB v, (o, 64)] ++ scs)
      if !x.ok v || rest.any (· != 0#8) || cp.any others.contains then .next (s.raise h .illegalOperand 2)
      else match [x.aaddr, x.baddr, x.caddr, x.apitch, x.bpitch, x.cpitch].find? fun a => a % 4 != 0 with
      | some _ =>
        -- the region whose address or pitch is at fault
        let a := if x.aaddr % 4 != 0 || x.apitch % 4 != 0 then x.aaddr
          else if x.baddr % 4 != 0 || x.bpitch % 4 != 0 then x.baddr else x.caddr
        .next (s.raiseRegion h .align 2 a)
      | none =>
        match scaleTrap v size ([x.regA v, x.regB v, x.regC] ++ scs) with
        | some (c, a) => .next (s.raiseRegion h c 2 a)
        | none =>
          if !s.foalRoom h .matrix then .next (s.parkFoal h .matrix)
          else
            let job : TmmaJob :=
              { rcdAddr := o, tile := x, zero := zero, fmt := v, mm := (t.lmk m.toNat).setWidth 256,
                mn := (t.lmk (4 + n.toNat)).setWidth 256, next := 0, frozen := false }
            let s := s.scratch g (o + 0x20) (leBytes 8 v.toNat)
            let c := s.createFoal h
              { kind := .matrix, prio := fx.prio.toNat, chain := fx.chain.toNat, detach := fx.detach, regdest := false,
                dep := if fx.depv then some (s.sreg h fx.dep) else none, pages := (cp ++ others).eraseDups,
                reads := regsPages ([x.regA v, x.regB v] ++ scs), writes := cp, job := .tmma job }
            .next ((c.1.setSreg h fx.tok c.2).sweep.done h 2 sw)

def execTmmaAcc (sw : Bool) (r : SReg) (m n : BitVec 2) (fx : Fx) (s : State) : Out := tmmaOp false sw r m n fx s
def execTmmaZ (sw : Bool) (r : SReg) (m n : BitVec 2) (fx : Fx) (s : State) : Out := tmmaOp true sw r m n fx s

/-! ### The engine (R177) -/

/-- An earlier unfinished MATRIX foal of the workgroup conflicts with a foal (R195). -/
def State.pageConflict (s : State) (f : Foal) : Bool :=
  s.foals.any fun e =>
    let x := e.2
    x.live && x.kind == .matrix && x.wg == f.wg && decide (x.id < f.id) &&
      (x.writes.any (fun p => f.reads.contains p || f.writes.contains p) || x.reads.any f.writes.contains)

/-- A power grant holds a foal until its window begins (R278). -/
def State.powerHolds (s : State) (f : Foal) : Bool :=
  !f.started && match (s.team f.team).power with
    | some p => p.state == 2
    | none => false

/-- The foal the engine takes next: highest priority, then oldest (R177). -/
def bestFoal : List (Nat × Foal) → Option (Nat × Foal)
  | [] => none
  | e :: r => match bestFoal r with
    | none => some e
    | some x => some (if e.2.prio < x.2.prio || (e.2.prio == x.2.prio && x.2.id < e.2.id) then x else e)

def State.matrixCandidates (s : State) (core : Nat) (halt : Bool) : List (Nat × Foal) :=
  (s.foalsOn core).filter fun e =>
    e.2.kind == .matrix && s.startable e.2 && !s.pageConflict e.2 && (halt || !s.powerHolds e.2) &&
      (!halt || e.2.regdest)

/-- A foal's first step begins: a declared burst, or an undeclared one that is counted and throttled (R278, R280, R281). -/
def State.beginFoal (s : State) (k : Nat) (f : Foal) : State :=
  if f.started then s
  else
    let decl := match (s.team f.team).power with
      | some p => decide (2 ≤ p.state)
      | none => false
    if decl then s.putFoal k { f with started := true, declared := true }
    else
      let s := (s.putFoal k { f with started := true, throttle := some 16000 }).meterAdd f.origin.part 8 1
      if (s.ctx f.team).kind == .team then
        let t := s.team f.team
        s.setTeam f.team { t with undecl := if t.undecl == BitVec.allOnes 32 then t.undecl else t.undecl + 1 }
      else s

/-- STEP of a tile-op record (R190, R196). -/
def State.writeStep (s : State) (f : Foal) : State :=
  match f.job with
  | .tmma j => s.spWrite f.wg (j.rcdAddr + 0x1C) (leBytes 4 j.next)
  | .mma _ => s
  | .copy _ => s
  | .batch _ => s
  | .coll _ => s

/-- Whether the step of a tile op reads the scratchpad word at an address: in the fragments of its rows and columns, its
accumulators, or its scales; a step that computes no element reads none (R193). -/
def TmmaJob.readsWord (j : TmmaJob) (a : Nat) : Bool :=
  let v := j.fmt
  let r := j.tile
  let kb := j.next % r.nK v
  let frag := fun (fmt base : Nat) => overlaps (base + packedBytes fmt (kb * kstep v)) (packedBytes fmt (kstep v)) a 4
  let scales := fun (base n blk : Nat) => (List.range (kstep v)).any fun i =>
    overlaps (base + 2 * (n * nBlocks (r.kpad v) blk + (kb * kstep v + i) / blk)) 2 a 4
  !j.rows.isEmpty && !j.cols.isEmpty && (j.rows.any (fun m => frag (fmtA v) (r.aaddr + m * r.pa v) || (scaEn v && scales (scaAddr v) m (blkA v)) ||
      (!(j.zero && kb == 0) && j.cols.any fun n => overlaps (r.caddr + m * r.pc + 4 * n) 4 a 4)) ||
    j.cols.any fun n => frag (fmtB v) (r.baddr + n * r.pb v) || (scbEn v && scales (scbAddr v) n (blkB v)))

/-- A tile op ends in FAULT at an uncorrectable SRAM error in a word that its step reads: the step writes nothing, and STEP
holds the steps completed (R196). DEDUCED: the words whose errors end it are those of its step's fragments and scales
(log 76). -/
def State.sramFault (s : State) (k : Nat) (f : Foal) (a : Nat) : Option State :=
  match f.job with
  | .tmma j => if j.readsWord a then some ((s.writeStep f).endFoal k .fault (some .memPoison) (BitVec.ofNat 64 a)) else none
  | .mma _ => none
  | .copy _ => none
  | .batch _ => none
  | .coll _ => none

/-- The step in the engine completes: its results are written, it is metered, and a foal whose last step it was is DONE. -/
def State.completeStep (s : State) (k : Nat) (f : Foal) : State :=
  match f.job with
  | .mma j =>
    let m := macMeter j.fmt
    let s := (s.mmaStep f.team j).meterAdd f.origin.part m.1 m.2
    let s := s.putFoal k { f with job := .mma { j with next := j.next + 1 }, progress := j.next + 1 }
    if j.next + 1 == j.blocks then s.endFoal k .done none 0#64 else s
  | .tmma j =>
    let m := macMeter j.fmt
    let s' := s.tmmaStep f.wg j
    let s := if j.rows.isEmpty || j.cols.isEmpty then s' else s'.meterAdd f.origin.part m.1 m.2
    let f := { f with job := .tmma { j with next := j.next + 1 }, progress := j.next + 1 }
    let s := s.putFoal k f
    if j.next + 1 == j.tile.nM * j.tile.nN * j.tile.nK j.fmt then (s.writeStep f).endFoal k .done none 0#64 else s
  | .copy _ => s
  | .batch _ => s
  | .coll _ => s

/-- Cancels that have reached MATRIX foals of a core take effect at a step boundary (R187, R196, R262). -/
def State.cancelMatrix (s : State) (core : Nat) : State :=
  (s.foalsOn core).foldl (fun s e =>
    if e.2.kind == .matrix && e.2.canreq && e.2.status == .running then (s.writeStep e.2).endFoal e.1 .cancelled none 0#64
    else s) s

/-- The step in the engine, if any, completes, or finds an uncorrectable error in the core's SRAM (R196). -/
def State.stepBoundary (s : State) (core : Nat) : State :=
  let errs := s.sramErrs.filter fun e => e.1 == core
  let s := { s with sramErrs := s.sramErrs.filter fun e => e.1 != core }
  let s := match (s.core core).engine with
    | none => s
    | some n => match s.foalAt (foalKey core n) with
      | none => s
      | some f => (errs.findSome? fun (e : Nat × Nat) => s.sramFault (foalKey core n) f e.2).getD (s.completeStep (foalKey core n) f)
  let s := (s.setCore core { s.core core with engine := none }).cancelMatrix core
  s.sweep

/-- The engine chooses its next step; at a halt only MMA foals run, which a power grant does not hold (R188). -/
def State.chooseStep (s : State) (core : Nat) (halt : Bool) : State :=
  match bestFoal (s.matrixCandidates core halt) with
  | none => s
  | some (k, f) => (s.beginFoal k f).setCore core { s.core core with engine := some (k % 256) }

/-- MATRIX_STEP (R177). -/
def execMatrixStep (core : Nat) (s : State) : Out :=
  match (s.core core).step with
  | .running => .next ((s.stepBoundary core).chooseStep core false)
  | .halting _ _ => .next ((s.stepBoundary core).chooseStep core true)
  | .draining _ _ _ => .next s
  | .saving _ _ _ _ _ => .next s

end Sys2Proof.Machine
end

