-- ==== Sys2Proof/Machine/Copies.lean ====
section
/-! DEFINITION. CPY, CPL and RING, and the streamer (R198-R207, R211-R215, R268). -/

namespace Sys2Proof.Machine

/-! ### Stream records (R202) -/

/-- The stream record at an offset. -/
def State.streamRec (s : State) (g o : Nat) : StreamRec :=
  let n := s.spNat g
  { base := BitVec.ofNat 64 (n o 8), run := n (o + 8) 2, indim := n (o + 0x0A) 1, idxsz := n (o + 0x0B) 1,
    cnt := (List.range 4).map fun i => n (o + 0x10 + 4 * i) 4,
    str := (List.range 4).map fun i => BitVec.ofNat 32 (n (o + 0x20 + 4 * i) 4),
    idxaddr := BitVec.ofNat 64 (n (o + 0x30) 8), dest := BitVec.ofNat 64 (n (o + 0x38) 8) }

def StreamRec.cntAt (r : StreamRec) (d : Nat) : Nat := r.cnt.getD d 1
def StreamRec.strAt (r : StreamRec) (d : Nat) : DWord := (r.str.getD d 0#32).signExtend 64
/-- Iterations of the nest, and T. -/
def StreamRec.nest (r : StreamRec) : Nat := r.cntAt 0 * r.cntAt 1 * r.cntAt 2 * r.cntAt 3
def StreamRec.total (r : StreamRec) : Nat := r.run * r.nest

/-- Whether a form's source, and its destination, is scratchpad. -/
def CopyForm.srcScratch : CopyForm → Bool
  | .sg => true | .ss => true | .drain => true | .gs => false | .gg => false | .fill => false
def CopyForm.dstScratch : CopyForm → Bool
  | .gs => true | .ss => true | .fill => true | .sg => false | .gg => false | .drain => false

/-- The field ranges of R202, R204 and R214; `zf` is the record's zero field. -/
def StreamRec.ok (r : StreamRec) (f : CopyForm) (zf : Nat) : Bool :=
  zf == 0 && r.run != 0 && r.cnt.all (· != 0) && decide (r.total ≤ 2 ^ 40) &&
    (if r.indim == 0xFF then r.idxsz == 0 && r.idxaddr == 0#64
     else decide (r.indim ≤ 3) && (r.idxsz == 4 || r.idxsz == 8) && r.strAt r.indim == 0#64 && !f.srcScratch) &&
    (match f with
     | .gs => r.dest.extractLsb' 20 44 == 0#44
     | .sg => r.base.extractLsb' 20 44 == 0#44
     | .gg => true
     | .ss => r.base.extractLsb' 20 44 == 0#44 && r.dest.extractLsb' 52 12 == 0#12
     | .fill => r.dest == 0#64
     | .drain => r.base == 0#64)

/-- Index of iteration `it` in dimension d. -/
def StreamRec.at (r : StreamRec) (it d : Nat) : Nat := it / (List.range d).foldl (fun a e => a * r.cntAt e) 1 % r.cntAt d

/-- Source address of iteration `it`, the index element being x (R203). -/
def StreamRec.src (r : StreamRec) (it : Nat) (x : DWord) : DWord :=
  (List.range 4).foldl (fun a d => a + (if d == r.indim then x else BitVec.ofNat 64 (r.at it d) * r.strAt d)) r.base

/-- Lowest and one past the highest source offset of the nest relative to BASE (R204). -/
def StreamRec.extent (r : StreamRec) : Int × Int :=
  (List.range 4).foldl (fun (a : Int × Int) d =>
    let e : Int := ((r.cntAt d : Int) - 1) * (r.strAt d).toInt
    (a.1 + min 0 e, a.2 + max 0 e)) (0, (r.run : Int))

/-- The scratchpad footprint of a CPY on the issuer's side: first byte and length (R204). -/
def StreamRec.footprint (r : StreamRec) (f : CopyForm) : List (Int × Nat) :=
  let e := r.extent
  let own := [((r.base.toNat : Int) + e.1, (e.2 - e.1).toNat)]
  match f with
  | .gs => [((r.dest.toNat : Int), r.total)]
  | .sg => own
  | .ss => own
  | .gg => []
  | .fill => []
  | .drain => []

/-- First byte of a footprint outside the scratchpad. -/
def footFault (size : Nat) (r : Int × Nat) : Option DWord :=
  if r.1 < 0 then some (BitVec.ofInt 64 r.1)
  else (regFault size (r.1.toNat, r.2)).map fun a => BitVec.ofNat 64 a

/-! ### Rings (R211) -/

/-- A ring descriptor. -/
structure Ring where
  base : Nat
  size : Nat
  slots : Nat
  head : Nat
  tail : Nat
  eng : Nat
  filled : Nat
  free : Nat
  mode : Nat
  held : Nat
  tbbase : Nat
  zeros : Bool
  deriving DecidableEq, Repr

def State.ring (s : State) (g o : Nat) : Ring :=
  let n := s.spNat g
  { base := n o 4, size := n (o + 4) 4, slots := n (o + 8) 1, head := n (o + 9) 1, tail := n (o + 0x0A) 1,
    eng := n (o + 0x0B) 1, filled := n (o + 0x0C) 1, free := n (o + 0x0D) 1, mode := n (o + 0x0E) 1,
    held := n (o + 0x0F) 1, tbbase := n (o + 0x10) 4, zeros := (s.spRead g (o + 0x14) 44).all (· == 0#8) }

/-- The conditions of R211 that do not change as the ring runs. DESIGN CHOICE: RINIT asks for these alone, and rewrites the
fields that it sets whatever they hold (R212, R213; log 82). -/
def Ring.shapeOk (r : Ring) (o : Nat) : Bool :=
  r.base % 4096 == 0 && r.size != 0 && r.size % 4096 == 0 && decide (2 ≤ r.slots ∧ r.slots ≤ 16) && r.tbbase % 16 == 0 &&
    r.zeros && !overlaps r.base (r.slots * r.size) o 64

/-- R211: whether a descriptor is broken. -/
def Ring.broken (r : Ring) (o : Nat) : Bool :=
  !(r.shapeOk o && decide (r.head < r.slots ∧ r.tail < r.slots ∧ r.eng < r.slots ∧ r.filled + r.free + r.held ≤ r.slots) &&
    r.mode / 2 % 64 == 0)

def Ring.active (r : Ring) : Bool := r.mode / 128 % 2 == 1
/-- Bytes 0x09 to 0x0F of a descriptor. -/
def Ring.bytes (r : Ring) : List Byte :=
  [r.head, r.tail, r.eng, r.filled, r.free, r.mode, r.held].map (BitVec.ofNat 8)
def State.putRing (s : State) (g o : Nat) (r : Ring) : State := s.scratch g (o + 9) r.bytes
/-- First byte and length of slot k; its pages; its barrier. -/
def Ring.slot (r : Ring) (k : Nat) : Nat × Nat := (r.base + k * r.size, r.size)
def Ring.slotTb (r : Ring) (k : Nat) : Nat := r.tbbase + 16 * k
def Ring.setActive (r : Ring) (b : Bool) : Ring := { r with mode := r.mode % 128 + 128 * b.toNat }

/-- The checks every RING form makes of its descriptor address (R212). -/
def ringOp (b : SReg) (s : State) (k : State → Nat → Nat → Ring → State) : Out :=
  begin { need1 with teamOnly := true } s fun h =>
    let s := s.settle h
    let o := (s.sreg h b).toNat % 2 ^ 20
    if o % 64 != 0 then .next (s.raiseRegion h .align 1 o)
    else if s.spSize h < o + 64 then .next (s.raiseRegion h .memFault 1 (max o (s.spSize h)))
    else if (s.wgOf h).enginePage [o / 4096] then .next (s.park h (.pages [o / 4096]))
    else .next (k s h o (s.ring (s.team h).wg o))

/-- The pages that the CPL running on a ring holds change: a slot that RACQ takes leaves them (R212, R308). -/
def State.holdSlot (s : State) (g o : Nat) (f : List Nat → List Nat) : State :=
  { s with foals := s.foals.map fun (e : Nat × Foal) => (e.1, match e.2.job with
      | .copy j => if e.2.live && e.2.wg == g && j.ring == some o then { e.2 with pages := f e.2.pages } else e.2
      | .mma _ => e.2
      | .tmma _ => e.2
      | .batch _ => e.2
      | .coll _ => e.2) }

/-- RACQ: the next filled slot; its pages are the team's after it (R212). -/
def execRacq (sw : Bool) (d b : SReg) (s : State) : Out :=
  ringOp b s fun s h o r =>
    let g := (s.team h).wg
    if r.broken o then s.raise h .illegalOperand 1
    else if r.filled == 0 then s.park h (.ringFilled o)
    else
      let s := s.putRing g o { r with head := (r.head + 1) % r.slots, filled := r.filled - 1, held := r.held + 1 }
      let ps := regPages (r.slot r.head)
      let s := s.holdSlot g o fun own => own.filter fun p => !ps.contains p
      let w := s.wg g
      let s := s.setWg g { w with engPages := w.engPages.filter fun p => !ps.contains p }
      ((s.setSreg h d (BitVec.ofNat 64 r.head)).watch h).done h 1 sw

/-- RREL: the oldest held slot goes to the engine (R212). Its pages are the engine's until an iteration hands the slot back: a CPL
that ends without having taken it does not return them (R215, R273, R308). -/
def execRrel (sw : Bool) (b : SReg) (s : State) : Out :=
  ringOp b s fun s h o r =>
    let g := (s.team h).wg
    let t := s.team h
    if r.broken o then s.raise h .illegalOperand 1
    else if t.loads != 0 || t.stores != 0 then s.park h (.counts .ring true false)
    else if r.held == 0 then s.raise h .illegalOperand 1
    else
      let s := s.flipToEngine g (regPages (r.slot r.tail))
      let s := s.tbUpdate g (r.slotTb r.tail) fun x => { x with owner := false }
      (s.putRing g o { r with tail := (r.tail + 1) % r.slots, held := r.held - 1, free := r.free + 1 }).done h 1 sw

/-- RINIT (R213). -/
def execRinit (sw : Bool) (b : SReg) (a : Src) (s : State) : Out :=
  begin { needS a with teamOnly := true } s fun h =>
    let n := Src.len a
    let s := s.settle h
    let o := (s.sreg h b).toNat % 2 ^ 20
    let g := (s.team h).wg
    let size := s.spSize h
    if o % 64 != 0 then .next (s.raiseRegion h .align n o)
    else if size < o + 64 then .next (s.raiseRegion h .memFault n (max o size))
    else if (s.wgOf h).enginePage [o / 4096] then .next (s.park h (.pages [o / 4096]))
    else
      let r := s.ring g o
      let m := Src.scalar s h a
      let slots := (r.base, r.slots * r.size)
      if r.active || 2 ≤ m.toNat || !r.shapeOk o || size < r.base + r.slots * r.size || size < r.tbbase + 16 * r.slots ||
        overlaps r.tbbase (16 * r.slots) slots.1 slots.2 || overlaps r.tbbase (16 * r.slots) o 64 then
        .next (s.raise h .illegalOperand n)
      else
        let drain := m == 1#64
        let full := if drain then r.slots else 0
        let s := s.putRing g o
          { r with head := 0, tail := 0, eng := 0, held := 0, mode := m.toNat, filled := full, free := r.slots - full }
        let s := (List.range r.slots).foldl (fun s k => s.putTbar g (r.slotTb k)
          { phase := 0, arrive := 1, owner := drain, fault := false, frozen := false, sect := 0, arrive0 := 1, sect0 := 0,
            broken := false }) s
        .next (s.done h n sw)

/-- RSTAT (R212, R227). -/
def execRstat (sw : Bool) (d b : SReg) (s : State) : Out :=
  begin { need1 with teamOnly := true } s fun h =>
    if s.det h then .next (s.raise h .detViolation 1)
    else ringOp b s fun s h o _ => (s.setSreg h d (BitVec.ofNat 64 (s.spNat (s.team h).wg (o + 8) 8))).done h 1 sw

/-! ### Issue (R199) -/

/-- Steps 1 to 4 of R199: a trap or a park, or none. `len` is the record's length and `pages` those of the barrier or
descriptor. -/
def State.recordChecks (s : State) (h : Nat) (producer : Bool) (o len : Nat) (pages : List Nat) : Option State :=
  let notProducer := match (s.wgOf h).launch.producer with
    | some p => producer && p != (s.team h).teamix
    | none => false
  let ps := (regPages (o, len) ++ pages).eraseDups
  if notProducer then some (s.raise h .notProducer 2)
  else if !(s.team h).fullMask then some (s.raise h .partialMask 2)
  else if o % 64 != 0 then some (s.raiseRegion h .align 2 o)
  else if s.spSize h < o + len then some (s.raiseRegion h .memFault 2 (max o (s.spSize h)))
  else if (s.wgOf h).enginePage ps then some (s.park h (.pages ps))
  else none

def needF : Need := { len := 2, teamOnly := true, level := 0, legal := true, regs := [], hold := false }

/-- Creates an engine foal and writes its token; the pages of its footprint go to the engine. -/
def State.launchFoal (s : State) (h : Nat) (kind : FoalKind) (fx : Fx) (pages : List Nat) (job : Job) (sw : Bool) : State :=
  let r := s.createFoal h
    { kind := kind, prio := fx.prio.toNat, chain := fx.chain.toNat, detach := fx.detach, regdest := false,
      dep := if fx.depv then some (s.sreg h fx.dep) else none, pages := pages, reads := [], writes := [], job := job }
  (r.1.setSreg h fx.tok r.2).sweep.done h 2 sw

/-- A copy at its start. -/
def copyJob (f : CopyForm) (r : StreamRec) (iters : Nat) (step : DWord) (tb ring : Option Nat) : CopyJob :=
  { form := f, rcd := r, iters := iters, step := step, tb := tb, ring := ring, iter := 0, rslot := 0, inIter := ring.isNone,
    next := 0, out := [], ahead := [], restart := 0, idx := none, bad := none }

/-- CPY. -/
def cpyOp (f : CopyForm) (sw : Bool) (r b : SReg) (fx : Fx) (s : State) : Out :=
  begin needF s fun h =>
    let s := s.settle h
    let g := (s.team h).wg
    let o := (s.sreg h r).toNat % 2 ^ 20
    let tb : Option Nat := if b == 63#6 then none else some ((s.sreg h b).toNat % 2 ^ 20)
    let tbPages := match tb with
      | some a => if f == .ss then [] else [a / 4096]
      | none => []
    match s.recordChecks h true o 64 tbPages with
    | some s' => .next s'
    | none =>
      let x := s.streamRec g o
      let size := s.spSize h
      let ta := tb.getD 0
      if !x.ok f (s.spNat g (o + 0x0C) 4) then .next (s.raise h .illegalOperand 2)
      else if ta % 16 != 0 then .next (s.raiseRegion h .align 2 ta)
      else if f != .ss && tb.isSome && size < ta + 16 then .next (s.raiseRegion h .memFault 2 (max ta size))
      else match (x.footprint f).findSome? (footFault size) with
      | some a => .next (s.raiseAt h .memFault 2 a 0#1024 true)
      | none =>
        if !s.foalRoom h .copy then .next (s.parkFoal h .copy)
        else
          .next (s.launchFoal h .copy fx (regsPages ((x.footprint f).map fun p => (p.1.toNat, p.2)))
            (.copy (copyJob f x 1 0#64 tb none)) sw)

def execCpyGs (sw : Bool) (r b : SReg) (fx : Fx) (s : State) : Out := cpyOp .gs sw r b fx s
def execCpySg (sw : Bool) (r b : SReg) (fx : Fx) (s : State) : Out := cpyOp .sg sw r b fx s
def execCpyGg (sw : Bool) (r b : SReg) (fx : Fx) (s : State) : Out := cpyOp .gg sw r b fx s
def execCpySs (sw : Bool) (r b : SReg) (fx : Fx) (s : State) : Out := cpyOp .ss sw r b fx s

/-- CPL (R199, R214). -/
def cplOp (f : CopyForm) (sw : Bool) (r b : SReg) (fx : Fx) (s : State) : Out :=
  begin needF s fun h =>
    let s := s.settle h
    let g := (s.team h).wg
    let o := (s.sreg h r).toNat % 2 ^ 20
    let q := (s.sreg h b).toNat % 2 ^ 20
    match s.recordChecks h true o 80 [q / 4096] with
    | some s' => .next s'
    | none =>
      let x := s.streamRec g o
      let size := s.spSize h
      let iters := s.spNat g (o + 0x40) 4
      if !x.ok f (s.spNat g (o + 0x0C) 4 + s.spNat g (o + 0x44) 4) || iters == 0 then .next (s.raise h .illegalOperand 2)
      else if q % 64 != 0 then .next (s.raiseRegion h .align 2 q)
      else if size < q + 64 then .next (s.raiseRegion h .memFault 2 (max q size))
      else
        let d := s.ring g q
        if d.broken q || d.size < x.total || d.mode % 2 != (if f == .drain then 1 else 0) || d.active then
          .next (s.raise h .illegalOperand 2)
        else match regFault size (d.base, d.slots * d.size) with
        | some a => .next (s.raiseRegion h .memFault 2 a)
        | none =>
          if !s.foalRoom h .copy then .next (s.parkFoal h .copy)
          else
            let step : DWord := BitVec.ofNat 64 (s.spNat g (o + 0x48) 8)
            let s := s.putRing g q (d.setActive true)
            .next (s.launchFoal h .copy fx (regPages (d.base, d.slots * d.size))
              (.copy (copyJob f x iters step none (some q))) sw)

def execCplFill (sw : Bool) (r g : SReg) (fx : Fx) (s : State) : Out := cplOp .fill sw r g fx s
def execCplDrain (sw : Bool) (r g : SReg) (fx : Fx) (s : State) : Out := cplOp .drain sw r g fx s

/-! ### The streamer -/

/-- The peer of a .SS copy (R204). -/
inductive Peer where
  | here (g : Nat)
  | saved
  | gone
  deriving DecidableEq, Repr

def State.peer (s : State) (k : Nat) (f : Foal) (j : CopyJob) : Peer :=
  let ix := (j.rcd.dest.extractLsb' 20 32).toNat
  match s.wgs.find? fun e => e.2.entity == (s.wg f.wg).entity && e.2.wgix == ix with
  | none => .gone
  | some e =>
    if e.2.killed then .gone
    else if e.2.saved.isSome then .saved
    else if clusterOf e.2.core == clusterOf (k / 256) && e.2.core < 2304 then .here e.1
    else .gone

/-- The stream record of the current iteration, with addresses of its slot filled in (R214). -/
def State.iterRec (s : State) (f : Foal) (j : CopyJob) : StreamRec :=
  let off := BitVec.ofNat 64 j.iter * j.step
  let slot := match j.ring with
    | some q => BitVec.ofNat 64 ((s.ring f.wg q).slot j.rslot).1
    | none => 0#64
  match j.form with
  | .fill => { j.rcd with base := j.rcd.base + off, dest := slot }
  | .drain => { j.rcd with dest := j.rcd.dest + off, base := slot }
  | .gs => j.rcd
  | .sg => j.rcd
  | .gg => j.rcd
  | .ss => { j.rcd with dest := (j.rcd.dest.extractLsb' 0 20).setWidth 64 }

/-- Sectors of an iteration (R205). -/
def StreamRec.sectors (r : StreamRec) : Nat := (r.dest.toNat + r.total - 1) / 32 - r.dest.toNat / 32 + 1

/-- Destination offsets of a sector's bytes. -/
def StreamRec.sectorBytes (r : StreamRec) (n : Nat) : List Nat :=
  let lo := 32 * (r.dest.toNat / 32 + n)
  ((List.range 32).map fun i => lo + i).filterMap fun a =>
    if r.dest.toNat ≤ a && a < r.dest.toNat + r.total then some (a - r.dest.toNat) else none

/-- One byte's place for an engine of a core: a scratchpad offset, or a translated place. -/
def State.enginePlace (s : State) (core part : Nat) (scratch : Bool) (size : Nat) (a : DWord) (k : Access) :
    Except (TrapCode × DWord) Loc :=
  if scratch then (if a.toNat < size then .ok ⟨a.toNat, none⟩ else .error (.memFault, a))
  else match translate s (some core) part a k with
    | .ok l => .ok l
    | .error .fault => .error (.memFault, a)
    | .error .perm => .error (.perm, a)

/-- The index element of an iteration, the one in use or the one it reads, and the places read (R203). DESIGN CHOICE: an element of
a dimension that lies inside another is read again each time an outer iteration comes back to it (log 83). -/
def State.indexOf (s : State) (core part : Nat) (r : StreamRec) (it : Nat) (idx : Option (Nat × DWord)) :
    Except (TrapCode × DWord) (Option (Nat × DWord) × List Loc) :=
  if r.indim == 0xFF then .ok (none, [])
  else
    let key := it / (List.range r.indim).foldl (fun a e => a * r.cntAt e) 1
    match idx with
    | some (k, x) => if k == key then .ok (some (k, x), []) else fetch key
    | none => fetch key
where
  /-- reads element i_d at the home -/
  fetch (key : Nat) : Except (TrapCode × DWord) (Option (Nat × DWord) × List Loc) :=
    let a := r.idxaddr + BitVec.ofNat 64 (r.at it r.indim * r.idxsz)
    match translateBytes s (some core) part a r.idxsz .read with
    | .error (.fault, x) => .error (.memFault, x)
    | .error (.perm, x) => .error (.perm, x)
    | .ok ls =>
      if ls.any s.homePoison then .error (.memPoison, a)
      else .ok (some (key, BitVec.ofNat 64 (leNat (ls.map s.homeByte))), ls)

/-- The bytes of a sector read by the streamer in traversal order: their destinations and values, the places of global memory
read, the index element in use, and the first poisoned address. -/
structure SectorRead where
  writes : List (Loc × Byte)
  src : List Loc
  /-- virtual addresses read and written -/
  vas : List DWord
  idx : Option (Nat × DWord)
  poison : Option DWord

def State.readSector (s : State) (core part g sizeSrc sizeDst : Nat) (f : CopyForm) (r : StreamRec) :
    List Nat → SectorRead → Except (TrapCode × DWord) SectorRead
  | [], acc => .ok acc
  | o :: os, acc =>
    match s.indexOf core part r (o / r.run) acc.idx with
    | .error e => .error e
    | .ok (idx, il) =>
      let src := r.src (o / r.run) ((idx.map (·.2)).getD 0#64) + BitVec.ofNat 64 (o % r.run)
      match s.enginePlace core part f.srcScratch sizeSrc src .read with
      | .error e => .error e
      | .ok sl =>
        match s.enginePlace core part f.dstScratch sizeDst (r.dest + BitVec.ofNat 64 o) .write with
        | .error e => .error e
        | .ok dl =>
          let b := if f.srcScratch then s.spByte g sl.pa else s.homeByte sl
          let pz := !f.srcScratch && s.homePoison sl
          s.readSector core part g sizeSrc sizeDst f r os
            { writes := acc.writes ++ [(dl, b)], src := acc.src ++ il ++ (if f.srcScratch then [] else [sl]),
              vas := acc.vas ++ (if il.isEmpty then [] else [r.idxaddr + BitVec.ofNat 64 (r.at (o / r.run) r.indim * r.idxsz)]) ++
                (if f.srcScratch then [] else [src]) ++ (if f.dstScratch then [] else [r.dest + BitVec.ofNat 64 o]), idx := idx,
              poison := match acc.poison with
                | some a => some a
                | none => if pz then some src else none }

def State.putJob (s : State) (k : Nat) (f : Foal) (j : CopyJob) : State := s.putFoal k { f with job := .copy j }

/-- The barrier of a copy and the workgroup it lies in, if it is there: CPY's, or the ring slot's (R204, R215). -/
def State.copyBarrier (s : State) (k : Nat) (f : Foal) (j : CopyJob) : Option (Nat × Nat) :=
  match j.ring with
  | some q => if j.inIter then some (f.wg, (s.ring f.wg q).slotTb j.rslot) else none
  | none => match j.tb with
    | none => none
    | some a =>
      if j.form == .ss then
        match s.peer k f j with
        | .here g => if a + 16 ≤ 1024 * (s.wg g).launch.spkib then some (g, a) else none
        | .saved => none
        | .gone => none
      else some (f.wg, a)

/-- A copy ends in FAULT (R207, R209): of a .SS copy the peer's barrier gets it, wherever the peer is. -/
def State.copyFault (s : State) (k : Nat) (f : Foal) (j : CopyJob) (c : TrapCode) (a : DWord) : State :=
  let tb := s.namedBarrier { f with job := .copy j }
  let s := s.endFoal k .fault (some c) a
  (match tb with
   | some (g, b) => s.tbFault g b
   | none => s).sweep

/-- A fault found, or a cancel, ends the copy once the sectors it waits for have landed (R207, R262). -/
def State.copySettle (s : State) (k : Nat) : State :=
  match s.foalAt k with
  | none => s
  | some f =>
    match f.job with
    | .copy j =>
      if !f.live then s
      else match j.bad with
      | some (n, c, a) => if j.out.any fun x => decide (x.ord < n) then s else s.copyFault k f { j with out := [] } c a
      | none => if f.canreq && j.out.isEmpty then (s.endFoal k .cancelled none 0#64).sweep else s
    | .mma _ => s
    | .tmma _ => s
    | .batch _ => s
    | .coll _ => s

/-- Whether the streamer may issue a sector of a foal now: it may start, its team's earlier accesses are performed, and a
sector of the current iteration is left. -/
def State.copyReady (s : State) (k : Nat) (f : Foal) : Bool :=
  match f.job with
  | .copy j =>
    s.startable f && s.released f && !f.canreq && j.bad.isNone && j.inIter && (s.core (k / 256)).step == .running &&
      decide (j.next < (s.iterRec f j).sectors) &&
      (j.form != .ss || s.peer k f j != .saved)
  | .mma _ => false
  | .tmma _ => false
  | .batch _ => false
  | .coll _ => false

/-- The streamer's choice on a core (R201). -/
def State.copyChoice (s : State) (core : Nat) : Option (Nat × Foal) :=
  bestFoal ((s.foalsOn core).filter fun e => s.copyReady e.1 e.2)

/-- The next sector of a copy is translated and its read issued, at the home (R377); a sector that landed before a switch is skipped
(R205, R268). -/
def State.issueSector (s : State) (k : Nat) (f : Foal) (j : CopyJob) : State :=
  let f := { f with started := true }
  if j.next < j.restart || j.ahead.contains j.next || j.out.any (fun x => x.ord == j.next) then s.putJob k f { j with next := j.next + 1 }
  else
    let fail := fun (c : TrapCode) (a : DWord) => (s.putJob k f { j with bad := some (j.next, c, a) }).copySettle k
    let go := fun (g size : Nat) =>
      let r := s.iterRec f j
      let w := s.wg f.wg
      match s.readSector (k / 256) f.origin.part f.wg (1024 * w.launch.spkib) size j.form r (r.sectorBytes j.next)
        ⟨[], [], [], j.idx, none⟩ with
      | .error (c, a) => fail c a
      | .ok x =>
        let sec : Sector :=
          { ord := j.next, global := !j.form.dstScratch, wg := g, writes := x.writes, poison := x.poison }
        let pages := (x.vas.map fun a => a.toNat / 2 ^ 16).eraseDups
        let s := pages.foldl (fun s p => s.chargeMisses (some (k / 256)) f.origin.part (BitVec.ofNat 64 (p * 2 ^ 16)) 1) s
        (s.useAll f.origin.part x.src).putJob k f { j with next := j.next + 1, idx := x.idx, out := j.out ++ [sec] }
    if j.form == .ss then
      match s.peer k f j with
      | .saved => s
      | .gone => fail .memFault j.rcd.dest
      | .here g =>
        let size := 1024 * (s.wg g).launch.spkib
        match j.tb with
        | some a => if size < a + 16 then fail .memFault j.rcd.dest else go g size
        | none => go g size
    else go f.wg (1024 * (s.wg f.wg).launch.spkib)

/-- COPY_SECTOR_ISSUE (R205): for the foal the streamer chooses. -/
def execCopySectorIssue (core slot : Nat) (s : State) : Out :=
  let k := foalKey core slot
  let s := s.copySettle k
  match s.copyChoice core with
  | none => .next s
  | some (k', f) =>
    if k' != k then .next s
    else match f.job with
      | .copy j => .next (s.issueSector k f j)
      | .mma _ => .next s
      | .tmma _ => .next s
      | .batch _ => .next s
      | .coll _ => .next s

/-- The writes of a sector are performed: in scratchpad, or at the home (R205, R310). -/
def State.landWrites (s : State) (k : Nat) (f : Foal) (x : Sector) : State :=
  match x.writes with
  | [] => s
  | (l, _) :: _ =>
    if x.global then s.engineWrite (k / 256) f.origin.part (s.wg f.wg).entity x.writes
    else s.scratch x.wg l.pa (x.writes.map (·.2))

/-- The lowest unlanded ordinal moves past the sectors that have landed beyond it. -/
def advanceRestart : Nat → Nat → List Nat → Nat
  | 0, r, _ => r
  | n + 1, r, ahead => if ahead.contains r then advanceRestart n (r + 1) ahead else r

/-- RING_SLOT_HANDBACK (R215): once the slot's barrier has completed its phase, the slot goes to the team. DESIGN CHOICE: of a broken
barrier, which completes no phase (R208), the stored ARRIVE alone decides, as of any other (log 84). -/
def State.handback (s : State) (k : Nat) (f : Foal) (j : CopyJob) (q : Nat) : State :=
  let g := f.wg
  let r := s.ring g q
  let tb := r.slotTb j.rslot
  if r.broken q then s.copyFault k f j .illegalOperand (BitVec.ofNat 64 q)
  else if (s.tbar g tb).arrive == 0 then s
  else
    let ps := regPages (r.slot j.rslot)
    let f := { f with pages := f.pages.filter fun p => !ps.contains p }
    let last := j.iter + 1 == j.iters
    let s := (s.putJob k f { j with iter := j.iter + 1, inIter := false, next := 0, restart := 0, ahead := [], idx := none }).returnPages
      g ps
    let s := s.tbUpdate g tb fun x => { x with owner := true }
    let s := s.putRing g q { (r.setActive (!last)) with filled := r.filled + 1, eng := (j.rslot + 1) % r.slots }
    if last then (s.endFoal k .done none 0#64).sweep else s.copySettle k

/-- What follows a landed sector: the barrier's decrement, and at the last one the end of the copy or of the iteration. -/
def State.afterSector (s : State) (k : Nat) (f : Foal) (j : CopyJob) : State :=
  let count := (s.iterRec f j).sectors
  let tb := s.copyBarrier k f j
  match j.ring with
  | none =>
    let s := if j.restart == count then s.endFoal k .done none 0#64 else s
    let s := match tb with
      | some (g, b) => s.tbSector g b
      | none => s
    if j.restart == count then s.sweep else s.copySettle k
  | some q =>
    let s := match tb with
      | some (g, b) => s.tbUpdate g b fun x =>
          { x with sect := x.sect - 1, arrive := if j.restart == count then 0 else x.arrive }
      | none => s
    if j.restart == count then s.handback k f j q else s.copySettle k

/-- A sector of a .SS copy lands only while its peer is resident in the issuer's cluster: where the peer has been saved since, the
sector is issued again after the next test, and where it is gone the foal faults (R204; DEDUCED, log 85). -/
def State.peerHolds (s : State) (k : Nat) (f : Foal) (j : CopyJob) (n : Nat) : Option State :=
  if j.form != .ss then none
  else
    let out := j.out.filter fun y => y.ord != n
    match s.peer k f j with
    | .here _ => none
    | .saved => some (s.putJob k f { j with out := out, next := min j.next n })
    | .gone => some ((s.putJob k f { j with out := out, bad := (j.bad).orElse fun _ => some (n, .memFault, j.rcd.dest) }).copySettle k)

/-- COPY_SECTOR_LAND (R205): the read of sector `n` has returned. A write to global memory waits for the writes that its die
has read (R302). A poisoned one is a fault (R207); a sector more than 64
beyond the lowest unlanded one is held (R268). -/
def execCopySectorLand (core slot n : Nat) (s : State) : Out :=
  let k := foalKey core slot
  match s.foalAt k with
  | none => .next s
  | some f =>
    match f.job with
    | .copy j =>
      match j.out.find? fun x => x.ord == n with
      | none => .next s
      | some x =>
        let out := j.out.filter fun y => y.ord != n
        if !f.live || j.restart + 64 < n || (x.global && !s.engineMay k) then .next s
        else match s.peerHolds k f j n with
        | some t => .next t
        | none =>
        match x.poison with
        | some a =>
          let bad := match j.bad with
            | some (m, c, b) => if m < n then some (m, c, b) else some (n, TrapCode.memPoison, a)
            | none => some (n, TrapCode.memPoison, a)
          .next ((s.putJob k f { j with out := out, bad := bad }).copySettle k)
        | none =>
          let ahead := n :: j.ahead
          let r := advanceRestart 66 j.restart ahead
          let j := { j with out := out, restart := r, ahead := ahead.filter fun a => decide (r ≤ a) }
          let f := { f with progress := f.progress + 1 }
          .next (((s.landWrites k f x).putJob k f j).afterSector k f j)
    | .mma _ => .next s
    | .tmma _ => .next s
    | .batch _ => .next s
    | .coll _ => .next s

/-- CPL_ITERATION_START (R215): the next iteration takes a slot once one is free; an iteration whose barrier has completed
since its last sector landed hands its slot back. -/
def execCplIterationStart (core slot : Nat) (s : State) : Out :=
  let k := foalKey core slot
  let s := s.copySettle k
  match s.foalAt k with
  | none => .next s
  | some f =>
    match f.job with
    | .copy j =>
      match j.ring with
      | none => .next s
      | some q =>
        if !s.startable f || !s.released f || (s.core core).step != .running then .next s
        else
          let g := f.wg
          let r := s.ring g q
          if j.inIter then
            (if j.restart == (s.iterRec f j).sectors then .next (s.handback k f j q) else .next s)
          else if r.broken q then .next (s.copyFault k f j .illegalOperand (BitVec.ofNat 64 q))
          else if r.free == 0 then .next s
          else
            let s := s.putRing g q { r with free := r.free - 1 }
            let ps := regPages (r.slot r.eng)
            let j := { j with inIter := true, rslot := r.eng }
            let f := { f with started := true, pages := f.pages ++ ps.filter fun p => !f.pages.contains p, job := .copy j }
            let s := (s.putFoal k f).flipToEngine g ps
            let n := (s.iterRec f j).sectors
            .next (s.tbUpdate g (r.slotTb r.eng) fun x => { x with sect := x.sect + n })
    | .mma _ => .next s
    | .tmma _ => .next s
    | .batch _ => .next s
    | .coll _ => .next s

end Sys2Proof.Machine
end

