-- ==== Sys2Proof/Machine/FoalOps.lean ====
section
/-! DEFINITION. LCSEAL, FWAIT, FCTL, PWRH and TBAR (R208-R210, R216, R220-R223, R279). -/

namespace Sys2Proof.Machine

/-! ### Lane-copy batches (R216) -/

/-- LANEBATCH_END: the sealed batch of a slot ends once no lane copy of it is outstanding. -/
def State.batchEnd (s : State) (h slot : Nat) : State :=
  if (s.team h).batch slot != 0 then s
  else
    match (s.foalsOf h).find? fun e => e.2.live && e.2.job == .batch slot with
    | none => s
    | some (k, f) =>
      let x := Store.get BatchSlot.blank (s.team h).slots slot
      let s := s.putFoal k { f with progress := x.landed, flanes := x.lanes }
      let t := s.team h
      let s := s.setTeam h { t with slots := Store.erase slot t.slots }
      (match x.addr with
       | some a => s.endFoal k .fault (some .memPoison) (BitVec.ofNat 64 a)
       | none => s.endFoal k .done none 0#64).sweep

/-- What a landed copy adds to its slot's record. -/
def BatchSlot.count (x : BatchSlot) (c : LaneCopy) (pois : Bool) : BatchSlot :=
  { landed := x.landed + 1, addr := if pois then (match x.addr with
                                                  | some a => some a
                                                  | none => some c.dst) else x.addr,
    lanes := if pois then x.lanes ||| (1#64 <<< (c.lane % 64)) else x.lanes }

/-- A lane copy lands: its valid bytes and zeros after them, or zeros where a poisoned line was read (R173, R216). -/
def State.landCopy (s : State) (h : Nat) (c : LaneCopy) (bs : List Byte) (pois : Bool) : State :=
  let data := if pois then leBytes c.n 0 else bs ++ leBytes (c.n - bs.length) 0
  let s := s.scratch (s.team h).wg c.dst data
  let t := s.team h
  let x := (Store.get BatchSlot.blank t.slots c.slot).count c pois
  let s := s.setTeam h
    { t with copies := t.copies.filter fun y => y.id != c.id, slots := Store.set BatchSlot.blank t.slots c.slot x }
  let s := match (s.foalsOf h).find? fun e => e.2.live && e.2.job == .batch c.slot with
    | none => s
    | some (k, f) => s.putFoal k { f with progress := x.landed }
  s.batchEnd h c.slot

/-- LANE_COPY_LAND (R173, R174): lane copy number `id` of a team, once the team's earlier accesses to its bytes are performed
and its source line has come. DESIGN CHOICE: a store of the team to the source that is issued after the LCPY may be read
(log 69). -/
def State.copyLand (s : State) (h id : Nat) : State :=
  let t := s.team h
  match t.copies.find? fun c => c.id == id with
  | none => s
  | some c =>
    if !((t.before id .global c.src).all Req.shown) || !(t.before id .scratch (spLocs c.dst c.n)).isEmpty then s
    else match s.fetchBytes (s.coreOf h) (s.wgOf h).launch.part t.fresh .near c.src with
    | .wait f => s.addFill f
    | .held => s
    | .got s' bs pois => s'.landCopy h c bs pois

def execLaneCopyLand (t c : Nat) (s : State) : Out := .next ((s.copyLand t c).afterPart t)

/-- Whether the open slot holds a sealed, unfinished batch. -/
def State.sealedOpen (s : State) (h : Nat) : Bool :=
  (s.foalsOf h).any fun e => e.2.live && e.2.job == .batch (s.team h).openSlot

def execLcseal (sw : Bool) (t : SReg) (s : State) : Out :=
  begin (needT true []) s fun h =>
    if s.sealedOpen h then .next (s.park h .batch)
    else if !s.foalRoom h .lanebatch then .next (s.parkFoal h .lanebatch)
    else
      let k := (s.team h).openSlot
      let n := s.createFoal h
        { kind := .lanebatch, prio := 0, chain := 0, detach := false, regdest := false, dep := none, pages := [], reads := [],
          writes := [], job := .batch k }
      let s := n.1.setSreg h t n.2
      let s := s.setTeam h { s.team h with openSlot := (k + 1) % 4 }
      let s := match s.resolve h n.2 with
        | some (i, f) => s.putFoal i { f with progress := (Store.get BatchSlot.blank (s.team h).slots k).landed }
        | none => s
      .next ((s.batchEnd h k).done h 1 sw)

/-! ### FWAIT (R221) -/

/-- What a token's resolution gives a team: its status code, with the foal; 4 is STALE. -/
def State.tokenStatus (s : State) (h : Nat) (tok : DWord) : Nat × Option (Nat × Foal) :=
  match s.resolve h tok with
  | none => (4, none)
  | some (k, f) => (f.status.code, some (k, f))

/-- The park of an FWAIT: while the foal a token names has not ended. -/
def State.foalWait (s : State) (h : Nat) (tok : DWord) : Option State :=
  match s.resolve h tok with
  | none => none
  | some (k, f) => if f.live then some (s.park h (.foal (k % 256) f.gen.toNat)) else none

/-- A FAULT has been returned to the team (R117, R266). -/
def State.tell (s : State) (h : Nat) (tok : DWord) : State :=
  match s.resolve h tok with
  | none => s
  | some (k, f) => if f.status == .fault then s.putFoal k { f with told := true } else s

/-- FWAIT and FWAIT.T: the status, once the foal has ended. -/
def fwaitOp (trap sw : Bool) (d b : SReg) (s : State) : Out :=
  begin { need1 with teamOnly := true } s fun h =>
    let tok := s.sreg h b
    match s.foalWait h tok with
    | some s' => .next s'
    | none =>
      let st := (s.tokenStatus h tok).1
      let s := (((s.tell h tok).setSreg h d (BitVec.ofNat 64 st)).watch h)
      if trap && st == 2 then .next (s.raiseAt h .foalFault 1 tok 0#1024 false) else .next (s.done h 1 sw)

def execFwait (sw : Bool) (d b : SReg) (s : State) : Out := fwaitOp false sw d b s
def execFwaitT (sw : Bool) (d b : SReg) (s : State) : Out := fwaitOp true sw d b s

def execFtest (sw : Bool) (d b : SReg) (s : State) : Out :=
  begin { need1 with teamOnly := true } s fun h =>
    let tok := s.sreg h b
    match if s.det h then s.foalWait h tok else none with
    | some s' => .next s'
    | none =>
      let st := (s.tokenStatus h tok).1
      let st := if st == 5 then 0 else st
      .next ((((s.tell h tok).setSreg h d (BitVec.ofNat 64 st)).setScc h (st != 0)).done h 1 sw)

/-- Attached foals of a team. -/
def State.attachedOf (s : State) (h : Nat) : List (Nat × Foal) := (s.foalsOf h).filter fun e => e.2.level == .attached

def execFwaitall (sw : Bool) (d : SReg) (s : State) : Out :=
  begin { need1 with teamOnly := true } s fun h =>
    let fs := s.attachedOf h
    if fs.any fun e => e.2.live then .next (s.park h .allFoals)
    else
      let n := (fs.filter fun e => e.2.status == .fault).length
      .next (((s.setSreg h d (BitVec.ofNat 64 n)).watch h).done h 1 sw)

/-! ### FCTL (R222) -/

def execFcancel (sw : Bool) (b : SReg) (s : State) : Out :=
  begin { need1 with teamOnly := true } s fun h =>
    match s.resolve h (s.sreg h b) with
    | none => .next (s.done h 1 sw)
    | some (k, _) => .next (((s.cancelFoal k).sweep).done h 1 sw)

def execFdetach (sw : Bool) (b : SReg) (s : State) : Out :=
  begin { need1 with teamOnly := true } s fun h =>
    match s.resolve h (s.sreg h b) with
    | none => .next (s.done h 1 sw)
    | some (k, f) =>
      if f.live then
        if f.regdest then .next (s.raise h .detachReg 1)
        else if f.detached then .next (s.done h 1 sw)
        else .next (((s.detach k).sweep).done h 1 sw)
      else if f.status == .fault && !f.told && !f.detached then
        -- the fault has not reached software: it is sent at the detachment (R266)
        .next ((((s.detach k).reportOrphan k).sweep).done h 1 sw)
      else .next (s.done h 1 sw)

def execFprio (sw : Bool) (b : SReg) (a : Src) (s : State) : Out :=
  begin { needS a with teamOnly := true } s fun h =>
    let p := (Src.scalar s h a).toNat
    if 8 ≤ p then .next (s.raise h .illegalOperand (Src.len a))
    else match s.resolve h (s.sreg h b) with
    | none => .next (s.done h (Src.len a) sw)
    | some (k, f) =>
      .next ((if f.live then s.putFoal k { f with prio := s.foalPrio h p } else s).done h (Src.len a) sw)

def execFstat (sw : Bool) (d b : SReg) (a : Src) (s : State) : Out :=
  begin { needS a with teamOnly := true } s fun h =>
    let tok := s.sreg h b
    let n := (Src.scalar s h a).toNat
    if 16 ≤ n then .next (s.raise h .illegalOperand (Src.len a))
    else match if s.det h then s.foalWait h tok else none with
    | some s' => .next s'
    | none =>
      let v := match s.resolve h tok with
        | none => 0
        | some (k, f) => leNat (((f.record (k % 256)).drop (8 * n)).take 8)
      .next ((s.setSreg h d (BitVec.ofNat 64 v)).done h (Src.len a) sw)

/-! ### PWRH (R223, R275, R279) -/

/-- Units a declaration asks for. -/
def PowerDecl.units (p : PowerDecl) : Nat := p.intensity + 1
/-- A declaration pending for 16 or more boundaries that its cluster's budget could hold (R276). -/
def PowerDecl.holdsBack (p : PowerDecl) (budget : Nat) : Bool := p.state == 1 && decide (16 ≤ p.wait ∧ p.units ≤ budget)

/-- The teams resident in a cluster. -/
def State.clusterTeams (s : State) (c : Nat) : List (Nat × Team) :=
  s.teams.filter fun e => (s.ctx e.1).kind == .team && (s.wg e.2.wg).core < 2304 && clusterOf (s.wg e.2.wg).core == c

/-- CBUDGET, halved at TBAND 7 (R284), and the budget in use under the package factor (R285). -/
def Cluster.cb (c : Cluster) : Nat := if c.tband == 7 then c.cbudget / 2 else c.cbudget
def State.budget (s : State) (c : Nat) : Nat := (s.cluster c).cb * s.control.f16 / 16

/-- Whether such a declaration is pending in a cluster; those of a halted context are not (R287). -/
def State.agedPending (s : State) (c : Nat) : Bool :=
  (s.clusterTeams c).any fun e => match e.2.power with
    | some p => !p.kept && p.holdsBack (s.budget c)
    | none => false

def execPwrhD (sw : Bool) (im o l : BitVec 4) (s : State) : Out :=
  begin (needT true []) s fun h =>
    let p : PowerDecl :=
      { state := 1, intensity := im.toNat, t0 := s.time, onset := o.toNat, start := 0#64, len := 2 ^ l.toNat, wait := 0,
        ext := none, doomed := false, kept := false }
    .next ((s.setTeam h { s.team h with power := some p, xref := false }).done h 1 sw)

/-- PWRH.X on the declaration a team holds, and whether it is refused at once; what needs an evaluation is refused there
(log 19). -/
def PowerDecl.extend (p : PowerDecl) (us : Nat) (aged : Bool) : PowerDecl × Bool :=
  if p.state == 1 then
    if 65535 < p.len + us then (p, true) else ({ p with len := p.len + us }, false)
  else ({ p with ext := some (p.ext.getD 0 + us), doomed := p.doomed || aged }, false)

def execPwrhX (sw : Bool) (l : BitVec 4) (s : State) : Out :=
  begin (needT true []) s fun h =>
    let t := s.team h
    match t.power with
    | none => .next ((s.setTeam h { t with xref := false }).done h 1 sw)
    | some p =>
      let r := p.extend (2 ^ l.toNat) (s.agedPending (clusterOf (s.coreOf h)))
      .next ((s.setTeam h { t with power := some r.1, xref := r.2 }).done h 1 sw)

def execPwrhE (sw : Bool) (s : State) : Out :=
  begin (needT true []) s fun h => .next ((s.setTeam h { s.team h with power := none }).done h 1 sw)

def execPwrhQ (sw : Bool) (s : State) : Out :=
  begin (needT true []) s fun h =>
    let g := match (s.team h).power with
      | some p => decide (2 ≤ p.state)
      | none => false
    .next ((s.setScc h g).done h 1 sw)

/-! ### TBAR (R210) -/

/-- The checks every TBAR form makes of its barrier address; `k` gets the offset. -/
def tbarOp (b : SReg) (a : Option Src) (s : State) (k : State → Nat → Nat → Out) : Out :=
  let need := match a with
    | some x => needS x
    | none => need1
  begin { need with teamOnly := true } s fun h =>
    let s := s.settle h
    let o := (s.sreg h b).toNat % 2 ^ 20
    if o % 16 != 0 then .next (s.raiseRegion h .align need.len o)
    else if s.spSize h < o + 16 then .next (s.raiseRegion h .memFault need.len (max o (s.spSize h)))
    else if (s.wgOf h).enginePage [o / 4096] then .next (s.park h (.pages [o / 4096]))
    else k s h o

def execTbinit (sw : Bool) (b : SReg) (a : Src) (s : State) : Out :=
  tbarOp b (some a) s fun s h o =>
    let v := (Src.scalar s h a).toNat
    let n := v % 2 ^ 16
    let c : Nat := v / 2 ^ 16
    if n == 0 || 2 ^ 31 ≤ c then .next (s.raise h .illegalOperand (Src.len a))
    else
      .next ((s.putTbar (s.team h).wg o
        { phase := 0, arrive := n, owner := true, fault := false, frozen := false, sect := Int.ofNat c, arrive0 := n,
          sect0 := c, broken := false }).done h (Src.len a) sw)

def execTbarv (sw : Bool) (d b : SReg) (s : State) : Out :=
  tbarOp b none s fun s h o =>
    let t := s.team h
    if t.loads != 0 || t.stores != 0 then .next (s.park h (.counts .barrier true false))
    else
      let x := s.tbar t.wg o
      if x.broken || x.arrive == 0 then .next (s.raise h .illegalOperand 1)
      else
        let s := s.putTbar t.wg o ({ x with arrive := x.arrive - 1 }).check
        .next ((s.setSreg h d (BitVec.ofNat 64 x.phase)).done h 1 sw)

def execTbwait (sw : Bool) (d b : SReg) (a : Src) (s : State) : Out :=
  tbarOp b (some a) s fun s h o =>
    let p := (Src.scalar s h a).toNat
    let x := s.tbar (s.team h).wg o
    if 16 ≤ p || x.broken then .next (s.raise h .illegalOperand (Src.len a))
    else if x.fault || x.phase != p then
      .next (((s.setSreg h d (if x.fault then 2#64 else 0#64)).watch h).done h (Src.len a) sw)
    else .next (s.park h (.tbar o p d.toNat (Src.len a) sw))

def execTbexp (sw : Bool) (b : SReg) (a : Src) (s : State) : Out :=
  tbarOp b (some a) s fun s h o =>
    let n := (Src.scalar s h a).toNat
    let x := s.tbar (s.team h).wg o
    if n == 0 || 2 ^ 31 ≤ n || x.broken || 2 ^ 31 ≤ x.sect + (n : Int) then .next (s.raise h .illegalOperand (Src.len a))
    else .next ((s.putTbar (s.team h).wg o ({ x with sect := x.sect + n }).check).done h (Src.len a) sw)

end Sys2Proof.Machine
end

