-- ==== Sys2Proof/Machine/Exit.lean ====
section
/-! DEFINITION. EXIT and EXIT.D (R117), and the special registers (R65-R68, R286). -/

namespace Sys2Proof.Machine

/-! ### Ending a team -/

/-- Load, store and open batch counts are 0. -/
def Team.drained (t : Team) : Bool := t.loads == 0 && t.stores == 0 && t.batch t.openSlot == 0

/-- The attached foals whose FAULT has not reached the team are sent to the fault server (R117, R266). -/
def State.reportUntold (s : State) (fs : List (Nat × Foal)) : State :=
  fs.foldl (fun s e => if e.2.status == .fault && !e.2.told then s.reportOrphan e.1 else s) s

/-- EXIT; it resets the watchdog (R117, R375). -/
def execExit (_sw : Bool) (s : State) : Out :=
  begin { need1 with teamOnly := true } s fun h =>
    let fs := s.attachedOf h
    if !(s.team h).drained then .next ((s.watch h).park h (.exiting false))
    else if fs.any fun e => e.2.live then .next ((s.watch h).park h (.exiting true))
    else .next (((s.reportUntold fs).endTeam h).sweep)

/-- EXIT.D: foals that have not ended, and those whose FAULT has not reached the team, are detached. -/
def execExitD (_sw : Bool) (s : State) : Out :=
  begin { need1 with teamOnly := true } s fun h =>
    let fs := s.attachedOf h
    if fs.any fun e => e.2.live && e.2.regdest then .next (s.raise h .detachReg 1)
    else if !(s.team h).drained then .next ((s.watch h).park h (.exiting false))
    else
      let go := fs.filter fun e => e.2.live || (e.2.status == .fault && !e.2.told)
      let s := go.foldl (fun s e => s.detach e.1) s
      .next (((s.reportUntold go).endTeam h).sweep)

/-! ### Special registers -/

/-- Assigned ids (R66). -/
def sregAssigned (n : Nat) : Bool :=
  decide (n ≤ 0x14) || decide (0x18 ≤ n ∧ n ≤ 0x1D) || decide (0x20 ≤ n ∧ n ≤ 0x22)

/-- BOOSTQ (R286). -/
def Cluster.boostq (c : Cluster) : DWord := BitVec.ofNat 64 (c.boost / 1000 % 2 ^ 16 + 2 ^ 16 * (c.boost % 1000))

/-- LEFT: the requested length in states 1 and 2, the whole µs that remain in state 3. -/
def PowerDecl.left (p : PowerDecl) (time : DWord) : Nat :=
  min 65535 (if p.state == 3 && !p.kept then (p.start.toNat + 1000 * p.len - time.toNat) / 1000 else p.len)

/-- PGRANT (R286). -/
def State.pgrant (s : State) (h : Nat) : DWord :=
  let t := s.team h
  let c := s.cluster (clusterOf (s.coreOf h))
  let low := match t.power with
    | none => 0
    | some p => p.state + 2 ^ 4 * p.intensity + 2 ^ 8 * min p.wait 255 + 2 ^ 16 * p.left s.time
  BitVec.ofNat 64 (low + 2 ^ 2 * t.xref.toNat + 2 ^ 3 * (c.thr != 0).toNat + 2 ^ 32 * c.freeu)

/-- BATCH (R68). -/
def Team.batchReg (t : Team) : DWord :=
  BitVec.ofNat 64 (t.batch 0 + 2 ^ 16 * t.batch 1 + 2 ^ 32 * t.batch 2 + 2 ^ 48 * t.batch 3)

/-- The value of a special register (R66). -/
def State.special (s : State) (h n : Nat) : DWord :=
  let t := s.team h
  let w := s.wgOf h
  let l := w.launch
  let c := s.cluster (clusterOf w.core)
  let v := fun x : Nat => (BitVec.ofNat 64 x : DWord)
  match n with
  | 0x00 => v t.width
  | 0x01 => v t.teamix
  | 0x02 => v l.teams
  | 0x03 => v w.wgix
  | 0x04 => v l.grid
  | 0x05 => l.launch.setWidth 64
  | 0x06 => l.graph.setWidth 64
  | 0x07 => l.phase.setWidth 64
  | 0x08 => l.job.setWidth 64
  | 0x09 => v l.part
  | 0x0A => v w.lcore
  | 0x0B => v (w.lcore / 16)
  | 0x0C => v (dieOfCore w.core)
  | 0x0D => v s.pkg
  | 0x0E => l.args
  | 0x0F => v (1024 * l.spkib)
  | 0x10 => v c.fstep
  | 0x11 => v c.tband
  | 0x12 => c.boostq
  | 0x13 => s.pgrant h
  | 0x14 => t.undecl.setWidth 64
  | 0x18 => t.flags.setWidth 64
  | 0x19 => (execSum t.exec).setWidth 64
  | 0x1A => t.msdepth
  | 0x1B => t.batchReg
  | 0x1C => v t.wdleft
  | 0x1D => v l.ceil
  | 0x20 => (s.core w.core).cgen.setWidth 64
  | 0x21 => (s.part l.part).slotSeq.setWidth 64
  | 0x22 => v l.det.toNat
  | _ => 0#64

def execSget (sw : Bool) (d : SReg) (im : BitVec 8) (s : State) : Out :=
  begin { need1 with teamOnly := true, legal := sregAssigned im.toNat } s fun h =>
    .next ((s.setSreg h d (s.special h im.toNat)).done h 1 sw)

/-- SSET: FLAGS, each 1 clears its flag (R67). -/
def execSset (sw : Bool) (d : SReg) (im : BitVec 8) (s : State) : Out :=
  begin { need1 with teamOnly := true, legal := im == 0x18#8 } s fun h =>
    let t := s.team h
    .next ((s.setTeam h { t with flags := t.flags.clear ((s.sreg h d).setWidth 5) }).done h 1 sw)

end Sys2Proof.Machine
end

