-- ==== Sys2Proof/Machine/Sha3.lean ====
section
/-! DEFINITION. SHA3-512 (R348, R364, R403-R406), the hash function of FIPS 202 that the manual names. -/

namespace Sys2Proof.Machine

/-- The 24 round constants of Keccak-f[1600]. -/
def keccakRc : List DWord :=
  [0x0000000000000001#64, 0x0000000000008082#64, 0x800000000000808A#64, 0x8000000080008000#64, 0x000000000000808B#64,
   0x0000000080000001#64, 0x8000000080008081#64, 0x8000000000008009#64, 0x000000000000008A#64, 0x0000000000000088#64,
   0x0000000080008009#64, 0x000000008000000A#64, 0x000000008000808B#64, 0x800000000000008B#64, 0x8000000000008089#64,
   0x8000000000008003#64, 0x8000000000008002#64, 0x8000000000000080#64, 0x000000000000800A#64, 0x800000008000000A#64,
   0x8000000080008081#64, 0x8000000000008080#64, 0x0000000080000001#64, 0x8000000080008008#64]

/-- Rotation of lane (x, y), at x + 5 y. -/
def keccakRot : List Nat :=
  [0, 1, 62, 28, 27, 36, 44, 6, 55, 20, 3, 10, 43, 25, 39, 41, 45, 15, 21, 8, 18, 2, 61, 56, 14]

def rotl64 (x : DWord) (n : Nat) : DWord := (x <<< n) ||| (x >>> (64 - n))

/-- One round on the 25 lanes. -/
def keccakRound (a : List DWord) (rc : DWord) : List DWord :=
  let at_ := fun (l : List DWord) (x y : Nat) => l.getD (x % 5 + 5 * (y % 5)) 0#64
  let c := (List.range 5).map fun x => at_ a x 0 ^^^ at_ a x 1 ^^^ at_ a x 2 ^^^ at_ a x 3 ^^^ at_ a x 4
  let d := (List.range 5).map fun x => c.getD ((x + 4) % 5) 0#64 ^^^ rotl64 (c.getD ((x + 1) % 5) 0#64) 1
  let t := a.zipIdx.map fun p => p.1 ^^^ d.getD (p.2 % 5) 0#64
  -- rho and pi: lane (x, y) moves to (y, 2x + 3y)
  let b := (List.range 25).map fun i =>
    let x := i % 5
    let y := i / 5
    -- the source of (x, y) is (x + 3y, x)
    rotl64 (at_ t (x + 3 * y) x) (keccakRot.getD ((x + 3 * y) % 5 + 5 * x) 0)
  let e := (List.range 25).map fun i => at_ b i (i / 5) ^^^ (~~~(at_ b (i + 1) (i / 5)) &&& at_ b (i + 2) (i / 5))
  match e with
  | [] => []
  | x :: r => (x ^^^ rc) :: r

def keccakF (a : List DWord) : List DWord := keccakRc.foldl keccakRound a

/-- Absorbs the padded blocks of 72 bytes. -/
def sha3Absorb : Nat → List Byte → List DWord → List DWord
  | 0, _, a => a
  | n + 1, bs, a =>
    let a := a.zipIdx.map fun p => if p.2 < 9 then p.1 ^^^ BitVec.ofNat 64 (leNat ((bs.drop (8 * p.2)).take 8)) else p.1
    sha3Absorb n (bs.drop 72) (keccakF a)

/-- The padding: 0x06, zeros, and the top bit of the last byte. -/
def sha3Pad (bs : List Byte) : List Byte :=
  let r := 72 - bs.length % 72
  if r == 1 then bs ++ [0x86#8] else bs ++ [0x06#8] ++ List.replicate (r - 2) 0#8 ++ [0x80#8]

/-- The 64-byte SHA3-512 digest of a list of bytes. -/
def sha3 (bs : List Byte) : List Byte :=
  let p := sha3Pad bs
  ((sha3Absorb (p.length / 72) p (List.replicate 25 0#64)).take 8).flatMap fun x => leBytes 8 x.toNat

end Sys2Proof.Machine
end

