-- ==== Sys2Proof/Machine/Image.lean ====
section
/-! DEFINITION. Saved contexts: the virtual core of an image slot, and the bytes of an image with its digest and of the image
directory (R364-R367, R386). -/

namespace Sys2Proof.Machine

/-! ### The virtual core of a slot -/

/-- Moves what stands under a core to another: its workgroups, its foal table and its core context (R269). -/
def State.moveCore (s : State) (a b : Nat) : State :=
  let wgs := s.wgs.map fun (e : Nat × Workgroup) => if e.2.core == a then (e.1, { e.2 with core := b }) else e
  let fs := (s.foalsOn a).foldl (fun (m : Store Foal) e => Store.put (foalKey b (e.1 % 256)) e.2 m)
    (s.foals.filter fun e => e.1 / 256 != a)
  let gs := (s.foalGens.filter fun e => e.1 / 256 == a).foldl
    (fun (m : Store (BitVec 12)) e => Store.put (foalKey b (e.1 % 256)) e.2 m) (s.foalGens.filter fun e => e.1 / 256 != a && e.1 / 256 != b)
  let c := s.core a
  -- the physical core keeps its CGEN (R66, R355)
  { s with wgs := wgs, foals := fs, foalGens := gs,
           cores := Store.put b c (Store.set Core.blank s.cores a { Core.blank with cgen := if a < savedBase then c.cgen else 0#32 }) }

/-! ### Bytes -/

/-- Bytes with zeros after them up to n. -/
def fillTo (n : Nat) (bs : List Byte) : List Byte := bs ++ leBytes (n - bs.length) 0

/-- A park's reason and object (R53, R366). -/
def Wait.reason : Wait → Nat × Nat
  | .marker => (1, 0)
  | .header _ _ _ => (2, 0)
  | .counts .barrier _ _ => (3, 0)
  | .counts .ring _ _ => (4, 0)
  | .counts _ _ _ => (1, 0)
  | .landed _ _ => (1, 0)
  | .barrierPhase b _ => (3, b)
  | .held rs => (7, rs.headD 0)
  | .pages ps => (8, 4096 * ps.headD 0)
  | .exiting _ => (5, 0)
  | .batch => (5, 0)
  | .foal k g => (5, k + 256 * g)
  | .allFoals => (5, 0)
  | .foalSlot k => (5, k)
  | .value sc va _ _ _ _ => (6, va.toNat + 2 ^ 63 * sc.toNat)
  | .tbar a _ _ _ _ => (3, a)
  | .ringFilled a => (4, a)
  | .queueRoom l => (6, l.pa)
  | .counter e _ => (6, e)
  | .halt => (9, 0)
  | .tlbi => (9, 0)
  | .rctx _ _ _ => (9, 0)
  | .server => (9, 0)

/-- STATE, REASON and WAITOBJ of a team record; the park a trap interrupted is kept with the trap. -/
def Status.code : Status → Nat × Nat × Nat
  | .ready => (0, 0, 0)
  | .parked w => (1, w.reason)
  | .trapped => (2, 0, 0)
  | .stopped => (0, 0, 0)

/-- Positions of the logical lanes, ten bits each. -/
def Team.placeBytes (t : Team) : List Byte :=
  leBytes 1280 ((List.range 1024).foldl (fun a i => a + (if i < t.width then t.position i else i) * 2 ^ (10 * i)) 0)

/-- A replay packet whose address block lies at an offset of the replay region (R356). -/
def replayPacket (r : Req) (icgen : Word) (off : Nat) : List Byte :=
  let dreg := match r.dest with
    | .none => 0
    | .vec d => d
    | .scalar d => d
  let sc := match r.dest with
    | .none => 0
    | .vec _ => 0
    | .scalar _ => 1
  let op := (r.word.extractLsb' 24 7).toNat
  leBytes 8 r.pc.toNat ++ leBytes 1 r.widx ++ leBytes 1 op ++ leBytes 1 (r.word.extractLsb' 22 2).toNat ++ leBytes 1 dreg ++
    leBytes 1 (sc + 2 * r.acquire.isSome.toNat) ++
    leBytes 1 (if op == 0x43 then (r.word.extractLsb' 15 3).toNat else 0) ++ leBytes 2 r.todo.length ++ leBytes 8 off ++
    leBytes 4 icgen.toNat ++ leBytes 4 0

/-- The address block of a packet (R356). -/
def replayBlock (w : Nat) (r : Req) : List Byte :=
  (List.range w).flatMap fun i => match r.todo.find? fun q => q.lane == i with
    | some q => leBytes 8 (q.va.toNat + 2 ^ 63)
    | none => leBytes 8 0

/-- The 8 KiB record of a team in workgroup slot `slot`, its replay blocks beginning at `off` (R366). -/
def State.teamRecord (s : State) (h slot off : Nat) : List Byte :=
  let t := s.team h
  let c := s.ctx h
  let w := s.wgOf h
  let st := c.status.code
  let hd := match t.trap with
    | some r => (r.handle.getD 0#64).toNat
    | none => 0
  let decl := match t.power with
    | some p => p.state + 16 * p.intensity + 2 ^ 16 * p.left s.time
    | none => 0
  let pk := t.replay.zipIdx.flatMap fun e => replayPacket e.1.1 e.1.2 (off + 8 * t.width * e.2)
  let lm := fun k => leBytes 128 (t.lmk k).toNat
  fillTo 0x40 (leBytes 8 c.pc.toNat ++ leBytes 1 st.1 ++ leBytes 1 st.2.1 ++ leBytes 1 c.widx ++
      leBytes 1 (t.unsent.toNat + 2 * t.reply.isSome.toNat + 4 * t.reply.getD 0) ++ leBytes 4 (s.core w.core).cgen.toNat ++
      leBytes 8 st.2.2 ++ leBytes 8 hd ++ leBytes 2 t.width ++ leBytes 1 t.vregs ++ leBytes 1 slot ++ leBytes 4 t.teamix ++
      leBytes 4 w.wgix ++ leBytes 4 w.launch.launch.toNat ++ leBytes 4 t.prio) ++
    fillTo 0x40 (leBytes 8 t.rclock.toNat ++ leBytes 8 (t.timer.getD 0#64).toNat ++ leBytes 8 (t.timera.getD 0#64).toNat ++
      leBytes 4 (t.sleep - 1) ++ leBytes 4 0 ++ leBytes 8 t.wdleft ++ leBytes 8 decl) ++
    fillTo 0x40 (leBytes 8 t.msdepth.toNat ++ leBytes 8 t.batchReg.toNat ++ leBytes 1 t.openSlot ++ leBytes 1 c.scc.toNat ++
      leBytes 1 t.flags.toNat ++ leBytes 5 0 ++ leBytes 8 t.undecl.toNat) ++
    (List.range 16).flatMap (fun b => leBytes 4 (Store.get 0#32 t.lastPhase b).toNat) ++
    (List.range 64).flatMap (fun r => leBytes 8 (Store.get 0#64 c.sregs r).toNat) ++ leBytes 128 t.exec.toNat ++
    (List.range 8).flatMap lm ++ (List.range 8).flatMap (fun k => (lm k).take 32) ++ t.placeBytes ++ fillTo 512 pk ++
    leBytes 128 t.flane.toNat ++ (List.range 16).flatMap (fun r => leBytes 128 (t.entry r).toNat) ++
    (List.range 16).flatMap fun r => leBytes 128 (Store.get 0#1024 t.spillSlots r).toNat

/-- The 80-byte record of a COPY or COLL foal (R202, R214, R217, R268). -/
def Job.engineRecord : Job → List Byte
  | .mma _ => []
  | .tmma _ => []
  | .batch _ => []
  | .copy j =>
    let r := j.rcd
    leBytes 8 r.base.toNat ++ leBytes 2 r.run ++ leBytes 1 r.indim ++ leBytes 1 r.idxsz ++ leBytes 4 0 ++
      r.cnt.flatMap (fun n => leBytes 4 n) ++ r.str.flatMap (fun v => leBytes 4 v.toNat) ++ leBytes 8 r.idxaddr.toNat ++
      leBytes 8 r.dest.toNat ++ (if j.ring.isSome then leBytes 8 j.iters ++ leBytes 8 j.step.toNat else leBytes 16 0)
  | .coll j =>
    leBytes 4 j.group.toNat ++ leBytes 1 j.op ++ leBytes 1 j.ty ++ leBytes 1 j.comp ++ leBytes 1 0 ++ leBytes 8 j.send.toNat ++
      leBytes 8 j.recv.toNat ++ leBytes 8 j.count ++ leBytes 48 0

/-- The operand block of an MMA saved unstarted (R188, R365). -/
def Foal.operandBlock (f : Foal) (w : Nat) : List Byte :=
  match f.job with
  | .mma j =>
    if f.status == .running && !f.started then
      (List.range w).flatMap (fun i => (j.a ++ j.b ++ j.aux).flatMap fun v => leBytes 4 (v.lane i).toNat) ++ j.sca ++ j.scb
    else []
  | .tmma _ => []
  | .copy _ => []
  | .batch _ => []
  | .coll _ => []

/-- The team records and the blocks of region 6, in record order. -/
def State.recordsOf (s : State) (ts : List (Nat × Nat)) : List Byte × List Byte :=
  ts.foldl (fun (a : List Byte × List Byte) t =>
    let x := s.team t.1
    (a.1 ++ s.teamRecord t.1 t.2 a.2.length, a.2 ++ x.replay.flatMap fun e => replayBlock x.width e.1)) ([], [])

/-- Regions 1 and 7: the foal table with the operand blocks it names. -/
def State.foalRegions (s : State) (core : Nat) : List Byte × List Byte :=
  (List.range 256).foldl (fun (a : List Byte × List Byte) n =>
    match s.foalAt (foalKey core n) with
    | none => (a.1 ++ fillTo 128 (leBytes 4 (2 ^ 8 * (s.slotGen (foalKey core n)).toNat)), a.2)
    | some f =>
      let b := f.operandBlock (s.wg f.wg).launch.width
      let r := f.record n
      (a.1 ++ (if b.isEmpty then r else r.take 0x40 ++ leBytes 8 a.2.length ++ leBytes 4 b.length ++ leBytes 52 0), a.2 ++ b))
    ([], [])

/-- The eight regions of the context on a core, in the order of R365. -/
def State.imageRegions (s : State) (core : Nat) : List (List Byte) :=
  let ws := s.wgsOn core
  let ts := ws.zipIdx.flatMap fun (w : (Nat × Workgroup) × Nat) => (s.liveTeams w.1.2).map fun h => (h, w.2)
  let tr := s.recordsOf ts
  let fr := s.foalRegions core
  let er := (List.range 256).flatMap fun n => match s.foalAt (foalKey core n) with
    | some f => fillTo 128 (if f.status == .frozen then f.job.engineRecord else [])
    | none => leBytes 128 0
  let bars := (List.range 16).flatMap fun k => (List.range 16).flatMap fun b => match ws[k]? with
    | some w => let x := w.2.barrier b
                leBytes 4 x.phase.toNat ++ leBytes 2 x.arrived.toNat ++ leBytes 2 x.expect ++ leBytes 8 0
    | none => leBytes 16 0
  let regs := ts.flatMap fun t =>
    let x := s.team t.1
    (List.range x.width).flatMap fun i => (List.range x.vregs).flatMap fun r => leBytes 4 ((s.vreg t.1 r).lane i).toNat
  let sp := ws.flatMap fun w =>
    s.spRead w.1 0 (1024 * w.2.launch.spkib) ++ leBytes 32 (w.2.engPages.foldl (fun a p => a + 2 ^ p) 0)
  [fillTo (16 * 8192) tr.1, fr.1, er, bars, regs, sp, tr.2, fr.2]

/-- Offsets of regions that follow one another. -/
def regionOffsets (o : Nat) : List (List Byte) → List Nat
  | [] => []
  | r :: rs => o :: regionOffsets (o + r.length) rs

/-- The first 128 bytes of the image header (R364). -/
def State.imageHeader (s : State) (part vc : Nat) (x : Image) (rs : List (List Byte)) : List Byte :=
  let ws := s.wgsOn vc
  let nt := (ws.flatMap fun w => s.liveTeams w.2).length
  let lanes := ws.foldl (fun a w => a + (s.liveTeams w.2).length * w.2.launch.width) 0
  fillTo 0x40 (leBytes 4 0x4E474358 ++ leBytes 2 1 ++ leBytes 2 x.core ++ leBytes 4 x.job.toNat ++ leBytes 4 x.cgen.toNat ++
      leBytes 4 x.slotSeq.toNat ++ leBytes 1 part ++ leBytes 1 x.inc ++ leBytes 2 0 ++ leBytes 8 x.halted.toNat ++
      leBytes 2 (2 ^ nt - 1) ++ leBytes 2 (2 ^ ws.length - 1) ++ leBytes 4 lanes ++ leBytes 4 (rs.getD 4 []).length ++
      leBytes 4 (ws.foldl (fun a w => a + 1024 * w.2.launch.spkib) 0)) ++
    (regionOffsets 4096 rs).flatMap fun o => leBytes 8 o

/-- The whole image, its digest in place (R364). -/
def State.imageBytes (s : State) (part slot : Nat) (x : Image) : List Byte :=
  let vc := virtualCore part slot
  let rs := s.imageRegions vc
  let hd := s.imageHeader part vc x rs
  fillTo 4096 (hd ++ sha3 (hd ++ rs.flatten)) ++ rs.flatten

/-- Base of an image slot (R386). -/
def Partition.slotBase (p : Partition) (n : Nat) : Nat := p.ctxbase + 131072 + 6291456 * n
/-- Image slots of a partition. -/
def Partition.slots (p : Partition) : Nat := (p.ctxbytes - 131072) / 6291456

def Partition.image (p : Partition) (n : Nat) : Option Image := Store.find n p.images
def State.putImage (s : State) (part n : Nat) (x : Image) : State :=
  s.setPart part { s.part part with images := Store.put n x (s.part part).images }

/-- A directory entry (R386); none for a free slot. -/
def State.writeDirectory (s : State) (part n : Nat) : State :=
  let p := s.part part
  let bs := match p.image n with
    | some x => leBytes 4 x.job.toNat ++ leBytes 1 x.inc ++ leBytes 1 x.state ++ leBytes 2 x.core ++ leBytes 4 x.cgen.toNat ++ leBytes 4 0
    | none => leBytes 16 0
  s.physWrite part (p.ctxbase + 16 * n) bs

/-- An image is written, on the partition's account (R400). -/
def State.writeImage (s : State) (part n : Nat) : State :=
  match (s.part part).image n with
  | none => s
  | some x =>
    let bs := s.imageBytes part n x
    s.physWrite part ((s.part part).slotBase n) bs

/-- Whether the bytes of an image carry their digest (R367). -/
def State.imageOk (s : State) (part n : Nat) : Bool :=
  let b := (s.part part).slotBase n
  let hd := s.physRead b 128
  let off := fun k => leNat ((hd.drop (0x40 + 8 * k)).take 8)
  -- the regions end with region 7, whose length is what the state's own blocks take
  let len := off 7 + ((s.imageRegions (virtualCore part n)).getD 7 []).length - 4096
  s.physRead (b + 0x80) 64 == sha3 (hd ++ s.physRead (b + 4096) len)

/-- A slot is freed. -/
def State.freeImage (s : State) (part n : Nat) : State :=
  (s.setPart part { s.part part with images := Store.erase n (s.part part).images }).writeDirectory part n

/-- What changes a saved context changes its image (R241, R358): it is written afresh, and its slot is freed once it holds no
workgroup, and no foal that has not ended or whose report awaits its reply (R266, R386). -/
def State.renewImage (s : State) (core : Nat) : State :=
  if core < savedBase then s
  else
    let part := (core - savedBase) / 8192
    let n := (core - savedBase) % 8192
    if (s.wgsOn core).isEmpty && (s.foalsOn core).all fun e => e.2.reclaimable then
      let s := (s.foalsOn core).foldl (fun s e => s.freeSlot e.1) s
      { s with cores := Store.erase core s.cores, foalGens := s.foalGens.filter fun e => e.1 / 256 != core }.freeImage part n
    else s.writeImage part n

/-- The images of the saved contexts in which workgroups or foals are not what they were in `a` are renewed (R358, R386). -/
def State.renewChanged (s a : State) : State :=
  let cs := ((a.wgs.map fun (e : Nat × Workgroup) => e.2.core) ++ a.foals.map fun (e : Nat × Foal) => e.1 / 256).eraseDups.filter fun c =>
    decide (savedBase ≤ c) && (s.wgsOn c != a.wgsOn c || s.foalsOn c != a.foalsOn c)
  cs.foldl State.renewImage s

/-- The cancel of an entity, with what follows from it, saved contexts included (R327, R358). -/
def State.cancelWhole (s : State) (e : Nat) : State := ((s.cancelEntity e).sweep).renewChanged s

end Sys2Proof.Machine
end

