-- ==== Sys2Proof/Machine/Work.lean ====
section
/-! DEFINITION. Work: packets, queues and the queue monitor, placement, QPOST, RTASK and CNT (R52, R59, R60, R70, R224-R226,
R288, R317-R331). -/

namespace Sys2Proof.Machine

/-! ### Packets (R317) -/

/-- A packet. -/
structure Packet where
  kind : Nat
  prio : Nat
  flags : Nat
  teams : Nat
  producer : Nat
  width : Nat
  vregs : Nat
  level : Nat
  spkib : Nat
  code : Addr
  grid : Nat
  args : DWord
  signal : DWord
  placemap : DWord
  parent : DWord
  graph : Word
  phase : Word
  job : Word
  launch : Word
  wdlim : Nat
  lo : DWord
  hi : DWord
  leaf : Nat
  deriving DecidableEq, Repr

/-- n bytes of a record at an offset. -/
def recNat (bs : List Byte) (o n : Nat) : Nat := leNat ((bs.drop o).take n)

def Packet.ofBytes (bs : List Byte) : Packet :=
  let n := recNat bs
  { kind := n 0 2, prio := n 2 1, flags := n 3 1, teams := n 4 1, producer := n 5 1, width := n 6 2, vregs := n 8 1,
    level := n 9 1, spkib := n 0x0A 2, code := BitVec.ofNat 64 (n 0x10 8), grid := n 0x18 8, args := BitVec.ofNat 64 (n 0x20 8),
    signal := BitVec.ofNat 64 (n 0x28 8), placemap := BitVec.ofNat 64 (n 0x30 8), parent := BitVec.ofNat 64 (n 0x38 8),
    graph := BitVec.ofNat 32 (n 0x40 4), phase := BitVec.ofNat 32 (n 0x44 4), job := BitVec.ofNat 32 (n 0x48 4),
    launch := BitVec.ofNat 32 (n 0x4C 4), wdlim := n 0x50 2, lo := BitVec.ofNat 64 (n 0x58 8),
    hi := BitVec.ofNat 64 (n 0x60 8), leaf := n 0x68 4 }

/-- The bytes a kind uses: offset and length. -/
def kindFields (k : Nat) : List (Nat × Nat) :=
  let work := [(0, 9), (0x0A, 2), (0x10, 0x42)]
  if k == 1 then work
  else if k == 2 then work ++ [(0x58, 0x14)]
  else if k == 3 then [(0, 2), (0x20, 16)]
  else if k == 4 then [(0, 2), (9, 1), (0x40, 16)]
  else []

/-- The first check of R318: KIND, and the bytes that must be zero. -/
def packetZeros (bs : List Byte) : Bool :=
  let k := recNat bs 0 2
  decide (1 ≤ k ∧ k ≤ 4) && (List.range 128).all fun i =>
    bs.getD i 0#8 == 0#8 || (kindFields k).any fun f => decide (f.1 ≤ i ∧ i < f.1 + f.2)

/-- The second check: ranges and cross-field rules. -/
def Packet.fields (p : Packet) : Bool :=
  if p.kind ≤ 2 then
    decide (p.prio ≤ 7 ∧ p.flags < 8 ∧ 1 ≤ p.teams ∧ p.teams ≤ 16 ∧ p.width % 32 = 0 ∧ 32 ≤ p.width ∧ p.width ≤ 1024 ∧
      p.vregs % 8 = 0 ∧ 8 ≤ p.vregs ∧ p.vregs ≤ 128 ∧ p.spkib ≤ 1024 ∧ p.spkib % 64 = 0 ∧ 1 ≤ p.grid ∧ p.grid < 2 ^ 32) &&
      (if p.flags.testBit 1 then decide (p.producer < p.teams) else p.producer == 0xFF) &&
      p.code.toNat % 4 == 0 && p.signal.toNat % 8 == 0 && (p.placemap != 0#64) == p.flags.testBit 0 && p.launch != 0#32 &&
      (p.wdlim == 0 || decide (12 ≤ p.wdlim ∧ p.wdlim ≤ 40)) && (p.kind == 1 || (decide (p.lo ≤ p.hi) && p.leaf != 0))
  else if p.kind == 3 then p.signal.toNat % 8 == 0
  else
    decide (p.level ≤ 3) && (p.level == 0 || p.launch == 0#32) && (p.level == 1 || p.graph == 0#32) &&
      (p.level == 2 || p.phase == 0#32) && (p.level == 3 || p.job == 0#32)

/-- A workgroup of T teams of width W with V registers and a scratchpad beside what a core holds (R59). -/
def coreFits (bytes lanes teams kib t w v k : Nat) : Bool :=
  decide (bytes + t * w * v * 4 ≤ 1048576 ∧ lanes + t * w ≤ 4096 ∧ teams + t ≤ 16 ∧ kib + k ≤ 1024)

/-- Levels by their number in CNT, in cancel markers and in tokens. -/
def levelOf (n : Nat) : Level := if n == 0 then .launch else if n == 1 then .graph else if n == 2 then .phase else .job

/-- The id of a packet at a level. -/
def Packet.idAt (p : Packet) (n : Nat) : Word :=
  if n == 0 then p.launch else if n == 1 then p.graph else if n == 2 then p.phase else p.job

/-! ### Queue descriptors (R320) -/

structure Queue where
  base : Addr
  size : Nat
  prio : Nat
  weight : Nat
  part : Nat
  qflags : Nat
  read : DWord
  deficit : Nat
  write : DWord
  zeros : Bool
  deriving DecidableEq, Repr

def Queue.ofBytes (bs : List Byte) : Queue :=
  let n := recNat bs
  { base := BitVec.ofNat 64 (n 0 8), size := n 8 4, prio := n 0x0C 1, weight := n 0x0D 1, part := n 0x0E 1,
    qflags := n 0x0F 1, read := BitVec.ofNat 64 (n 0x10 8), deficit := n 0x18 8, write := BitVec.ofNat 64 (n 0x20 8),
    zeros := (bs.drop 0x28).all (· == 0#8) }

/-- The table of R320. -/
def Queue.ok (q : Queue) : Bool :=
  q.base.toNat % 128 == 0 && (List.range 16).any (fun k => q.size == 2 ^ (k + 1)) && decide (q.prio ≤ 7) && q.weight != 0 &&
    decide (1 ≤ q.part ∧ q.part ≤ 63) && decide (q.qflags < 4) && q.zeros

def Queue.count (q : Queue) : Nat := (q.write - q.read).toNat
def Queue.slotAddr (q : Queue) (n : DWord) : Addr := q.base + BitVec.ofNat 64 (128 * (n.toNat % q.size))

/-! ### QPOST (R224) -/

/-- Places of n bytes for a team's access, or its trap (R154). -/
def State.teamBytes (s : State) (h : Nat) (va : Addr) (n : Nat) (k : Access) : Except (TrapCode × Addr) (List Loc) :=
  match translateBytes s (some (s.coreOf h)) (s.wgOf h).launch.part va n k (s.walksOf h) with
  | .ok ls => .ok ls
  | .error (.fault, a) => .error (.memFault, a)
  | .error (.perm, a) => .error (.perm, a)

/-- A team's write performed at once at the home. -/
def State.teamWrite (s : State) (h : Nat) (bs : List (Loc × Byte)) : State :=
  s.engineWrite (s.coreOf h) (s.wgOf h).launch.part (s.wgOf h).entity bs

/-- Posting, once the queue has room. -/
def State.post (s : State) (h kind : Nat) (d : SReg) (n : Nat) (q : Queue) (dl : List Loc) (pkt : List Byte) (sw : Bool) : State :=
  match s.teamBytes h (q.slotAddr q.write) 128 .write with
  | .error e => s.raiseAt h e.1 n e.2 0#1024 false
  | .ok sl =>
    let e := (s.wgOf h).entity
    let pkt := if kind ≤ 2 then pkt.take 0x38 ++ leBytes 8 e ++ pkt.drop 0x40 else pkt
    let s := s.teamWrite h (sl.zip pkt ++ (dl.drop 0x20).zip (leBytes 8 (q.write.toNat + 1)))
    let s := if kind ≤ 2 then s.counterAdd e 1 else s
    (s.setSreg h d q.write).done h n sw

def qpostOp (kind : Nat) (sw : Bool) (d b : SReg) (a : Src) (s : State) : Out :=
  begin { needS a with teamOnly := true } s fun h =>
    let n := Src.len a
    let t := s.team h
    let da := s.sreg h b
    let pa := Src.scalar s h a
    if s.det h then .next (s.raise h .detViolation n)
    else if t.loads != 0 || t.stores != 0 || !s.engineMay (foalKey (s.coreOf h) 0) then
      -- the writes that its die has read are performed first, too (R302)
      .next (s.park h (.counts .switchMarker true false))
    else if da.toNat % 64 != 0 then .next (s.raiseAt h .align n da 0#1024 false)
    else if pa.toNat % 128 != 0 then .next (s.raiseAt h .align n pa 0#1024 false)
    else match s.unwalked h (vpagesOf da 64 ++ vpagesOf pa 128) with
    | p :: ps => .next (s.awaitWalks h (p :: ps))
    | [] =>
    match s.teamBytes h da 64 .readWrite with
    | .error e => .next (s.raiseAt h e.1 n e.2 0#1024 false)
    | .ok dl =>
      match s.teamBytes h pa 128 .read with
      | .error e => .next (s.raiseAt h e.1 n e.2 0#1024 false)
      | .ok pl =>
        let q := Queue.ofBytes (dl.map s.homeByte)
        let pkt := pl.map s.homeByte
        let slot := s.unwalked h (vpagesOf (q.slotAddr q.write) 128)
        if q.ok && !slot.isEmpty then .next (s.awaitWalks h slot)
        else
        let s := s.useAll (s.wgOf h).launch.part (dl ++ pl)
        if !q.ok then .next (s.raise h .illegalOperand n)
        else if recNat pkt 0 2 != kind || !packetZeros pkt || recNat pkt 0x38 8 != 0 && kind ≤ 2 then
          .next (s.raise h .illegalOperand n)
        else if q.part != (s.wgOf h).launch.part then .next (s.raiseAt h .perm n da 0#1024 false)
        else if q.size ≤ q.count then
          match dl with
          | [] => .next s
          | l :: _ => .next (s.park h (.queueRoom l))
        else .next (s.post h kind d n q dl pkt sw)

def execQpostL (sw : Bool) (d b : SReg) (a : Src) (s : State) : Out := qpostOp 1 sw d b a s
def execQpostR (sw : Bool) (d b : SReg) (a : Src) (s : State) : Out := qpostOp 2 sw d b a s
def execQpostS (sw : Bool) (d b : SReg) (a : Src) (s : State) : Out := qpostOp 3 sw d b a s

/-! ### Range tasks (R225, R330) -/

/-- The midpoint of an interval. -/
def rangeMid (lo hi : DWord) (leaf : Nat) : DWord := lo + BitVec.ofNat 64 (leaf * ((hi - lo).toNat / (2 * leaf)))

/-- Where an interval of a launch stands: a workgroup's own, the piece of one not yet placed, or one that RSPLIT gave. -/
inductive Holder where
  | wg (g : Nat)
  | piece (w : Nat)
  | spare (i : Nat)
  deriving DecidableEq, Repr

/-- The intervals of a range launch: WGIX, holder, interval. -/
def State.intervals (s : State) (e : Nat) (r : LaunchRec) : List (Nat × Holder × DWord × DWord) :=
  (s.wgs.filter (fun g => g.2.entity == e)).map (fun g => (g.2.wgix, .wg g.1, g.2.lo, g.2.hi)) ++
    r.pieces.zipIdx.map (fun p => (p.2, .piece p.2, p.1.1, p.1.2))

/-- The longest interval, of lowest WGIX among equals. -/
def longest : List (Nat × Holder × DWord × DWord) → Option (Nat × Holder × DWord × DWord)
  | [] => none
  | x :: xs => match longest xs with
    | none => some x
    | some y =>
      let lx := (x.2.2.2 - x.2.2.1).toNat
      let ly := (y.2.2.2 - y.2.2.1).toNat
      some (if ly < lx || (lx == ly && x.1 ≤ y.1) then x else y)

def State.setLaunch (s : State) (e : Nat) (r : LaunchRec) : State := s.setEntity e { s.entity e with launch := some r }

/-- The end of a holder's interval moves down. -/
def State.cutInterval (s : State) (e : Nat) (r : LaunchRec) (x : Holder) (hi : DWord) : State :=
  match x with
  | .wg g => s.setWg g { s.wg g with hi := hi }
  | .piece w => s.setLaunch e { r with pieces := r.pieces.modify w fun p => (p.1, hi) }
  | .spare i => s.setLaunch e { r with spare := r.spare.modify i fun p => (p.1, hi) }

/-- An idle workgroup takes work: an interval RSPLIT gave, whole, or else the upper half of the longest interval of at
least 2 × LEAF (R225, R330). -/
def State.steal (s : State) (g e : Nat) (r : LaunchRec) (leaf : Nat) : State :=
  let sp := r.spare.zipIdx.map fun p => (2 ^ 32 + p.2, Holder.spare p.2, p.1.1, p.1.2)
  match longest ((s.intervals e r ++ sp).filter fun x => decide (2 * leaf ≤ (x.2.2.2 - x.2.2.1).toNat)) with
  | some x =>
    let mid := rangeMid x.2.2.1 x.2.2.2 leaf
    let s := s.cutInterval e r x.2.1 mid
    s.setWg g { s.wg g with lo := mid, hi := x.2.2.2 }
  | none =>
    match longest sp with
    | some x => (s.setLaunch e { r with spare := r.spare.eraseIdx (x.1 - 2 ^ 32) }).setWg g { s.wg g with lo := x.2.2.1, hi := x.2.2.2 }
    | none => s

/-- A form of RTASK: `k` gets the launch's record, its HI and LEAF. -/
def rtaskOp (s : State) (k : Nat → LaunchRec → DWord → DWord → Nat → Out) : Out :=
  begin { need1 with teamOnly := true } s fun h =>
    match (s.entity (s.wgOf h).entity).launch with
    | none => .next (s.raise h .illegalOperand 1)
    | some r =>
      match (s.wgOf h).launch.range with
      | none => .next (s.raise h .illegalOperand 1)
      | some (lo, hi, leaf) => k h r lo hi leaf.toNat

def execRtake (sw : Bool) (d : SReg) (s : State) : Out :=
  rtaskOp s fun h r _ top leaf =>
    if d.toNat == 63 then .next (s.raise h .illegalOperand 1)
    else
      let g := (s.team h).wg
      let w := s.wg g
      let s := if w.lo < w.hi || s.det h then s else s.steal g w.entity r leaf
      let w := s.wg g
      if w.lo < w.hi then
        let b := if (w.hi - w.lo).toNat ≤ leaf then w.hi else w.lo + BitVec.ofNat 64 leaf
        let s := s.setWg g { w with lo := b }
        .next (((s.setSreg h d w.lo).setSreg h (d + 1) b).done h 1 sw)
      else .next (((s.setSreg h d top).setSreg h (d + 1) top).done h 1 sw)

def execRsplit (sw : Bool) (d : SReg) (s : State) : Out :=
  rtaskOp s fun h r _ _ leaf =>
    let g := (s.team h).wg
    let w := s.wg g
    if s.det h || (w.hi - w.lo).toNat < 2 * leaf then .next ((s.setSreg h d w.hi).done h 1 sw)
    else
      let mid := rangeMid w.lo w.hi leaf
      let s := (s.setWg g { w with hi := mid }).setLaunch w.entity { r with spare := r.spare ++ [(mid, w.hi)] }
      .next ((s.setSreg h d mid).done h 1 sw)

def execRdone (sw : Bool) (b : SReg) (s : State) : Out :=
  rtaskOp s fun h r lo hi _ =>
    let n := (s.sreg h b).toNat
    if (hi - lo).toNat < r.done + n then .next (s.raise h .illegalOperand 1)
    else .next ((s.setLaunch (s.wgOf h).entity { r with done := r.done + n }).done h 1 sw)

/-! ### CNT (R226) -/

/-- The team's own entity at a level. -/
def State.ownEntity (s : State) (h n : Nat) : Option Nat :=
  let e := (s.wgOf h).entity
  if n == 0 then some e
  else (s.entitiesAbove e).find? fun a => (s.entity a).level == levelOf n

/-- The entity an id operand names: −1 names the own one. -/
inductive Named where
  | live (e : Nat)
  | absent
  | noOwn
  deriving DecidableEq, Repr

def State.named (s : State) (h n : Nat) (id : DWord) : Named :=
  if id == BitVec.allOnes 64 then (match s.ownEntity h n with
    | some e => .live e
    | none => .noOwn)
  else if 2 ^ 32 ≤ id.toNat then .absent
  else match s.findEntity (s.wgOf h).launch.part (levelOf n) (id.setWidth 32) with
    | some e => .live e
    | none => .absent

/-- A form of CNT that names an entity with A: the checks common to them. -/
def cntOp (det : Bool) (l : BitVec 3) (a : Src) (s : State) (k : Nat → Named → Out) : Out :=
  begin { needS a with teamOnly := true, legal := Src.scalOk a && decide (l.toNat ≤ 3) } s fun h =>
    let n := Src.len a
    if det && s.det h then .next (s.raise h .detViolation n)
    else match s.named h l.toNat (Src.scalar s h a) with
    | .noOwn => .next (s.raise h .illegalOperand n)
    | .absent => k h .absent
    | .live e =>
      if (s.entity e).job != (s.wgOf h).launch.job && Src.scalar s h a != BitVec.allOnes 64 then .next (s.raise h .perm n)
      else k h (.live e)

/-- The n-th value the manual leaves open. -/
def State.free (s : State) : State × DWord := ({ s with freeCtr := s.freeCtr + 1 }, Config.freeValue s.freeCtr)

/-- CNT.ADD. A sum of 2^64 or more is stated nowhere: the counter is then free (log 5). -/
def execCntAdd (sw : Bool) (d : SReg) (l : BitVec 3) (a : Src) (s : State) : Out :=
  begin { needS a with teamOnly := true, legal := Src.scalOk a && decide (l.toNat ≤ 3) } s fun h =>
    let n := Src.len a
    let v := (Src.scalar s h a).toInt
    match s.ownEntity h l.toNat with
    | none => .next (s.raise h .illegalOperand n)
    | some e =>
      let x := s.entity e
      if x.added + v < 0 then .next (s.raise h .illegalOperand n)
      else
        let c := (x.counter.toNat : Int) + v
        let f := if c < 2 ^ 64 then (s, BitVec.ofInt 64 c) else s.free
        let s := f.1.setEntity e { x with counter := f.2, added := x.added + v }
        .next (((s.setSreg h d f.2).done h n sw).sweep)

def execCntWait (sw : Bool) (d : SReg) (l : BitVec 3) (a : Src) (s : State) : Out :=
  cntOp false l a s fun h e =>
    let lim := s.sreg h d
    match e with
    | .live e =>
      if (s.entity e).counter ≤ lim then .next ((s.acquire h .pkg).done h (Src.len a) sw) else .next (s.park h (.counter e lim))
    | .absent => .next ((s.acquire h .pkg).done h (Src.len a) sw)
    | .noOwn => .next ((s.acquire h .pkg).done h (Src.len a) sw)

def execCntRd (sw : Bool) (d : SReg) (l : BitVec 3) (a : Src) (s : State) : Out :=
  cntOp true l a s fun h e =>
    let v := match e with
      | .live e => (s.entity e).counter
      | .absent => 0#64
      | .noOwn => 0#64
    .next ((s.setSreg h d v).done h (Src.len a) sw)

/-- CANCEL_START (R327). -/
def State.cancelStart (s : State) (part n : Nat) (id : Word) : State :=
  let e := s.findEntity part (levelOf n) id
  let s := s.recordToken part n id
  match e with
  | some e => s.cancelWhole e
  | none => s

def execCntCncl (sw : Bool) (l : BitVec 3) (a : Src) (s : State) : Out :=
  cntOp false l a s fun h e =>
    let part := (s.wgOf h).launch.part
    let id := match e with
      | .live e => some (s.entity e).id
      -- no packet holds an id beyond 32 bits
      | .absent => if 2 ^ 32 ≤ (Src.scalar s h a).toNat then none else some ((Src.scalar s h a).setWidth 32)
      | .noOwn => none
    match id with
    | some id => .next ((s.done h (Src.len a) sw).cancelStart part l.toNat id)
    | none => .next (s.done h (Src.len a) sw)

end Sys2Proof.Machine
end

