-- ==== Sys2Proof/Machine/Monitor.lean ====
section
/-! DEFINITION. The queue monitor and the work distributors: QUEUE_POP, SIGNAL_PACKET_WRITE, QUEUE_TRANSLATION_RETRY and
WORKGROUP_PLACE (R52, R59, R60, R70, R288, R317-R328, R330). -/

namespace Sys2Proof.Machine

/-! ### The incarnation of a job (R361) -/

/-- Entry of a list with the largest, or the smallest, START. -/
def pickEntry (late : Bool) : List TEntry → Option TEntry
  | [] => none
  | e :: r => match pickEntry late r with
    | none => some e
    | some x => some (if late then (if e.start < x.start then x else e) else (if x.start < e.start then x else e))

/-- INC of a job of a partition, from the accepted timetable entries. -/
def State.incarnation (s : State) (part : Nat) (job : Word) : Nat :=
  let es := (s.pages.flatMap fun p => p.entries).filter fun e => e.part == part && e.job == job
  match pickEntry true (es.filter fun e => decide (e.start ≤ s.time)) with
  | some e => e.inc
  | none => match pickEntry false es with
    | some e => e.inc
    | none => 0

/-! ### Reading queues -/

/-- What the monitor finds at a place of the queue list. -/
inductive Seen where
  /-- it does not translate -/
  | dark
  /-- it breaks R320 or names another partition -/
  | broken
  | queue (q : Queue)

def State.seeQueue (s : State) (part i : Nat) : Seen :=
  match s.readVa part ((s.part part).queueAddr i) 64 .readWrite with
  | none => .dark
  | some bs =>
    let q := Queue.ofBytes bs
    if q.ok && q.part == part then .queue q
    else if (q.qflags / 2) % 2 == 1 then .queue { q with qflags := 2 } else .broken

/-- The partition's timetable lets it pop a packet now (R322): no switch under way, and for launch and range packets the
job of the entry in force. -/
def Partition.serves (p : Partition) (k : Packet) : Bool :=
  p.switch.isNone && (match p.force with
    | none => true
    | some f => !(k.kind == 1 || k.kind == 2) || k.job == f.entry.job)

/-- A token that drops a packet (R327). -/
def Partition.dropped (p : Partition) (k : Packet) : Bool :=
  p.tokens.any fun t => k.idAt t.level == t.id && t.id != 0#32

/-- Ids of the graph, phase and job entities of a packet, with their levels. -/
def Packet.groups (k : Packet) : List (Level × Word) :=
  [(.graph, k.graph), (.phase, k.phase), (.job, k.job)].filter fun x => x.2 != 0#32

/-- Whether the partition's share of the completion table has the entries a packet needs (R324). -/
def State.tableRoom (s : State) (part : Nat) (k : Packet) : Bool :=
  let live := (s.entities.filter fun e => e.2.part == part).length
  let new := (k.groups.filter fun x => (s.findEntity part x.1 x.2).isNone).length + 1
  decide (live + new ≤ (s.part part).ctent)

/-- Checks 3 to 5 of R318. -/
def State.packetCheck (s : State) (part : Nat) (k : Packet) : Nat :=
  let p := k.parent.toNat
  if !coreFits 0 0 0 0 k.teams k.width k.vregs k.spkib || (s.part part).clusters == 0#144 then 3
  else if (s.findEntity part .launch k.launch).isSome then 4
  else if p != 0 && !(s.entityLive p && (s.entity p).part == part && (s.entity p).level == .launch) then 5
  else 0

/-- A packet takes entries of the completion table: one of a launch or range that no check and no token turns away (R318,
R324, R327). -/
def State.takesEntry (s : State) (part : Nat) (k : Packet) (bs : List Byte) : Bool :=
  packetZeros bs && k.fields && (k.kind == 1 || k.kind == 2) && !(s.part part).dropped k && s.packetCheck part k == 0

/-- Cost of a packet. -/
def Packet.cost (k : Packet) : Nat := if k.kind == 1 || k.kind == 2 then min k.grid 4096 else 1

/-- A queue that may take its turn: its place, its descriptor and the packet at READ. -/
structure Turn where
  ix : Nat
  q : Queue
  bytes : List Byte

/-- Marks what the monitor cannot read, and gives the queues that may take their turns. -/
def State.turns (s : State) (part : Nat) : List Nat → State × List Turn
  | [] => (s, [])
  | i :: is =>
    let r := s.turns part is
    let s := r.1
    let st := (s.part part).qst i
    if st.blind then r
    else match s.seeQueue part i with
    | .dark => (((s.setQst part i { st with blind := true }).send (.log 10 (64 * part + i))).msix part 2, r.2)
    | .broken => (s.queueErr part i, r.2)
    | .queue q =>
      if q.qflags != 1 || st.held.isSome then r
      else if q.count == 0 then r
      else match s.readVa part (q.slotAddr q.read) 128 .read with
        | none => (s.queueErr part i, r.2)
        | some bs =>
          let k := Packet.ofBytes bs
          if (s.part part).serves k && (!s.takesEntry part k bs || s.tableRoom part k) then (s, ⟨i, q, bs⟩ :: r.2) else r

/-- Writes READ and DEFICIT of a descriptor. -/
def State.putQueue (s : State) (part i : Nat) (q : Queue) : State :=
  (s.writeVa part ((s.part part).queueAddr i + 0x10#64) (leBytes 8 q.read.toNat ++ leBytes 8 q.deficit)).getD s

/-- Deficit round-robin among queues of one PRIO (R322): the queue whose turn it is goes on while its DEFICIT covers the
packet at READ; then, or where it cannot take its turn, the turn passes to the next place in the list. -/
def State.roundRobin (s : State) (part prio : Nat) (ts : List Turn) : Nat → State × Option Turn
  | 0 => (s, none)
  | n + 1 =>
    let at_ := Store.get 0 s.qturn (8 * part + prio)
    -- the queue at or after the turn's place
    match (ts.find? fun t => decide (at_ ≤ t.ix)).orElse fun _ => ts.head? with
    | none => (s, none)
    | some t =>
      let s := if t.ix == at_ then s else s.setQst part at_ { (s.part part).qst at_ with inTurn := false }
      let st := (s.part part).qst t.ix
      let q := match s.seeQueue part t.ix with
        | .queue q => q
        | .dark => t.q
        | .broken => t.q
      let fresh := !(st.inTurn && t.ix == at_)
      let q := if fresh then { q with deficit := q.deficit + 16 * q.weight } else q
      let s := if fresh then (s.putQueue part t.ix q).setQst part t.ix { st with inTurn := true } else s
      let s := { s with qturn := Store.set 0 s.qturn (8 * part + prio) t.ix }
      if (Packet.ofBytes t.bytes).cost ≤ q.deficit then (s, some { t with q := q })
      else
        let s := s.setQst part t.ix { (s.part part).qst t.ix with inTurn := false }
        ({ s with qturn := Store.set 0 s.qturn (8 * part + prio) (t.ix + 1) }).roundRobin part prio ts n

/-! ### What a popped packet does -/

/-- A pop that takes no entry: its signal word, whatever its KIND, and its parent (R318, R327). -/
def State.turnAway (s : State) (part i : Nat) (k : Packet) (status reason : Nat) : State :=
  let s := s.writeSignal part i k.signal status reason k.launch
  let p := k.parent.toNat
  if (k.kind == 1 || k.kind == 2) && p != 0 && s.entityLive p && (s.entity p).part == part && (s.entity p).level == .launch then
    (s.counterAdd p (-1)).sweep
  else s

/-- The pieces of a range (R330). -/
def splitRange (leaf : Nat) (grid : Nat) : Nat → List (DWord × DWord) → List (DWord × DWord)
  | 0, ps => ps
  | n + 1, ps =>
    if grid ≤ ps.length then ps
    else
      let len := fun (p : DWord × DWord) => (p.2 - p.1).toNat
      -- the longest piece of length 2 * LEAF or more; the list is in order of start
      match (ps.zipIdx.filter fun p => decide (2 * leaf ≤ len p.1)).foldl (fun (b : Option ((DWord × DWord) × Nat)) p =>
          match b with
          | none => some p
          | some x => if len x.1 < len p.1 then some p else some x) none with
      | none => ps
      | some (p, i) =>
        let mid := rangeMid p.1 p.2 leaf
        splitRange leaf grid n (ps.take i ++ [(p.1, mid), (mid, p.2)] ++ ps.drop (i + 1))

/-- The entity of a level and id, opened where it is not live, counts one more launch (R324). -/
def State.openEntity (s : State) (part : Nat) (l : Level) (id job : Word) : State × Nat :=
  match s.findEntity part l id with
  | some e => (s.counterAdd e 1, e)
  | none =>
    let e := s.nextId
    ({ s with nextId := e + 1 }.setEntity e { Entity.blank with part := part, level := l, id := id, job := job, counter := 1#64 }, e)

/-- What the teams of a packet's launch are given. -/
def Packet.desc (k : Packet) (part ceil : Nat) (det : Bool) : Launch :=
  { part := part, job := k.job, launch := k.launch, graph := k.graph, phase := k.phase, grid := k.grid, teams := k.teams,
    width := k.width, vregs := k.vregs, spkib := k.spkib, code := k.code, args := k.args, prio := k.prio, ceil := ceil,
    wdlim := if k.wdlim == 0 then 32 else k.wdlim, det := det, producer := if k.flags.testBit 1 then some k.producer else none,
    persistent := k.flags.testBit 2, range := if k.kind == 2 then some (k.lo, k.hi, BitVec.ofNat 64 k.leaf) else none }

/-- The placement map, byte by byte; a byte whose address fails is free (log 5). -/
def State.readMap (s : State) (part : Nat) (va : Addr) (n : Nat) : List Byte :=
  (List.range n).map fun i =>
    match s.readVa part (va + BitVec.ofNat 64 i) 1 .read with
    | some [b] => b
    | some _ => (Config.freeValue (s.freeCtr + i)).setWidth 8
    | none => (Config.freeValue (s.freeCtr + i)).setWidth 8

/-- A launch or range packet that passes its checks takes its entries (R324, R328, R330). -/
def State.openLaunch (s : State) (part i : Nat) (q : Queue) (k : Packet) : State :=
  let r := k.groups.foldl (fun (a : State × List Nat) x =>
    let o := a.1.openEntity part x.1 x.2 k.job
    (o.1, a.2 ++ [o.2])) (s, [])
  let s := r.1
  let e := s.nextId
  let pieces := if k.kind == 2 then
      (let ps := splitRange k.leaf k.grid k.grid [(k.lo, k.hi)]
       ps ++ List.replicate (k.grid - ps.length) (k.hi, k.hi))
    else []
  let map := if k.flags.testBit 0 then some (s.readMap part k.placemap k.grid) else none
  let rec_ : LaunchRec :=
    { desc := k.desc part q.prio (s.part part).det, waiting := List.range k.grid, map := map,
      parent := if k.parent == 0#64 then none else some k.parent.toNat, above := r.2, queue := i, signal := k.signal,
      killed := false, done := 0, pieces := pieces, spare := [], popped := s.time, owned := (s.part part).clusters }
  let s := { s with nextId := e + 1, freeCtr := if map.isSome then s.freeCtr + k.grid else s.freeCtr }
  let s := if map.isSome then s.useVa part k.placemap k.grid .read else s
  let s := s.setEntity e
    { Entity.blank with part := part, level := .launch, id := k.launch, job := k.job, counter := BitVec.ofNat 64 k.grid,
                        launch := some rec_ }
  let st := (s.part part).qst i
  let s := s.setQst part i { st with live := st.live ++ [e] }
  -- a child of a launch under cancel is below it (R327)
  if k.parent != 0#64 && (s.entity k.parent.toNat).cancelled then s.cancelWhole e else s

/-- One popped packet (R318, R323, R327). -/
def State.popped (s : State) (part i : Nat) (q : Queue) (bs : List Byte) : State :=
  let k := Packet.ofBytes bs
  if !packetZeros bs then s.turnAway part i k 3 1
  else if !k.fields then s.turnAway part i k 3 2
  else if k.kind ≤ 2 then
    if (s.part part).dropped k then s.turnAway part i k 2 0
    else
      let c := s.packetCheck part k
      if c != 0 then s.turnAway part i k 3 c else s.openLaunch part i q k
  else if k.kind == 3 then s.setQst part i { (s.part part).qst i with held := some (k.signal, k.args) }
  else s.cancelStart part k.level (k.idAt k.level)

/-- A token goes once its entity has completed and every queue has popped past the WRITE it held (R327). -/
def State.pruneTokens (s : State) (part : Nat) : State :=
  let p := s.part part
  let behind := fun (t : CancelToken) => (List.range p.queues.length).any fun i =>
    match s.seeQueue part i with
    | .queue q => decide (q.read.toNat < (t.writes.getD i 0#64).toNat)
    | .dark => true
    | .broken => true
  s.setPart part { p with tokens := p.tokens.filter fun t => (s.findEntity part (levelOf t.level) t.id).isSome || behind t }

/-- The highest PRIO among turns. -/
def topPrio (ts : List Turn) : Nat := ts.foldl (fun a t => max a t.q.prio) 0

/-- QUEUE_POP (R321, R322): the chosen queue of a partition pops one packet. The lines of its descriptor and packet are used on
the partition's account (R377, R397); a look at a queue that pops nothing uses none (log 79). -/
def execQueuePop (part : Nat) (s : State) : Out :=
  if !(s.part part).live || (s.part part).destroying then .next s
  else
    let s := s.pruneTokens part
    let r := s.turns part (List.range (s.part part).queues.length)
    let ts := r.2.filter fun t => t.q.prio == topPrio r.2
    match r.1.roundRobin part (topPrio r.2) ts (64 * 257) with
    | (s, none) => .next s
    | (s, some t) =>
      let s := (s.useVa part ((s.part part).queueAddr t.ix) 64 .readWrite).useVa part (t.q.slotAddr t.q.read) 128 .read
      let q := { t.q with deficit := t.q.deficit - (Packet.ofBytes t.bytes).cost, read := t.q.read + 1#64 }
      -- a queue that becomes empty ends its turn
      let e := q.count == 0
      let q := if e then { q with deficit := 0 } else q
      let s := if e then { s with qturn := Store.set 0 s.qturn (8 * part + q.prio) (t.ix + 1) }.setQst part t.ix
          { (s.part part).qst t.ix with inTurn := false } else s
      .next (((s.putQueue part t.ix q).popped part t.ix q t.bytes).pruneTokens part)

/-- SIGNAL_PACKET_WRITE (R319, R323): every packet popped earlier from the queue has ended. Where the word cannot be written,
none is, and the queue moves on when software clears ERR. -/
def execSignalPacketWrite (part q : Nat) (s : State) : Out :=
  let st := (s.part part).qst q
  match st.held with
  | none => .next s
  | some (va, v) =>
    let err := match s.seeQueue part q with
      | .queue x => decide (2 ≤ x.qflags)
      | .dark => true
      | .broken => true
    if !st.live.isEmpty || err then .next s
    else if va == 0#64 then .next (s.setQst part q { st with held := none })
    else match s.writeVa part va (leBytes 8 v.toNat) with
      | some s' => .next (s'.setQst part q { st with held := none })
      | none => .next ((s.setQst part q { st with held := none }).queueErr part q)

/-- QUEUE_TRANSLATION_RETRY (R320): at a multiple of 1 ms the monitor tries again the descriptors that did not translate. -/
def execQueueTranslationRetry (part : Nat) (s : State) : Out :=
  if s.time.toNat % 1000000 != 0 then .next s
  else .next ((List.range (s.part part).queues.length).foldl (fun s i =>
    let st := (s.part part).qst i
    match s.seeQueue part i with
    | .dark => s
    | .broken => if st.blind then s.setQst part i { st with blind := false } else s
    | .queue _ => if st.blind then s.setQst part i { st with blind := false } else s) s)

/-! ### Placement -/

/-- Clusters of a set on a die, in increasing physical number. -/
def dieClusters (owned : BitVec 144) (die : Nat) : List Nat :=
  ((List.range 12).map fun c => 12 * die + c).filter fun c => owned.getLsbD c

/-- Logical core in its die of a physical core, under the map current when a launch was popped: its TIME and the clusters the
partition owned then; a cluster that it owns only since has its place in the map of now (R66, R288; DEDUCED, log 77). -/
def Partition.logicalCore (p : Partition) (core : Nat) (popped : DWord) (owned : BitVec 144) : Nat :=
  let cs := dieClusters (if owned.getLsbD (clusterOf core) then owned else p.clusters) (dieOfCore core)
  let n := cs.length
  let r := if n == 0 then 0 else popped.toNat / 4000000 % n
  16 * ((cs.idxOf (clusterOf core) + n - r) % (if n == 0 then 1 else n)) + core % 16

/-- Whether a core can accept a workgroup of a launch beside what it holds (R59, R60).  Teams that have ended count until their
workgroup retires (DESIGN CHOICE, log 90). -/
def State.coreAccepts (s : State) (core : Nat) (d : Launch) : Bool :=
  let ws := (s.wgsOn core).map fun e => e.2.launch
  coreFits (ws.foldl (fun a w => a + w.teams * w.width * w.vregs * 4) 0) (ws.foldl (fun a w => a + w.teams * w.width) 0)
    (ws.foldl (fun a w => a + w.teams) 0) (ws.foldl (fun a w => a + w.spkib) 0) d.teams d.width d.vregs d.spkib

/-- A core that belongs to a partition, holds nothing else's context, and has power (R411). -/
def State.coreFree (s : State) (core part : Nat) : Bool :=
  let c := s.core core
  s.powered && decide (core < 2304) && (s.part part).clusters.getLsbD (clusterOf core) && (c.part == 0 || c.part == part) &&
    c.step == .running

/-- The die a workgroup asks for is the core's, or it has no preference, or the partition owns none of it (R328). -/
def State.dieWanted (s : State) (part core : Nat) (m : Option (List Byte)) (w : Nat) : Bool :=
  match m with
  | none => true
  | some bs =>
    let d := (bs.getD w 0xFF#8).toNat
    12 ≤ d || dieOfCore core == d || (dieClusters (s.part part).clusters d).isEmpty

/-- The sector of a workgroup's teams: all in one in deterministic mode (R336), and otherwise spread. DESIGN CHOICE: the spec
does not say which sector a team is bound to (R51; log 63). -/
def sectorFor (det : Bool) (slot t : Nat) : Nat := if det then slot % 4 else t % 4

/-- A team at its start (R66, R70). -/
def State.startTeam (s : State) (g : Nat) (w : Workgroup) (slot t h : Nat) : State :=
  let d := w.launch
  let sregs := Store.set 0#64 (Store.set 0#64 (Store.set 0#64 [] 0 d.args) 1 (BitVec.ofNat 64 w.wgix)) 2 (BitVec.ofNat 64 t)
  (s.setCtx h { Ctx.blank with kind := .team, status := .ready, sregs := sregs, pc := d.code }).setTeam h
    { Team.blank with wg := g, teamix := t, width := d.width, vregs := d.vregs, sector := sectorFor d.det slot t,
                      prio := min d.prio d.ceil, exec := maskBelow d.width, wdleft := 2 ^ d.wdlim, fresh := s.now }

/-- WORKGROUP_PLACE (R52, R328): the next workgroup of a launch becomes resident on a core that can accept it, all its teams
together. -/
def execWorkgroupPlace (e core : Nat) (s : State) : Out :=
  let x := s.entity e
  match x.launch with
  | none => .next s
  | some r =>
    match r.waiting with
    | [] => .next s
    | w :: rest =>
      let d := r.desc
      let p := s.part x.part
      let job := match p.force with
        | some f => f.entry.job == d.job
        | none => true
      if !p.live || p.destroying || p.switch.isSome || !job || !s.coreFree core x.part || !s.coreAccepts core d || !s.dieWanted x.part core r.map w
      then .next s
      else
        let g := s.nextId
        let hs := (List.range d.teams).map fun t => g + 1 + t
        let c := s.core core
        let s := if c.part == 0 then
            s.setCore core { Core.blank with cgen := c.cgen, part := x.part, job := d.job, inc := match p.force with
                                                                                  | some f => f.entry.inc
                                                                                  | none => s.incarnation x.part d.job }
          else s
        let slot := (s.wgsOn core).length
        let top := match d.range with
          | some (_, hi, _) => (hi, hi)
          | none => (0#64, 0#64)
        let iv := r.pieces.getD w top
        let steps := (s.freeSteps core).take (d.spkib / 64)
        let wg : Workgroup :=
          { Workgroup.blank with core := core, lcore := p.logicalCore core r.popped r.owned, wgix := w, entity := e, launch := d,
                                 teams := hs, lo := iv.1, hi := iv.2, since := s.now, steps := steps }
        let s := s.dropSteps core steps
        let s := { s with nextId := g + 1 + d.teams }.setWg g wg
        let s := s.setLaunch e { r with waiting := rest, pieces := r.pieces.set w top }
        .next (hs.zipIdx.foldl (fun s p => s.startTeam g wg slot p.2 p.1) s).tick

end Sys2Proof.Machine
end

