-- ==== Sys2Proof/Machine/Usage.lean ====
section
/-! DEFINITION. Usage records: how one is closed, signed, chained and logged (R402-R405). -/

namespace Sys2Proof.Machine

/-- The identity public key, 2,592 bytes (R405). -/
def identityKeyBytes : List Byte := (List.range 2592).map Config.identityKey

/-- DEVID: bytes 0-31 of the digest of the identity public key. -/
def deviceId : List Byte := (sha3 identityKeyBytes).take 32

/-- JOB and SEQ of a slot's entry; 0 if none. -/
def entryIds : Option TEntry → Word × Word
  | some e => (e.job, e.seq)
  | none => (0#32, 0#32)

/-- The entry whose slot a partition's next record falls in: until the record of the slot's end (R402, R403). -/
def Partition.slotEntry (p : Partition) : Option TEntry := p.force.bind fun f => if f.closed then none else some f.entry

/-- The 256 bytes of a record of partition `part` that closes now, for a slot's entry (R403). -/
def State.usageBytes (s : State) (part kind : Nat) (e : Option TEntry) : List Byte :=
  let p := s.part part
  let u := p.usage
  let ids := entryIds e
  fillTo 0x30 (leBytes 4 0x4E475552 ++ leBytes 2 1 ++ leBytes 1 kind ++ leBytes 1 part ++ leBytes 8 u.seq ++
      leBytes 8 u.tend.toNat ++ leBytes 8 s.time.toNat ++ leBytes 4 ids.1.toNat ++ leBytes 4 ids.2.toNat ++ leBytes 2 s.pkg) ++
    (List.range 10).flatMap (fun k => leBytes 8 (Store.get 0#64 p.meters k).toNat) ++ fillTo 64 u.prev ++ deviceId ++
    leBytes 32 0

/-- A signature by the identity key over a digest; every signing is a fresh one (R404, R407). -/
def State.signature (s : State) (digest : List Byte) : State × List Byte :=
  ({ s with freeCtr := s.freeCtr + 1 }, (List.range 4627).map fun i => Config.sign digest s.freeCtr i)

/-- USAGE_RECORD_CLOSE (R402-R404): the record with its signature in the layout of a log slot, written into the log, its
event raised and vector 0 of the partition's function. -/
def State.closeUsage (s : State) (part kind : Nat) (e : Option TEntry) : State × List Byte :=
  let r := s.usageBytes part kind e
  let g := s.signature (sha3 r)
  let s := g.1
  let slot := fillTo 5120 (r ++ g.2)
  let p := s.part part
  let s := s.setPart part { p with usage := { p.usage with seq := p.usage.seq + 1, tend := s.time, prev := sha3 (r ++ g.2) } }
  let s := s.physWrite 0 (p.ulogbase + 5120 * (p.usage.seq % p.ulogn)) slot
  ((s.raiseEvent 0x102 0#64).msix part 0, slot)

end Sys2Proof.Machine
end

