-- ==== Sys2Proof/Machine/Replies.lean ====
section
/-! DEFINITION. The fault server's access to trapped teams: replay packets, what a reply does, and the items of RCTX
(R108, R156-R158, R229, R241-R243, R266, R356, R371, R372). -/

namespace Sys2Proof.Machine

/-! ### Replay packets (R356) -/

/-- The lanes of a packet that translate again, and those that do not. -/
def State.replayChecks (s : State) (h : Nat) (r : Req) : Checked :=
  s.checkAll h r.space .read (r.todo.map fun q => ⟨q.lane, q.va, q.bytes.length, q.data, q.data2⟩)

/-- The good lanes of a packet leave as a request under its number. -/
def State.reissueLanes (s : State) (h : Nat) (r : Req) (good : List LaneReq) : State :=
  if good.isEmpty then s
  else
    let t := s.team h
    s.setTeam h { t with reqs := t.reqs ++ [{ r with todo := good.map fun q => { q with read := [] }, deps := [] }],
                         replayed := t.replayed ++ [r.id] }

/-- The trap of the lanes of a packet that fail (R157, R356): it names the load. -/
def State.replayTrap (s : State) (h : Nat) (r : Req) (bad : List (Nat × XErr × Addr × Bool)) : State :=
  match bad with
  | [] => s
  | b :: _ =>
    let park := match (s.ctx h).status with
      | .parked w => some w
      | .ready => none
      | .trapped => none
      | .stopped => none
    s.teamTrap h
      { code := if bad.any fun b => b.2.1 == .fault then .memFault else .perm, pc := r.pc, widx := r.widx, addr := b.2.2.1,
        lanes := maskOf (bad.map (·.1)), instr := r.word.setWidth 64, spaddr := false, replay := true, out := false,
        handle := none, time := 0#64, resumePark := park, len := 0, logged := false, under := none }

/-- REPLAY_REISSUE: the packets of a team in issue order. A lane that fails again stops it with a trap, unless the team is
stopped by another already; what is left is tried after the reply. -/
def State.reissue (s : State) (h : Nat) : Nat → State
  | 0 => s
  | n + 1 =>
    let t := s.team h
    match t.replay with
    | [] => s
    | (r, g) :: rest =>
      let c := s.replayChecks h r
      let s := s.reissueLanes h r c.good
      let t := s.team h
      if c.bad.isEmpty then (s.setTeam h { t with replay := rest }).reissue h n
      else
        -- the poison met so far stays with the lanes that are read first
        let left := { r with todo := r.todo.filter (fun q => c.bad.any fun b => b.1 == q.lane),
                             pois := if c.good.isEmpty then r.pois else [] }
        let s := s.setTeam h { t with replay := (left, g) :: rest }
        if (s.ctx h).status == .trapped then s else s.replayTrap h left c.bad

/-- All packets of a team. -/
def State.reissueAll (s : State) (h : Nat) : State := s.reissue h ((s.team h).replay.length + 1)

/-- Packets or reissued loads that have not landed hold a team back (R356). -/
def Team.replaying (t : Team) : Bool := !t.replay.isEmpty || t.reqs.any fun r => t.replayed.contains r.id

/-! ### Replies (R371) -/

/-- Reply codes: 0 RESUME, 1 RETRY, 2 EMULATE, 3 KILL_TEAM, 4 KILL_WG, 5 KILL_CONTEXT. -/
abbrev ReplyCode := Nat

/-- A team leaves the trapped state. -/
def State.leaveTrap (s : State) (h : Nat) (st : Status) : State :=
  let s := s.setTeam h { s.team h with trap := none, unsent := false, reply := none }
  s.setCtx h { s.ctx h with status := st }

/-- A hart moves past the words of a trapped instruction, whether or not its clause is still held. -/
def Ctx.skip (c : Ctx) (n : Nat) : Ctx :=
  match c.clause with
  | some _ => c.past n
  | none => { c with widx := c.widx + n }

/-- Continues after a trapped instruction, at its switch marker if it has one. -/
def State.afterTrap (s : State) (h : Nat) (r : TrapRec) : State :=
  let s := (s.leaveTrap h .ready).issued h
  (s.setCtx h ((s.ctx h).skip r.len)).marked h (r.instr.getLsbD 31)

/-- A team whose packets are settled goes on in the state it was saved in (R356). -/
def State.leaveServer (s : State) (h : Nat) : State :=
  let t := s.team h
  (s.setTeam h { t with behind := none }).setCtx h { s.ctx h with status := match t.behind with
    | some w => .parked w
    | none => .ready }

/-- A packet of which nothing is left to read: its MEM_POISON is armed and its acquire takes effect, as of a load that is done
(R159, R171). -/
def State.settlePacket (s : State) (h : Nat) (r : Req) : State :=
  let s := s.setTeam h ((s.team h).armPoison r)
  match r.acquire with
  | some c => s.acquire h c
  | none => s

/-- A reply to the failed lanes of a replay packet: the team waits, parked, until all its packets are settled (R53, R356;
DEDUCED, log 74). -/
def State.replyReplay (s : State) (h : Nat) (r : TrapRec) (code : ReplyCode) : State :=
  let t := s.team h
  let behind := match r.resumePark with
    | some .server => t.behind
    | w => w
  let s := (s.setTeam h { t with behind := behind }).leaveTrap h (.parked .server)
  let s := match t.replay with
    | [] => s
    | (q, g) :: rest =>
      let left := { q with todo := if code == 1 then q.todo.filter fun x => t.flane.getLsbD x.lane else [] }
      if left.todo.isEmpty then (s.setTeam h { s.team h with replay := rest }).settlePacket h q
      else s.setTeam h { s.team h with replay := (left, g) :: rest }
  let s := s.reissueAll h
  if (s.ctx h).status == .parked .server && !(s.team h).replaying then s.leaveServer h else s

/-- What RESUME, RETRY or EMULATE does to a resident team. DESIGN CHOICE: the RETRY of a precise ALIGN trap, whose record names
only the misaligned lanes, executes the instruction for every lane it had, EXEC or those of an earlier RETRY, since none was
performed (R158, R160; log 68). -/
def State.replyGo (s : State) (h : Nat) (r : TrapRec) (code : ReplyCode) : State :=
  if r.replay then s.replyReplay h r code
  else if r.code == .watchdog || r.code == .timer || r.code == .memPoison then
    let st := match r.resumePark with
      | some w => Status.parked w
      | none => .ready
    let s := s.leaveTrap h st
    if r.code == .watchdog then s.watch h else s
  else if r.len == 0 then s.leaveTrap h .ready
  else if code == 1 then
    let s := s.leaveTrap h .ready
    let again := if (r.code == .memFault || r.code == .perm) && r.lanes != 0#1024 then some (s.team h).flane else r.under
    s.setTeam h { s.team h with retry := again }
  else s.afterTrap h r

/-- A kill (R372), with what follows from it. -/
def State.replyKill (s : State) (h : Nat) (code : ReplyCode) : State :=
  let core := s.coreOf h
  ((if code == 3 then s.killTeam h else if code == 4 then s.killWg (s.team h).wg else s.killContext core).sweep).renewImage core

/-- A reply takes effect (R108); then what is left of the replay packets is tried (R356). -/
def State.replyAct (s : State) (h : Nat) (r : TrapRec) (code : ReplyCode) : State :=
  if 3 ≤ code then s.replyKill h code
  else if r.code == .mstkUnder then s.replyKill h 3
  else ((s.replyGo h r code).reissueAll h).sweep

/-- A reply reaches a team with a live trap (R243, R358): one to a saved team is recorded, its handle is live no longer, and
it acts at the restore; a kill of the workgroup acts at once. -/
def State.replyTeam (s : State) (h : Nat) (r : TrapRec) (code : ReplyCode) : State :=
  if (s.wgOf h).saved.isSome && code != 4 then
    (s.setTeam h { s.team h with reply := some code, trap := some { r with handle := none } }).renewImage (s.coreOf h)
  else s.replyAct h r code

/-- A reply to an orphan's record (R266): the foal is settled; a kill of the workgroup or of the context reaches what is left
of them. -/
def State.replyOrphan (s : State) (k : Nat) (f : Foal) (code : ReplyCode) : State :=
  let core := k / 256
  let s := s.settleOrphan k
  let s := if code == 4 && (Store.find f.wg s.wgs).isSome then s.killWg f.wg
    else if code == 5 then s.killContext core else s
  s.sweep.renewImage core

/-! ### The items of RCTX (R242) -/

/-- The team with a live trap handle. -/
def State.trapped (s : State) (hd : DWord) : Option (Nat × TrapRec) :=
  s.teams.findSome? fun e => match e.2.trap with
    | some r => if r.handle == some hd then some (e.1, r) else none
    | none => none

/-- The orphan with a live handle. -/
def State.orphaned (s : State) (hd : DWord) : Option (Nat × Foal) := s.foals.find? fun e => e.2.orphan == some hd

/-- The fields of A. -/
structure Item where
  cls : Nat
  r : Nat
  p : Nat
  deriving DecidableEq, Repr

def Item.ofA (a : DWord) : Item :=
  ⟨(a.extractLsb' 0 8).toNat, (a.extractLsb' 8 8).toNat, (a.extractLsb' 16 10).toNat⟩

/-- The limits that A alone decides. -/
def Item.ok (i : Item) : Bool :=
  match i.cls with
  | 0 => i.r < 64
  | 1 => true
  | 2 => decide (i.r ≤ 7 ∧ i.p ≤ 15)
  | 3 => i.p ≤ 15
  | 4 => decide (i.r ≤ 15 ∧ i.p ≤ 15)
  | 5 => true
  | 6 => true
  | 7 => true
  | 8 => decide (i.r ≤ 15 ∧ i.p ≤ 15)
  | 9 => true
  | 10 => true
  | 11 => i.p ≤ 15
  | _ => false

/-- The limits on the value a WR writes. -/
def Item.valueOk (i : Item) (v : DWord) : Bool :=
  match i.cls with
  | 5 => v.toNat % 4 == 0
  | 6 => v.toNat ≤ 14
  | 7 => v.toNat % 32 ≤ 16
  | _ => true

/-- The limits that the team decides. -/
def Item.fits (i : Item) (t : Team) : Bool := i.cls != 1 || decide (i.r < t.vregs ∧ i.p < t.width)

def State.itemRead (s : State) (h : Nat) (i : Item) : DWord :=
  let t := s.team h
  let c := s.ctx h
  match i.cls with
  | 0 => Store.get 0#64 c.sregs i.r
  | 1 => ((s.vreg h i.r).lane i.p).setWidth 64
  | 2 => maskPair (t.lmk i.r) i.p
  | 3 => maskPair t.exec i.p
  | 4 => maskPair (t.entry i.r) i.p
  | 5 => c.pc
  | 6 => BitVec.ofNat 64 c.widx
  | 7 => t.msdepth
  | 8 => maskPair (Store.get 0#1024 t.spillSlots i.r) i.p
  | 9 => BitVec.ofNat 64 c.scc.toNat
  | 10 => t.flags.setWidth 64
  | 11 => maskPair t.flane i.p
  | _ => 0#64

/-- The park that a trap interrupted no longer matters once the server has moved the team. -/
def Team.forgetPark (t : Team) : Team := { t with trap := t.trap.map fun r => { r with resumePark := none, under := none } }

def State.itemWrite (s : State) (h : Nat) (i : Item) (v : DWord) : State :=
  let t := s.team h
  let c := s.ctx h
  match i.cls with
  | 0 => s.setSreg h (BitVec.ofNat 6 i.r) v
  | 1 => s.setVreg h i.r ((s.vreg h i.r).setLane i.p (v.setWidth 32))
  | 2 => s.setTeam h (t.setLm i.r (setMaskPair (t.lmk i.r) i.p v))
  | 3 => s.setTeam h (t.setExec (setMaskPair t.exec i.p v))
  | 4 => s.setTeam h (t.setEntry i.r (setMaskPair (t.entry i.r) i.p v))
  | 5 => (s.setTeam h { t.forgetPark with retry := none }).setCtx h { c with pc := v, clause := none }
  | 6 => (s.setTeam h { t.forgetPark with retry := none }).setCtx h { c with widx := v.toNat, clause := none }
  | 7 => s.setTeam h { t with depth := v.toNat % 32, spill := v.extractLsb' 16 32 }
  | 8 => s.setTeam h
      { t with spillSlots := Store.set 0#1024 t.spillSlots i.r (setMaskPair (Store.get 0#1024 t.spillSlots i.r) i.p v) }
  | 9 => s.setScc h (v.getLsbD 0)
  | 10 => s.setTeam h { t with flags := v.setWidth 5 }
  | 11 => s.setTeam h { t with flane := setMaskPair t.flane i.p v }
  | _ => s

/-! ### An RCTX at the package that holds the team -/

/-- The four forms. -/
inductive RctxOp where
  | rd | wr | resume | kill
  deriving DecidableEq, Repr

def RctxOp.code : RctxOp → Nat
  | .rd => 0 | .wr => 1 | .resume => 2 | .kill => 3

/-- What the target answers: a value for s[D], or a trap at the executing thread. -/
inductive RctxAnswer where
  | value (v : DWord)
  | trap (c : TrapCode)
  deriving DecidableEq, Repr

/-- The checks that need only A and the value. -/
def rctxLegal (op : RctxOp) (a v : DWord) : Bool :=
  match op with
  | .rd => a.extractLsb' 26 38 == 0#38 && (Item.ofA a).ok
  | .wr => a.extractLsb' 26 38 == 0#38 && (Item.ofA a).ok && (Item.ofA a).valueOk v
  | .resume => a.toNat ≤ 2
  | .kill => a.toNat ≤ 2

/-- What a permitted RCTX does to the trapped team of hart `h` (R242, R243). -/
def State.rctxTeam (s : State) (h : Nat) (r : TrapRec) (op : RctxOp) (a v : DWord) : State × RctxAnswer :=
  let i := Item.ofA a
  match op with
  | .rd => if i.fits (s.team h) then (s, .value (s.itemRead h i)) else (s, .trap .illegalOperand)
  | .wr => if i.fits (s.team h) then ((s.itemWrite h i v).renewImage (s.coreOf h), .value 1#64) else (s, .trap .illegalOperand)
  | .resume => (s.replyTeam h r a.toNat, .value 1#64)
  | .kill => (s.replyTeam h r (3 + a.toNat), .value 1#64)

/-- What a permitted RCTX does to the live handle of orphan foal `k` (R242, R243).  Its record has no team, so RD
and WR find no item: both answer 0 (DESIGN CHOICE, log 91). -/
def State.rctxOrphan (s : State) (k : Nat) (f : Foal) (op : RctxOp) (a : DWord) : State × RctxAnswer :=
  match op with
  | .rd => (s, .value 0#64)
  | .wr => (s, .value 0#64)
  | .resume => (s.replyOrphan k f a.toNat, .value 1#64)
  | .kill => (s.replyOrphan k f (3 + a.toNat), .value 1#64)

/-- The operation at the package that holds the team, for a fault server on package `src`: PERM first (R241), then what
A and the value must be (R242, R243). -/
def State.rctxAt (s : State) (src : Nat) (op : RctxOp) (hd a v : DWord) : State × RctxAnswer :=
  match s.trapped hd, s.orphaned hd with
  | some (h, r), _ =>
    if (s.part (s.wgOf h).launch.part).fsrv != src then (s, .trap .perm)
    else if !rctxLegal op a v then (s, .trap .illegalOperand)
    else s.rctxTeam h r op a v
  | none, some (k, f) =>
    if (s.part f.origin.part).fsrv != src then (s, .trap .perm)
    else if !rctxLegal op a v then (s, .trap .illegalOperand)
    else s.rctxOrphan k f op a
  | none, none => if !rctxLegal op a v then (s, .trap .illegalOperand) else (s, .value 0#64)

end Sys2Proof.Machine
end

