-- ==== Sys2Proof/Machine/System.lean ====
section
/-! DEFINITION. The SYS class: traps, exceptions, CSRs, TLBI, meters, RCTX, timetable arming and capability space (R228-R244,
R247). -/

namespace Sys2Proof.Machine

/-! ### Traps and halting -/

/-- TRAP and BRK (R229): a team waits for its counts first. -/
def trapOp (code : TrapCode) (im : BitVec 16) (s : State) : Out :=
  begin need1 s fun h =>
    let t := s.team h
    if (s.ctx h).kind == .team && (t.loads != 0 || t.stores != 0) then .next (s.park h (.counts .switchMarker true false))
    else .next (s.raiseAt h code 1 (im.setWidth 64) 0#1024 false)

def execTrap (_sw : Bool) (im : BitVec 16) (s : State) : Out := trapOp .swtrap im s
def execBrk (_sw : Bool) (im : BitVec 16) (s : State) : Out := trapOp .brk im s

/-- HALT (R230): the thread stands at the next instruction, parked unless an exception is pending. -/
def execHalt (sw : Bool) (s : State) : Out :=
  begin { need1 with level := 1 } s fun h =>
    let s := s.done h 1 sw
    .next (if (s.thread h).events.isEmpty then s.park h .halt else s)

/-- A thread stands where a pending event reaches it: at an instruction boundary, or parked in HALT or WAITV. DESIGN CHOICE: one that
waits for TLBI.SYNC, or for an RCTX carried over the fabric, takes it once that instruction has executed (R231; log 87). -/
def State.takesEvents (s : State) (h : Nat) : Bool :=
  (s.ctx h).kind == .thread && (s.thread h).bytes.isEmpty && match (s.ctx h).status with
    | .ready => true
    | .parked .halt => true
    | .parked (.value _ _ _ _ _ _) => true
    | .parked _ => false
    | .trapped => false
    | .stopped => false

/-- The oldest pending event is taken as an exception. -/
def State.takeEvent (s : State) (h : Nat) : State :=
  let t := s.thread h
  match t.events with
  | [] => s
  | e :: r => (s.setThread h { t with events := r }).exception h e.1 e.2

/-- CONTROL_EVENT_EXCEPTION (R231): a thread that has IE = 1 and an event pending takes the oldest. -/
def execControlEventException (h : Nat) (s : State) : Out :=
  if (s.thread h).ie && s.takesEvents h then .next (s.takeEvent h) else .next s

/-- ERET (R232). -/
def execEret (_sw : Bool) (s : State) : Out :=
  begin { need1 with level := 1 } s fun h =>
    let t := s.thread h
    if t.plev == 0#2 || t.plev == 3#2 then .next (s.raise h .illegalOperand 1)
    else if t.level < t.plev then .next (s.raise h .priv 1)
    else .next (s.exceptionReturn h)

/-! ### Control and status registers (R233-R236) -/

/-- The level a CSR asks for; none for an unassigned number. -/
def csrLevel (n : Nat) : Option Nat :=
  if n ≤ 5 || (0x10 ≤ n && n ≤ 0x13) || n == 0x20 then some 1
  else if 0x100 ≤ n && n ≤ 0x102 then some 2 else none

/-- CSTATUS (R235). -/
def Thread.cstatus (t : Thread) : DWord := (bit t.pie ++ bit t.ie ++ t.plev ++ t.level).setWidth 64

/-- PCFG (R236). -/
def Partition.pcfg (p : Partition) : DWord := (bit p.creating ++ bit p.live ++ bit p.det).setWidth 64

def State.csrRead (s : State) (h n : Nat) : DWord :=
  let t := s.thread h
  match n with
  | 0x000 => t.cstatus
  | 0x001 => t.epc
  | 0x002 => t.eidx.setWidth 64
  | 0x003 => t.ecause
  | 0x004 => t.eval
  | 0x005 => t.evec
  | 0x010 => s.tqbase
  | 0x011 => s.tqhead
  | 0x012 => s.tqtail
  | 0x013 => s.tqsize
  | 0x020 => BitVec.ofNat 64 t.psel
  | 0x100 => (s.part t.psel).pcfg
  | 0x101 => BitVec.ofNat 64 (s.part t.psel).fsrv
  | 0x102 => s.parkth
  | _ => 0#64

/-- A power of two from 64 to 65,536. -/
def tqsizeOk (v : DWord) : Bool := (List.range 11).any fun k => v.toNat == 64 * 2 ^ k

/-- A write of a CSR; bits that are HW or RO ignore it (R233, R234). -/
def State.csrWrite (s : State) (h n : Nat) (v : DWord) : State :=
  let t := s.thread h
  match n with
  | 0x000 => s.setThread h { t with plev := v.extractLsb' 2 2, ie := v.getLsbD 4, pie := v.getLsbD 5 }
  | 0x001 => s.setThread h { t with epc := v }
  | 0x002 => s.setThread h { t with eidx := v.setWidth 4 }
  | 0x003 => s.setThread h { t with ecause := v }
  | 0x004 => s.setThread h { t with eval := v }
  | 0x005 => s.setThread h { t with evec := v }
  | 0x010 => { s with tqbase := v }
  | 0x011 => { s with tqhead := v }.flush
  | 0x013 => if tqsizeOk v then { s with tqsize := v }.flush else s
  | 0x020 => if 1 ≤ v.toNat ∧ v.toNat ≤ 63 then s.setThread h { t with psel := v.toNat } else s
  | 0x100 =>
    let p := s.part t.psel
    if p.live || p.creating then s else s.setPart t.psel { p with det := v.getLsbD 0 }
  | 0x101 => if v.toNat ≤ 4095 then (s.setPart t.psel { s.part t.psel with fsrv := v.toNat }).flush else s
  | 0x102 => if 1 ≤ v.toNat ∧ v.toNat ≤ 100 then { s with parkth := v } else s
  | _ => s

/-- A form of CSR: the new value from the old one, none for a read. -/
def csrOp (f : DWord → Option DWord) (d : SReg) (a : Src) (sw : Bool) (s : State) : Out :=
  begin { needS a with level := 1 } s fun h =>
    let n := (Src.scalar s h a).toNat
    let len := Src.len a
    match if n < 4096 then csrLevel n else none with
    | none => .next (s.raise h .illegalOperand len)
    | some l =>
      if (s.thread h).level.toNat < l then .next (s.raise h .priv len)
      else
        let old := s.csrRead h n
        let s := match f old with
          | none => s
          | some v => s.csrWrite h n v
        .next ((s.setSreg h d old).done h len sw)

def execCsrr (sw : Bool) (d : SReg) (a : Src) (s : State) : Out := csrOp (fun _ => none) d a sw s
def execCsrw (sw : Bool) (d b : SReg) (a : Src) (s : State) : Out := csrOp (fun _ => some (s.sreg s.cur b)) d a sw s
def execCsrs (sw : Bool) (d b : SReg) (a : Src) (s : State) : Out := csrOp (fun x => some (x ||| s.sreg s.cur b)) d a sw s
def execCsrc (sw : Bool) (d b : SReg) (a : Src) (s : State) : Out := csrOp (fun x => some (x &&& ~~~(s.sreg s.cur b))) d a sw s

/-! ### Translation invalidation (R237, R238) -/

/-- Entries go at once; what the thread posted is behind its next TLBI.SYNC. -/
def State.dropTlb (s : State) (h : Nat) (out : TlbEntry → Bool) : State :=
  { s with tlb := s.tlb.filter fun e => !out e }.setThread h { s.thread h with posted := s.nextId }

def TlbEntry.covers (e : TlbEntry) (part vpage : Nat) : Bool :=
  e.part == part && decide (e.vpage ≤ vpage ∧ vpage < e.vpage + e.pages)

def execTlbiVa (sw : Bool) (a : Src) (s : State) : Out :=
  begin { needS a with level := 1 } s fun h =>
    let v := (Src.scalar s h a).toNat
    if 2 ^ 55 ≤ v then .next (s.raise h .illegalOperand (Src.len a))
    else .next ((s.dropTlb h fun e => e.covers (s.thread h).psel (v / 2 ^ 16)).done h (Src.len a) sw)

def execTlbiPart (sw : Bool) (a : Src) (s : State) : Out :=
  begin { needS a with level := 1 } s fun h =>
    let v := (Src.scalar s h a).toNat
    if v == 0 || 63 < v then .next (s.raise h .illegalOperand (Src.len a))
    else .next ((s.dropTlb h fun e => e.part == v).done h (Src.len a) sw)

def execTlbiAll (sw : Bool) (s : State) : Out :=
  begin { need1 with level := 1 } s fun h => .next ((s.dropTlb h fun _ => true).done h 1 sw)

/-- A team's WAITV on global memory translates its address again, and reads; where that fails it issues again, and so
does a QPOST that waits for room in a queue (DEDUCED, log 72). -/
def State.retranslate (s : State) (h : Nat) : State :=
  match (s.ctx h).kind, (s.ctx h).status with
  | .team, .parked (.value false va _ c y sw) =>
    (match s.checkAsk h .global .read va 8 with
     | .ok pl => (s.park h (.value false va pl c y sw)).readWait h false pl c y sw
     | .error _ => s.setCtx h { s.ctx h with status := .ready })
  | .team, .parked (.queueRoom _) => s.setCtx h { s.ctx h with status := .ready }
  | _, _ => s

/-- After a TLBI.SYNC no park watches memory through a translation that it took out (R238). -/
def State.retranslateAll (s : State) : State := (s.ctxs.map (·.1)).foldl State.retranslate s

/-- Every access that translated before number `n` was reached has been performed. -/
def State.performedBefore (s : State) (n : Nat) : Bool :=
  (s.teams.all fun e => (e.2.reqs.all fun r => decide (n ≤ r.id) || r.todo.isEmpty) && e.2.copies.all fun c => decide (n ≤ c.id)) &&
    s.foals.all fun e => decide (n ≤ e.2.id) || !e.2.landing

def execTlbiSync (sw : Bool) (s : State) : Out :=
  begin { need1 with level := 1 } s fun h =>
    .next (if s.performedBefore (s.thread h).posted then s.retranslateAll.done h 1 sw else s.park h .tlbi)

/-! ### Meters (R239, R240) -/

/-- MRDC's trap, if any. -/
def mrdcTrap (team : Bool) (a : DWord) (own : Nat) : Option TrapCode :=
  let p := (a.extractLsb' 8 8).toNat
  if 2 ^ 16 ≤ a.toNat then some .illegalOperand
  else if team && p != 0 && p != own then some .perm
  else if (!team && p == 0) || 10 ≤ a.toNat % 256 then some .illegalOperand else none

def execMrdc (sw : Bool) (d : SReg) (a : Src) (s : State) : Out :=
  begin (needS a) s fun h =>
    let v := Src.scalar s h a
    let own := (s.wgOf h).launch.part
    let team := (s.ctx h).kind == .team
    match mrdcTrap team v own with
    | some c => .next (s.raise h c (Src.len a))
    | none =>
      let p := (v.extractLsb' 8 8).toNat
      let p := if p == 0 then own else p
      -- a partition above 63 has no meters: the value is free (log 5)
      let x := if p ≤ 63 then (s, Store.get 0#64 (s.part p).meters (v.toNat % 256)) else s.free
      .next ((x.1.setSreg h d x.2).done h (Src.len a) sw)

/-- The trap of a physical buffer: an unassigned address, then a misaligned one (R240, R409). -/
def bufferTrap (a : DWord) (n align level : Nat) : Option (TrapCode × DWord) :=
  match physCheck a.toNat n level with
  | some (c, x) => some (c, BitVec.ofNat 64 x)
  | none => if a.toNat % align != 0 then some (.align, a) else none

def execMsign (sw : Bool) (d b : SReg) (a : Src) (s : State) : Out :=
  begin { needS a with level := 2 } s fun h =>
    let p := (Src.scalar s h a).toNat
    let len := Src.len a
    if p == 0 || 63 < p || !(s.part p).live then .next (s.raise h .illegalOperand len)
    else match bufferTrap (s.sreg h b) 5120 256 2 with
    | some (c, x) => .next (s.raiseAt h c len x 0#1024 false)
    | none =>
      let seq := (s.part p).usage.seq
      let r := s.closeUsage p 3 (s.part p).slotEntry
      let s := r.1.physWrite 0 (s.sreg h b).toNat r.2
      .next ((s.setSreg h d (BitVec.ofNat 64 seq)).done h len sw)

/-! ### RCTX (R241-R243) -/

/-- The payload of an RCTX carried over the fabric (log 13): operation, status, handle, A, value, request number. -/
def rctxPayload (op status : Nat) (hd a v : DWord) (req : Nat) : List Byte :=
  fillTo 64 (leBytes 8 (op + 256 * status) ++ leBytes 8 hd.toNat ++ leBytes 8 a.toNat ++ leBytes 8 v.toNat ++ leBytes 8 req)

/-- The answer reaches the executing thread. -/
def State.rctxDone (s : State) (h : Nat) (d : SReg) (len : Nat) (sw : Bool) (ans : RctxAnswer) : State :=
  match ans with
  | .value v => (s.setSreg h d v).done h len sw
  | .trap c => s.raise h c len

def rctxOp (op : RctxOp) (sw : Bool) (d b : SReg) (a : Src) (s : State) : Out :=
  begin { needS a with level := 1 } s fun h =>
    let av := Src.scalar s h a
    let hd := s.sreg h b
    let v := s.sreg h d
    let len := Src.len a
    if (hd.extractLsb' 32 12).toNat == s.pkg || 2 ^ 44 ≤ hd.toNat then
      let r := s.rctxAt s.pkg op hd av v
      .next (r.1.rctxDone h d len sw r.2)
    else
      let req := s.nextId
      let f := Frame.make 0 5 s.pkg (hd.extractLsb' 32 12).toNat (rctxPayload op.code 0 hd av v req)
      .next (({ s with nextId := req + 1 }.sendTrap f).park h (.rctx req d.toNat len))

def execRctxRd (sw : Bool) (d b : SReg) (a : Src) (s : State) : Out := rctxOp .rd sw d b a s
def execRctxWr (sw : Bool) (d b : SReg) (a : Src) (s : State) : Out := rctxOp .wr sw d b a s
def execRctxResume (sw : Bool) (d b : SReg) (a : Src) (s : State) : Out := rctxOp .resume sw d b a s
def execRctxKill (sw : Bool) (d b : SReg) (a : Src) (s : State) : Out := rctxOp .kill sw d b a s

/-! ### Timetable arming (R244) -/

/-- A negative refusal code. -/
def refusal (n : Nat) : DWord := BitVec.ofInt 64 (-(n : Int))

/-- The verified entry at a physical address. -/
def State.pageEntry (s : State) (pa : Nat) : Option TEntry :=
  s.pages.findSome? fun p => if p.pa + 0x20 ≤ pa && (pa - p.pa - 0x20) % 32 == 0 then p.entries[(pa - p.pa - 0x20) / 32]? else none

/-- The lowest free arm index (DESIGN CHOICE, log 95: R244 asks for a free one). -/
def State.freeArm (s : State) : Option Nat := (List.range 256).find? fun k => (Store.find k s.arms).isNone

/-- The refusal of an arming, in the order of the table. -/
def State.armRefusal (s : State) (urgent : Bool) (o : Option TEntry) : Option Nat :=
  match o with
  | none => some 3
  | some e =>
    let p := s.part e.part
    if e.urgent != urgent then some 3
    else if (match p.armed with
      | some q => decide (e.seq ≤ q)
      | none => false) || s.arms.any fun x => x.2.part == e.part && x.2.start == e.start then some 4
    else if e.start.toNat < s.time.toNat + 3000 then some 1
    else if s.freeArm.isNone then some 2 else none

def armOp (urgent sw : Bool) (d b : SReg) (s : State) : Out :=
  begin { need1 with level := 2 } s fun h =>
    let pa := s.sreg h b
    match bufferTrap pa 32 32 2 with
    | some (c, x) => .next (s.raiseAt h c 1 x 0#1024 false)
    | none =>
      match s.armRefusal urgent (s.pageEntry pa.toNat), s.pageEntry pa.toNat, s.freeArm with
      | some n, _, _ => .next ((s.setSreg h d (refusal n)).done h 1 sw)
      | none, some e, some k =>
        let s := { s with arms := Store.put k e s.arms }.setPart e.part { s.part e.part with armed := some e.seq }
        .next ((s.setSreg h d (BitVec.ofNat 64 k)).done h 1 sw)
      | none, _, _ => .next ((s.setSreg h d (refusal 2)).done h 1 sw)

def execSwitchArm (sw : Bool) (d b : SReg) (s : State) : Out := armOp false sw d b s
def execSwitchUrgent (sw : Bool) (d b : SReg) (s : State) : Out := armOp true sw d b s

/-- SWITCH.CANCEL (R244); an A above 255 names no arm, and answers 0 (DESIGN CHOICE, log 96). -/
def execSwitchCancel (sw : Bool) (d : SReg) (a : Src) (s : State) : Out :=
  begin { needS a with level := 2 } s fun h =>
    let k := (Src.scalar s h a).toNat
    let len := Src.len a
    match if k ≤ 255 then Store.find k s.arms else none with
    | none => .next ((s.setSreg h d 0#64).done h len sw)
    | some e =>
      if s.time.toNat + 3000 ≤ e.start.toNat then
        .next (({ s with arms := Store.erase k s.arms }.setSreg h d 1#64).done h len sw)
      else .next ((s.setSreg h d 0#64).done h len sw)

/-! ### Capability space (R247) -/

def execCapr (sw : Bool) (d : SReg) (a : Src) (s : State) : Out :=
  begin (needS a) s fun h =>
    let o := Src.scalar s h a
    if o.toNat % 8 != 0 then .next (s.raiseAt h .align (Src.len a) o 0#1024 false)
    else .next ((s.setSreg h d (capRead o.toNat)).done h (Src.len a) sw)

end Sys2Proof.Machine
end

