-- ==== Sys2Proof/Machine/Create.lean ====
section
/-! DEFINITION. PART: creating, changing and destroying partitions, with the scrub (R245, R246, R383-R389, R396). -/

namespace Sys2Proof.Machine

/-! ### The configuration block (R384, R385) -/

/-- The partition a block describes. -/
def blockPart (bs : List Byte) : Partition :=
  let n := recNat bs
  { Partition.blank with
    s1root := n 0x08 8, s2root := n 0x10 8, clusters := BitVec.ofNat 144 (n 0x18 24), pchan := BitVec.ofNat 768 (n 0x30 96),
    ceng := BitVec.ofNat 48 (n 0x90 8), ports := BitVec.ofNat 24 (n 0x98 4), ctent := n 0x9C 4, penbase := n 0xA0 8,
    penbytes := n 0xA8 8, ctxbase := n 0xB0 8, ctxbytes := n 0xB8 8,
    queues := (List.range (n 0xC0 1)).map fun i => BitVec.ofNat 64 (n (0x100 + 8 * i) 8), ulogn := n 0xC4 4,
    ulogbase := n 0xC8 8, gtbase := n 0xD0 8, gtcount := n 0xD8 4 }

/-- Set bits of a bitmap of n bits. -/
def ones (n : Nat) (x : BitVec n) : Nat := ((List.range n).filter fun i => x.getLsbD i).length

/-- The fields of R384, with its zero fields. -/
def blockOk (bs : List Byte) : Bool :=
  let n := recNat bs
  let p := blockPart bs
  let slots := (n 0xB8 8 - 131072) / 6291456
  n 0 4 == 0x4E475043 && n 4 2 == 1 && n 6 2 == 0 && n 0x08 8 % 65536 == 0 && decide (n 0x08 8 < 2 ^ 55) &&
    n 0x10 8 % 65536 == 0 && decide (n 0x10 8 < 2 ^ 52) && decide (n 0x18 24 < 2 ^ 144) && decide (n 0x90 8 < 2 ^ 48) &&
    decide (n 0x98 4 < 2 ^ 24) && decide (1 ≤ n 0x9C 4 ∧ n 0x9C 4 ≤ 65536) && n 0xA0 8 % 65536 == 0 &&
    n 0xA8 8 % 65536 == 0 && n 0xB0 8 % 65536 == 0 && n 0xB8 8 == 131072 + 6291456 * slots &&
    decide (16 * ones 144 p.clusters ≤ slots ∧ slots ≤ 8192) && decide (n 0xC0 1 ≤ 64) && n 0xC1 3 == 0 &&
    (List.range 13).any (fun k => n 0xC4 4 == 16 * 2 ^ k) && n 0xC8 8 % 4096 == 0 && n 0xD0 8 % 65536 == 0 &&
    decide (n 0xD8 4 ≤ 4096) && (n 0xD8 4 != 0 || n 0xD0 8 == 0) && n 0xDC 36 == 0 &&
    n (0x100 + 8 * n 0xC0 1) (512 - 8 * n 0xC0 1) == 0 && n 0x780 128 == 0

/-- Two byte ranges meet. -/
def rangesMeet (a n b m : Nat) : Bool := decide (0 < n ∧ 0 < m ∧ a < b + m ∧ b < a + n)

/-- Every byte of a range lies in an owned pseudo-channel. -/
def Partition.ownsRange (p : Partition) (a n : Nat) : Bool :=
  n == 0 || (decide (a + n ≤ hbmTop) && (List.range ((a + n - 1) / 0x60000000 + 1 - a / 0x60000000)).all fun i =>
    p.pchan.getLsbD (a / 0x60000000 + i))

/-- Partitions that hold units: live ones, and those being created (log 14). -/
def State.owners (s : State) : List (Nat × Partition) := s.parts.filter fun e => e.2.live || e.2.creating

/-- The rules of R385 that compare regions and entries. -/
def State.blockFits (s : State) (bs : List Byte) : Bool :=
  let p := blockPart bs
  let log := 5120 * p.ulogn
  let gt := 8192 * p.gtcount
  p.ownsRange p.penbase p.penbytes && p.ownsRange p.ctxbase p.ctxbytes && p.ownsRange p.gtbase gt &&
    !rangesMeet p.ulogbase log p.penbase p.penbytes && !rangesMeet p.ulogbase log p.ctxbase p.ctxbytes &&
    !rangesMeet p.gtbase gt p.penbase p.penbytes && !rangesMeet p.gtbase gt p.ctxbase p.ctxbytes &&
    !rangesMeet p.gtbase gt p.ulogbase log && decide (p.ctent + (s.owners.foldl (fun a e => a + e.2.ctent) 0) ≤ 65536)

/-- Whether two partitions own a unit in common (R383). -/
def Partition.conflicts (p q : Partition) : Bool :=
  p.clusters &&& q.clusters != 0#144 || p.pchan &&& q.pchan != 0#768 || p.ceng &&& q.ceng != 0#48 ||
    p.ports &&& q.ports != 0#24

/-- Sets the fill mask of a partition in a slice. -/
def State.setWays (s : State) (part slice : Nat) (m : BitVec 16) : State :=
  { s with ways := Store.set 0#16 s.ways (part * 1024 + slice) m }

/-- Step 1 and 2 of R387. -/
def State.install (s : State) (part : Nat) (bs : List Byte) : State :=
  let old := s.part part
  let s := s.setPart part
    { blockPart bs with det := old.det, fsrv := old.fsrv, creating := true, meters := old.meters, usage := ⟨0, s.time, [], 0, 0, 0⟩ }
  let s := (List.range 576).foldl (fun s k => s.setWays part k (BitVec.ofNat 16 (recNat bs (0x300 + 2 * k) 2))) s
  { s with tlb := s.tlb.filter fun e => e.part != part }

/-- A PART form whose A is a partition. -/
def partNo (v : DWord) : Option Nat := if 1 ≤ v.toNat ∧ v.toNat ≤ 63 then some v.toNat else none

def execPartCreate (sw : Bool) (d b : SReg) (a : Src) (s : State) : Out :=
  begin { needS a with level := 2 } s fun h =>
    let len := Src.len a
    match partNo (Src.scalar s h a) with
    | none => .next (s.raise h .illegalOperand len)
    | some p =>
      let x := s.part p
      if x.live || x.creating then .next ((s.setSreg h d (refusal 1)).done h len sw)
      else match bufferTrap (s.sreg h b) 2048 4096 2 with
      | some (c, e) => .next (s.raiseAt h c len e 0#1024 false)
      | none =>
        let bs := s.physRead (s.sreg h b).toNat 2048
        if !blockOk bs || !s.blockFits bs then .next ((s.setSreg h d (refusal 3)).done h len sw)
        else if s.owners.any (fun e => (blockPart bs).conflicts e.2) then .next ((s.setSreg h d (refusal 2)).done h len sw)
        else .next (((s.install p bs).setSreg h d 0#64).done h len sw)

/-! ### The scrub (R388) -/

/-- Zeros over a range of whole 128-byte lines, performed at the home where no fill mask of the system owner's takes a line
in: no copy of an older byte or of poison stays. -/
def State.zeroPlain (s : State) (base len : Nat) : State :=
  let inn := fun a : Nat => decide (base / 128 ≤ a / 128 ∧ a / 128 < (base + len) / 128)
  let s := { s with
    mem := s.mem.filter fun (c : Host.Cell) => !inn c.1, poison := s.poison.filter fun (e : Nat × Bool) => !inn (64 * e.1),
    l2 := (s.l2.filter fun (e : Nat × L2Line) => !(e.2.guest && inn (128 * e.2.line))).map fun (e : Nat × L2Line) =>
      if inn (128 * e.2.line) then (e.1, { e.2 with data := 0#1024, dirty := false, pois := 0#2, written := 0#128 }) else e }
  (s.ctxs.map (·.1)).foldl State.reread s

/-- Zeros over a range of whole 128-byte lines, as system stores under the system owner's masks (R388, R397): no copy of an
older byte or of poison stays.  `pin` is the home slice that the page's own leaf names (R294). -/
def State.zeroRange (s : State) (pin : Option Nat) (base len : Nat) : State :=
  let z := s.zeroPlain base len
  if (List.range 576).all fun k => z.fillMask 0 k == 0#16 then z
  else (List.range (len / 128)).foldl (fun (s : State) i =>
      s.write 0 none ((List.range 128).map fun j =>
        (⟨base + 128 * i + j, pin <|> (s.physLoc 0 (base + 128 * i)).pin⟩, 0#8))) z

/-- A stage-2 leaf entry at a physical address: its page is zeroed and SCRUB set, if it is valid and not yet scrubbed. -/
def State.scrubLeaf (s : State) (part pa size : Nat) : State :=
  let e := s.home64 pa
  let base := entryAddr true e
  if !entryOk true e || e.getLsbD 1 || e.getLsbD 7 || base % size != 0 || e.extractLsb' 5 2 == 3#2 ||
    (size != 65536 && e.extractLsb' 5 2 != 0#2) || !(s.part part).ownsRange base size then s
  else (s.zeroRange (leafOf true e size pa).pin base size).write 0 none [(s.physLoc 0 pa, (e ||| 0x80#64).setWidth 8)]

def State.scrubTable3 (s : State) (part base : Nat) : State :=
  (List.range 8192).foldl (fun s i => s.scrubLeaf part (base + 8 * i) 65536) s

/-- A table entry that leads on. -/
def isTable (e : DWord) : Bool := entryOk true e && e.getLsbD 1 && e.extractLsb' 5 2 == 0#2

def State.scrubTable2 (s : State) (part base : Nat) : State :=
  (List.range 8192).foldl (fun s i =>
    let e := s.home64 (base + 8 * i)
    if isTable e then s.scrubTable3 part (entryAddr true e) else s.scrubLeaf part (base + 8 * i) (2 ^ 29)) s

/-- PARTITION_SCRUB: the stage-2 tables, the pen region and the context-image region. -/
def State.scrub (s : State) (part : Nat) : State :=
  let p := s.part part
  let s := (List.range 8192).foldl (fun s i =>
    let e := s.home64 (p.s2root + 8 * i)
    if isTable e then s.scrubTable2 part (entryAddr true e) else s) s
  (s.zeroRange none p.penbase p.penbytes).zeroRange none p.ctxbase p.ctxbytes

/-- Every access that the partition's translations have served is performed (R387, R389: as a TLBI.SYNC): its teams' requests
and lane copies, its foals' sectors, its fills. -/
def State.quietPart (s : State) (part : Nat) : Bool :=
  (s.teams.all fun e => (s.wg e.2.wg).launch.part != part || ((e.2.reqs.all fun r => r.todo.isEmpty) && e.2.copies.isEmpty)) &&
    (s.foals.all fun e => e.2.origin.part != part || !e.2.landing) && s.fills.all fun f => f.owner != part

/-- PART_CREATE_COMPLETE (R387, R401, R402), once the accesses of the number's last partition are performed: scrub, meters at
0, the KIND 1 record, then LIVE. -/
def execPartCreateComplete (part : Nat) (s : State) : Out :=
  if !(s.part part).creating || !s.quietPart part then .next s
  else
    let s := s.scrub part
    let s := s.setPart part { s.part part with meters := [] }
    let s := (s.closeUsage part 1 none).1
    .next (s.setPart part { s.part part with creating := false, live := true })

/-! ### Destroying (R245, R389) -/

/-- Cores, real and virtual, that hold a context of a partition. -/
def State.coresOf (s : State) (part : Nat) : List Nat := (s.cores.filter fun e => e.2.part == part).map (·.1)

def execPartDestroy (sw : Bool) (d : SReg) (a : Src) (s : State) : Out :=
  begin { needS a with level := 2 } s fun h =>
    let len := Src.len a
    match partNo (Src.scalar s h a) with
    | none => .next (s.raise h .illegalOperand len)
    | some p =>
      let x := s.part p
      if !x.live && !x.creating then .next ((s.setSreg h d (refusal 1)).done h len sw)
      else
        let cs := s.coresOf p
        let s := cs.foldl State.killContext s
        let s := s.setPart p { s.part p with pens := [], switch := none, destroying := true }
        let s := { s with arms := s.arms.filter fun e => e.2.part != p,
                          cores := s.cores.map fun (e : Nat × Core) =>
                            if e.2.part == p then (e.1, { e.2 with step := .running }) else e }
        let s := cs.foldl State.renewImage s.sweep
        .next ((s.setSreg h d 0#64).done h len sw)

/-- The lines a partition owns are written back and invalidated. -/
def State.purgeLines (s : State) (part : Nat) : State :=
  (s.l2.filter fun e => e.2.owner == part).foldl (fun s e =>
    (if e.2.dirty && !e.2.guest then s.writeBack e.2 else s).dropL2 e.1) s

/-- PART_DESTROY_COMPLETE (R245, R389, R402), once the partition's accesses are performed. -/
def execPartDestroyComplete (part : Nat) (s : State) : Out :=
  if !(s.part part).destroying || !s.quietPart part then .next s
  else
    let s := s.purgeLines part
    let s := (s.closeUsage part 4 (s.part part).slotEntry).1
    let p := s.part part
    let s := s.setPart part { Partition.blank with det := p.det, fsrv := p.fsrv, meters := p.meters }
    .next { s with
      entities := s.entities.filter fun e => e.2.part != part, tlb := s.tlb.filter fun e => e.part != part,
      ways := s.ways.filter fun e => e.1 / 1024 != part, resends := s.resends.filter fun r => r.part != part }

/-! ### Changing a live partition (R246) -/

/-- Width of a kind's bitmap. -/
def kindWidth (k : Nat) : Nat := if k == 0 then 144 else if k == 1 then 768 else if k == 2 then 48 else 24

def Partition.bitmap (p : Partition) (k : Nat) : Nat :=
  if k == 0 then p.clusters.toNat else if k == 1 then p.pchan.toNat else if k == 2 then p.ceng.toNat else p.ports.toNat
def Partition.setBitmap (p : Partition) (k v : Nat) : Partition :=
  if k == 0 then { p with clusters := BitVec.ofNat 144 v }
  else if k == 1 then { p with pchan := BitVec.ofNat 768 v }
  else if k == 2 then { p with ceng := BitVec.ofNat 48 v }
  else { p with ports := BitVec.ofNat 24 v }

/-- Whether a byte of a range lies in a pseudo-channel. -/
def inChannel (a n c : Nat) : Bool := rangesMeet a n (0x60000000 * c) 0x60000000

/-- A removed unit is in use by the partition. -/
def State.unitUsed (s : State) (part k u : Nat) : Bool :=
  let p := s.part part
  if k == 0 then
    s.cores.any (fun e => e.2.part == part && e.1 < 2304 && clusterOf e.1 == u) ||
      s.foals.any fun e => e.2.live && e.2.origin.part == part && e.1 / 256 < 2304 && clusterOf (e.1 / 256) == u
  else if k == 1 then
    inChannel p.penbase p.penbytes u || inChannel p.ctxbase p.ctxbytes u || inChannel p.ulogbase (5120 * p.ulogn) u ||
      inChannel p.gtbase (8192 * p.gtcount) u
  else if k == 2 then
    s.foals.any fun e => e.2.live && e.2.origin.part == part && match e.2.job with
      | .coll j => j.engine == u
      | .mma _ => false
      | .tmma _ => false
      | .copy _ => false
      | .batch _ => false
  else (s.port u).buffer.any fun f => f.isJob && f.part.toNat == part

/-- The refusal of PART.BITMAP. -/
def State.bitmapRefusal (s : State) (part k v : Nat) : Option Nat :=
  let p := s.part part
  let old := p.bitmap k
  let w := kindWidth k
  if !p.live then some 1
  else if 2 ^ w ≤ v then some 3
  else if (List.range w).any fun i => v.testBit i && !old.testBit i && s.owners.any fun (e : Nat × Partition) => e.1 != part && (e.2.bitmap k).testBit i
  then some 2
  else if (List.range w).any fun i => old.testBit i && !v.testBit i && s.unitUsed part k i then some 4
  else none

def execPartBitmap (sw : Bool) (d b : SReg) (a : Src) (s : State) : Out :=
  begin { needS a with level := 2 } s fun h =>
    let len := Src.len a
    let v := Src.scalar s h a
    let k := (v.extractLsb' 8 3).toNat
    match partNo (v.extractLsb' 0 8 |>.setWidth 64) with
    | none => .next (s.raise h .illegalOperand len)
    | some p =>
      if 4 ≤ k || 2 ^ 11 ≤ v.toNat then .next (s.raise h .illegalOperand len)
      else match bufferTrap (s.sreg h b) 128 64 2 with
      | some (c, e) => .next (s.raiseAt h c len e 0#1024 false)
      | none =>
        let m := leNat (s.physRead (s.sreg h b).toNat 128)
        match s.bitmapRefusal p k m with
        | some n => .next ((s.setSreg h d (refusal n)).done h len sw)
        | none => .next (((s.setPart p ((s.part p).setBitmap k m)).setSreg h d 0#64).done h len sw)

/-- Every dirty line in a way of a slice is written back and stays, clean (R396). -/
def State.cleanWay (s : State) (slice way : Nat) : State :=
  (s.l2.filter fun e => sliceOfKey e.1 == slice && wayOfKey e.1 == way && e.2.dirty && !e.2.guest).foldl (fun s e =>
    ((s.writeBack e.2).putL2 e.1 { e.2 with dirty := false }).meterAdd e.2.owner 5 128) s

/-- A new fill mask in one slice, with the ways it removes cleaned. -/
def State.changeWays (s : State) (part slice : Nat) (m : BitVec 16) : State :=
  let old := s.fillMask part slice
  let s := (List.range 16).foldl (fun s w => if old.getLsbD w && !m.getLsbD w then s.cleanWay slice w else s) s
  s.setWays part slice m

/-- PART.WAYS (R246); a slice of 576 to 1,022, and other bits of s[B] that are not zero, raise ILLEGAL_OPERAND before the
refusal of a partition that is not live (DESIGN CHOICE, log 98). -/
def execPartWays (sw : Bool) (d b : SReg) (a : Src) (s : State) : Out :=
  begin { needS a with level := 2 } s fun h =>
    let len := Src.len a
    match partNo (Src.scalar s h a) with
    | none => .next (s.raise h .illegalOperand len)
    | some p =>
      let v := s.sreg h b
      let k := v.toNat % 1024
      if 2 ^ 32 ≤ v.toNat || v.extractLsb' 10 6 != 0#6 || (576 ≤ k && k != 0x3FF) then .next (s.raise h .illegalOperand len)
      else if !(s.part p).live then .next ((s.setSreg h d (refusal 1)).done h len sw)
      else
        let ks := if k == 0x3FF then List.range 576 else [k]
        let old := s.fillMask p (if k == 0x3FF then 0 else k)
        let s := ks.foldl (fun s k => s.changeWays p k (v.extractLsb' 16 16)) s
        .next ((s.setSreg h d (old.setWidth 64)).done h len sw)

end Sys2Proof.Machine
end

