-- ==== Sys2Proof/Machine/Coll.lean ====
section
/-! DEFINITION. Collectives: COLL, its ring of chunks, arrival pens, acknowledgements, refusals and notices (R96, R97,
R217-R219, R359-R362). The course of the ring and the bytes of a chunk are this model's (log 15). -/

namespace Sys2Proof.Machine

/-! ### Elements (R96, R97, R217) -/

/-- Bytes of an element of RECV and SEND. -/
def CollJob.elem (j : CollJob) : Nat := if j.ty == 1 then 2 else 4
def CollForm.reduces : CollForm → Bool
  | .ar => true | .rs => true | .ag => false | .bc => false
/-- Bytes of an element in a chunk: sums of bf16 travel as FP32. -/
def CollJob.wire (j : CollJob) : Nat :=
  if j.form.reduces then (if j.ty == 1 && j.op != 0 then 2 else 4) else if j.ty == 1 || j.comp == 1 then 2 else 4

def toBf16 (x : Nat) : Nat := (Fmt.fp32.convert .bf16 .rne x).bits
def ofBf16 (x : Nat) : Nat := x * 2 ^ 16

/-- A contribution as it enters the combine or a chunk. -/
def CollJob.enter (j : CollJob) (x : Nat) : Nat :=
  if j.ty == 0 && j.comp == 1 then (if j.form.reduces then ofBf16 (toBf16 x) else toBf16 x)
  else if j.ty == 1 && j.form.reduces && j.op == 0 then ofBf16 x else x

/-- A result as it is stored in RECV. -/
def CollJob.leave (j : CollJob) (x : Nat) : Nat :=
  if j.ty == 0 && j.comp == 1 && !j.form.reduces then ofBf16 x
  else if j.ty == 1 && j.form.reduces && j.op == 0 then toBf16 x else x

/-- The combine of R96. -/
def CollJob.combine (j : CollJob) (acc c : Nat) : Nat :=
  if j.ty == 2 then
    (let a : Word := BitVec.ofNat 32 acc
     let b : Word := BitVec.ofNat 32 c
     if j.op == 0 then (a + b).toNat else if j.op == 1 then (if a.slt b then c else acc) else (if b.slt a then c else acc))
  else if j.op == 0 then (Fmt.fp32.add acc c).bits
  else (if j.ty == 1 then Fmt.bf16.minMax (j.op == 1) acc c else Fmt.fp32.minMax (j.op == 1) acc c).bits

/-- Little-endian elements of n bytes. -/
def elemsOf (n : Nat) (bs : List Byte) : List Nat :=
  (List.range (bs.length / n)).map fun i => leNat ((bs.drop (n * i)).take n)
def bytesOf (n : Nat) (xs : List Nat) : List Byte := xs.flatMap fun x => leBytes n x

/-! ### The course of the ring (R218, R219) -/

/-- What a chunk carries: a partial result of a block, a result of a block, a member's contribution. -/
inductive Leg where
  | part (b : Nat)
  | res (b : Nat)
  | contrib (k : Nat)
  deriving DecidableEq, Repr

/-- What member r of n sends to the next member, in order. A reduction runs from member 0 to member n - 1 in member order and
its results go round from there; a broadcast goes round likewise, so that every link has matched before RECV is written. -/
def legs (f : CollForm) (n r : Nat) : List Leg :=
  match f with
  | .ar => (if r + 1 < n then [.part 0] else []) ++ (if r + 1 == n || r + 3 ≤ n then [.res 0] else [])
  | .bc => (if r + 1 < n then [.part 0] else []) ++ (if r + 1 == n || r + 3 ≤ n then [.res 0] else [])
  | .rs => (if r + 1 < n then (List.range n).map .part else []) ++
      ((List.range (n - 1)).filter fun b => r + 1 == n || r < b).map .res
  | .ag => (List.range (n - 1)).map fun t => .contrib ((r + n - t) % n)

def CollJob.n (j : CollJob) : Nat := j.members.length
def CollJob.outLegs (j : CollJob) : List Leg := legs j.form j.n j.r
def CollJob.inLegs (j : CollJob) : List Leg := legs j.form j.n ((j.r + j.n - 1) % j.n)

/-- Elements of piece c of a block: 4,096 bytes of payload (R218). -/
def CollJob.pieceStart (j : CollJob) (c : Nat) : Nat := c * (4096 / j.wire)
def CollJob.pieces (j : CollJob) : Nat := (j.count + 4096 / j.wire - 1) / (4096 / j.wire)
def CollJob.pieceLen (j : CollJob) (c : Nat) : Nat := min j.count (j.pieceStart (c + 1)) - j.pieceStart c

/-- Chunk q is piece q / legs of leg q mod legs. -/
def CollJob.outTotal (j : CollJob) : Nat := j.outLegs.length * j.pieces
def CollJob.inTotal (j : CollJob) : Nat := j.inLegs.length * j.pieces

/-- A foal that has sent, received and had acknowledged all there is. -/
def CollJob.complete (j : CollJob) : Bool := j.recvd == j.inTotal && j.acked == j.outTotal

/-! ### Frames -/

/-- The descriptor in the first chunk: form, OP, TYPE, COMP, COUNT, GROUP, GEN and NMEM (R218, R219). -/
def CollJob.descriptor (j : CollJob) : List Byte :=
  let f := match j.form with | .ar => 0 | .ag => 1 | .rs => 2 | .bc => 3
  leBytes 4 (f + 256 * j.op + 65536 * j.ty + 16777216 * j.comp) ++ leBytes 4 j.group.toNat ++ leBytes 8 j.count ++
    leBytes 4 j.gen.toNat ++ leBytes 4 j.n

/-- CHUNK: the collective's number on the group, and the chunk's. -/
def chunkField (ordinal q : Nat) : DWord := BitVec.ofNat 64 (ordinal % 2 ^ 24 * 2 ^ 40 + q)

/-- Member before this one in the ring. -/
def CollJob.prevMember (j : CollJob) : Nat := j.members.getD ((j.r + j.n - 1) % j.n) 0

/-- The matched foal of a chunk, an acknowledgement or a refusal. -/
def State.collFor (s : State) (f : Frame) : Option (Nat × Foal) :=
  s.foals.find? fun e => e.2.origin.part == f.part.toNat && e.2.origin.job == f.job && match e.2.job with
    | .coll j => j.group == f.group && j.ordinal % 2 ^ 24 == f.ordinal
    | .mma _ => false
    | .tmma _ => false
    | .copy _ => false
    | .batch _ => false

/-- Key of the count of collectives that a job has issued on a group. -/
def collKey (group job : Word) (inc : Nat) : Nat := (inc * 2 ^ 32 + job.toNat) * 2 ^ 32 + group.toNat

/-- Collectives issued on a group. -/
def State.issuedOn (s : State) (part : Nat) (group job : Word) (inc : Nat) : Nat :=
  Store.get 0 (s.part part).colls (collKey group job inc)

def State.putColl (s : State) (k : Nat) (f : Foal) (j : CollJob) : State := s.putFoal k { f with job := .coll j }

/-! ### Ends -/

/-- A collective that ends early writes what it holds of words of RECV: the elements of completed chunks stand (R218). -/
def State.flushWords (s : State) (k : Nat) : State :=
  match s.foalAt k with
  | none => s
  | some f =>
    match f.job with
    | .coll j =>
      let ws := j.words.filterMap fun b => match translateBytes s none f.origin.part (BitVec.ofNat 64 b.1) 1 .write with
        | .ok (l :: _) => some (l, b.2)
        | .ok [] => none
        | .error _ => none
      if ws.isEmpty then s else s.engineWrite (k / 256) f.origin.part (s.wg f.wg).entity ws
    | .mma _ => s
    | .tmma _ => s
    | .copy _ => s
    | .batch _ => s

/-- A collective ends in FAULT, with the fault of its barrier (R209). -/
def State.collFault (s : State) (k : Nat) (f : Foal) (j : CollJob) (c : TrapCode) (a : DWord) : State :=
  let s := (s.flushWords k).endFoal k .fault (some c) a
  (match j.tb with
   | some b => s.tbFault f.wg b
   | none => s).sweep

/-- COLL_MISMATCH (R218): this member finds it, ends its own foal and tells the next. -/
def State.collMismatch (s : State) (k : Nat) (f : Foal) (j : CollJob) : State :=
  (s.sendNotice k f j 2).collFault k f { j with noticed := true } .illegalOperand 0#64

/-- A cancel that has reached a running collective takes effect; a finished one is DONE (R218, R262). -/
def State.collSettle (s : State) (k : Nat) : State :=
  match s.foalAt k with
  | none => s
  | some f =>
    match f.job with
    | .coll j =>
      if f.status != .running then s
      else if j.complete then (s.endFoal k .done none 0#64).sweep
      else if f.canreq then ((s.flushWords k).endFoal k .cancelled none 0#64).sweep else s
    | .mma _ => s
    | .tmma _ => s
    | .copy _ => s
    | .batch _ => s

/-! ### SEND and RECV -/

/-- The lines of `len` elements at an address are used at the home (R377). -/
def State.useElems (s : State) (part : Nat) (a : DWord) (n : Nat) : State :=
  let s := s.chargeMisses none part a n
  match translateBytes s none part a n .read with
  | .ok ls => s.useAll part ls
  | .error _ => s

/-- Elements of SEND from an offset in elements, as they enter. -/
def State.sendElems (s : State) (f : Foal) (j : CollJob) (at_ len : Nat) : Except (TrapCode × DWord) (List Nat) :=
  let a := j.send + BitVec.ofNat 64 (j.elem * at_)
  let go := fun (i : Nat) =>
    let x := a + BitVec.ofNat 64 (j.elem * i)
    match translateBytes s none f.origin.part x j.elem .read with
    | .error (.fault, y) => Except.error (TrapCode.memFault, y)
    | .error (.perm, y) => .error (.perm, y)
    | .ok ls => if ls.any s.homePoison then .error (.memPoison, x) else .ok (j.enter (leNat (ls.map s.homeByte)))
  (List.range len).mapM go

/-- First byte of RECV, and the byte after its last. -/
def CollJob.recvFrom (j : CollJob) : Nat := j.recv.toNat
def CollJob.recvTo (j : CollJob) : Nat := j.recvFrom + j.elem * j.count * (if j.form == .ag then j.n else 1)

/-- The 32-byte sectors of RECV that have wholly landed with the bytes written, and what is left landed in part (R218). -/
def CollJob.landed (j : CollJob) (as : List Nat) : Nat × CollJob :=
  ((as.map fun a => a / 32).eraseDups).foldl (fun (r : Nat × CollJob) x =>
    let size := min j.recvTo (32 * x + 32) - max j.recvFrom (32 * x)
    let got := (as.filter fun a => a / 32 == x).length + ((r.2.sectors.lookup x).getD 0)
    let rest := r.2.sectors.filter fun e => e.1 != x
    if got == size then (r.1 + 1, { r.2 with sectors := rest })
    else (r.1, { r.2 with sectors := (x, got) :: rest })) (0, j)

/-- The bytes of RECV that are written with a piece: each aligned 4-byte word of it whole, once all its bytes are there, and
the bytes that wait (R305). -/
def CollJob.whole (j : CollJob) (bs : List (Nat × Byte)) : List (Nat × Byte) × CollJob :=
  let all := j.words ++ bs
  let has := fun (w : Nat) => (List.range 4).all fun i =>
    let a := 4 * w + i
    decide (a < j.recvFrom) || decide (j.recvTo ≤ a) || all.any fun b => b.1 == a
  (all.filter fun b => has (b.1 / 4), { j with words := all.filter fun b => !has (b.1 / 4) })

/-- A piece of RECV is written, and its sectors count toward the barrier (R218, R305, R310). -/
def State.recvPiece (s : State) (k : Nat) (f : Foal) (j : CollJob) (a : DWord) (bs : List Byte) :
    Except (TrapCode × DWord) (State × CollJob) :=
  let place := fun (n : Nat) (x : DWord) => match translateBytes s none f.origin.part x n .write with
    | .error (.fault, y) => Except.error (TrapCode.memFault, y)
    | .error (.perm, y) => .error (.perm, y)
    | .ok ls => .ok ls
  match (List.range (bs.length / j.elem)).mapM fun i => place j.elem (a + BitVec.ofNat 64 (j.elem * i)) with
  | .error e => .error e
  | .ok _ =>
    let w := j.whole (bs.zipIdx.map fun b => (a.toNat + b.2, b.1))
    match w.1.mapM fun b => place 1 (BitVec.ofNat 64 b.1) with
    | .error e => .error e
    | .ok ls =>
      let s := (s.chargeMisses none f.origin.part a bs.length).engineWrite (k / 256) f.origin.part (s.wg f.wg).entity
        (ls.flatten.zip (w.1.map (·.2)))
      let s := match s.foalAt k with
        | some f => s.putFoal k { f with progress := f.progress + 1 }
        | none => s
      let (n, j) := w.2.landed (w.1.map (·.1))
      match j.tb with
      | none => .ok (s, j)
      | some b => .ok ((List.range n).foldl (fun s _ => s.tbSector f.wg b) s, j)

/-- Whether every member is known to match: RECV may be written. -/
def CollJob.verified (j : CollJob) : Bool := j.form != .ag || decide (j.inLegs.length ≤ j.recvd)

/-- A piece of RECV is written now, or held until every member is known to match. -/
def State.deliverPiece (s : State) (k : Nat) (f : Foal) (j : CollJob) (at_ : Nat) (xs : List Nat) :
    Except (TrapCode × DWord) (State × CollJob) :=
  let a := j.recv + BitVec.ofNat 64 (j.elem * at_)
  let bs := bytesOf j.elem (xs.map j.leave)
  if j.verified then s.recvPiece k f j a bs
  else .ok (s, { j with held := j.held ++ [(a, bs)] })

/-- The pieces held back are written once every member matches. -/
def State.releaseHeld (s : State) (k : Nat) (f : Foal) (j : CollJob) : Except (TrapCode × DWord) (State × CollJob) :=
  if !j.verified then .ok (s, j)
  else match j.held.foldl (fun (r : Except (TrapCode × DWord) (State × CollJob)) p => match r with
      | .error e => .error e
      | .ok (s, j) => s.recvPiece k f j p.1 p.2) (.ok (s, j)) with
    | .error e => .error e
    | .ok (s, j) => .ok (s, { j with held := [] })

/-- A payload becomes ready for a leg that this member sends. -/
def CollJob.offer (j : CollJob) (l : Leg) (c : Nat) (xs : List Nat) : CollJob :=
  match j.outLegs.findIdx? (· == l) with
  | none => j
  | some i => { j with ready := j.ready ++ [(c * j.outLegs.length + i, bytesOf j.wire xs)] }

/-! ### Receiving a chunk -/

/-- What a received piece of a leg does (R96, R218). -/
def State.takeLeg (s : State) (k : Nat) (f : Foal) (j : CollJob) (l : Leg) (c : Nat) (xs : List Nat) :
    Except (TrapCode × DWord) (State × CollJob) :=
  let at_ := j.pieceStart c
  match l with
  | .contrib m => s.deliverPiece k f (j.offer (.contrib m) c xs) (m * j.count + at_) xs
  | .res b =>
    if j.form == .rs then (if b == j.r then s.deliverPiece k f j at_ xs else .ok (s, j.offer (.res b) c xs))
    else s.deliverPiece k f (j.offer (.res b) c xs) at_ xs
  | .part b =>
    let own := if j.form == .bc then Except.ok [] else s.sendElems f j ((if j.form == .rs then b * j.count else 0) + at_) xs.length
    match own with
    | .error e => .error e
    | .ok cs =>
      let s := if cs.isEmpty then s
        else s.useElems f.origin.part (j.send + BitVec.ofNat 64 (j.elem * ((if j.form == .rs then b * j.count else 0) + at_))) (j.elem * cs.length)
      let ys := if j.form == .bc then xs else (xs.zip cs).map fun p => j.combine p.1 p.2
      if j.r + 1 != j.n then .ok (s, j.offer (.part b) c ys)
      else if j.form == .rs then
        (if b == j.r then s.deliverPiece k f j at_ ys else .ok (s, j.offer (.res b) c ys))
      else s.deliverPiece k f (j.offer (.res b) c ys) at_ ys

/-- The acknowledgement of the highest chunk combined. -/
def State.sendAck (s : State) (k : Nat) (f : Foal) (j : CollJob) : State :=
  if j.recvd == 0 then s
  else s.sendJob (s.jobFrame f.origin (s.core (k / 256)).inc 2 j.prevMember j.group (chunkField j.ordinal (j.recvd - 1)) [])

/-- The chunks that have come are combined in order, once the writes that the die has read are performed (R302). -/
def State.collCombine (s : State) (k : Nat) : Nat → State
  | 0 => s
  | n + 1 =>
    match s.foalAt k with
    | none => s
    | some f =>
      match f.job with
      | .coll j =>
        if f.status != .running || !s.startable f || !s.released f || !s.engineMay k then s
        else match j.arrived.find? fun a => a.1 == j.recvd with
        | none => s
        | some (q, d, bs) =>
          let j := { j with arrived := j.arrived.filter fun a => a.1 != q }
          if q == 0 && d != j.descriptor then s.collMismatch k f j
          else
            let xs := elemsOf j.wire bs
            let f := { f with started := true }
            let c := q / j.inLegs.length
            match s.takeLeg k f { j with recvd := j.recvd + 1 } (j.inLegs.getD (q % j.inLegs.length) (.res 0)) c
                (xs.take (j.pieceLen c)) with
            | .error (e, a) => (s.putColl k f j).collFault k f j e a
            | .ok (s, j) =>
              match s.releaseHeld k f j with
              | .error (e, a) => (s.putColl k f j).collFault k f j e a
              | .ok (s, j) =>
                let f := { f with progress := (match s.foalAt k with | some x => x.progress | none => f.progress) }
                (((s.putColl k f j).sendAck k f j).collSettle k).collCombine k n
      | .mma _ => s
      | .tmma _ => s
      | .copy _ => s
      | .batch _ => s

/-- A chunk delivered to its collective: one that has come before is acknowledged again. -/
def State.deliverChunk (s : State) (k : Nat) (f : Foal) (j : CollJob) (x : Frame) : State :=
  let q := x.chunkNo
  if q < j.recvd then s.sendAck k f j
  else
    let j := if j.arrived.any fun a => a.1 == q then j else { j with arrived := j.arrived ++ [(q, x.desc, x.payload)] }
    (s.putColl k f j).collCombine k (j.arrived.length + 1)

/-- An acknowledgement covers its chunk and every earlier one. -/
def State.deliverAck (s : State) (k : Nat) (f : Foal) (j : CollJob) (x : Frame) : State :=
  let a := min (x.chunkNo + 1) j.nextSend
  if a ≤ j.acked then s
  else (s.putColl k f { j with acked := a, ready := j.ready.filter fun p => decide (a ≤ p.1) }).collSettle k

/-- A refused chunk: the sender goes back to the first that is not acknowledged. -/
def State.deliverRefusal (s : State) (k : Nat) (f : Foal) (j : CollJob) : State := s.putColl k f { j with nextSend := j.acked }

/-! ### Notices (R218, R359) -/

/-- A record of the partition's group table that is valid on this package (R219). -/
def groupOk (pkg : Nat) (bs : List Byte) : Bool :=
  let n := recNat bs
  let k := n 6 2
  let ms := (List.range k).map fun i => n (0x40 + 2 * i) 2
  n 4 1 == 1 && n 5 1 == 0 && n 0 4 != 0 && decide (2 ≤ k ∧ k ≤ 4064) && n 0x0C 52 == 0 && decide ms.Nodup && ms.contains pkg &&
    n (0x40 + 2 * k) (8128 - 2 * k) == 0

/-- Addresses of the records of a partition's group table (R219). -/
def Partition.groupPlaces (p : Partition) : List Nat := (List.range p.gtcount).map fun i => p.gtbase + 8192 * i

/-- The record at an address, if it is the group's and valid: its generation and members. -/
def State.groupAt (s : State) (group a : Nat) : Option (Word × List Nat) :=
  if leNat (s.physRead a 4) != group then none
  else
    let bs := s.physRead a 8192
    if groupOk s.pkg bs then
      some (BitVec.ofNat 32 (recNat bs 8 4), (List.range (recNat bs 6 2)).map fun i => recNat bs (0x40 + 2 * i) 2)
    else none

/-- The first valid record of a group: its generation and members. -/
def State.findGroup (s : State) (part : Nat) (group : Nat) : Option (Word × List Nat) :=
  ((s.part part).groupPlaces).findSome? fun a => s.groupAt group a

/-- What that search does to the lines it reads (R377, R397). -/
def State.useGroup (s : State) (part : Nat) (group : Nat) : State :=
  let as := (s.part part).groupPlaces
  let n := (as.takeWhile fun a => (s.groupAt group a).isNone).length
  (as.take (n + 1)).foldl (fun (t : State) a => t.usePhys part a (if leNat (s.physRead a 4) == group then 8192 else 4)) s

/-- The oldest unended collective of a group. -/
def State.oldestColl (s : State) (part : Nat) (job group : Word) : Option (Nat × Foal) :=
  oldestFoal (s.foals.filter fun e => e.2.live && e.2.origin.part == part && e.2.origin.job == job && match e.2.job with
    | .coll j => j.group == group
    | .mma _ => false
    | .tmma _ => false
    | .copy _ => false
    | .batch _ => false)

/-- A notice is passed on to a member, at this package's incarnation of the job. -/
def State.passNotice (s : State) (x : Frame) (dst : Nat) : State :=
  s.sendJob { x with dstpkg := BitVec.ofNat 16 dst, inc := BitVec.ofNat 8 (s.incarnation x.part.toNat x.job), lseq := 0#16, lack := 0#16,
                     hops := 0#8 }

/-- A notice acts on its collective and goes on round the ring, until it is back where it began. -/
def State.deliverNotice (s : State) (x : Frame) : State :=
  if x.srcpkg.toNat == s.pkg then s
  else
    match s.oldestColl x.part.toNat x.job x.group with
    | none =>
      -- no collective of the group is left to end here: the notice goes on round the ring of the latest
      (match Store.find (collKey x.group x.job x.inc.toNat) (s.part x.part.toNat).rings with
       | some ms => s.passNotice x (ms.getD ((ms.idxOf s.pkg + 1) % ms.length) 0)
       | none =>
         -- none has been issued here: the ring is that of the group's record
         match s.findGroup x.part.toNat x.group.toNat with
         | some (_, ms) => (s.useGroup x.part.toNat x.group.toNat).passNotice x (ms.getD ((ms.idxOf s.pkg + 1) % ms.length) 0)
         | none => s)
    | some (k, f) =>
      match f.job with
      | .coll j =>
        let s := s.passNotice x j.nextMember
        let s := s.putColl k f { j with noticed := true }
        if x.chunk.toNat % 256 == 2 then s.collFault k f { j with noticed := true } .illegalOperand 0#64
        else (s.cancelFoal k).sweep
      | .mma _ => s
      | .tmma _ => s
      | .copy _ => s
      | .batch _ => s

/-! ### Pens (R361, R362) -/

/-- Blocks a list of packets takes, and the bytes used in the last. -/
def penBlocks (ps : List Frame) : Nat × Nat :=
  ps.foldl (fun (a : Nat × Nat) p =>
    if a.1 == 0 || 8184 < a.2 + p.penBytes then (a.1 + 1, p.penBytes) else (a.1, a.2 + p.penBytes)) (0, 0)

/-- The lowest-numbered free block of a pen region, and its lowest free directory entry. -/
def Partition.freeBlock (p : Partition) : Option Nat :=
  (List.range ((p.penbytes - 65536) / 8192)).find? fun b => !p.pens.any fun e => e.blocks.contains b
def Partition.freePen (p : Partition) : Option Nat := (List.range 1024).find? fun n => !p.pens.any fun e => e.entry == n

/-- The pen of a job as it is, or the one it takes. -/
def Partition.penFor (p : Partition) (job : Word) : Option Pen :=
  match p.pens.find? fun e => e.job == job with
  | some e => some e
  | none => p.freePen.map fun n => { job := job, inc := 0, entry := n, blocks := [], packets := [] }

/-- A pen with a packet more; none where it is full. -/
def Partition.penAdd (p : Partition) (x : Frame) : Option Pen :=
  match p.penFor x.job with
  | none => none
  | some e =>
    let e' := { e with inc := max e.inc x.inc.toNat, packets := e.packets ++ [x] }
    if (penBlocks e'.packets).1 ≤ e.blocks.length then some e'
    else p.freeBlock.map fun b => { e' with blocks := e.blocks ++ [b] }

/-- Byte i of block b of a pen region. -/
def Partition.penByte (p : Partition) (b i : Nat) : Nat := p.penbase + 65536 + 8192 * b + i

/-- The 64 bytes of a pen's directory entry. -/
def Pen.bytes (e : Pen) : List Byte :=
  leBytes 4 e.job.toNat ++ leBytes 1 e.inc ++ leBytes 3 0 ++ leBytes 4 (e.blocks.headD 0) ++ leBytes 4 (e.blocks.getLastD 0) ++
    leBytes 8 e.packets.length ++ leBytes 8 (e.packets.foldl (fun a x => a + x.penBytes) 0) ++ leBytes 32 0

/-- A packet as a pen stores it: its header flit, and its payload flits. -/
def storedFrame (x : Frame) : List Byte :=
  Sys2Proof.Frame.header x ++ x.payload ++ leBytes (x.penBytes - 64 - x.payload.length) 0

/-- A pen write is the system owner's, and its bytes count for the partition (R397, R400; DEDUCED, log 35). -/
def State.penWrite (s : State) (part pa : Nat) (bs : List Byte) : State := (s.physWrite 0 pa bs).meterAdd part 5 bs.length

/-- The packets of a pen read at delivery, each where its block holds it (R362, R397, R400). -/
def State.penRead (s : State) (part : Nat) (e : Pen) : State :=
  (List.range e.packets.length).foldl (fun s i =>
    match e.packets[i]? with
    | none => s
    | some x =>
      let b := penBlocks (e.packets.take (i + 1))
      (s.usePhys 0 ((s.part part).penByte (e.blocks.getD (b.1 - 1) 0) (b.2 - x.penBytes)) x.penBytes).meterAdd part 5 x.penBytes) s

/-- PEN_STORE (R362): the packet stands at the end of its pen's last block, a new block is linked to the one before it, and the
directory entry follows. -/
def State.penStore (s : State) (x : Frame) : State :=
  let part := x.part.toNat
  let p := s.part part
  match p.penAdd x with
  | none => s
  | some e =>
    let old := (p.penFor x.job).map (·.blocks)
    let b := e.blocks.getLastD 0
    let s := s.setPart part { p with pens := (p.pens.filter fun y => y.job != x.job) ++ [e] }
    let s := if old == some e.blocks then s
      else
        let s := match old.bind List.getLast? with
          | some l => s.penWrite part (p.penByte l 8184) (leBytes 8 b)
          | none => s
        s.penWrite part (p.penByte b 8184) (leBytes 8 (2 ^ 64 - 1))
    let s := s.penWrite part (p.penByte b ((penBlocks e.packets).2 - x.penBytes)) (storedFrame x)
    s.penWrite part (p.penbase + 64 * e.entry) e.bytes

/-- An answer of the package to a packet's sender, for a chunk that was penned or discarded, or for a packet refused. It goes
at once, though its job is switched out (R361; DEDUCED, log 81). -/
def State.answer (s : State) (x : Frame) (cls : Nat) (payload : List Byte) : State :=
  let f := { Frame.make x.part.toNat cls s.pkg x.srcpkg.toNat payload with
             job := x.job, inc := BitVec.ofNat 8 (s.incarnation x.part.toNat x.job), group := x.group, chunk := x.chunk }
  (s.inject f).getD { s with resends := s.resends ++ [⟨s.time, false, f.part.toNat, f.job, f⟩] }

/-- A packet goes to its job's pen, or is refused where the pen is full; a refusal names the class it refuses. -/
def State.toPen (s : State) (x : Frame) : State :=
  if ((s.part x.part.toNat).penAdd x).isSome then
    (let s := s.penStore x
     if x.cls == 1#8 then s.answer x 2 [] else s)
  else s.answer x 3 [x.cls]

/-! ### Arrival (R361) -/

/-- A job runs here at an incarnation: a context of it is resident and not leaving. -/
def State.jobRuns (s : State) (part : Nat) (job : Word) (inc : Nat) : Bool :=
  s.cores.any fun e => e.1 < 2304 && e.2.part == part && e.2.job == job && e.2.inc == inc &&
    (e.2.step == .running || match e.2.step with
      | .halting _ _ => true
      | .running => false
      | .draining _ _ _ => false
      | .saving _ _ _ _ _ => false)

/-- A refused acknowledgement or notice is sent again later. -/
def State.resendLater (s : State) (x : Frame) (cls : Nat) : State :=
  let f := { Frame.make x.part.toNat cls s.pkg x.srcpkg.toNat [] with
             job := x.job, inc := BitVec.ofNat 8 (s.incarnation x.part.toNat x.job), group := x.group, chunk := x.chunk }
  { s with resends := s.resends ++ [⟨s.time + 10000#64, true, x.part.toNat, x.job, f⟩] }

/-- A collective whose packets go to the pen: it is frozen, or its context is saved or being saved (R361, R373). -/
def State.collAway (s : State) (k : Nat) (f : Foal) : Bool :=
  f.status == .frozen || decide (coreCount ≤ k / 256) || match (s.core (k / 256)).step with
    | .draining _ _ _ => true
    | .saving _ _ _ _ _ => true
    | .running => false
    | .halting _ _ => false

/-- A packet of a running job, delivered; it waits in the pen while its collective is not issued or its context is away. -/
def State.deliver (s : State) (x : Frame) : State :=
  if x.cls == 6#8 then
    (match s.oldestColl x.part.toNat x.job x.group with
     | some (k, f) => if s.collAway k f then s.toPen x else s.deliverNotice x
     | none => s.deliverNotice x)
  else if x.cls == 3#8 && (x.payload.headD 1#8 == 2#8 || x.payload.headD 1#8 == 6#8) then
    s.resendLater x (x.payload.headD 1#8).toNat
  else match s.collFor x with
  | none =>
    if x.cls == 1#8 && s.issuedOn x.part.toNat x.group x.job x.inc.toNat ≤ x.ordinal then s.toPen x
    else if x.cls == 1#8 then s.answer x 2 [] else s
  | some (k, f) =>
    if f.live && s.collAway k f then s.toPen x
    else if !f.live then (if x.cls == 1#8 then s.answer x 2 [] else s)
    else match f.job with
    | .coll j =>
      if x.cls == 1#8 then s.deliverChunk k f j x
      else if x.cls == 2#8 then s.deliverAck k f j x
      else if x.cls == 3#8 then s.deliverRefusal k f j else s
    | .mma _ => s
    | .tmma _ => s
    | .copy _ => s
    | .batch _ => s

/-- A job packet arrives at its package. -/
def State.arrive361 (s : State) (x : Frame) : State :=
  let part := x.part.toNat
  let p := s.part part
  let inc := s.incarnation part x.job
  if !p.live || p.destroying then s.send (.log 1 part)
  else if x.inc.toNat < inc then s
  else if inc < x.inc.toNat then s.toPen x
  else if s.jobRuns part x.job x.inc.toNat then s.deliver x
  else s.toPen x

/-- PEN_DELIVER: at an incarnation, the packets below it go, those equal to it are delivered in order, those above it stay. -/
def State.penDeliver (s : State) (part : Nat) (job : Word) (inc : Nat) : State :=
  let p := s.part part
  match p.pens.find? fun e => e.job == job with
  | none => s
  | some e =>
    let stay := e.packets.filter fun x => decide (inc < x.inc.toNat)
    let now := e.packets.filter fun x => x.inc.toNat == inc
    let s := s.penRead part e
    let q := s.part part
    let s := (s.setPart part { q with pens := q.pens.filter fun e => e.job != job }).penWrite part (p.penbase + 64 * e.entry)
      (leBytes 64 0)
    now.foldl State.deliver (stay.foldl State.penStore s)

/-! ### Issue -/

/-- The collective engine that runs a foal of a core: the first the partition owns on its die, or the first it owns. -/
def Partition.engineFor (p : Partition) (core : Nat) : Option Nat :=
  match (List.range 4).find? fun i => p.ceng.getLsbD (4 * dieOfCore core + i) with
  | some i => some (4 * dieOfCore core + i)
  | none => (List.range 48).find? fun i => p.ceng.getLsbD i

/-- The table of R217 (its step 5 of R199). -/
def collRecordOk (f : CollForm) (bs : List Byte) : Bool :=
  let n := recNat bs
  let red := f.reduces
  let es := if n 5 1 == 1 then 2 else 4
  decide (n 4 1 ≤ 2) && (red || n 4 1 == 0) && decide (n 5 1 ≤ 2) && decide (n 6 1 ≤ 1) && (n 6 1 == 0 || n 5 1 == 0) &&
    n 7 1 == 0 && n 8 8 % es == 0 && n 0x10 8 % es == 0 && decide (1 ≤ n 0x18 8 ∧ n 0x18 8 < 2 ^ 32) && n 0x20 32 == 0

def collOp (form : CollForm) (sw : Bool) (r b : SReg) (fx : Fx) (s : State) : Out :=
  begin needF s fun h =>
    let s := s.settle h
    let g := (s.team h).wg
    let w := (s.wgOf h).launch
    let o := (s.sreg h r).toNat % 2 ^ 20
    let tb : Option Nat := if b == 63#6 then none else some ((s.sreg h b).toNat % 2 ^ 20)
    match s.recordChecks h false o 64 (match tb with | some a => [a / 4096] | none => []) with
    | some s' => .next s'
    | none =>
      let bs := s.spRead g o 64
      let n := recNat bs
      let size := s.spSize h
      let ta := tb.getD 0
      if !collRecordOk form bs then .next (s.raise h .illegalOperand 2)
      else match s.findGroup w.part (n 0 4) with
      | none => .next ((s.useGroup w.part (n 0 4)).raise h .illegalOperand 2)
      | some (gen, ms) =>
        match (s.part w.part).engineFor (s.coreOf h) with
        | none => .next (s.raise h .perm 2)
        | some eng =>
          if (s.part w.part).ports == 0#24 then .next (s.raise h .perm 2)
          else if ta % 16 != 0 then .next (s.raiseRegion h .align 2 ta)
          else if tb.isSome && size < ta + 16 then .next (s.raiseRegion h .memFault 2 (max ta size))
          else if !s.foalRoom h .coll then .next (s.parkFoal h .coll)
          else
            let group : Word := BitVec.ofNat 32 (n 0 4)
            let inc := (s.core (s.coreOf h)).inc
            let ord := s.issuedOn w.part group w.job inc
            let j : CollJob :=
              { form := form, op := n 4 1, ty := n 5 1, comp := n 6 1, group := group, gen := gen, members := ms,
                r := ms.idxOf s.pkg, send := BitVec.ofNat 64 (n 8 8), recv := BitVec.ofNat 64 (n 0x10 8), count := n 0x18 8,
                tb := tb, ordinal := ord, nextSend := 0, acked := 0, recvd := 0, arrived := [], ready := [], held := [], words := [], sectors := [],
                engine := eng, noticed := false }
            let s := s.useGroup w.part (n 0 4)
            let p := s.part w.part
            let s := s.setPart w.part 
              { p with colls := Store.set 0 p.colls (collKey group w.job inc) (ord + 1),
                       rings := Store.put (collKey group w.job inc) ms p.rings }
            let s := s.launchFoal h .coll fx [] (.coll j) sw
            .next (s.penDeliver w.part w.job inc)

def execCollAr (sw : Bool) (r b : SReg) (fx : Fx) (s : State) : Out := collOp .ar sw r b fx s
def execCollAg (sw : Bool) (r b : SReg) (fx : Fx) (s : State) : Out := collOp .ag sw r b fx s
def execCollRs (sw : Bool) (r b : SReg) (fx : Fx) (s : State) : Out := collOp .rs sw r b fx s
def execCollBc (sw : Bool) (r b : SReg) (fx : Fx) (s : State) : Out := collOp .bc sw r b fx s

/-! ### Sending (R201, R218, R360) -/

/-- A leg whose payload is this member's own contribution. -/
def CollJob.ownLeg (j : CollJob) : Leg → Bool
  | .part _ => j.r == 0
  | .res _ => false
  | .contrib k => k == j.r

/-- Whether the next chunk can be sent. -/
def CollJob.sendable (j : CollJob) : Bool :=
  decide (j.nextSend < j.outTotal) &&
    (j.ready.any (fun p => p.1 == j.nextSend) || j.ownLeg (j.outLegs.getD (j.nextSend % j.outLegs.length) (.res 0)))

def State.collReady (s : State) (k : Nat) (f : Foal) : Bool :=
  match f.job with
  | .coll j =>
    s.startable f && s.released f && s.engineMay k && !f.canreq && j.sendable && s.mayInject f.origin.part f.origin.job (s.core (k / 256)).inc &&
      (s.core (k / 256)).step == .running
  | .mma _ => false
  | .tmma _ => false
  | .copy _ => false
  | .batch _ => false

/-- The payload of the next chunk, and what reading it leaves: a member's own contribution is read once, and for an
all-gather it is the member's own block of RECV. -/
def State.collPayload (s : State) (k : Nat) (f : Foal) (j : CollJob) : Except (TrapCode × DWord) (State × CollJob × List Byte) :=
  let q := j.nextSend
  match j.ready.find? fun p => p.1 == q with
  | some p => .ok (s, j, p.2)
  | none =>
    let c := q / j.outLegs.length
    let l := j.outLegs.getD (q % j.outLegs.length) (.res 0)
    let b := match l with
      | .part b => if j.form == .rs then b * j.count else 0
      | .res _ => 0
      | .contrib _ => 0
    match s.sendElems f j (b + j.pieceStart c) (j.pieceLen c) with
    | .error e => .error e
    | .ok xs =>
      let s := s.useElems f.origin.part (j.send + BitVec.ofNat 64 (j.elem * (b + j.pieceStart c))) (j.elem * xs.length)
      let bs := bytesOf j.wire xs
      let j := { j with ready := j.ready ++ [(q, bs)] }
      if j.form == .ag then
        (match s.deliverPiece k f j (j.r * j.count + j.pieceStart c) xs with
         | .error e => .error e
         | .ok (s, j) => .ok (s, j, bs))
      else .ok (s, j, bs)

/-- COLL_CHUNK_SEND (R218): the foal its engine chooses sends its next chunk. -/
def execCollChunkSend (core slot : Nat) (s : State) : Out :=
  let k := foalKey core slot
  let s := (s.collSettle k).collCombine k 64
  match s.foalAt k with
  | none => .next s
  | some f =>
    match f.job with
    | .coll j =>
      let mine := s.foals.filter fun e => s.collReady e.1 e.2 && match e.2.job with
        | .coll x => x.engine == j.engine
        | .mma _ => false
        | .tmma _ => false
        | .copy _ => false
        | .batch _ => false
      match bestFoal mine with
      | none => .next s
      | some (k', _) =>
        if k' != k then .next s
        else
          let f := { f with started := true }
          match s.collPayload k f j with
          | .error (e, a) => .next ((s.putColl k f j).collFault k f j e a)
          | .ok (s', j', bs) =>
            let q := j.nextSend
            let x := { s'.jobFrame f.origin (s'.core core).inc 1 j.nextMember j.group (chunkField j.ordinal q) bs with
                       desc := if q == 0 then j.descriptor else [] }
            let f' := { f with progress := (match s'.foalAt k with | some y => y.progress | none => f.progress) }
            match s'.inject x with
            | none => .next (s'.putColl k f' j')
            | some s'' => .next (s''.putColl k f' { j' with nextSend := q + 1 })
    | .mma _ => .next s
    | .tmma _ => .next s
    | .copy _ => .next s
    | .batch _ => .next s

end Sys2Proof.Machine
end

