-- ==== Sys2Proof/Machine/Scalar.lean ====
section
/-! DEFINITION. Scalar arithmetic (R119-R121), single-lane access (R123), clocks and timers (R124). The special registers
are in Machine/Special registers' own file, Sreg.lean. -/

namespace Sys2Proof.Machine

/-- s[D] := f x y, with x = s[B] and y the value of A (R119). -/
def scalarOp (f : DWord → DWord → DWord) (sw : Bool) (d b : SReg) (a : Src) (s : State) : Out :=
  begin (needS a) s fun h =>
    .next ((s.setSreg h d (f (s.sreg h b) (Src.scalar s h a))).done h (Src.len a) sw)

/-- s[D] := f y. -/
def scalarOp1 (f : DWord → DWord) (sw : Bool) (d : SReg) (a : Src) (s : State) : Out :=
  begin (needS a) s fun h => .next ((s.setSreg h d (f (Src.scalar s h a))).done h (Src.len a) sw)

/-- scc := f x y. -/
def scalarCmp (f : DWord → DWord → Bool) (sw : Bool) (b : SReg) (a : Src) (s : State) : Out :=
  begin (needS a) s fun h =>
    .next ((s.setScc h (f (s.sreg h b) (Src.scalar s h a))).done h (Src.len a) sw)

/-- s[D] := f s[D] imm16 (R121). -/
def immOp (f : DWord → BitVec 16 → DWord) (sw : Bool) (d : SReg) (i : BitVec 16) (s : State) : Out :=
  begin need1 s fun h => .next ((s.setSreg h d (f (s.sreg h d) i)).done h 1 sw)

/-- scc := f s[D] imm16. -/
def immCmp (f : DWord → DWord → Bool) (sw : Bool) (d : SReg) (i : BitVec 16) (s : State) : Out :=
  begin need1 s fun h => .next ((s.setScc h (f (s.sreg h d) (i.signExtend 64))).done h 1 sw)

/-- High half of the signed 128-bit product. -/
def mulHigh (x y : DWord) : DWord := ((x.signExtend 128) * (y.signExtend 128)).extractLsb' 64 64

/-- Leading zeros, the width if none is set. -/
def clzN (w x : Nat) : Nat := if x == 0 then w else w - 1 - x.log2
/-- Trailing zeros, the width if none is set. -/
def ctzN (w x : Nat) : Nat :=
  match (List.range w).filter fun i => x.testBit i with
  | [] => w
  | i :: _ => i
/-- Set bits. -/
def popN (w x : Nat) : Nat := ((List.range w).filter fun i => x.testBit i).length
/-- Bits reversed. -/
def revN (w x : Nat) : Nat := (List.range w).foldl (fun a i => if x.testBit i then a + 2 ^ (w - 1 - i) else a) 0

def signedMin (x y : DWord) : DWord := if x.slt y then x else y
def signedMax (x y : DWord) : DWord := if x.slt y then y else x
def unsignedMin (x y : DWord) : DWord := if x.ult y then x else y

/-- Quotient and remainder of R120, y = 0 included; the signed quotient rounds toward zero. -/
def divSigned (x y : DWord) : DWord := if y == 0#64 then BitVec.allOnes 64 else x.sdiv y
def divUnsigned (x y : DWord) : DWord := if y == 0#64 then BitVec.allOnes 64 else x.udiv y
def remSigned (x y : DWord) : DWord := if y == 0#64 then x else x.srem y
def remUnsigned (x y : DWord) : DWord := if y == 0#64 then x else x.umod y

def execSadd (sw : Bool) (d b : SReg) (a : Src) (s : State) : Out := scalarOp (· + ·) sw d b a s
def execSsub (sw : Bool) (d b : SReg) (a : Src) (s : State) : Out := scalarOp (· - ·) sw d b a s
def execSmul (sw : Bool) (d b : SReg) (a : Src) (s : State) : Out := scalarOp (· * ·) sw d b a s
def execSmulh (sw : Bool) (d b : SReg) (a : Src) (s : State) : Out := scalarOp mulHigh sw d b a s

def execSaddi (sw : Bool) (d : SReg) (i : BitVec 16) (s : State) : Out := immOp (fun x i => x + i.signExtend 64) sw d i s
def execSmovi (sw : Bool) (d : SReg) (i : BitVec 16) (s : State) : Out := immOp (fun _ i => i.signExtend 64) sw d i s
def execSlui (sw : Bool) (d : SReg) (i : BitVec 16) (s : State) : Out :=
  immOp (fun _ i => (i.signExtend 64) <<< 16) sw d i s
def execSori (sw : Bool) (d : SReg) (i : BitVec 16) (s : State) : Out := immOp (fun x i => x ||| i.setWidth 64) sw d i s

def execSand (sw : Bool) (d b : SReg) (a : Src) (s : State) : Out := scalarOp (· &&& ·) sw d b a s
def execSor (sw : Bool) (d b : SReg) (a : Src) (s : State) : Out := scalarOp (· ||| ·) sw d b a s
def execSxor (sw : Bool) (d b : SReg) (a : Src) (s : State) : Out := scalarOp (· ^^^ ·) sw d b a s
def execSandn (sw : Bool) (d b : SReg) (a : Src) (s : State) : Out := scalarOp (fun x y => x &&& ~~~y) sw d b a s

/-- Shifts use y[5:0] (R119). -/
def execSshl (sw : Bool) (d b : SReg) (a : Src) (s : State) : Out := scalarOp (fun x y => x <<< (y.toNat % 64)) sw d b a s
def execSshr (sw : Bool) (d b : SReg) (a : Src) (s : State) : Out := scalarOp (fun x y => x >>> (y.toNat % 64)) sw d b a s
def execSsar (sw : Bool) (d b : SReg) (a : Src) (s : State) : Out :=
  scalarOp (fun x y => x.sshiftRight (y.toNat % 64)) sw d b a s
def execSrot (sw : Bool) (d b : SReg) (a : Src) (s : State) : Out :=
  scalarOp (fun x y => x.rotateLeft (y.toNat % 64)) sw d b a s

def execScmpeq (sw : Bool) (b : SReg) (a : Src) (s : State) : Out := scalarCmp (fun x y => x == y) sw b a s
def execScmplt (sw : Bool) (b : SReg) (a : Src) (s : State) : Out := scalarCmp BitVec.slt sw b a s
def execScmpltn (sw : Bool) (b : SReg) (a : Src) (s : State) : Out := scalarCmp BitVec.ult sw b a s
def execScmple (sw : Bool) (b : SReg) (a : Src) (s : State) : Out := scalarCmp BitVec.sle sw b a s

def execSsel (sw : Bool) (d b : SReg) (a : Src) (s : State) : Out :=
  scalarOp (if (s.ctx s.cur).scc then fun x _ => x else fun _ y => y) sw d b a s
def execSmin (sw : Bool) (d b : SReg) (a : Src) (s : State) : Out := scalarOp signedMin sw d b a s
def execSmax (sw : Bool) (d b : SReg) (a : Src) (s : State) : Out := scalarOp signedMax sw d b a s
def execSminn (sw : Bool) (d b : SReg) (a : Src) (s : State) : Out := scalarOp unsignedMin sw d b a s

def execSpopc (sw : Bool) (d : SReg) (a : Src) (s : State) : Out :=
  scalarOp1 (fun y => BitVec.ofNat 64 (popN 64 y.toNat)) sw d a s
def execSclz (sw : Bool) (d : SReg) (a : Src) (s : State) : Out :=
  scalarOp1 (fun y => BitVec.ofNat 64 (clzN 64 y.toNat)) sw d a s
def execSctz (sw : Bool) (d : SReg) (a : Src) (s : State) : Out :=
  scalarOp1 (fun y => BitVec.ofNat 64 (ctzN 64 y.toNat)) sw d a s
def execSbrev (sw : Bool) (d : SReg) (a : Src) (s : State) : Out :=
  scalarOp1 (fun y => BitVec.ofNat 64 (revN 64 y.toNat)) sw d a s

def execSdiv (sw : Bool) (d b : SReg) (a : Src) (s : State) : Out := scalarOp divSigned sw d b a s
def execSdivn (sw : Bool) (d b : SReg) (a : Src) (s : State) : Out := scalarOp divUnsigned sw d b a s
def execSrem (sw : Bool) (d b : SReg) (a : Src) (s : State) : Out := scalarOp remSigned sw d b a s
def execSremn (sw : Bool) (d b : SReg) (a : Src) (s : State) : Out := scalarOp remUnsigned sw d b a s

def execScmpieq (sw : Bool) (d : SReg) (i : BitVec 16) (s : State) : Out := immCmp (fun x y => x == y) sw d i s
def execScmpilt (sw : Bool) (d : SReg) (i : BitVec 16) (s : State) : Out := immCmp BitVec.slt sw d i s
def execScmpiltn (sw : Bool) (d : SReg) (i : BitVec 16) (s : State) : Out := immCmp BitVec.ult sw d i s

/-! ### Single lanes -/

/-- What SRDLN and SWRLN need: A names a vector register (R123). -/
def needLane (a : Src) : Need :=
  { len := Src.len a, teamOnly := true, level := 0, legal := Src.isVec a, regs := Src.regs a, hold := true }

/-- The vector register of a lane form. -/
def Src.vecReg (a : Src) : Nat := (Src.regs a).headD 0

def execSrdln (sw : Bool) (d b : SReg) (a : Src) (s : State) : Out :=
  begin (needLane a) s fun h =>
    let i := (s.sreg h b).toNat
    let v := if i < (s.team h).width then ((s.vreg h (Src.vecReg a)).lane i).setWidth 64 else 0#64
    .next ((s.setSreg h d v).done h 1 sw)

def execSwrln (sw : Bool) (d b : SReg) (a : Src) (s : State) : Out :=
  begin (needLane a) s fun h =>
    let i := (s.sreg h b).toNat
    let r := Src.vecReg a
    let s' := if i < (s.team h).width then s.setVreg h r ((s.vreg h r).setLane i ((s.sreg h d).setWidth 32)) else s
    .next (s'.done h 1 sw)

/-! ### Clocks and timers -/

def execRclock (sw : Bool) (d : SReg) (s : State) : Out :=
  begin (needT true []) s fun h => .next ((s.setSreg h d (s.team h).rclock).done h 1 sw)

def execRtime (sw : Bool) (d : SReg) (s : State) : Out :=
  begin need1 s fun h => .next ((s.setSreg h d s.time).done h 1 sw)

/-- A deadline at base + A; A = 0 disarms; a sum above 2^64 - 1 is held there and never fires (R124). -/
def deadline (base a : DWord) : Option DWord :=
  if a == 0#64 then none
  else if 2 ^ 64 ≤ base.toNat + a.toNat then some (BitVec.allOnes 64) else some (base + a)

/-- TIMER and TIMERA are team forms whose A is a scalar operand. -/
def needTimer (a : Src) : Need := { needS a with teamOnly := true }

def execTimer (sw : Bool) (a : Src) (s : State) : Out :=
  begin (needTimer a) s fun h =>
    let t := s.team h
    let v := Src.scalar s h a
    .next ((s.setTeam h { t with timer := deadline t.rclock v, timerHeld := decide (2 ^ 64 ≤ t.rclock.toNat + v.toNat) }).done
      h (Src.len a) sw)

def execTimera (sw : Bool) (a : Src) (s : State) : Out :=
  begin (needTimer a) s fun h =>
    .next ((s.setTeam h { s.team h with timera := deadline 0#64 (Src.scalar s h a), late := false }).done h (Src.len a) sw)

end Sys2Proof.Machine
end

