-- ==== Sys2Proof/Machine/Special.lean ====
section
/-! DEFINITION. The special functions of R101 and R102: the exact value, rounded once to FP32. Reciprocals and roots are
computed with an exact sticky bit. The others are enclosed between two dyadic bounds `fxErr` apart at 320 fraction bits;
an input that is not one of the exact cases has an irrational result, so both bounds are inexact, and where both
round alike that is the rounded exact value. -/

namespace Sys2Proof.Machine

/-- Fraction bits of the fixed-point enclosures. -/
def fxP : Nat := 320
def fxOne : Nat := 2 ^ fxP
/-- Bound on the error of every enclosure below, in units of 2^-320. -/
def fxErr : Nat := 2 ^ 40

/-- Product of two fixed-point numbers. -/
def fxMul (a b : Nat) : Nat := a * b / fxOne

/-- Terms x^k/k! from k = `k` up, `fuel` of them, `t` being the term before; summed into `acc`. -/
def fxExpSum : Nat → Nat → Nat → Nat → Nat → Nat
  | 0, _, _, _, acc => acc
  | fuel + 1, x, k, t, acc =>
    let t' := fxMul t x / k
    if t' == 0 then acc else fxExpSum fuel x (k + 1) t' (acc + t')

/-- e^x for x in [0, 2) in fixed point. -/
def fxExp (x : Nat) : Nat := fxExpSum 120 x 1 fxOne fxOne

/-- 2 * artanh(t) = 2 * (t + t^3/3 + ...), for t in [0, 1/3]; `p` is the odd power. -/
def fxAtanhSum : Nat → Nat → Nat → Nat → Nat → Nat
  | 0, _, _, _, acc => acc
  | fuel + 1, t2, p, k, acc =>
    if p == 0 then acc else fxAtanhSum fuel t2 (fxMul p t2) (k + 2) (acc + p / k)

def fxAtanh2 (t : Nat) : Nat := 2 * fxAtanhSum 220 (fxMul t t) t 1 0

/-- ln 2 = 2 artanh(1/3). -/
def fxLn2 : Nat := fxAtanh2 (fxOne / 3)

/-- arctan(1/n) by its alternating series, as an integer. -/
def fxAtanInv : Nat → Nat → Nat → Nat → Bool → Int → Int
  | 0, _, _, _, _, acc => acc
  | fuel + 1, n, p, k, plus, acc =>
    if p == 0 then acc
    else fxAtanInv fuel n (p / (n * n)) (k + 2) (!plus) (if plus then acc + (p / k : Nat) else acc - (p / k : Nat))

/-- pi = 16 arctan(1/5) - 4 arctan(1/239) (Machin). -/
def fxPi : Nat :=
  (16 * fxAtanInv 90 5 (fxOne / 5) 1 true 0 - 4 * fxAtanInv 40 239 (fxOne / 239) 1 true 0).toNat

/-- Alternating Taylor terms of sine: `t` is the last term, x^k/k!, `x2` the square. -/
def fxSinSum : Nat → Nat → Nat → Nat → Bool → Int → Int
  | 0, _, _, _, _, acc => acc
  | fuel + 1, x2, k, t, plus, acc =>
    let t' := fxMul t x2 / ((k + 1) * (k + 2))
    if t' == 0 then acc
    else fxSinSum fuel x2 (k + 2) t' (!plus) (if plus then acc + (t' : Nat) else acc - (t' : Nat))

/-- sin x for x in [0, pi/2] in fixed point. -/
def fxSin (x : Nat) : Nat := (fxSinSum 60 (fxMul x x) 1 x false (x : Int)).toNat

/-- An irrational positive value within `fxErr` of v * 2^(e-320), rounded; where the two ends round differently the result
is the uninterpreted one (no such input is known). -/
def fxRound (fn : Nat) (x : Nat) (neg : Bool) (v : Nat) (e : Int) : FRes :=
  let lo := Fmt.fp32.roundFin .rne neg (2 * (v - fxErr) + 1) (e - fxP - 1)
  let hi := Fmt.fp32.roundFin .rne neg (2 * (v + fxErr) + 1) (e - fxP - 1)
  if lo == hi then lo
  else
    let b := Config.specialTie fn x
    ⟨b.toNat, FFlags.nx⟩

/-- Integer square root by Newton's method from above, `fuel` rounds. -/
def isqrtGo : Nat → Nat → Nat → Nat
  | 0, _, x => x
  | fuel + 1, n, x =>
    let y := (x + n / x) / 2
    if y < x then isqrtGo fuel n y else x

/-- Floor of the square root. -/
def isqrt (n : Nat) : Nat := if n == 0 then 0 else isqrtGo 600 n (2 ^ (n.log2 / 2 + 1))

/-- A quotient or root `q` with a sticky bit below it. -/
def stickyRound (neg : Bool) (q : Nat) (exact : Bool) (e : Int) : FRes :=
  if exact then Fmt.fp32.roundFin .rne neg q e
  else Fmt.fp32.roundFin .rne neg (2 * q + 1) (e - 1)

/-- FP32 constants of R102. -/
def f32Inf (neg : Bool) : Nat := Fmt.fp32.signBit neg + Fmt.fp32.infMag
def f32Zero (neg : Bool) : Nat := Fmt.fp32.signBit neg
def f32One (neg : Bool) : Nat := Fmt.fp32.signBit neg + 0x3F800000
def f32Nan : Nat := Fmt.fp32.nan

def nanRes (sig : Bool) : FRes := ⟨f32Nan, FFlags.cond sig FFlags.nv⟩
def nvRes : FRes := ⟨f32Nan, FFlags.nv⟩

/-- VRCP. -/
def spRcp (x : Nat) : FRes :=
  match Fmt.fp32.value x with
  | .nan s => nanRes s
  | .inf n => ⟨f32Zero n, FFlags.none⟩
  | .fin n m e =>
    if m == 0 then ⟨f32Inf n, FFlags.dz⟩
    else stickyRound n (2 ^ 100 / m) (2 ^ 100 % m == 0) (-e - 100)

/-- VRSQ: 1/√(m 2^e) = √(2^k/m) 2^(-(k+e)/2), with k + e even. -/
def spRsq (x : Nat) : FRes :=
  match Fmt.fp32.value x with
  | .nan s => nanRes s
  | .inf n => if n then nvRes else ⟨f32Zero false, FFlags.none⟩
  | .fin n m e =>
    if m == 0 then ⟨f32Inf n, FFlags.dz⟩
    else if n then nvRes
    else
      let k : Nat := if e % 2 == 0 then 200 else 201
      let q := isqrt (2 ^ k / m)
      stickyRound false q (q * q * m == 2 ^ k) (-((k : Int) + e) / 2)

/-- VSQRT. -/
def spSqrt (x : Nat) : FRes :=
  match Fmt.fp32.value x with
  | .nan s => nanRes s
  | .inf n => if n then nvRes else ⟨f32Inf false, FFlags.none⟩
  | .fin n m e =>
    if m == 0 then ⟨f32Zero n, FFlags.none⟩
    else if n then nvRes
    else
      let k : Nat := if e % 2 == 0 then 100 else 101
      let v := m * 2 ^ k
      let q := isqrt v
      stickyRound false q (q * q == v) ((e - (k : Int)) / 2)

/-- Floor of m * 2^e with a sign, and the fraction above it in fixed point (exact while e ≥ -320). -/
def floorFrac (n : Bool) (m : Nat) (e : Int) : Int × Nat :=
  let v : Int := if e ≥ 0 then ((m <<< e.toNat : Nat) : Int) * fxOne
    else ((m * 2 ^ (fxP - (-e).toNat) : Nat) : Int)
  let v := if n then -v else v
  (v / fxOne, (v % fxOne).toNat)

/-- VEX2. -/
def spEx2 (x : Nat) : FRes :=
  match Fmt.fp32.value x with
  | .nan s => nanRes s
  | .inf n => ⟨if n then f32Zero false else f32Inf false, FFlags.none⟩
  | .fin n m e =>
    if m == 0 then ⟨f32One false, FFlags.none⟩
    else if e + m.log2 ≥ 8 then
      if n then Fmt.fp32.roundFin .rne false 1 (-300)
      else Fmt.fp32.roundFin .rne false 1 300
    else
      let p := floorFrac n m e
      if p.2 == 0 then Fmt.fp32.roundFin .rne false 1 p.1
      else fxRound 2 x false (fxExp (fxMul p.2 fxLn2)) p.1

/-- VLG2: with x = f 2^k and f in [2/3, 4/3), log2 x = k + ln f / ln 2. -/
def spLg2 (x : Nat) : FRes :=
  match Fmt.fp32.value x with
  | .nan s => nanRes s
  | .inf n => if n then nvRes else ⟨f32Inf false, FFlags.none⟩
  | .fin n m e =>
    if m == 0 then ⟨f32Inf true, FFlags.dz⟩
    else if n then nvRes
    else if m == 2 ^ m.log2 then Fmt.fp32.ofInt .rne (e + m.log2)
    else
      let l := m.log2
      let up := 3 * m ≥ 4 * 2 ^ l
      let d := if up then 2 ^ (l + 1) else 2 ^ l
      let k : Int := e + l + (if up then 1 else 0)
      -- artanh argument (m - d)/(m + d), of either sign
      let lt := m < d
      let t := (if lt then d - m else m - d) * fxOne / (m + d)
      let g := fxAtanh2 t * fxOne / fxLn2
      let v : Int := k * fxOne + (if lt then -(g : Int) else (g : Int))
      fxRound 3 x (v < 0) v.natAbs 0

/-- sin(pi * r), r in [0, 1/2] in fixed point, for r not 0 or 1/2. -/
def fxSinPi (r : Nat) : Nat := fxSin (fxMul r fxPi)

/-- sin(pi y) for y in (0, 2) by quadrant, y not a multiple of 1/2, given in fixed point. -/
def sinPiFrac (fn x : Nat) (neg : Bool) (y : Nat) : FRes :=
  let h := fxOne / 2
  let flip := y > fxOne
  let z := if flip then y - fxOne else y
  let r := if z > h then fxOne - z else z
  fxRound fn x (neg != flip) (fxSinPi r) 0

/-- VSINPI. -/
def spSinpi (x : Nat) : FRes :=
  match Fmt.fp32.value x with
  | .nan s => nanRes s
  | .inf _ => nvRes
  | .fin n m e =>
    if m == 0 || e ≥ 0 then ⟨f32Zero n, FFlags.none⟩
    else
      let y := m * 2 ^ (fxP - (-e).toNat) % (2 * fxOne)
      if y % fxOne == 0 then ⟨f32Zero n, FFlags.none⟩
      else if y == fxOne / 2 then ⟨f32One n, FFlags.none⟩
      else if y == fxOne + fxOne / 2 then ⟨f32One (!n), FFlags.none⟩
      else sinPiFrac 4 x n y

/-- VCOSPI: cos(pi x) = sin(pi (x + 1/2)), and cosine is even. -/
def spCospi (x : Nat) : FRes :=
  match Fmt.fp32.value x with
  | .nan s => nanRes s
  | .inf _ => nvRes
  | .fin _ m e =>
    let y0 := if e ≥ 0 then (if e == 0 then m % 2 else 0) * fxOne
      else m * 2 ^ (fxP - (-e).toNat)
    let y := y0 % (2 * fxOne)
    if y == 0 then ⟨f32One false, FFlags.none⟩
    else if y == fxOne then ⟨f32One true, FFlags.none⟩
    else if y % fxOne == fxOne / 2 then ⟨f32Zero false, FFlags.none⟩
    else sinPiFrac 5 x false ((y + fxOne / 2) % (2 * fxOne))

/-- VTANH: (E - 1)/(E + 1) with E = e^(2|x|) = 2^(2|x|/ln 2); from 16 up the result lies within half an ulp of 1. -/
def spTanh (x : Nat) : FRes :=
  match Fmt.fp32.value x with
  | .nan s => nanRes s
  | .inf n => ⟨f32One n, FFlags.none⟩
  | .fin n m e =>
    if m == 0 then ⟨f32Zero n, FFlags.none⟩
    else if e + m.log2 ≥ 4 then ⟨f32One n, FFlags.nx⟩
    else
      let a := if e ≥ 0 then (m <<< e.toNat) * fxOne else m * 2 ^ (fxP - (-e).toNat)
      -- e^(-2|x|) = 2^-k * e^-r, from e^r with r in [0, ln 2)
      let y := 2 * a
      let k := y / fxLn2
      let d := 2 ^ k * fxExp (y - k * fxLn2)
      fxRound 7 x n ((d - fxOne) * fxOne / (d + fxOne)) 0

end Sys2Proof.Machine
end

