-- ==== Sys2Proof/Machine/Vector.lean ====
section
/-! DEFINITION. Vector instructions lane by lane: integer, bitwise, comparison, moves, floating point, conversions, special
functions, packing and hashing (R127-R149). -/

namespace Sys2Proof.Machine

/-- Element k of a packed word (R72). -/
def half (w : Word) (k : Nat) : Half := w.extractLsb' (16 * k) 16
def byteOf (w : Word) (k : Nat) : Byte := w.extractLsb' (8 * k) 8

/-- An x2 form, element by element. -/
def map16 (f : Half → Half → Half → Half) (b a d : Word) : Word :=
  f (half b 1) (half a 1) (half d 1) ++ f (half b 0) (half a 0) (half d 0)

/-- An x4 form, element by element. -/
def map8 (f : Byte → Byte → Byte) (b a : Word) : Word :=
  f (byteOf b 3) (byteOf a 3) ++ f (byteOf b 2) (byteOf a 2) ++ f (byteOf b 1) (byteOf a 1) ++ f (byteOf b 0) (byteOf a 0)

/-- Writes one result word per active lane (R55, R127). -/
def State.putLanes (s : State) (h : Nat) (d : VReg) (f : Nat → Word) : State :=
  s.setVreg h d.toNat ((s.vreg h d.toNat).setLanes (s.team h).active f)

/-- ORs flags into FLAGS (R88). -/
def State.addFlags (s : State) (h : Nat) (f : FFlags) : State :=
  s.setTeam h { s.team h with flags := (s.team h).flags ||| f }

/-- D := f B A D in every active lane, for a form that sets no flag. -/
def vecOp (f : Word → Word → Word → Word) (sw : Bool) (d b : VReg) (a : Src) (s : State) : Out :=
  begin (needV [d.toNat, b.toNat] a) s fun h =>
    .next ((s.putLanes h d fun i =>
      f ((s.vreg h b.toNat).lane i) (Src.lane s h .f32 i a) ((s.vreg h d.toNat).lane i)).done h (Src.len a) sw)

/-- D := f A in every active lane, for a form that sets no flag. -/
def vecOp1 (f : Word → Word) (sw : Bool) (d : VReg) (a : Src) (s : State) : Out :=
  begin (needV [d.toNat] a) s fun h =>
    .next ((s.putLanes h d fun i => f (Src.lane s h .f32 i a)).done h (Src.len a) sw)

/-- D := f B A D with the flags of every active lane merged (R88). -/
def vecFop (e : Elem) (f : Word → Word → Word → Word × FFlags) (sw : Bool) (d b : VReg) (a : Src) (s : State) : Out :=
  begin (needV [d.toNat, b.toNat] a) s fun h =>
    let g := fun i => f ((s.vreg h b.toNat).lane i) (Src.lane s h e i a) ((s.vreg h d.toNat).lane i)
    .next (((s.putLanes h d fun i => (g i).1).addFlags h
      (FFlags.merge ((s.team h).active.map fun i => (g i).2))).done h (Src.len a) sw)

/-- D := f A with the flags of every active lane merged. -/
def vecFop1 (e : Elem) (f : Word → Word × FFlags) (sw : Bool) (d : VReg) (a : Src) (s : State) : Out :=
  begin (needV [d.toNat] a) s fun h =>
    let g := fun i => f (Src.lane s h e i a)
    .next (((s.putLanes h d fun i => (g i).1).addFlags h
      (FFlags.merge ((s.team h).active.map fun i => (g i).2))).done h (Src.len a) sw)

/-- A comparison into lm[l], active lanes only, with its flags (R61, R136, R141). -/
def vecCmp (e : Elem) (f : Word → Word → Bool × FFlags) (sw : Bool) (l : BitVec 3) (b : VReg) (a : Src) (s : State) : Out :=
  begin (needV [b.toNat] a) s fun h =>
    let t := s.team h
    let g := fun i => f ((s.vreg h b.toNat).lane i) (Src.lane s h e i a)
    let t' := t.putLm l.toNat (maskOf (t.active.filter fun i => (g i).1))
    .next (((s.setTeam h t').addFlags h (FFlags.merge (t.active.map fun i => (g i).2))).done h (Src.len a) sw)

/-! ### Integer arithmetic -/

/-- The nearer bound of [lo, hi]. -/
def clampInt (lo hi v : Int) : Int := if v < lo then lo else if hi < v then hi else v
def satS32 (v : Int) : Word := BitVec.ofInt 32 (clampInt (-2147483648) 2147483647 v)
def satS16 (v : Int) : Half := BitVec.ofInt 16 (clampInt (-32768) 32767 v)

def execViaddI32 (sw : Bool) (d b : VReg) (a : Src) (s : State) : Out := vecOp (fun b a _ => b + a) sw d b a s
def execViaddI16x2 (sw : Bool) (d b : VReg) (a : Src) (s : State) : Out :=
  vecOp (fun b a d => map16 (fun x y _ => x + y) b a d) sw d b a s
def execViaddI8x4 (sw : Bool) (d b : VReg) (a : Src) (s : State) : Out :=
  vecOp (fun b a _ => map8 (· + ·) b a) sw d b a s
def execViaddS32sat (sw : Bool) (d b : VReg) (a : Src) (s : State) : Out :=
  vecOp (fun b a _ => satS32 (b.toInt + a.toInt)) sw d b a s
def execVisubI32 (sw : Bool) (d b : VReg) (a : Src) (s : State) : Out := vecOp (fun b a _ => b - a) sw d b a s
def execVisubI16x2 (sw : Bool) (d b : VReg) (a : Src) (s : State) : Out :=
  vecOp (fun b a d => map16 (fun x y _ => x - y) b a d) sw d b a s
def execVisubI8x4 (sw : Bool) (d b : VReg) (a : Src) (s : State) : Out :=
  vecOp (fun b a _ => map8 (· - ·) b a) sw d b a s
def execVisubS32sat (sw : Bool) (d b : VReg) (a : Src) (s : State) : Out :=
  vecOp (fun b a _ => satS32 (b.toInt - a.toInt)) sw d b a s

def execVimulLo (sw : Bool) (d b : VReg) (a : Src) (s : State) : Out := vecOp (fun b a _ => b * a) sw d b a s
def execVimulHs (sw : Bool) (d b : VReg) (a : Src) (s : State) : Out :=
  vecOp (fun b a _ => ((b.signExtend 64) * (a.signExtend 64)).extractLsb' 32 32) sw d b a s
def execVimulHn (sw : Bool) (d b : VReg) (a : Src) (s : State) : Out :=
  vecOp (fun b a _ => ((b.setWidth 64) * (a.setWidth 64)).extractLsb' 32 32) sw d b a s
def execVimulI16x2 (sw : Bool) (d b : VReg) (a : Src) (s : State) : Out :=
  vecOp (fun b a d => map16 (fun x y _ => x * y) b a d) sw d b a s

/-- Sum of the four byte products, signed or unsigned, exact (R132). -/
def dot4 (val : Byte → Int) (b a : Word) : Int :=
  (List.range 4).foldl (fun t k => t + val (byteOf b k) * val (byteOf a k)) 0

def execVimadI32 (sw : Bool) (d b : VReg) (a : Src) (s : State) : Out := vecOp (fun b a d => d + b * a) sw d b a s
def execVimadI16x2 (sw : Bool) (d b : VReg) (a : Src) (s : State) : Out :=
  vecOp (fun b a d => map16 (fun x y z => z + x * y) b a d) sw d b a s
def execVimadDot4s8 (sw : Bool) (d b : VReg) (a : Src) (s : State) : Out :=
  vecOp (fun b a d => BitVec.ofInt 32 (d.toInt + dot4 BitVec.toInt b a)) sw d b a s
def execVimadDot4n8 (sw : Bool) (d b : VReg) (a : Src) (s : State) : Out :=
  vecOp (fun b a d => BitVec.ofInt 32 (d.toInt + dot4 (fun x => (x.toNat : Int)) b a)) sw d b a s

/-! ### Bitwise and shifts -/

def execVlogAnd (sw : Bool) (d b : VReg) (a : Src) (s : State) : Out := vecOp (fun b a _ => b &&& a) sw d b a s
def execVlogOr (sw : Bool) (d b : VReg) (a : Src) (s : State) : Out := vecOp (fun b a _ => b ||| a) sw d b a s
def execVlogXor (sw : Bool) (d b : VReg) (a : Src) (s : State) : Out := vecOp (fun b a _ => b ^^^ a) sw d b a s
def execVlogAndn (sw : Bool) (d b : VReg) (a : Src) (s : State) : Out := vecOp (fun b a _ => b &&& ~~~a) sw d b a s

def execVshfShl (sw : Bool) (d b : VReg) (a : Src) (s : State) : Out :=
  vecOp (fun b a _ => b <<< (a.toNat % 32)) sw d b a s
def execVshfShr (sw : Bool) (d b : VReg) (a : Src) (s : State) : Out :=
  vecOp (fun b a _ => b >>> (a.toNat % 32)) sw d b a s
def execVshfSar (sw : Bool) (d b : VReg) (a : Src) (s : State) : Out :=
  vecOp (fun b a _ => b.sshiftRight (a.toNat % 32)) sw d b a s
def execVshfRot (sw : Bool) (d b : VReg) (a : Src) (s : State) : Out :=
  vecOp (fun b a _ => b.rotateLeft (a.toNat % 32)) sw d b a s

/-- VSHFI: B shifted by its immediate (R133). -/
def shiftImm (f : Word → Nat → Word) (sw : Bool) (d b : VReg) (i : BitVec 8) (s : State) : Out :=
  begin (needT true [d.toNat, b.toNat]) s fun h =>
    .next ((s.putLanes h d fun k => f ((s.vreg h b.toNat).lane k) i.toNat).done h 1 sw)

def execVshfiShl (sw : Bool) (d b : VReg) (i : BitVec 8) (s : State) : Out := shiftImm (fun b c => b <<< c) sw d b i s
def execVshfiShr (sw : Bool) (d b : VReg) (i : BitVec 8) (s : State) : Out := shiftImm (fun b c => b >>> c) sw d b i s
def execVshfiSar (sw : Bool) (d b : VReg) (i : BitVec 8) (s : State) : Out := shiftImm BitVec.sshiftRight sw d b i s
def execVshfiRot (sw : Bool) (d b : VReg) (i : BitVec 8) (s : State) : Out := shiftImm BitVec.rotateLeft sw d b i s

def execViminS32min (sw : Bool) (d b : VReg) (a : Src) (s : State) : Out :=
  vecOp (fun b a _ => if a.slt b then a else b) sw d b a s
def execViminN32min (sw : Bool) (d b : VReg) (a : Src) (s : State) : Out :=
  vecOp (fun b a _ => if a.ult b then a else b) sw d b a s
def execViminS32max (sw : Bool) (d b : VReg) (a : Src) (s : State) : Out :=
  vecOp (fun b a _ => if b.slt a then a else b) sw d b a s
def execViminN32max (sw : Bool) (d b : VReg) (a : Src) (s : State) : Out :=
  vecOp (fun b a _ => if b.ult a then a else b) sw d b a s

def execVbitPopc (sw : Bool) (d : VReg) (a : Src) (s : State) : Out :=
  vecOp1 (fun a => BitVec.ofNat 32 (popN 32 a.toNat)) sw d a s
def execVbitClz (sw : Bool) (d : VReg) (a : Src) (s : State) : Out :=
  vecOp1 (fun a => BitVec.ofNat 32 (clzN 32 a.toNat)) sw d a s
def execVbitBrev (sw : Bool) (d : VReg) (a : Src) (s : State) : Out :=
  vecOp1 (fun a => BitVec.ofNat 32 (revN 32 a.toNat)) sw d a s
def execVbitFfs (sw : Bool) (d : VReg) (a : Src) (s : State) : Out :=
  vecOp1 (fun a => if a == 0#32 then BitVec.allOnes 32 else BitVec.ofNat 32 (ctzN 32 a.toNat)) sw d a s

/-! ### Comparison, selection, moves -/

/-- B cond A over an order (R136); ORD and UNO have no integer meaning and are refused at decode. -/
def intCmp (lt : Word → Word → Bool) (c : Cmp) (b a : Word) : Bool × FFlags :=
  (match c with
    | .eq => b == a
    | .ne => b != a
    | .lt => lt b a
    | .le => !lt a b
    | .gt => lt a b
    | .ge => !lt b a
    | .ord => false
    | .uno => false, FFlags.none)

def execVicmpS32 (sw : Bool) (l : BitVec 3) (c : Cmp) (b : VReg) (a : Src) (s : State) : Out :=
  vecCmp .f32 (intCmp BitVec.slt c) sw l b a s
def execVicmpN32 (sw : Bool) (l : BitVec 3) (c : Cmp) (b : VReg) (a : Src) (s : State) : Out :=
  vecCmp .f32 (intCmp BitVec.ult c) sw l b a s

/-- D := bit i of lm[k] ? A : B (R137). -/
def selOp (k : Nat) (sw : Bool) (d b : VReg) (a : Src) (s : State) : Out :=
  begin (needV [d.toNat, b.toNat] a) s fun h =>
    .next ((s.putLanes h d fun i =>
      if ((s.team h).lmk k).getLsbD i then Src.lane s h .f32 i a else (s.vreg h b.toNat).lane i).done h (Src.len a) sw)

def execVselLm0 (sw : Bool) (d b : VReg) (a : Src) (s : State) : Out := selOp 0 sw d b a s
def execVselLm1 (sw : Bool) (d b : VReg) (a : Src) (s : State) : Out := selOp 1 sw d b a s
def execVselLm2 (sw : Bool) (d b : VReg) (a : Src) (s : State) : Out := selOp 2 sw d b a s
def execVselLm3 (sw : Bool) (d b : VReg) (a : Src) (s : State) : Out := selOp 3 sw d b a s

def execVmov (sw : Bool) (d : VReg) (a : Src) (s : State) : Out := vecOp1 (fun a => a) sw d a s
def execVsx16 (sw : Bool) (d : VReg) (a : Src) (s : State) : Out := vecOp1 (fun a => (half a 0).signExtend 32) sw d a s
def execVsx8 (sw : Bool) (d : VReg) (a : Src) (s : State) : Out := vecOp1 (fun a => (byteOf a 0).signExtend 32) sw d a s
def execVzx16 (sw : Bool) (d : VReg) (a : Src) (s : State) : Out := vecOp1 (fun a => (half a 0).setWidth 32) sw d a s

/-! ### Floating-point arithmetic -/

/-- One FP32 element. -/
def f32el (f : Nat → Nat → Nat → FRes) (b a d : Word) : Word × FFlags :=
  let r := f b.toNat a.toNat d.toNat
  (BitVec.ofNat 32 r.bits, r.flags)

/-- Two 16-bit elements. -/
def f16el (f : Nat → Nat → Nat → FRes) (b a d : Word) : Word × FFlags :=
  let r0 := f (half b 0).toNat (half a 0).toNat (half d 0).toNat
  let r1 := f (half b 1).toNat (half a 1).toNat (half d 1).toNat
  ((BitVec.ofNat 16 r1.bits) ++ (BitVec.ofNat 16 r0.bits), r0.flags ||| r1.flags)

def execVfaddF32 (sw : Bool) (d b : VReg) (a : Src) (s : State) : Out :=
  vecFop .f32 (f32el fun b a _ => Fmt.fp32.add b a) sw d b a s
def execVfaddF16x2 (sw : Bool) (d b : VReg) (a : Src) (s : State) : Out :=
  vecFop .f16 (f16el fun b a _ => Fmt.fp16.add b a) sw d b a s
def execVfaddBf16x2 (sw : Bool) (d b : VReg) (a : Src) (s : State) : Out :=
  vecFop .bf16 (f16el fun b a _ => Fmt.bf16.add b a) sw d b a s
def execVfsubF32 (sw : Bool) (d b : VReg) (a : Src) (s : State) : Out :=
  vecFop .f32 (f32el fun b a _ => Fmt.fp32.sub b a) sw d b a s
def execVfsubF16x2 (sw : Bool) (d b : VReg) (a : Src) (s : State) : Out :=
  vecFop .f16 (f16el fun b a _ => Fmt.fp16.sub b a) sw d b a s
def execVfsubBf16x2 (sw : Bool) (d b : VReg) (a : Src) (s : State) : Out :=
  vecFop .bf16 (f16el fun b a _ => Fmt.bf16.sub b a) sw d b a s
def execVfmulF32 (sw : Bool) (d b : VReg) (a : Src) (s : State) : Out :=
  vecFop .f32 (f32el fun b a _ => Fmt.fp32.mul b a) sw d b a s
def execVfmulF16x2 (sw : Bool) (d b : VReg) (a : Src) (s : State) : Out :=
  vecFop .f16 (f16el fun b a _ => Fmt.fp16.mul b a) sw d b a s
def execVfmulBf16x2 (sw : Bool) (d b : VReg) (a : Src) (s : State) : Out :=
  vecFop .bf16 (f16el fun b a _ => Fmt.bf16.mul b a) sw d b a s
def execVfmaF32 (sw : Bool) (d b : VReg) (a : Src) (s : State) : Out :=
  vecFop .f32 (f32el fun b a d => Fmt.fp32.fma a b d) sw d b a s
def execVfmaF16x2 (sw : Bool) (d b : VReg) (a : Src) (s : State) : Out :=
  vecFop .f16 (f16el fun b a d => Fmt.fp16.fma a b d) sw d b a s
def execVfmaBf16x2 (sw : Bool) (d b : VReg) (a : Src) (s : State) : Out :=
  vecFop .bf16 (f16el fun b a d => Fmt.bf16.fma a b d) sw d b a s

def execVfminF32 (sw : Bool) (d b : VReg) (a : Src) (s : State) : Out :=
  vecFop .f32 (f32el fun b a _ => Fmt.fp32.minMax false b a) sw d b a s
def execVfmaxF32 (sw : Bool) (d b : VReg) (a : Src) (s : State) : Out :=
  vecFop .f32 (f32el fun b a _ => Fmt.fp32.minMax true b a) sw d b a s
def execVfminF16x2 (sw : Bool) (d b : VReg) (a : Src) (s : State) : Out :=
  vecFop .f16 (f16el fun b a _ => Fmt.fp16.minMax false b a) sw d b a s
def execVfmaxF16x2 (sw : Bool) (d b : VReg) (a : Src) (s : State) : Out :=
  vecFop .f16 (f16el fun b a _ => Fmt.fp16.minMax true b a) sw d b a s

def execVfcmpF32 (sw : Bool) (l : BitVec 3) (c : Cmp) (b : VReg) (a : Src) (s : State) : Out :=
  vecCmp .f32 (fun b a => Fmt.fp32.cmp c b.toNat a.toNat) sw l b a s
def execVfcmpF16 (sw : Bool) (l : BitVec 3) (c : Cmp) (b : VReg) (a : Src) (s : State) : Out :=
  vecCmp .f16 (fun b a => Fmt.fp16.cmp c (half b 0).toNat (half a 0).toNat) sw l b a s
def execVfcmpBf16 (sw : Bool) (l : BitVec 3) (c : Cmp) (b : VReg) (a : Src) (s : State) : Out :=
  vecCmp .bf16 (fun b a => Fmt.bf16.cmp c (half b 0).toNat (half a 0).toNat) sw l b a s

/-- D plus the n element products, rounded once to FP32 (R142). -/
def dotWord (f : Fmt) (n w : Nat) (b a d : Word) : Word × FFlags :=
  let r := dotAdd f .fp32 d.toNat ((List.range n).map fun k =>
    (b.toNat / 2 ^ (w * k) % 2 ^ w, a.toNat / 2 ^ (w * k) % 2 ^ w))
  (BitVec.ofNat 32 r.bits, r.flags)

def execVfdotDot2bf16 (sw : Bool) (d b : VReg) (a : Src) (s : State) : Out :=
  vecFop .bf16 (dotWord .bf16 2 16) sw d b a s
def execVfdotDot2f16 (sw : Bool) (d b : VReg) (a : Src) (s : State) : Out :=
  vecFop .f16 (dotWord .fp16 2 16) sw d b a s
def execVfdotDot4f8e4 (sw : Bool) (d b : VReg) (a : Src) (s : State) : Out :=
  vecFop .f8e4 (dotWord .f8e4 4 8) sw d b a s
def execVfdotDot4f8e5 (sw : Bool) (d b : VReg) (a : Src) (s : State) : Out :=
  vecFop .f8e5 (dotWord .f8e5 4 8) sw d b a s

/-! ### Conversions -/

/-- A conversion between formats whose codes are `ws` and `wd` bits wide; the rest of the source is ignored and of the
result zero. -/
def cvtFF (src dst : Fmt) (k : RMode) (a : Word) : Word × FFlags :=
  let r := src.convert dst k (a.toNat % 2 ^ (src.mag + 1))
  (BitVec.ofNat 32 r.bits, r.flags)

/-- VFCVT by its code (R143). -/
def convert (c : Conv) (k : RMode) (a : Word) : Word × FFlags :=
  match c with
  | .f32F16 => cvtFF .fp16 .fp32 k a
  | .f32Bf16 => cvtFF .bf16 .fp32 k a
  | .f32F8e4 => cvtFF .f8e4 .fp32 k a
  | .f32F8e5 => cvtFF .f8e5 .fp32 k a
  | .f32S32 => let r := Fmt.fp32.ofInt k a.toInt; (BitVec.ofNat 32 r.bits, r.flags)
  | .f32N32 => let r := Fmt.fp32.ofInt k a.toNat; (BitVec.ofNat 32 r.bits, r.flags)
  | .f16F32 => cvtFF .fp32 .fp16 k a
  | .bf16F32 => cvtFF .fp32 .bf16 k a
  | .f8e4F32 => cvtFF .fp32 .f8e4 k a
  | .f8e5F32 => cvtFF .fp32 .f8e5 k a
  | .s32F32 => let r := Fmt.fp32.toInt k (-2147483648) 2147483647 a.toNat; (BitVec.ofInt 32 r.1, r.2)
  | .n32F32 => let r := Fmt.fp32.toInt k 0 4294967295 a.toNat; (BitVec.ofInt 32 r.1, r.2)
  | .f8e4F16 => cvtFF .fp16 .f8e4 k a
  | .f8e5F16 => cvtFF .fp16 .f8e5 k a
  | .f8e4Bf16 => cvtFF .bf16 .f8e4 k a
  | .f8e5Bf16 => cvtFF .bf16 .f8e5 k a
  | .f16Bf16 => cvtFF .bf16 .fp16 k a
  | .bf16F16 => cvtFF .fp16 .bf16 k a

/-- Element type of a conversion's source, for an FP constant in A (R31). -/
def convElem : Conv → Elem
  | .f32F16 => .f16 | .f32Bf16 => .bf16 | .f32F8e4 => .f8e4 | .f32F8e5 => .f8e5 | .f32S32 => .f32 | .f32N32 => .f32
  | .f16F32 => .f32 | .bf16F32 => .f32 | .f8e4F32 => .f32 | .f8e5F32 => .f32 | .s32F32 => .f32 | .n32F32 => .f32
  | .f8e4F16 => .f16 | .f8e5F16 => .f16 | .f8e4Bf16 => .bf16 | .f8e5Bf16 => .bf16 | .f16Bf16 => .bf16 | .bf16F16 => .f16

def execVfcvtRne (sw : Bool) (d : VReg) (k : Conv) (a : Src) (s : State) : Out :=
  vecFop1 (convElem k) (convert k .rne) sw d a s
def execVfcvtRtz (sw : Bool) (d : VReg) (k : Conv) (a : Src) (s : State) : Out :=
  vecFop1 (convElem k) (convert k .rtz) sw d a s
def execVfcvtDn (sw : Bool) (d : VReg) (k : Conv) (a : Src) (s : State) : Out :=
  vecFop1 (convElem k) (convert k .dn) sw d a s
def execVfcvtUp (sw : Bool) (d : VReg) (k : Conv) (a : Src) (s : State) : Out :=
  vecFop1 (convElem k) (convert k .up) sw d a s

/-- A function of one FP32 word. -/
def fun32 (f : Nat → FRes) (a : Word) : Word × FFlags :=
  let r := f a.toNat
  (BitVec.ofNat 32 r.bits, r.flags)

def execVfrndRne (sw : Bool) (d : VReg) (a : Src) (s : State) : Out :=
  vecFop1 .f32 (fun32 (Fmt.fp32.toIntegral .rne)) sw d a s
def execVfrndRtz (sw : Bool) (d : VReg) (a : Src) (s : State) : Out :=
  vecFop1 .f32 (fun32 (Fmt.fp32.toIntegral .rtz)) sw d a s
def execVfrndFloor (sw : Bool) (d : VReg) (a : Src) (s : State) : Out :=
  vecFop1 .f32 (fun32 (Fmt.fp32.toIntegral .dn)) sw d a s
def execVfrndCeil (sw : Bool) (d : VReg) (a : Src) (s : State) : Out :=
  vecFop1 .f32 (fun32 (Fmt.fp32.toIntegral .up)) sw d a s

def execVrcp (sw : Bool) (d : VReg) (a : Src) (s : State) : Out := vecFop1 .f32 (fun32 spRcp) sw d a s
def execVrsq (sw : Bool) (d : VReg) (a : Src) (s : State) : Out := vecFop1 .f32 (fun32 spRsq) sw d a s
def execVex2 (sw : Bool) (d : VReg) (a : Src) (s : State) : Out := vecFop1 .f32 (fun32 spEx2) sw d a s
def execVlg2 (sw : Bool) (d : VReg) (a : Src) (s : State) : Out := vecFop1 .f32 (fun32 spLg2) sw d a s
def execVsinpi (sw : Bool) (d : VReg) (a : Src) (s : State) : Out := vecFop1 .f32 (fun32 spSinpi) sw d a s
def execVcospi (sw : Bool) (d : VReg) (a : Src) (s : State) : Out := vecFop1 .f32 (fun32 spCospi) sw d a s
def execVsqrt (sw : Bool) (d : VReg) (a : Src) (s : State) : Out := vecFop1 .f32 (fun32 spSqrt) sw d a s
def execVtanh (sw : Bool) (d : VReg) (a : Src) (s : State) : Out := vecFop1 .f32 (fun32 spTanh) sw d a s

/-! ### Packed, value-index and hash -/

def execVmaxiMax (sw : Bool) (d b : VReg) (a : Src) (s : State) : Out :=
  vecOp (fun b a _ => BitVec.ofNat 32 (viPick true b.toNat a.toNat)) sw d b a s
def execVmaxiMin (sw : Bool) (d b : VReg) (a : Src) (s : State) : Out :=
  vecOp (fun b a _ => BitVec.ofNat 32 (viPick false b.toNat a.toNat)) sw d b a s

/-- Two FP32 words rounded into the halves of a word (R147). -/
def packF (f : Fmt) (b a _d : Word) : Word × FFlags :=
  let r0 := Fmt.fp32.convert f .rne b.toNat
  let r1 := Fmt.fp32.convert f .rne a.toNat
  ((BitVec.ofNat 16 r1.bits) ++ (BitVec.ofNat 16 r0.bits), r0.flags ||| r1.flags)

def execVpackF16x2 (sw : Bool) (d b : VReg) (a : Src) (s : State) : Out := vecFop .f32 (packF .fp16) sw d b a s
def execVpackBf16x2 (sw : Bool) (d b : VReg) (a : Src) (s : State) : Out := vecFop .f32 (packF .bf16) sw d b a s
def execVpackS16x2sat (sw : Bool) (d b : VReg) (a : Src) (s : State) : Out :=
  vecOp (fun b a _ => satS16 a.toInt ++ satS16 b.toInt) sw d b a s

/-- INT4 element j of a word (R89). -/
def int4 (w : Word) (j : Nat) : Int := (w.extractLsb' (4 * j) 4).toInt

/-- Two INT4 elements as exact BF16 values (R148). -/
def expand4 (p : Nat) (a : Word) : Word :=
  (BitVec.ofNat 16 (Fmt.bf16.ofInt .rne (int4 a (2 * p + 1))).bits) ++
    (BitVec.ofNat 16 (Fmt.bf16.ofInt .rne (int4 a (2 * p))).bits)

def execVexpd (sw : Bool) (d : VReg) (p : BitVec 2) (a : Src) (s : State) : Out :=
  vecOp1 (expand4 p.toNat) sw d a s

/-- One bit step of the reflected CRC-32C (R149). -/
def crcBit (c : Word) : Word := (c >>> 1) ^^^ (if c.getLsbD 0 then 0x82F63B78#32 else 0#32)
def crcByte (c : Word) (x : Byte) : Word := (List.range 8).foldl (fun c _ => crcBit c) (c ^^^ x.setWidth 32)
def crc32c (b a : Word) : Word := (List.range 4).foldl (fun c k => crcByte c (byteOf a k)) b

/-- R149. -/
def mix32 (b a : Word) : Word :=
  let x := b ^^^ a
  let x := (x ^^^ (x >>> 16)) * 0x8A5CD789#32
  let x := (x ^^^ (x >>> 15)) * 0x6B2F4E1D#32
  x ^^^ (x >>> 16)

def execVhashCrc32c (sw : Bool) (d b : VReg) (a : Src) (s : State) : Out := vecOp (fun b a _ => crc32c b a) sw d b a s
def execVhashMix32 (sw : Bool) (d b : VReg) (a : Src) (s : State) : Out := vecOp (fun b a _ => mix32 b a) sw d b a s

end Sys2Proof.Machine
end

