-- ==== Sys2Proof/Machine/CrossLane.lean ====
section
/-! DEFINITION. Cross-lane instructions: shuffles, reductions, scans, ballots (R150-R153) in the fixed orders of
R94, R95 and R99. -/

namespace Sys2Proof.Machine

/-- D := B of the lane that `src i k` names, k = A[4:0] (R150). -/
def shuffleOp (src : Nat → Nat → Nat) (sw : Bool) (d b : VReg) (a : Src) (s : State) : Out :=
  begin (needV [d.toNat, b.toNat] a) s fun h =>
    .next ((s.putLanes h d fun i =>
      (s.vreg h b.toNat).lane (src i ((Src.lane s h .f32 i a).toNat % 32))).done h (Src.len a) sw)

def execVshflIdx (sw : Bool) (d b : VReg) (a : Src) (s : State) : Out :=
  shuffleOp (fun i k => 32 * (i / 32) + k) sw d b a s
def execVshflXor (sw : Bool) (d b : VReg) (a : Src) (s : State) : Out :=
  shuffleOp (fun i k => 32 * (i / 32) + (i % 32) ^^^ k) sw d b a s
def execVshflUp (sw : Bool) (d b : VReg) (a : Src) (s : State) : Out :=
  shuffleOp (fun i k => if k ≤ i % 32 then i - k else i) sw d b a s
def execVshflDown (sw : Bool) (d b : VReg) (a : Src) (s : State) : Out :=
  shuffleOp (fun i k => if i % 32 + k ≤ 31 then i + k else i) sw d b a s

/-! ### Reductions -/

/-- −0.0. -/
def negZero32 : Nat := 0x80000000

/-- One level of the pairwise tree of R94. -/
def pairSums : List Nat → List Nat × FFlags
  | x :: y :: r =>
    let z := Fmt.fp32.add x y
    let t := pairSums r
    (z.bits :: t.1, z.flags ||| t.2)
  | [x] => ([x], FFlags.none)
  | [] => ([], FFlags.none)

/-- The levels of the tree, `fuel` of them at most. -/
def treeSum : Nat → List Nat → Nat × FFlags
  | 0, xs => (xs.headD negZero32, FFlags.none)
  | fuel + 1, xs =>
    match xs with
    | [] => (negZero32, FFlags.none)
    | [x] => (x, FFlags.none)
    | x :: y :: r =>
      let p := pairSums (x :: y :: r)
      let q := treeSum fuel p.1
      (q.1, p.2 ||| q.2)

/-- The smallest power of two at or above w. -/
def pow2AtLeast (w : Nat) : Nat := if w ≤ 1 then 1 else 2 ^ ((w - 1).log2 + 1)

/-- Values a team's lanes contribute: the active lanes' own, the identity for the others (R94, R95, R152). -/
def State.laneVals (s : State) (h : Nat) (e : Elem) (a : Src) (id : Nat) (n : Nat) : List Nat :=
  let t := s.team h
  (List.range n).map fun i => if i < t.width && t.exec.getLsbD i then (Src.lane s h e i a).toNat else id

/-- A reduction's result word and flags (R151). -/
def reduceF32Add (s : State) (h : Nat) (a : Src) : Nat × FFlags :=
  let n := pow2AtLeast (s.team h).width
  treeSum n.log2 (s.laneVals h .f32 a negZero32 n)

/-- The active lanes' words. -/
def State.activeVals (s : State) (h : Nat) (a : Src) : List Word := (s.team h).active.map fun i => Src.lane s h .f32 i a

/-- MAX or MIN of FP32 words: the VFMAX and VFMIN rules from the canonical NaN, which is the result of no active lane. -/
def reduceF32MinMax (max : Bool) (vs : List Word) : Nat × FFlags :=
  vs.foldl (fun r v =>
    let z := Fmt.fp32.minMax max r.1 v.toNat
    (z.bits, r.2 ||| z.flags)) (f32Nan, FFlags.none)

/-- VRED by TYPE: the word, whether it is sign-extended, and its flags (R151). -/
def redAdd (t : RedType) (s : State) (h : Nat) (a : Src) : DWord × FFlags :=
  match t with
  | .s32 => (((s.activeVals h a).foldl (· + ·) 0#32).signExtend 64, FFlags.none)
  | .n32 => (((s.activeVals h a).foldl (· + ·) 0#32).setWidth 64, FFlags.none)
  | .f32 => let r := reduceF32Add s h a; (BitVec.ofNat 64 r.1, r.2)
  | .vi => (0#64, FFlags.none)

def redMax (t : RedType) (s : State) (h : Nat) (a : Src) : DWord × FFlags :=
  match t with
  | .s32 => (((s.activeVals h a).foldl (fun x y => if x.slt y then y else x) 0x80000000#32).signExtend 64, FFlags.none)
  | .n32 => (((s.activeVals h a).foldl (fun x y => if x.ult y then y else x) 0#32).setWidth 64, FFlags.none)
  | .f32 => let r := reduceF32MinMax true (s.activeVals h a); (BitVec.ofNat 64 r.1, r.2)
  | .vi => (0#64, FFlags.none)

def redMin (t : RedType) (s : State) (h : Nat) (a : Src) : DWord × FFlags :=
  match t with
  | .s32 => (((s.activeVals h a).foldl (fun x y => if y.slt x then y else x) 0x7FFFFFFF#32).signExtend 64, FFlags.none)
  | .n32 => (((s.activeVals h a).foldl (fun x y => if y.ult x then y else x) 0xFFFFFFFF#32).setWidth 64, FFlags.none)
  | .f32 => let r := reduceF32MinMax false (s.activeVals h a); (BitVec.ofNat 64 r.1, r.2)
  | .vi => (0#64, FFlags.none)

/-- The best word under MAX, 0xFFFF_FFFF when no lane is active (R100). -/
def redMaxi (s : State) (h : Nat) (a : Src) : DWord × FFlags :=
  (BitVec.ofNat 64 ((s.activeVals h a).foldl (fun r v => viPick true r v.toNat) 0xFFFFFFFF), FFlags.none)

/-- A reduction into s[D]; A names a vector register (R151). -/
def reduceOp (f : State → Nat → Src → DWord × FFlags) (sw : Bool) (d : SReg) (a : Src) (s : State) : Out :=
  begin (needLane a) s fun h =>
    let r := f s h a
    .next (((s.setSreg h d r.1).addFlags h r.2).done h (Src.len a) sw)

def execVredAdd (sw : Bool) (d : SReg) (t : RedType) (a : Src) (s : State) : Out := reduceOp (redAdd t) sw d a s
def execVredMax (sw : Bool) (d : SReg) (t : RedType) (a : Src) (s : State) : Out := reduceOp (redMax t) sw d a s
def execVredMin (sw : Bool) (d : SReg) (t : RedType) (a : Src) (s : State) : Out := reduceOp (redMin t) sw d a s
/-- TYPE is .vi, the only one MAXI takes (R39). -/
def execVredMaxi (sw : Bool) (d : SReg) (_t : RedType) (a : Src) (s : State) : Out := reduceOp redMaxi sw d a s

/-! ### Scans -/

/-- Running prefixes: element i combines elements 0 to i, from `z`. -/
def prefixes {α : Type} (f : α → α → α) (z : α) : List α → List α
  | [] => []
  | x :: r => f z x :: prefixes f (f z x) r

/-- One step of the recursive doubling of R95, at distance n: each value and the flags of its own additions.  A value below n
is copied: active lane 0 of an ADD keeps a NaN's payload (DESIGN CHOICE, log 94). -/
def doubleStep (f : Nat → Nat → FRes) (n : Nat) (xs : List (Nat × FFlags)) : List (Nat × FFlags) :=
  xs.take n ++ List.zipWith (fun p x =>
    let z := f p.1 x.1
    (z.bits, x.2 ||| z.flags)) xs (xs.drop n)

/-- The steps d = `k`, k + 1, ... while 2^d is below the width; `fuel` bounds them. -/
def doubling (f : Nat → Nat → FRes) (w : Nat) : Nat → Nat → List (Nat × FFlags) → List (Nat × FFlags)
  | 0, _, xs => xs
  | fuel + 1, n, xs => if n < w then doubling f w fuel (2 * n) (doubleStep f n xs) else xs

/-- A scan: the list gives lane i its result and its flags. -/
def scanOp (f : State → Nat → Src → List (Nat × FFlags)) (sw : Bool) (d : VReg) (a : Src) (s : State) : Out :=
  begin (needV [d.toNat] a) s fun h =>
    let r := f s h a
    let g := fun i => r.getD i (0, FFlags.none)
    .next (((s.putLanes h d fun i => BitVec.ofNat 32 (g i).1).addFlags h
      (FFlags.merge ((s.team h).active.map fun i => (g i).2))).done h (Src.len a) sw)

def scanInclS32 (s : State) (h : Nat) (a : Src) : List (Nat × FFlags) :=
  (prefixes (· + ·) 0 (s.laneVals h .f32 a 0 (s.team h).width)).map fun v => (v, FFlags.none)

def scanExclS32 (s : State) (h : Nat) (a : Src) : List (Nat × FFlags) :=
  (0 :: prefixes (· + ·) 0 (s.laneVals h .f32 a 0 (s.team h).width)).map fun v => (v, FFlags.none)

def scanInclF32 (s : State) (h : Nat) (a : Src) : List (Nat × FFlags) :=
  let w := (s.team h).width
  doubling Fmt.fp32.add w (pow2AtLeast w).log2 1 ((s.laneVals h .f32 a negZero32 w).map fun v => (v, FFlags.none))

def scanInclMaxi (s : State) (h : Nat) (a : Src) : List (Nat × FFlags) :=
  let w := (s.team h).width
  doubling (fun x y => ⟨viPick true x y, FFlags.none⟩) w (pow2AtLeast w).log2 1
    ((s.laneVals h .f32 a 0xFFFFFFFF w).map fun v => (v, FFlags.none))

def execVscanInclAddS32 (sw : Bool) (d : VReg) (a : Src) (s : State) : Out := scanOp scanInclS32 sw d a s
def execVscanExclAddS32 (sw : Bool) (d : VReg) (a : Src) (s : State) : Out := scanOp scanExclS32 sw d a s
def execVscanInclAddF32 (sw : Bool) (d : VReg) (a : Src) (s : State) : Out := scanOp scanInclF32 sw d a s
def execVscanInclMaxi (sw : Bool) (d : VReg) (a : Src) (s : State) : Out := scanOp scanInclMaxi sw d a s

/-! ### Masks and team-wide conditions -/

/-- The active lanes whose operand word is not zero. -/
def State.nonzeroLanes (s : State) (h : Nat) (a : Src) : List Nat :=
  (s.team h).active.filter fun i => Src.lane s h .f32 i a != 0#32

def execBallot (sw : Bool) (l : BitVec 3) (a : Src) (s : State) : Out :=
  begin (needV [] a) s fun h =>
    let t := s.team h
    let m := maskOf (s.nonzeroLanes h a) ||| (t.lmk l.toNat &&& ~~~(maskBelow t.width))
    .next ((s.setTeam h (t.setLm l.toNat m)).done h (Src.len a) sw)

def execMpre (sw : Bool) (l : BitVec 3) (d : VReg) (s : State) : Out :=
  begin (needT true [d.toNat]) s fun h =>
    let m := (s.team h).lmk l.toNat
    .next ((s.putLanes h d fun i => BitVec.ofNat 32 (lanesOf m i).length).done h 1 sw)

def execVany (sw : Bool) (a : Src) (s : State) : Out :=
  begin (needV [] a) s fun h => .next ((s.setScc h !(s.nonzeroLanes h a).isEmpty).done h (Src.len a) sw)

def execVall (sw : Bool) (a : Src) (s : State) : Out :=
  begin (needV [] a) s fun h =>
    .next ((s.setScc h ((s.nonzeroLanes h a).length == (s.team h).active.length)).done h (Src.len a) sw)

end Sys2Proof.Machine
end

