-- ==== Sys2Proof/Machine/Turns.lean ====
section
/-! DEFINITION. Whose turn it is to issue on a sector, and what an issue means for its other teams (R20, R118, R220, R281,
R283, R332-R338). -/

namespace Sys2Proof.Machine

/-- The teams resident on a core, and with those that have ended and left work behind. -/
def State.teamsOn (s : State) (core : Nat) : List Nat := (s.wgsOn core).flatMap fun w => s.liveTeams w.2
def State.harts (s : State) (core : Nat) : List Nat := (s.wgsOn core).flatMap fun w => w.2.teams

/-- Whether the core context of a team runs: resident, not stopped by a switch. -/
def State.running (s : State) (h : Nat) : Bool :=
  let c := s.coreOf h
  s.powered && decide (c < coreCount) && (s.core c).step == .running

/-- A team may go on: its context runs, is not held back (R357), and its replay packets have landed (R356). -/
def State.mayGo (s : State) (h : Nat) : Bool :=
  s.running h && (s.core (s.coreOf h)).hold.isNone && !(s.team h).replaying

/-! ### Whose turn it is (R332-R336) -/

/-- A team stands ready to issue, and has the room its instruction waits for (R19). -/
def State.issuable (s : State) (h : Nat) : Bool :=
  (s.ctx h).kind == .team && (s.ctx h).status == .ready && s.mayGo h && (s.team h).sleep == 0 && !s.noRoom h

/-- Effective priority; a team that has waited 65,536 clocks is above all (R333), and so is one that has waited 64 of which a
throttle withheld any (R283). -/
def State.effective (s : State) (h : Nat) : Nat :=
  let t := s.team h
  if 65536 ≤ t.waited || (64 ≤ t.waited && t.withheld) then 2 ^ 16 else min (s.wgOf h).launch.ceil (t.prio + t.waited / 4096)

/-- A team is chosen before another. -/
def State.before (s : State) (a b : Nat) : Bool :=
  let ta := s.team a
  let tb := s.team b
  if s.effective a != s.effective b then decide (s.effective b < s.effective a)
  else if ta.waited != tb.waited then decide (tb.waited < ta.waited)
  else if (s.wgOf a).since != (s.wgOf b).since then decide ((s.wgOf a).since < (s.wgOf b).since)
  else if (s.wgOf a).wgix != (s.wgOf b).wgix then decide ((s.wgOf a).wgix < (s.wgOf b).wgix)
  else decide (ta.teamix ≤ tb.teamix)

/-- The teams of a sector of a core. -/
def State.sectorTeams (s : State) (core sector : Nat) : List Nat := (s.teamsOn core).filter fun h => (s.team h).sector == sector

/-- The choice of normal mode: a team that yields is not taken while another can issue. -/
def State.normalChoice (s : State) (core sector : Nat) : Option Nat :=
  let ts := (s.sectorTeams core sector).filter s.issuable
  let other := ts.filter fun h => !(s.team h).yielded
  (if other.isEmpty then ts else other).foldl (fun (b : Option Nat) h => match b with
    | none => some h
    | some x => if s.before h x then some h else some x) none

/-- Place of a team in its sector's cyclic order: WGIX, then TEAMIX. DESIGN CHOICE: teams of two launches that agree in both
stand in the order of their LAUNCH, which no two live launches of a partition share (R336; log 80). -/
def State.orderKey (s : State) (h : Nat) : Nat :=
  ((s.wgOf h).wgix * 16 + (s.team h).teamix) * 2 ^ 32 + (s.wgOf h).launch.launch.toNat

/-- A foal whose engine waits between two iterations on a ring with FREE = 0. -/
def State.foalStuck (s : State) (f : Foal) : Bool :=
  f.live && match f.job with
    | .copy j => (match j.ring with
      | some q => !j.inIter && (s.ring f.wg q).free == 0
      | none => false)
    | .mma _ => false
    | .tmma _ => false
    | .batch _ => false
    | .coll _ => false

/-- A ring that only an instruction of a team sets going again: its engine waits on FREE = 0, or no CPL runs on it. -/
def State.ringStuck (s : State) (g q : Nat) : Bool :=
  (s.foals.filter fun e => e.2.live && e.2.wg == g && match e.2.job with
    | .copy j => j.ring == some q
    | .mma _ => false
    | .tmma _ => false
    | .batch _ => false
    | .coll _ => false).all fun e => s.foalStuck e.2

/-- The release of a parked team needs an instruction of another team (R336). -/
def State.needsTeam (s : State) (h : Nat) : Bool :=
  let g := (s.team h).wg
  match (s.ctx h).status with
  | .parked (.barrierPhase _ _) => true
  | .parked (.tbar a _ _ _ _) => (s.tbar g a).arrive != 0
  | .parked (.ringFilled q) => (s.ring g q).filled == 0 && s.ringStuck g q
  | .parked (.foal k n) => (match s.foalAt (foalKey (s.coreOf h) k) with
    | some f => f.gen.toNat == n && s.foalStuck f
    | none => false)
  | .parked .allFoals => (s.attachedOf h).any fun e => s.foalStuck e.2
  | .parked (.exiting true) => (s.attachedOf h).any fun e => s.foalStuck e.2
  | .parked _ => false
  | .ready => false
  | .trapped => false
  | .stopped => false

/-- Teams in cyclic order. -/
def insertKey (s : State) (h : Nat) : List Nat → List Nat
  | [] => [h]
  | x :: r => if s.orderKey h ≤ s.orderKey x then h :: x :: r else x :: insertKey s h r

/-- The choice of deterministic mode: the first team in the cyclic order, from the turn's place, that need not be passed
over, once it is ready. -/
def State.detChoice (s : State) (core sector : Nat) : Option Nat :=
  let k := Store.get 0 (s.core core).turn sector
  let ts := (s.sectorTeams core sector).foldl (fun l h => insertKey s h l) []
  let order := ts.filter (fun h => decide (k ≤ s.orderKey h)) ++ ts.filter fun h => decide (s.orderKey h < k)
  match order.find? fun h => !s.needsTeam h with
  | none => none
  | some h => if s.issuable h then some h else none

/-- Whether a hart may issue now: a ready thread, or the choice of its sector. -/
def State.mayIssue (s : State) (h : Nat) : Bool :=
  let c := s.ctx h
  match c.kind with
  | .absent => false
  | .thread => c.status == .ready
  | .team =>
    let core := s.coreOf h
    let k := (s.team h).sector
    c.status == .ready && (if s.det h then s.detChoice core k else s.normalChoice core k) == some h

/-- Words that are switch points by themselves: BAR, EXIT, YIELD, FWAIT (R336). -/
def switchWord (w : Word) : Bool :=
  let op := (w.extractLsb' 24 7).toNat
  let fn := (w.extractLsb' 22 2).toNat
  op == 0x08 || op == 0x09 || (op == 0x0A && fn == 1) || op == 0x50

/-- The word a hart stands at. -/
def Ctx.nextWord (c : Ctx) : Word :=
  match c.clause with
  | some cl => (cl.words.drop c.widx).headD 0#32
  | none => 0#32

/-- What issuing means for the core: a clock of the sector is used, its context has issued since its restore (R281), and a team
that has gone on from its park for a foal's slot is no longer in the queue for one (R220). -/
def State.noteIssue (s : State) (core sector h : Nat) : State :=
  let c := s.core core
  let waits := match (s.ctx h).status with
    | .parked (.foalSlot _) => true
    | .parked _ => false
    | .ready => false
    | .trapped => false
    | .stopped => false
  if c.part == 0 then s
  else s.setCore core { c with unissued := false, ahead := Store.set 0 c.ahead sector (Store.get 0 c.ahead sector + 1),
                               queue := if waits then c.queue else c.queue.filter fun e => e.1 != h }

/-- The sector's turn stands at a place of its cyclic order. -/
def State.setTurn (s : State) (core sector k : Nat) : State :=
  let c := s.core core
  if c.part == 0 then s else s.setCore core { c with turn := Store.set 0 c.turn sector k }

/-- Hart `h` fetched, from state `a`, the clause at whose header it stands. -/
def Ctx.fetched (c a : Ctx) : Bool := a.clause.isNone && a.widx == 0 && c.clause.isSome

/-- A clause whose header has YP. -/
def Ctx.headerYp (c : Ctx) : Bool :=
  match c.clause with
  | some cl => cl.yp
  | none => false

/-- A team that is not ready has no waiting clocks, and gives way to none (R332). -/
def State.restWait (s : State) (h : Nat) : State :=
  if (s.ctx h).kind == .team && (s.ctx h).status != .ready then
    s.setTeam h { s.team h with waited := 0, withheld := false, yielded := false } else s

/-- After a team has issued, or fetched a clause, from state `a`: in deterministic mode the turn goes on at a switch point, a
header with YP among them; in normal mode the other ready teams of its sector have waited the clock of the issue, and none of
them yields any longer (R20, R118, R332, R336). -/
def State.afterIssue (s a : State) (h : Nat) : State :=
  match (a.ctx h).kind with
  | .absent => s
  | .thread => s
  | .team =>
    let core := a.coreOf h
    let k := (a.team h).sector
    let issues := (a.ctx h).clause.isSome && !(s.team h).stalled.isSome
    let s := (if issues then s.noteIssue core k h else s).restWait h
    if a.det h then
      let sp := (s.ctx h).status != .ready || (if (s.ctx h).fetched (a.ctx h) then (s.ctx h).headerYp
        else switchWord (a.ctx h).nextWord)
      s.setTurn core k (if sp then a.orderKey h + 1 else a.orderKey h)
    else if issues then
      (s.sectorTeams core k).foldl (fun (s : State) x =>
        if x == h then s
        else s.setTeam x { s.team x with waited := if s.issuable x then (s.team x).waited + 1 else (s.team x).waited, yielded := false }) s
    else s

end Sys2Proof.Machine
end

