-- ==== Sys2Proof/Machine/Issue.lean ====
section
/-! DEFINITION. Fetching a clause, its header and its waits, and the checks of an instruction at issue (R12-R20, R25, R27,
R28, R369). -/

namespace Sys2Proof.Machine

/-! ### Clause fetch -/

/-- Word of a clause at an address, as the hart's launch fetches it: a byte the launch has written keeps its older value
(R25). A control-core thread fetches HBM4 as it stands. -/
def State.codeByte (s : State) (h : Nat) (l : Loc) : Byte :=
  match (s.ctx h).kind with
  | .team =>
    match Store.find ((s.wgOf h).entity * 2 ^ 52 + l.pa) s.oldCode with
    | some b => BitVec.ofNat 8 (b - 1)
    | none => s.homeByte l
  | .thread => s.homeByte l
  | .absent => 0#8

/-- Where n bytes of code lie, or the first address that fails (R18, R25, R409). -/
def State.codeLocs (s : State) (h : Nat) (a : Addr) (n : Nat) : Except (XErr × Addr) (List Loc) :=
  match (s.ctx h).kind with
  | .team => translateBytes s (some (s.coreOf h)) (s.wgOf h).launch.part a n .exec
  | .thread =>
    match (List.range n).find? fun i => regionOf (a.toNat + i) != .hbm with
    | some i => .error (.fault, a + BitVec.ofNat 64 i)
    | none => .ok ((List.range n).map fun i => s.physLoc 0 (a.toNat + i))
  | .absent => .error (.fault, a)

/-- The n words of code at an address. -/
def State.codeWords (s : State) (h : Nat) (ls : List Loc) : List Word :=
  (List.range (ls.length / 4)).map fun k =>
    BitVec.ofNat 32 (leNat ((ls.drop (4 * k)).take 4 |>.map (s.codeByte h)))

/-- A fetch of n bytes of code reads their lines, and the tables where no cache holds their translation (R377, R397, R400). -/
def State.useCode (s : State) (h : Nat) (a : Addr) (n : Nat) : State :=
  let s := match (s.ctx h).kind with
    | .team => s.chargeMisses (some (s.coreOf h)) (s.wgOf h).launch.part a n
    | .thread => s
    | .absent => s
  match s.codeLocs h a n with
  | .ok ls => s.useAll (s.owner h) ls
  | .error _ => s

/-- A header passes the checks of R14. -/
def headerOk (w : Word) : Bool := w.extractLsb' 24 8 == 0xA5#8 && w.extractLsb' 14 10 == 0#10 && w.extractLsb' 0 4 != 0#4

/-- CLS of a header (R13). -/
def headerClass (w : Word) : Cls :=
  if w.extractLsb' 4 2 == 0#2 then .gen else if w.extractLsb' 4 2 == 1#2 then .mem
  else if w.extractLsb' 4 2 == 2#2 then .foal else .sys

/-- A fetched clause (R13). -/
def clauseOf (w : Word) (ws : List Word) (entered : Bool) : Clause :=
  { cls := headerClass w, words := ws, ldw := (w.extractLsb' 6 3).toNat, stw := (w.extractLsb' 9 3).toNat,
    mw := w.getLsbD 12, yp := w.getLsbD 13, entered := entered, refetch := false }

/-- A fault of the fetch or an ILLEGAL_CLAUSE of the header: PC is the header address and the word index 0 (R14, R18,
R25). -/
def State.fetchTrap (s : State) (h : Nat) (code : TrapCode) (a : DWord) : State :=
  let s := s.setCtx h { s.ctx h with widx := 0, clause := none }
  s.raiseAt h code 0 a 0#1024 false

def xerrCode : XErr → TrapCode
  | .fault => .memFault
  | .perm => .perm

/-- The header's waits (R13): loads, stores, register-destination foals. -/
def State.headerClear (s : State) (h ldw stw : Nat) (mw : Bool) : Bool :=
  (ldw == 7 || (s.team h).loads ≤ ldw) && (stw == 7 || (s.team h).stores ≤ stw) && (!mw || !s.regFoal h)

/-- The header's waits are over: the clause is entered. -/
def Ctx.enter (c : Ctx) : Ctx := { c with clause := c.clause.map fun cl => { cl with entered := true } }

/-- A header with YP in normal mode: another ready team is preferred in the next clock (R20). In deterministic mode the turn
goes on (`State.afterIssue`). -/
def State.prefersOther (s : State) (h : Nat) : State :=
  if s.det h then s else s.setTeam h { s.team h with yielded := true }

/-- A team at a header it has just fetched: its waits, and the watchdog at a header with YP (R13, R20, R375). A hart that
stands at a later word does not evaluate them again (R26). -/
def State.enterClause (s : State) (h : Nat) (cl : Clause) : State :=
  match (s.ctx h).kind with
  | .team =>
    let s := if cl.yp then (s.watch h).prefersOther h else s
    if s.headerClear h cl.ldw cl.stw cl.mw then s.setCtx h (s.ctx h).enter
    else s.park h (.header cl.ldw cl.stw cl.mw)
  | .thread => s.setCtx h (s.ctx h).enter
  | .absent => s

/-- CLAUSE_FETCH (R25): the whole clause of the current hart is fetched and its header checked. A word index equal to CNT
continues at the next clause; a larger one is an ILLEGAL_CLAUSE at the target (R232). -/
def State.fetchClause (s : State) (h : Nat) : State :=
  let c := s.ctx h
  match s.codeLocs h c.pc 4 with
  | .error x => (s.useCode h c.pc 4).fetchTrap h (xerrCode x.1) x.2
  | .ok hl =>
    if c.pc.toNat % 4 != 0 then s.fetchTrap h .illegalClause 0#64
    else
      let w := (s.codeWords h hl).headD 0#32
      if !headerOk w then (s.useCode h c.pc 4).fetchTrap h .illegalClause 0#64
      else
        let cnt := (w.extractLsb' 0 4).toNat
        let s := s.useCode h c.pc (4 + 4 * cnt)
        match s.codeLocs h (c.pc + 4#64) (4 * cnt) with
        | .error x => s.fetchTrap h (xerrCode x.1) x.2
        | .ok ls =>
          if cnt < c.widx then s.fetchTrap h .illegalClause 0#64
          else
            let s' := s.setCtx h { c with clause := some (clauseOf w (s.codeWords h ls) (c.widx != 0)) }
            if c.widx == cnt then s'.setCtx h ((s'.ctx h).past 0)
            else if c.widx != 0 then s'
            else s'.enterClause h (clauseOf w (s.codeWords h ls) false)

/-- A team's trap of a fetch in the middle of a clause: it names the header with word index 0, and the team keeps its place
(R25, R371). -/
def State.refetchTrap (s : State) (h : Nat) (code : TrapCode) (a : DWord) : State :=
  s.teamTrap h { code := code, pc := (s.ctx h).pc, widx := 0, addr := a, lanes := 0#1024, instr := 0#64, spaddr := false,
                 replay := false, out := false, handle := none, time := 0#64, resumePark := none, len := 0, logged := false, under := none }

/-- The words of a clause that a restored hart stands in are fetched again; the hart keeps its place, and its header's waits
are not evaluated again (R25, R26). -/
def State.refetchClause (s : State) (h : Nat) (cl : Clause) : State :=
  let c := s.ctx h
  match s.codeLocs h c.pc 4 with
  | .error x => (s.useCode h c.pc 4).refetchTrap h (xerrCode x.1) x.2
  | .ok hl =>
    let w := (s.codeWords h hl).headD 0#32
    let cnt := (w.extractLsb' 0 4).toNat
    let s := s.useCode h c.pc (4 + 4 * cnt)
    if !headerOk w || cnt < c.widx then s.refetchTrap h .illegalClause 0#64
    else match s.codeLocs h (c.pc + 4#64) (4 * cnt) with
      | .error x => s.refetchTrap h (xerrCode x.1) x.2
      | .ok ls => s.setCtx h { c with clause := some (clauseOf w (s.codeWords h ls) cl.entered) }

/-- CLAUSE_FETCH's row: the current hart, if it may issue and is without a clause, fetches one. -/
def execClauseFetch (s : State) : Out :=
  if s.mayIssue s.cur && (s.ctx s.cur).clause.isNone then .next ((s.fetchClause s.cur).afterIssue s s.cur) else .next s

/-! ### Boundary traps (R369) -/

/-- The TIMERA deadline fires: it is disarmed and a sleep ends. -/
def Team.fireTimera (t : Team) : Team × DWord :=
  ({ t with timera := none, late := false, sleep := 0 }, if t.late then 3#64 else 1#64)

/-- The TIMER trap due at a boundary, with the bits of its address field; the deadline is disarmed and a sleep ends (R118,
R125, R126). -/
def Team.timerDue (t : Team) (time : DWord) : Option (Team × DWord) :=
  let timer := match t.timer with
    | some d => !t.timerHeld && decide (d ≤ t.rclock)
    | none => false
  let timera := match t.timera with
    | some e => decide (e ≤ time)
    | none => false
  if timer then some ({ t with timer := none, sleep := 0 }, 0#64)
  else if timera then some t.fireTimera else none

/-- A trap of a boundary: it names the next instruction, or the load of a MEM_POISON, and continues there. -/
def State.boundaryTrap (s : State) (h : Nat) (code : TrapCode) (pc : Addr) (widx : Nat) (addr : DWord) (lanes : Mask)
    (instr : DWord) (park : Option Wait) : State :=
  s.teamTrap h { code := code, pc := pc, widx := widx, addr := addr, lanes := lanes, instr := instr, spaddr := false,
                 replay := false, out := false, handle := none, time := 0#64, resumePark := park, len := 0, logged := false, under := none }

/-- The boundary trap of a team that applies first, if any (R369, 1 to 3). -/
def State.boundary (s : State) (h : Nat) (park : Option Wait) : Option State :=
  let t := s.team h
  let c := s.ctx h
  if t.wdleft == 0 then some (s.boundaryTrap h .watchdog c.pc c.widx 0#64 0#1024 0#64 park)
  else match t.poison with
    | p :: r =>
      some ((s.setTeam h { t with poison := r }).boundaryTrap h .memPoison p.pc p.widx p.addr p.lanes (p.word.setWidth 64) park)
    | [] => match t.timerDue s.time with
      | some (t', a) => some ((s.setTeam h t').boundaryTrap h .timer c.pc c.widx a 0#1024 0#64 park)
      | none => none

/-! ### The checks of one instruction (R27, R28) -/

/-- Words whose OP or FN the opcode map reserves (R27, R40, R41). -/
def reservedWord (w : Word) : Bool :=
  let op := (w.extractLsb' 24 7).toNat
  let fn := (w.extractLsb' 22 2).toNat
  if op == 0 || 0x61 ≤ op then true
  else if [0x02, 0x30, 0x4E, 0x5A, 0x60].contains op then fn != 0
  else if [0x09, 0x13, 0x14, 0x20, 0x2E, 0x31, 0x37, 0x4A, 0x4D, 0x5C].contains op then 2 ≤ fn
  else if [0x03, 0x07, 0x08, 0x0A, 0x16, 0x23, 0x24, 0x25, 0x26, 0x28, 0x2F, 0x43, 0x44, 0x49, 0x55, 0x56, 0x58, 0x5E].contains op
  then fn == 3
  else false

/-- Forms outside the supervisor profile (R228): ILLEGAL_OPCODE on a control core, in the first place of R28 (log 8). -/
def teamWord (w : Word) : Bool :=
  let op := (w.extractLsb' 24 7).toNat
  let fn := (w.extractLsb' 22 2).toNat
  if op == 0x01 then fn == 3
  else if 0x04 ≤ op && op ≤ 0x09 then true
  else if op == 0x13 || op == 0x14 then true
  else if op == 0x15 then fn != 1
  else if 0x17 ≤ op && op ≤ 0x3A then true
  else if 0x3D ≤ op && op ≤ 0x44 then true
  else if op == 0x46 || (0x49 ≤ op && op ≤ 0x57) then true
  else false

/-- A hart stands, ready, at a word of its clause. -/
def Ctx.standsAt (c : Ctx) (w : Word) : Bool :=
  c.kind != .absent && c.status == .ready && match c.clause with
    | some cl => cl.entered && !cl.refetch && (cl.words.drop c.widx).head? == some w
    | none => false

/-- RESERVED_OPCODE_ISSUE (R27): a reserved word at the word index of the current hart, which may issue, raises
ILLEGAL_OPCODE. -/
def execReservedOpcodeIssue (w : Word) (s : State) : Out :=
  if s.mayIssue s.cur && (s.ctx s.cur).standsAt w && reservedWord w then
    .next ((s.raise s.cur .illegalOpcode 1).afterIssue s s.cur) else .next s

noncomputable section

/-- The instruction at a hart's word index: the checks of R28 that need no operand, and then its meaning. -/
def issueWith (ex : Instr → State → Out) (s : State) (h : Nat) (c : Ctx) (cl : Clause) : Out :=
  match cl.words.drop c.widx with
  | [] => .next (s.setCtx h (c.past 0))
  | w :: rest =>
    match decode w rest.head? with
    | .opcode => .next (s.raise h .illegalOpcode 1)
    | .missing =>
      if c.kind == .thread && teamWord w then .next (s.raise h .illegalOpcode 1) else .next (s.raise h .illegalClause 1)
    | .operand =>
      if c.kind == .thread && teamWord w then .next (s.raise h .illegalOpcode 1)
      else if opClass (w.extractLsb' 24 7).toNat != cl.cls then .next (s.raise h .illegalClause 1)
      else .next (s.raise h .illegalOperand 1)
    | .ok i n =>
      if c.kind == .thread && teamWord w then .next (s.raise h .illegalOpcode n)
      else if opClass (w.extractLsb' 24 7).toNat != cl.cls then .next (s.raise h .illegalClause n)
      else if Instr.isTransfer i && c.widx + n != cl.words.length then .next (s.raise h .illegalClause n)
      else ex i s

end

end Sys2Proof.Machine
end

