-- ==== Sys2Proof/Machine/Parks.lean ====
section
/-! DEFINITION. Leaving parks, and the boundary traps of teams that do not issue: PARK_RESUME, SLEEP_END, TIMER_FIRE,
WATCHDOG_EXPIRE and FAULT_RECORD_SEND (R13, R22, R53, R118, R125, R371, R375). -/

namespace Sys2Proof.Machine

/-- The reason of a park has cleared. A park that ends by the event that satisfies it has none of its own. -/
def State.parkClear (s : State) (h : Nat) (w : Wait) : Bool :=
  let t := s.team h
  match w with
  | .marker => s.markerClear h
  | .header ldw stw mw => s.headerClear h ldw stw mw
  | .counts _ st mw => t.loads == 0 && (!st || t.stores == 0) && (!mw || !s.regFoal h)
  | .landed id _ => (t.reqs.all fun r => r.id != id) && t.replay.all fun r => r.1.id != id
  | .barrierPhase b _ => ((s.wgOf h).barrier b).phase != Store.get 0#32 t.lastPhase b
  | .held rs => rs.all fun r => !s.isHeld h r
  | .pages ps => !(s.wgOf h).enginePage ps
  | .exiting foals => if foals then (s.attachedOf h).all (fun e => !e.2.live) else t.drained
  | .batch => !s.sealedOpen h
  | .foal slot gen => match s.foalAt (foalKey (s.coreOf h) slot) with
    | none => true
    | some f => !f.live || f.gen.toNat != gen
  | .allFoals => (s.attachedOf h).all fun e => !e.2.live
  | .foalSlot k => s.foalRoom h (if k == 0 then .matrix else if k == 1 then .copy else if k == 2 then .lanebatch else .coll)
  | .value sc _ pl c y _ => s.mayRead h sc pl && c.holds (s.watched h sc pl) y
  | .tbar a p _ _ _ => let x := s.tbar t.wg a
                       x.fault || x.phase != p
  | .ringFilled o => let r := s.ring t.wg o
                     r.broken o || r.filled != 0
  | .queueRoom l =>
    let q := Queue.ofBytes ((List.range 64).map fun i => s.homeByte ⟨l.pa + i, l.pin⟩)
    !q.ok || decide (q.count < q.size)
  | .counter e lim => !s.entityLive e || decide ((s.entity e).counter ≤ lim)
  | .halt => !(s.thread h).events.isEmpty
  | .tlbi => s.performedBefore (s.thread h).posted
  | .rctx _ _ _ => false
  | .server => !t.replaying

/-- A hart leaves its park: an instruction that has executed is complete; one that has not issues again. -/
def State.leavePark (s : State) (h : Nat) (w : Wait) : State :=
  let ready := s.setCtx h { s.ctx h with status := .ready }
  match w with
  | .header _ _ _ => ready.setCtx h (s.ctx h |>.enter |> fun c => { c with status := .ready })
  | .landed _ sw => ready.marked h sw
  | .value _ _ _ _ _ _ => s.reread h
  | .tbar a _ _ _ _ => s.leaveTbar a (s.tbar (s.team h).wg a) h
  | .marker => ready
  | .counts _ _ _ => ready
  | .barrierPhase b _ => s.leaveBarrier b h
  | .held _ => ready
  | .pages _ => ready
  | .exiting _ => ready
  | .batch => ready
  | .foal _ _ => ready
  | .allFoals => ready
  | .foalSlot _ => ready
  | .ringFilled _ => ready
  | .queueRoom _ => ready
  | .counter _ _ => ready
  | .halt => ready
  | .tlbi => ready.retranslateAll
  | .rctx _ _ _ => s
  | .server => s.leaveServer h

/-- PARK_RESUME (R53). -/
def execParkResume (h : Nat) (s : State) : Out :=
  match (s.ctx h).status with
  | .parked w =>
    if ((s.ctx h).kind == .thread || s.mayGo h) && s.parkClear h w then .next (s.leavePark h w) else .next s
  | .ready => .next s
  | .trapped => .next s
  | .stopped => .next s

/-- SLEEP_END (R118): the clocks of a team's sleep have passed. -/
def execSleepEnd (t : Nat) (s : State) : Out :=
  let x := s.team t
  if x.sleep == 1 then .next (s.setTeam t { x with sleep := 0 }) else .next s

/-- The park a team is in. -/
def Ctx.parkOf (c : Ctx) : Option Wait :=
  match c.status with
  | .parked w => some w
  | .ready => none
  | .trapped => none
  | .stopped => none

/-- A team that stands at a boundary takes the boundary trap that applies first (R369). -/
def State.boundaryOf (s : State) (t : Nat) : Option State :=
  let c := s.ctx t
  if c.kind == .team && c.status != .trapped && s.mayGo t then s.boundary t c.parkOf else none

/-- TIMER_FIRE (R125): a deadline has been reached. -/
def execTimerFire (t : Nat) (s : State) : Out :=
  if ((s.team t).timerDue s.time).isSome then .next ((s.boundaryOf t).getD s) else .next s

/-- WATCHDOG_EXPIRE (R375). -/
def execWatchdogExpire (t : Nat) (s : State) : Out :=
  if (s.team t).wdleft == 0 then .next ((s.boundaryOf t).getD s) else .next s

/-- FAULT_RECORD_SEND (R371). -/
def execFaultRecordSend (t : Nat) (s : State) : Out := .next (s.faultRecordSend t)

end Sys2Proof.Machine
end

