-- ==== Sys2Proof/Machine/Link.lean ====
section
/-! DEFINITION. The fabric links: frames coming in, acknowledgement and retry, ports going down and coming up, forwarding, and
the packets of every class at their destination (R361, R371, R417-R419). -/

namespace Sys2Proof.Machine

/-! ### Acknowledgement and retry (R419) -/

/-- How far a sequence number lies beyond an acknowledged one, modulo 65,536: 0 up to 32,767 is not beyond it. -/
def acked (lack lseq : BitVec 16) : Bool := decide ((lack - lseq).toNat < 32768)

/-- The port on which an unacknowledged job frame of a port that went down is sent again, if there is one: the die's other
port for a frame injected here, the alternate port for one in transit (R419). -/
def State.otherPort (s : State) (p : Nat) (f : Frame) : Option Nat :=
  let other := p ^^^ 1
  let alt := (s.routePorts f.dstpkg.toNat).getD 1 24
  if f.hops == 0#8 then (if s.portUp other && (s.part f.part.toNat).ports.getLsbD other then some other else none)
  else if s.portUp alt then some alt else none

/-- A frame of a port that went down takes another way: a trap record or reply any, a job frame the other port; the collective
of an injected chunk that has none ends in FAULT. -/
def State.reroute (s : State) (p : Nat) (f : Frame) : State :=
  if f.isTrap then s.sendTrap f
  else if !f.isJob then s
  else match s.otherPort p f with
  | some q => s.enqueue q f
  | none =>
    if f.hops == 0#8 && f.cls == 1#8 then
      (match s.collFor f with
       | some (k, x) => (match x.job with
         | .coll j => if x.live then s.collFault k x j .memFault 0#64 else s
         | .mma _ => s
         | .tmma _ => s
         | .copy _ => s
         | .batch _ => s)
       | none => s)
    else s

/-- A job frame of a port that went down waits there while the retry buffer of its other port is full (R419; DEDUCED, log 93). -/
def State.rerouteWaits (s : State) (p : Nat) (f : Frame) : Bool :=
  f.isJob && (s.otherPort p f).any fun q => !s.portRoom q

/-- PORT_DOWN. -/
def State.portDown (s : State) (p : Nat) : State :=
  let x := s.port p
  let s := s.setPort p { x with linkup := false, retrying := false, buffer := [], resent := [] }
  x.buffer.foldl (fun s f =>
    if s.rerouteWaits p f then s.setPort p { s.port p with buffer := (s.port p).buffer ++ [f] } else s.reroute p f) s

/-- A frame that waits at a port that is down, once it need wait no longer. -/
def State.resume419 (s : State) (p : Nat) : Option State :=
  let x := s.port p
  if x.linkup then none
  else match x.buffer with
  | [] => none
  | f :: r => if s.rerouteWaits p f then none else some ((s.setPort p { x with buffer := r }).reroute p f)

/-- Every unacknowledged frame is sent again in order; at the 64th retry of one frame the port goes down. -/
def State.resendAll (s : State) (p : Nat) : State :=
  let x := s.port p
  if x.buffer.isEmpty then s
  else if x.resent.any fun n => decide (64 ≤ n) then s.portDown p
  else
    let s := s.setPort p { x with retrying := true, resent := x.resent.map (· + 1), since := s.time }
    x.buffer.foldl (fun s f => s.send (.frame p f)) s

/-- A LACK seen: acknowledged frames leave the buffer; one below the last sent asks for a retry. -/
def State.seeLack (s : State) (p : Nat) (lack : BitVec 16) : State :=
  let x := s.port p
  let rest := x.buffer.filter fun f => !acked lack f.lseq
  let y := { x with buffer := rest, resent := x.resent.drop (x.buffer.length - rest.length),
                    retrying := x.retrying && !rest.isEmpty, since := s.time }
  (s.setPort p y).resendAll p

/-- The receiver sends LACK at once. -/
def State.sendLack (s : State) (p : Nat) : State := s.send (.lack p ((s.port p).nextIn - 1#16))

/-- A frame arrives on a link: whether it is the next one in order, with what its LACK does. A frame whose header is broken
is dropped and not acknowledged. -/
def State.linkIn (s : State) (p : Nat) (f : Frame) : State × Bool :=
  if !s.portUp p then (s, false)
  else if !f.headerOk then (s.send (.log 2 p), false)
  else
    let s := s.seeLack p f.lack
    let x := s.port p
    if f.lseq == x.nextIn then (s.setPort p { x with nextIn := x.nextIn + 1#16 }, true) else (s.sendLack p, false)

/-- LINK_ACK_FRAME_RECEIVE. -/
def execLinkAckFrameReceive (port : Nat) (f : Frame) (s : State) : Out :=
  if !s.portUp port || f.cls != 0#8 then .next s
  else if f.headerOk then .next (s.seeLack port f.lack)
  else .next (s.send (.log 2 port))

/-- BAD_FCS_FRAME_RECEIVE. -/
def execBadFcsFrameReceive (port : Nat) (s : State) : Out :=
  if s.portUp port then .next (s.sendLack port) else .next s

/-- LINK_RETRY_TIMEOUT: no LACK has been seen for 5 µs. -/
def execLinkRetryTimeout (port : Nat) (s : State) : Out :=
  if s.portUp port && decide ((s.port port).since.toNat + 5000 ≤ s.time.toNat) then .next (s.resendAll port) else .next s

/-- PORT_LINK_UP: an enabled port trains; both ends begin their sequences again (log 16), and what waited for a way, or at the
port itself, is sent. -/
def State.linkUp (s : State) (p : Nat) : State :=
  let x := s.port p
  if !x.cfg.getLsbD 0 || x.linkup || 24 ≤ p then s
  else
    let s := s.setPort p { x with linkup := true, retrying := false, nextOut := 0#16, nextIn := 0#16, buffer := [], resent := [], since := s.time }
    let s := x.buffer.foldl (fun (s : State) f => s.enqueue p f) s
    let waiting := s.stuck
    (waiting.foldl (fun (s : State) f => s.sendTrap f) { s with stuck := [] }).flush

def execPortLinkUp (port : Nat) (s : State) : Out := .next (s.linkUp port)

/-! ### Job packets at their destination -/

/-- A job packet of a class for this package, on a port that its partition owns (R383).  A frame of a class that R359 does not
name breaks the header's table, and counts as such (R417). -/
def State.jobIn (s : State) (p cls : Nat) (f : Frame) : State :=
  if (f.cls.toNat != cls && f.cls.toNat ≤ 6) || f.dstpkg.toNat != s.pkg then s
  else
    match s.linkIn p f with
    | (s, false) => s
    | (s, true) =>
      let x := s.part f.part.toNat
      if x.live && !x.ports.getLsbD p then s.send (.log 3 p) else s.arrive361 f

def execFabricChunkReceive (port : Nat) (f : Frame) (s : State) : Out := .next (s.jobIn port 1 f)
def execFabricAckReceive (port : Nat) (f : Frame) (s : State) : Out := .next (s.jobIn port 2 f)
def execFabricRefusalReceive (port : Nat) (f : Frame) (s : State) : Out := .next (s.jobIn port 3 f)
def execFabricNoticeReceive (port : Nat) (f : Frame) (s : State) : Out := .next (s.jobIn port 6 f)

/-- ACK_RESEND_TIMER (R361): 10 µs after it was refused, an acknowledgement, which then names the highest chunk combined, or a refused notice is
sent again; it waits while its job is switched out. -/
def execAckResendTimer (k : Nat) (s : State) : Out :=
  match s.resends[k]? with
  | none => .next s
  | some r =>
    if s.time < r.due then .next s else
    let f := r.frame
    let f := if f.cls == 2#8 then
        (match s.collFor f with
         | some (_, x) => (match x.job with
           | .coll j => if j.recvd == 0 then f else { f with chunk := chunkField j.ordinal (j.recvd - 1) }
           | .mma _ => f
           | .tmma _ => f
           | .copy _ => f
           | .batch _ => f)
         | none => f)
      else f
    if !r.held || s.mayInject f.part.toNat f.job f.inc.toNat then
      (match { s with resends := s.resends.eraseIdx k }.inject f with
       | some s' => .next s'
       | none => .next s)
    else .next s

/-! ### Trap records and replies (R371, R419) -/

/-- TRAP_RECORD_RECEIVE: a record goes into the trap queue; one already queued is discarded, and one for which the queue has
no room stays with its sender. -/
def execTrapRecordReceive (port : Nat) (f : Frame) (s : State) : Out :=
  let hd : DWord := BitVec.ofNat 64 (leNat (f.payload.take 8))
  if f.cls != 4#8 || f.dstpkg.toNat != s.pkg then .next s
  else if s.queued.contains hd then .next (s.linkIn port f).1
  else match s.queueRecord hd f.payload with
  | none => .next s
  | some _ =>
    match s.linkIn port f with
    | (s, false) => .next s
    | (s, true) => .next ((s.queueRecord hd f.payload).getD s)

/-- The status byte of an answer. -/
def RctxAnswer.status : RctxAnswer → Nat × DWord
  | .value v => (0, v)
  | .trap .perm => (2, 0#64)
  | .trap _ => (1, 0#64)

/-- TRAP_REPLY_RECEIVE: an RCTX for a team of this package acts and is answered; an answer ends the park of the thread that
waits for it. -/
def State.replyIn (s : State) (f : Frame) : State :=
  let n := fun (o k : Nat) => leNat ((f.payload.drop o).take k)
  let w := fun (o : Nat) => (BitVec.ofNat 64 (n o 8) : DWord)
  let op := n 0 1
  if op == 4 then
    (match s.ctxs.find? fun e => match e.2.status with
        | .parked (.rctx req _ _) => req == n 32 8
        | .parked _ => false
        | .ready => false
        | .trapped => false
        | .stopped => false with
     | none => s
     | some (h, c) => match c.status with
       | .parked (.rctx _ d len) =>
         let s := s.setCtx h { c with status := .ready }
         let ans := if n 1 1 == 0 then RctxAnswer.value (w 24) else .trap (if n 1 1 == 2 then .perm else .illegalOperand)
         s.rctxDone h (BitVec.ofNat 6 d) len false ans
       | .parked _ => s
       | .ready => s
       | .trapped => s
       | .stopped => s)
  else
    let o : RctxOp := if op == 0 then .rd else if op == 1 then .wr else if op == 2 then .resume else .kill
    let r := s.rctxAt f.srcpkg.toNat o (w 8) (w 16) (w 24)
    r.1.sendTrap (Frame.make 0 5 s.pkg f.srcpkg.toNat (rctxPayload 4 r.2.status.1 (w 8) (w 16) r.2.status.2 (n 32 8)))

def execTrapReplyReceive (port : Nat) (f : Frame) (s : State) : Out :=
  if f.cls != 5#8 || f.dstpkg.toNat != s.pkg then .next s
  else match s.linkIn port f with
  | (s, false) => .next s
  | (s, true) => .next (s.replyIn f)

/-! ### Forwarding (R418) -/

/-- A frame in transit would leave on a port whose retry buffer is full. -/
def State.noWayYet (s : State) (f : Frame) : Bool :=
  match s.route f.dstpkg.toNat with
  | some p => !s.portRoom p
  | none => false

/-- FRAME_FORWARD: a frame for another package leaves by the route table; one that can go nowhere, or has made six hops, is
dropped, and a trap frame waits. A job frame whose port has a full retry buffer is not accepted, and its sender sends it
again (log 48). -/
def execFrameForward (port : Nat) (f : Frame) (s : State) : Out :=
  if f.dstpkg.toNat == s.pkg || f.cls == 0#8 then .next s
  else if f.isJob && f.hops.toNat < 6 && s.noWayYet f then .next s
  else
    match s.linkIn port f with
    | (s, false) => .next s
    | (s, true) =>
      let g := { f with hops := f.hops + 1#8 }
      if f.isTrap then .next (if 7 ≤ g.hops.toNat then { s with stuck := s.stuck ++ [g] } else s.sendTrap g)
      else if 7 ≤ g.hops.toNat then .next (s.send (.log 4 port))
      else match s.route f.dstpkg.toNat with
      | none => .next (s.send (.log 4 port))
      | some p => .next (s.transmit p g)

end Sys2Proof.Machine
end

