-- ==== Sys2Proof/Machine/Time.lean ====
section
/-! DEFINITION. PTP, the bellwether's election and timetable pages (R344-R349, R363). -/

namespace Sys2Proof.Machine

/-! ### PTP (R344, R345) -/

def State.ptpPort (s : State) (p : Nat) : PtpPort := Store.get PtpPort.blank s.ptp p
def State.setPtp (s : State) (p : Nat) (x : PtpPort) : State := { s with ptp := Store.set PtpPort.blank s.ptp p x }

/-- The PTP fields of PORTCFG take effect at a message interval (R415). -/
def State.ptpSettings (s : State) (p : Nat) : State :=
  let c := (s.port p).cfg
  s.setPtp p { s.ptpPort p with on := c.getLsbD 1, oneStep := c.getLsbD 2, domain := (c.extractLsb' 3 7).toNat,
                                sync := (-(c.extractLsb' 10 4).toInt).toNat, pdelay := (-(c.extractLsb' 14 4).toInt).toNat }

/-- Nanoseconds of 2^-k s. -/
def intervalOf (k : Nat) : Nat := 1000000000 / 2 ^ k

/-- A port's next Sync interval has come: 2^logSyncInterval s after the last, its link being up (R345). -/
def State.syncDue (s : State) (p : Nat) : Bool :=
  s.portUp p && decide ((s.ptpPort p).syncAt.toNat + intervalOf (s.ptpPort p).sync ≤ s.time.toNat)

/-- Its next Pdelay_Req interval has come. -/
def State.reqDue (s : State) (p : Nat) : Bool :=
  s.portUp p && decide ((s.ptpPort p).reqAt.toNat + intervalOf (s.ptpPort p).pdelay ≤ s.time.toNat)

/-- A port takes a message: it runs PTP, its link is up and the domain is its own. -/
def State.ptpTakes (s : State) (p : Nat) (m : PtpMsg) : Bool :=
  s.portUp p && (s.ptpPort p).on && (s.ptpPort p).domain == m.domain

/-- PTP_SYNC_RECEIVE: the offset from the parent, by the link delay and the port's asymmetry. The first port on which a Sync
arrives is the parent's until holdover (log 17). -/
def execPtpSyncReceive (port : Nat) (m : PtpMsg) (s : State) : Out :=
  if !s.ptpTakes port m then .next s
  else
    let c := s.clock
    if c.parent.getD port != port then .next s
    else
      let off : Int := m.origin + (s.ptpPort port).delay + (s.port port).asym.toInt / 65536 - m.ingress
      .next { s with clock := { c with parent := some port, offset := off } }

/-- PTP_PDELAY_REQ_RECEIVE: the request is answered with its receipt time, and the answer's own time follows. -/
def execPtpPdelayReqReceive (port : Nat) (m : PtpMsg) (s : State) : Out :=
  if !s.ptpTakes port m then .next s
  else
    let a : PtpMsg := { m with reqReceipt := m.ingress, origin := 0, ingress := 0, oneStep := false }
    .next ((s.send (.ptp port 3 a)).send (.ptp port 4 { a with origin := s.time.toNat }))

/-- PTP_PDELAY_RESP_RECEIVE: kept until its follow-up. -/
def execPtpPdelayRespReceive (port : Nat) (m : PtpMsg) (s : State) : Out :=
  let x := s.ptpPort port
  if s.ptpTakes port m && m.seq == x.reqSeq then .next (s.setPtp port { x with pending := some m }) else .next s

/-- PTP_PDELAY_RESP_FOLLOW_UP: the mean link delay. -/
def execPtpPdelayRespFollowUp (port : Nat) (m : PtpMsg) (s : State) : Out :=
  let x := s.ptpPort port
  match x.pending with
  | none => .next s
  | some r =>
    if !s.ptpTakes port m || m.seq != r.seq then .next s
    else
      let d : Int := (((r.ingress : Int) - x.reqSent) - ((m.origin : Int) - r.reqReceipt)) / 2
      .next (s.setPtp port { x with delay := d, pending := none })

/-- PTP_MANAGEMENT_RECEIVE: received and discarded. -/
def execPtpManagementReceive (_port : Nat) (_m : PtpMsg) (s : State) : Out := .next s

/-- A Sync interval of a port: its settings are taken, and it sends a Sync, and for two-step its follow-up; the port of the
parent sends none. -/
def State.syncInterval (s : State) (port : Nat) : State :=
  let s := s.ptpSettings port
  let s := s.setPtp port { s.ptpPort port with syncAt := s.time }
  let x := s.ptpPort port
  if !x.on || s.clock.parent == some port then s
  else
    let m : PtpMsg := ⟨x.domain, x.syncSeq, s.time.toNat, 0, 0, x.oneStep⟩
    let s := (s.setPtp port { x with syncSeq := (x.syncSeq + 1) % 65536 }).send (.ptp port 0 m)
    if x.oneStep then s else s.send (.ptp port 1 m)

/-- PTP_SYNC_INTERVAL. -/
def execPtpSyncInterval (port : Nat) (s : State) : Out := if s.syncDue port then .next (s.syncInterval port) else .next s

/-- A Pdelay_Req interval of a port. -/
def State.reqInterval (s : State) (port : Nat) : State :=
  let s := s.ptpSettings port
  let s := s.setPtp port { s.ptpPort port with reqAt := s.time }
  let x := s.ptpPort port
  if !x.on then s
  else
    let s := s.setPtp port { x with reqSeq := (x.reqSeq + 1) % 65536, reqSent := s.time.toNat, pending := none }
    s.send (.ptp port 2 ⟨x.domain, (x.reqSeq + 1) % 65536, s.time.toNat, 0, 0, false⟩)

/-- PTP_PDELAY_REQ_INTERVAL. -/
def execPtpPdelayReqInterval (port : Nat) (s : State) : Out := if s.reqDue port then .next (s.reqInterval port) else .next s

/-- What is due of PTP: the message intervals of the ports that run it. -/
def State.duePtp (s : State) : Option State :=
  (List.range 24).findSome? fun p =>
    if !(s.ptpPort p).on && !(s.port p).cfg.getLsbD 1 then none
    else if s.syncDue p then some (s.syncInterval p)
    else if s.reqDue p then some (s.reqInterval p)
    else none

/-- Holdover is entered or left: the PF's vector 2, and the timetable unit tells the package OS (R344, R413). -/
def State.reportClock (s : State) : State := (s.msix 0 2).raiseEvent 0x101 0#64

/-- HOLDOVER_ENTER (R344). -/
def execHoldoverEnter (s : State) : Out :=
  if s.clock.holdover then .next s
  else .next { s with clock := { s.clock with holdover := true, parent := none, offset := 0 } }.reportClock

/-- A lock: the first of a cold start, within step 7, sets TIME; any other corrects only by slewing. -/
def State.lockClock (s : State) (tai : DWord) : State :=
  let first := s.start.busy && s.start.kind == 1 && s.start.step == 6 && !s.clock.locked
  let c := { s.clock with locked := true, holdover := false, offset := if first then 0 else (tai.toNat : Int) - s.time.toNat }
  let was := s.clock.holdover
  let s := { s with clock := c, time := if first then tai else s.time }
  if was then s.reportClock else s

/-- PTP_LOCK (R344). -/
def execPtpLock (tai : BitVec 64) (s : State) : Out := .next (s.lockClock tai)

/-! ### The election (R347) -/

/-- HEARTBEAT_SEND. -/
def execHeartbeatSend (s : State) : Out :=
  let e := s.election
  if e.candidates.contains s.pkg then
    .next (s.send (.heartbeat e.epoch (if e.winner == some s.pkg then some e.epoch else none)))
  else .next s

/-- A higher EPOCH becomes known; its winner is not. -/
def Election.know (e : Election) (n : Nat) : Election := if e.epoch < n then { e with epoch := n, winner := none } else e

/-- The TIME of the last heartbeat of a package. -/
def Election.lastBeat (e : Election) (src : Nat) : Option DWord := (e.heard.find? fun x => x.1 == src).map (·.2)

/-- HEARTBEAT_RECEIVE, from a candidate: only candidates send heartbeats. -/
def execHeartbeatReceive (src epoch : Nat) (won : Option Nat) (s : State) : Out :=
  if !s.election.candidates.contains src then .next s
  else
  let e := { s.election with heard := (src, s.time) :: s.election.heard.filter fun x => x.1 != src }.know epoch
  let e := match won with
    | some n => let e := e.know n
                if n == e.epoch then { e with winner := some src } else e
    | none => e
  .next { s with election := e }

/-- A package is still heard: fewer than 3 of its heartbeats, one each 1 ms, have been missed. -/
def Election.hears (e : Election) (time : DWord) (c : Nat) : Bool :=
  match e.lastBeat c with
  | some t => decide (time.toNat ≤ t.toNat + 3000000)
  | none => false

/-- The lowest-numbered candidate that a package still hears, itself among them. -/
def Election.choice (e : Election) (me : Nat) (time : DWord) : Option Nat :=
  (e.candidates.filter fun c => c == me || e.hears time c).min?

/-- A vote counted by a candidate: with more than half of the pod's packages it is bellwether. -/
def Election.count (e : Election) (me src epoch : Nat) : Election :=
  if epoch < e.voteEpoch || !e.pod.contains src then e
  else
    let vs := if epoch == e.voteEpoch then e.votes else []
    let vs := if vs.contains src then vs else src :: vs
    let e := { e with votes := vs, voteEpoch := epoch }
    if e.pod.length < 2 * vs.length && e.epoch ≤ epoch then { e with epoch := epoch, winner := some me } else e

/-- VOTE_REQUEST_RECEIVE: a vote at most once for each EPOCH, and only above every EPOCH voted in. -/
def State.voteFor (s : State) (epoch : Nat) : State :=
  let e := s.election.know epoch
  if epoch ≤ e.voted then { s with election := e }
  else match e.choice s.pkg s.time with
  | none => { s with election := e }
  | some c =>
    let e := { e with voted := epoch }
    let e := if c == s.pkg then e.count s.pkg s.pkg epoch else e
    { s with election := e }.send (.vote epoch c)

def execVoteRequestReceive (_src epoch : Nat) (s : State) : Out := .next (s.voteFor epoch)

/-- HEARTBEAT_LOSS: the bellwether is no longer heard; the next EPOCH is proposed, and this package votes too. -/
def execHeartbeatLoss (s : State) : Out :=
  let e := s.election
  let n := e.epoch + 1
  let s := { s with election := { e with heard := e.heard.filter fun x => some x.1 != e.winner } }
  .next ((s.send (.voteRequest n)).voteFor n)

/-- What is due of the election (R347): a candidate's heartbeat at each multiple of 1 ms, and the loss of a bellwether of which
3 consecutive heartbeats have been missed. -/
def State.dueElection (s : State) : Option State :=
  let e := s.election
  if s.start.ready && e.candidates.contains s.pkg && s.time.toNat % 1000000 == 0 && e.beat != some s.time then
    some { s.send (.heartbeat e.epoch (if e.winner == some s.pkg then some e.epoch else none)) with
      election := { e with beat := some s.time } }
  else match e.winner with
    | some w => if w != s.pkg && (e.lastBeat w).isSome && !e.hears s.time w then
        (let n := e.epoch + 1
         some (({ s with election := { e with heard := e.heard.filter fun x => x.1 != w } }.send (.voteRequest n)).voteFor n))
        else none
    | none => none

/-- VOTE_RECEIVE. -/
def execVoteReceive (src epoch cand : Nat) (s : State) : Out :=
  let e := s.election
  if cand == s.pkg && e.candidates.contains s.pkg then .next { s with election := e.count s.pkg src epoch } else .next s

/-! ### Timetable pages (R348, R349) -/

/-- Entry n of a page. -/
def pageEntryOf (bs : List Byte) (k : Nat) : TEntry :=
  let n := fun (o m : Nat) => recNat bs (0x20 + 32 * k + o) m
  { start := BitVec.ofNat 64 (n 0 8), job := BitVec.ofNat 32 (n 8 4), seq := BitVec.ofNat 32 (n 12 4),
    len := BitVec.ofNat 32 (n 16 4), part := n 20 1, urgent := n 21 1 % 2 == 1, inc := n 22 1 }

/-- An entry meets R349. -/
def entryMeets (bs : List Byte) (k : Nat) : Bool :=
  let n := fun (o m : Nat) => recNat bs (0x20 + 32 * k + o) m
  decide (100000 ≤ n 16 4 ∧ 1 ≤ n 20 1 ∧ n 20 1 ≤ 63 ∧ n 21 1 ≤ 1) && n 23 9 == 0

/-- Entries in increasing START, and SEQ increasing across the entries of one partition. -/
def entriesRise : List TEntry → Bool
  | [] => true
  | e :: r => (match r with
      | [] => true
      | x :: _ => decide (e.start ≤ x.start)) && r.all (fun x => x.part != e.part || decide (e.seq < x.seq)) && entriesRise r

def pageEntries (bs : List Byte) : List TEntry := (List.range (recNat bs 0x0A 1)).map (pageEntryOf bs)

/-- The form of a page. -/
def pageForm (bs : List Byte) : Bool :=
  let n := recNat bs
  let c := n 0x0A 1
  bs.length == 16384 && n 0 4 == 0x54544247 && decide (1 ≤ c) && n 0x0B 5 == 0 && n 0x18 8 == 0 &&
    n (0x20 + 32 * c) (0x2000 - 0x20 - 32 * c) == 0 && n 0x3213 (16384 - 0x3213) == 0 &&
    (List.range c).all (entryMeets bs) && entriesRise (pageEntries bs)

/-- The timetable unit accepts a page: its form, its EPOCH and PUBLISHER (R347), its signature. -/
def State.pageOk (s : State) (bs : List Byte) : Bool :=
  let pub := recNat bs 8 2
  pageForm bs && recNat bs 4 4 == s.election.epoch && s.election.winner == some pub &&
    Config.verifies pub (sha3 (bs.take 0x2000)) ((bs.drop 0x2000).take 4627)

/-- TIMETABLE_PAGE_RECEIVE: an accepted page stands at its physical address and its entries can be armed; a rejected one is
discarded and logged. Both raise the PF's vector 1 and the timetable unit's event. -/
def execTimetablePageReceive (pa : Nat) (page : List Byte) (s : State) : Out :=
  let tell := fun (s : State) => (s.msix 0 1).raiseEvent 0x101 0#64
  if s.pageOk page then
    (let s := s.physWrite 0 pa page
     .next (tell { s with pages := (s.pages.filter fun p => p.pa != pa) ++ [⟨pa, pageEntries page⟩] }))
  else .next (tell (s.send (.log 5 pa)))

/-- URGENT_REQUEST_RECEIVE (R363): the bellwether publishes a page with one urgent entry, its START at least 10 µs after
publication (log 18). -/
def execUrgentRequestReceive (part : Nat) (job : BitVec 32) (inc : BitVec 8) (len : BitVec 32) (s : State) : Out :=
  if s.election.winner != some s.pkg then .next s
  else
    let seq := ((s.part part).armed.getD 0#32) + 1#32
    let body := fillTo 0x2000 (fillTo 0x20 (leBytes 4 0x54544247 ++ leBytes 4 s.election.epoch ++ leBytes 2 s.pkg ++
        leBytes 1 1 ++ leBytes 5 0 ++ leBytes 8 s.time.toNat) ++
      leBytes 8 (s.time.toNat + 10000) ++ leBytes 4 job.toNat ++ leBytes 4 seq.toNat ++ leBytes 4 len.toNat ++ leBytes 1 part ++
      leBytes 1 1 ++ [inc] ++ leBytes 9 0)
    let g := s.signature (sha3 body)
    .next (g.1.send (.page (fillTo 16384 (body ++ g.2))))

end Sys2Proof.Machine
end

