-- ==== Sys2Proof/Machine/Switch.lean ====
section
/-! DEFINITION. The timetable switch and the switch-out of a core for its trapped teams (R188, R197, R267-R269, R281, R287,
R312, R349-R358, R360, R361, R367, R373, R376, R386, R402). -/

namespace Sys2Proof.Machine

/-! ### Cores of a partition -/

/-- Physical cores with a context of a partition. -/
def State.residents (s : State) (part : Nat) : List (Nat × Core) :=
  s.cores.filter fun e => decide (e.1 < coreCount) && e.2.part == part

/-- A core context is in the course of the switch sequence; `out` tells a switch-out of R373. -/
def CoreStep.leaving : CoreStep → Option Bool
  | .running => none
  | .halting _ o => some o
  | .draining _ _ o => some o
  | .saving _ _ _ _ o => some o

/-- TIME of an entry's end. -/
def TEntry.stop (e : TEntry) : DWord := e.start + e.len.setWidth 64

/-- The context of a core is not the one an entry names (R352). -/
def Core.differs (c : Core) (e : TEntry) : Bool := !(c.job == e.job && c.inc == e.inc)

/-! ### Injection stop and START (R350-R352, R360) -/

/-- The jobs of a partition that an entry puts out. -/
def State.outgoing (s : State) (e : TEntry) : List (Word × Nat) :=
  (((s.residents e.part).filter fun c => c.2.differs e).map fun c => (c.2.job, c.2.inc)).eraseDups

/-- Injection of the outgoing jobs stops, and that of the incoming one begins. -/
def State.stopInjection (s : State) (e : TEntry) : State :=
  let p := s.part e.part
  let new := (s.outgoing e).filter fun j => !p.stops.contains j
  s.setPart e.part { p with stops := p.stops ++ new }

/-- INJECTION_STOP (R360): at START - 2 µs of an armed entry. -/
def execInjectionStop (k : Nat) (s : State) : Out :=
  match Store.find k s.arms with
  | none => .next s
  | some e => if e.start.toNat ≤ s.time.toNat + 2000 then .next (s.stopInjection e) else .next s

/-- An armed entry's turn has come: START has passed, no earlier armed entry of the partition is waiting, and the last
switch of its cores has finished (R358). -/
def State.startDue (s : State) (e : TEntry) : Bool :=
  decide (e.start ≤ s.time) && (s.part e.part).switch.isNone &&
    s.arms.all fun x => x.2.part != e.part || decide (e.start ≤ x.2.start)

/-- The entry whose slot record is open. -/
def Partition.openEntry (p : Partition) : Option TEntry :=
  match p.force with
  | some f => if f.closed then none else some f.entry
  | none => none

/-- A usage record of KIND 2 of the slot that ends, unless it is closed already (R402). -/
def State.closeSlot (s : State) (part : Nat) : State :=
  match (s.part part).openEntry with
  | some e => (s.closeUsage part 2 (some e)).1
  | none => s

/-- SWITCH_START (R352, step 2): the outgoing contexts stop at an instruction boundary, SLOT takes the entry's SEQ, and the
saved contexts of the entry's job are to be restored. Where nothing goes out, the slot's record closes at once. -/
def State.switchStart (s : State) (k : Nat) (e : TEntry) : State :=
  let s := { s with arms := Store.erase k s.arms }.stopInjection e
  let p := s.part e.part
  let go := (s.residents e.part).filter fun c => c.2.differs e && c.2.step == .running
  let start := if e.start < p.switched then s.time else e.start
  let s := if go.isEmpty then s.closeSlot e.part else s
  let s := go.foldl (fun (s : State) c => s.setCore c.1 { c.2 with step := .halting start false }) s
  let back := p.images.any fun x => x.2.job == e.job && x.2.inc == e.inc && !x.2.out
  let p' := s.part e.part
  s.setPart e.part
    { p' with stops := p'.stops.filter (· != (e.job, e.inc)), force := some ⟨e, false, false⟩,
              switch := if go.isEmpty && !back then none else some ⟨e, start, !go.isEmpty, p.openEntry, p.slotSeq⟩ }

def execSwitchStart (k : Nat) (s : State) : Out :=
  match Store.find k s.arms with
  | none => .next s
  | some e => if s.startDue e then .next (s.switchStart k e) else .next s

/-! ### The halt (R188, R267, R287, R353) -/

/-- An MMA that waits, in the end, on a foal that freezes is saved unstarted (R188); `n` bounds the depth. -/
def State.savedUnstarted (s : State) (n : Nat) (f : Foal) : Bool :=
  match n with
  | 0 => false
  | m + 1 =>
    let waits := fun (x : Foal) => x.live && (x.kind == .copy || x.kind == .coll || (x.kind == .matrix && !x.regdest) ||
      (x.kind == .matrix && x.regdest && s.savedUnstarted m x))
    !f.started && ((f.preds ++ f.dep.toList).any (fun i => match s.foalById i with
        | some e => waits e.2
        | none => false) ||
      s.foals.any fun e => e.2.wg == f.wg && e.2.kind == .matrix && decide (e.2.id < f.id) && waits e.2 &&
        e.2.writes.any fun p => f.reads.contains p || f.writes.contains p)

/-- The halt of a core is complete: no step is in its engine and no MMA is left that can run. -/
def State.halted (s : State) (core : Nat) : Bool :=
  (s.core core).engine.isNone &&
    (s.foalsOn core).all fun e => !e.2.live || e.2.kind != .matrix || !e.2.regdest || s.savedUnstarted 257 e.2

/-- The halt is complete for a core: for every core of the partition that a switch halts, for the one core that R373 switches
out (R353). DEDUCED: when a halt is over within its bounds is left open; it completes by its event, when the package goes on by
itself, and at the latest 4 µs after START (log 71). -/
def State.haltDone (s : State) (core : Nat) (out : Bool) : Bool :=
  if out then s.halted core
  else (s.residents (s.core core).part).all fun c => match c.2.step with
    | .halting _ false => s.halted c.1
    | .halting _ true => true
    | .running => true
    | .draining _ _ _ => true
    | .saving _ _ _ _ _ => true

/-- FOAL_FREEZE (R197, R267): a started TMMA or COPY freezes, and a COLL that its chain, its dependence and its team let run,
even before its first chunk (R340; DEDUCED, log 75). -/
def State.freeze (s : State) (k : Nat) (f : Foal) : State :=
  if f.status != .running then s
  else match f.job with
    | .tmma j => if f.started then (s.writeStep f).putFoal k { f with status := .frozen, job := .tmma { j with frozen := true } } else s
    | .copy _ => if f.started then s.putFoal k { f with status := .frozen } else s
    | .coll _ => if f.started || (s.startable f && s.released f) then s.putFoal k { f with status := .frozen, started := true } else s
    | .mma _ => s
    | .batch _ => s

/-- The grant of a declaration returns; what is left of its window is kept (R287). -/
def PowerDecl.keep (p : PowerDecl) (time : DWord) : PowerDecl := { p with len := p.left time, kept := true, ext := none, doomed := false }

def State.keepPower (s : State) (core : Nat) : State :=
  (s.wgsOn core).foldl (fun (s : State) w => (s.liveTeams w.2).foldl (fun (s : State) h =>
    s.setTeam h { s.team h with power := (s.team h).power.map fun p => p.keep s.time }) s) s

/-- HALT_COMPLETE (R352, step 3): foals freeze and the drain window opens. -/
def State.haltComplete (s : State) (core : Nat) (start : DWord) (out : Bool) : State :=
  let s := s.cancelMatrix core
  let s := (s.foalsOn core).foldl (fun (s : State) e => match s.foalAt e.1 with
    | some f => s.freeze e.1 f
    | none => s) s
  let s := s.keepPower core
  (s.setCore core { s.core core with step := .draining start s.time out }).sweep

def execHaltComplete (core : Nat) (s : State) : Out :=
  match (s.core core).step with
  | .halting start out => if s.haltDone core out then .next (s.haltComplete core start out) else .next s
  | .running => .next s
  | .draining _ _ _ => .next s
  | .saving _ _ _ _ _ => .next s

/-! ### The drain window (R354-R356) -/

/-- A plain or ordered global load with lanes that have not landed. -/
def Req.replayable (r : Req) : Bool := r.kind == .load && r.space == .global && !r.todo.isEmpty

/-- A later write of the team to bytes that a load has still to read: it waits for the load, and so does the save (R163). -/
def Team.awaited (t : Team) (r : Req) : Bool :=
  t.reqs.any fun x => decide (r.id < x.id) && x.kind != .load && r.todo.any fun q => x.touches .global q.bytes

/-- The newest unlanded loads of a team become replay packets, up to 16 with those it holds already; older ones, and those
that a later write of the team waits for, are waited for (R356; DEDUCED, log 73). -/
def Team.classify (t : Team) (cgen : Word) : Team :=
  let ls := t.reqs.filter fun r => r.replayable && !t.awaited r
  let new := ls.drop (ls.length - (16 - t.replay.length))
  { t with reqs := t.reqs.filter fun r => !(new.any fun x => x.id == r.id), replay := t.replay ++ new.map fun r => (r, cgen),
           replayed := [], stalled := none, walked := [] }

/-- The reads of a copy still outstanding are dropped; its sectors are issued again after the restore (R268). -/
def Foal.dropReads (f : Foal) : Foal :=
  match f.job with
  | .copy j => { f with job := .copy { j with out := [], next := j.restart, bad := none, idx := none } }
  | .mma _ => f
  | .tmma _ => f
  | .batch _ => f
  | .coll _ => f

/-- DRAIN_WINDOW_CLOSE (R352, step 4): scratchpad accesses have landed, loads become replay packets, CGEN increments. -/
def State.closeWindow (s : State) (core : Nat) (start halted : DWord) (out : Bool) : State :=
  let c := s.core core
  let s := (s.harts core).foldl (fun (s : State) h =>
    let s := s.settle h
    s.setTeam h ((s.team h).classify c.cgen)) s
  let s := (s.foalsOn core).foldl (fun (s : State) e => if e.2.status == .frozen then s.putFoal e.1 e.2.dropReads else s) s
  (s.setCore core { s.core core with cgen := c.cgen + 1, step := .saving start halted s.time none out }).sweep

/-- The window closes 2 µs after the halt was complete. -/
def windowOver (time halted : DWord) : Bool := decide (halted.toNat + 2000 ≤ time.toNat)

def execDrainWindowClose (core : Nat) (s : State) : Out :=
  match (s.core core).step with
  | .draining start halted out =>
    if windowOver s.time halted then .next (s.closeWindow core start halted out) else .next s
  | .running => .next s
  | .halting _ _ => .next s
  | .saving _ _ _ _ _ => .next s

/-! ### The save (R354, R357, R364, R386, R402) -/

/-- Nothing that the save waits for is outstanding: writes are acknowledged, atomics and waited-for loads have landed, and
so has every lane copy. -/
def State.saveReady (s : State) (core : Nat) : Bool :=
  (s.harts core).all fun h => (s.team h).spent

/-- Halt overrun in ns (R357). -/
def overrunOf (start halted closed landed : DWord) : Nat := (halted.toNat - start.toNat) + (landed.toNat - closed.toNat)

/-- The slot's record closes with the last save, and a switch ends when every core has left it and every context that a
core can accept has been restored. -/
def State.afterSave (s : State) (part : Nat) : State :=
  let p := s.part part
  match p.switch with
  | none => s
  | some w =>
    if w.record && (s.residents part).all fun c => c.2.step.leaving != some false then
      (let s := (s.closeUsage part 2 w.prev).1
       s.setPart part { s.part part with switch := some { w with record := false } })
    else s

/-- A context is killed where it stands on its core, and its core leaves the sequence. -/
def State.killCore (s : State) (core : Nat) : State :=
  let s := s.killContext core
  ((s.setCore core { s.core core with step := .running }).sweep).renewImage core

/-- The workgroups of a core are saved in a slot: their steps of its SRAM return (R60), the barriers of frozen foals are marked
(R267), and the clauses of their teams are fetched again after the restore (R26). -/
def State.markSaved (s : State) (core n : Nat) : State :=
  let s := (s.barriersOn core fun f => f.status == .frozen).foldl (fun (s : State) b => s.markFrozen b true) s
  let s := (s.teamsOn core).foldl (fun (s : State) h =>
    s.setCtx h { s.ctx h with clause := (s.ctx h).clause.map fun c => { c with refetch := true } }) s
  (s.wgsOn core).foldl (fun (s : State) w => s.setWg w.1 { w.2 with saved := some n, steps := [] }) s

/-- CONTEXT_SAVE_COMPLETE (R352, step 5): the context goes to the lowest free slot; without one it is killed (R386). Its core
entry keeps its step while it is saved. -/
def State.saveContext (s : State) (core : Nat) (start halted closed landed : DWord) (out : Bool) : State :=
  let c := s.core core
  let part := c.part
  -- a context of which nothing is left is not saved: its core is free
  if (s.wgsOn core).isEmpty && (s.foalsOn core).isEmpty then (s.freeCore core).afterSave part
  else
  let extra := if out then 0 else overrunOf start halted closed landed
  let s := s.meterAdd part 9 extra
  let p := s.part part
  match (List.range p.slots).find? fun n => (p.image n).isNone with
  | none => (s.killCore core).afterSave part
  | some n =>
    let vc := virtualCore part n
    let seq := match p.switch with
      | some w => if out then p.slotSeq else w.seq
      | none => p.slotSeq
    let x : Image :=
      { job := c.job, inc := c.inc, state := 1, core := core, cgen := c.cgen, start := start, slotSeq := seq, halted := halted,
        wgs := (s.wgsOn core).map (·.1), overrun := c.overrun + extra, out := out }
    let s := (s.setCore core { c with overrun := c.overrun + extra }).markSaved core n
    let s := (s.moveCore core vc).putImage part n x
    let s := (s.writeDirectory part n).writeImage part n
    ((s.putImage part n { x with state := 2 }).writeDirectory part n).afterSave part

def execContextSaveComplete (core : Nat) (s : State) : Out :=
  match (s.core core).step with
  | .saving start halted closed landed out =>
    if core < coreCount && s.saveReady core then .next (s.saveContext core start halted closed (landed.getD s.time) out) else .next s
  | .running => .next s
  | .halting _ _ => .next s
  | .draining _ _ _ => .next s

/-! ### The restore (R352 step 6, R357, R361, R367, R386) -/

/-- A physical core that is free for a partition. -/
def State.restorable (s : State) (part core : Nat) : Bool :=
  decide (core < coreCount) && (s.part part).clusters.getLsbD (clusterOf core) && (s.core core).part == 0

/-- The job of an image may run now: it is that of the entry in force. -/
def Partition.runsImage (p : Partition) (x : Image) : Bool :=
  match p.force with
  | none => true
  | some f => x.job == f.entry.job && x.inc == f.entry.inc

/-- A slot that the entry in force takes while its own slot lasts, on a core that can accept it: the core of the halt while that
is free. -/
def State.mayRestore (s : State) (part n core : Nat) : Bool :=
  match (s.part part).image n with
  | none => false
  | some x =>
    x.state == 2 && !x.out && (match (s.part part).force with
        | some f => !f.ended
        | none => false) && (s.part part).runsImage x && s.restorable part core &&
      (core == x.core || !s.restorable part x.core)

/-- A foal thaws, with the priority, chain place and dependence it held (R269). -/
def State.thaw (s : State) (k : Nat) (f : Foal) : State :=
  if f.status != .frozen then s else s.putFoal k { f with status := .running }

/-- A declaration that had time left is pending again, and aged (R287). -/
def PowerDecl.again (p : PowerDecl) (time : DWord) : Option PowerDecl :=
  if p.len == 0 then none
  else some { p with state := 1, t0 := time, onset := 0, start := 0#64, wait := 16, ext := none, doomed := false, kept := false }

/-- A team as it resumes: guest copies count as older than an acquire (R312), a TIMERA that has passed since START, from which
the halt wins (R358), is late (R126). -/
def Team.restored (t : Team) (start time : DWord) (now : Nat) : Team :=
  { t with fresh := now, late := t.late || (match t.timera with
                                            | some e => decide (start ≤ e ∧ e ≤ time)
                                            | none => false),
           power := t.power.bind fun p => p.again time }

/-- The acknowledgement of the last chunk combined is sent once more (R361). -/
def State.ackAgain (s : State) (k : Nat) (f : Foal) : State :=
  match f.job with
  | .coll j => if f.live then s.sendAck k f j else s
  | .mma _ => s
  | .tmma _ => s
  | .copy _ => s
  | .batch _ => s

/-- The reply that a team received while it was saved takes effect (R243, R358). -/
def State.actOnReply (s : State) (h : Nat) : State :=
  match (s.team h).trap, (s.team h).reply with
  | some r, some c => s.replyAct h r c
  | some _, none => s
  | none, _ => s

/-- The workgroups of a restored context: resident now, on their new logical core, in the lowest free steps of its SRAM (R60). -/
def State.placeRestored (s : State) (part core : Nat) : State :=
  (s.wgsOn core).foldl (fun (s : State) w =>
    let pop := match (s.entity w.2.entity).launch with
      | some r => (r.popped, r.owned)
      | none => (0#64, (s.part part).clusters)
    s.setWg w.1 { w.2 with saved := none, since := s.now, lcore := (s.part part).logicalCore core pop.1 pop.2,
                           steps := (s.freeSteps core).take (w.2.launch.spkib / 64) }) s

/-- What the die of a context had read before it was saved, the die it comes back to has read (R301, R312). -/
def State.carrySeen (s : State) (old new : Nat) : State :=
  let a := Store.get [] s.dieSeen old
  let b := Store.get [] s.dieSeen new
  { s with dieSeen := Store.set [] s.dieSeen new (b ++ a.filter fun i => !b.contains i) }

/-- CONTEXT_RESTORE (R367): the digest is verified first; a context whose image fails it is killed. -/
def State.restoreContext (s : State) (part n core : Nat) (x : Image) : State :=
  let vc := virtualCore part n
  let s := s.usePhys part ((s.part part).slotBase n) (4096 + ((s.imageRegions vc).flatten).length)
  if !s.imageOk part n then ((s.killContext vc).sweep).renewImage vc
  else
    let s := (s.putImage part n { x with state := 3 }).writeDirectory part n
    let s := (((s.moveCore vc core).dropL1 core).freeImage part n).carrySeen (dieOfCore x.core) (dieOfCore core)
    let c := s.core core
    let hold := if c.overrun == 0 then none else some (s.time + BitVec.ofNat 64 c.overrun)
    let s := s.setCore core { c with step := .running, overrun := 0, hold := hold, unissued := true }
    let s := s.placeRestored part core
    let s := (s.barriersOn core fun f => f.live).foldl (fun (s : State) b => s.markFrozen b false) s
    let s := (s.wgsOn core).foldl (fun (s : State) w => s.barriersCheck w.1) s
    let s := (s.teamsOn core).foldl (fun (s : State) h => s.setTeam h ((s.team h).restored x.start s.time s.now)) s
    let s := s.tick
    let s := (s.foalsOn core).foldl (fun (s : State) e => s.thaw e.1 e.2) s
    let s := s.penDeliver part c.job c.inc
    let s := (s.foalsOn core).foldl (fun (s : State) e => s.ackAgain e.1 e.2) s
    let s := (s.teamsOn core).foldl (fun (s : State) h => (s.actOnReply h).reissueAll h) s
    let s := (s.teamsOn core).foldl (fun (s : State) h => (s.retranslate h).reread h) s
    s.sweep

def execContextRestore (part n core : Nat) (s : State) : Out :=
  if s.mayRestore part n core then
    (match (s.part part).image n with
     | some x => .next (s.restoreContext part n core x)
     | none => .next s)
  else .next s

/-- Step 6 is over: no core of the partition is in the sequence, and no context waits that a core can accept. -/
def State.switchOver (s : State) (part : Nat) : Bool :=
  let p := s.part part
  (s.residents part).all (fun c => c.2.step.leaving != some false) &&
    p.images.all fun x => x.2.out || !p.runsImage x.2 ||
      (List.range coreCount).all fun c => !s.mayRestore part x.1 c

/-- The switch of a partition ends. -/
def State.endSwitch (s : State) (part : Nat) : State :=
  s.setPart part { s.part part with switch := none, switched := s.time }

/-- OVERRUN_HOLD_END (R357). -/
def execOverrunHoldEnd (core : Nat) (s : State) : Out :=
  let c := s.core core
  match c.hold with
  | some t => if t ≤ s.time then .next (s.setCore core { c with hold := none }) else .next s
  | none => .next s

/-- Cores whose halt is not complete 20 µs after START (R357). -/
def State.lateHalts (s : State) (part : Nat) : List (Nat × DWord) :=
  (s.residents part).filterMap fun c => match c.2.step with
    | .halting start false => if start.toNat + 20000 ≤ s.time.toNat && !s.halted c.1 then some (c.1, start) else none
    | .halting _ true => none
    | .running => none
    | .draining _ _ _ => none
    | .saving _ _ _ _ _ => none

/-- SWITCH_WATCHDOG_EXPIRE (R357): the time that a kill took is charged too. -/
def State.killLate (s : State) (part : Nat) : State :=
  ((s.lateHalts part).foldl (fun (s : State) c =>
    (s.meterAdd part 9 (s.time.toNat - c.2.toNat)).killCore c.1) s).afterSave part

def execSwitchWatchdogExpire (part : Nat) (s : State) : Out := .next (s.killLate part)

/-! ### Slot end and periodic records (R351, R402) -/

/-- The slot in force has come to its end, and no armed entry of the partition starts at that time. -/
def State.slotDue (s : State) (part : Nat) : Bool :=
  match (s.part part).force with
  | none => false
  | some f =>
    (s.part part).live && !f.ended && decide (f.entry.stop ≤ s.time) &&
      s.arms.all fun x => x.2.part != part || x.2.start != f.entry.stop

/-- SLOT_END (R351): the record of the slot closes; the context runs on. -/
def State.slotEnd (s : State) (part : Nat) : State :=
  let s := s.closeSlot part
  s.setPart part { s.part part with force := (s.part part).force.map fun f => { f with ended := true, closed := true } }

def execSlotEnd (part : Nat) (s : State) : Out := if s.slotDue part then .next (s.slotEnd part) else .next s

/-- A partition that runs without entries has a record every 100 ms of TIME. -/
def State.periodDue (s : State) (part : Nat) : Bool :=
  let p := s.part part
  p.live && s.time.toNat % 100000000 == 0 && decide (p.usage.tend < s.time) && match p.force with
    | none => true
    | some f => f.ended

/-- USAGE_RECORD_PERIODIC. -/
def execUsageRecordPeriodic (part : Nat) (s : State) : Out :=
  if s.periodDue part then .next (s.closeUsage part 2 none).1 else .next s

/-! ### Switching out a core (R373) -/

/-- Its trapped teams, and those parked awaiting the fault server, exceed PARKTH percent of its teams. -/
def State.mustSwitchOut (s : State) (core : Nat) : Bool :=
  let ts := s.teamsOn core
  let n := (ts.filter fun h => (s.ctx h).status == .trapped || (s.ctx h).status == .parked .server).length
  decide (core < coreCount) && (s.core core).part != 0 && (s.core core).step == .running &&
    decide (s.parkth.toNat * ts.length < 100 * n)

/-- CORE_SWITCH_OUT. -/
def execCoreSwitchOut (core : Nat) (s : State) : Out :=
  if s.mustSwitchOut core then .next (s.setCore core { s.core core with step := .halting s.time true }) else .next s

/-- Every trapped team of a saved context has its reply. -/
def State.allReplied (s : State) (part n : Nat) : Bool :=
  (s.teamsOn (virtualCore part n)).all fun h => (s.ctx h).status != .trapped || (s.team h).reply.isSome

/-- A context that was switched out may come back to a core. -/
def State.maySwitchIn (s : State) (part n core : Nat) : Bool :=
  match (s.part part).image n with
  | none => false
  | some x =>
    x.state == 2 && x.out && (s.part part).runsImage x && (s.part part).switch.isNone && s.allReplied part n &&
      s.restorable part core

/-- CORE_SWITCH_IN: restored onto any core of the partition that can accept it. -/
def execCoreSwitchIn (part n core : Nat) (s : State) : Out :=
  if s.maySwitchIn part n core then
    (match (s.part part).image n with
     | some x => .next (s.restoreContext part n core x)
     | none => .next s)
  else .next s

end Sys2Proof.Machine
end

