-- ==== Sys2Proof/Machine/Power.lean ====
section
/-! DEFINITION. What the admission units and the package power controller do at a control interval boundary, and the windows
they grant (R274-R287, R400, R411). -/

namespace Sys2Proof.Machine

/-! ### Bands, boost and frequency (R284) -/

/-- Thresholds of bands 1 to 7. -/
def bandTemps : List Nat := [50, 60, 70, 80, 90, 95, 100]

/-- TBAND for a temperature: a band is left downward only 2 °C below its threshold. -/
def nextBand (old temp : Nat) : Nat :=
  let up := (bandTemps.filter fun b => decide (b ≤ temp)).length
  let stay := ((bandTemps.take old).filter fun b => decide (b < temp + 2)).length
  max up stay

/-- BOOSTQ in µJ after an interval. -/
def nextBoost (c : Cluster) : Nat :=
  if 68 < c.fstep then c.boost - 5 * (c.fstep - 68)
  else if c.thr == 0 then min 50000 (c.boost + 2) else c.boost

/-- Target of FSTEP; `thr` tells that the ended interval was throttled. -/
def fstepTarget (boost tband f16 : Nat) (thr enabled : Bool) : Nat :=
  let t := if 0 < boost && tband ≤ 5 && !thr && enabled && f16 == 16 then 84 else 68
  if tband == 7 then min t 48 else t

/-- FSTEP moves by at most 4 toward its target, and does not rise while throttled. -/
def nextFstep (old target : Nat) (thr : Bool) : Nat :=
  if old < target then (if thr then old else min target (old + 4)) else max target (max 20 (old - 4))

/-! ### Throttling (R282) -/

/-- Throttle level for the coming interval: measured energy in nJ, budget in use in units of 1,250 nJ. -/
def throttleLevel (energy budget tband : Nat) : Nat :=
  let b := 1250 * budget
  if tband == 7 || 3 * b < 2 * energy then 4
  else if 5 * b < 4 * energy then 3
  else if b < energy then 2 else 0

/-! ### The package factor (R285) -/

/-- The controller after an interval of a measured power. -/
def Controller.next (c : Controller) (power : Nat) (time : DWord) : Controller :=
  let ps := (power :: c.powers).take 10000
  let ex := if 6400 < power then c.excursion + 1 else 0
  let cut := decide (7200 < power) || decide (800 ≤ ex)
  let held := cut || (c.held && decide (6400 < power))
  let high := decide (6200 * ps.length < ps.foldl (· + ·) 0)
  let f := if held then 4 else if high then max 4 (c.f16 - 1) else min 16 (c.f16 + 1)
  { f16 := f, powers := ps, excursion := ex, held := held, boundary := time }

/-! ### Energy (R400) -/

/-- Energy in 2^-20 nJ is added to what a partition has been charged; whole mJ go to its meter. -/
def State.charge (s : State) (part n : Nat) : State :=
  let p := s.part part
  let c := p.usage.charge + n
  let mj := 10 ^ 6 * 2 ^ 20
  (s.setPart part { p with usage := { p.usage with charge := c % mj } }).meterAdd part 7 (c / mj)

/-- A cluster's measured energy in nJ is divided among the partitions in proportion to their clocks there. -/
def State.shareEnergy (s : State) (c energy : Nat) : State :=
  let x := s.cluster c
  let total := x.counts.foldl (fun a e => a + e.2) 0
  let s := x.counts.foldl (fun (s : State) e => s.charge e.1 (energy * 2 ^ 20 * e.2 / total)) s
  s.setCluster c { s.cluster c with counts := [] }

/-- HBM4 and fabric bytes since the last boundary are charged at the rates of the configuration record, and die-to-die
bytes, whose number the manual leaves open (log 5). -/
def State.chargeBytes (s : State) (part : Nat) : State :=
  let p := s.part part
  let m := fun (k : Nat) => (Store.get 0#64 p.meters k).toNat
  let d2d := (Config.freeValue s.freeCtr).toNat % 2 ^ 32
  let n := 1000 * ((m 5 - p.usage.hbm) * Config.energyRate 0 + (m 6 - p.usage.fabric) * Config.energyRate 1 +
    d2d * Config.energyRate 2)
  ({ s with freeCtr := s.freeCtr + 1 }.setPart part { p with usage := { p.usage with hbm := m 5, fabric := m 6 } }).charge part n

/-! ### Declarations (R275-R279) -/

/-- The teams of a cluster whose grants count: a halt returns them (R287). -/
def State.admitted (s : State) (c : Nat) : List (Nat × Team) :=
  (s.clusterTeams c).filter fun e => match e.2.power with
    | some p => !p.kept
    | none => false

/-- End of a granted window. -/
def PowerDecl.stop (p : PowerDecl) : Nat := p.start.toNat + 1000 * p.len

/-- A window that has ended by a TIME: it holds nothing in the clock in which it ends (R275, R278). -/
def PowerDecl.over (p : PowerDecl) (time : DWord) : Bool := decide (2 ≤ p.state) && decide (p.stop ≤ time.toNat)

/-- Units held in a cluster. -/
def State.heldUnits (s : State) (c : Nat) : Nat :=
  (s.admitted c).foldl (fun a e => match e.2.power with
    | some p => if 2 ≤ p.state && !p.over s.time then a + p.units else a
    | none => a) 0

/-- Units of granted windows that begin in an interval, by its number. -/
def State.beginUnits (s : State) (c k : Nat) : Nat :=
  (s.admitted c).foldl (fun a e => match e.2.power with
    | some p => if 2 ≤ p.state && p.start.toNat / 10000 == k then a + p.units else a
    | none => a) 0

def State.putPower (s : State) (h : Nat) (p : Option PowerDecl) : State := s.setTeam h { s.team h with power := p }

/-- The extension request of a team (R279): granted or refused whole, against CBUDGET, which the package factor does not
lower here (R285). A window that has ended is not extended. -/
def State.evaluateExtension (s : State) (c h : Nat) (blocked : Bool) : State :=
  match (s.team h).power with
  | none => s
  | some p =>
    match p.ext with
    | none => s
    | some n =>
      if p.over s.time then s else
      let left := p.stop + 1000 * n - max p.start.toNat s.time.toNat
      if blocked || p.doomed || (s.cluster c).cb < s.heldUnits c || 65535000 < left then
        s.setTeam h { s.team h with power := some { p with ext := none, doomed := false }, xref := true }
      else s.putPower h (some { p with len := p.len + n, ext := none, doomed := false })

/-- Start of the window of a declaration granted now (R277). -/
def PowerDecl.window (p : PowerDecl) (b : DWord) : Nat := max (p.t0.toNat + 1000 * p.onset) (b.toNat + 2000)

/-- A pending declaration at a boundary: granted, or one boundary older. The flag tells that an aged one holds back those
behind it (R276). -/
def State.evaluate (s : State) (c h : Nat) (blocked : Bool) : State × Bool :=
  match (s.team h).power with
  | none => (s, blocked)
  | some p =>
    let start := p.window s.time
    let istep := max 1 ((s.cluster c).istep * s.control.f16 / 16)
    if !blocked && s.heldUnits c + p.units ≤ s.budget c && s.beginUnits c (start / 10000) + p.units ≤ istep then
      (s.putPower h (some { p with state := 2, start := BitVec.ofNat 64 start }), false)
    else
      (s.putPower h (some { p with wait := min 255 (p.wait + 1) }), blocked || p.holdsBack (s.budget c))

/-- A pending declaration comes before another (R276). -/
def pendsBefore (a b : Nat × Nat × PowerDecl) : Bool :=
  let aged := fun (p : PowerDecl) => decide (16 ≤ p.wait)
  if aged a.2.2 != aged b.2.2 then aged a.2.2
  else if !aged a.2.2 && a.2.1 != b.2.1 then decide (b.2.1 < a.2.1)
  else if a.2.2.t0 != b.2.2.t0 then decide (a.2.2.t0 < b.2.2.t0) else decide (a.1 ≤ b.1)

/-- Puts one declaration into its place in the order. -/
def insertPending (a : Nat × Nat × PowerDecl) : List (Nat × Nat × PowerDecl) → List (Nat × Nat × PowerDecl)
  | [] => [a]
  | b :: r => if pendsBefore a b then a :: b :: r else b :: insertPending a r

/-- Teams with pending declarations, in order. -/
def State.pendings (s : State) (c : Nat) : List Nat :=
  ((s.admitted c).foldl (fun l e => match e.2.power with
    | some p => if p.state == 1 then insertPending (e.1, e.2.prio, p) l else l
    | none => l) []).map (·.1)

/-- DECLARATION_GRANT of a cluster. -/
def State.grant (s : State) (c : Nat) : State :=
  let order := s.pendings c
  let aged := s.agedPending c
  let s := (s.admitted c).foldl (fun (s : State) e => s.evaluateExtension c e.1 aged) s
  let s := (order.foldl (fun (a : State × Bool) h => a.1.evaluate c h a.2) (s, false)).1
  s.setCluster c { s.cluster c with freeu := min 256 ((s.cluster c).cb - s.heldUnits c) }

/-! ### The boundary (R274) -/

/-- What a list of measurements gives for a cluster; 0 where it is not listed. -/
def measured (l : List (Nat × Nat)) (c : Nat) : Nat :=
  match l.find? fun e => e.1 == c with
  | some e => e.2
  | none => 0

/-- FSTEP_UPDATE and CLUSTER_THROTTLE of a cluster. Outside the operating conditions every cluster is throttled, and its
FSTEP lowered by one step or more while it is above its least, to an extent the manual leaves open (R411, log 5). -/
def State.clusterBoundary (s : State) (m : Measure) (c : Nat) : State :=
  let x := s.cluster c
  let e := measured m.energy c
  let band := nextBand x.tband (measured m.temp c)
  let boost := nextBoost x
  let s := s.setCluster c { x with tband := band, boost := boost }
  let open_ := fun (k : Nat) => (Config.freeValue (s.freeCtr + k)).toNat
  let t := throttleLevel e (s.budget c) band
  let t := if s.limited then max t (2 + open_ 0 % 3) else t
  let target := fstepTarget boost band s.control.f16 (x.thr != 0) m.boost
  let target := if s.limited then 20 + open_ 1 % (min target (max 20 (x.fstep - 1)) - 19) else target
  let s := if s.limited then { s with freeCtr := s.freeCtr + 2 } else s
  (s.setCluster c { s.cluster c with thr := t, fstep := nextFstep x.fstep target (t != 0) }).shareEnergy c e

/-- CONTROL_INTERVAL_BOUNDARY: once at each TIME that is a multiple of 10 µs. -/
def State.controlBoundary (s : State) (m : Measure) : State :=
  let s := { s with control := s.control.next m.power s.time }
  let s := (List.range 144).foldl (fun (s : State) c => s.clusterBoundary m c) s
  let s := (s.parts.map (·.1)).foldl (fun (s : State) p => if (s.part p).live then s.chargeBytes p else s) s
  (List.range 144).foldl (fun (s : State) c => s.grant c) s

/-- What the sensors measure when nobody says: every figure is a free value (log 5). -/
def State.freeMeasure (s : State) : Measure :=
  let v := fun (k : Nat) => (Config.freeValue (s.freeCtr + k)).toNat
  { power := v 0, energy := (List.range 144).map fun c => (c, v (2 + 2 * c)), temp := (List.range 144).map fun c => (c, v (3 + 2 * c)),
    boost := v 1 % 2 == 1 }

/-- A boundary that TIME has reached and that has not run. -/
def State.boundaryDue (s : State) : Bool := s.time.toNat % 10000 == 0 && s.control.boundary != s.time

def execControlIntervalBoundary (m : Measure) (s : State) : Out :=
  if s.boundaryDue then .next (s.controlBoundary m) else .next s

/-! ### Windows -/

/-- The granted window of a team that has begun, or ended. -/
def Team.windowDue (t : Team) (time : DWord) : Option (Option PowerDecl) :=
  match t.power with
  | none => none
  | some p =>
    if p.kept then none
    else if p.state == 2 && p.start ≤ time then some (some { p with state := 3 })
    else if p.state == 3 && p.stop ≤ time.toNat then some none
    else none

/-- POWER_WINDOW_START and POWER_WINDOW_END (R277). -/
def execPowerWindowStart (t : Nat) (s : State) : Out :=
  match (s.team t).windowDue s.time with
  | some (some p) => .next (s.putPower t (some p))
  | some none => .next s
  | none => .next s

def execPowerWindowEnd (t : Nat) (s : State) : Out :=
  match (s.team t).windowDue s.time with
  | some none => .next (s.putPower t none)
  | some (some _) => .next s
  | none => .next s

/-- UNDECLARED_THROTTLE_END (R281): the foal's 16 µs of run time have passed. -/
def execUndeclaredThrottleEnd (core slot : Nat) (s : State) : Out :=
  let k := foalKey core slot
  match s.foalAt k with
  | none => .next s
  | some f => if f.throttle == some 0 then .next (s.putFoal k { f with throttle := none }) else .next s

end Sys2Proof.Machine
end

