-- ==== Sys2Proof/Machine/HostLink.lean ====
section
/-! DEFINITION. Requests of the two host links, attestation, and the register writes that have a row of their own (R406, R407,
R412-R415, R420). -/

namespace Sys2Proof.Machine

/-! ### Where a host request goes (R412) -/

/-- What a byte of a BAR names, or the status the request completes with. -/
inductive HostPlace where
  | mem (l : Loc)
  | mgmt (o : Nat)
  | cap (o : Nat)
  | window (o : Nat)
  | msix (o : Nat)
  deriving DecidableEq, Repr

/-- Completion statuses: 1 Unsupported Request, 2 Completer Abort. -/
abbrev HostStatus := Nat

/-- A byte of an intermediate address of a partition, for a host request. -/
def State.hostIpa (s : State) (part ipa : Nat) (write : Bool) : Except HostStatus HostPlace :=
  match stage2 s (s.part part) ipa with
  | .error _ => .error 2
  | .ok l => if (if write then l.w else l.r) then .ok (.mem ⟨l.base + ipa % l.size, l.pin⟩) else .error 2

/-- A byte of the physical function's BARs. Before READY only STARTSTAT and STARTREQ are served (R420). -/
def State.pfByte (s : State) (bar off : Nat) : Except HostStatus HostPlace :=
  let start := off < 8 || (0x2000 ≤ off && off < 0x2008)
  if !s.start.ready && !(bar == 0 && start) then .error 2
  else if bar == 0 then
    (if off < 0x100000 then .ok (.mgmt off) else if off < 0x110000 then .ok (.cap (off - 0x100000)) else .error 1)
  else if bar == 2 then (if off < hbmTop then .ok (.mem (s.physLoc 0 off)) else .error 1)
  else .error 1

/-- A byte of a virtual function's BARs. -/
def State.vfByte (s : State) (fn bar off : Nat) (write : Bool) : Except HostStatus HostPlace :=
  if !s.start.ready then .error 2
  else if !(s.part fn).live then .error 1
  else if bar == 0 then
    (if off < 0xE000 then .ok (.cap off) else if off < 0xF000 then .ok (.window (off - 0xE000))
     else if off < 0x10000 then .ok (.msix (off - 0xF000)) else .error 1)
  else if bar == 2 then s.hostIpa fn off write
  else .error 1

def State.hostByte (s : State) (link fn bar off : Nat) (write : Bool) : Except HostStatus HostPlace :=
  if 2 ≤ link || 64 ≤ fn then .error 1
  else if fn == 0 then s.pfByte bar off
  else s.vfByte fn bar off write

/-- A virtual function's request walks stage 2 for each page of it (R397). -/
def State.chargeHost (s : State) (fn bar off n : Nat) : State :=
  if fn == 0 || 64 ≤ fn || bar != 2 || n == 0 || !(s.part fn).live then s
  else ([off / 2 ^ 16, (off + n - 1) / 2 ^ 16].eraseDups).foldl (fun s p => s.useAll fn (stage2Reads s fn (p * 2 ^ 16))) s

/-- The places of the bytes of a request, or the status of the first that fails. -/
def State.hostPlaces (s : State) (link fn bar off n : Nat) (write : Bool) : Except HostStatus (List HostPlace) :=
  (List.range n).mapM fun i => s.hostByte link fn bar (off + i) write

/-! ### Performing it -/

def State.hostRead (s : State) (fn : Nat) : HostPlace → Byte
  | .mem l => s.homeByte l
  | .mgmt o => dwByte (s.mgmtRead (o / 8 * 8)) (o % 8)
  | .cap o => dwByte (capRead (o / 8 * 8)) (o % 8)
  | .window o => dwByte ((s.window fn).read (o / 8 * 8)) (o % 8)
  | .msix o => dwByte (s.msixRead fn (o / 8 * 8)) (o % 8)

/-- Eight bytes of a register with those of a request put in, for registers at offset `r`. -/
def mergeReg (old : DWord) (r : Nat) (bs : List (Nat × Byte)) : DWord :=
  bs.foldl (fun v b => if r ≤ b.1 && b.1 < r + 8 then setDwByte v (b.1 - r) b.2 else v) old

/-- Registers that a list of offsets touches. -/
def regsOf (bs : List (Nat × Byte)) : List Nat := (bs.map fun b => b.1 / 8 * 8).eraseDups

/-- A request's writes: memory at the home on the function's account, registers one by one; capability space is
read-only. -/
def State.hostWrite (s : State) (fn : Nat) (ps : List (HostPlace × Byte)) : State :=
  let mem := ps.filterMap fun p => match p.1 with
    | .mem l => some (l, p.2)
    | .mgmt _ => none
    | .cap _ => none
    | .window _ => none
    | .msix _ => none
  let pick := fun (k : Nat) => ps.filterMap fun p => match p.1 with
    | .mem _ => none
    | .mgmt o => if k == 0 then some (o, p.2) else none
    | .cap _ => none
    | .window o => if k == 1 then some (o, p.2) else none
    | .msix o => if k == 2 then some (o, p.2) else none
  let s := if mem.isEmpty then s else s.write fn none mem
  let s := (regsOf (pick 0)).foldl (fun (s : State) r => s.mgmtWrite r (mergeReg (s.mgmtRead r) r (pick 0))) s
  let s := (regsOf (pick 1)).foldl (fun (s : State) r => s.windowWrite fn r (mergeReg ((s.window fn).read r) r (pick 1))) s
  (regsOf (pick 2)).foldl (fun (s : State) r => s.msixWrite fn r (mergeReg (s.msixRead fn r) r (pick 2))) s

/-- A request that fails is completed with its status; one that stage 2 refuses is logged. -/
def State.hostFail (s : State) (link fn : Nat) (st : HostStatus) : State :=
  let s := if fn != 0 && st == 2 && s.start.ready then s.send (.log 7 fn) else s
  s.send (.host link fn st [])

/-- HOST_MEMORY_WRITE (R412): a request of which any byte fails writes nothing. -/
def execHostMemoryWrite (link fn bar off : Nat) (bytes : List Byte) (s : State) : Out :=
  let s := s.chargeHost fn bar off bytes.length
  match s.hostPlaces link fn bar off bytes.length true with
  | .error e => .next (s.hostFail link fn e)
  | .ok ps => .next (s.hostWrite fn (ps.zip bytes))

/-- Lines of global memory that a request reads, on its function's account (R377, R397). -/
def State.useHost (s : State) (fn : Nat) (ps : List HostPlace) : State :=
  s.useAll fn (ps.filterMap fun p => match p with
    | .mem l => some l
    | .mgmt _ => none
    | .cap _ => none
    | .window _ => none
    | .msix _ => none)

/-- HOST_MEMORY_READ (R412). -/
def execHostMemoryRead (link fn bar off len : Nat) (s : State) : Out :=
  let s := s.chargeHost fn bar off len
  match s.hostPlaces link fn bar off len false with
  | .error e => .next (s.hostFail link fn e)
  | .ok ps => .next ((s.useHost fn ps).send (.host link fn 0 (ps.map (s.hostRead fn))))

/-- The log of the size of a function's BAR0 or BAR2 (R412). -/
def barLog (fn bar : Nat) : Nat := if bar == 0 then (if fn == 0 then 21 else 16) else if fn == 0 then 41 else 55

/-- Four bytes of a function's configuration space (R412, R413): the size and the attributes of its BARs, and its MSI-X
capability structure, at the places that the PCI layout gives them (PRESUMED, log 92).  What else configuration space holds,
with the addresses that the host has given, is left open: a free value (log 5). -/
def configDword (fn off : Nat) (v : DWord) : Word :=
  let w : Word := v.setWidth 32
  let hold := fun (n : Nat) => w &&& ~~~(BitVec.ofNat 32 (2 ^ n - 1))
  let cap := 0x40 + 4 * (Config.msixCap fn).val
  let at_ := if fn == 0 then 0xFF000 else 0xF000
  if off == 0x10 then hold (barLog fn 0) ||| 0x4#32
  else if off == 0x18 then 0xC#32
  else if off == 0x1C then hold (barLog fn 2 - 32)
  else if off == cap then (w &&& 0xF800FF00#32) ||| 0x007F0011#32
  else if off == cap + 4 then BitVec.ofNat 32 at_
  else if off == cap + 8 then BitVec.ofNat 32 (at_ + 0x800)
  else w

/-- HOST_CONFIG_REQUEST (R420): Request Retry Status until step 2 has ended, and then the four bytes at an offset. -/
def execHostConfigRequest (link fn off : Nat) (s : State) : Out :=
  if s.start.step < 2 then .next (s.send (.host link fn 3 []))
  else
    let r := s.free
    .next (r.1.send (.host link fn 0 (leBytes 4 (configDword fn (off / 4 * 4) r.2).toNat)))

/-! ### Rows of their own for register writes -/

def execMsixVectorUnmask (fn vec : Nat) (s : State) : Out := if fn < 64 && vec < 128 then .next (s.unmask fn vec) else .next s
def execStartRequest (v : DWord) (s : State) : Out := .next (s.startRequest v)
def execPortcfgWrite (port : Nat) (v : DWord) (s : State) : Out := .next (s.writePortcfg port v)
def execRegisterWrite (off : Nat) (v : DWord) (s : State) : Out := .next (s.mgmtWrite (off / 8 * 8) v)

/-! ### Attestation (R406, R407) -/

/-- A window that exists: the package's, or that of a live partition's function. -/
def State.windowThere (s : State) (w : Nat) : Bool := w == 0 || (decide (w < 64) && (s.part w).live)

def execAttestGo (w : Nat) (s : State) : Out := if s.windowThere w then .next (s.attestGo w) else .next s

/-- The 512 bytes of a report. -/
def State.report (s : State) (w : Nat) : List Byte :=
  let meas := fun (k : Nat) => sha3 (Config.image k)
  fillTo 512 (leBytes 4 0x4E474154 ++ leBytes 2 1 ++ leBytes 2 s.pkg ++ leBytes 8 s.time.toNat ++
    leBytes 64 (s.window w).taken.toNat ++ meas 0 ++ meas 1 ++ meas 2 ++ leBytes 1 s.start.kind ++ leBytes 1 w)

/-- The places of the 8 KiB buffer of a window, if it is aligned and every byte can be written. -/
def State.reportBuffer (s : State) (w : Nat) : Option (List Loc) :=
  let a := (s.window w).buf.toNat
  if a % 4096 != 0 then none
  else if w == 0 then (if a + 8192 ≤ hbmTop then some ((List.range 8192).map fun i => s.physLoc 0 (a + i)) else none)
  else (List.range 8192).mapM fun i => match s.hostIpa w (a + i) true with
    | .ok (.mem l) => some l
    | .ok _ => none
    | .error _ => none

/-- ATTEST_COMPLETE (R407): the signed report is written, or the window fails. -/
def execAttestComplete (w : Nat) (s : State) : Out :=
  let x := s.window w
  if x.stat != 1 then .next s
  else match s.reportBuffer w with
  | none => .next (s.setWindow w { x with stat := 3 })
  | some ls =>
    let r := s.report w
    let g := s.signature (sha3 r)
    let s := g.1.write w none (ls.zip (fillTo 8192 (r ++ g.2)))
    .next (s.setWindow w { s.window w with stat := 2 })

end Sys2Proof.Machine
end

