-- ==== Sys2Proof/Machine/MemEvents.lean ====
section
/-! DEFINITION. Events of the memory system: returns, acknowledgements, writes applied at their homes, fills, invalidations
and walks (R25, R164, R173, R300, R302, R377, R395). -/

namespace Sys2Proof.Machine

/-- LOAD_RETURN (R164). -/
def execLoadReturn (t r : Nat) (lanes : BitVec 1024) (s : State) : Out := .next ((s.loadReturn t r lanes).afterPart t)

/-- STORE_ACK (R164). -/
def execStoreAck (t r : Nat) (s : State) : Out := .next ((s.storeAck t r).afterPart t)

/-- HOME_WRITE_APPLY (R302). -/
def execHomeWriteApply (t r lane : Nat) (s : State) : Out := .next ((s.applyWrite t r lane).afterPart t)

/-- GUEST_INVALIDATION (R300): the oldest invalidation on its way to a die arrives. -/
def execGuestInvalidation (die : Nat) (s : State) : Out :=
  match s.invals.find? fun i => i.die == die with
  | none => .next s
  | some i => .next ({ s with invals := s.invals.erase i }.invalidate i)

/-- PREF.L1 fills a core's L1 line from its die's L2: the guest copy, or the home with what the core has stored. A line
that is there, that is poisoned, or of which the die has read a write that the home has not applied, is left (R176, R299). -/
def State.fillNear (s : State) (core line : Nat) : State :=
  let die := dieOfCore core
  let bs := (List.range 128).map fun i => (⟨128 * line + i, none⟩ : Loc)
  if (s.l1Line core line).isSome || s.linePoison line then s
  else match s.guestLine die line with
    | some e => s.fillL1 core line (s.overlayCore core line e.2.data) e.2.filled
    | none => if s.seenBlocks die bs then s else s.fillL1 core line (s.overlayCore core line (s.homeData line)) s.now

/-- LINE_FILL (R377): line `k` of those on their way returns, to its home slice, to the die that asked for a guest copy,
and for PREF.L1 to the core's L1. The fills of one set are applied in the order in which they reach it. -/
def execLineFill (k : Nat) (s : State) : Out :=
  match s.fills[k]? with
  | none => .next s
  | some f =>
    if (s.fills.take k).any fun g => g.meets f then .next s else
    let s := { s with fills := s.fills.eraseIdx k }
    let l : Loc := ⟨128 * f.line, f.pin⟩
    let s := match f.guest with
      | none => s.fillHome f.owner l
      | some d => s.fillGuest f.owner d l
    match f.core with
    | none => .next s
    | some c => .next (s.fillNear c f.line)

/-- A team whose instruction waits for a walk receives its result, a fault included (R395). -/
def State.giveWalk (s : State) (h p : Nat) (res : Except XErr Page) : State :=
  let t := s.team h
  let w : Walked := match res with
    | .error x => ⟨p, some x, ⟨0, false, false, false, none, 0⟩, s.nextId⟩
    | .ok g => ⟨p, none, g, s.nextId⟩
  let left := t.awaits.filter (· != p)
  s.setTeam h { t with walked := w :: t.walked.filter fun x => x.vpage != p,
                       stalled := if left.isEmpty then none else some (.walks left t.since) }

/-- TRANSLATION_WALK_COMPLETE (R395): the result enters the caches, and every access of the die that waits for the page
receives it; a walk that is tracked but not among the 128 in progress cannot complete. -/
def execTranslationWalkComplete (core part : Nat) (va : Addr) (s : State) : Out :=
  let p := va.toNat / 2 ^ 16
  let die := dieOfCore core
  if (s.misses die).contains (part, p) && !(s.walksRunning die).contains (part, p) then .next s
  else
    let res := walk s part va.toNat
    let hs := (s.teams.filter fun e => dieOfCore (s.coreOf e.1) == die && (s.wg e.2.wg).launch.part == part &&
      e.2.awaits.contains p).map (·.1)
    let s := { s.cacheWalk core part va with nextId := s.nextId + 1 }
    .next (hs.foldl (fun s h => s.giveWalk h p res) s)

end Sys2Proof.Machine
end

