-- ==== Sys2Proof/Machine/MemOps.lean ====
section
/-! DEFINITION. Memory instructions: loads, stores, atomics, ordered accesses, fences, lane copies, waits on a value, prefetch
and fragment moves (R154-R176). -/

namespace Sys2Proof.Machine

/-- Registers that a value of n bytes takes from d (R58). -/
def span (d : VReg) (n : Nat) : List Nat := (List.range ((n + 3) / 4)).map fun j => d.toNat + j

/-- The low n bytes of the registers from d in a lane, the first register lowest. -/
def State.vecData (s : State) (h d n lane : Nat) : Nat :=
  ((List.range ((n + 3) / 4)).foldl (fun a j => a + ((s.vreg h (d + j)).lane lane).toNat * 2 ^ (32 * j)) 0) % 2 ^ (8 * n)

/-- Bits [19:0] of a scratchpad base (R155). -/
def spBase (v : DWord) : Nat := v.toNat % 2 ^ 20

/-! ### Addresses (R154, R155) -/

def addrMI (s : State) (h : Nat) (b : SReg) (i : BitVec 9) (n lane : Nat) : Addr :=
  s.sreg h b + 16#64 * i.signExtend 64 + BitVec.ofNat 64 (lane * n)
def addrMG (s : State) (h : Nat) (k : BitVec 2) (b : SReg) (x : VReg) (lane : Nat) : Addr :=
  s.sreg h b + BitVec.ofNat 64 (((s.vreg h x.toNat).lane lane).toNat * 2 ^ k.toNat)
def addrMS (s : State) (h : Nat) (b : SReg) (i : BitVec 10) (n : Nat) : Addr := s.sreg h b + BitVec.ofNat 64 (i.toNat * n)
def addrMA (s : State) (h : Nat) (a : VReg) (lane : Nat) : Addr :=
  (s.vreg h (a.toNat + 1)).lane lane ++ (s.vreg h a.toNat).lane lane
def addrSG (s : State) (h : Nat) (k : BitVec 2) (b : SReg) (x : VReg) (lane : Nat) : Addr :=
  BitVec.ofNat 64 (spBase (s.sreg h b) + ((s.vreg h x.toNat).lane lane).toNat * 2 ^ k.toNat)
def addrSS (s : State) (h : Nat) (b : SReg) (i : BitVec 10) (n : Nat) : Addr :=
  BitVec.ofNat 64 (spBase (s.sreg h b) + i.toNat * n)

/-! ### Ordinary loads and stores (R161) -/

/-- Form of an ordinary load. -/
def loadForm (sp : Space) (d : Dest) (sext : Bool) : MemForm :=
  { kind := .load, space := sp, access := .read, align := false, dest := d, sext := sext, reach := .near, acquire := none,
    release := false, noDet := false }
/-- Form of an ordinary store. -/
def storeForm (sp : Space) : MemForm :=
  { kind := .store, space := sp, access := .write, align := false, dest := .none, sext := false, reach := .near,
    acquire := none, release := false, noDet := false }

/-- What each lane of a vector load asks for. -/
def loadAsks (s : State) (h n : Nat) (addr : State → Nat → Nat → Addr) : List Ask :=
  (s.team h).lanes.map fun i => { lane := i, addr := addr s h i, n := n, data := 0, data2 := 0 }
/-- What each lane of a vector store asks for: the data registers are read at issue (R23). -/
def storeAsks (s : State) (h n : Nat) (d : VReg) (addr : State → Nat → Nat → Addr) : List Ask :=
  (s.team h).lanes.map fun i => { lane := i, addr := addr s h i, n := n, data := s.vecData h d.toNat n i, data2 := 0 }

/-- A vector load of n bytes per lane. -/
def vecLoad (sp : Space) (n : Nat) (sext : Bool) (sw : Bool) (d : VReg) (regs : List Nat)
    (addr : State → Nat → Nat → Addr) (s : State) : Out :=
  begin (needT true (span d n ++ regs)) s fun h =>
    .next (s.memory h (loadForm sp (.vec d.toNat) sext) (loadAsks s h n addr) sw)

/-- A vector store of n bytes per lane. -/
def vecStore (sp : Space) (n : Nat) (sw : Bool) (d : VReg) (regs : List Nat) (addr : State → Nat → Nat → Addr)
    (s : State) : Out :=
  begin (needT true (span d n ++ regs)) s fun h =>
    .next (s.memory h (storeForm sp) (storeAsks s h n d addr) sw)

/-- What of a control-core thread's access of n bytes at a physical address is performed now: all of a naturally aligned one, the
next byte of a misaligned one, of which the thread keeps the bytes performed (R156). First byte and count. -/
def Thread.next (t : Thread) (a n : Nat) : Nat × Nat := if a % n == 0 then (0, n) else (t.bytes.length, 1)

/-- A load by a control-core thread: a physical address, performed at the home (R228, R311, R409). -/
def State.threadLoad (s : State) (h : Nat) (d : SReg) (a : Addr) (n : Nat) (sw : Bool) : State :=
  let t := s.thread h
  match physCheck a.toNat n t.level.toNat with
  | some (c, x) => s.raiseAt h c 1 (BitVec.ofNat 64 x) 0#1024 false
  | none =>
    let u := t.next a.toNat n
    let o := a.toNat + u.1
    if s.physPoison o u.2 then s.raiseAt h .memPoison 1 a 0#1024 false
    else
      let bs := t.bytes.take u.1 ++ s.physRead o u.2
      let s := s.usePhys 0 o u.2
      if bs.length < n then s.setThread h { t with bytes := bs }
      else ((s.setThread h { t with bytes := [] }).setSreg h d (BitVec.ofNat 64 (leNat bs))).done h 1 sw

/-- A store by a control-core thread, on the system owner's account (R397). -/
def State.threadStore (s : State) (h : Nat) (d : SReg) (a : Addr) (n : Nat) (sw : Bool) : State :=
  let t := s.thread h
  match physCheck a.toNat n t.level.toNat with
  | some (c, x) => s.raiseAt h c 1 (BitVec.ofNat 64 x) 0#1024 false
  | none =>
    let u := t.next a.toNat n
    let bs := ((leBytes n (s.sreg h d).toNat).drop u.1).take u.2
    let s := s.physWrite 0 (a.toNat + u.1) bs
    if u.1 + u.2 < n then s.setThread h { s.thread h with bytes := t.bytes ++ bs }
    else (s.setThread h { s.thread h with bytes := [] }).done h 1 sw

/-- LDS (R161). -/
def scalarLoad (n : Nat) (sw : Bool) (d b : SReg) (i : BitVec 10) (s : State) : Out :=
  begin need1 s fun h =>
    let a := addrMS s h b i n
    match (s.ctx h).kind with
    | .team => .next (s.memory h (loadForm .global (.scalar d.toNat) false) [⟨0, a, n, 0, 0⟩] sw)
    | .thread => .next (s.threadLoad h d a n sw)
    | .absent => .fault .noHart

/-- STS (R161). -/
def scalarStore (n : Nat) (sw : Bool) (d b : SReg) (i : BitVec 10) (s : State) : Out :=
  begin need1 s fun h =>
    let a := addrMS s h b i n
    match (s.ctx h).kind with
    | .team => .next (s.memory h (storeForm .global) [⟨0, a, n, (s.sreg h d).toNat % 2 ^ (8 * n), 0⟩] sw)
    | .thread => .next (s.threadStore h d a n sw)
    | .absent => .fault .noHart

/-- SLDSP (R161). -/
def scalarLoadSp (n : Nat) (sw : Bool) (d b : SReg) (i : BitVec 10) (s : State) : Out :=
  begin (needT true []) s fun h =>
    .next (s.memory h (loadForm .scratch (.scalar d.toNat) false) [⟨0, addrSS s h b i n, n, 0, 0⟩] sw)

/-- SSTSP (R161). -/
def scalarStoreSp (n : Nat) (sw : Bool) (d b : SReg) (i : BitVec 10) (s : State) : Out :=
  begin (needT true []) s fun h =>
    .next (s.memory h (storeForm .scratch) [⟨0, addrSS s h b i n, n, (s.sreg h d).toNat % 2 ^ (8 * n), 0⟩] sw)

def execLdvB8 (sw : Bool) (d : VReg) (b : SReg) (i : BitVec 9) (s : State) : Out :=
  vecLoad .global 1 false sw d [] (fun s h l => addrMI s h b i 1 l) s
def execLdvB16 (sw : Bool) (d : VReg) (b : SReg) (i : BitVec 9) (s : State) : Out :=
  vecLoad .global 2 false sw d [] (fun s h l => addrMI s h b i 2 l) s
def execLdvB32 (sw : Bool) (d : VReg) (b : SReg) (i : BitVec 9) (s : State) : Out :=
  vecLoad .global 4 false sw d [] (fun s h l => addrMI s h b i 4 l) s
def execLdvB64 (sw : Bool) (d : VReg) (b : SReg) (i : BitVec 9) (s : State) : Out :=
  vecLoad .global 8 false sw d [] (fun s h l => addrMI s h b i 8 l) s
def execLdvsS8 (sw : Bool) (d : VReg) (b : SReg) (i : BitVec 9) (s : State) : Out :=
  vecLoad .global 1 true sw d [] (fun s h l => addrMI s h b i 1 l) s
def execLdvsS16 (sw : Bool) (d : VReg) (b : SReg) (i : BitVec 9) (s : State) : Out :=
  vecLoad .global 2 true sw d [] (fun s h l => addrMI s h b i 2 l) s
def execLdgB8 (sw : Bool) (k : BitVec 2) (d : VReg) (b : SReg) (x : VReg) (s : State) : Out :=
  vecLoad .global 1 false sw d [x.toNat] (fun s h l => addrMG s h k b x l) s
def execLdgB16 (sw : Bool) (k : BitVec 2) (d : VReg) (b : SReg) (x : VReg) (s : State) : Out :=
  vecLoad .global 2 false sw d [x.toNat] (fun s h l => addrMG s h k b x l) s
def execLdgB32 (sw : Bool) (k : BitVec 2) (d : VReg) (b : SReg) (x : VReg) (s : State) : Out :=
  vecLoad .global 4 false sw d [x.toNat] (fun s h l => addrMG s h k b x l) s
def execLdgB64 (sw : Bool) (k : BitVec 2) (d : VReg) (b : SReg) (x : VReg) (s : State) : Out :=
  vecLoad .global 8 false sw d [x.toNat] (fun s h l => addrMG s h k b x l) s
def execStvB8 (sw : Bool) (d : VReg) (b : SReg) (i : BitVec 9) (s : State) : Out :=
  vecStore .global 1 sw d [] (fun s h l => addrMI s h b i 1 l) s
def execStvB16 (sw : Bool) (d : VReg) (b : SReg) (i : BitVec 9) (s : State) : Out :=
  vecStore .global 2 sw d [] (fun s h l => addrMI s h b i 2 l) s
def execStvB32 (sw : Bool) (d : VReg) (b : SReg) (i : BitVec 9) (s : State) : Out :=
  vecStore .global 4 sw d [] (fun s h l => addrMI s h b i 4 l) s
def execStvB64 (sw : Bool) (d : VReg) (b : SReg) (i : BitVec 9) (s : State) : Out :=
  vecStore .global 8 sw d [] (fun s h l => addrMI s h b i 8 l) s
def execStgB8 (sw : Bool) (k : BitVec 2) (d : VReg) (b : SReg) (x : VReg) (s : State) : Out :=
  vecStore .global 1 sw d [x.toNat] (fun s h l => addrMG s h k b x l) s
def execStgB16 (sw : Bool) (k : BitVec 2) (d : VReg) (b : SReg) (x : VReg) (s : State) : Out :=
  vecStore .global 2 sw d [x.toNat] (fun s h l => addrMG s h k b x l) s
def execStgB32 (sw : Bool) (k : BitVec 2) (d : VReg) (b : SReg) (x : VReg) (s : State) : Out :=
  vecStore .global 4 sw d [x.toNat] (fun s h l => addrMG s h k b x l) s
def execStgB64 (sw : Bool) (k : BitVec 2) (d : VReg) (b : SReg) (x : VReg) (s : State) : Out :=
  vecStore .global 8 sw d [x.toNat] (fun s h l => addrMG s h k b x l) s
def execLdsB8 (sw : Bool) (d b : SReg) (i : BitVec 10) (s : State) : Out := scalarLoad 1 sw d b i s
def execLdsB16 (sw : Bool) (d b : SReg) (i : BitVec 10) (s : State) : Out := scalarLoad 2 sw d b i s
def execLdsB32 (sw : Bool) (d b : SReg) (i : BitVec 10) (s : State) : Out := scalarLoad 4 sw d b i s
def execLdsB64 (sw : Bool) (d b : SReg) (i : BitVec 10) (s : State) : Out := scalarLoad 8 sw d b i s
def execStsB8 (sw : Bool) (d b : SReg) (i : BitVec 10) (s : State) : Out := scalarStore 1 sw d b i s
def execStsB16 (sw : Bool) (d b : SReg) (i : BitVec 10) (s : State) : Out := scalarStore 2 sw d b i s
def execStsB32 (sw : Bool) (d b : SReg) (i : BitVec 10) (s : State) : Out := scalarStore 4 sw d b i s
def execStsB64 (sw : Bool) (d b : SReg) (i : BitVec 10) (s : State) : Out := scalarStore 8 sw d b i s
def execLdspB8 (sw : Bool) (k : BitVec 2) (d : VReg) (b : SReg) (x : VReg) (s : State) : Out :=
  vecLoad .scratch 1 false sw d [x.toNat] (fun s h l => addrSG s h k b x l) s
def execLdspB16 (sw : Bool) (k : BitVec 2) (d : VReg) (b : SReg) (x : VReg) (s : State) : Out :=
  vecLoad .scratch 2 false sw d [x.toNat] (fun s h l => addrSG s h k b x l) s
def execLdspB32 (sw : Bool) (k : BitVec 2) (d : VReg) (b : SReg) (x : VReg) (s : State) : Out :=
  vecLoad .scratch 4 false sw d [x.toNat] (fun s h l => addrSG s h k b x l) s
def execLdspB64 (sw : Bool) (k : BitVec 2) (d : VReg) (b : SReg) (x : VReg) (s : State) : Out :=
  vecLoad .scratch 8 false sw d [x.toNat] (fun s h l => addrSG s h k b x l) s
def execStspB8 (sw : Bool) (k : BitVec 2) (d : VReg) (b : SReg) (x : VReg) (s : State) : Out :=
  vecStore .scratch 1 sw d [x.toNat] (fun s h l => addrSG s h k b x l) s
def execStspB16 (sw : Bool) (k : BitVec 2) (d : VReg) (b : SReg) (x : VReg) (s : State) : Out :=
  vecStore .scratch 2 sw d [x.toNat] (fun s h l => addrSG s h k b x l) s
def execStspB32 (sw : Bool) (k : BitVec 2) (d : VReg) (b : SReg) (x : VReg) (s : State) : Out :=
  vecStore .scratch 4 sw d [x.toNat] (fun s h l => addrSG s h k b x l) s
def execStspB64 (sw : Bool) (k : BitVec 2) (d : VReg) (b : SReg) (x : VReg) (s : State) : Out :=
  vecStore .scratch 8 sw d [x.toNat] (fun s h l => addrSG s h k b x l) s
def execSldspB32 (sw : Bool) (d b : SReg) (i : BitVec 10) (s : State) : Out := scalarLoadSp 4 sw d b i s
def execSldspB64 (sw : Bool) (d b : SReg) (i : BitVec 10) (s : State) : Out := scalarLoadSp 8 sw d b i s
def execSstspB32 (sw : Bool) (d b : SReg) (i : BitVec 10) (s : State) : Out := scalarStoreSp 4 sw d b i s
def execSstspB64 (sw : Bool) (d b : SReg) (i : BitVec 10) (s : State) : Out := scalarStoreSp 8 sw d b i s

/-! ### Atomics (R168-R170) -/

/-- Bytes an atomic accesses. -/
def Aop.size : Aop → Nat
  | .addI64 => 8
  | .addI32 => 4 | .addF32 => 4 | .minS32 => 4 | .maxS32 => 4 | .minN32 => 4 | .maxN32 => 4 | .and => 4 | .or => 4
  | .xor => 4 | .exch => 4 | .cas => 4 | .maxi => 4 | .addF16x2 => 4

/-- Registers an atomic names from D. -/
def Aop.span (op : Aop) (d : VReg) : List Nat :=
  match op with
  | .addI64 => [d.toNat, d.toNat + 1]
  | .cas => [d.toNat, d.toNat + 1]
  | .addI32 => [d.toNat] | .addF32 => [d.toNat] | .minS32 => [d.toNat] | .maxS32 => [d.toNat] | .minN32 => [d.toNat]
  | .maxN32 => [d.toNat] | .and => [d.toNat] | .or => [d.toNat] | .xor => [d.toNat] | .exch => [d.toNat]
  | .maxi => [d.toNat] | .addF16x2 => [d.toNat]

/-- ORD includes an acquire, or a release (R37). -/
def ordAcq : Ord → Bool
  | .acquire => true | .acqRel => true | .relaxed => false | .release => false
def ordRel : Ord → Bool
  | .release => true | .acqRel => true | .relaxed => false | .acquire => false
/-- A scope that an instruction takes (R36). -/
def scopeOk (c : Scope) : Bool := c != .reserved
/-- TEAM or WG: the scopes of ATOMS, and of LDA and STL in deterministic mode (R168, R171). -/
def scopeNarrow : Scope → Bool
  | .team => true | .wg => true
  | .core => false | .cluster => false | .die => false | .pkg => false | .pod => false | .reserved => false

/-- What each lane of an atomic asks for. -/
def atomAsks (op : Aop) (s : State) (h : Nat) (d : VReg) (addr : State → Nat → Nat → Addr) : List Ask :=
  (s.team h).lanes.map fun i =>
    { lane := i, addr := addr s h i, n := op.size, data := s.vecData h d.toNat op.size i,
      data2 := ((s.vreg h (d.toNat + 1)).lane i).toNat }

/-- ATOM at the home (R168). -/
def atomOp (op : Aop) (sw : Bool) (o : Ord) (c : Scope) (d a : VReg) (s : State) : Out :=
  begin (needT (scopeOk c) (op.span d ++ [a.toNat, a.toNat + 1])) s fun h =>
    .next (s.memory h
      { kind := .atom op, space := .global, access := .readWrite, align := true, dest := .vec d.toNat, sext := false,
        reach := .home, acquire := if ordAcq o then some c else none, release := ordRel o, noDet := true }
      (atomAsks op s h d fun s h l => addrMA s h a l) sw)

/-- ATOMS at the scratchpad (R168). -/
def atomsOp (op : Aop) (sw : Bool) (o : Ord) (c : Scope) (d a : VReg) (s : State) : Out :=
  begin (needT (scopeNarrow c) (op.span d ++ [a.toNat])) s fun h =>
    .next (s.memory h
      { kind := .atom op, space := .scratch, access := .readWrite, align := true, dest := .vec d.toNat, sext := false,
        reach := .home, acquire := if ordAcq o then some c else none, release := ordRel o, noDet := false }
      (atomAsks op s h d fun s h l => BitVec.ofNat 64 (((s.vreg h a.toNat).lane l).toNat % 2 ^ 20)) sw)

/-- RED at the home (R168): ORD relaxed or release. -/
def redOp (op : Aop) (sw : Bool) (o : Ord) (c : Scope) (d a : VReg) (s : State) : Out :=
  begin (needT (scopeOk c && !ordAcq o) (op.span d ++ [a.toNat, a.toNat + 1])) s fun h =>
    .next (s.memory h
      { kind := .red op, space := .global, access := .readWrite, align := true, dest := .none, sext := false,
        reach := .home, acquire := none, release := ordRel o, noDet := true }
      (atomAsks op s h d fun s h l => addrMA s h a l) sw)

def execAtomAddI32 (sw : Bool) (o : Ord) (c : Scope) (d a : VReg) (s : State) : Out := atomOp .addI32 sw o c d a s
def execAtomAddF32 (sw : Bool) (o : Ord) (c : Scope) (d a : VReg) (s : State) : Out := atomOp .addF32 sw o c d a s
def execAtomMinS32 (sw : Bool) (o : Ord) (c : Scope) (d a : VReg) (s : State) : Out := atomOp .minS32 sw o c d a s
def execAtomMaxS32 (sw : Bool) (o : Ord) (c : Scope) (d a : VReg) (s : State) : Out := atomOp .maxS32 sw o c d a s
def execAtomMinN32 (sw : Bool) (o : Ord) (c : Scope) (d a : VReg) (s : State) : Out := atomOp .minN32 sw o c d a s
def execAtomMaxN32 (sw : Bool) (o : Ord) (c : Scope) (d a : VReg) (s : State) : Out := atomOp .maxN32 sw o c d a s
def execAtomAnd (sw : Bool) (o : Ord) (c : Scope) (d a : VReg) (s : State) : Out := atomOp .and sw o c d a s
def execAtomOr (sw : Bool) (o : Ord) (c : Scope) (d a : VReg) (s : State) : Out := atomOp .or sw o c d a s
def execAtomXor (sw : Bool) (o : Ord) (c : Scope) (d a : VReg) (s : State) : Out := atomOp .xor sw o c d a s
def execAtomExch (sw : Bool) (o : Ord) (c : Scope) (d a : VReg) (s : State) : Out := atomOp .exch sw o c d a s
def execAtomCas (sw : Bool) (o : Ord) (c : Scope) (d a : VReg) (s : State) : Out := atomOp .cas sw o c d a s
def execAtomMaxi (sw : Bool) (o : Ord) (c : Scope) (d a : VReg) (s : State) : Out := atomOp .maxi sw o c d a s
def execAtomAddF16x2 (sw : Bool) (o : Ord) (c : Scope) (d a : VReg) (s : State) : Out := atomOp .addF16x2 sw o c d a s
def execAtomAddI64 (sw : Bool) (o : Ord) (c : Scope) (d a : VReg) (s : State) : Out := atomOp .addI64 sw o c d a s
def execAtomsAddI32 (sw : Bool) (o : Ord) (c : Scope) (d a : VReg) (s : State) : Out := atomsOp .addI32 sw o c d a s
def execAtomsAddF32 (sw : Bool) (o : Ord) (c : Scope) (d a : VReg) (s : State) : Out := atomsOp .addF32 sw o c d a s
def execAtomsMinS32 (sw : Bool) (o : Ord) (c : Scope) (d a : VReg) (s : State) : Out := atomsOp .minS32 sw o c d a s
def execAtomsMaxS32 (sw : Bool) (o : Ord) (c : Scope) (d a : VReg) (s : State) : Out := atomsOp .maxS32 sw o c d a s
def execAtomsMinN32 (sw : Bool) (o : Ord) (c : Scope) (d a : VReg) (s : State) : Out := atomsOp .minN32 sw o c d a s
def execAtomsMaxN32 (sw : Bool) (o : Ord) (c : Scope) (d a : VReg) (s : State) : Out := atomsOp .maxN32 sw o c d a s
def execAtomsAnd (sw : Bool) (o : Ord) (c : Scope) (d a : VReg) (s : State) : Out := atomsOp .and sw o c d a s
def execAtomsOr (sw : Bool) (o : Ord) (c : Scope) (d a : VReg) (s : State) : Out := atomsOp .or sw o c d a s
def execAtomsXor (sw : Bool) (o : Ord) (c : Scope) (d a : VReg) (s : State) : Out := atomsOp .xor sw o c d a s
def execAtomsExch (sw : Bool) (o : Ord) (c : Scope) (d a : VReg) (s : State) : Out := atomsOp .exch sw o c d a s
def execAtomsCas (sw : Bool) (o : Ord) (c : Scope) (d a : VReg) (s : State) : Out := atomsOp .cas sw o c d a s
def execAtomsMaxi (sw : Bool) (o : Ord) (c : Scope) (d a : VReg) (s : State) : Out := atomsOp .maxi sw o c d a s
def execAtomsAddF16x2 (sw : Bool) (o : Ord) (c : Scope) (d a : VReg) (s : State) : Out := atomsOp .addF16x2 sw o c d a s
def execAtomsAddI64 (sw : Bool) (o : Ord) (c : Scope) (d a : VReg) (s : State) : Out := atomsOp .addI64 sw o c d a s
def execRedAddI32 (sw : Bool) (o : Ord) (c : Scope) (d a : VReg) (s : State) : Out := redOp .addI32 sw o c d a s
def execRedAddF32 (sw : Bool) (o : Ord) (c : Scope) (d a : VReg) (s : State) : Out := redOp .addF32 sw o c d a s
def execRedMinS32 (sw : Bool) (o : Ord) (c : Scope) (d a : VReg) (s : State) : Out := redOp .minS32 sw o c d a s
def execRedMaxS32 (sw : Bool) (o : Ord) (c : Scope) (d a : VReg) (s : State) : Out := redOp .maxS32 sw o c d a s
def execRedMinN32 (sw : Bool) (o : Ord) (c : Scope) (d a : VReg) (s : State) : Out := redOp .minN32 sw o c d a s
def execRedMaxN32 (sw : Bool) (o : Ord) (c : Scope) (d a : VReg) (s : State) : Out := redOp .maxN32 sw o c d a s
def execRedAnd (sw : Bool) (o : Ord) (c : Scope) (d a : VReg) (s : State) : Out := redOp .and sw o c d a s
def execRedOr (sw : Bool) (o : Ord) (c : Scope) (d a : VReg) (s : State) : Out := redOp .or sw o c d a s
def execRedXor (sw : Bool) (o : Ord) (c : Scope) (d a : VReg) (s : State) : Out := redOp .xor sw o c d a s
def execRedMaxi (sw : Bool) (o : Ord) (c : Scope) (d a : VReg) (s : State) : Out := redOp .maxi sw o c d a s
def execRedAddF16x2 (sw : Bool) (o : Ord) (c : Scope) (d a : VReg) (s : State) : Out := redOp .addF16x2 sw o c d a s
def execRedAddI64 (sw : Bool) (o : Ord) (c : Scope) (d a : VReg) (s : State) : Out := redOp .addI64 sw o c d a s

/-! ### Ordered loads and stores, fences (R171, R172) -/

/-- Where LDA at a scope is served (R171). -/
def scopeReach : Scope → Reach
  | .team => .near | .wg => .near | .core => .near | .cluster => .die | .die => .die | .pkg => .home | .pod => .home
  | .reserved => .home

def ldaOp (n : Nat) (sw : Bool) (o : Ord) (c : Scope) (d a : VReg) (s : State) : Out :=
  begin (needT (scopeOk c && !ordRel o) (span d n ++ [a.toNat, a.toNat + 1])) s fun h =>
    .next (s.memory h
      { kind := .load, space := .global, access := .read, align := true, dest := .vec d.toNat, sext := false,
        reach := scopeReach c, acquire := if ordAcq o then some c else none, release := false, noDet := !scopeNarrow c }
      (loadAsks s h n fun s h l => addrMA s h a l) sw)

def stlOp (n : Nat) (sw : Bool) (o : Ord) (c : Scope) (d a : VReg) (s : State) : Out :=
  begin (needT (scopeOk c && !ordAcq o) (span d n ++ [a.toNat, a.toNat + 1])) s fun h =>
    .next (s.memory h
      { storeForm .global with align := true, release := ordRel o, noDet := !scopeNarrow c }
      (storeAsks s h n d fun s h l => addrMA s h a l) sw)

def execLdaB16 (sw : Bool) (o : Ord) (c : Scope) (d a : VReg) (s : State) : Out := ldaOp 2 sw o c d a s
def execLdaB32 (sw : Bool) (o : Ord) (c : Scope) (d a : VReg) (s : State) : Out := ldaOp 4 sw o c d a s
def execLdaB64 (sw : Bool) (o : Ord) (c : Scope) (d a : VReg) (s : State) : Out := ldaOp 8 sw o c d a s
def execStlB16 (sw : Bool) (o : Ord) (c : Scope) (d a : VReg) (s : State) : Out := stlOp 2 sw o c d a s
def execStlB32 (sw : Bool) (o : Ord) (c : Scope) (d a : VReg) (s : State) : Out := stlOp 4 sw o c d a s
def execStlB64 (sw : Bool) (o : Ord) (c : Scope) (d a : VReg) (s : State) : Out := stlOp 8 sw o c d a s

/-- A fence: its park, then its acquire effects (R172). A control-core thread has no access outstanding and no copy of its
own. -/
def fenceOp (st : Bool) (acq : Option (Scope → Scope)) (sw : Bool) (c : Scope) (s : State) : Out :=
  begin { need1 with legal := scopeOk c } s fun h =>
    if (s.team h).loads != 0 || (st && (s.team h).stores != 0) then .next (s.park h (.counts .switchMarker st false))
    else match acq with
      | some f => .next ((s.acquire h (f c)).done h 1 sw)
      | none => .next (s.done h 1 sw)

def execFenceAcq (sw : Bool) (c : Scope) (s : State) : Out := fenceOp false (some id) sw c s
def execFenceRel (sw : Bool) (c : Scope) (s : State) : Out := fenceOp true none sw c s
def execFenceAr (sw : Bool) (c : Scope) (s : State) : Out := fenceOp true (some id) sw c s
def execFenceSc (sw : Bool) (c : Scope) (s : State) : Out := fenceOp true (some fun _ => .pkg) sw c s

/-! ### Lane copies (R173) -/

/-- Whether a batch slot of a team holds a sealed, unfinished batch (R216). -/
def State.sealed (s : State) (h slot : Nat) : Bool :=
  (s.foalsOf h).any fun e => e.2.live && e.2.job == .batch slot

/-- The checks of one lane: its destination, and then the bytes it reads. -/
def State.checkCopy (s : State) (h n lane dst c : Nat) (src : Addr) : Except (Nat × XErr × Addr × Bool) (List Loc) :=
  match s.checkAsk h .scratch .write (BitVec.ofNat 64 dst) n with
  | .error x => .error (lane, x.1, x.2, true)
  | .ok _ =>
    match s.checkAsk h .global .read src c with
    | .error x => .error (lane, x.1, x.2, false)
    | .ok bs => .ok bs

def lcpyOp (n : Nat) (sw : Bool) (d : VReg) (b : SReg) (v : VReg) (s : State) : Out :=
  begin (needT true [d.toNat, v.toNat, v.toNat + 1]) s fun h =>
    let t := s.team h
    let lanes := t.lanes
    if s.sealed h t.openSlot then .next (s.park h .batch)
    else if 65535 < t.batch t.openSlot + lanes.length then .next (s.setTeam h { t with stalled := some (.copies lanes.length) })
    else
      let dst := fun i => ((s.vreg h d.toNat).lane i).toNat % 2 ^ 20
      let odd := lanes.filter fun i => dst i % n != 0
      match odd with
      | i :: _ => .next (s.raiseAt h .align 1 (BitVec.ofNat 64 (dst i)) (maskOf odd) true)
      | [] =>
        let cnt := fun i => min ((s.vreg h (v.toNat + 1)).lane i).toNat n
        let src := fun i => s.sreg h b + ((s.vreg h v.toNat).lane i).setWidth 64
        let walks := s.unwalked h (lanes.flatMap fun i => vpagesOf (src i) (cnt i))
        if !walks.isEmpty then .next (s.awaitWalks h walks)
        else
        let chk := lanes.map fun i => (i, s.checkCopy h n i (dst i) (cnt i) (src i))
        let good := chk.filterMap fun p => match p.2 with | .ok bs => some (p.1, bs) | .error _ => none
        let bad := chk.filterMap fun p => match p.2 with | .ok _ => none | .error e => some e
        let pages := pagesOf (good.flatMap fun p => spLocs (dst p.1) n)
        if (s.wgOf h).enginePage pages then .next (s.park h (.pages pages))
        else
          let cs := good.zipIdx.map fun p => (⟨s.nextId + p.2, t.openSlot, p.1.1, dst p.1.1, n, p.1.2⟩ : LaneCopy)
          let s := { s with nextId := s.nextId + cs.length }.setTeam h { t with copies := t.copies ++ cs }
          if bad.isEmpty then .next (s.done h 1 sw) else .next (s.raiseLanes h bad)

def execLcpy4 (sw : Bool) (d : VReg) (b : SReg) (v : VReg) (s : State) : Out := lcpyOp 4 sw d b v s
def execLcpy8 (sw : Bool) (d : VReg) (b : SReg) (v : VReg) (s : State) : Out := lcpyOp 8 sw d b v s
def execLcpy16 (sw : Bool) (d : VReg) (b : SReg) (v : VReg) (s : State) : Out := lcpyOp 16 sw d b v s
def execLcpy32 (sw : Bool) (d : VReg) (b : SReg) (v : VReg) (s : State) : Out := lcpyOp 32 sw d b v s

/-! ### Waiting on a value (R175) -/

/-- The read at issue: the wait ends at once or the hart parks. Where the hart may not read yet it parks, and reads once it
may (R21, R163). -/
def State.waitOn (s : State) (h : Nat) (sc : Bool) (va : Addr) (pl : List Loc) (c : WaitCond) (y : DWord) (sw : Bool) : State :=
  (s.park h (.value sc va pl c y sw)).readWait h sc pl c y sw

/-- WAITV of a control-core thread: a physical address of HBM4. -/
def State.threadWait (s : State) (h : Nat) (c : WaitCond) (a y : DWord) (sw : Bool) : State :=
  if a.toNat % 8 != 0 then s.raiseAt h .align 1 a 0#1024 false
  else if regionOf a.toNat != .hbm then s.raiseAt h .memFault 1 a 0#1024 false
  else s.waitOn h false a ((List.range 8).map fun i => s.physLoc 0 (a.toNat + i)) c y sw

/-- WAITV of a team. -/
def State.teamWait (s : State) (h : Nat) (c : WaitCond) (a y : DWord) (sw : Bool) : State :=
  if a.getLsbD 63 then
    let o := a.toNat % 2 ^ 20
    let oa : Addr := BitVec.ofNat 64 o
    if o % 8 != 0 then s.raiseAt h .align 1 oa 1#1024 true
    else if a.extractLsb' 20 43 != 0#43 || s.spSize h < o + 8 then s.raiseAt h .memFault 1 oa 1#1024 true
    else if (s.wgOf h).enginePage [o / 4096] then s.park h (.pages [o / 4096])
    else s.waitOn h true oa (spLocs o 8) c y sw
  else if s.det h then s.raise h .detViolation 1
  else if a.toNat % 8 != 0 then s.raiseAt h .align 1 a 1#1024 false
  else match s.unwalked h (vpagesOf a 8) with
  | p :: ps => s.awaitWalks h (p :: ps)
  | [] =>
    match s.checkAsk h .global .read a 8 with
    | .error x => s.raiseLanes h [(0, x.1, x.2, false)]
    | .ok bs => s.waitOn h false a bs c y sw

def waitOp (c : WaitCond) (sw : Bool) (a v : SReg) (s : State) : Out :=
  begin need1 s fun h =>
    match (s.ctx h).kind with
    | .team => .next (s.teamWait h c (s.sreg h a) (s.sreg h v) sw)
    | .thread => .next (s.threadWait h c (s.sreg h a) (s.sreg h v) sw)
    | .absent => .fault .noHart

def execWaitvEq (sw : Bool) (a v : SReg) (s : State) : Out := waitOp .eq sw a v s
def execWaitvNe (sw : Bool) (a v : SReg) (s : State) : Out := waitOp .ne sw a v s
def execWaitvGe (sw : Bool) (a v : SReg) (s : State) : Out := waitOp .ge sw a v s
def execWaitvLt (sw : Bool) (a v : SReg) (s : State) : Out := waitOp .lt sw a v s

/-! ### Prefetch and cache maintenance (R176) -/

/-- Where the line of a virtual address lies, if it is mapped; PREF reads and writes nothing for the program, and the model
asks for no permission (R176; log 61, DESIGN CHOICE). -/
def State.locate (s : State) (h : Nat) (va : Addr) : Option Loc :=
  match (s.ctx h).kind with
  | .team =>
    if 2 ^ 55 ≤ va.toNat then none
    else
      let part := (s.wgOf h).launch.part
      match s.cached (s.coreOf h) part (va.toNat / 2 ^ 16) with
      | some p => some ⟨p.base + va.toNat % 2 ^ 16, p.pin⟩
      | none => match walk s part va.toNat with
        | .ok p => some ⟨p.base + va.toNat % 2 ^ 16, p.pin⟩
        | .error _ => none
  | .thread => if va.toNat < hbmTop then some ⟨va.toNat, none⟩ else none
  | .absent => none

/-- PREF.L2 and PREF.L1: the line is asked for, and a copy of the die that holds it is hit (R377); the control die has no
L2 (R410). -/
def State.prefetch (s : State) (h : Nat) (l1 : Bool) (l : Loc) : State :=
  match (s.ctx h).kind with
  | .team =>
    let core := s.coreOf h
    let die := dieOfCore core
    let guest := s.homeDie l != die
    let hit := if guest then s.guestLine die (l.pa / 128) else s.homeLine (l.pa / 128)
    let s := match hit with
      | some e => s.touch e.1
      | none => s
    s.addFill ⟨l.pa / 128, l.pin, if guest then some die else none, (s.wgOf h).launch.part, if l1 then some core else none⟩
  | .thread => s
  | .absent => s

/-- PREF.GINV. -/
def State.dropGuest (s : State) (h : Nat) (l : Loc) : State :=
  match (s.ctx h).kind with
  | .team => s.dropCopy (dieOfCore (s.coreOf h)) (l.pa / 128)
  | .thread => s
  | .absent => s

/-- PREF.WB: a dirty home line is written to HBM4 and left clean. -/
def State.cleanLine (s : State) (l : Loc) : State :=
  match s.homeLine (l.pa / 128) with
  | some (k, x) => if x.dirty then ((s.writeBack x).putL2 k { x with dirty := false }).meterAdd x.owner 5 128 else s
  | none => s

def prefOp (f : State → Nat → Loc → State) (sw : Bool) (b : SReg) (i : BitVec 10) (s : State) : Out :=
  begin need1 s fun h =>
    let va := s.sreg h b + BitVec.ofNat 64 (i.toNat * 128)
    let u := match (s.ctx h).kind with
      | .team => s.chargeMisses (some (s.coreOf h)) (s.wgOf h).launch.part va 1
      | .thread => s
      | .absent => s
    match s.locate h va with
    | some l => .next ((f u h l).done h 1 sw)
    | none => .next (u.done h 1 sw)

def execPrefL2 (sw : Bool) (b : SReg) (i : BitVec 10) (s : State) : Out := prefOp (fun s h l => s.prefetch h false l) sw b i s
def execPrefL1 (sw : Bool) (b : SReg) (i : BitVec 10) (s : State) : Out := prefOp (fun s h l => s.prefetch h true l) sw b i s
def execPrefGinv (sw : Bool) (b : SReg) (i : BitVec 10) (s : State) : Out := prefOp (fun s h l => s.dropGuest h l) sw b i s
def execPrefWb (sw : Bool) (b : SReg) (i : BitVec 10) (s : State) : Out := prefOp (fun s _ l => s.cleanLine l) sw b i s

/-! ### Fragment moves (R166, R167) -/

/-- Bytes per row or column. -/
def rowBytes (dd : Bool) (w : BitVec 2) : Nat := if dd then 256 else if w == 0#2 then 64 else if w == 1#2 then 32 else 24
/-- The pitch P. -/
def pitchBytes (row : Nat) (p : BitVec 7) : Nat := if p == 0#7 then row else 16 * p.toNat

/-- Address of a lane's first word (R167). -/
def fragAddr (base row pitch lane : Nat) : Nat :=
  base + (64 * (lane / 128) + lane % 128 % 64) * pitch + row / 2 * (lane % 128 / 64)

/-- TMOV: a group of row / 8 registers from or to the scratchpad. -/
def tmovOp (store dd wide : Bool) (sw : Bool) (d : VReg) (a : SReg) (w : BitVec 2) (p : BitVec 7) (s : State) : Out :=
  let row := rowBytes dd w
  let n := row / 2
  begin (needT ((wide || w == 0#2) && w != 3#2 && (p == 0#7 || row ≤ 16 * p.toNat)) (span d n)) s fun h =>
    let base := spBase (s.sreg h a)
    if (s.team h).width % 128 != 0 then .next (s.raise h .illegalOperand 1)
    else if base % 4 != 0 then .next (s.raiseAt h .align 1 (BitVec.ofNat 64 base) 0#1024 true)
    else
      let addr := fun (_ : State) (_ : Nat) l => (BitVec.ofNat 64 (fragAddr base row (pitchBytes row p) l) : Addr)
      if store then .next (s.memory h (storeForm .scratch) (storeAsks s h n d addr) sw)
      else .next (s.memory h (loadForm .scratch (.vec d.toNat) false) (loadAsks s h n addr) sw)

def execTlda (sw : Bool) (d : VReg) (a : SReg) (w : BitVec 2) (p : BitVec 7) (s : State) : Out := tmovOp false false false sw d a w p s
def execTldb (sw : Bool) (d : VReg) (a : SReg) (w : BitVec 2) (p : BitVec 7) (s : State) : Out := tmovOp false false true sw d a w p s
def execTstd (sw : Bool) (d : VReg) (a : SReg) (w : BitVec 2) (p : BitVec 7) (s : State) : Out := tmovOp true true false sw d a w p s
def execTldd (sw : Bool) (d : VReg) (a : SReg) (w : BitVec 2) (p : BitVec 7) (s : State) : Out := tmovOp false true false sw d a w p s

end Sys2Proof.Machine
end

