-- ==== Sys2Proof/Machine/Start.lean ====
section
/-! DEFINITION. Start-up, shutdowns and operating conditions, and errors in memories (R344, R398, R399, R411, R420-R423). -/

namespace Sys2Proof.Machine

/-! ### Start-up (R420-R422) -/

/-- POWER_ON: a cold start begins; what the flash keeps and what the fabric and the hosts have received stays. -/
def State.powerOn (s : State) : State :=
  { State.reset with
    agenda := s.agenda, nextId := s.nextId, freeCtr := s.freeCtr, now := s.now, pkg := s.pkg, serial := s.serial, msgs := s.msgs,
    election := { State.reset.election with pod := s.election.pod, candidates := s.election.candidates, voted := s.election.voted,
                                            epoch := s.election.epoch },
    start := { State.reset.start with kind := 1, fails := s.start.fails, warmok := s.start.warmok, busy := true,
                                      trained := s.start.trained } }

def execPowerOn (s : State) : Out := .next s.powerOn

/-- A failed start (R422). -/
def State.startFails (s : State) (k : Nat) : State :=
  let n := min 3 (s.start.fails + 1)
  { s with start := { s.start with busy := false, cause := k, fails := n, warmok := s.start.warmok && decide (n < 3) } }.msix 0 0

/-- Step 7 without a lock (R344): holdover, reported where it is entered, and on a cold start TIME from TIMESEED, if it was
written. -/
def State.startHoldover (s : State) : State :=
  let t := match s.start.seed with
    | some (v, w) => if s.start.kind == 1 && !s.clock.locked then v + (s.time - w) else s.time
    | none => s.time
  let u := { s with time := t, clock := { s.clock with holdover := true, parent := none, offset := 0 },
                    start := { s.start with hold := true } }
  if s.clock.holdover then u else u.reportClock

/-- Step 1 takes the configuration record (R274, R397, R408): the clusters' budgets, the system owner's fill masks, the pod
and its candidates. -/
def State.configure (s : State) : State :=
  { s with
    clusters := (List.range 144).map fun c =>
      (c, { s.cluster c with cbudget := (Config.cbudget c).val, istep := (Config.istepLess1 c).val + 1 }),
    ways := (List.range 576).map (fun k => (k, Config.systemWays k)) ++ s.ways.filter (fun (e : Nat × BitVec 16) => decide (1024 ≤ e.1)),
    election := { s.election with pod := Config.pod, candidates := Config.candidates } }

/-- Step 1 (R408): the images of the firmware and of the package OS and the configuration record, each with its signature over
its SHA3-512 digest. -/
def imagesVerify : Bool := (List.range 3).all fun k => Config.firmwareVerifies (sha3 (Config.image k)) (Config.imageSign k)

/-- Step 3 of a cold start: HBM4 is trained, and the set that was found is saved, signed with the identity key (R405). -/
def State.train (s : State) : State :=
  let body := Config.trainingSet s.freeCtr
  let g := s.signature (sha3 body)
  { g.1 with start := { g.1.start with trained := some ⟨s.pkg, body, g.2⟩ } }

/-- Step 3 of a warm start: the saved set's signature and package. -/
def State.setVerifies (s : State) : Bool :=
  match s.start.trained with
  | some t => t.pkg == s.pkg && Config.verifies t.pkg (sha3 t.body) t.sign
  | none => false

/-- Step 8: the L2 is invalidated and, on a cold start, HBM4 zeroed. READY rises. -/
def State.startReady (s : State) : State :=
  let cold := s.start.kind == 1
  let s := { s with l2 := [], mem := if cold then [] else s.mem, poison := if cold then [] else s.poison,
                    clusters := s.clusters.map fun (e : Nat × Cluster) => (e.1, { e.2 with boost := 0 }),
                    start := { s.start with ready := true, busy := false, fails := 0, warmok := s.start.warmok || cold } }
  s.msix 0 0

/-- Step 6: a cold start trains every port with EN = 1, those that were up too; a warm start trains those that went down
(R420).  `up` are the ports whose training has succeeded. -/
def State.trainPorts (s : State) (up : List Nat) : State :=
  let s := if s.start.kind == 2 then s
    else { s with ports := s.ports.map fun (e : Nat × Port) => (e.1, if e.2.cfg.getLsbD 0 then { e.2 with linkup := false } else e.2) }
  up.foldl (fun (s : State) p => s.linkUp p) s

/-- What a completed step does. -/
def State.startStep (s : State) (r : StepReport) (k : Nat) : State :=
  let s := if k == 1 then s.configure
    else if k == 3 then (if s.start.kind == 2 then s else s.train)
    else if k == 6 then s.trainPorts r.ports
    else if k == 7 then (match r.lock with
      | some t => s.lockClock t
      | none => s.startHoldover)
    else s
  let s := { s with start := { s.start with step := k } }
  if k == 8 then s.startReady else s

/-- The checks of signatures that the next step of a start makes (R408, R420): step 1, and step 3 of a warm start. -/
def State.stepVerifies (s : State) : Bool :=
  if s.start.step == 0 then imagesVerify
  else if s.start.kind == 2 && s.start.step == 2 then s.setVerifies
  else true

/-- START_STEP_COMPLETE (R420). -/
def execStartStepComplete (r : StepReport) (s : State) : Out :=
  if !s.start.busy then .next s
  else if !r.ok || !s.stepVerifies then .next (s.startFails (s.start.step + 1))
  else .next (s.startStep r (s.start.step + 1))

/-! ### Operating conditions (R411) -/

/-- Every foal that a shutdown finds is cancelled. -/
def State.cancelAll (s : State) : State := s.foals.foldl (fun (s : State) e => s.endFoal e.1 .cancelled none 0#64) s

/-- A shutdown: every context is killed and the compute dies are powered off; STARTSTAT records the cause. -/
def State.shutdown (s : State) (cause : Nat) : State :=
  let cs := (s.cores.filter fun e => e.2.part != 0).map (·.1)
  let s := cs.foldl State.killContext s
  let s := { s.cancelAll with cores := s.cancelAll.cores.map fun (e : Nat × Core) =>
               if e.1 < coreCount then (e.1, { e.2 with step := .running }) else e }
  let s := cs.foldl State.renewImage s.sweep
  { s with powered := false, start := { s.start with cause := cause } }

def execThermalShutdown (s : State) : Out := .next (s.shutdown 9)
def execFlowShutdown (s : State) : Out := .next (s.shutdown 10)
def execSupplyOutOfRange (atLimit : Bool) (s : State) : Out :=
  if atLimit then .next (s.shutdown 11) else .next { s with limited := true }
def execCoolantOutOfRange (s : State) : Out := .next { s with limited := true }
def execOperatingConditionsRestored (s : State) : Out := .next { s with limited := false }

/-! ### Errors in memories (R398, R399, R423) -/

/-- An uncorrectable error is logged (R413). -/
def State.logError (s : State) (what detail : Nat) : State := (s.send (.log what detail)).msix 0 3

/-- MEM_POISON of a tag error in every team of a partition, resident or saved. -/
def State.poisonPartition (s : State) (part : Nat) (addr : DWord) : State :=
  { s with teams := s.teams.map fun (e : Nat × Team) =>
      let c := s.ctx e.1
      if c.kind == .team && (s.wg e.2.wg).launch.part == part then
        (e.1, { e.2 with poison := e.2.poison ++ [⟨c.pc, c.widx, 0#1024, addr, 0#32⟩] })
      else e }

/-- L2_TAG_ERROR: a dirty line, or one whose state is unknown, may have been any of the owners' whose masks hold the way. -/
def State.tagError (s : State) (slice set way : Nat) (unknown : Bool) : State :=
  let k := l2Key slice set way
  let bad := match Store.find k s.l2 with
    | some l => unknown || (l.dirty && !l.guest)
    | none => unknown
  let addr : DWord := BitVec.ofNat 64 (2 ^ 63 + 256 * slice + way)
  let s := (s.dropL2 k).logError 6 (256 * slice + way)
  if !bad then s
  else
    let ps := ((s.parts.filter fun e => e.2.live).map (·.1)).filter fun p => (s.fillMask p slice).getLsbD way
    let s := ps.foldl (fun (s : State) p => s.poisonPartition p addr) s
    if (s.fillMask 0 slice).getLsbD way then s.raiseEvent 0x103 addr else s

def execL2TagError (slice set way : Nat) (unknown : Bool) (s : State) : Out :=
  if slice < 576 && set < 1024 && way < 16 then .next (s.tagError slice set way unknown) else .next s

/-- L2_DATA_ERROR: a clean line is fetched again at its next use; a dirty one is marked poisoned, both its blocks, and the
bytes written so far no longer count for it (R398, R423). -/
def execL2DataError (slice set way : Nat) (s : State) : Out :=
  if !(slice < 576 && set < 1024 && way < 16) then .next s
  else
    let k := l2Key slice set way
    match Store.find k s.l2 with
    | none => .next s
    | some l =>
      if l.guest || !l.dirty then .next ((s.dropL2 k).logError 6 (256 * slice + way))
      else .next ((s.putL2 k { l with pois := 3#2, written := 0#128 }).logError 6 (256 * slice + way))

/-- HBM4_UNCORRECTABLE: the block is poisoned. -/
def execHbm4Uncorrectable (pa : Nat) (s : State) : Out :=
  if pa < hbmTop then .next ((s.setPoison (pa / 64) true).logError 8 pa) else .next s

/-- COPY_SRAM_ERROR: the copy is invalidated, and fetched again at its next use. -/
def execCopySramError (c : CopyUnit) (s : State) : Out :=
  match c with
  | .guest die line => (match s.guestLine die line with
    | some e => .next (s.dropL2 e.1)
    | none => .next s)
  | .l1 core line => .next { s with l1 := Store.erase (l1Key core line) s.l1 }
  | .tlb k => .next { s with tlb := s.tlb.eraseIdx k }

end Sys2Proof.Machine
end

