-- ==== Sys2Proof/Machine/Dispatch.lean ====
section
/-! DEFINITION. One arm per row of the opcode table: instructions and events. -/

namespace Sys2Proof.Machine

def exec (i : Instr) (s : State) : Host.Outcome State Fault Refusal :=
  match i with
  | .br sw o => Sys2Proof.Machine.execBr sw o s
  | .brS1 sw o => Sys2Proof.Machine.execBrS1 sw o s
  | .brS0 sw o => Sys2Proof.Machine.execBrS0 sw o s
  | .brEz sw o => Sys2Proof.Machine.execBrEz sw o s
  | .call sw o => Sys2Proof.Machine.execCall sw o s
  | .jmp sw a => Sys2Proof.Machine.execJmp sw a s
  | .jmpl sw a => Sys2Proof.Machine.execJmpl sw a s
  | .ret sw => Sys2Proof.Machine.execRet sw s
  | .mpush sw m => Sys2Proof.Machine.execMpush sw m s
  | .mpop sw => Sys2Proof.Machine.execMpop sw s
  | .melse sw => Sys2Proof.Machine.execMelse sw s
  | .mdepth sw d => Sys2Proof.Machine.execMdepth sw d s
  | .mand sw m => Sys2Proof.Machine.execMand sw m s
  | .mload sw m => Sys2Proof.Machine.execMload sw m s
  | .msave sw m => Sys2Proof.Machine.execMsave sw m s
  | .mandn sw m => Sys2Proof.Machine.execMandn sw m s
  | .mrd sw d m p => Sys2Proof.Machine.execMrd sw d m p s
  | .mwr sw d m p => Sys2Proof.Machine.execMwr sw d m p s
  | .mpopc sw d m => Sys2Proof.Machine.execMpopc sw d m s
  | .mffs sw d m => Sys2Proof.Machine.execMffs sw d m s
  | .lpack sw => Sys2Proof.Machine.execLpack sw s
  | .lunpack sw => Sys2Proof.Machine.execLunpack sw s
  | .lperm sw d => Sys2Proof.Machine.execLperm sw d s
  | .barSync sw b n => Sys2Proof.Machine.execBarSync sw b n s
  | .barArv sw b n => Sys2Proof.Machine.execBarArv sw b n s
  | .barWt sw b => Sys2Proof.Machine.execBarWt sw b s
  | .exit sw => Sys2Proof.Machine.execExit sw s
  | .exitD sw => Sys2Proof.Machine.execExitD sw s
  | .nop sw => Sys2Proof.Machine.execNop sw s
  | .yield sw => Sys2Proof.Machine.execYield sw s
  | .sleep sw im => Sys2Proof.Machine.execSleep sw im s
  | .sadd sw d b a => Sys2Proof.Machine.execSadd sw d b a s
  | .ssub sw d b a => Sys2Proof.Machine.execSsub sw d b a s
  | .smul sw d b a => Sys2Proof.Machine.execSmul sw d b a s
  | .smulh sw d b a => Sys2Proof.Machine.execSmulh sw d b a s
  | .saddi sw d im => Sys2Proof.Machine.execSaddi sw d im s
  | .smovi sw d im => Sys2Proof.Machine.execSmovi sw d im s
  | .slui sw d im => Sys2Proof.Machine.execSlui sw d im s
  | .sori sw d im => Sys2Proof.Machine.execSori sw d im s
  | .sand sw d b a => Sys2Proof.Machine.execSand sw d b a s
  | .sor sw d b a => Sys2Proof.Machine.execSor sw d b a s
  | .sxor sw d b a => Sys2Proof.Machine.execSxor sw d b a s
  | .sandn sw d b a => Sys2Proof.Machine.execSandn sw d b a s
  | .sshl sw d b a => Sys2Proof.Machine.execSshl sw d b a s
  | .sshr sw d b a => Sys2Proof.Machine.execSshr sw d b a s
  | .ssar sw d b a => Sys2Proof.Machine.execSsar sw d b a s
  | .srot sw d b a => Sys2Proof.Machine.execSrot sw d b a s
  | .scmpeq sw b a => Sys2Proof.Machine.execScmpeq sw b a s
  | .scmplt sw b a => Sys2Proof.Machine.execScmplt sw b a s
  | .scmpltn sw b a => Sys2Proof.Machine.execScmpltn sw b a s
  | .scmple sw b a => Sys2Proof.Machine.execScmple sw b a s
  | .ssel sw d b a => Sys2Proof.Machine.execSsel sw d b a s
  | .smin sw d b a => Sys2Proof.Machine.execSmin sw d b a s
  | .smax sw d b a => Sys2Proof.Machine.execSmax sw d b a s
  | .sminn sw d b a => Sys2Proof.Machine.execSminn sw d b a s
  | .spopc sw d a => Sys2Proof.Machine.execSpopc sw d a s
  | .sclz sw d a => Sys2Proof.Machine.execSclz sw d a s
  | .sctz sw d a => Sys2Proof.Machine.execSctz sw d a s
  | .sbrev sw d a => Sys2Proof.Machine.execSbrev sw d a s
  | .sdiv sw d b a => Sys2Proof.Machine.execSdiv sw d b a s
  | .sdivn sw d b a => Sys2Proof.Machine.execSdivn sw d b a s
  | .srem sw d b a => Sys2Proof.Machine.execSrem sw d b a s
  | .sremn sw d b a => Sys2Proof.Machine.execSremn sw d b a s
  | .sget sw d im => Sys2Proof.Machine.execSget sw d im s
  | .sset sw d im => Sys2Proof.Machine.execSset sw d im s
  | .srdln sw d b a => Sys2Proof.Machine.execSrdln sw d b a s
  | .swrln sw d b a => Sys2Proof.Machine.execSwrln sw d b a s
  | .rclock sw d => Sys2Proof.Machine.execRclock sw d s
  | .rtime sw d => Sys2Proof.Machine.execRtime sw d s
  | .timer sw a => Sys2Proof.Machine.execTimer sw a s
  | .timera sw a => Sys2Proof.Machine.execTimera sw a s
  | .scmpieq sw d im => Sys2Proof.Machine.execScmpieq sw d im s
  | .scmpilt sw d im => Sys2Proof.Machine.execScmpilt sw d im s
  | .scmpiltn sw d im => Sys2Proof.Machine.execScmpiltn sw d im s
  | .viaddI32 sw d b a => Sys2Proof.Machine.execViaddI32 sw d b a s
  | .viaddI16x2 sw d b a => Sys2Proof.Machine.execViaddI16x2 sw d b a s
  | .viaddI8x4 sw d b a => Sys2Proof.Machine.execViaddI8x4 sw d b a s
  | .viaddS32sat sw d b a => Sys2Proof.Machine.execViaddS32sat sw d b a s
  | .visubI32 sw d b a => Sys2Proof.Machine.execVisubI32 sw d b a s
  | .visubI16x2 sw d b a => Sys2Proof.Machine.execVisubI16x2 sw d b a s
  | .visubI8x4 sw d b a => Sys2Proof.Machine.execVisubI8x4 sw d b a s
  | .visubS32sat sw d b a => Sys2Proof.Machine.execVisubS32sat sw d b a s
  | .vimulLo sw d b a => Sys2Proof.Machine.execVimulLo sw d b a s
  | .vimulHs sw d b a => Sys2Proof.Machine.execVimulHs sw d b a s
  | .vimulHn sw d b a => Sys2Proof.Machine.execVimulHn sw d b a s
  | .vimulI16x2 sw d b a => Sys2Proof.Machine.execVimulI16x2 sw d b a s
  | .vimadI32 sw d b a => Sys2Proof.Machine.execVimadI32 sw d b a s
  | .vimadI16x2 sw d b a => Sys2Proof.Machine.execVimadI16x2 sw d b a s
  | .vimadDot4s8 sw d b a => Sys2Proof.Machine.execVimadDot4s8 sw d b a s
  | .vimadDot4n8 sw d b a => Sys2Proof.Machine.execVimadDot4n8 sw d b a s
  | .vlogAnd sw d b a => Sys2Proof.Machine.execVlogAnd sw d b a s
  | .vlogOr sw d b a => Sys2Proof.Machine.execVlogOr sw d b a s
  | .vlogXor sw d b a => Sys2Proof.Machine.execVlogXor sw d b a s
  | .vlogAndn sw d b a => Sys2Proof.Machine.execVlogAndn sw d b a s
  | .vshfShl sw d b a => Sys2Proof.Machine.execVshfShl sw d b a s
  | .vshfShr sw d b a => Sys2Proof.Machine.execVshfShr sw d b a s
  | .vshfSar sw d b a => Sys2Proof.Machine.execVshfSar sw d b a s
  | .vshfRot sw d b a => Sys2Proof.Machine.execVshfRot sw d b a s
  | .vshfiShl sw d b im => Sys2Proof.Machine.execVshfiShl sw d b im s
  | .vshfiShr sw d b im => Sys2Proof.Machine.execVshfiShr sw d b im s
  | .vshfiSar sw d b im => Sys2Proof.Machine.execVshfiSar sw d b im s
  | .vshfiRot sw d b im => Sys2Proof.Machine.execVshfiRot sw d b im s
  | .viminS32min sw d b a => Sys2Proof.Machine.execViminS32min sw d b a s
  | .viminN32min sw d b a => Sys2Proof.Machine.execViminN32min sw d b a s
  | .viminS32max sw d b a => Sys2Proof.Machine.execViminS32max sw d b a s
  | .viminN32max sw d b a => Sys2Proof.Machine.execViminN32max sw d b a s
  | .vbitPopc sw d a => Sys2Proof.Machine.execVbitPopc sw d a s
  | .vbitClz sw d a => Sys2Proof.Machine.execVbitClz sw d a s
  | .vbitBrev sw d a => Sys2Proof.Machine.execVbitBrev sw d a s
  | .vbitFfs sw d a => Sys2Proof.Machine.execVbitFfs sw d a s
  | .vicmpS32 sw l c b a => Sys2Proof.Machine.execVicmpS32 sw l c b a s
  | .vicmpN32 sw l c b a => Sys2Proof.Machine.execVicmpN32 sw l c b a s
  | .vselLm0 sw d b a => Sys2Proof.Machine.execVselLm0 sw d b a s
  | .vselLm1 sw d b a => Sys2Proof.Machine.execVselLm1 sw d b a s
  | .vselLm2 sw d b a => Sys2Proof.Machine.execVselLm2 sw d b a s
  | .vselLm3 sw d b a => Sys2Proof.Machine.execVselLm3 sw d b a s
  | .vmov sw d a => Sys2Proof.Machine.execVmov sw d a s
  | .vsx16 sw d a => Sys2Proof.Machine.execVsx16 sw d a s
  | .vsx8 sw d a => Sys2Proof.Machine.execVsx8 sw d a s
  | .vzx16 sw d a => Sys2Proof.Machine.execVzx16 sw d a s
  | .vfaddF32 sw d b a => Sys2Proof.Machine.execVfaddF32 sw d b a s
  | .vfaddF16x2 sw d b a => Sys2Proof.Machine.execVfaddF16x2 sw d b a s
  | .vfaddBf16x2 sw d b a => Sys2Proof.Machine.execVfaddBf16x2 sw d b a s
  | .vfsubF32 sw d b a => Sys2Proof.Machine.execVfsubF32 sw d b a s
  | .vfsubF16x2 sw d b a => Sys2Proof.Machine.execVfsubF16x2 sw d b a s
  | .vfsubBf16x2 sw d b a => Sys2Proof.Machine.execVfsubBf16x2 sw d b a s
  | .vfmulF32 sw d b a => Sys2Proof.Machine.execVfmulF32 sw d b a s
  | .vfmulF16x2 sw d b a => Sys2Proof.Machine.execVfmulF16x2 sw d b a s
  | .vfmulBf16x2 sw d b a => Sys2Proof.Machine.execVfmulBf16x2 sw d b a s
  | .vfmaF32 sw d b a => Sys2Proof.Machine.execVfmaF32 sw d b a s
  | .vfmaF16x2 sw d b a => Sys2Proof.Machine.execVfmaF16x2 sw d b a s
  | .vfmaBf16x2 sw d b a => Sys2Proof.Machine.execVfmaBf16x2 sw d b a s
  | .vfminF32 sw d b a => Sys2Proof.Machine.execVfminF32 sw d b a s
  | .vfmaxF32 sw d b a => Sys2Proof.Machine.execVfmaxF32 sw d b a s
  | .vfminF16x2 sw d b a => Sys2Proof.Machine.execVfminF16x2 sw d b a s
  | .vfmaxF16x2 sw d b a => Sys2Proof.Machine.execVfmaxF16x2 sw d b a s
  | .vfcmpF32 sw l c b a => Sys2Proof.Machine.execVfcmpF32 sw l c b a s
  | .vfcmpF16 sw l c b a => Sys2Proof.Machine.execVfcmpF16 sw l c b a s
  | .vfcmpBf16 sw l c b a => Sys2Proof.Machine.execVfcmpBf16 sw l c b a s
  | .vfcvtRne sw d k a => Sys2Proof.Machine.execVfcvtRne sw d k a s
  | .vfcvtRtz sw d k a => Sys2Proof.Machine.execVfcvtRtz sw d k a s
  | .vfcvtDn sw d k a => Sys2Proof.Machine.execVfcvtDn sw d k a s
  | .vfcvtUp sw d k a => Sys2Proof.Machine.execVfcvtUp sw d k a s
  | .vrcp sw d a => Sys2Proof.Machine.execVrcp sw d a s
  | .vrsq sw d a => Sys2Proof.Machine.execVrsq sw d a s
  | .vex2 sw d a => Sys2Proof.Machine.execVex2 sw d a s
  | .vlg2 sw d a => Sys2Proof.Machine.execVlg2 sw d a s
  | .vsinpi sw d a => Sys2Proof.Machine.execVsinpi sw d a s
  | .vcospi sw d a => Sys2Proof.Machine.execVcospi sw d a s
  | .vsqrt sw d a => Sys2Proof.Machine.execVsqrt sw d a s
  | .vtanh sw d a => Sys2Proof.Machine.execVtanh sw d a s
  | .vfrndRne sw d a => Sys2Proof.Machine.execVfrndRne sw d a s
  | .vfrndRtz sw d a => Sys2Proof.Machine.execVfrndRtz sw d a s
  | .vfrndFloor sw d a => Sys2Proof.Machine.execVfrndFloor sw d a s
  | .vfrndCeil sw d a => Sys2Proof.Machine.execVfrndCeil sw d a s
  | .vfdotDot2bf16 sw d b a => Sys2Proof.Machine.execVfdotDot2bf16 sw d b a s
  | .vfdotDot2f16 sw d b a => Sys2Proof.Machine.execVfdotDot2f16 sw d b a s
  | .vfdotDot4f8e4 sw d b a => Sys2Proof.Machine.execVfdotDot4f8e4 sw d b a s
  | .vfdotDot4f8e5 sw d b a => Sys2Proof.Machine.execVfdotDot4f8e5 sw d b a s
  | .vmaxiMax sw d b a => Sys2Proof.Machine.execVmaxiMax sw d b a s
  | .vmaxiMin sw d b a => Sys2Proof.Machine.execVmaxiMin sw d b a s
  | .vpackF16x2 sw d b a => Sys2Proof.Machine.execVpackF16x2 sw d b a s
  | .vpackBf16x2 sw d b a => Sys2Proof.Machine.execVpackBf16x2 sw d b a s
  | .vpackS16x2sat sw d b a => Sys2Proof.Machine.execVpackS16x2sat sw d b a s
  | .vexpd sw d p a => Sys2Proof.Machine.execVexpd sw d p a s
  | .vhashCrc32c sw d b a => Sys2Proof.Machine.execVhashCrc32c sw d b a s
  | .vhashMix32 sw d b a => Sys2Proof.Machine.execVhashMix32 sw d b a s
  | .vshflIdx sw d b a => Sys2Proof.Machine.execVshflIdx sw d b a s
  | .vshflXor sw d b a => Sys2Proof.Machine.execVshflXor sw d b a s
  | .vshflUp sw d b a => Sys2Proof.Machine.execVshflUp sw d b a s
  | .vshflDown sw d b a => Sys2Proof.Machine.execVshflDown sw d b a s
  | .vredAdd sw d t a => Sys2Proof.Machine.execVredAdd sw d t a s
  | .vredMax sw d t a => Sys2Proof.Machine.execVredMax sw d t a s
  | .vredMin sw d t a => Sys2Proof.Machine.execVredMin sw d t a s
  | .vredMaxi sw d t a => Sys2Proof.Machine.execVredMaxi sw d t a s
  | .vscanInclAddS32 sw d a => Sys2Proof.Machine.execVscanInclAddS32 sw d a s
  | .vscanExclAddS32 sw d a => Sys2Proof.Machine.execVscanExclAddS32 sw d a s
  | .vscanInclAddF32 sw d a => Sys2Proof.Machine.execVscanInclAddF32 sw d a s
  | .vscanInclMaxi sw d a => Sys2Proof.Machine.execVscanInclMaxi sw d a s
  | .ballot sw l a => Sys2Proof.Machine.execBallot sw l a s
  | .mpre sw l d => Sys2Proof.Machine.execMpre sw l d s
  | .vany sw a => Sys2Proof.Machine.execVany sw a s
  | .vall sw a => Sys2Proof.Machine.execVall sw a s
  | .ldvB8 sw d b im => Sys2Proof.Machine.execLdvB8 sw d b im s
  | .ldvB16 sw d b im => Sys2Proof.Machine.execLdvB16 sw d b im s
  | .ldvB32 sw d b im => Sys2Proof.Machine.execLdvB32 sw d b im s
  | .ldvB64 sw d b im => Sys2Proof.Machine.execLdvB64 sw d b im s
  | .ldvsS8 sw d b im => Sys2Proof.Machine.execLdvsS8 sw d b im s
  | .ldvsS16 sw d b im => Sys2Proof.Machine.execLdvsS16 sw d b im s
  | .ldgB8 sw k d b x => Sys2Proof.Machine.execLdgB8 sw k d b x s
  | .ldgB16 sw k d b x => Sys2Proof.Machine.execLdgB16 sw k d b x s
  | .ldgB32 sw k d b x => Sys2Proof.Machine.execLdgB32 sw k d b x s
  | .ldgB64 sw k d b x => Sys2Proof.Machine.execLdgB64 sw k d b x s
  | .stvB8 sw d b im => Sys2Proof.Machine.execStvB8 sw d b im s
  | .stvB16 sw d b im => Sys2Proof.Machine.execStvB16 sw d b im s
  | .stvB32 sw d b im => Sys2Proof.Machine.execStvB32 sw d b im s
  | .stvB64 sw d b im => Sys2Proof.Machine.execStvB64 sw d b im s
  | .stgB8 sw k d b x => Sys2Proof.Machine.execStgB8 sw k d b x s
  | .stgB16 sw k d b x => Sys2Proof.Machine.execStgB16 sw k d b x s
  | .stgB32 sw k d b x => Sys2Proof.Machine.execStgB32 sw k d b x s
  | .stgB64 sw k d b x => Sys2Proof.Machine.execStgB64 sw k d b x s
  | .ldsB8 sw d b im => Sys2Proof.Machine.execLdsB8 sw d b im s
  | .ldsB16 sw d b im => Sys2Proof.Machine.execLdsB16 sw d b im s
  | .ldsB32 sw d b im => Sys2Proof.Machine.execLdsB32 sw d b im s
  | .ldsB64 sw d b im => Sys2Proof.Machine.execLdsB64 sw d b im s
  | .stsB8 sw d b im => Sys2Proof.Machine.execStsB8 sw d b im s
  | .stsB16 sw d b im => Sys2Proof.Machine.execStsB16 sw d b im s
  | .stsB32 sw d b im => Sys2Proof.Machine.execStsB32 sw d b im s
  | .stsB64 sw d b im => Sys2Proof.Machine.execStsB64 sw d b im s
  | .ldspB8 sw k d b x => Sys2Proof.Machine.execLdspB8 sw k d b x s
  | .ldspB16 sw k d b x => Sys2Proof.Machine.execLdspB16 sw k d b x s
  | .ldspB32 sw k d b x => Sys2Proof.Machine.execLdspB32 sw k d b x s
  | .ldspB64 sw k d b x => Sys2Proof.Machine.execLdspB64 sw k d b x s
  | .stspB8 sw k d b x => Sys2Proof.Machine.execStspB8 sw k d b x s
  | .stspB16 sw k d b x => Sys2Proof.Machine.execStspB16 sw k d b x s
  | .stspB32 sw k d b x => Sys2Proof.Machine.execStspB32 sw k d b x s
  | .stspB64 sw k d b x => Sys2Proof.Machine.execStspB64 sw k d b x s
  | .sldspB32 sw d b im => Sys2Proof.Machine.execSldspB32 sw d b im s
  | .sldspB64 sw d b im => Sys2Proof.Machine.execSldspB64 sw d b im s
  | .sstspB32 sw d b im => Sys2Proof.Machine.execSstspB32 sw d b im s
  | .sstspB64 sw d b im => Sys2Proof.Machine.execSstspB64 sw d b im s
  | .atomAddI32 sw o c d a => Sys2Proof.Machine.execAtomAddI32 sw o c d a s
  | .atomAddF32 sw o c d a => Sys2Proof.Machine.execAtomAddF32 sw o c d a s
  | .atomMinS32 sw o c d a => Sys2Proof.Machine.execAtomMinS32 sw o c d a s
  | .atomMaxS32 sw o c d a => Sys2Proof.Machine.execAtomMaxS32 sw o c d a s
  | .atomMinN32 sw o c d a => Sys2Proof.Machine.execAtomMinN32 sw o c d a s
  | .atomMaxN32 sw o c d a => Sys2Proof.Machine.execAtomMaxN32 sw o c d a s
  | .atomAnd sw o c d a => Sys2Proof.Machine.execAtomAnd sw o c d a s
  | .atomOr sw o c d a => Sys2Proof.Machine.execAtomOr sw o c d a s
  | .atomXor sw o c d a => Sys2Proof.Machine.execAtomXor sw o c d a s
  | .atomExch sw o c d a => Sys2Proof.Machine.execAtomExch sw o c d a s
  | .atomCas sw o c d a => Sys2Proof.Machine.execAtomCas sw o c d a s
  | .atomMaxi sw o c d a => Sys2Proof.Machine.execAtomMaxi sw o c d a s
  | .atomAddF16x2 sw o c d a => Sys2Proof.Machine.execAtomAddF16x2 sw o c d a s
  | .atomAddI64 sw o c d a => Sys2Proof.Machine.execAtomAddI64 sw o c d a s
  | .atomsAddI32 sw o c d a => Sys2Proof.Machine.execAtomsAddI32 sw o c d a s
  | .atomsAddF32 sw o c d a => Sys2Proof.Machine.execAtomsAddF32 sw o c d a s
  | .atomsMinS32 sw o c d a => Sys2Proof.Machine.execAtomsMinS32 sw o c d a s
  | .atomsMaxS32 sw o c d a => Sys2Proof.Machine.execAtomsMaxS32 sw o c d a s
  | .atomsMinN32 sw o c d a => Sys2Proof.Machine.execAtomsMinN32 sw o c d a s
  | .atomsMaxN32 sw o c d a => Sys2Proof.Machine.execAtomsMaxN32 sw o c d a s
  | .atomsAnd sw o c d a => Sys2Proof.Machine.execAtomsAnd sw o c d a s
  | .atomsOr sw o c d a => Sys2Proof.Machine.execAtomsOr sw o c d a s
  | .atomsXor sw o c d a => Sys2Proof.Machine.execAtomsXor sw o c d a s
  | .atomsExch sw o c d a => Sys2Proof.Machine.execAtomsExch sw o c d a s
  | .atomsCas sw o c d a => Sys2Proof.Machine.execAtomsCas sw o c d a s
  | .atomsMaxi sw o c d a => Sys2Proof.Machine.execAtomsMaxi sw o c d a s
  | .atomsAddF16x2 sw o c d a => Sys2Proof.Machine.execAtomsAddF16x2 sw o c d a s
  | .atomsAddI64 sw o c d a => Sys2Proof.Machine.execAtomsAddI64 sw o c d a s
  | .redAddI32 sw o c d a => Sys2Proof.Machine.execRedAddI32 sw o c d a s
  | .redAddF32 sw o c d a => Sys2Proof.Machine.execRedAddF32 sw o c d a s
  | .redMinS32 sw o c d a => Sys2Proof.Machine.execRedMinS32 sw o c d a s
  | .redMaxS32 sw o c d a => Sys2Proof.Machine.execRedMaxS32 sw o c d a s
  | .redMinN32 sw o c d a => Sys2Proof.Machine.execRedMinN32 sw o c d a s
  | .redMaxN32 sw o c d a => Sys2Proof.Machine.execRedMaxN32 sw o c d a s
  | .redAnd sw o c d a => Sys2Proof.Machine.execRedAnd sw o c d a s
  | .redOr sw o c d a => Sys2Proof.Machine.execRedOr sw o c d a s
  | .redXor sw o c d a => Sys2Proof.Machine.execRedXor sw o c d a s
  | .redMaxi sw o c d a => Sys2Proof.Machine.execRedMaxi sw o c d a s
  | .redAddF16x2 sw o c d a => Sys2Proof.Machine.execRedAddF16x2 sw o c d a s
  | .redAddI64 sw o c d a => Sys2Proof.Machine.execRedAddI64 sw o c d a s
  | .ldaB16 sw o c d a => Sys2Proof.Machine.execLdaB16 sw o c d a s
  | .ldaB32 sw o c d a => Sys2Proof.Machine.execLdaB32 sw o c d a s
  | .ldaB64 sw o c d a => Sys2Proof.Machine.execLdaB64 sw o c d a s
  | .stlB16 sw o c d a => Sys2Proof.Machine.execStlB16 sw o c d a s
  | .stlB32 sw o c d a => Sys2Proof.Machine.execStlB32 sw o c d a s
  | .stlB64 sw o c d a => Sys2Proof.Machine.execStlB64 sw o c d a s
  | .fenceAcq sw c => Sys2Proof.Machine.execFenceAcq sw c s
  | .fenceRel sw c => Sys2Proof.Machine.execFenceRel sw c s
  | .fenceAr sw c => Sys2Proof.Machine.execFenceAr sw c s
  | .fenceSc sw c => Sys2Proof.Machine.execFenceSc sw c s
  | .lcpy4 sw d b v => Sys2Proof.Machine.execLcpy4 sw d b v s
  | .lcpy8 sw d b v => Sys2Proof.Machine.execLcpy8 sw d b v s
  | .lcpy16 sw d b v => Sys2Proof.Machine.execLcpy16 sw d b v s
  | .lcpy32 sw d b v => Sys2Proof.Machine.execLcpy32 sw d b v s
  | .waitvEq sw a v => Sys2Proof.Machine.execWaitvEq sw a v s
  | .waitvNe sw a v => Sys2Proof.Machine.execWaitvNe sw a v s
  | .waitvGe sw a v => Sys2Proof.Machine.execWaitvGe sw a v s
  | .waitvLt sw a v => Sys2Proof.Machine.execWaitvLt sw a v s
  | .prefL2 sw b im => Sys2Proof.Machine.execPrefL2 sw b im s
  | .prefL1 sw b im => Sys2Proof.Machine.execPrefL1 sw b im s
  | .prefGinv sw b im => Sys2Proof.Machine.execPrefGinv sw b im s
  | .prefWb sw b im => Sys2Proof.Machine.execPrefWb sw b im s
  | .mmaDense sw d a b fx => Sys2Proof.Machine.execMmaDense sw d a b fx s
  | .mmaSp sw d a b fx => Sys2Proof.Machine.execMmaSp sw d a b fx s
  | .mmaZ sw d a b fx => Sys2Proof.Machine.execMmaZ sw d a b fx s
  | .tmmaAcc sw r m n fx => Sys2Proof.Machine.execTmmaAcc sw r m n fx s
  | .tmmaZ sw r m n fx => Sys2Proof.Machine.execTmmaZ sw r m n fx s
  | .tlda sw d a w p => Sys2Proof.Machine.execTlda sw d a w p s
  | .tldb sw d a w p => Sys2Proof.Machine.execTldb sw d a w p s
  | .tstd sw d a w p => Sys2Proof.Machine.execTstd sw d a w p s
  | .tldd sw d a w p => Sys2Proof.Machine.execTldd sw d a w p s
  | .cpyGs sw r b fx => Sys2Proof.Machine.execCpyGs sw r b fx s
  | .cpySg sw r b fx => Sys2Proof.Machine.execCpySg sw r b fx s
  | .cpyGg sw r b fx => Sys2Proof.Machine.execCpyGg sw r b fx s
  | .cpySs sw r b fx => Sys2Proof.Machine.execCpySs sw r b fx s
  | .cplFill sw r g fx => Sys2Proof.Machine.execCplFill sw r g fx s
  | .cplDrain sw r g fx => Sys2Proof.Machine.execCplDrain sw r g fx s
  | .lcseal sw t => Sys2Proof.Machine.execLcseal sw t s
  | .collAr sw r b fx => Sys2Proof.Machine.execCollAr sw r b fx s
  | .collAg sw r b fx => Sys2Proof.Machine.execCollAg sw r b fx s
  | .collRs sw r b fx => Sys2Proof.Machine.execCollRs sw r b fx s
  | .collBc sw r b fx => Sys2Proof.Machine.execCollBc sw r b fx s
  | .fwait sw d b => Sys2Proof.Machine.execFwait sw d b s
  | .fwaitT sw d b => Sys2Proof.Machine.execFwaitT sw d b s
  | .ftest sw d b => Sys2Proof.Machine.execFtest sw d b s
  | .fwaitall sw d => Sys2Proof.Machine.execFwaitall sw d s
  | .fcancel sw b => Sys2Proof.Machine.execFcancel sw b s
  | .fdetach sw b => Sys2Proof.Machine.execFdetach sw b s
  | .fprio sw b a => Sys2Proof.Machine.execFprio sw b a s
  | .fstat sw d b a => Sys2Proof.Machine.execFstat sw d b a s
  | .pwrhD sw im o l => Sys2Proof.Machine.execPwrhD sw im o l s
  | .pwrhX sw l => Sys2Proof.Machine.execPwrhX sw l s
  | .pwrhE sw => Sys2Proof.Machine.execPwrhE sw s
  | .pwrhQ sw => Sys2Proof.Machine.execPwrhQ sw s
  | .racq sw d b => Sys2Proof.Machine.execRacq sw d b s
  | .rrel sw b => Sys2Proof.Machine.execRrel sw b s
  | .rinit sw b a => Sys2Proof.Machine.execRinit sw b a s
  | .rstat sw d b => Sys2Proof.Machine.execRstat sw d b s
  | .tbinit sw b a => Sys2Proof.Machine.execTbinit sw b a s
  | .tbarv sw d b => Sys2Proof.Machine.execTbarv sw d b s
  | .tbwait sw d b a => Sys2Proof.Machine.execTbwait sw d b a s
  | .tbexp sw b a => Sys2Proof.Machine.execTbexp sw b a s
  | .qpostL sw d b a => Sys2Proof.Machine.execQpostL sw d b a s
  | .qpostR sw d b a => Sys2Proof.Machine.execQpostR sw d b a s
  | .qpostS sw d b a => Sys2Proof.Machine.execQpostS sw d b a s
  | .rtake sw d => Sys2Proof.Machine.execRtake sw d s
  | .rsplit sw d => Sys2Proof.Machine.execRsplit sw d s
  | .rdone sw b => Sys2Proof.Machine.execRdone sw b s
  | .cntAdd sw d l a => Sys2Proof.Machine.execCntAdd sw d l a s
  | .cntWait sw d l a => Sys2Proof.Machine.execCntWait sw d l a s
  | .cntRd sw d l a => Sys2Proof.Machine.execCntRd sw d l a s
  | .cntCncl sw l a => Sys2Proof.Machine.execCntCncl sw l a s
  | .trap sw im => Sys2Proof.Machine.execTrap sw im s
  | .brk sw im => Sys2Proof.Machine.execBrk sw im s
  | .halt sw => Sys2Proof.Machine.execHalt sw s
  | .csrr sw d a => Sys2Proof.Machine.execCsrr sw d a s
  | .csrw sw d b a => Sys2Proof.Machine.execCsrw sw d b a s
  | .csrs sw d b a => Sys2Proof.Machine.execCsrs sw d b a s
  | .csrc sw d b a => Sys2Proof.Machine.execCsrc sw d b a s
  | .eret sw => Sys2Proof.Machine.execEret sw s
  | .tlbiVa sw a => Sys2Proof.Machine.execTlbiVa sw a s
  | .tlbiPart sw a => Sys2Proof.Machine.execTlbiPart sw a s
  | .tlbiAll sw => Sys2Proof.Machine.execTlbiAll sw s
  | .tlbiSync sw => Sys2Proof.Machine.execTlbiSync sw s
  | .mrdc sw d a => Sys2Proof.Machine.execMrdc sw d a s
  | .msign sw d b a => Sys2Proof.Machine.execMsign sw d b a s
  | .rctxRd sw d b a => Sys2Proof.Machine.execRctxRd sw d b a s
  | .rctxWr sw d b a => Sys2Proof.Machine.execRctxWr sw d b a s
  | .rctxResume sw d b a => Sys2Proof.Machine.execRctxResume sw d b a s
  | .rctxKill sw d b a => Sys2Proof.Machine.execRctxKill sw d b a s
  | .switchArm sw d b => Sys2Proof.Machine.execSwitchArm sw d b s
  | .switchUrgent sw d b => Sys2Proof.Machine.execSwitchUrgent sw d b s
  | .switchCancel sw d a => Sys2Proof.Machine.execSwitchCancel sw d a s
  | .partCreate sw d b a => Sys2Proof.Machine.execPartCreate sw d b a s
  | .partDestroy sw d a => Sys2Proof.Machine.execPartDestroy sw d a s
  | .partBitmap sw d b a => Sys2Proof.Machine.execPartBitmap sw d b a s
  | .partWays sw d b a => Sys2Proof.Machine.execPartWays sw d b a s
  | .capr sw d a => Sys2Proof.Machine.execCapr sw d a s
  | .clauseFetch => Sys2Proof.Machine.execClauseFetch s
  | .parkResume h => Sys2Proof.Machine.execParkResume h s
  | .loadReturn t r lanes => Sys2Proof.Machine.execLoadReturn t r lanes s
  | .storeAck t r => Sys2Proof.Machine.execStoreAck t r s
  | .homeWriteApply t r lane => Sys2Proof.Machine.execHomeWriteApply t r lane s
  | .guestInvalidation die => Sys2Proof.Machine.execGuestInvalidation die s
  | .lineFill k => Sys2Proof.Machine.execLineFill k s
  | .translationWalkComplete core part va => Sys2Proof.Machine.execTranslationWalkComplete core part va s
  | .laneCopyLand t c => Sys2Proof.Machine.execLaneCopyLand t c s
  | .sleepEnd t => Sys2Proof.Machine.execSleepEnd t s
  | .timerFire t => Sys2Proof.Machine.execTimerFire t s
  | .watchdogExpire t => Sys2Proof.Machine.execWatchdogExpire t s
  | .faultRecordSend t => Sys2Proof.Machine.execFaultRecordSend t s
  | .matrixStep core => Sys2Proof.Machine.execMatrixStep core s
  | .copySectorIssue core slot => Sys2Proof.Machine.execCopySectorIssue core slot s
  | .copySectorLand core slot n => Sys2Proof.Machine.execCopySectorLand core slot n s
  | .cplIterationStart core slot => Sys2Proof.Machine.execCplIterationStart core slot s
  | .collChunkSend core slot => Sys2Proof.Machine.execCollChunkSend core slot s
  | .fabricChunkReceive port f => Sys2Proof.Machine.execFabricChunkReceive port f s
  | .fabricAckReceive port f => Sys2Proof.Machine.execFabricAckReceive port f s
  | .fabricRefusalReceive port f => Sys2Proof.Machine.execFabricRefusalReceive port f s
  | .fabricNoticeReceive port f => Sys2Proof.Machine.execFabricNoticeReceive port f s
  | .trapRecordReceive port f => Sys2Proof.Machine.execTrapRecordReceive port f s
  | .trapReplyReceive port f => Sys2Proof.Machine.execTrapReplyReceive port f s
  | .linkAckFrameReceive port f => Sys2Proof.Machine.execLinkAckFrameReceive port f s
  | .frameForward port f => Sys2Proof.Machine.execFrameForward port f s
  | .linkRetryTimeout port => Sys2Proof.Machine.execLinkRetryTimeout port s
  | .portLinkUp port => Sys2Proof.Machine.execPortLinkUp port s
  | .ackResendTimer k => Sys2Proof.Machine.execAckResendTimer k s
  | .ptpSyncReceive port m => Sys2Proof.Machine.execPtpSyncReceive port m s
  | .ptpPdelayReqReceive port m => Sys2Proof.Machine.execPtpPdelayReqReceive port m s
  | .ptpPdelayRespReceive port m => Sys2Proof.Machine.execPtpPdelayRespReceive port m s
  | .ptpPdelayRespFollowUp port m => Sys2Proof.Machine.execPtpPdelayRespFollowUp port m s
  | .ptpManagementReceive port m => Sys2Proof.Machine.execPtpManagementReceive port m s
  | .ptpSyncInterval port => Sys2Proof.Machine.execPtpSyncInterval port s
  | .ptpPdelayReqInterval port => Sys2Proof.Machine.execPtpPdelayReqInterval port s
  | .holdoverEnter => Sys2Proof.Machine.execHoldoverEnter s
  | .ptpLock tai => Sys2Proof.Machine.execPtpLock tai s
  | .heartbeatSend => Sys2Proof.Machine.execHeartbeatSend s
  | .heartbeatReceive src epoch won => Sys2Proof.Machine.execHeartbeatReceive src epoch won s
  | .heartbeatLoss => Sys2Proof.Machine.execHeartbeatLoss s
  | .voteRequestReceive src epoch => Sys2Proof.Machine.execVoteRequestReceive src epoch s
  | .voteReceive src epoch cand => Sys2Proof.Machine.execVoteReceive src epoch cand s
  | .timetablePageReceive pa page => Sys2Proof.Machine.execTimetablePageReceive pa page s
  | .urgentRequestReceive part job inc len => Sys2Proof.Machine.execUrgentRequestReceive part job inc len s
  | .injectionStop k => Sys2Proof.Machine.execInjectionStop k s
  | .switchStart k => Sys2Proof.Machine.execSwitchStart k s
  | .haltComplete core => Sys2Proof.Machine.execHaltComplete core s
  | .drainWindowClose core => Sys2Proof.Machine.execDrainWindowClose core s
  | .contextSaveComplete core => Sys2Proof.Machine.execContextSaveComplete core s
  | .contextRestore part n core => Sys2Proof.Machine.execContextRestore part n core s
  | .overrunHoldEnd core => Sys2Proof.Machine.execOverrunHoldEnd core s
  | .switchWatchdogExpire part => Sys2Proof.Machine.execSwitchWatchdogExpire part s
  | .slotEnd part => Sys2Proof.Machine.execSlotEnd part s
  | .usageRecordPeriodic part => Sys2Proof.Machine.execUsageRecordPeriodic part s
  | .coreSwitchOut core => Sys2Proof.Machine.execCoreSwitchOut core s
  | .coreSwitchIn part n core => Sys2Proof.Machine.execCoreSwitchIn part n core s
  | .controlIntervalBoundary m => Sys2Proof.Machine.execControlIntervalBoundary m s
  | .powerWindowStart t => Sys2Proof.Machine.execPowerWindowStart t s
  | .powerWindowEnd t => Sys2Proof.Machine.execPowerWindowEnd t s
  | .undeclaredThrottleEnd core slot => Sys2Proof.Machine.execUndeclaredThrottleEnd core slot s
  | .queuePop part => Sys2Proof.Machine.execQueuePop part s
  | .signalPacketWrite part q => Sys2Proof.Machine.execSignalPacketWrite part q s
  | .queueTranslationRetry part => Sys2Proof.Machine.execQueueTranslationRetry part s
  | .workgroupPlace e core => Sys2Proof.Machine.execWorkgroupPlace e core s
  | .controlEventException h => Sys2Proof.Machine.execControlEventException h s
  | .partCreateComplete part => Sys2Proof.Machine.execPartCreateComplete part s
  | .l2TagError slice set way unknown => Sys2Proof.Machine.execL2TagError slice set way unknown s
  | .l2DataError slice set way => Sys2Proof.Machine.execL2DataError slice set way s
  | .hbm4Uncorrectable pa => Sys2Proof.Machine.execHbm4Uncorrectable pa s
  | .copySramError c => Sys2Proof.Machine.execCopySramError c s
  | .hostMemoryWrite link fn bar off bytes => Sys2Proof.Machine.execHostMemoryWrite link fn bar off bytes s
  | .hostMemoryRead link fn bar off len => Sys2Proof.Machine.execHostMemoryRead link fn bar off len s
  | .hostConfigRequest link fn off => Sys2Proof.Machine.execHostConfigRequest link fn off s
  | .msixVectorUnmask fn vec => Sys2Proof.Machine.execMsixVectorUnmask fn vec s
  | .attestGo w => Sys2Proof.Machine.execAttestGo w s
  | .attestComplete w => Sys2Proof.Machine.execAttestComplete w s
  | .startRequest v => Sys2Proof.Machine.execStartRequest v s
  | .portcfgWrite port v => Sys2Proof.Machine.execPortcfgWrite port v s
  | .registerWrite off v => Sys2Proof.Machine.execRegisterWrite off v s
  | .powerOn => Sys2Proof.Machine.execPowerOn s
  | .startStepComplete ok => Sys2Proof.Machine.execStartStepComplete ok s
  | .thermalShutdown => Sys2Proof.Machine.execThermalShutdown s
  | .flowShutdown => Sys2Proof.Machine.execFlowShutdown s
  | .supplyOutOfRange atLimit => Sys2Proof.Machine.execSupplyOutOfRange atLimit s
  | .reservedOpcodeIssue w => Sys2Proof.Machine.execReservedOpcodeIssue w s
  | .partDestroyComplete part => Sys2Proof.Machine.execPartDestroyComplete part s
  | .badFcsFrameReceive port => Sys2Proof.Machine.execBadFcsFrameReceive port s
  | .coolantOutOfRange => Sys2Proof.Machine.execCoolantOutOfRange s
  | .operatingConditionsRestored => Sys2Proof.Machine.execOperatingConditionsRestored s

end Sys2Proof.Machine
end

