-- ==== Sys2Proof/Machine/Sched.lean ====
section
/-! DEFINITION. What comes next: what falls due by itself at a TIME, how time passes, which hart issues, and what the units
other than the harts do when no hart can (R20, R118, R332-R337; log 4). -/

namespace Sys2Proof.Machine

/-! ### Events -/

/-- The rows of the opcode table that are events of a unit or of the outside world. -/
def Instr.isEvent : Instr → Bool
  | .clauseFetch => true
  | .parkResume _ => true
  | .loadReturn _ _ _ => true
  | .storeAck _ _ => true
  | .homeWriteApply _ _ _ => true
  | .guestInvalidation _ => true
  | .lineFill _ => true
  | .translationWalkComplete _ _ _ => true
  | .laneCopyLand _ _ => true
  | .sleepEnd _ => true
  | .timerFire _ => true
  | .watchdogExpire _ => true
  | .faultRecordSend _ => true
  | .matrixStep _ => true
  | .copySectorIssue _ _ => true
  | .copySectorLand _ _ _ => true
  | .cplIterationStart _ _ => true
  | .collChunkSend _ _ => true
  | .fabricChunkReceive _ _ => true
  | .fabricAckReceive _ _ => true
  | .fabricRefusalReceive _ _ => true
  | .fabricNoticeReceive _ _ => true
  | .trapRecordReceive _ _ => true
  | .trapReplyReceive _ _ => true
  | .linkAckFrameReceive _ _ => true
  | .frameForward _ _ => true
  | .linkRetryTimeout _ => true
  | .portLinkUp _ => true
  | .ackResendTimer _ => true
  | .ptpSyncReceive _ _ => true
  | .ptpPdelayReqReceive _ _ => true
  | .ptpPdelayRespReceive _ _ => true
  | .ptpPdelayRespFollowUp _ _ => true
  | .ptpManagementReceive _ _ => true
  | .ptpSyncInterval _ => true
  | .ptpPdelayReqInterval _ => true
  | .holdoverEnter => true
  | .ptpLock _ => true
  | .heartbeatSend => true
  | .heartbeatReceive _ _ _ => true
  | .heartbeatLoss => true
  | .voteRequestReceive _ _ => true
  | .voteReceive _ _ _ => true
  | .timetablePageReceive _ _ => true
  | .urgentRequestReceive _ _ _ _ => true
  | .injectionStop _ => true
  | .switchStart _ => true
  | .haltComplete _ => true
  | .drainWindowClose _ => true
  | .contextSaveComplete _ => true
  | .contextRestore _ _ _ => true
  | .overrunHoldEnd _ => true
  | .switchWatchdogExpire _ => true
  | .slotEnd _ => true
  | .usageRecordPeriodic _ => true
  | .coreSwitchOut _ => true
  | .coreSwitchIn _ _ _ => true
  | .controlIntervalBoundary _ => true
  | .powerWindowStart _ => true
  | .powerWindowEnd _ => true
  | .undeclaredThrottleEnd _ _ => true
  | .queuePop _ => true
  | .signalPacketWrite _ _ => true
  | .queueTranslationRetry _ => true
  | .workgroupPlace _ _ => true
  | .controlEventException _ => true
  | .partCreateComplete _ => true
  | .l2TagError _ _ _ _ => true
  | .l2DataError _ _ _ => true
  | .hbm4Uncorrectable _ => true
  | .copySramError _ => true
  | .hostMemoryWrite _ _ _ _ _ => true
  | .hostMemoryRead _ _ _ _ _ => true
  | .hostConfigRequest _ _ _ => true
  | .msixVectorUnmask _ _ => true
  | .attestGo _ => true
  | .attestComplete _ => true
  | .startRequest _ => true
  | .portcfgWrite _ _ => true
  | .registerWrite _ _ => true
  | .powerOn => true
  | .startStepComplete _ => true
  | .thermalShutdown => true
  | .flowShutdown => true
  | .supplyOutOfRange _ => true
  | .reservedOpcodeIssue _ => true
  | .partDestroyComplete _ => true
  | .badFcsFrameReceive _ => true
  | .coolantOutOfRange => true
  | .operatingConditionsRestored => true
  | _ => false

/-! ### What is due -/

/-- The state after an event, if it changed anything. -/
def changedBy (s : State) : Out → Option State
  | .next t => if t = s then none else some t
  | .fault _ => none
  | .refused _ => none

/-- The first of a list for which something is due. -/
def firstDue {α : Type} (l : List α) (f : α → Option State) : Option State := l.findSome? f

/-- START of an armed entry, and the injection stop before it. -/
def State.dueArm (s : State) (k : Nat) (e : TEntry) : Option State :=
  if s.startDue e then some (s.switchStart k e)
  else if e.start.toNat ≤ s.time.toNat + 2000 && (s.outgoing e).any fun j => !(s.part e.part).stops.contains j
  then some (s.stopInjection e) else none

/-- The step of the switch sequence that is due on a core. -/
def State.dueCore (s : State) (core : Nat) (c : Core) : Option State :=
  if coreCount ≤ core then none
  else match c.step with
  | .running => (match c.hold with
    | some t => if t ≤ s.time then some (s.setCore core { c with hold := none }) else none
    | none => none).orElse fun _ => if s.mustSwitchOut core then some (s.setCore core { c with step := .halting s.time true }) else none
  -- teams reach their boundaries at a moment the spec leaves open, at the latest 4 µs after START (R353)
  | .halting start out =>
    if start.toNat + 4000 ≤ s.time.toNat && s.haltDone core out then some (s.haltComplete core start out) else none
  | .draining start halted out => if windowOver s.time halted then some (s.closeWindow core start halted out) else none
  | .saving start halted closed landed out =>
    if landed.isNone && s.saveReady core then
      some (s.setCore core { c with step := .saving start halted closed (some s.time) out })
    else none

/-- The core that a saved context is restored to (R386): that of its halt while it is free, or the lowest. -/
def State.restoreCore (s : State) (part n : Nat) (x : Image) (ok : State → Nat → Nat → Nat → Bool) : Option Nat :=
  if ok s part n x.core then some x.core else (List.range coreCount).find? fun c => ok s part n c

/-- What is due in a partition: slot end, records, kills of late halts, restores, the end of a switch. -/
def State.duePart (s : State) (part : Nat) (p : Partition) : Option State :=
  if s.slotDue part then some (s.slotEnd part)
  else if s.periodDue part then some (s.closeUsage part 2 none).1
  else if !(s.lateHalts part).isEmpty then some (s.killLate part)
  else match p.images.findSome? fun x => match s.restoreCore part x.1 x.2 State.mayRestore, s.restoreCore part x.1 x.2 State.maySwitchIn with
      | some c, _ => some (x.1, c, x.2)
      | none, some c => some (x.1, c, x.2)
      | none, none => none with
    | some (n, c, x) => some (s.restoreContext part n c x)
    | none => if p.switch.isSome && s.switchOver part then some (s.endSwitch part) else none

/-- What is due for a team: its power window, the end of its sleep, a boundary trap. -/
def State.dueTeam (s : State) (h : Nat) (t : Team) : Option State :=
  match t.windowDue s.time with
  | some p => some (s.putPower h p)
  | none => if t.sleep == 1 then some (s.setTeam h { t with sleep := 0 }) else s.boundaryOf h

/-- The exception of a pending event (R231). -/
def State.dueThread (s : State) (h : Nat) (t : Thread) : Option State :=
  if t.ie && !t.events.isEmpty && s.takesEvents h then some (s.takeEvent h) else none

/-- A control interval boundary that the agenda does not bring (R274). DESIGN CHOICE: an instruction that the agenda selects at
this TIME falls in the boundary's clock and takes effect first (R278; log 89). -/
def State.dueBoundary (s : State) : Option State :=
  if !s.boundaryDue then none
  else match s.agenda with
    | .event (.controlIntervalBoundary _) :: _ => none
    | .select _ :: _ => none
    | _ => some ({ s with freeCtr := s.freeCtr + 290 }.controlBoundary s.freeMeasure)

/-- Descriptors that did not translate and do now, at a multiple of 1 ms (R320). -/
def State.dueQueues (s : State) (part : Nat) (p : Partition) : Option State :=
  if s.time.toNat % 1000000 == 0 && p.qstate.any fun q => q.2.blind then
    changedBy s (execQueueTranslationRetry part s)
  else none

/-- Acknowledgements and notices that are to be sent again now (R361). -/
def State.dueResends (s : State) : Option State :=
  (List.range s.resends.length).findSome? fun k => changedBy s (execAckResendTimer k s)

/-- A port that has waited 5 µs for a LACK, with frames that are not acknowledged; one that is down, with a frame that can take
its other way (R419). -/
def State.dueLinks (s : State) : Option State :=
  firstDue s.ports fun e =>
    if e.2.linkup && e.1 < 24 && !e.2.buffer.isEmpty && e.2.since.toNat + 5000 ≤ s.time.toNat then some (s.resendAll e.1)
    else if e.1 < 24 then s.resume419 e.1 else none

/-- A trap record or reply that waited for room in a retry buffer, and has it (R419). -/
def State.dueStuck (s : State) : Option State :=
  (List.range s.stuck.length).findSome? fun n => match s.stuck[n]? with
    | some f => if f.hops.toNat < 7 && (s.route f.dstpkg.toNat).any fun p => s.portRoom p then
        some ({ s with stuck := s.stuck.eraseIdx n }.sendTrap f) else none
    | none => none

/-- Trap records that waited for a way or for room, and have it (R371). -/
def State.dueRecords (s : State) : Option State :=
  if s.records.isEmpty then none
  else if s.flush.records.length < s.records.length then some s.flush else none

/-- What falls due at this TIME, in this order: control boundary, frames and packets to be sent again, PTP, the election, switches, partitions, cores, foals, teams, threads. -/
def State.due (s : State) : Option State :=
  s.dueBoundary.orElse fun _ =>
  s.dueLinks.orElse fun _ =>
  s.dueStuck.orElse fun _ =>
  s.dueRecords.orElse fun _ =>
  s.dueResends.orElse fun _ =>
  s.duePtp.orElse fun _ =>
  s.dueElection.orElse fun _ =>
  (firstDue s.arms fun e => s.dueArm e.1 e.2).orElse fun _ =>
  (firstDue s.cores fun e => s.dueCore e.1 e.2).orElse fun _ =>
  (firstDue s.parts fun e => (s.duePart e.1 e.2).orElse fun _ => s.dueQueues e.1 e.2).orElse fun _ =>
  (firstDue s.foals fun e => if e.2.throttle == some 0 then some (s.putFoal e.1 { e.2 with throttle := none }) else none).orElse fun _ =>
  (firstDue s.teams fun e => s.dueTeam e.1 e.2).orElse fun _ =>
  firstDue s.threads fun e => s.dueThread e.1 e.2

/-! ### Time -/

/-- ns until a TIME, if it is still to come. -/
def untilTime (now t : Nat) : Option Nat := if now < t then some (t - now) else none

/-- ns in which a cluster makes k clocks. -/
def Cluster.nsFor (c : Cluster) (k : Nat) : Nat := (40 * k - c.frac + c.fstep - 1) / max 1 c.fstep

/-- ns until something falls due on a core, for a team. -/
def Core.waits (c : Core) (now : Nat) : List (Option Nat) :=
  match c.step with
  | .running => [c.hold.bind fun t => untilTime now t.toNat]
  | .halting start _ => [untilTime now (start.toNat + 4000), untilTime now (start.toNat + 20000)]
  | .draining _ h _ => [untilTime now (h.toNat + 2000)]
  | .saving _ _ _ _ _ => []

def State.teamWaits (s : State) (h : Nat) (t : Team) : List (Option Nat) :=
  let c := s.cluster (clusterOf (s.coreOf h))
  let now := s.time.toNat
  [t.timera.bind fun e => untilTime now e.toNat,
   t.timer.bind fun d => (untilTime t.rclock.toNat d.toNat).map c.nsFor,
   (untilTime 0 t.wdleft).map c.nsFor, (untilTime 1 t.sleep).map c.nsFor,
   t.power.bind fun p => if p.state == 2 then untilTime now p.start.toNat else if p.state == 3 then untilTime now p.stop else none]

def State.partWaits (s : State) (p : Partition) : List (Option Nat) :=
  let now := s.time.toNat
  [p.force.bind fun f => if f.ended then none else untilTime now f.entry.stop.toNat,
   if p.live then some (100000000 - now % 100000000) else none,
   if p.qstate.any fun q => q.2.blind then some (1000000 - now % 1000000) else none]

/-- ns until a heartbeat of this package's or the loss of the bellwether's (R347). -/
def State.electionWaits (s : State) : List (Option Nat) :=
  let now := s.time.toNat
  let e := s.election
  [if e.candidates.contains s.pkg then some (1000000 - now % 1000000) else none,
   (e.winner.bind e.lastBeat).bind fun t => untilTime now (t.toNat + 3000001)]

/-- ns until the message intervals of a port that runs PTP (R345). -/
def State.ptpWaits (s : State) (e : Nat × Port) : List (Option Nat) :=
  let x := s.ptpPort e.1
  if e.1 < 24 && s.portUp e.1 && (x.on || e.2.cfg.getLsbD 1) then
    [untilTime s.time.toNat (x.syncAt.toNat + intervalOf x.sync), untilTime s.time.toNat (x.reqAt.toNat + intervalOf x.pdelay)]
  else []

/-- The least of the ns until something falls due, and n. -/
def State.stride (s : State) (n : Nat) : Nat :=
  let now := s.time.toNat
  let ws := [some (10000 - now % 10000)] ++ s.electionWaits ++ s.ports.flatMap s.ptpWaits ++
    s.resends.map (fun r => untilTime now r.due.toNat) ++
    s.ports.map (fun e => if e.2.linkup && !e.2.buffer.isEmpty then untilTime now (e.2.since.toNat + 5000) else none) ++ s.arms.flatMap (fun e => [untilTime now (e.2.start.toNat - 2000), untilTime now e.2.start.toNat]) ++
    s.cores.flatMap (fun e => e.2.waits now) ++ s.parts.flatMap (fun e => s.partWaits e.2) ++
    s.foals.map (fun e => e.2.throttle.bind fun t => untilTime 0 t) ++ s.teams.flatMap fun e => s.teamWaits e.1 e.2
  ws.foldl (fun a w => match w with
    | some k => min a k
    | none => a) n

/-- ns of the package oscillator while TIME moves n ns: an offset is slewed by at most 200 parts per million, to an extent
left open (R344, log 5), and what is left of the offset. -/
def State.slew (s : State) (n : Nat) : Nat × Int :=
  if s.clock.holdover || s.clock.offset == 0 then (n, s.clock.offset)
  else
    let m := min ((Config.freeValue s.freeCtr).toNat % (n / 5000 + 1)) s.clock.offset.natAbs
    if 0 < s.clock.offset then (n - m, s.clock.offset - m) else (n + m, s.clock.offset + m)

/-- Clocks pass for a team: a sleep counts until the halt of a switch is complete (R118, R342), and a throttle withholds clocks
from a ready one (R283). The clocks in which its sector issued have been counted for its wait already (R332). -/
def State.ageTeam (s : State) (h k : Nat) : State :=
  let t := s.team h
  let counts := (s.ctx h).status != .trapped && (s.ctx h).status != .parked .server
  let ready := (s.ctx h).status == .ready && s.mayGo h
  let asleep := match (s.core (s.coreOf h)).step with
    | .running => true
    | .halting _ _ => true
    | .draining _ _ _ => false
    | .saving _ _ _ _ _ => false
  let free := k - Store.get 0 (s.core (s.coreOf h)).ahead t.sector
  s.setTeam h { t with
    rclock := t.rclock + BitVec.ofNat 64 k, wdleft := if counts then t.wdleft - k else t.wdleft,
    sleep := if t.sleep == 0 || !asleep then t.sleep else max 1 (t.sleep - k), waited := if ready then t.waited + free else 0,
    withheld := ready && (t.withheld || ((s.cluster (clusterOf (s.coreOf h))).thr != 0 && decide (0 < free))),
    yielded := t.yielded && free == 0 }

/-- ns of run time pass for a foal under its undeclared throttle (R281). -/
def State.ageFoal (s : State) (k e : Nat) : State :=
  match s.foalAt k with
  | none => s
  | some f => match f.throttle with
    | some t => if (s.core (k / 256)).step == .running && !(s.core (k / 256)).unissued then s.putFoal k { f with throttle := some (t - e) } else s
    | none => s

/-- A core is occupied by a context: a workgroup is resident, or the context is being halted or saved (R400).  A core without
power has no clock (R411). -/
def State.occupied (s : State) (core : Nat) : Bool :=
  s.powered && (!(s.wgsOn core).isEmpty || (s.core core).step != .running)

/-- The clocks of a core's sectors in which a team issued are passed by TIME. -/
def Core.catchUp (c : Core) (k : Nat) : Core := { c with ahead := (c.ahead.map fun (e : Nat × Nat) => (e.1, e.2 - k)).filter fun e => e.2 != 0 }

/-- Clocks of a core that a context occupies: its meter, its teams. -/
def State.ageCore (s : State) (core k : Nat) : State :=
  let part := (s.core core).part
  if !s.occupied core then s else
  let x := s.cluster (clusterOf core)
  let s := s.setCluster (clusterOf core) { x with counts := Store.set 0 x.counts part (Store.get 0 x.counts part + k) }
  let s := (s.teamsOn core).foldl (fun (s : State) h => s.ageTeam h k) (s.meterAdd part 0 k)
  s.setCore core ((s.core core).catchUp k)

/-- Clusters with an occupied core. -/
def State.busyClusters (s : State) : List Nat :=
  ((s.cores.filter fun e => decide (e.1 < coreCount) && e.2.part != 0).map fun e => clusterOf e.1).eraseDups

/-- e ns of the oscillator pass in a cluster. -/
def State.ageCluster (s : State) (c e : Nat) : State :=
  let x := s.cluster c
  let q := e * x.fstep + x.frac
  let s := s.setCluster c { x with frac := q % 40 }
  ((s.cores.filter fun y => decide (y.1 < coreCount) && y.2.part != 0 && clusterOf y.1 == c).map (·.1)).foldl
    (fun (s : State) k => s.ageCore k (q / 40)) s

/-- TIME moves by n ns. -/
def State.pass (s : State) (n : Nat) : State :=
  let r := s.slew n
  let s := { s with time := s.time + BitVec.ofNat 64 n, clock := { s.clock with offset := r.2 }, freeCtr := s.freeCtr + 1 }
  let s := s.busyClusters.foldl (fun (s : State) c => s.ageCluster c r.1) s
  (s.foals.map (·.1)).foldl (fun (s : State) k => s.ageFoal k n) s

/-- TIME moves by n ns, stopping where something falls due. -/
def State.advance (s : State) (n : Nat) (rest : List Input) : State :=
  let m := s.stride n
  { s with agenda := if m < n then .advance (n - m) :: rest else rest }.pass m

/-! ### What the other units do by themselves -/

/-- The next thing that an outstanding request of a team needs: its value at its home, then its reply. -/
def State.workReq (s : State) (h : Nat) (r : Req) : Option State :=
  let home := match r.todo with
    | q :: _ => changedBy s (execHomeWriteApply h r.id q.lane s)
    | [] => none
  match r.kind with
  | .load => changedBy s (execLoadReturn h r.id (BitVec.allOnes 1024) s)
  | .atom _ => home.orElse fun _ => changedBy s (execLoadReturn h r.id (BitVec.allOnes 1024) s)
  | .store => home.orElse fun _ => changedBy s (execStoreAck h r.id s)
  | .red _ => home.orElse fun _ => changedBy s (execStoreAck h r.id s)

/-- Outstanding accesses of a team, oldest first, and its lane copies. -/
def State.workTeam (s : State) (h : Nat) (t : Team) : Option State :=
  (t.reqs.findSome? fun r => s.workReq h r).orElse fun _ =>
  (t.copies.findSome? fun c => changedBy s (execLaneCopyLand h c.id s)).orElse fun _ =>
  if t.unsent then changedBy s (execFaultRecordSend h s) else none

/-- The engines of a core. -/
def State.workFoal (s : State) (k : Nat) (f : Foal) : Option State :=
  let c := k / 256
  let n := k % 256
  if coreCount ≤ c || !f.live then none
  else match f.job with
  | .mma _ => changedBy s (execMatrixStep c s)
  | .tmma _ => changedBy s (execMatrixStep c s)
  | .batch _ => none
  | .copy j =>
    (match j.out with
     | x :: _ => changedBy s (execCopySectorLand c n x.ord s)
     | [] => none).orElse fun _ =>
    (changedBy s (execCopySectorIssue c n s)).orElse fun _ => changedBy s (execCplIterationStart c n s)
  | .coll _ => changedBy s (execCollChunkSend c n s)

/-- The queue monitor, the work distributors and the long-running partition operations: a creation that a PART.DESTROY meets
completes first (DESIGN CHOICE, log 97). -/
def State.workPart (s : State) (part : Nat) (p : Partition) : Option State :=
  if p.creating then changedBy s (execPartCreateComplete part s)
  else if p.destroying then changedBy s (execPartDestroyComplete part s)
  else if !p.live then none
  else
    ((List.range p.queues.length).findSome? fun q =>
      if (p.qst q).held.isSome then changedBy s (execSignalPacketWrite part q s) else none).orElse fun _ =>
    changedBy s (execQueuePop part s)

/-- A waiting workgroup of a launch takes the first core that accepts it. -/
def State.workLaunch (s : State) (e : Nat) (x : Entity) : Option State :=
  match x.launch with
  | none => none
  | some r =>
    if r.waiting.isEmpty then none
    else (List.range coreCount).findSome? fun c =>
      if (s.part x.part).clusters.getLsbD (clusterOf c) then changedBy s (execWorkgroupPlace e c s) else none

/-- What the units do by themselves, one thing at a time. -/
def State.work (s : State) : Option State :=
  (s.teams.findSome? fun (e : Nat × Team) => s.workTeam e.1 e.2).orElse fun _ =>
  (match s.fills with
   | [] => none
   | _ :: _ => changedBy s (execLineFill 0 s)).orElse fun _ =>
  (match s.invals with
   | [] => none
   | i :: _ => changedBy s (execGuestInvalidation i.die s)).orElse fun _ =>
  (s.ctxs.findSome? fun (e : Nat × Ctx) => match e.2.status with
    | .parked _ => changedBy s (execParkResume e.1 s)
    | .ready => none
    | .trapped => none
    | .stopped => none).orElse fun _ =>
  (s.foals.findSome? fun (e : Nat × Foal) => s.workFoal e.1 e.2).orElse fun _ =>
  (s.cores.findSome? fun (e : Nat × Core) => match e.2.step with
    | .saving _ _ _ _ _ => changedBy s (execContextSaveComplete e.1 s)
    | .running => none
    | .halting _ _ => changedBy s (execHaltComplete e.1 s)
    | .draining _ _ _ => none).orElse fun _ =>
  (s.parts.findSome? fun (e : Nat × Partition) => s.workPart e.1 e.2).orElse fun _ =>
  (s.entities.findSome? fun (e : Nat × Entity) => s.workLaunch e.1 e.2).orElse fun _ =>
  s.windows.findSome? fun (e : Nat × Window) => if e.2.stat == 1 then changedBy s (execAttestComplete e.1 s) else none

/-- The hart that issues when nothing else is asked: the current one, or the first that may. -/
def State.nextHart (s : State) : Option Nat :=
  if s.mayIssue s.cur then some s.cur else (s.ctxs.map (·.1)).find? fun h => s.mayIssue h

end Sys2Proof.Machine
end

