-- ==== Sys2Proof/Machine/Step.lean ====
section
/-! DEFINITION. One step of the package. -/

namespace Sys2Proof.Machine

noncomputable section

/-- Hart `h`, which may issue, fetches its next clause or issues the instruction it stands at. -/
def State.stepHart (s : State) (h : Nat) : Out :=
  let c := s.ctx h
  match c.clause with
  | none => .next (s.fetchClause h)
  | some cl => if cl.refetch then .next (s.refetchClause h cl) else issueWith exec s h c cl

/-- The turn of hart `h`: its step, and what that means for the teams of its sector (R332-R336). -/
def State.turn (s : State) (h : Nat) : Out :=
  let a := { s with cur := h }
  match a.stepHart h with
  | .next t => .next (t.afterIssue a h)
  | .fault f => .fault f
  | .refused r => .refused r

/-- With nothing asked for: the accesses of the current team proceed, then the next hart issues, then the other units
proceed; where nothing can, the package waits (log 4). -/
def State.proceed (s : State) : Out :=
  match s.workTeam s.cur (s.team s.cur) with
  | some t => .next t
  | none =>
    match s.nextHart with
    | some h => s.turn h
    | none => .next (s.work.getD s)

/-- One step: what is due at this TIME, else the next thing the world asks for, else what the package does by itself. -/
def step (s : State) : Host.Outcome State Fault Refusal :=
  match s.due with
  | some t => .next t
  | none =>
    match s.agenda with
    | .event i :: r => if Instr.isEvent i then exec i { s with agenda := r } else .next { s with agenda := r }
    | .advance n :: r => .next (s.advance n r)
    | .select h :: r => if s.mayIssue h then { s with agenda := r }.turn h else .next { s with agenda := r }
    | .sramError core a :: r => .next { s with agenda := r, sramErrs := s.sramErrs ++ [(core, a)] }
    | [] => s.proceed

/-- Words of the instruction a number holds: the first word and, where it has one, the second. -/
def wordsOf (nbits w : Nat) : List Word :=
  let ws : List Word := [BitVec.ofNat 32 w, BitVec.ofNat 32 (w / 2 ^ 32)]
  match decode (ws.headD 0#32) (some (BitVec.ofNat 32 (w / 2 ^ 32))) with
  | .ok _ n => ws.take n
  | .opcode => ws.take ((nbits + 31) / 32)
  | .operand => ws.take ((nbits + 31) / 32)
  | .missing => ws.take ((nbits + 31) / 32)

/-- The state with an instruction placed where the next step takes it from: the fetched clause of the current hart. -/
def State.withFetchWord (s : State) (nbits w : Nat) : State :=
  let w := w % 2 ^ nbits
  let ws := wordsOf nbits w
  let op := (BitVec.ofNat 7 (w / 2 ^ 24)).toNat
  let cl : Clause := { cls := opClass op, words := ws, ldw := 7, stw := 7, mw := false, yp := false, entered := true, refetch := false }
  if 0x59 ≤ op && op != 0x5C && op != 0x60 then
    ({ s with agenda := [], cur := 0 }.setThread 0 { s.thread 0 with level := 2#2 }).setCtx 0
      { s.ctx 0 with kind := .thread, status := .ready, widx := 0, clause := some cl }
  else
    let h := s.nextId
    (((({ s with agenda := [], cur := h, nextId := h + 2 }.setPart 1 { s.part 1 with live := true }).setWg (h + 1)
      { Workgroup.blank with teams := [h] }).setTeam h
      { Team.blank with wg := h + 1, width := 32, vregs := 128, exec := maskBelow 32, wdleft := 2 ^ 40 }).setCtx h
      { Ctx.blank with kind := .team, status := .ready, clause := some cl })

end

end Sys2Proof.Machine
end

