-- ==== Sys2Proof/Safety.lean ====
section
/-! DEFINITION. The terms in which claims are stated: when an instruction gets past the checks of R28, how a hart stands after
it has executed, what is left as it was, and what a sound state is. -/

namespace Sys2Proof.Machine

/-- HBM4 in canonical form: addresses strictly rising, no byte listed that reads as an unlisted one does (log 3). -/
abbrev Memory.wf (m : List Host.Cell) : Bool := Store.wf 0#8 m

/-- What every step keeps of memory: HBM4 in canonical form, at most one L2 line a way, at most one home copy a line, and
a clean home line that agrees with HBM4 (R293, R378, R396). -/
def SoundMemory (s : State) : Prop :=
  Memory.wf s.mem = true ∧ s.l2.Pairwise (fun a b => a.1 < b.1) ∧
    s.l2.Pairwise (fun a b => a.2.guest = false → b.2.guest = false → a.2.line ≠ b.2.line) ∧
    ∀ e ∈ s.l2, e.2.guest = false → e.2.dirty = false → e.2.data = s.hbmLine e.2.line

/-! ### Getting past the checks -/

/-- The hart that is to issue is a team, its registers `regs` are allocated (R28, R33) and none is held (R24). -/
def TeamRuns (s : State) (regs : List Nat) : Prop :=
  (s.ctx s.cur).kind = .team ∧ (∀ r ∈ regs, r < (s.team s.cur).vregs) ∧ ∀ r ∈ regs, s.isHeld s.cur r = false

/-- The hart that is to issue is a control-core thread at `level` or above (R42, R229). -/
def ThreadRuns (s : State) (level : Nat) : Prop :=
  (s.ctx s.cur).kind = .thread ∧ level ≤ (s.thread s.cur).level.toNat

/-- The hart that is to issue is a team or a control-core thread: what an instruction of the supervisor profile that names
no vector register asks for (R42, R228). -/
def HartRuns (s : State) : Prop := (s.ctx s.cur).kind = .team ∨ (s.ctx s.cur).kind = .thread

/-! ### Standing after an instruction -/

/-- Words of the clause the hart is in. -/
def Ctx.clauseWords (c : Ctx) : Nat :=
  match c.clause with
  | some cl => cl.words.length
  | none => 0

/-- The status of R22: an instruction with S = 1 leaves the hart parked unless its load count, its store count and its
register-destination foals are clear. -/
def StatusAfter (s t : State) (sw : Bool) : Status :=
  if sw && !t.markerClear s.cur then .parked .marker else (s.ctx s.cur).status

/-- The hart has moved past `n` words: to the next word, or to the header after its clause (R12, R17). -/
def Passed (s t : State) (n : Nat) (sw : Bool) : Prop :=
  let c := s.ctx s.cur
  let c' := t.ctx s.cur
  c'.kind = c.kind ∧ c'.status = StatusAfter s t sw ∧
    (c.widx + n < c.clauseWords → c'.pc = c.pc ∧ c'.widx = c.widx + n ∧ c'.clause = c.clause) ∧
    (c.clauseWords ≤ c.widx + n →
      c'.pc = c.pc + BitVec.ofNat 64 (4 * (1 + c.clauseWords)) ∧ c'.widx = 0 ∧ c'.clause = none)

/-- The hart stands at the header of the clause at `target` (R17). -/
def Jumped (s t : State) (target : Addr) (sw : Bool) : Prop :=
  let c' := t.ctx s.cur
  c'.kind = (s.ctx s.cur).kind ∧ c'.status = StatusAfter s t sw ∧ c'.pc = target ∧ c'.widx = 0 ∧ c'.clause = none

/-- The hart is parked where it stands: PC, word index, clause and registers are kept (R53). -/
def ParkedAt (s t : State) (w : Wait) : Prop :=
  (∃ cs, t = { s with ctxs := cs }) ∧ (∀ h, h ≠ s.cur → t.ctx h = s.ctx h) ∧
    t.ctx s.cur = { s.ctx s.cur with status := .parked w }

/-! ### What is left as it was -/

/-- Every byte of memory reads as it did: at its home, and in every scratchpad. -/
def SameMemory (s t : State) : Prop :=
  (∀ l, t.homeByte l = s.homeByte l) ∧ ∀ g o, t.spByte g o = s.spByte g o

def SameSregs (s t : State) : Prop := ∀ r, t.sreg s.cur r = s.sreg s.cur r
def SameSregsBut (d : SReg) (s t : State) : Prop := ∀ r, r ≠ d → t.sreg s.cur r = s.sreg s.cur r
def SameScc (s t : State) : Prop := (t.ctx s.cur).scc = (s.ctx s.cur).scc
def SameVregs (s t : State) : Prop := ∀ r, r < 128 → t.vreg s.cur r = s.vreg s.cur r
def SameVregsBut (d : VReg) (s t : State) : Prop :=
  ∀ r, r < 128 → r ≠ d.toNat → t.vreg s.cur r = s.vreg s.cur r

/-- The hart's team record is `x` but for what issuing uses up: the lane mask of a replay (R158) and the clocks waited
(R332). -/
def TeamIs (s t : State) (x : Team) : Prop := t.team s.cur = x.moved

/-- The hart's team record is as it was but for what issuing uses up; a control-core thread has none. -/
def SameTeam (s t : State) : Prop :=
  ((s.ctx s.cur).kind = .team → TeamIs s t (s.team s.cur)) ∧
    ((s.ctx s.cur).kind ≠ .team → t.team s.cur = s.team s.cur)

/-- The other harts' registers and records are as they were. -/
def SameOthers (s t : State) : Prop :=
  ∀ h, h ≠ s.cur → t.ctx h = s.ctx h ∧ t.team h = s.team h ∧ ∀ r, r < 128 → t.vreg h r = s.vreg h r

/-- Only the issuing hart's own registers have changed: every other piece of the state is as it was, the threads' special
registers, the partitions, the tables, all of memory among them. -/
def OnlyHart (s t : State) : Prop :=
  (∃ cs ts vs, t = { s with ctxs := cs, teams := ts, vregs := vs }) ∧ SameOthers s t ∧ SameMemory s t

/-! ### Results -/

/-- s[d] := v, and nothing else but the hart's move past `n` words. -/
def WritesSreg (s : State) (o : Out) (d : SReg) (v : DWord) (n : Nat) (sw : Bool) : Prop :=
  ∃ t, o = .next t ∧ t.sreg s.cur d = v ∧ SameSregsBut d s t ∧ SameScc s t ∧ SameTeam s t ∧ SameVregs s t ∧
    Passed s t n sw ∧ OnlyHart s t

/-- Only the issuing hart's own registers have changed, and what reading lines at their homes leaves behind: copies in the L2
with what their evictions write back, the partitions' meters and the moment (R377, R397, R400). Every byte of memory reads as
it did. -/
def OnlyReads (s t : State) : Prop :=
  (∃ cs ts vs l m p ps n, t = { s with ctxs := cs, teams := ts, vregs := vs, l2 := l, mem := m, poison := p, parts := ps, now := n }) ∧
    SameOthers s t ∧ SameMemory s t

/-- s[d] := v, read at the home, and nothing else but the hart's move past `n` words. -/
def ReadsIntoSreg (s : State) (o : Out) (d : SReg) (v : DWord) (n : Nat) (sw : Bool) : Prop :=
  ∃ t, o = .next t ∧ t.sreg s.cur d = v ∧ SameSregsBut d s t ∧ SameScc s t ∧ SameTeam s t ∧ SameVregs s t ∧
    Passed s t n sw ∧ OnlyReads s t

/-- scc := b, and nothing else but the hart's move past `n` words. -/
def WritesScc (s : State) (o : Out) (b : Bool) (n : Nat) (sw : Bool) : Prop :=
  ∃ t, o = .next t ∧ (t.ctx s.cur).scc = b ∧ SameSregs s t ∧ SameTeam s t ∧ SameVregs s t ∧
    Passed s t n sw ∧ OnlyHart s t

/-- The team record becomes `x`, and nothing else but the hart's move past `n` words. -/
def WritesTeam (s : State) (o : Out) (x : Team) (n : Nat) (sw : Bool) : Prop :=
  ∃ t, o = .next t ∧ TeamIs s t x ∧ SameSregs s t ∧ SameScc s t ∧ SameVregs s t ∧ Passed s t n sw ∧ OnlyHart s t

/-- Lane i of v[d] becomes `f i` in every active lane and stays in the others; the team record becomes `x`. -/
def WritesLanes (s : State) (o : Out) (d : VReg) (f : Nat → Word) (x : Team) (n : Nat) (sw : Bool) : Prop :=
  ∃ t, o = .next t ∧
    (∀ i, i < 1024 → (t.vreg s.cur d.toNat).lane i =
      if i < (s.team s.cur).width ∧ (s.team s.cur).exec.getLsbD i = true then f i else (s.vreg s.cur d.toNat).lane i) ∧
    SameVregsBut d s t ∧ TeamIs s t x ∧ SameSregs s t ∧ SameScc s t ∧ Passed s t n sw ∧ OnlyHart s t

/-- The same, said of each lane's result rather than by a function; the team record stays. -/
def WritesEachLane (s : State) (o : Out) (d : VReg) (p : Nat → Word → Prop) (n : Nat) (sw : Bool) : Prop :=
  ∃ f, WritesLanes s o d f (s.team s.cur) n sw ∧ ∀ i, i < (s.team s.cur).width → p i (f i)

/-- FLAGS takes the flags `fl i` of every active lane beside what it held (R88). -/
def Team.flagged (t : Team) (fl : Nat → FFlags) : Team :=
  { t with flags := t.flags ||| (t.active.map fl).foldl (· ||| ·) 0#5 }

/-- One result word per active lane with the flags of all of them merged (R88). -/
def WritesFlaggedLanes (s : State) (o : Out) (d : VReg) (g : Nat → Word × FFlags) (n : Nat) (sw : Bool) : Prop :=
  WritesLanes s o d (fun i => (g i).1) ((s.team s.cur).flagged fun i => (g i).2) n sw

/-- The hart goes to `target`; s[63] takes `link` where there is one. -/
def Transfers (s : State) (o : Out) (target : Addr) (link : Option Addr) (sw : Bool) : Prop :=
  ∃ t, o = .next t ∧ Jumped s t target sw ∧
    (match link with
      | some v => t.sreg s.cur 63#6 = v ∧ SameSregsBut 63#6 s t
      | none => SameSregs s t) ∧
    SameScc s t ∧ SameTeam s t ∧ SameVregs s t ∧ OnlyHart s t

/-- Nothing but the move past `n` words. -/
def OnlyPasses (s : State) (o : Out) (n : Nat) (sw : Bool) : Prop :=
  ∃ t, o = .next t ∧ SameSregs s t ∧ SameScc s t ∧ SameTeam s t ∧ SameVregs s t ∧ Passed s t n sw ∧ OnlyHart s t

/-! ### Memory requests -/

/-- The hart has moved past `n` words and stands at `st`. -/
def MovedTo (s t : State) (n : Nat) (st : Status) : Prop :=
  let c := s.ctx s.cur
  let c' := t.ctx s.cur
  c'.kind = c.kind ∧ c'.status = st ∧
    (c.widx + n < c.clauseWords → c'.pc = c.pc ∧ c'.widx = c.widx + n ∧ c'.clause = c.clause) ∧
    (c.clauseWords ≤ c.widx + n →
      c'.pc = c.pc + BitVec.ofNat 64 (4 * (1 + c.clauseWords)) ∧ c'.widx = 0 ∧ c'.clause = none)

/-- A memory instruction of form `f` gets past the checks of R157 and the waits at issue: deterministic mode allows it, a
release finds both counts 0, every lane's bytes are aligned where they must be, their translations are there (R395), they are
in range, mapped and permitted, and not the engine's, and its count is not full (R19). -/
def MayIssue (s : State) (f : MemForm) (asks : List Ask) : Prop :=
  let h := s.cur
  let t := s.team h
  (f.noDet = true → s.det h = false) ∧ (f.release = true → t.loads = 0 ∧ t.stores = 0) ∧
    (f.space = .global → s.unwalked h (asks.flatMap fun q => vpagesOf q.addr q.n) = []) ∧
    (if f.kind.isLoad = true then t.loads < 63 else t.stores < 63) ∧
    ∀ q ∈ asks, (f.align = true → q.addr.toNat % q.n = 0) ∧
      ∃ bs, s.checkAsk h f.space f.access q.addr q.n = .ok bs ∧
        (f.space = .scratch → ∀ b ∈ bs, b.pa / 4096 ∉ (s.wgOf h).engPages)

/-- The instruction leaves one request behind: its lanes, their bytes as the checks placed them, and the data read at
issue (R19, R23). No byte of memory and no register has changed yet; a count has risen (for no lane, nothing is asked). -/
def IssuesRequest (s : State) (o : Out) (f : MemForm) (asks : List Ask) (sw : Bool) : Prop :=
  ∃ t, o = .next t ∧ SameSregs s t ∧ SameScc s t ∧ SameVregs s t ∧ SameMemory s t ∧ SameOthers s t ∧
    (∃ cs ts x y n m, t = { s with ctxs := cs, teams := ts, l1 := x, l2 := y, nextId := n, now := m }) ∧
    (asks = [] → (t.team s.cur).reqs = (s.team s.cur).reqs ∧ Passed s t 1 sw) ∧
    (asks ≠ [] → t.nextId = s.nextId + 1 ∧
      (match f.acquire with
        | none => Passed s t 1 sw
        | some _ => MovedTo s t 1 (.parked (.landed s.nextId sw))) ∧
      ∃ r, TeamIs s t { s.team s.cur with reqs := (s.team s.cur).reqs ++ [r] } ∧
        (r.id, r.kind, r.space, r.dest, r.sext) = (s.nextId, f.kind, f.space, f.dest, f.sext) ∧
        (r.reach, r.acquire, r.pc, r.widx) = (f.reach, f.acquire, (s.ctx s.cur).pc, (s.ctx s.cur).widx) ∧
        r.back = [] ∧ r.pois = [] ∧
        r.todo.map (fun q => (q.lane, q.va, q.data, q.data2)) = asks.map (fun q => (q.lane, q.addr, q.data, q.data2)) ∧
        r.todo.map (fun q => some q.bytes) =
          asks.map fun q => (s.checkAsk s.cur f.space f.access q.addr q.n).toOption)

/-- The bytes of `ps` stand at the home, those listed twice in the order given, and every other byte reads as it did. -/
def StoresBytes (s t : State) (ps : List (Loc × Byte)) : Prop :=
  (∀ l, (∀ p ∈ ps, p.1.pa ≠ l.pa) → t.homeByte l = s.homeByte l) ∧
    ((ps.map fun p => p.1.pa).Nodup → ∀ p ∈ ps, t.homeByte p.1 = p.2) ∧ ∀ g o, t.spByte g o = s.spByte g o

/-! ### Traps and exceptions -/

/-- A team stops with a precise trap (R53, R241, R370): its context is kept, its record names the code, the header address,
the word index and the faulted lanes, and takes the next serial number; every other hart, register and byte is as it was. -/
def TrapsTeam (s : State) (o : Out) (code : TrapCode) (lanes : Mask) : Prop :=
  ∃ t r, o = .next t ∧ t.ctx s.cur = { s.ctx s.cur with status := .trapped } ∧ (t.team s.cur).trap = some r ∧
    r.code = code ∧ r.pc = (s.ctx s.cur).pc ∧ r.widx = (s.ctx s.cur).widx ∧ r.lanes = lanes ∧ r.time = s.time ∧
    r.handle = some (BitVec.ofNat 64 ((s.serial + 1).toNat + 2 ^ 32 * s.pkg)) ∧ t.serial = s.serial + 1 ∧
    (∃ cs ts, t = { s with ctxs := cs, teams := ts, serial := s.serial + 1 }) ∧ SameOthers s t ∧ SameVregs s t ∧
    SameMemory s t

/-- A control-core thread takes an exception (R231): the pc and word index of the instruction, the cause and the value are
saved, LEVEL and IE go to PLEV and PIE, IE is 0, LEVEL stays, and the thread stands at word 0 of EVEC. What a misaligned
access had done so far is forgotten (R156). Nothing else changes. -/
def TakesException (s : State) (o : Out) (cause : Nat) (val : DWord) : Prop :=
  ∃ t, o = .next t ∧
    t.thread s.cur = { s.thread s.cur with
                       epc := (s.ctx s.cur).pc, eidx := BitVec.ofNat 4 (s.ctx s.cur).widx,
                       ecause := BitVec.ofNat 64 cause, eval := val, plev := (s.thread s.cur).level,
                       pie := (s.thread s.cur).ie, ie := false, bytes := [] } ∧
    t.ctx s.cur = { s.ctx s.cur with pc := (s.thread s.cur).evec, widx := 0, clause := none, status := .ready } ∧
    (∃ cs ts, t = { s with ctxs := cs, threads := ts }) ∧
    (∀ h, h ≠ s.cur → t.ctx h = s.ctx h ∧ t.thread h = s.thread h) ∧ SameMemory s t

end Sys2Proof.Machine
end

