-- ==== Sys2Proof/Certificates/Slice0/Obligations.lean ====
section
/-! DEFINITION. What is claimed of the model: statements for the provers, from the numbered rules of the spec. Results are
said in terms of numbers, bits and lanes where the spec says them so. -/

open Sys2Proof Sys2Proof.Machine

namespace Sys2Proof.Claims

/-- The `n` vector registers from a field on. -/
def group (r : VReg) (n : Nat) : List Nat := (List.range n).map fun i => r.toNat + i

/-- R33: the vector registers that the word of an instruction names, pairs and groups in full. -/
def vectorRegisters : Instr → List Nat
  | .lperm _ d | .mpre _ _ d | .ldvB8 _ d _ _ | .ldvB16 _ d _ _ | .ldvB32 _ d _ _ | .ldvsS8 _ d _ _
  | .ldvsS16 _ d _ _ | .stvB8 _ d _ _ | .stvB16 _ d _ _ | .stvB32 _ d _ _ => group d 1
  | .srdln _ _ _ a | .swrln _ _ _ a | .vredAdd _ _ _ a | .vredMax _ _ _ a | .vredMin _ _ _ a | .vredMaxi _ _ _ a
  | .ballot _ _ a | .vany _ a | .vall _ a => Src.regs a
  | .viaddI32 _ d b a | .viaddI16x2 _ d b a | .viaddI8x4 _ d b a | .viaddS32sat _ d b a | .visubI32 _ d b a
  | .visubI16x2 _ d b a | .visubI8x4 _ d b a | .visubS32sat _ d b a | .vimulLo _ d b a | .vimulHs _ d b a
  | .vimulHn _ d b a | .vimulI16x2 _ d b a | .vimadI32 _ d b a | .vimadI16x2 _ d b a | .vimadDot4s8 _ d b a
  | .vimadDot4n8 _ d b a | .vlogAnd _ d b a | .vlogOr _ d b a | .vlogXor _ d b a | .vlogAndn _ d b a
  | .vshfShl _ d b a | .vshfShr _ d b a | .vshfSar _ d b a | .vshfRot _ d b a | .viminS32min _ d b a
  | .viminN32min _ d b a | .viminS32max _ d b a | .viminN32max _ d b a | .vselLm0 _ d b a | .vselLm1 _ d b a
  | .vselLm2 _ d b a | .vselLm3 _ d b a | .vfaddF32 _ d b a | .vfaddF16x2 _ d b a | .vfaddBf16x2 _ d b a
  | .vfsubF32 _ d b a | .vfsubF16x2 _ d b a | .vfsubBf16x2 _ d b a | .vfmulF32 _ d b a | .vfmulF16x2 _ d b a
  | .vfmulBf16x2 _ d b a | .vfmaF32 _ d b a | .vfmaF16x2 _ d b a | .vfmaBf16x2 _ d b a | .vfminF32 _ d b a
  | .vfmaxF32 _ d b a | .vfminF16x2 _ d b a | .vfmaxF16x2 _ d b a | .vfdotDot2bf16 _ d b a | .vfdotDot2f16 _ d b a
  | .vfdotDot4f8e4 _ d b a | .vfdotDot4f8e5 _ d b a | .vmaxiMax _ d b a | .vmaxiMin _ d b a | .vpackF16x2 _ d b a
  | .vpackBf16x2 _ d b a | .vpackS16x2sat _ d b a | .vhashCrc32c _ d b a | .vhashMix32 _ d b a | .vshflIdx _ d b a
  | .vshflXor _ d b a | .vshflUp _ d b a | .vshflDown _ d b a => group d 1 ++ group b 1 ++ Src.regs a
  | .vshfiShl _ d b _ | .vshfiShr _ d b _ | .vshfiSar _ d b _ | .vshfiRot _ d b _ => group d 1 ++ group b 1
  | .vbitPopc _ d a | .vbitClz _ d a | .vbitBrev _ d a | .vbitFfs _ d a | .vmov _ d a | .vsx16 _ d a | .vsx8 _ d a
  | .vzx16 _ d a | .vfcvtRne _ d _ a | .vfcvtRtz _ d _ a | .vfcvtDn _ d _ a | .vfcvtUp _ d _ a | .vrcp _ d a
  | .vrsq _ d a | .vex2 _ d a | .vlg2 _ d a | .vsinpi _ d a | .vcospi _ d a | .vsqrt _ d a | .vtanh _ d a
  | .vfrndRne _ d a | .vfrndRtz _ d a | .vfrndFloor _ d a | .vfrndCeil _ d a | .vexpd _ d _ a
  | .vscanInclAddS32 _ d a | .vscanExclAddS32 _ d a | .vscanInclAddF32 _ d a | .vscanInclMaxi _ d a
    => group d 1 ++ Src.regs a
  | .vicmpS32 _ _ _ b a | .vicmpN32 _ _ _ b a | .vfcmpF32 _ _ _ b a | .vfcmpF16 _ _ _ b a | .vfcmpBf16 _ _ _ b a
    => group b 1 ++ Src.regs a
  | .ldvB64 _ d _ _ | .stvB64 _ d _ _ => group d 2
  | .ldgB8 _ _ d _ x | .ldgB16 _ _ d _ x | .ldgB32 _ _ d _ x | .stgB8 _ _ d _ x | .stgB16 _ _ d _ x
  | .stgB32 _ _ d _ x | .ldspB8 _ _ d _ x | .ldspB16 _ _ d _ x | .ldspB32 _ _ d _ x | .stspB8 _ _ d _ x
  | .stspB16 _ _ d _ x | .stspB32 _ _ d _ x => group d 1 ++ group x 1
  | .ldgB64 _ _ d _ x | .stgB64 _ _ d _ x | .ldspB64 _ _ d _ x | .stspB64 _ _ d _ x => group d 2 ++ group x 1
  | .atomAddI32 _ _ _ d a | .atomAddF32 _ _ _ d a | .atomMinS32 _ _ _ d a | .atomMaxS32 _ _ _ d a
  | .atomMinN32 _ _ _ d a | .atomMaxN32 _ _ _ d a | .atomAnd _ _ _ d a | .atomOr _ _ _ d a | .atomXor _ _ _ d a
  | .atomExch _ _ _ d a | .atomMaxi _ _ _ d a | .atomAddF16x2 _ _ _ d a | .redAddI32 _ _ _ d a | .redAddF32 _ _ _ d a
  | .redMinS32 _ _ _ d a | .redMaxS32 _ _ _ d a | .redMinN32 _ _ _ d a | .redMaxN32 _ _ _ d a | .redAnd _ _ _ d a
  | .redOr _ _ _ d a | .redXor _ _ _ d a | .redMaxi _ _ _ d a | .redAddF16x2 _ _ _ d a | .ldaB16 _ _ _ d a
  | .ldaB32 _ _ _ d a | .stlB16 _ _ _ d a | .stlB32 _ _ _ d a => group d 1 ++ group a 2
  | .atomCas _ _ _ d a | .atomAddI64 _ _ _ d a | .redAddI64 _ _ _ d a | .ldaB64 _ _ _ d a | .stlB64 _ _ _ d a
    => group d 2 ++ group a 2
  | .atomsAddI32 _ _ _ d a | .atomsAddF32 _ _ _ d a | .atomsMinS32 _ _ _ d a | .atomsMaxS32 _ _ _ d a
  | .atomsMinN32 _ _ _ d a | .atomsMaxN32 _ _ _ d a | .atomsAnd _ _ _ d a | .atomsOr _ _ _ d a | .atomsXor _ _ _ d a
  | .atomsExch _ _ _ d a | .atomsMaxi _ _ _ d a | .atomsAddF16x2 _ _ _ d a => group d 1 ++ group a 1
  | .atomsCas _ _ _ d a | .atomsAddI64 _ _ _ d a => group d 2 ++ group a 1
  | .lcpy4 _ d _ v | .lcpy8 _ d _ v | .lcpy16 _ d _ v | .lcpy32 _ d _ v => group d 1 ++ group v 2
  | .mmaDense _ d a _ _ | .mmaSp _ d a _ _ | .mmaZ _ d a _ _ => group d 32 ++ group a 8
  | .tlda _ d _ w _ | .tldb _ d _ w _ => group d (if w = 0#2 then 8 else if w = 1#2 then 4 else 3)
  | .tstd _ d _ _ _ | .tldd _ d _ _ _ => group d 32
  | _ => []

/-- R30, R32, R36, R37, R166-R168: whether the operand values of a form that names vector registers are legal. -/
def operandsLegal : Instr → Bool
  | .srdln _ _ _ a | .swrln _ _ _ a | .vredAdd _ _ _ a | .vredMax _ _ _ a | .vredMin _ _ _ a | .vredMaxi _ _ _ a
    => Src.isVec a
  | .viaddI32 _ _ _ a | .viaddI16x2 _ _ _ a | .viaddI8x4 _ _ _ a | .viaddS32sat _ _ _ a | .visubI32 _ _ _ a
  | .visubI16x2 _ _ _ a | .visubI8x4 _ _ _ a | .visubS32sat _ _ _ a | .vimulLo _ _ _ a | .vimulHs _ _ _ a
  | .vimulHn _ _ _ a | .vimulI16x2 _ _ _ a | .vimadI32 _ _ _ a | .vimadI16x2 _ _ _ a | .vimadDot4s8 _ _ _ a
  | .vimadDot4n8 _ _ _ a | .vlogAnd _ _ _ a | .vlogOr _ _ _ a | .vlogXor _ _ _ a | .vlogAndn _ _ _ a
  | .vshfShl _ _ _ a | .vshfShr _ _ _ a | .vshfSar _ _ _ a | .vshfRot _ _ _ a | .viminS32min _ _ _ a
  | .viminN32min _ _ _ a | .viminS32max _ _ _ a | .viminN32max _ _ _ a | .vbitPopc _ _ a | .vbitClz _ _ a
  | .vbitBrev _ _ a | .vbitFfs _ _ a | .vicmpS32 _ _ _ _ a | .vicmpN32 _ _ _ _ a | .vselLm0 _ _ _ a
  | .vselLm1 _ _ _ a | .vselLm2 _ _ _ a | .vselLm3 _ _ _ a | .vmov _ _ a | .vsx16 _ _ a | .vsx8 _ _ a | .vzx16 _ _ a
  | .vfaddF32 _ _ _ a | .vfaddF16x2 _ _ _ a | .vfaddBf16x2 _ _ _ a | .vfsubF32 _ _ _ a | .vfsubF16x2 _ _ _ a
  | .vfsubBf16x2 _ _ _ a | .vfmulF32 _ _ _ a | .vfmulF16x2 _ _ _ a | .vfmulBf16x2 _ _ _ a | .vfmaF32 _ _ _ a
  | .vfmaF16x2 _ _ _ a | .vfmaBf16x2 _ _ _ a | .vfminF32 _ _ _ a | .vfmaxF32 _ _ _ a | .vfminF16x2 _ _ _ a
  | .vfmaxF16x2 _ _ _ a | .vfcmpF32 _ _ _ _ a | .vfcmpF16 _ _ _ _ a | .vfcmpBf16 _ _ _ _ a | .vfcvtRne _ _ _ a
  | .vfcvtRtz _ _ _ a | .vfcvtDn _ _ _ a | .vfcvtUp _ _ _ a | .vrcp _ _ a | .vrsq _ _ a | .vex2 _ _ a | .vlg2 _ _ a
  | .vsinpi _ _ a | .vcospi _ _ a | .vsqrt _ _ a | .vtanh _ _ a | .vfrndRne _ _ a | .vfrndRtz _ _ a
  | .vfrndFloor _ _ a | .vfrndCeil _ _ a | .vfdotDot2bf16 _ _ _ a | .vfdotDot2f16 _ _ _ a | .vfdotDot4f8e4 _ _ _ a
  | .vfdotDot4f8e5 _ _ _ a | .vmaxiMax _ _ _ a | .vmaxiMin _ _ _ a | .vpackF16x2 _ _ _ a | .vpackBf16x2 _ _ _ a
  | .vpackS16x2sat _ _ _ a | .vexpd _ _ _ a | .vhashCrc32c _ _ _ a | .vhashMix32 _ _ _ a | .vshflIdx _ _ _ a
  | .vshflXor _ _ _ a | .vshflUp _ _ _ a | .vshflDown _ _ _ a | .vscanInclAddS32 _ _ a | .vscanExclAddS32 _ _ a
  | .vscanInclAddF32 _ _ a | .vscanInclMaxi _ _ a | .ballot _ _ a | .vany _ a | .vall _ a => Src.vecOk a
  | .atomAddI32 _ _ c _ _ | .atomAddF32 _ _ c _ _ | .atomMinS32 _ _ c _ _ | .atomMaxS32 _ _ c _ _
  | .atomMinN32 _ _ c _ _ | .atomMaxN32 _ _ c _ _ | .atomAnd _ _ c _ _ | .atomOr _ _ c _ _ | .atomXor _ _ c _ _
  | .atomExch _ _ c _ _ | .atomCas _ _ c _ _ | .atomMaxi _ _ c _ _ | .atomAddF16x2 _ _ c _ _ | .atomAddI64 _ _ c _ _
    => decide (c ≠ .reserved)
  | .atomsAddI32 _ _ c _ _ | .atomsAddF32 _ _ c _ _ | .atomsMinS32 _ _ c _ _ | .atomsMaxS32 _ _ c _ _
  | .atomsMinN32 _ _ c _ _ | .atomsMaxN32 _ _ c _ _ | .atomsAnd _ _ c _ _ | .atomsOr _ _ c _ _ | .atomsXor _ _ c _ _
  | .atomsExch _ _ c _ _ | .atomsCas _ _ c _ _ | .atomsMaxi _ _ c _ _ | .atomsAddF16x2 _ _ c _ _
  | .atomsAddI64 _ _ c _ _ => decide (c = .team ∨ c = .wg)
  | .redAddI32 _ o c _ _ | .redAddF32 _ o c _ _ | .redMinS32 _ o c _ _ | .redMaxS32 _ o c _ _ | .redMinN32 _ o c _ _
  | .redMaxN32 _ o c _ _ | .redAnd _ o c _ _ | .redOr _ o c _ _ | .redXor _ o c _ _ | .redMaxi _ o c _ _
  | .redAddF16x2 _ o c _ _ | .redAddI64 _ o c _ _ | .stlB16 _ o c _ _ | .stlB32 _ o c _ _ | .stlB64 _ o c _ _
    => decide ((o = .relaxed ∨ o = .release) ∧ c ≠ .reserved)
  | .ldaB16 _ o c _ _ | .ldaB32 _ o c _ _ | .ldaB64 _ o c _ _ => decide ((o = .relaxed ∨ o = .acquire) ∧ c ≠ .reserved)
  | .tlda _ _ _ w p => decide (w = 0#2 ∧ (p = 0#7 ∨ 64 ≤ 16 * p.toNat))
  | .tldb _ _ _ w p
    => decide (w ≠ 3#2 ∧ (p = 0#7 ∨ (if w = 0#2 then 64 else if w = 1#2 then 32 else 24) ≤ 16 * p.toNat))
  | .tstd _ _ _ w p | .tldd _ _ _ w p => decide (w = 0#2 ∧ (p = 0#7 ∨ 256 ≤ 16 * p.toNat))
  | _ => true

end Sys2Proof.Claims

/-- R24, R28, R30, R33, R36, R37, R42, R228: the forms of R42 take PRIV on a team and on a thread below their level; a form
outside the supervisor profile is no form on a control core (log 8); a vector register at or above VREGS is an
ILLEGAL_OPERAND of every form whose word names it, and so is an illegal operand value of such a form; one that names a
held register parks (MMA after its own checks, R183). -/
def Obligations.ChecksComeBeforeExecution : Prop :=
  ∀ (s : State) (sw : Bool) (d b : SReg) (a : Src),
    let h := s.cur
    let supervisor := ([.halt sw, .csrr sw d a, .csrw sw d b a, .csrs sw d b a, .csrc sw d b a, .eret sw, .tlbiVa sw a,
      .tlbiPart sw a, .tlbiAll sw, .tlbiSync sw, .rctxRd sw d b a, .rctxWr sw d b a, .rctxResume sw d b a,
      .rctxKill sw d b a] : List Instr)
    let hypervisor := ([.msign sw d b a, .switchArm sw d b, .switchUrgent sw d b, .switchCancel sw d a, .partCreate sw d b a,
      .partDestroy sw d a, .partBitmap sw d b a, .partWays sw d b a] : List Instr)
    (∀ i ∈ supervisor ++ hypervisor, (s.ctx h).kind = .team → TrapsTeam s (exec i s) .priv 0#1024) ∧
    (∀ i ∈ supervisor, (s.ctx h).kind = .thread → (s.thread h).level = 0#2 → TakesException s (exec i s) 0x04 0#64) ∧
    (∀ i ∈ hypervisor, (s.ctx h).kind = .thread → (s.thread h).level.toNat < 2 → TakesException s (exec i s) 0x04 0#64) ∧
    ∀ i : Instr,
      let regs := Sys2Proof.Claims.vectorRegisters i
      let mma := match i with
        | .mmaDense _ _ _ _ _ | .mmaSp _ _ _ _ _ | .mmaZ _ _ _ _ _ => true
        | _ => false
      ((s.ctx h).kind = .thread → teamWord ((encode i).headD 0#32) = true → TakesException s (exec i s) 0x01 0#64) ∧
      ((s.ctx h).kind = .team → (∃ r ∈ regs, (s.team h).vregs ≤ r) ∨ Sys2Proof.Claims.operandsLegal i = false →
        TrapsTeam s (exec i s) .illegalOperand 0#1024) ∧
      ((s.ctx h).kind = .team → mma = false → Sys2Proof.Claims.operandsLegal i = true →
        (∀ r ∈ regs, r < (s.team h).vregs) → (∃ r ∈ regs, s.isHeld h r = true) →
        ∃ t rs, exec i s = .next t ∧ ParkedAt s t (.held rs) ∧ ∀ r ∈ regs, r ∈ rs)

/-- R12-R18, R25-R28: with nothing due and no input the current hart, whose accesses wait for nothing and which may
issue, takes the step: without a clause it fetches one, and after a restore it fetches its clause again (R26); the
decoded instruction of its word, allowed by the class of its clause and its place in it, executes; a word that is no
instruction is ILLEGAL_OPCODE, a missing second word ILLEGAL_CLAUSE, an illegal source code ILLEGAL_OPERAND, a word of
another class or a control transfer before the last word ILLEGAL_CLAUSE. What the step means for the other teams of
the sector follows (`afterIssue`, R332-R336). -/
def Obligations.StepRunsTheDecodedInstruction : Prop :=
  ∀ (s : State) (h : Nat),
    let a := { s with cur := h }
    let c := s.ctx h
    let follows := fun (o : Out) => match o with
      | .next t => (.next (t.afterIssue a h) : Out)
      | .fault f => .fault f
      | .refused r => .refused r
    s.due = none → (s.agenda = [] ∧ s.workTeam s.cur (s.team s.cur) = none ∧ s.nextHart = some h) →
      (c.clause = none → step s = .next ((a.fetchClause h).afterIssue a h)) ∧
      (∀ cl, c.clause = some cl → cl.refetch = true → step s = .next ((a.refetchClause h cl).afterIssue a h)) ∧
      ∀ cl w rest, c.clause = some cl → cl.refetch = false → cl.words.drop c.widx = w :: rest →
        let allowed := fun (o : Out) => ¬(c.kind = .thread ∧ teamWord w = true) → opClass (w.toNat / 2 ^ 24 % 128) = cl.cls →
          step s = follows o
        (∀ i n, decode w rest.head? = .ok i n →
          (Instr.isTransfer i = false ∨ c.widx + n = cl.words.length → allowed (exec i a)) ∧
          (Instr.isTransfer i = true → c.widx + n ≠ cl.words.length → allowed (.next (a.raise h .illegalClause n))) ∧
          (¬(c.kind = .thread ∧ teamWord w = true) → opClass (w.toNat / 2 ^ 24 % 128) ≠ cl.cls →
            step s = follows (.next (a.raise h .illegalClause n)))) ∧
        (decode w rest.head? = .opcode → step s = follows (.next (a.raise h .illegalOpcode 1))) ∧
        (decode w rest.head? = .missing → ¬(c.kind = .thread ∧ teamWord w = true) →
          step s = follows (.next (a.raise h .illegalClause 1))) ∧
        (decode w rest.head? = .operand → allowed (.next (a.raise h .illegalOperand 1)))

/-- R29-R41: words written out from the encodings decode to the instructions they stand for. -/
def Obligations.WrittenOutWordsDecode : Prop :=
  let one := fun (w : Word) => decodeWords [w]
  one 0x170080E8#32 = some (.viaddI32 false 1#7 0#7 .laneix, []) ∧
    one 0x0C8400FF#32 = some (.slui false 4#6 0xFF#16, []) ∧
    one 0x06441000#32 = some (.mwr false 4#6 1#4 0#4, []) ∧
    one 0x01C00002#32 = some (.brEz false 2#22, []) ∧
    one 0x09000000#32 = some (.exit false, []) ∧
    one 0x13050010#32 = some (.sget false 5#6 0x10#8, []) ∧
    one 0x26050203#32 = some (.vfmaF32 false 10#7 2#7 (.v 3#7), []) ∧
    one 0x1D818205#32 = some (.vshfiSar false 3#7 2#7 5#8, []) ∧
    one 0x324488C1#32 = some (.vshflXor false 9#7 8#7 (.int 1#5), [])

/-- R15, R29-R41: the words of every well-formed instruction decode to it, whatever words follow, and the decoder
takes exactly those words. -/
def Obligations.EncodedInstructionsDecodeBack : Prop :=
  ∀ i : Instr, i.wf = true → ∀ rest : List Word, decodeWords (encode i ++ rest) = some (i, rest)

/-- HBM4 keeps its canonical form, every line has at most one home copy, and a clean home copy agrees with HBM4 (R293,
R378, R396), whatever step the package takes. -/
def Obligations.EveryStepKeepsMemorySound : Prop :=
  ∀ s t : State, SoundMemory s → step s = .next t → SoundMemory t

/-- R234, R285, R344, R414, R420: the package at power-on: its memory is sound, its CSRs stand at their reset values,
TIME at 0, no start has run, and nothing runs. -/
def Obligations.ResetIsSoundAndAtItsValues : Prop :=
  let s := State.reset
  SoundMemory s ∧ (s.tqbase, s.tqhead, s.tqtail, s.tqsize, s.parkth) = (0#64, 0#64, 0#64, 64#64, 50#64) ∧ s.time = 0#64 ∧
    s.start.ready = false ∧ s.start.step = 0 ∧ (∀ h, (s.ctx h).kind = .absent ∧ (s.thread h).psel = 1 ∧
      ((s.thread h).epc, (s.thread h).eidx, (s.thread h).ecause, (s.thread h).eval, (s.thread h).evec) =
        (0#64, 0#4, 0#64, 0#64, 0#64) ∧ ((s.thread h).plev, (s.thread h).ie, (s.thread h).pie) = (0#2, false, false)) ∧
    (∀ p f, (s.part p).live = false ∧ (s.part p).fsrv = 0 ∧ Store.get 0#64 (s.part p).meters f = 0#64)

namespace Sys2Proof.Claims

/-- R119, groups SALU and SLOG and SSHF: s[D] takes the result of x = s[B] and y, the value of A. Arithmetic wraps
modulo 2^64, shifts use y[5:0], no form writes FLAGS or scc, and a literal makes the instruction two words long. -/
def ScalarAluWritesItsResult : Prop :=
  ∀ (s : State) (sw : Bool) (d b : SReg) (a : Src), HartRuns s → Src.scalOk a = true →
    let x := s.sreg s.cur b
    let y := Src.scalar s s.cur a
    let k := y.toNat % 64
    WritesSreg s (exec (.sadd sw d b a) s) d (BitVec.ofInt 64 (x.toInt + y.toInt)) (Src.len a) sw ∧
    WritesSreg s (exec (.ssub sw d b a) s) d (BitVec.ofInt 64 (x.toInt - y.toInt)) (Src.len a) sw ∧
    WritesSreg s (exec (.smul sw d b a) s) d (BitVec.ofInt 64 (x.toInt * y.toInt)) (Src.len a) sw ∧
    WritesSreg s (exec (.smulh sw d b a) s) d (BitVec.ofInt 64 (x.toInt * y.toInt / 2 ^ 64)) (Src.len a) sw ∧
    WritesSreg s (exec (.sand sw d b a) s) d (x &&& y) (Src.len a) sw ∧
    WritesSreg s (exec (.sor sw d b a) s) d (x ||| y) (Src.len a) sw ∧
    WritesSreg s (exec (.sxor sw d b a) s) d (x ^^^ y) (Src.len a) sw ∧
    WritesSreg s (exec (.sandn sw d b a) s) d (x &&& ~~~y) (Src.len a) sw ∧
    WritesSreg s (exec (.sshl sw d b a) s) d (BitVec.ofNat 64 (x.toNat * 2 ^ k)) (Src.len a) sw ∧
    WritesSreg s (exec (.sshr sw d b a) s) d (BitVec.ofNat 64 (x.toNat / 2 ^ k)) (Src.len a) sw ∧
    WritesSreg s (exec (.ssar sw d b a) s) d (BitVec.ofInt 64 (x.toInt / 2 ^ k)) (Src.len a) sw ∧
    WritesSreg s (exec (.srot sw d b a) s) d (BitVec.ofNat 64 (x.toNat * 2 ^ k + x.toNat / 2 ^ (64 - k))) (Src.len a) sw

/-- R121: SIMM adds, loads, shifts up or ORs its immediate. -/
def ScalarImmediateWritesItsResult : Prop :=
  ∀ (s : State) (sw : Bool) (d : SReg) (i : BitVec 16), HartRuns s →
    let x := s.sreg s.cur d
    WritesSreg s (exec (.saddi sw d i) s) d (BitVec.ofInt 64 (x.toInt + i.toInt)) 1 sw ∧
    WritesSreg s (exec (.smovi sw d i) s) d (BitVec.ofInt 64 i.toInt) 1 sw ∧
    WritesSreg s (exec (.slui sw d i) s) d (BitVec.ofInt 64 (i.toInt * 2 ^ 16)) 1 sw ∧
    WritesSreg s (exec (.sori sw d i) s) d (x ||| BitVec.ofNat 64 i.toNat) 1 sw

/-- R119 and R121, comparisons: scc takes the truth of the comparison, and no register is written. -/
def ScalarCompareWritesScc : Prop :=
  ∀ (s : State) (sw : Bool) (b : SReg), HartRuns s →
    let x := s.sreg s.cur b
    (∀ a : Src, Src.scalOk a = true →
      let y := Src.scalar s s.cur a
      WritesScc s (exec (.scmpeq sw b a) s) (decide (x.toNat = y.toNat)) (Src.len a) sw ∧
      WritesScc s (exec (.scmplt sw b a) s) (decide (x.toInt < y.toInt)) (Src.len a) sw ∧
      WritesScc s (exec (.scmpltn sw b a) s) (decide (x.toNat < y.toNat)) (Src.len a) sw ∧
      WritesScc s (exec (.scmple sw b a) s) (decide (x.toInt ≤ y.toInt)) (Src.len a) sw) ∧
    ∀ i : BitVec 16,
      let y : DWord := BitVec.ofInt 64 i.toInt
      WritesScc s (exec (.scmpieq sw b i) s) (decide (x.toNat = y.toNat)) 1 sw ∧
      WritesScc s (exec (.scmpilt sw b i) s) (decide (x.toInt < i.toInt)) 1 sw ∧
      WritesScc s (exec (.scmpiltn sw b i) s) (decide (x.toNat < y.toNat)) 1 sw

/-- R119, groups SSEL and SBIT: selection, minimum and maximum; the number of set bits, of leading and of trailing
zeros (64 for y = 0), and y bit-reversed. -/
def ScalarSelectAndBitsWriteTheirResult : Prop :=
  ∀ (s : State) (sw : Bool) (d b : SReg) (a : Src), HartRuns s → Src.scalOk a = true →
    let x := s.sreg s.cur b
    let y := Src.scalar s s.cur a
    WritesSreg s (exec (.ssel sw d b a) s) d (if (s.ctx s.cur).scc then x else y) (Src.len a) sw ∧
    WritesSreg s (exec (.smin sw d b a) s) d (BitVec.ofInt 64 (min x.toInt y.toInt)) (Src.len a) sw ∧
    WritesSreg s (exec (.smax sw d b a) s) d (BitVec.ofInt 64 (max x.toInt y.toInt)) (Src.len a) sw ∧
    WritesSreg s (exec (.sminn sw d b a) s) d (BitVec.ofNat 64 (min x.toNat y.toNat)) (Src.len a) sw ∧
    WritesSreg s (exec (.spopc sw d a) s) d
      (BitVec.ofNat 64 ((List.range 64).filter fun k => y.getLsbD k).length) (Src.len a) sw ∧
    (∃ n, n ≤ 64 ∧ WritesSreg s (exec (.sclz sw d a) s) d (BitVec.ofNat 64 n) (Src.len a) sw ∧
      y.toNat < 2 ^ (64 - n) ∧ (n < 64 → 2 ^ (63 - n) ≤ y.toNat)) ∧
    (∃ n, n ≤ 64 ∧ WritesSreg s (exec (.sctz sw d a) s) d (BitVec.ofNat 64 n) (Src.len a) sw ∧
      (∀ k, k < n → y.getLsbD k = false) ∧ (n < 64 → y.getLsbD n = true)) ∧
    ∃ v : DWord, WritesSreg s (exec (.sbrev sw d a) s) d v (Src.len a) sw ∧ ∀ k, k < 64 → v.getLsbD k = y.getLsbD (63 - k)

end Sys2Proof.Claims

open Sys2Proof.Claims

/-- Scalar arithmetic, logic, shifts, comparisons, selects and bit counts write their result and nothing else:
`ScalarAluWritesItsResult`, `ScalarImmediateWritesItsResult`, `ScalarCompareWritesScc` and
`ScalarSelectAndBitsWriteTheirResult`. -/
def Obligations.ScalarOperationsWriteTheirResult : Prop :=
  Sys2Proof.Claims.ScalarAluWritesItsResult ∧
    Sys2Proof.Claims.ScalarImmediateWritesItsResult ∧
    Sys2Proof.Claims.ScalarCompareWritesScc ∧
    Sys2Proof.Claims.ScalarSelectAndBitsWriteTheirResult

/-- R120: SDIV's quotient rounds toward zero and its remainder has the sign of x; with y = 0 the quotient forms give
all ones and the remainder forms x; −2^63 by −1 gives −2^63 and 0. -/
def Obligations.DivisionWritesQuotientAndRemainder : Prop :=
  ∀ (s : State) (sw : Bool) (d b : SReg) (a : Src), HartRuns s → Src.scalOk a = true →
    let x := s.sreg s.cur b
    let y := Src.scalar s s.cur a
    WritesSreg s (exec (.sdiv sw d b a) s) d
      (if y = 0#64 then BitVec.allOnes 64 else BitVec.ofInt 64 (x.toInt.tdiv y.toInt)) (Src.len a) sw ∧
    WritesSreg s (exec (.sdivn sw d b a) s) d
      (if y = 0#64 then BitVec.allOnes 64 else BitVec.ofNat 64 (x.toNat / y.toNat)) (Src.len a) sw ∧
    WritesSreg s (exec (.srem sw d b a) s) d
      (if y = 0#64 then x else BitVec.ofInt 64 (x.toInt - y.toInt * x.toInt.tdiv y.toInt)) (Src.len a) sw ∧
    WritesSreg s (exec (.sremn sw d b a) s) d
      (if y = 0#64 then x else BitVec.ofNat 64 (x.toNat - y.toNat * (x.toNat / y.toNat))) (Src.len a) sw

/-- R123: SRDLN reads one lane, zero-extended, and 0 for a lane at or above W; SWRLN writes one lane and nothing at or
above W. Both ignore EXEC. -/
def Obligations.SingleLaneAccess : Prop :=
  ∀ (s : State) (sw : Bool) (d b : SReg) (r : VReg), TeamRuns s [r.toNat] →
    let i := (s.sreg s.cur b).toNat
    let w := (s.team s.cur).width
    WritesSreg s (exec (.srdln sw d b (.v r)) s) d
      (BitVec.ofNat 64 (if i < w then ((s.vreg s.cur r.toNat).lane i).toNat else 0)) 1 sw ∧
    ∃ t, exec (.swrln sw d b (.v r)) s = .next t ∧
      (∀ k, k < 1024 → (t.vreg s.cur r.toNat).lane k =
        if k = i ∧ i < w then BitVec.ofNat 32 (s.sreg s.cur d).toNat else (s.vreg s.cur r.toNat).lane k) ∧
      SameVregsBut r s t ∧ SameSregs s t ∧ SameScc s t ∧ SameTeam s t ∧ Passed s t 1 sw ∧ OnlyHart s t

/-- R124: RCLOCK reads the team's run clocks and RTIME reads TIME. TIMER arms RCLOCK + A; a sum above 2^64 − 1 is
held there and never fires; TIMERA arms A, each in place of the deadline of its kind before, and A = 0 disarms. -/
def Obligations.ClocksAreReadAndDeadlinesArmed : Prop :=
  ∀ (s : State) (sw : Bool) (d : SReg) (a : Src), Src.scalOk a = true →
    let h := s.cur
    let y := Src.scalar s h a
    (HartRuns s → WritesSreg s (exec (.rtime sw d) s) d s.time 1 sw) ∧
    (TeamRuns s [] →
      WritesSreg s (exec (.rclock sw d) s) d (s.team h).rclock 1 sw ∧
      WritesTeam s (exec (.timer sw a) s)
        { s.team h with timer := if y = 0#64 then none
                                 else some (BitVec.ofNat 64 (min ((s.team h).rclock.toNat + y.toNat) (2 ^ 64 - 1))),
                        timerHeld := decide (2 ^ 64 ≤ (s.team h).rclock.toNat + y.toNat) }
        (Src.len a) sw ∧
      WritesTeam s (exec (.timera sw a) s)
        { s.team h with timera := if y = 0#64 then none else some y, late := false } (Src.len a) sw ∧
      ((s.team h).timerHeld = true → (s.team h).timera = none → (s.team h).timerDue s.time = none))

/-- R18, R105: branches, calls, jumps and returns go to their target and write scc and EXEC never; a branch whose
condition fails falls through. CALL and JMPL write the address of the next clause into s63, JMPL after it has read A.
-/
def Obligations.BranchesGoToTheirTarget : Prop :=
  ∀ (s : State) (sw : Bool) (o : BitVec 22) (a : Src),
    let h := s.cur
    let c := s.ctx h
    let next : Addr := c.pc + BitVec.ofNat 64 (4 * (1 + c.clauseWords))
    let target : Addr := next + BitVec.ofInt 64 (4 * o.toInt)
    (HartRuns s →
      Transfers s (exec (.br sw o) s) target none sw ∧
      (if c.scc then Transfers s (exec (.brS1 sw o) s) target none sw else OnlyPasses s (exec (.brS1 sw o) s) 1 sw) ∧
      (if c.scc then OnlyPasses s (exec (.brS0 sw o) s) 1 sw else Transfers s (exec (.brS0 sw o) s) target none sw) ∧
      Transfers s (exec (.call sw o) s) target (some next) sw ∧
      Transfers s (exec (.ret sw) s) (s.sreg h 63#6) none sw ∧
      (Src.scalOk a = true →
        Transfers s (exec (.jmp sw a) s) (Src.scalar s h a) none sw ∧
        Transfers s (exec (.jmpl sw a) s) (Src.scalar s h a) (some next) sw)) ∧
    (TeamRuns s [] →
      if (s.team h).exec = 0#1024 then Transfers s (exec (.brEz sw o) s) target none sw
      else OnlyPasses s (exec (.brEz sw o) s) 1 sw)

namespace Sys2Proof.Claims

/-- R107: MPUSH puts EXEC on the mask stack and narrows it by lm[sel]; MPOP takes the top entry back; MELSE takes the
top entry less EXEC; MDEPTH reads MSDEPTH. Words of EXEC at or above W/32 stay zero (R54). -/
def MaskStackPushesAndPops : Prop :=
  ∀ (s : State) (sw : Bool), TeamRuns s [] →
    let t := s.team s.cur
    (∀ m : BitVec 4, m.toNat ≤ 8 → t.depth < 16 →
      ∃ x, WritesTeam s (exec (.mpush sw m) s) x 1 sw ∧
        x = { t with depth := t.depth + 1, mstack := x.mstack, exec := x.exec } ∧ x.entry t.depth = t.exec ∧
        (∀ r, r ≠ t.depth → x.entry r = t.entry r) ∧
        (m = 8#4 → x.exec = t.exec) ∧
        (m ≠ 8#4 → ∀ i, i < 1024 → x.exec.getLsbD i =
          (t.exec.getLsbD i && (t.lmk m.toNat).getLsbD i && decide (i < t.width)))) ∧
    (0 < t.depth →
      (∃ x, WritesTeam s (exec (.mpop sw) s) x 1 sw ∧ x = { t with depth := t.depth - 1, exec := x.exec } ∧
        ∀ i, i < 1024 → x.exec.getLsbD i = ((t.entry (t.depth - 1)).getLsbD i && decide (i < t.width))) ∧
      ∃ x, WritesTeam s (exec (.melse sw) s) x 1 sw ∧ x = { t with exec := x.exec } ∧
        ∀ i, i < 1024 → x.exec.getLsbD i =
          ((t.entry (t.depth - 1)).getLsbD i && !t.exec.getLsbD i && decide (i < t.width))) ∧
    ∀ d : SReg, WritesSreg s (exec (.mdepth sw d) s) d (BitVec.ofNat 64 (t.depth + 2 ^ 16 * t.spill.toNat)) 1 sw

/-- R107: MPUSH on a full mask stack traps MSTK_OVER; MPOP and MELSE on an empty one trap MSTK_REFILL where entries
have been spilled and MSTK_UNDER where none has. Each trap is precise. -/
def MaskStackTrapsWhenFullOrEmpty : Prop :=
  ∀ (s : State) (sw : Bool) (m : BitVec 4), TeamRuns s [] → m.toNat ≤ 8 →
    let t := s.team s.cur
    let empty := if t.spill = 0#32 then TrapCode.mstkUnder else TrapCode.mstkRefill
    (16 ≤ t.depth → TrapsTeam s (exec (.mpush sw m) s) .mstkOver 0#1024) ∧
    (t.depth = 0 → TrapsTeam s (exec (.mpop sw) s) empty 0#1024 ∧ TrapsTeam s (exec (.melse sw) s) empty 0#1024)

end Sys2Proof.Claims

/-- The mask stack is pushed and popped, and traps when full or empty: `MaskStackPushesAndPops` and
`MaskStackTrapsWhenFullOrEmpty`. -/
def Obligations.MaskStackIsPushedAndPopped : Prop :=
  Sys2Proof.Claims.MaskStackPushesAndPops ∧ Sys2Proof.Claims.MaskStackTrapsWhenFullOrEmpty

namespace Sys2Proof.Claims

/-- R109, R110: MSET moves masks between EXEC and a selected mask; MWORD reads and writes 64 bits of a mask, counts
its set bits below W and finds the lowest. -/
def MasksMoveAndAreCounted : Prop :=
  ∀ (s : State) (sw : Bool) (m p : BitVec 4) (d : SReg), TeamRuns s [] → m.toNat ≤ 8 →
    let t := s.team s.cur
    let k := t.mask m
    (∃ x, WritesTeam s (exec (.mand sw m) s) x 1 sw ∧ x = { t with exec := x.exec } ∧
      ∀ i, i < 1024 → x.exec.getLsbD i = (t.exec.getLsbD i && k.getLsbD i && decide (i < t.width))) ∧
    (∃ x, WritesTeam s (exec (.mload sw m) s) x 1 sw ∧ x = { t with exec := x.exec } ∧
      ∀ i, i < 1024 → x.exec.getLsbD i = (k.getLsbD i && decide (i < t.width))) ∧
    (∃ x, WritesTeam s (exec (.mandn sw m) s) x 1 sw ∧ x = { t with exec := x.exec } ∧
      ∀ i, i < 1024 → x.exec.getLsbD i = (t.exec.getLsbD i && !k.getLsbD i && decide (i < t.width))) ∧
    (m.toNat < 8 → ∃ x, WritesTeam s (exec (.msave sw m) s) x 1 sw ∧ x = { t with lm := x.lm } ∧
      x.lmk m.toNat = t.exec ∧ ∀ j, j ≠ m.toNat → x.lmk j = t.lmk j) ∧
    (m = 8#4 → ∃ x, WritesTeam s (exec (.msave sw m) s) x 1 sw ∧ x = { t with exec := x.exec } ∧
      ∀ i, i < 1024 → x.exec.getLsbD i = (t.exec.getLsbD i && decide (i < t.width))) ∧
    (∃ v : DWord, WritesSreg s (exec (.mrd sw d m p) s) d v 1 sw ∧
      ∀ i, i < 64 → v.getLsbD i = k.getLsbD (64 * p.toNat + i)) ∧
    (∃ x, WritesTeam s (exec (.mwr sw d m p) s) x 1 sw ∧ x = { t with exec := x.exec, lm := x.lm } ∧
      (∀ j, j ≠ m.toNat → x.lmk j = t.lmk j) ∧ (m ≠ 8#4 → x.exec = t.exec) ∧
      ∀ i, i < 1024 → (x.mask m).getLsbD i =
        ((if 64 * p.toNat ≤ i ∧ i < 64 * p.toNat + 64 then (s.sreg s.cur d).getLsbD (i - 64 * p.toNat) else k.getLsbD i) &&
          (m != 8#4 || decide (i < t.width)))) ∧
    WritesSreg s (exec (.mpopc sw d m) s) d
      (BitVec.ofNat 64 ((List.range t.width).filter fun i => k.getLsbD i).length) 1 sw ∧
    ((∀ i, i < t.width → k.getLsbD i = false) → WritesSreg s (exec (.mffs sw d m) s) d (BitVec.allOnes 64) 1 sw) ∧
    ∀ i, i < t.width → k.getLsbD i = true → (∀ j, j < i → k.getLsbD j = false) →
      WritesSreg s (exec (.mffs sw d m) s) d (BitVec.ofNat 64 i) 1 sw

/-- R111, R112: LPACK gives the active lanes positions 0, 1, 2 and so on and the others those that follow, from EXEC
alone; LUNPACK and an LPACK with an empty EXEC restore the identity; LPERM reports positions. LPACK and LUNPACK wait
for loads and register-destination foals. -/
def LanesArePackedAndReported : Prop :=
  ∀ (s : State) (sw : Bool), TeamRuns s [] →
    let h := s.cur
    let t := s.team h
    (t.loads = 0 → s.regFoal h = false →
      (∃ x, WritesTeam s (exec (.lpack sw) s) x 1 sw ∧ x = { t with packed := x.packed } ∧
        (t.exec = 0#1024 → ∀ i, x.position i = i) ∧
        (t.exec ≠ 0#1024 → ∀ i, i < t.width → x.position i =
          if t.exec.getLsbD i then ((List.range i).filter fun j => t.exec.getLsbD j).length
          else t.active.length + ((List.range i).filter fun j => !t.exec.getLsbD j).length)) ∧
      ∃ x, WritesTeam s (exec (.lunpack sw) s) x 1 sw ∧ x = { t with packed := x.packed } ∧ ∀ i, x.position i = i) ∧
    ((t.loads ≠ 0 ∨ s.regFoal h = true) →
      ∃ u v, exec (.lpack sw) s = .next u ∧ ParkedAt s u (.counts .switchMarker false true) ∧
        exec (.lunpack sw) s = .next v ∧ ParkedAt s v (.counts .switchMarker false true)) ∧
    ∀ d : VReg, TeamRuns s [d.toNat] →
      WritesLanes s (exec (.lperm sw d) s) d (fun i => BitVec.ofNat 32 (t.position i)) t 1 sw

end Sys2Proof.Claims

/-- Masks are moved, read and counted; lanes are packed and reported: `MasksMoveAndAreCounted` and
`LanesArePackedAndReported`. -/
def Obligations.MasksAndLanePlacement : Prop :=
  Sys2Proof.Claims.MasksMoveAndAreCounted ∧ Sys2Proof.Claims.LanesArePackedAndReported

namespace Sys2Proof.Claims

/-- The barrier after an arrival of team number `ix` with count `n`, and whether it is then complete: the arrivals
have reached the count, or every live team where the count is 0 (R113). -/
def ArrivedAt (x : Barrier) (ix n live : Nat) (y : Barrier) (complete : Bool) : Prop :=
  let a := x.arrived ||| (1#16 <<< ix)
  complete = decide ((if n = 0 then live else n) ≤ ((List.range 16).filter fun i => a.getLsbD i).length) ∧
    y = if complete then ⟨x.phase + 1, 0#16, n⟩ else ⟨x.phase, a, n⟩

end Sys2Proof.Claims

/-- R113, R114: an arrival is counted at its barrier, and the arrival that completes it begins the next phase. BAR.ARV
goes on; BAR.SYNC goes on if its arrival completes the barrier and parks otherwise; BAR.WT goes on unless the team's
last arrival is still pending, and parks then. -/
def Obligations.BarriersCountArrivals : Prop :=
  ∀ (s : State) (sw : Bool) (b : BitVec 4) (n : BitVec 16), TeamRuns s [] → (s.ctx s.cur).status = .ready →
    let h := s.cur
    let t := s.team h
    let w := s.wg t.wg
    let x := w.barrier b.toNat
    (h ∈ w.teams → t.teamix < 16 → t.loads = 0 → t.stores = 0 → n.toNat ≤ w.launch.teams →
        x.arrived.getLsbD t.teamix = false → (x.arrived = 0#16 ∨ n.toNat = x.expect) →
      ∃ y complete, ArrivedAt x t.teamix n.toNat (s.liveTeams w).length y complete ∧
        (∃ u, exec (.barArv sw b n) s = .next u ∧ (u.wg t.wg).barrier b.toNat = y ∧ Passed s u 1 sw ∧
          SameSregs s u ∧ SameScc s u ∧ SameVregs s u ∧ SameMemory s u ∧
          Store.get 0#32 (u.team h).lastPhase b.toNat = x.phase) ∧
        ∃ u, exec (.barSync sw b n) s = .next u ∧ (u.wg t.wg).barrier b.toNat = y ∧ SameSregs s u ∧ SameScc s u ∧
          SameVregs s u ∧ SameMemory s u ∧ Store.get 0#32 (u.team h).lastPhase b.toNat = x.phase ∧
          (complete = true → Passed s u 1 sw) ∧
          (complete = false → u.ctx h = { s.ctx h with status := .parked (.barrierPhase b.toNat sw) })) ∧
    (Store.get 0#32 t.lastPhase b.toNat = x.phase ∧ x.arrived.getLsbD t.teamix = true →
      ∃ u, exec (.barWt sw b) s = .next u ∧ ParkedAt s u (.barrierPhase b.toNat sw)) ∧
    (¬(Store.get 0#32 t.lastPhase b.toNat = x.phase ∧ x.arrived.getLsbD t.teamix = true) →
      OnlyPasses s (exec (.barWt sw b) s) 1 sw)

namespace Sys2Proof.Claims

/-- R118: NOP does nothing; YIELD resets the watchdog counter and gives the next clock away; SLEEP keeps the team from
issue for imm16 clocks, and SLEEP 0 acts as NOP. On a control-core thread, which has neither watchdog nor sector, all
three only move on. -/
def IdleInstructionsOnlyMoveOn : Prop :=
  ∀ (s : State) (sw : Bool) (i : BitVec 16),
    let h := s.cur
    (HartRuns s → OnlyPasses s (exec (.nop sw) s) 1 sw) ∧
    (ThreadRuns s 0 → OnlyPasses s (exec (.yield sw) s) 1 sw ∧ OnlyPasses s (exec (.sleep sw i) s) 1 sw) ∧
    (TeamRuns s [] →
      WritesTeam s (exec (.yield sw) s)
        { s.team h with wdleft := 2 ^ (s.wgOf h).launch.wdlim, yielded := true } 1 sw ∧
      WritesTeam s (exec (.sleep sw i) s)
        { s.team h with sleep := if i = 0#16 then 0 else i.toNat + 1 } 1 sw)

/-- R66, R67: SGET reads each assigned special register; SSET of FLAGS clears the flags whose bits are 1 in s[D]. -/
def SpecialRegistersAreReadAndCleared : Prop :=
  ∀ (s : State) (sw : Bool) (d : SReg) (im : BitVec 8), TeamRuns s [] →
    let h := s.cur
    let t := s.team h
    let w := s.wgOf h
    let l := w.launch
    (sregAssigned im.toNat = true → WritesSreg s (exec (.sget sw d im) s) d (s.special h im.toNat) 1 sw) ∧
    (∀ p ∈ [(0x00, t.width), (0x01, t.teamix), (0x02, l.teams), (0x03, w.wgix), (0x04, l.grid), (0x05, l.launch.toNat),
            (0x06, l.graph.toNat), (0x07, l.phase.toNat), (0x08, l.job.toNat), (0x09, l.part), (0x0A, w.lcore),
            (0x0B, w.lcore / 16), (0x0C, w.core / 192), (0x0D, s.pkg), (0x0E, l.args.toNat), (0x0F, 1024 * l.spkib),
            (0x10, (s.cluster (clusterOf w.core)).fstep), (0x11, (s.cluster (clusterOf w.core)).tband),
            (0x14, t.undecl.toNat), (0x18, t.flags.toNat), (0x1A, t.depth + 2 ^ 16 * t.spill.toNat), (0x1C, t.wdleft),
            (0x1D, l.ceil), (0x20, (s.core w.core).cgen.toNat), (0x21, (s.part l.part).slotSeq.toNat), (0x22, l.det.toNat)],
      s.special h p.1 = BitVec.ofNat 64 p.2) ∧
    (∀ k, k < 32 → (s.special h 0x19).getLsbD k = decide (t.exec.extractLsb' (32 * k) 32 ≠ 0#32)) ∧
    ∃ x, WritesTeam s (exec (.sset sw d 0x18#8) s) x 1 sw ∧ x = { t with flags := x.flags } ∧
      ∀ k, k < 5 → x.flags.getLsbD k = (t.flags.getLsbD k && !(s.sreg h d).getLsbD k)

end Sys2Proof.Claims

/-- Idle instructions only move on; special registers are read and cleared: `IdleInstructionsOnlyMoveOn` and
`SpecialRegistersAreReadAndCleared`. -/
def Obligations.IdleInstructionsAndSpecialRegisters : Prop :=
  Sys2Proof.Claims.IdleInstructionsOnlyMoveOn ∧ Sys2Proof.Claims.SpecialRegistersAreReadAndCleared

/-- R117, R375: EXIT, once the team's counts are 0 and its attached foals have ended, ends the team: its context, its
vector registers and its record are gone, but for the lane copies of sealed batches that are still to land (R216), and
then completions that this brings about are made (`sweep`). Until then it parks, its watchdog counter loaded afresh.
EXIT.D detaches the attached foals instead of waiting for them, and traps DETACH_REG while one of them has registers as
its destination. -/
def Obligations.ExitEndsTheTeam : Prop :=
  ∀ (s : State) (sw : Bool), TeamRuns s [] →
    let h := s.cur
    let t := s.team h
    let fs := s.attachedOf h
    let drained := t.loads = 0 ∧ t.stores = 0 ∧ t.batch t.openSlot = 0
    let Ended := fun (o : Out) => ∃ u : State, o = .next (State.sweep u) ∧ u.ctx h = Ctx.blank ∧
      u.team h = (if t.copies = [] then Team.blank
        else { Team.blank with wg := t.wg, teamix := t.teamix, fresh := t.fresh, copies := t.copies, slots := t.slots }) ∧
      ∀ r, r < 128 → u.vreg h r = 0#32768
    let v := s.setTeam h { t with wdleft := 2 ^ (s.wgOf h).launch.wdlim }
    (drained → (∀ e ∈ fs, e.2.live = false) → Ended (exec (.exit sw) s)) ∧
    (drained → (∀ e ∈ fs, e.2.live = true → e.2.regdest = false) → Ended (exec (.exitD sw) s)) ∧
    (¬drained → ∃ u, exec (.exit sw) s = .next u ∧ ParkedAt v u (.exiting false)) ∧
    (¬drained → (∀ e ∈ fs, e.2.live = true → e.2.regdest = false) →
      ∃ u, exec (.exitD sw) s = .next u ∧ ParkedAt v u (.exiting false)) ∧
    (drained → (∃ e ∈ fs, e.2.live = true) → ∃ u, exec (.exit sw) s = .next u ∧ ParkedAt v u (.exiting true)) ∧
    ((∃ e ∈ fs, e.2.live = true ∧ e.2.regdest = true) → TrapsTeam s (exec (.exitD sw) s) .detachReg 0#1024)

namespace Sys2Proof.Claims

/-- R73, R130, R131: VIADD, VISUB and VIMUL element by element, wrapping, saturating to signed 32 bits, or giving the
high half of the product. -/
def VectorAddSubtractMultiply : Prop :=
  ∀ (s : State) (sw : Bool) (d b : VReg) (a : Src),
    TeamRuns s (d.toNat :: b.toNat :: Src.regs a) → Src.vecOk a = true →
    let x := fun i => (s.vreg s.cur b.toNat).lane i
    let y := fun i => Src.lane s s.cur .f32 i a
    let n := Src.len a
    let sat := fun v : Int => max (-2 ^ 31) (min (2 ^ 31 - 1) v)
    WritesEachLane s (exec (.viaddI32 sw d b a) s) d
      (fun i r => r = BitVec.ofInt 32 ((x i).toInt + (y i).toInt)) n sw ∧
    WritesEachLane s (exec (.viaddI16x2 sw d b a) s) d
      (fun i r => ∀ k, k < 2 → half r k = BitVec.ofInt 16 ((half (x i) k).toInt + (half (y i) k).toInt)) n sw ∧
    WritesEachLane s (exec (.viaddI8x4 sw d b a) s) d
      (fun i r => ∀ k, k < 4 → byteOf r k = BitVec.ofInt 8 ((byteOf (x i) k).toInt + (byteOf (y i) k).toInt)) n sw ∧
    WritesEachLane s (exec (.viaddS32sat sw d b a) s) d
      (fun i r => r.toInt = sat ((x i).toInt + (y i).toInt)) n sw ∧
    WritesEachLane s (exec (.visubI32 sw d b a) s) d
      (fun i r => r = BitVec.ofInt 32 ((x i).toInt - (y i).toInt)) n sw ∧
    WritesEachLane s (exec (.visubI16x2 sw d b a) s) d
      (fun i r => ∀ k, k < 2 → half r k = BitVec.ofInt 16 ((half (x i) k).toInt - (half (y i) k).toInt)) n sw ∧
    WritesEachLane s (exec (.visubI8x4 sw d b a) s) d
      (fun i r => ∀ k, k < 4 → byteOf r k = BitVec.ofInt 8 ((byteOf (x i) k).toInt - (byteOf (y i) k).toInt)) n sw ∧
    WritesEachLane s (exec (.visubS32sat sw d b a) s) d
      (fun i r => r.toInt = sat ((x i).toInt - (y i).toInt)) n sw ∧
    WritesEachLane s (exec (.vimulLo sw d b a) s) d
      (fun i r => r = BitVec.ofInt 32 ((x i).toInt * (y i).toInt)) n sw ∧
    WritesEachLane s (exec (.vimulHs sw d b a) s) d
      (fun i r => r.toInt = (x i).toInt * (y i).toInt / 2 ^ 32) n sw ∧
    WritesEachLane s (exec (.vimulHn sw d b a) s) d
      (fun i r => r.toNat = (x i).toNat * (y i).toNat / 2 ^ 32) n sw ∧
    WritesEachLane s (exec (.vimulI16x2 sw d b a) s) d
      (fun i r => ∀ k, k < 2 → half r k = BitVec.ofInt 16 ((half (x i) k).toInt * (half (y i) k).toInt)) n sw

/-- R132: VIMAD adds products to D, which is source and destination at once; the dot forms add four byte products. -/
def VectorMultiplyAccumulate : Prop :=
  ∀ (s : State) (sw : Bool) (d b : VReg) (a : Src),
    TeamRuns s (d.toNat :: b.toNat :: Src.regs a) → Src.vecOk a = true →
    let x := fun i => (s.vreg s.cur b.toNat).lane i
    let y := fun i => Src.lane s s.cur .f32 i a
    let z := fun i => (s.vreg s.cur d.toNat).lane i
    let n := Src.len a
    let sp := fun i k => (byteOf (x i) k).toInt * (byteOf (y i) k).toInt
    let np := fun i k => (byteOf (x i) k).toNat * (byteOf (y i) k).toNat
    WritesEachLane s (exec (.vimadI32 sw d b a) s) d
      (fun i r => r = BitVec.ofInt 32 ((z i).toInt + (x i).toInt * (y i).toInt)) n sw ∧
    WritesEachLane s (exec (.vimadI16x2 sw d b a) s) d
      (fun i r => ∀ k, k < 2 →
        half r k = BitVec.ofInt 16 ((half (z i) k).toInt + (half (x i) k).toInt * (half (y i) k).toInt)) n sw ∧
    WritesEachLane s (exec (.vimadDot4s8 sw d b a) s) d
      (fun i r => r = BitVec.ofInt 32 ((z i).toInt + (sp i 0 + sp i 1 + sp i 2 + sp i 3))) n sw ∧
    WritesEachLane s (exec (.vimadDot4n8 sw d b a) s) d
      (fun i r => r = BitVec.ofNat 32 ((z i).toNat + (np i 0 + np i 1 + np i 2 + np i 3))) n sw

end Sys2Proof.Claims

/-- Vector addition, subtraction, multiplication and accumulation, element by element: `VectorAddSubtractMultiply` and
`VectorMultiplyAccumulate`. -/
def Obligations.VectorArithmetic : Prop :=
  Sys2Proof.Claims.VectorAddSubtractMultiply ∧ Sys2Proof.Claims.VectorMultiplyAccumulate

namespace Sys2Proof.Claims

/-- R133, R134: the bitwise forms, the shifts by A[4:0] and by an immediate below 32, minimum and maximum. -/
def VectorLogicShiftsAndExtremes : Prop :=
  ∀ (s : State) (sw : Bool) (d b : VReg) (a : Src) (im : BitVec 8),
    TeamRuns s (d.toNat :: b.toNat :: Src.regs a) → Src.vecOk a = true → im.toNat < 32 →
    let x := fun i => (s.vreg s.cur b.toNat).lane i
    let y := fun i => Src.lane s s.cur .f32 i a
    let k := fun i => (y i).toNat % 32
    let n := Src.len a
    let rot := fun (v : Word) (c : Nat) => (BitVec.ofNat 32 (v.toNat * 2 ^ c + v.toNat / 2 ^ (32 - c)) : Word)
    WritesEachLane s (exec (.vlogAnd sw d b a) s) d (fun i r => r = x i &&& y i) n sw ∧
    WritesEachLane s (exec (.vlogOr sw d b a) s) d (fun i r => r = x i ||| y i) n sw ∧
    WritesEachLane s (exec (.vlogXor sw d b a) s) d (fun i r => r = x i ^^^ y i) n sw ∧
    WritesEachLane s (exec (.vlogAndn sw d b a) s) d (fun i r => r = x i &&& ~~~(y i)) n sw ∧
    WritesEachLane s (exec (.vshfShl sw d b a) s) d (fun i r => r.toNat = (x i).toNat * 2 ^ k i % 2 ^ 32) n sw ∧
    WritesEachLane s (exec (.vshfShr sw d b a) s) d (fun i r => r.toNat = (x i).toNat / 2 ^ k i) n sw ∧
    WritesEachLane s (exec (.vshfSar sw d b a) s) d (fun i r => r.toInt = (x i).toInt / 2 ^ k i) n sw ∧
    WritesEachLane s (exec (.vshfRot sw d b a) s) d (fun i r => r = rot (x i) (k i)) n sw ∧
    WritesEachLane s (exec (.vshfiShl sw d b im) s) d (fun i r => r.toNat = (x i).toNat * 2 ^ im.toNat % 2 ^ 32) 1 sw ∧
    WritesEachLane s (exec (.vshfiShr sw d b im) s) d (fun i r => r.toNat = (x i).toNat / 2 ^ im.toNat) 1 sw ∧
    WritesEachLane s (exec (.vshfiSar sw d b im) s) d (fun i r => r.toInt = (x i).toInt / 2 ^ im.toNat) 1 sw ∧
    WritesEachLane s (exec (.vshfiRot sw d b im) s) d (fun i r => r = rot (x i) im.toNat) 1 sw ∧
    WritesEachLane s (exec (.viminS32min sw d b a) s) d (fun i r => r.toInt = min (x i).toInt (y i).toInt) n sw ∧
    WritesEachLane s (exec (.viminN32min sw d b a) s) d (fun i r => r.toNat = min (x i).toNat (y i).toNat) n sw ∧
    WritesEachLane s (exec (.viminS32max sw d b a) s) d (fun i r => r.toInt = max (x i).toInt (y i).toInt) n sw ∧
    WritesEachLane s (exec (.viminN32max sw d b a) s) d (fun i r => r.toNat = max (x i).toNat (y i).toNat) n sw

/-- R135, R137, R138: bit counts, selection by a lane mask, moves with their extensions. -/
def VectorBitsSelectsAndMoves : Prop :=
  ∀ (s : State) (sw : Bool) (d b : VReg) (a : Src),
    TeamRuns s (d.toNat :: b.toNat :: Src.regs a) → Src.vecOk a = true →
    let x := fun i => (s.vreg s.cur b.toNat).lane i
    let y := fun i => Src.lane s s.cur .f32 i a
    let n := Src.len a
    let pick := fun k i => if ((s.team s.cur).lmk k).getLsbD i = true then y i else x i
    WritesEachLane s (exec (.vbitPopc sw d a) s) d
      (fun i r => r.toNat = ((List.range 32).filter fun j => (y i).getLsbD j).length) n sw ∧
    WritesEachLane s (exec (.vbitClz sw d a) s) d
      (fun i r => r.toNat ≤ 32 ∧ (y i).toNat < 2 ^ (32 - r.toNat) ∧ (r.toNat < 32 → 2 ^ (31 - r.toNat) ≤ (y i).toNat)) n sw ∧
    WritesEachLane s (exec (.vbitBrev sw d a) s) d (fun i r => ∀ j, j < 32 → r.getLsbD j = (y i).getLsbD (31 - j)) n sw ∧
    WritesEachLane s (exec (.vbitFfs sw d a) s) d
      (fun i r => if y i = 0#32 then r = BitVec.allOnes 32
        else (y i).getLsbD r.toNat = true ∧ ∀ j, j < r.toNat → (y i).getLsbD j = false) n sw ∧
    WritesEachLane s (exec (.vselLm0 sw d b a) s) d (fun i r => r = pick 0 i) n sw ∧
    WritesEachLane s (exec (.vselLm1 sw d b a) s) d (fun i r => r = pick 1 i) n sw ∧
    WritesEachLane s (exec (.vselLm2 sw d b a) s) d (fun i r => r = pick 2 i) n sw ∧
    WritesEachLane s (exec (.vselLm3 sw d b a) s) d (fun i r => r = pick 3 i) n sw ∧
    WritesEachLane s (exec (.vmov sw d a) s) d (fun i r => r = y i) n sw ∧
    WritesEachLane s (exec (.vsx16 sw d a) s) d (fun i r => r.toInt = (half (y i) 0).toInt) n sw ∧
    WritesEachLane s (exec (.vsx8 sw d a) s) d (fun i r => r.toInt = (byteOf (y i) 0).toInt) n sw ∧
    WritesEachLane s (exec (.vzx16 sw d a) s) d (fun i r => r.toNat = (half (y i) 0).toNat) n sw

end Sys2Proof.Claims

/-- Vector logic, shifts, extremes, bit counts, selects and moves: `VectorLogicShiftsAndExtremes` and
`VectorBitsSelectsAndMoves`. -/
def Obligations.VectorLogicBitsAndMoves : Prop :=
  Sys2Proof.Claims.VectorLogicShiftsAndExtremes ∧ Sys2Proof.Claims.VectorBitsSelectsAndMoves

namespace Sys2Proof.Claims

/-- A comparison writes bit i of lm[l] for every active lane, keeps the bits of the others (R61), and ORs its flags
into FLAGS. -/
def ComparesLanes (s : State) (o : Out) (l : BitVec 3) (g : Nat → Bool × FFlags) (n : Nat) (sw : Bool) : Prop :=
  let t := s.team s.cur
  ∃ x, WritesTeam s o x n sw ∧ x = { (t.flagged fun i => (g i).2) with lm := x.lm } ∧
    (∀ k, k ≠ l.toNat → x.lmk k = t.lmk k) ∧
    ∀ i, i < 1024 → (x.lmk l.toNat).getLsbD i =
      if i < t.width ∧ t.exec.getLsbD i = true then (g i).1 else (t.lmk l.toNat).getLsbD i

/-- R136: VICMP compares signed or unsigned words into a lane mask and raises no flag. -/
def VectorIntegerComparisons : Prop :=
  ∀ (s : State) (sw : Bool) (l : BitVec 3) (b : VReg) (a : Src) (c : Cmp),
    TeamRuns s (b.toNat :: Src.regs a) → Src.vecOk a = true → c ≠ .ord → c ≠ .uno →
    let x := fun i => (s.vreg s.cur b.toNat).lane i
    let y := fun i => Src.lane s s.cur .f32 i a
    let holds := fun v w : Int => match c with
      | .eq => decide (v = w) | .ne => decide (v ≠ w) | .lt => decide (v < w) | .le => decide (v ≤ w)
      | .gt => decide (w < v) | .ge => decide (w ≤ v) | .ord => false | .uno => false
    ComparesLanes s (exec (.vicmpS32 sw l c b a) s) l (fun i => (holds (x i).toInt (y i).toInt, 0#5)) (Src.len a) sw ∧
    ComparesLanes s (exec (.vicmpN32 sw l c b a) s) l (fun i => (holds (x i).toNat (y i).toNat, 0#5)) (Src.len a) sw

/-- R141, R83: VFCMP compares FP32 words, or the low FP16 or BF16 halves, into a lane mask, with its NV. -/
def VectorFloatingPointComparisons : Prop :=
  ∀ (s : State) (sw : Bool) (l : BitVec 3) (b : VReg) (a : Src) (c : Cmp),
    TeamRuns s (b.toNat :: Src.regs a) → Src.vecOk a = true →
    let x := fun i => (s.vreg s.cur b.toNat).lane i
    let y := fun e i => Src.lane s s.cur e i a
    ComparesLanes s (exec (.vfcmpF32 sw l c b a) s) l
      (fun i => Fmt.fp32.cmp c (x i).toNat (y .f32 i).toNat) (Src.len a) sw ∧
    ComparesLanes s (exec (.vfcmpF16 sw l c b a) s) l
      (fun i => Fmt.fp16.cmp c ((x i).toNat % 2 ^ 16) ((y .f16 i).toNat % 2 ^ 16)) (Src.len a) sw ∧
    ComparesLanes s (exec (.vfcmpBf16 sw l c b a) s) l
      (fun i => Fmt.bf16.cmp c ((x i).toNat % 2 ^ 16) ((y .bf16 i).toNat % 2 ^ 16)) (Src.len a) sw

end Sys2Proof.Claims

/-- Vector comparisons write the mask bits of active lanes: `VectorIntegerComparisons` and
`VectorFloatingPointComparisons`. -/
def Obligations.VectorComparisons : Prop :=
  Sys2Proof.Claims.VectorIntegerComparisons ∧ Sys2Proof.Claims.VectorFloatingPointComparisons

namespace Sys2Proof.Claims

/-- R139, R140, R142: the floating-point sums, products, fused forms, extremes and dot products, each rounded once
(R80) with the flags of every active lane ORed into FLAGS (R88). FP constants in A take the element type of the form
(R31). -/
def VectorFloatingPointArithmetic : Prop :=
  ∀ (s : State) (sw : Bool) (d b : VReg) (a : Src),
    TeamRuns s (d.toNat :: b.toNat :: Src.regs a) → Src.vecOk a = true →
    let n := Src.len a
    let g := fun (e : Elem) (f : Word → Word → Word → Word × FFlags) (i : Nat) =>
      f ((s.vreg s.cur b.toNat).lane i) (Src.lane s s.cur e i a) ((s.vreg s.cur d.toNat).lane i)
    let W := fun (o : Out) (e : Elem) (f : Word → Word → Word → Word × FFlags) => WritesFlaggedLanes s o d (g e f) n sw
    W (exec (.vfaddF32 sw d b a) s) .f32 (f32el fun b a _ => Fmt.fp32.add b a) ∧
    W (exec (.vfaddF16x2 sw d b a) s) .f16 (f16el fun b a _ => Fmt.fp16.add b a) ∧
    W (exec (.vfaddBf16x2 sw d b a) s) .bf16 (f16el fun b a _ => Fmt.bf16.add b a) ∧
    W (exec (.vfsubF32 sw d b a) s) .f32 (f32el fun b a _ => Fmt.fp32.sub b a) ∧
    W (exec (.vfsubF16x2 sw d b a) s) .f16 (f16el fun b a _ => Fmt.fp16.sub b a) ∧
    W (exec (.vfsubBf16x2 sw d b a) s) .bf16 (f16el fun b a _ => Fmt.bf16.sub b a) ∧
    W (exec (.vfmulF32 sw d b a) s) .f32 (f32el fun b a _ => Fmt.fp32.mul b a) ∧
    W (exec (.vfmulF16x2 sw d b a) s) .f16 (f16el fun b a _ => Fmt.fp16.mul b a) ∧
    W (exec (.vfmulBf16x2 sw d b a) s) .bf16 (f16el fun b a _ => Fmt.bf16.mul b a) ∧
    W (exec (.vfmaF32 sw d b a) s) .f32 (f32el fun b a d => Fmt.fp32.fma a b d) ∧
    W (exec (.vfmaF16x2 sw d b a) s) .f16 (f16el fun b a d => Fmt.fp16.fma a b d) ∧
    W (exec (.vfmaBf16x2 sw d b a) s) .bf16 (f16el fun b a d => Fmt.bf16.fma a b d) ∧
    W (exec (.vfminF32 sw d b a) s) .f32 (f32el fun b a _ => Fmt.fp32.minMax false b a) ∧
    W (exec (.vfmaxF32 sw d b a) s) .f32 (f32el fun b a _ => Fmt.fp32.minMax true b a) ∧
    W (exec (.vfminF16x2 sw d b a) s) .f16 (f16el fun b a _ => Fmt.fp16.minMax false b a) ∧
    W (exec (.vfmaxF16x2 sw d b a) s) .f16 (f16el fun b a _ => Fmt.fp16.minMax true b a) ∧
    W (exec (.vfdotDot2bf16 sw d b a) s) .bf16 (dotWord .bf16 2 16) ∧
    W (exec (.vfdotDot2f16 sw d b a) s) .f16 (dotWord .fp16 2 16) ∧
    W (exec (.vfdotDot4f8e4 sw d b a) s) .f8e4 (dotWord .f8e4 4 8) ∧
    W (exec (.vfdotDot4f8e5 sw d b a) s) .f8e5 (dotWord .f8e5 4 8)

/-- R143-R145: conversions in their mode, rounding to integral values, and the special functions of R101, with the
flags of every active lane ORed into FLAGS. -/
def VectorConversionsAndFunctions : Prop :=
  ∀ (s : State) (sw : Bool) (d : VReg) (a : Src) (k : Conv),
    TeamRuns s (d.toNat :: Src.regs a) → Src.vecOk a = true →
    let W := fun (o : Out) (e : Elem) (f : Word → Word × FFlags) =>
      WritesFlaggedLanes s o d (fun i => f (Src.lane s s.cur e i a)) (Src.len a) sw
    let F := fun (o : Out) (f : Nat → FRes) =>
      WritesFlaggedLanes s o d
        (fun i => (BitVec.ofNat 32 (f (Src.lane s s.cur .f32 i a).toNat).bits, (f (Src.lane s s.cur .f32 i a).toNat).flags))
        (Src.len a) sw
    W (exec (.vfcvtRne sw d k a) s) (convElem k) (convert k .rne) ∧
    W (exec (.vfcvtRtz sw d k a) s) (convElem k) (convert k .rtz) ∧
    W (exec (.vfcvtDn sw d k a) s) (convElem k) (convert k .dn) ∧
    W (exec (.vfcvtUp sw d k a) s) (convElem k) (convert k .up) ∧
    F (exec (.vfrndRne sw d a) s) (Fmt.fp32.toIntegral .rne) ∧
    F (exec (.vfrndRtz sw d a) s) (Fmt.fp32.toIntegral .rtz) ∧
    F (exec (.vfrndFloor sw d a) s) (Fmt.fp32.toIntegral .dn) ∧
    F (exec (.vfrndCeil sw d a) s) (Fmt.fp32.toIntegral .up) ∧
    F (exec (.vrcp sw d a) s) spRcp ∧ F (exec (.vrsq sw d a) s) spRsq ∧ F (exec (.vex2 sw d a) s) spEx2 ∧
    F (exec (.vlg2 sw d a) s) spLg2 ∧ F (exec (.vsinpi sw d a) s) spSinpi ∧ F (exec (.vcospi sw d a) s) spCospi ∧
    F (exec (.vsqrt sw d a) s) spSqrt ∧ F (exec (.vtanh sw d a) s) spTanh

end Sys2Proof.Claims

/-- Floating-point arithmetic, conversions and special functions, each rounded once with its flags:
`VectorFloatingPointArithmetic` and `VectorConversionsAndFunctions`. -/
def Obligations.VectorFloatingPoint : Prop :=
  Sys2Proof.Claims.VectorFloatingPointArithmetic ∧ Sys2Proof.Claims.VectorConversionsAndFunctions

/-- R146-R149: the value-index choice of R99, packing with its rounding or saturation, INT4 expansion, CRC-32C and the
mixing hash. -/
def Obligations.VectorPackingAndHashing : Prop :=
  ∀ (s : State) (sw : Bool) (d b : VReg) (a : Src) (p : BitVec 2),
    TeamRuns s (d.toNat :: b.toNat :: Src.regs a) → Src.vecOk a = true →
    let x := fun i => (s.vreg s.cur b.toNat).lane i
    let y := fun i => Src.lane s s.cur .f32 i a
    let n := Src.len a
    let sat := fun v : Int => max (-2 ^ 15) (min (2 ^ 15 - 1) v)
    WritesEachLane s (exec (.vmaxiMax sw d b a) s) d
      (fun i r => r = if viBetter true (y i).toNat (x i).toNat = true then y i else x i) n sw ∧
    WritesEachLane s (exec (.vmaxiMin sw d b a) s) d
      (fun i r => r = if viBetter false (y i).toNat (x i).toNat = true then y i else x i) n sw ∧
    WritesFlaggedLanes s (exec (.vpackF16x2 sw d b a) s) d (fun i => packF .fp16 (x i) (y i) (x i)) n sw ∧
    WritesFlaggedLanes s (exec (.vpackBf16x2 sw d b a) s) d (fun i => packF .bf16 (x i) (y i) (x i)) n sw ∧
    WritesEachLane s (exec (.vpackS16x2sat sw d b a) s) d
      (fun i r => (half r 0).toInt = sat (x i).toInt ∧ (half r 1).toInt = sat (y i).toInt) n sw ∧
    WritesEachLane s (exec (.vexpd sw d p a) s) d
      (fun i r => ∀ k, k < 2 → Fmt.bf16.value (half r k).toNat =
        Fmt.bf16.value (Fmt.bf16.ofInt .rne ((y i).extractLsb' (4 * (2 * p.toNat + k)) 4).toInt).bits) n sw ∧
    WritesEachLane s (exec (.vhashCrc32c sw d b a) s) d (fun i r => r = crc32c (x i) (y i)) n sw ∧
    WritesEachLane s (exec (.vhashMix32 sw d b a) s) d (fun i r => r = mix32 (x i) (y i)) n sw

namespace Sys2Proof.Claims

/-- R82, R83: an arithmetic result is the canonical NaN wherever an operand is a NaN, whatever its payload, and NV is
raised exactly where an operand is a signalling one; 0 × ∞ and ∞ − ∞ are canonical NaNs with NV. -/
def ArithmeticNaNsAreCanonical : Prop :=
  ∀ f ∈ [Fmt.fp32, Fmt.fp16, Fmt.bf16], ∀ a b d : Nat,
    let x := f.value a
    let y := f.value b
    let z := f.value d
    (x.isNan = true ∨ y.isNan = true →
      ∀ r ∈ [f.add a b, f.sub a b, f.mul a b],
        r.bits = f.nan ∧ r.flags = if x.isSig = true ∨ y.isSig = true then 1#5 else 0#5) ∧
    (x.isNan = true ∨ y.isNan = true ∨ z.isNan = true → (f.fma a b d).bits = f.nan) ∧
    (x.isInf = true → y = .fin (y.isNeg) 0 f.emin → f.mul a b = ⟨f.nan, 1#5⟩) ∧
    (x = .inf false → y = .inf true → f.add a b = ⟨f.nan, 1#5⟩) ∧
    (x = .inf false → y = .inf false → f.sub a b = ⟨f.nan, 1#5⟩)

/-- R83: comparisons with a NaN: LT, LE, GT and GE are false and raise NV; EQ is false and NE true, with NV for a
signalling one only; ORD and UNO tell whether there is one; −0 equals +0. -/
def NaNComparisons : Prop :=
  ∀ f ∈ [Fmt.fp32, Fmt.fp16, Fmt.bf16], ∀ a b : Nat,
    let x := f.value a
    let y := f.value b
    let sig : FFlags := if x.isSig = true ∨ y.isSig = true then 1#5 else 0#5
    (x.isNan = true ∨ y.isNan = true →
      (∀ c ∈ [Cmp.lt, .le, .gt, .ge], f.cmp c a b = (false, 1#5)) ∧ f.cmp .eq a b = (false, sig) ∧
      f.cmp .ne a b = (true, sig) ∧ f.cmp .ord a b = (false, sig) ∧ f.cmp .uno a b = (true, sig)) ∧
    (x.isNan = false → y.isNan = false → f.cmp .ord a b = (true, 0#5) ∧ f.cmp .uno a b = (false, 0#5)) ∧
    (x.isZero = true → y.isZero = true → f.cmp .eq a b = (true, 0#5) ∧ f.cmp .lt a b = (false, 0#5))

end Sys2Proof.Claims

/-- Arithmetic NaNs are canonical; comparisons with a NaN: `ArithmeticNaNsAreCanonical` and `NaNComparisons`. -/
def Obligations.NaNsAndComparisons : Prop :=
  Sys2Proof.Claims.ArithmeticNaNsAreCanonical ∧ Sys2Proof.Claims.NaNComparisons

namespace Sys2Proof.Claims

/-- R150: in every active lane D takes B of a lane of its own 32-lane word, k = A[4:0] choosing it; B is read before
any lane is written. -/
def ShufflesStayInTheirWord : Prop :=
  ∀ (s : State) (sw : Bool) (d b : VReg) (a : Src),
    TeamRuns s (d.toNat :: b.toNat :: Src.regs a) → Src.vecOk a = true →
    let x := fun i => (s.vreg s.cur b.toNat).lane i
    let k := fun i => (Src.lane s s.cur .f32 i a).toNat % 32
    let n := Src.len a
    WritesEachLane s (exec (.vshflIdx sw d b a) s) d (fun i r => r = x (32 * (i / 32) + k i)) n sw ∧
    WritesEachLane s (exec (.vshflXor sw d b a) s) d (fun i r => r = x (32 * (i / 32) + ((i % 32) ^^^ k i))) n sw ∧
    WritesEachLane s (exec (.vshflUp sw d b a) s) d (fun i r => r = x (if k i ≤ i % 32 then i - k i else i)) n sw ∧
    WritesEachLane s (exec (.vshflDown sw d b a) s) d (fun i r => r = x (if i % 32 + k i ≤ 31 then i + k i else i)) n sw

/-- R61, R153: BALLOT writes the bits of all lanes below W, MPRE counts set bits below each active lane whatever EXEC
holds, VANY and VALL set scc from the active lanes. -/
def BallotsAndTeamConditions : Prop :=
  ∀ (s : State) (sw : Bool) (l : BitVec 3) (d : VReg) (a : Src),
    let t := s.team s.cur
    let passes := fun i => i < t.width ∧ t.exec.getLsbD i = true ∧ Src.lane s s.cur .f32 i a ≠ 0#32
    (TeamRuns s (Src.regs a) → Src.vecOk a = true →
      (∃ x, WritesTeam s (exec (.ballot sw l a) s) x (Src.len a) sw ∧ x = { t with lm := x.lm } ∧
        (∀ k, k ≠ l.toNat → x.lmk k = t.lmk k) ∧
        ∀ i, i < 1024 → ((x.lmk l.toNat).getLsbD i = true ↔
          passes i ∨ (t.width ≤ i ∧ (t.lmk l.toNat).getLsbD i = true))) ∧
      (∃ b, WritesScc s (exec (.vany sw a) s) b (Src.len a) sw ∧ (b = true ↔ ∃ i, passes i)) ∧
      ∃ b, WritesScc s (exec (.vall sw a) s) b (Src.len a) sw ∧ (b = true ↔ ∀ i ∈ t.active, passes i)) ∧
    (TeamRuns s [d.toNat] →
      WritesLanes s (exec (.mpre sw l d) s) d
        (fun i => BitVec.ofNat 32 ((List.range i).filter fun j => (t.lmk l.toNat).getLsbD j).length) t 1 sw)

end Sys2Proof.Claims

/-- Shuffles stay in their word; ballots, counts and team conditions: `ShufflesStayInTheirWord` and
`BallotsAndTeamConditions`. -/
def Obligations.ShufflesBallotsAndConditions : Prop :=
  Sys2Proof.Claims.ShufflesStayInTheirWord ∧ Sys2Proof.Claims.BallotsAndTeamConditions

namespace Sys2Proof.Claims

/-- s[d] := v and FLAGS takes `fl` beside what it held; nothing else but the move past `n` words. -/
def WritesSregAndFlags (s : State) (o : Out) (d : SReg) (v : DWord) (fl : FFlags) (n : Nat) (sw : Bool) : Prop :=
  ∃ t, o = .next t ∧ t.sreg s.cur d = v ∧ SameSregsBut d s t ∧ SameScc s t ∧
    TeamIs s t { s.team s.cur with flags := (s.team s.cur).flags ||| fl } ∧ SameVregs s t ∧ Passed s t n sw ∧ OnlyHart s t

/-- The pairwise tree of R94, level by level: x[j] of the next level is x[2 j] + x[2 j + 1]. -/
def treeValue : Nat → (Nat → Nat) → Nat → Nat
  | 0, x, j => x j
  | k + 1, x, j => (Fmt.fp32.add (treeValue k x (2 * j)) (treeValue k x (2 * j + 1))).bits

/-- The flags of all the additions below a value of that tree. -/
def treeFlags : Nat → (Nat → Nat) → Nat → FFlags
  | 0, _, _ => 0#5
  | k + 1, x, j => treeFlags k x (2 * j) ||| treeFlags k x (2 * j + 1) |||
      (Fmt.fp32.add (treeValue k x (2 * j)) (treeValue k x (2 * j + 1))).flags

/-- What lane i contributes: its word if it is active, `id` otherwise. -/
def contribution (s : State) (a : Src) (id : Nat) (i : Nat) : Nat :=
  if i < (s.team s.cur).width ∧ (s.team s.cur).exec.getLsbD i = true then (Src.lane s s.cur .f32 i a).toNat else id

/-- R94, R151: the integer reductions, in any order, and the FP32 sum by the tree over 2^k values, 2^k the smallest
power of two at or above W, inactive lanes as −0.0. -/
def ReductionsSumAndCompare : Prop :=
  ∀ (s : State) (sw : Bool) (d : SReg) (r : VReg), TeamRuns s [r.toNat] →
    let a : Src := .v r
    let t := s.team s.cur
    let ys := t.active.map fun i => Src.lane s s.cur .f32 i a
    WritesSregAndFlags s (exec (.vredAdd sw d .s32 a) s) d
      (BitVec.ofInt 64 (BitVec.ofInt 32 (ys.map BitVec.toInt).sum).toInt) 0#5 1 sw ∧
    WritesSregAndFlags s (exec (.vredAdd sw d .n32 a) s) d (BitVec.ofNat 64 ((ys.map BitVec.toNat).sum % 2 ^ 32)) 0#5 1 sw ∧
    (∀ k, t.width ≤ 2 ^ k → (∀ j, j < k → 2 ^ j < t.width) →
      WritesSregAndFlags s (exec (.vredAdd sw d .f32 a) s) d
        (BitVec.ofNat 64 (treeValue k (contribution s a 0x80000000) 0)) (treeFlags k (contribution s a 0x80000000) 0) 1 sw) ∧
    WritesSregAndFlags s (exec (.vredMax sw d .s32 a) s) d
      (BitVec.ofInt 64 ((ys.map BitVec.toInt).foldl max (-2 ^ 31))) 0#5 1 sw ∧
    WritesSregAndFlags s (exec (.vredMin sw d .s32 a) s) d
      (BitVec.ofInt 64 ((ys.map BitVec.toInt).foldl min (2 ^ 31 - 1))) 0#5 1 sw ∧
    WritesSregAndFlags s (exec (.vredMax sw d .n32 a) s) d (BitVec.ofNat 64 ((ys.map BitVec.toNat).foldl max 0)) 0#5 1 sw ∧
    WritesSregAndFlags s (exec (.vredMin sw d .n32 a) s) d
      (BitVec.ofNat 64 ((ys.map BitVec.toNat).foldl min (2 ^ 32 - 1))) 0#5 1 sw ∧
    ∀ max : Bool, ∃ v fl,
      WritesSregAndFlags s (if max then exec (.vredMax sw d .f32 a) s else exec (.vredMin sw d .f32 a) s) d
        (BitVec.ofNat 64 v) fl 1 sw ∧
      v = ys.foldl (fun (b : Nat) y => (Fmt.fp32.minMax max b y.toNat).bits) 0x7FC00000 ∧
      ((∃ y ∈ ys, (Fmt.fp32.value y.toNat).isSig = true) → fl = 1#5) ∧
      ((∀ y ∈ ys, (Fmt.fp32.value y.toNat).isSig = false) → fl = 0#5)

/-- R99, R100, R151: VRED.MAXI answers the best of the active lanes' words under MAX, and 0xFFFF_FFFF where none is
active. -/
def MaxiAnswersTheBestWord : Prop :=
  ∀ (s : State) (sw : Bool) (d : SReg) (r : VReg), TeamRuns s [r.toNat] →
    let ys := (s.team s.cur).active.map fun i => (Src.lane s s.cur .f32 i (.v r)).toNat
    ∃ v, WritesSregAndFlags s (exec (.vredMaxi sw d .vi (.v r)) s) d (BitVec.ofNat 64 v) 0#5 1 sw ∧
      (ys = [] → v = 0xFFFFFFFF) ∧ (ys ≠ [] → v ∈ ys) ∧ ∀ y ∈ ys, viBetter true y v = false

end Sys2Proof.Claims

/-- Reductions combine the active lanes; MAXI answers the best word: `ReductionsSumAndCompare` and
`MaxiAnswersTheBestWord`. -/
def Obligations.ReductionsCombineActiveLanes : Prop :=
  Sys2Proof.Claims.ReductionsSumAndCompare ∧ Sys2Proof.Claims.MaxiAnswersTheBestWord

namespace Sys2Proof.Claims

/-- The recursive doubling of R95: y[i] of step d is x[i − 2^d] + x[i], all lanes reading the step before. -/
def scanValue : Nat → (Nat → Nat) → Nat → Nat
  | 0, x, i => x i
  | d + 1, x, i =>
    if 2 ^ d ≤ i then (Fmt.fp32.add (scanValue d x (i - 2 ^ d)) (scanValue d x i)).bits else scanValue d x i

/-- The flags of a lane's own additions. -/
def scanFlags : Nat → (Nat → Nat) → Nat → FFlags
  | 0, _, _ => 0#5
  | d + 1, x, i =>
    if 2 ^ d ≤ i then scanFlags d x i ||| (Fmt.fp32.add (scanValue d x (i - 2 ^ d)) (scanValue d x i)).flags
    else scanFlags d x i

end Sys2Proof.Claims

/-- R95, R152: prefix sums over the active lanes, inclusive and exclusive, the FP32 sum by recursive doubling in as
many steps as W asks for, and the best word under MAX of the active lanes up to each. -/
def Obligations.ScansAreOrderedPrefixes : Prop :=
  ∀ (s : State) (sw : Bool) (d : VReg) (a : Src), TeamRuns s (d.toNat :: Src.regs a) → Src.vecOk a = true →
    let t := s.team s.cur
    let upTo := fun i => (t.active.filter fun j => j ≤ i).map fun j => (Src.lane s s.cur .f32 j a).toNat
    let below := fun i => (t.active.filter fun j => j < i).map fun j => (Src.lane s s.cur .f32 j a).toNat
    let n := Src.len a
    WritesEachLane s (exec (.vscanInclAddS32 sw d a) s) d (fun i r => r.toNat = (upTo i).sum % 2 ^ 32) n sw ∧
    WritesEachLane s (exec (.vscanExclAddS32 sw d a) s) d (fun i r => r.toNat = (below i).sum % 2 ^ 32) n sw ∧
    (∀ k, t.width ≤ 2 ^ k →
      WritesFlaggedLanes s (exec (.vscanInclAddF32 sw d a) s) d
        (fun i => (BitVec.ofNat 32 (scanValue k (contribution s a 0x80000000) i),
                   scanFlags k (contribution s a 0x80000000) i)) n sw) ∧
    WritesEachLane s (exec (.vscanInclMaxi sw d a) s) d
      (fun i r => (upTo i ≠ [] → r.toNat ∈ upTo i) ∧ ∀ y ∈ upTo i, viBetter true y r.toNat = false) n sw

namespace Sys2Proof.Claims

/-- The requests of a vector form: n bytes a lane, in increasing lane order. -/
def perLane (s : State) (n : Nat) (addr : Nat → Addr) (data data2 : Nat → Nat) : List Ask :=
  (s.team s.cur).lanes.map fun i => { lane := i, addr := addr i, n := n, data := data i, data2 := data2 i }

/-- An ordinary load or store (R161): no order, no alignment, served near. -/
def plainForm (k : ReqKind) (sp : Space) (x : Access) (d : Dest) (sext : Bool) : MemForm :=
  { kind := k, space := sp, access := x, align := false, dest := d, sext := sext, reach := .near, acquire := none,
    release := false, noDet := false }

/-- n bytes of a lane from v[d] on, the first register lowest (R58). -/
def laneBytes (s : State) (d n i : Nat) : Nat :=
  ((List.range ((n + 3) / 4)).map fun j => ((s.vreg s.cur (d + j)).lane i).toNat * 2 ^ (32 * j)).sum % 2 ^ (8 * n)

/-- R154, R155, R161, R167: the vector loads ask for n bytes in every active lane, at the addresses of their format:
base and lane number, base and index, scratchpad base and index, or the fragment's rows; LDVS extends the sign. -/
def VectorLoadsAskForTheirLanes : Prop :=
  ∀ (s : State) (sw : Bool) (d x : VReg) (b : SReg) (im : BitVec 9) (k w : BitVec 2) (p : BitVec 7),
    let B := s.sreg s.cur b
    let idx := fun l => ((s.vreg s.cur x.toNat).lane l).toNat * 2 ^ k.toNat
    let load := fun (i : Instr) (sp : Space) (sext : Bool) (n : Nat) (regs : List Nat) (addr : Nat → Addr) =>
      TeamRuns s (span d n ++ regs) →
      let f := plainForm .load sp .read (.vec d.toNat) sext
      let asks := perLane s n addr (fun _ => 0) fun _ => 0
      MayIssue s f asks → IssuesRequest s (exec i s) f asks sw
    let mi := fun (n : Nat) (l : Nat) => B + BitVec.ofInt 64 (16 * im.toInt + l * n)
    let mg := fun (l : Nat) => (B + BitVec.ofNat 64 (idx l) : Addr)
    let sg := fun (l : Nat) => (BitVec.ofNat 64 (B.toNat % 2 ^ 20 + idx l) : Addr)
    let fr := fun (row l : Nat) => (BitVec.ofNat 64 (B.toNat % 2 ^ 20 +
      (64 * (l / 128) + l % 64) * (if p = 0#7 then row else 16 * p.toNat) + row / 2 * (l % 128 / 64)) : Addr)
    let fits := fun (row : Nat) => (s.team s.cur).width % 128 = 0 ∧ B.toNat % 4 = 0 ∧ (p = 0#7 ∨ row ≤ 16 * p.toNat)
    load (.ldvB8 sw d b im) .global false 1 [] (mi 1) ∧ load (.ldvB16 sw d b im) .global false 2 [] (mi 2) ∧
    load (.ldvB32 sw d b im) .global false 4 [] (mi 4) ∧ load (.ldvB64 sw d b im) .global false 8 [] (mi 8) ∧
    load (.ldvsS8 sw d b im) .global true 1 [] (mi 1) ∧ load (.ldvsS16 sw d b im) .global true 2 [] (mi 2) ∧
    load (.ldgB8 sw k d b x) .global false 1 [x.toNat] mg ∧ load (.ldgB16 sw k d b x) .global false 2 [x.toNat] mg ∧
    load (.ldgB32 sw k d b x) .global false 4 [x.toNat] mg ∧ load (.ldgB64 sw k d b x) .global false 8 [x.toNat] mg ∧
    load (.ldspB8 sw k d b x) .scratch false 1 [x.toNat] sg ∧ load (.ldspB16 sw k d b x) .scratch false 2 [x.toNat] sg ∧
    load (.ldspB32 sw k d b x) .scratch false 4 [x.toNat] sg ∧ load (.ldspB64 sw k d b x) .scratch false 8 [x.toNat] sg ∧
    (fits 64 → load (.tlda sw d b 0#2 p) .scratch false 32 [] (fr 64)) ∧
    (∀ row, row = (if w = 0#2 then 64 else if w = 1#2 then 32 else 24) → w ≠ 3#2 → fits row →
      load (.tldb sw d b w p) .scratch false (row / 2) [] (fr row)) ∧
    (fits 256 → load (.tldd sw d b 0#2 p) .scratch false 128 [] (fr 256))

/-- R154, R155, R161, R167: the vector stores ask for n bytes in every active lane at the addresses of their format,
with the data their registers hold at issue (R23); no byte is stored yet. -/
def VectorStoresAskForTheirLanes : Prop :=
  ∀ (s : State) (sw : Bool) (d x : VReg) (b : SReg) (im : BitVec 9) (k : BitVec 2) (p : BitVec 7), SoundMemory s →
    let B := s.sreg s.cur b
    let idx := fun l => ((s.vreg s.cur x.toNat).lane l).toNat * 2 ^ k.toNat
    let store := fun (i : Instr) (sp : Space) (n : Nat) (regs : List Nat) (addr : Nat → Addr) =>
      TeamRuns s (span d n ++ regs) →
      let f := plainForm .store sp .write .none false
      let asks := perLane s n addr (laneBytes s d.toNat n) fun _ => 0
      MayIssue s f asks → IssuesRequest s (exec i s) f asks sw
    let mi := fun (n : Nat) (l : Nat) => B + BitVec.ofInt 64 (16 * im.toInt + l * n)
    let mg := fun (l : Nat) => (B + BitVec.ofNat 64 (idx l) : Addr)
    let sg := fun (l : Nat) => (BitVec.ofNat 64 (B.toNat % 2 ^ 20 + idx l) : Addr)
    let fr := fun (l : Nat) => (BitVec.ofNat 64 (B.toNat % 2 ^ 20 +
      (64 * (l / 128) + l % 64) * (if p = 0#7 then 256 else 16 * p.toNat) + 128 * (l % 128 / 64)) : Addr)
    store (.stvB8 sw d b im) .global 1 [] (mi 1) ∧ store (.stvB16 sw d b im) .global 2 [] (mi 2) ∧
    store (.stvB32 sw d b im) .global 4 [] (mi 4) ∧ store (.stvB64 sw d b im) .global 8 [] (mi 8) ∧
    store (.stgB8 sw k d b x) .global 1 [x.toNat] mg ∧ store (.stgB16 sw k d b x) .global 2 [x.toNat] mg ∧
    store (.stgB32 sw k d b x) .global 4 [x.toNat] mg ∧ store (.stgB64 sw k d b x) .global 8 [x.toNat] mg ∧
    store (.stspB8 sw k d b x) .scratch 1 [x.toNat] sg ∧ store (.stspB16 sw k d b x) .scratch 2 [x.toNat] sg ∧
    store (.stspB32 sw k d b x) .scratch 4 [x.toNat] sg ∧ store (.stspB64 sw k d b x) .scratch 8 [x.toNat] sg ∧
    ((s.team s.cur).width % 128 = 0 → B.toNat % 4 = 0 → (p = 0#7 ∨ 256 ≤ 16 * p.toNat) →
      store (.tstd sw d b 0#2 p) .scratch 128 [] fr)

end Sys2Proof.Claims

/-- Vector loads and stores ask for their active lanes: `VectorLoadsAskForTheirLanes` and
`VectorStoresAskForTheirLanes`. -/
def Obligations.VectorAccessesAskForTheirLanes : Prop :=
  Sys2Proof.Claims.VectorLoadsAskForTheirLanes ∧ Sys2Proof.Claims.VectorStoresAskForTheirLanes

namespace Sys2Proof.Claims

/-- R161 on a team: LDS, STS, SLDSP and SSTSP ask for one value, at base + imm × size. -/
def ScalarAccessesAskForOneValue : Prop :=
  ∀ (s : State) (sw : Bool) (d b : SReg) (im : BitVec 10), SoundMemory s → TeamRuns s [] →
    let B := s.sreg s.cur b
    let ask := fun (i : Instr) (f : MemForm) (n : Nat) (addr : Addr) (data : Nat) =>
      let asks : List Ask := [{ lane := 0, addr := addr, n := n, data := data, data2 := 0 }]
      MayIssue s f asks → IssuesRequest s (exec i s) f asks sw
    let ms := fun (n : Nat) => (B + BitVec.ofNat 64 (im.toNat * n) : Addr)
    let ss := fun (n : Nat) => (BitVec.ofNat 64 (B.toNat % 2 ^ 20 + im.toNat * n) : Addr)
    let lf := fun sp => plainForm .load sp .read (.scalar d.toNat) false
    let sf := fun sp => plainForm .store sp .write .none false
    let v := fun (n : Nat) => (s.sreg s.cur d).toNat % 2 ^ (8 * n)
    ask (.ldsB8 sw d b im) (lf .global) 1 (ms 1) 0 ∧ ask (.ldsB16 sw d b im) (lf .global) 2 (ms 2) 0 ∧
    ask (.ldsB32 sw d b im) (lf .global) 4 (ms 4) 0 ∧ ask (.ldsB64 sw d b im) (lf .global) 8 (ms 8) 0 ∧
    ask (.stsB8 sw d b im) (sf .global) 1 (ms 1) (v 1) ∧ ask (.stsB16 sw d b im) (sf .global) 2 (ms 2) (v 2) ∧
    ask (.stsB32 sw d b im) (sf .global) 4 (ms 4) (v 4) ∧ ask (.stsB64 sw d b im) (sf .global) 8 (ms 8) (v 8) ∧
    ask (.sldspB32 sw d b im) (lf .scratch) 4 (ss 4) 0 ∧ ask (.sldspB64 sw d b im) (lf .scratch) 8 (ss 8) 0 ∧
    ask (.sstspB32 sw d b im) (sf .scratch) 4 (ss 4) (v 4) ∧ ask (.sstspB64 sw d b im) (sf .scratch) 8 (ss 8) (v 8)

/-- What a load of a control-core thread leaves as it was: the other harts and every byte of memory; its own registers, and what
reading lines at their homes leaves behind, may have changed (R377, R397). -/
def ThreadReads (s t : State) : Prop :=
  (∃ cs th l m p ps n, t = { s with ctxs := cs, threads := th, l2 := l, mem := m, poison := p, parts := ps, now := n }) ∧
    (∀ h, h ≠ s.cur → t.ctx h = s.ctx h ∧ t.thread h = s.thread h) ∧ SameMemory s t

/-- R156, R228, R409 on a control-core thread: LDS and STS address HBM4 physically, least significant byte lowest (R9). A
naturally aligned access is performed at once; a misaligned one byte by byte, one in a step, the thread keeping the bytes
performed, and the instruction has executed with the last. A load uses the lines it reads (R397); a poisoned byte raises
MEM_POISON, and an address that names nothing MEM_FAULT with that address. -/
def ThreadsAccessPhysicalMemory : Prop :=
  ∀ (s : State) (sw : Bool) (d b : SReg) (im : BitVec 10), SoundMemory s → ThreadRuns s 0 → (s.ctx s.cur).status = .ready →
    ∀ p ∈ ([(1, .ldsB8 sw d b im, .stsB8 sw d b im), (2, .ldsB16 sw d b im, .stsB16 sw d b im),
            (4, .ldsB32 sw d b im, .stsB32 sw d b im), (8, .ldsB64 sw d b im, .stsB64 sw d b im)] :
            List (Nat × Instr × Instr)),
      let n := p.1
      let a := (s.sreg s.cur b + BitVec.ofNat 64 (im.toNat * n)).toNat
      let place := fun (j : Nat) => (⟨a + j, none⟩ : Loc)
      let th := s.thread s.cur
      let k := th.bytes.length
      let data := fun (j : Nat) => (BitVec.ofNat 8 ((s.sreg s.cur d).toNat / 2 ^ (8 * j)) : Byte)
      let loads := fun (bs : List Byte) =>
        ∃ t, exec p.2.1 s = .next t ∧
          t.sreg s.cur d = BitVec.ofNat 64 (bs.zipIdx.map fun e => e.1.toNat * 2 ^ (8 * e.2)).sum ∧
          SameSregsBut d s t ∧ SameScc s t ∧ Passed s t 1 sw ∧ t.thread s.cur = { th with bytes := [] } ∧ ThreadReads s t
      (a + n ≤ 0x12000000000 → a % n = 0 →
        ((∀ j, j < n → s.homePoison (place j) = false) → loads ((List.range n).map fun j => s.homeByte (place j))) ∧
        ((∃ j, j < n ∧ s.homePoison (place j) = true) → TakesException s (exec p.2.1 s) 0x14 (BitVec.ofNat 64 a)) ∧
        ∃ t, exec p.2.2 s = .next t ∧ StoresBytes s t ((List.range n).map fun j => (place j, data j)) ∧
          SameSregs s t ∧ SameScc s t ∧ Passed s t 1 sw ∧ t.thread s.cur = { th with bytes := [] }) ∧
      (a + n ≤ 0x12000000000 → a % n ≠ 0 → k < n →
        (s.homePoison (place k) = true → TakesException s (exec p.2.1 s) 0x14 (BitVec.ofNat 64 a)) ∧
        (s.homePoison (place k) = false →
          (k + 1 = n → loads (th.bytes ++ [s.homeByte (place k)])) ∧
          (k + 1 < n → ∃ t, exec p.2.1 s = .next t ∧ t.ctx s.cur = s.ctx s.cur ∧
            t.thread s.cur = { th with bytes := th.bytes ++ [s.homeByte (place k)] } ∧ ThreadReads s t)) ∧
        ∃ t, exec p.2.2 s = .next t ∧ StoresBytes s t [(place k, data k)] ∧ SameSregs s t ∧ SameScc s t ∧
          (k + 1 = n → Passed s t 1 sw ∧ t.thread s.cur = { th with bytes := [] }) ∧
          (k + 1 < n → t.ctx s.cur = s.ctx s.cur ∧ t.thread s.cur = { th with bytes := th.bytes ++ [data k] })) ∧
      ∀ j, j < n → (∀ i, i < j → a + i < 0x12000000000) → regionOf (a + j) = .none →
        TakesException s (exec p.2.1 s) 0x0B (BitVec.ofNat 64 (a + j)) ∧
        TakesException s (exec p.2.2 s) 0x0B (BitVec.ofNat 64 (a + j))

end Sys2Proof.Claims

/-- Scalar accesses of teams ask for one value; those of control cores are performed where they stand:
`ScalarAccessesAskForOneValue` and `ThreadsAccessPhysicalMemory`. -/
def Obligations.ScalarAccesses : Prop :=
  Sys2Proof.Claims.ScalarAccessesAskForOneValue ∧ Sys2Proof.Claims.ThreadsAccessPhysicalMemory

/-- R168, R169: ATOM and RED ask for an aligned read-modify-write at the home, ATOMS at the scratchpad, each lane with
its operand and CAS with its second one; ADD wraps, MIN and MAX are signed or unsigned, CAS swaps on equality. -/
def Obligations.AtomicsAskForTheirLanes : Prop :=
  ∀ (s : State) (sw : Bool) (o : Sys2Proof.Ord) (c : Sys2Proof.Scope) (d a : VReg), c ≠ .reserved →
    let acquires := o = .acquire ∨ o = .acqRel
    let releases := decide (o = .release ∨ o = .acqRel)
    let addr := fun l => (((s.vreg s.cur (a.toNat + 1)).lane l) ++ ((s.vreg s.cur a.toNat).lane l) : Addr)
    let spaddr := fun l => (BitVec.ofNat 64 (((s.vreg s.cur a.toNat).lane l).toNat % 2 ^ 20) : Addr)
    let form := fun (op : Aop) => ({ kind := .atom op, space := .global, access := .readWrite, align := true,
                                     dest := .vec d.toNat, sext := false, reach := .home,
                                     acquire := if acquires then some c else none, release := releases,
                                     noDet := true } : MemForm)
    let size := fun (op : Aop) => if op = .addI64 then 8 else 4
    let regs := fun (op : Aop) => if op = .addI64 ∨ op = .cas then [d.toNat, d.toNat + 1] else [d.toNat]
    let asks := fun (op : Aop) addr =>
      perLane s (size op) addr (laneBytes s d.toNat (size op)) fun l => ((s.vreg s.cur (d.toNat + 1)).lane l).toNat
    (∀ p ∈ ([(.addI32, .atomAddI32, .atomsAddI32), (.addF32, .atomAddF32, .atomsAddF32),
             (.minS32, .atomMinS32, .atomsMinS32), (.maxS32, .atomMaxS32, .atomsMaxS32),
             (.minN32, .atomMinN32, .atomsMinN32), (.maxN32, .atomMaxN32, .atomsMaxN32),
             (.and, .atomAnd, .atomsAnd), (.or, .atomOr, .atomsOr),
             (.xor, .atomXor, .atomsXor), (.exch, .atomExch, .atomsExch),
             (.cas, .atomCas, .atomsCas), (.maxi, .atomMaxi, .atomsMaxi),
             (.addF16x2, .atomAddF16x2, .atomsAddF16x2), (.addI64, .atomAddI64, .atomsAddI64)] :
        List (Aop × (Bool → Sys2Proof.Ord → Sys2Proof.Scope → VReg → VReg → Instr) ×
          (Bool → Sys2Proof.Ord → Sys2Proof.Scope → VReg → VReg → Instr))),
      (TeamRuns s (regs p.1 ++ [a.toNat, a.toNat + 1]) → MayIssue s (form p.1) (asks p.1 addr) →
        IssuesRequest s (exec (p.2.1 sw o c d a) s) (form p.1) (asks p.1 addr) sw) ∧
      let f := { form p.1 with space := .scratch, noDet := false }
      (TeamRuns s (regs p.1 ++ [a.toNat]) → c = .team ∨ c = .wg → MayIssue s f (asks p.1 spaddr) →
        IssuesRequest s (exec (p.2.2 sw o c d a) s) f (asks p.1 spaddr) sw)) ∧
    (∀ p ∈ ([(.addI32, .redAddI32), (.addF32, .redAddF32), (.minS32, .redMinS32), (.maxS32, .redMaxS32),
             (.minN32, .redMinN32), (.maxN32, .redMaxN32), (.and, .redAnd), (.or, .redOr),
             (.xor, .redXor), (.maxi, .redMaxi), (.addF16x2, .redAddF16x2), (.addI64, .redAddI64)] :
        List (Aop × (Bool → Sys2Proof.Ord → Sys2Proof.Scope → VReg → VReg → Instr))),
      let f := { form p.1 with kind := .red p.1, dest := .none }
      TeamRuns s (regs p.1 ++ [a.toNat, a.toNat + 1]) → ¬acquires → MayIssue s f (asks p.1 addr) →
        IssuesRequest s (exec (p.2 sw o c d a) s) f (asks p.1 addr) sw) ∧
    ∀ x y z : Word,
      let r := fun (op : Aop) => (BitVec.ofNat 32 (op.apply x.toNat y.toNat z.toNat) : Word)
      r .addI32 = BitVec.ofInt 32 (x.toInt + y.toInt) ∧ (r .minS32).toInt = min x.toInt y.toInt ∧
      (r .maxS32).toInt = max x.toInt y.toInt ∧ (r .minN32).toNat = min x.toNat y.toNat ∧
      (r .maxN32).toNat = max x.toNat y.toNat ∧ r .and = x &&& y ∧ r .or = x ||| y ∧ r .xor = x ^^^ y ∧ r .exch = y ∧
      r .cas = (if x = y then z else x) ∧ (r .addF32).toNat = (Fmt.fp32.add x.toNat y.toNat).bits ∧
      r .maxi = (if viBetter true y.toNat x.toNat = true then y else x)

/-- R171, R172: LDA and STL are aligned accesses with their order and scope; the fences wait for the loads (and, but
for FENCE.ACQ, the stores), then acquire: at CLUSTER or wider the core's L1 is invalidated, at PKG or wider older
guest copies are not used. FENCE.SC acquires at PKG. A control-core thread's fence only moves on. -/
def Obligations.OrderedAccessesAndFences : Prop :=
  ∀ (s : State) (sw : Bool) (o : Sys2Proof.Ord) (c : Sys2Proof.Scope) (d a : VReg), SoundMemory s → c ≠ .reserved →
    let h := s.cur
    let t := s.team h
    let addr := fun l => (((s.vreg h (a.toNat + 1)).lane l) ++ ((s.vreg h a.toNat).lane l) : Addr)
    let narrow := c = .team ∨ c = .wg
    let reach : Reach := if narrow ∨ c = .core then .near else if c = .cluster ∨ c = .die then .die else .home
    (∀ p ∈ ([(2, .ldaB16 sw o c d a, .stlB16 sw o c d a), (4, .ldaB32 sw o c d a, .stlB32 sw o c d a),
             (8, .ldaB64 sw o c d a, .stlB64 sw o c d a)] : List (Nat × Instr × Instr)),
      TeamRuns s (span d p.1 ++ [a.toNat, a.toNat + 1]) →
      let asks := fun data => perLane s p.1 addr data fun _ => 0
      let lf : MemForm := { plainForm .load .global .read (.vec d.toNat) false with
                            align := true, reach := reach, acquire := if o = .acquire then some c else none, noDet := !narrow }
      let sf : MemForm := { plainForm .store .global .write .none false with
                            align := true, release := decide (o = .release), noDet := !narrow }
      (o = .relaxed ∨ o = .acquire → MayIssue s lf (asks fun _ => 0) →
        IssuesRequest s (exec p.2.1 s) lf (asks fun _ => 0) sw) ∧
      (o = .relaxed ∨ o = .release → MayIssue s sf (asks (laneBytes s d.toNat p.1)) →
        IssuesRequest s (exec p.2.2 s) sf (asks (laneBytes s d.toNat p.1)) sw)) ∧
    (HartRuns s → t.loads = 0 ∧ t.stores = 0 → OnlyPasses s (exec (.fenceRel sw c) s) 1 sw) ∧
    (HartRuns s → ∀ p ∈ ([(false, c, .fenceAcq sw c), (true, c, .fenceAr sw c), (true, .pkg, .fenceSc sw c)] :
        List (Bool × Sys2Proof.Scope × Instr)), t.loads = 0 → (p.1 = true → t.stores = 0) →
      ∃ u, exec p.2.2 s = .next u ∧ Passed s u 1 sw ∧ SameSregs s u ∧ SameScc s u ∧ SameVregs s u ∧ SameMemory s u ∧
        SameOthers s u ∧
        ((s.ctx h).kind = .team → p.2.1 ∈ [.cluster, .die, .pkg, .pod] →
          ∀ line, line < 2 ^ 45 → u.l1Line (s.coreOf h) line = none) ∧
        ((s.ctx h).kind = .team → p.2.1 ∈ [.team, .wg, .core] → u.l1 = s.l1) ∧
        ((s.ctx h).kind = .team → TeamIs s u { t with fresh := if p.2.1 ∈ [.pkg, .pod] then s.now else t.fresh }) ∧
        ((s.ctx h).kind = .thread → OnlyPasses s (exec p.2.2 s) 1 sw)) ∧
    (HartRuns s → t.loads ≠ 0 → (∃ u, exec (.fenceAcq sw c) s = .next u ∧ ParkedAt s u (.counts .switchMarker false false)) ∧
      (∃ u, exec (.fenceRel sw c) s = .next u ∧ ParkedAt s u (.counts .switchMarker true false)) ∧
      (∃ u, exec (.fenceAr sw c) s = .next u ∧ ParkedAt s u (.counts .switchMarker true false)) ∧
      ∃ u, exec (.fenceSc sw c) s = .next u ∧ ParkedAt s u (.counts .switchMarker true false))

namespace Sys2Proof.Claims

/-- R173: LCPY adds one copy per active lane to the open batch: destination v[D] mod 2^20 in the scratchpad, source
s[B] + v[A], min(v[A+1], n) bytes of it read, and moves on once its translations are there (R395); it parks while the open slot
holds a sealed, unfinished batch. -/
def LaneCopiesJoinTheOpenBatch : Prop :=
  ∀ (s : State) (sw : Bool) (d v : VReg) (b : SReg), TeamRuns s [d.toNat, v.toNat, v.toNat + 1] →
    let h := s.cur
    let t := s.team h
    let dst := fun i => ((s.vreg h d.toNat).lane i).toNat % 2 ^ 20
    let src := fun i => s.sreg h b + BitVec.ofNat 64 ((s.vreg h v.toNat).lane i).toNat
    ∀ p ∈ ([(4, .lcpy4 sw d b v), (8, .lcpy8 sw d b v), (16, .lcpy16 sw d b v), (32, .lcpy32 sw d b v)] :
        List (Nat × Instr)),
      let n := p.1
      let cnt := fun i => min ((s.vreg h (v.toNat + 1)).lane i).toNat n
      (s.sealed h t.openSlot = true → ∃ u, exec p.2 s = .next u ∧ ParkedAt s u .batch) ∧
      (s.sealed h t.openSlot = false → t.batch t.openSlot + t.lanes.length ≤ 65535 →
        s.unwalked h (t.lanes.flatMap fun i => vpagesOf (src i) (cnt i)) = [] →
        (∀ i ∈ t.lanes, dst i % n = 0 ∧ dst i + n ≤ s.spSize h ∧
          (∀ j, j < n → (dst i + j) / 4096 ∉ (s.wgOf h).engPages) ∧
          ∃ bs, s.checkAsk h .global .read (src i) (cnt i) = .ok bs) →
        ∃ u cs, exec p.2 s = .next u ∧ TeamIs s u { t with copies := t.copies ++ cs } ∧
          u.nextId = s.nextId + t.lanes.length ∧
          cs.map (fun x => (x.id, x.slot, x.lane, x.dst, x.n)) =
            t.lanes.zipIdx.map (fun q => (s.nextId + q.2, t.openSlot, q.1, dst q.1, n)) ∧
          cs.map (fun x => some x.src) =
            t.lanes.map (fun i => (s.checkAsk h .global .read (src i) (cnt i)).toOption) ∧
          Passed s u 1 sw ∧ SameSregs s u ∧ SameScc s u ∧ SameVregs s u ∧ SameMemory s u ∧ SameOthers s u)

/-- R175: WAITV moves on if the 64-bit value at its address meets the condition, with an acquire at PKG scope for
global memory, and parks otherwise; the read uses the line at its home (R377). A team that may not read yet, because
an earlier access of its own to the bytes is not performed (R163) or its die has read a write to them that is still on
its way (R299), parks without reading. Bit 63 of the address names the scratchpad, for a team. -/
def WaitvParksUntilItsConditionHolds : Prop :=
  ∀ (s : State) (sw : Bool) (a v : SReg),
    let h := s.cur
    let A := s.sreg h a
    let y := s.sreg h v
    ∀ p ∈ ([(.eq, .waitvEq sw a v), (.ne, .waitvNe sw a v), (.ge, .waitvGe sw a v), (.lt, .waitvLt sw a v)] :
        List (WaitCond × Instr)),
      let meets := fun (x : DWord) => match p.1 with
        | .eq => decide (x = y) | .ne => decide (x ≠ y) | .ge => decide (y.toNat ≤ x.toNat) | .lt => decide (x.toNat < y.toNat)
      let word := fun (bs : List Byte) => (BitVec.ofNat 64 (bs.zipIdx.map fun e => e.1.toNat * 2 ^ (8 * e.2)).sum : DWord)
      let waits := fun (sc : Bool) (va : Addr) (pl : List Loc) (x : DWord) =>
        ∃ u, exec p.2 s = .next u ∧ SameSregs s u ∧ SameScc s u ∧ SameVregs s u ∧ SameMemory s u ∧ SameOthers s u ∧
          (meets x = true → Passed s u 1 sw ∧ (sc = false → (s.ctx h).kind = .team →
            (∀ line, line < 2 ^ 45 → u.l1Line (s.coreOf h) line = none) ∧
            ∃ n, s.now ≤ n ∧ TeamIs s u { s.team h with fresh := n })) ∧
          (meets x = false → u.ctx h = { s.ctx h with status := .parked (.value sc va pl p.1 y sw) } ∧ u.team h = s.team h)
      let here := (s.wgOf h).saved = none
      (ThreadRuns s 0 → (s.ctx h).status = .ready → A.toNat % 8 = 0 → A.toNat < 0x12000000000 → SoundMemory s →
        waits false A ((List.range 8).map fun j => s.physLoc 0 (A.toNat + j))
          (word ((List.range 8).map fun j => s.homeByte ⟨A.toNat + j, none⟩))) ∧
      (TeamRuns s [] → (s.ctx h).status = .ready → SoundMemory s →
        let o := A.toNat % 2 ^ 20
        (A.getLsbD 63 = true → o % 8 = 0 → A.toNat = 2 ^ 63 + o → o + 8 ≤ s.spSize h →
          o / 4096 ∉ (s.wgOf h).engPages → here →
          let pl : List Loc := (List.range 8).map fun j => ⟨o + j, none⟩
          ((s.team h).before s.nextId .scratch pl = [] → waits true (BitVec.ofNat 64 o) pl
            (word ((List.range 8).map fun j => s.spByte (s.team h).wg (o + j)))) ∧
          ((s.team h).before s.nextId .scratch pl ≠ [] →
            ∃ u, exec p.2 s = .next u ∧ ParkedAt s u (.value true (BitVec.ofNat 64 o) pl p.1 y sw))) ∧
        (A.getLsbD 63 = false → s.det h = false → A.toNat % 8 = 0 → here → s.unwalked h (vpagesOf A 8) = [] →
          ∀ bs, s.checkAsk h .global .read A 8 = .ok bs →
            let free := (s.team h).before s.nextId .global bs = [] ∧ s.seenBlocks (dieOfCore (s.coreOf h)) bs = false
            (free → waits false A bs (word (bs.map s.homeByte))) ∧
            (¬free → ∃ u, exec p.2 s = .next u ∧ ParkedAt s u (.value false A bs p.1 y sw))) ∧
        (A.getLsbD 63 = false → s.det h = true → TrapsTeam s (exec p.2 s) .detViolation 0#1024))

end Sys2Proof.Claims

/-- Lane copies join the open batch; WAITV parks until its condition holds: `LaneCopiesJoinTheOpenBatch` and
`WaitvParksUntilItsConditionHolds`. -/
def Obligations.LaneCopiesAndWaitv : Prop :=
  Sys2Proof.Claims.LaneCopiesJoinTheOpenBatch ∧ Sys2Proof.Claims.WaitvParksUntilItsConditionHolds

/-- R176: PREF never traps: an unmapped line is passed over. PREF.L2 and PREF.L1 ask for the line, PREF.GINV drops the
die's guest copy of it, PREF.WB leaves its home line clean and HBM4 as new as it. No byte of memory changes its value. A walk
that finding the line takes reads its tables' lines (R395, R397). That PREF acts on a mapped page whatever its permissions, and
that it waits for no walk, are the model's choices (logs 61 and 60).
-/
def Obligations.PrefetchesChangeNoByte : Prop :=
  ∀ (s : State) (sw : Bool) (b : SReg) (im : BitVec 10), SoundMemory s → HartRuns s →
    let h := s.cur
    let w := s.locate h (s.sreg h b + BitVec.ofNat 64 (im.toNat * 128))
    (∀ i ∈ ([.prefL2 sw b im, .prefL1 sw b im, .prefGinv sw b im, .prefWb sw b im] : List Instr),
      (w = none → ∀ t, exec i s = .next t → OnlyReads s t) ∧
      ∃ t, exec i s = .next t ∧ Passed s t 1 sw ∧ SameSregs s t ∧ SameScc s t ∧ SameVregs s t ∧ SameTeam s t ∧
        SameMemory s t ∧ SameOthers s t) ∧
    ∀ l, w = some l → ∀ t,
      ((s.ctx h).kind = .team →
        (exec (.prefL2 sw b im) s = .next t ∨ exec (.prefL1 sw b im) s = .next t →
          ∃ f ∈ t.fills, f.line = l.pa / 128 ∧ f.pin = l.pin) ∧
        (exec (.prefGinv sw b im) s = .next t →
          (s.l2.filter fun e => e.2.line == l.pa / 128 && e.2.guest && sliceOfKey e.1 / 48 == dieOfCore (s.coreOf h)).length ≤ 1 →
          t.guestLine (dieOfCore (s.coreOf h)) (l.pa / 128) = none)) ∧
      (exec (.prefWb sw b im) s = .next t →
        (∀ e, t.homeLine (l.pa / 128) = some e → e.2.dirty = false) ∧
        ∀ j, j < 128 → t.hbm (l.pa / 128 * 128 + j) = s.homeByte ⟨l.pa / 128 * 128 + j, l.pin⟩)

/-- R157, R158: the order of the checks. A form that deterministic mode forbids traps DET_VIOLATION; a misaligned lane
of an aligned form traps ALIGN, before any address is looked up, and nothing is performed; a lane whose address fails
traps MEM_FAULT, or PERM where only permissions fail, with the lowest such lane's address, while the other lanes'
request is issued. Before the addresses are checked the instruction waits, at issue, for the walks of the pages that no
translation cache holds, as many as the 4,096 misses that its die tracks have room for (R157, R395). -/
def Obligations.MemoryChecksTrapInTheirOrder : Prop :=
  ∀ (s : State) (sw : Bool) (c : Sys2Proof.Scope) (d a x : VReg) (b : SReg) (k : BitVec 2),
    let h := s.cur
    let t := s.team h
    let addr := fun l => (((s.vreg h (a.toNat + 1)).lane l) ++ ((s.vreg h a.toNat).lane l) : Addr)
    let gaddr := fun l => s.sreg h b + BitVec.ofNat 64 (((s.vreg h x.toNat).lane l).toNat * 2 ^ k.toNat)
    let odd := t.lanes.filter fun l => (addr l).toNat % 4 != 0
    (TeamRuns s [d.toNat, a.toNat, a.toNat + 1] → c ∈ [.core, .cluster, .die, .pkg, .pod] → s.det h = true →
      ∀ i ∈ ([.ldaB32 sw .relaxed c d a, .stlB32 sw .relaxed c d a, .atomAddI32 sw .relaxed c d a,
              .redAddI32 sw .relaxed c d a] : List Instr), TrapsTeam s (exec i s) .detViolation 0#1024) ∧
    (TeamRuns s [d.toNat, a.toNat, a.toNat + 1] → c ≠ .reserved → s.det h = false → odd ≠ [] →
      ∀ i ∈ ([.ldaB32 sw .relaxed c d a, .stlB32 sw .relaxed c d a, .atomAddI32 sw .relaxed c d a,
              .redAddI32 sw .relaxed c d a] : List Instr), TrapsTeam s (exec i s) .align (maskOf odd)) ∧
    (TeamRuns s [d.toNat, x.toNat] →
      let walks := s.unwalked h (t.lanes.flatMap fun l => vpagesOf (gaddr l) 4)
      walks ≠ [] → ∃ u ts, exec (.ldgB32 sw k d b x) s = .next u ∧ u = { s with teams := ts, nextId := s.nextId + 1 } ∧
        (∀ h', h' ≠ h → u.team h' = s.team h') ∧
        u.team h = { t with stalled := some (.walks (walks.take (4096 - (s.misses (dieOfCore (s.coreOf h))).length)) s.nextId) }) ∧
    (TeamRuns s [d.toNat, x.toNat] → t.loads < 63 → s.unwalked h (t.lanes.flatMap fun l => vpagesOf (gaddr l) 4) = [] →
      let chk := fun l => s.checkAsk h .global .read (gaddr l) 4
      let bad := t.lanes.filterMap fun l => match chk l with
        | .error e => some (l, e)
        | .ok _ => none
      ∀ e0, bad.head? = some e0 →
        ∃ u r, exec (.ldgB32 sw k d b x) s = .next u ∧ u.ctx h = { s.ctx h with status := .trapped } ∧
          (u.team h).trap = some r ∧ r.lanes = maskOf (bad.map (·.1)) ∧ r.addr = e0.2.2 ∧
          r.code = (if (∃ e ∈ bad, e.2.1 = .fault) then .memFault else .perm) ∧
          (u.team h).reqs.length ≤ t.reqs.length + 1 ∧
          ((∃ l ∈ t.lanes, l ∉ bad.map (·.1)) → ∃ q, (u.team h).reqs = t.reqs ++ [q] ∧
            q.todo.map (·.lane) = t.lanes.filter fun l => l ∉ bad.map (·.1)))

namespace Sys2Proof.Claims

/-- An instruction of the FOAL class has created one foal (R199, R251-R257), in state `r`, the team's own scratchpad
accesses performed: the foal stands in a slot of the core's table with what the instruction gives it, s[TOK] holds its
token, its pages are the engine's. No byte of global memory has changed and of the scratchpad those that `sp` gives;
what falls due by it (`sweep`) and `fin` follow. Every scalar that FX names was read before s[TOK] was written. -/
def CreatesFoal (r : State) (o : Out) (fx : Fx) (kind : FoalKind) (regdest : Bool) (pages : List Nat) (sp : Nat → Option Byte)
    (fin : State → State) (sw : Bool) (p : Job → Prop) : Prop :=
  ∃ (u : State) (k : Nat) (f : Foal),
    let h := r.cur
    let g := (r.team h).wg
    o = .next (fin ((State.sweep u).done h 2 sw)) ∧ k / 256 = r.coreOf h ∧ u.foalAt k = some f ∧
    u.sreg h fx.tok = BitVec.ofNat 64 (k % 256 + 2 ^ 8 * f.gen.toNat + 2 ^ 20 * kind.code) ∧
    SameSregsBut fx.tok r u ∧ SameScc r u ∧ SameVregs r u ∧
    (f.kind, f.status, f.team, f.wg, f.regdest, f.detached) = (kind, .running, h, g, regdest, fx.detach) ∧
    (f.chain, f.prio, f.progress, f.depv) = (fx.chain.toNat, r.foalPrio h fx.prio.toNat, 0, fx.depv) ∧
    (fx.detach = false → f.level = .attached ∧ f.canreq = false) ∧
    ((∃ n, n < 256 ∧ r.foalAt (foalKey (r.coreOf h) n) = none) →
      f.preds = (((r.foalsOf h).filter fun e =>
        e.2.live && e.2.kind == kind && e.2.chain == fx.chain.toNat).map fun e => e.2.id) ∧
      f.dep = if fx.depv = true then (match r.resolve h (r.sreg h fx.dep) with
        | some (_, x) => if x.status = .done then none else some x.id
        | none => none) else none) ∧
    (∀ j, j ≠ k → u.foalAt j = r.foalAt j) ∧ p f.job ∧
    (∀ x, x ∈ (u.wg g).engPages ↔ x ∈ (r.wg g).engPages ∨ x ∈ pages) ∧
    (∀ l, u.homeByte l = r.homeByte l) ∧
    ∀ g' x, x < 2 ^ 20 → u.spByte g' x = if g' = g then (sp x).getD (r.spByte g' x) else r.spByte g' x

/-- R183: MMA, its checks passed, creates a MATRIX foal that holds D to D + 31 and has read A, B, AUX and its scales.
-/
def MmaCreatesAFoal : Prop :=
  ∀ (s : State) (sw : Bool) (d a b : VReg) (fx : Fx) (form : MmaForm), (s.ctx s.cur).kind = .team →
    (s.ctx s.cur).status = .ready → d.toNat + 32 ≤ (s.team s.cur).vregs → a.toNat + 8 ≤ (s.team s.cur).vregs →
    let r := s.settle s.cur
    let h := s.cur
    let t := r.team h
    let v := r.sreg h fx.desc
    let nb := (if form = .sp then 2 else 1) * bRegs v
    let nx := if form = .sp then auxRegs v else 0
    let k := mmaK form v
    let rows := t.width / 128 * 64
    let rs := scaleRegs v rows rows k
    let group := fun (x : VReg) (n : Nat) => (List.range n).map fun i => r.vreg h (x.toNat + i)
    fx.detach = false → (∀ i, i < 1024 → t.exec.getLsbD i = decide (i < t.width)) → t.width % 128 = 0 →
    fmtOk (form == .sp) v = true → d.toNat + 32 ≤ t.vregs → b.toNat + nb ≤ t.vregs → fx.aux.toNat + nx ≤ max t.vregs fx.aux.toNat →
    (d.toNat + 32 ≤ a.toNat ∨ a.toNat + 8 ≤ d.toNat) → (d.toNat + 32 ≤ b.toNat ∨ b.toNat + nb ≤ d.toNat) →
    (nx = 0 ∨ d.toNat + 32 ≤ fx.aux.toNat ∨ fx.aux.toNat + nx ≤ d.toNat) → scaleTrap v (r.spSize h) rs = none →
    (∀ x, (d.toNat ≤ x ∧ x < d.toNat + 32) ∨ (a.toNat ≤ x ∧ x < a.toNat + 8) ∨ (b.toNat ≤ x ∧ x < b.toNat + nb) ∨
      (fx.aux.toNat ≤ x ∧ x < fx.aux.toNat + nx) → r.isHeld h x = false) →
    (∀ x ∈ regsPages rs, x ∉ (r.wgOf h).engPages) → r.foalRoom h .matrix = true →
    CreatesFoal r (exec (match form with | .dense => .mmaDense sw d a b fx | .sp => .mmaSp sw d a b fx | .z => .mmaZ sw d a b fx) s)
      fx .matrix true [] (fun _ => none) id sw fun j => ∃ m, j = .mma m ∧
        (m.form, m.fmt, m.d, m.blocks, m.next) = (form, v, d.toNat, t.width / 128, 0) ∧
        (m.a, m.b, m.aux) = (group a 8, group b nb, group fx.aux nx) ∧
        (v.getLsbD 16 = true → m.sca = r.spRead t.wg (scaAddr v) (2 * rows * nBlocks k (blkA v))) ∧
        (v.getLsbD 17 = true → m.scb = r.spRead t.wg (scbAddr v) (2 * rows * nBlocks k (blkB v)))

/-- R192: TMMA, its checks passed, creates a MATRIX foal over the record at s[B], writes the format block into FMTCOPY
and gives the pages of the record, A, B, C and the scales to the engine; the row and column masks are those selected.
-/
def TmmaCreatesAFoal : Prop :=
  ∀ (s : State) (sw : Bool) (rc : SReg) (m n : BitVec 2) (fx : Fx) (zero : Bool), TeamRuns s [] →
    (s.ctx s.cur).status = .ready →
    let r := s.settle s.cur
    let h := s.cur
    let t := r.team h
    let v := r.sreg h fx.desc
    let o := (r.sreg h rc).toNat % 2 ^ 20
    let x := r.tileRec t.wg o
    let scs := scaleRegs v x.m x.n (x.kpad v)
    let others := regsPages ([x.regA v, x.regB v, (o, 64)] ++ scs)
    (∀ i, i < 1024 → t.exec.getLsbD i = decide (i < t.width)) → o % 64 = 0 → o + 64 ≤ r.spSize h →
    o / 4096 ∉ (r.wgOf h).engPages → x.ok v = true → (∀ i, i < 38 → r.spByte t.wg (o + 0x1A + i) = 0#8) →
    (∀ p ∈ regPages x.regC, p ∉ others) →
    (∀ a ∈ [x.aaddr, x.baddr, x.caddr, x.apitch, x.bpitch, x.cpitch], a % 4 = 0) →
    scaleTrap v (r.spSize h) ([x.regA v, x.regB v, x.regC] ++ scs) = none → r.foalRoom h .matrix = true →
    CreatesFoal r (exec (if zero then .tmmaZ sw rc m n fx else .tmmaAcc sw rc m n fx) s) fx .matrix false
      (regPages x.regC ++ others)
      (fun i => if o + 0x20 ≤ i ∧ i < o + 0x28 then some (v.extractLsb' (8 * (i - (o + 0x20))) 8) else none) id sw
      fun j => j = .tmma { rcdAddr := o, tile := x, zero := zero, fmt := v, mm := (t.lmk m.toNat).setWidth 256,
                           mn := (t.lmk (4 + n.toNat)).setWidth 256, next := 0, frozen := false }

end Sys2Proof.Claims

/-- MMA and TMMA create a matrix foal: `MmaCreatesAFoal` and `TmmaCreatesAFoal`. -/
def Obligations.MatrixInstructionsCreateFoals : Prop :=
  Sys2Proof.Claims.MmaCreatesAFoal ∧ Sys2Proof.Claims.TmmaCreatesAFoal

namespace Sys2Proof.Claims

/-- R199, R202, R214: CPY and CPL, their checks passed, create a COPY foal from the record at s[R]; its scratchpad
footprint goes to the engine, and CPL sets ACTIVE in its ring. -/
def CopiesCreateAFoal : Prop :=
  ∀ (s : State) (sw : Bool) (rc b : SReg) (fx : Fx), TeamRuns s [] → (s.ctx s.cur).status = .ready →
    let r := s.settle s.cur
    let h := s.cur
    let t := r.team h
    let o := (r.sreg h rc).toNat % 2 ^ 20
    let q := (r.sreg h b).toNat % 2 ^ 20
    let x := r.streamRec t.wg o
    let size := r.spSize h
    (∀ p ∈ ([(.gs, .cpyGs sw rc b fx), (.sg, .cpySg sw rc b fx), (.gg, .cpyGg sw rc b fx), (.ss, .cpySs sw rc b fx)] :
        List (CopyForm × Instr)),
      let tb : Option Nat := if b = 63#6 then none else some q
      r.recordChecks h true o 64 (if b = 63#6 ∨ p.1 = .ss then [] else [q / 4096]) = none →
      x.ok p.1 (r.spNat t.wg (o + 0x0C) 4) = true → (b = 63#6 ∨ q % 16 = 0) → (b = 63#6 ∨ p.1 = .ss ∨ q + 16 ≤ size) →
      (∀ y ∈ x.footprint p.1, footFault size y = none) → r.foalRoom h .copy = true →
      CreatesFoal r (exec p.2 s) fx .copy false (regsPages ((x.footprint p.1).map fun y => (y.1.toNat, y.2))) (fun _ => none)
        id sw fun j => ∃ c, j = .copy c ∧ (c.form, c.rcd, c.iters, c.tb, c.ring) = (p.1, x, 1, tb, none) ∧
          (c.iter, c.next, c.restart, c.out, c.ahead, c.bad) = (0, 0, 0, [], [], none)) ∧
    ∀ p ∈ ([(.fill, .cplFill sw rc b fx), (.drain, .cplDrain sw rc b fx)] : List (CopyForm × Instr)),
      let d := r.ring t.wg q
      r.recordChecks h true o 80 [q / 4096] = none →
      x.ok p.1 (r.spNat t.wg (o + 0x0C) 4 + r.spNat t.wg (o + 0x44) 4) = true → r.spNat t.wg (o + 0x40) 4 ≠ 0 →
      q % 64 = 0 → q + 64 ≤ size → d.broken q = false → x.total ≤ d.size → d.mode % 2 = (if p.1 = .drain then 1 else 0) →
      d.active = false → regFault size (d.base, d.slots * d.size) = none → r.foalRoom h .copy = true →
      CreatesFoal r (exec p.2 s) fx .copy false (regPages (d.base, d.slots * d.size))
        (fun i => if i = q + 0x0E then some (r.spByte t.wg (q + 0x0E) ||| 0x80#8) else none) id sw
        fun j => ∃ c, j = .copy c ∧ (c.form, c.rcd, c.iters, c.tb, c.ring) = (p.1, x, r.spNat t.wg (o + 0x40) 4, none, some q) ∧
          c.step = BitVec.ofNat 64 (r.spNat t.wg (o + 0x48) 8) ∧ (c.iter, c.inIter, c.out) = (0, false, [])

/-- R217-R219: COLL, its checks passed, creates a COLL foal for the group of the record, with the group's generation
and members as its table gives them, using the lines read (R397); packets that arrived before it are then delivered. -/
def CollectivesCreateAFoal : Prop :=
  ∀ (s : State) (sw : Bool) (rc b : SReg) (fx : Fx), TeamRuns s [] → (s.ctx s.cur).status = .ready → SoundMemory s →
    let r := s.settle s.cur
    let h := s.cur
    let t := r.team h
    let w := (r.wgOf h).launch
    let o := (r.sreg h rc).toNat % 2 ^ 20
    let q := (r.sreg h b).toNat % 2 ^ 20
    let n := fun (i k : Nat) => r.spNat t.wg (o + i) k
    let inc := (r.core (r.coreOf h)).inc
    ∀ p ∈ ([(.ar, .collAr sw rc b fx), (.ag, .collAg sw rc b fx), (.rs, .collRs sw rc b fx), (.bc, .collBc sw rc b fx)] :
        List (CollForm × Instr)),
      ∀ gen ms eng, r.recordChecks h false o 64 (if b = 63#6 then [] else [q / 4096]) = none →
      collRecordOk p.1 (r.spRead t.wg o 64) = true → r.findGroup w.part (n 0 4) = some (gen, ms) →
      (r.part w.part).engineFor (r.coreOf h) = some eng → (r.part w.part).ports ≠ 0#24 →
      (b = 63#6 ∨ (q % 16 = 0 ∧ q + 16 ≤ r.spSize h)) → r.foalRoom h .coll = true →
      CreatesFoal r (exec p.2 s) fx .coll false [] (fun _ => none) (fun u => u.penDeliver w.part w.job inc) sw
        fun j => ∃ c, j = .coll c ∧ (c.form, c.op, c.ty, c.comp) = (p.1, n 4 1, n 5 1, n 6 1) ∧
          (c.group, c.gen, c.members, c.r) = (BitVec.ofNat 32 (n 0 4), gen, ms, ms.idxOf r.pkg) ∧
          (c.send, c.recv, c.count) = (BitVec.ofNat 64 (n 8 8), BitVec.ofNat 64 (n 0x10 8), n 0x18 8) ∧
          c.tb = (if b = 63#6 then none else some q) ∧ (c.nextSend, c.acked, c.recvd) = (0, 0, 0)

end Sys2Proof.Claims

/-- CPY, CPL and COLL create a foal from their record: `CopiesCreateAFoal` and `CollectivesCreateAFoal`. -/
def Obligations.CopiesAndCollectivesCreateFoals : Prop :=
  Sys2Proof.Claims.CopiesCreateAFoal ∧ Sys2Proof.Claims.CollectivesCreateAFoal

namespace Sys2Proof.Claims

/-- R216, R221, R264: LCSEAL opens the next slot and answers a token for the batch it seals, whose PROGRESS is what has
landed of it. FWAIT and FWAIT.T park while
the foal is RUNNING and then answer its status, 4 for a stale token, FWAIT.T trapping FOAL_FAULT with the token after
a FAULT; FTEST answers it at once and sets scc unless it is RUNNING; FWAITALL counts the attached foals that ended in
FAULT. -/
def FoalsAreWaitedFor : Prop :=
  ∀ (s : State) (sw : Bool) (d b : SReg), TeamRuns s [] →
    let h := s.cur
    let t := s.team h
    let tok := s.sreg h b
    let named := s.resolve h tok
    let code := match named with
      | none => 4
      | some (_, f) => f.status.code
    let ended := ∀ e, named = some e → e.2.live = false
    let told := fun (u : State) => ∀ k, u.foalAt k = match named with
      | some (j, f) => if k = j ∧ f.status = .fault then some { f with told := true } else s.foalAt k
      | none => s.foalAt k
    let kept := fun (u : State) => SameSregsBut d s u ∧ SameVregs s u ∧ SameMemory s u ∧ SameOthers s u
    let watched := { t with wdleft := 2 ^ (s.wgOf h).launch.wdlim }
    (∀ k f, named = some (k, f) → f.live = true →
      ∀ i ∈ ([.fwait sw d b, .fwaitT sw d b] : List Instr),
        ∃ u, exec i s = .next u ∧ ParkedAt s u (.foal (k % 256) f.gen.toNat)) ∧
    (ended →
      (∃ u, exec (.fwait sw d b) s = .next u ∧ u.sreg h d = BitVec.ofNat 64 code ∧ kept u ∧ SameScc s u ∧ told u ∧
        TeamIs s u watched ∧ Passed s u 1 sw) ∧
      (code ≠ 2 → ∃ u, exec (.fwaitT sw d b) s = .next u ∧ u.sreg h d = BitVec.ofNat 64 code ∧ kept u ∧ SameScc s u ∧
        told u ∧ TeamIs s u watched ∧ Passed s u 1 sw) ∧
      (code = 2 → ∃ u r, exec (.fwaitT sw d b) s = .next u ∧ u.sreg h d = 2#64 ∧ kept u ∧ told u ∧
        (u.ctx h).status = .trapped ∧ (u.ctx h).pc = (s.ctx h).pc ∧ (u.ctx h).widx = (s.ctx h).widx ∧
        (u.team h).trap = some r ∧ r.code = .foalFault ∧ r.addr = tok)) ∧
    ((s.det h = false ∨ ended) →
      ∃ u, exec (.ftest sw d b) s = .next u ∧ u.sreg h d = BitVec.ofNat 64 (if code = 5 then 0 else code) ∧ kept u ∧
        (u.ctx h).scc = decide (code ≠ 0 ∧ code ≠ 5) ∧ told u ∧ TeamIs s u t ∧ Passed s u 1 sw) ∧
    ((∃ e ∈ s.attachedOf h, e.2.live = true) → ∃ u, exec (.fwaitall sw d) s = .next u ∧ ParkedAt s u .allFoals) ∧
    ((∀ e ∈ s.attachedOf h, e.2.live = false) →
      ∃ u, exec (.fwaitall sw d) s = .next u ∧ kept u ∧ SameScc s u ∧ TeamIs s u watched ∧ Passed s u 1 sw ∧
        u.sreg h d = BitVec.ofNat 64 ((s.attachedOf h).filter fun e => e.2.status == .fault).length) ∧
    (s.sealedOpen h = false → s.foalRoom h .lanebatch = true →
      ∃ (u : State) (k : Nat) (f : Foal),
        exec (.lcseal sw d) s = .next ((u.batchEnd h t.openSlot).done h 1 sw) ∧ u.foalAt k = some f ∧ k / 256 = s.coreOf h ∧ (f.kind, f.status, f.team, f.job) = (.lanebatch, .running, h, .batch t.openSlot) ∧
        f.progress = (Store.get BatchSlot.blank t.slots t.openSlot).landed ∧
        u.sreg h d = BitVec.ofNat 64 (k % 256 + 2 ^ 8 * f.gen.toNat + 2 ^ 20 * 2) ∧ SameSregsBut d s u ∧
        u.team h = { t with openSlot := (t.openSlot + 1) % 4 }) ∧
    (s.sealedOpen h = true → ∃ u, exec (.lcseal sw d) s = .next u ∧ ParkedAt s u .batch)

/-- R222: FCANCEL asks a live foal to stop, which its record shows (R265) and a LANEBATCH does not; FDETACH hands it up, and traps DETACH_REG where its
destination is registers; FPRIO sets its priority, bounded by PRIOCEIL; FSTAT reads a word of its record, 0 for a
stale token. On a stale token, and FCANCEL and FPRIO on an ended foal, nothing else happens. -/
def FoalsAreControlled : Prop :=
  ∀ (s : State) (sw : Bool) (d b : SReg) (a : Src), TeamRuns s [] → Src.scalOk a = true →
    let h := s.cur
    let tok := s.sreg h b
    let n := (Src.scalar s h a).toNat
    let put := fun k f => ({ s with foals := Store.put k f s.foals } : State)
    (s.resolve h tok = none →
      OnlyPasses s (exec (.fcancel sw b) s) 1 sw ∧ OnlyPasses s (exec (.fdetach sw b) s) 1 sw ∧
      (n < 8 → OnlyPasses s (exec (.fprio sw b a) s) (Src.len a) sw) ∧
      (n < 16 → WritesSreg s (exec (.fstat sw d b a) s) d 0#64 (Src.len a) sw)) ∧
    (∀ k f, s.resolve h tok = some (k, f) →
      exec (.fcancel sw b) s =
        .next (State.done (State.sweep (if f.live = true then put k { f with canreq := true } else s))
          h 1 sw) ∧
      (f.live = true → f.regdest = true → TrapsTeam s (exec (.fdetach sw b) s) .detachReg 0#1024) ∧
      (f.live = true → f.regdest = false → f.detached = false →
        ∃ u x, exec (.fdetach sw b) s = .next ((State.sweep u).done h 1 sw) ∧ u.foalAt k = some x ∧ x.detached = true ∧
          (f.hasScratch = true ∨ ((s.entity (s.wgOf h).entity).cancelled = false ∧ s.liveTeams (s.wgOf h) ≠ []) →
            x.level = .workgroup) ∧
          x.job = f.job ∧ x.status = f.status ∧ ∀ j, j ≠ k → u.foalAt j = s.foalAt j) ∧
      (f.live = true → f.regdest = false → f.detached = true → OnlyPasses s (exec (.fdetach sw b) s) 1 sw) ∧
      (f.live = false → f.status ≠ .fault ∨ f.told = true → OnlyPasses s (exec (.fdetach sw b) s) 1 sw) ∧
      (n < 8 → exec (.fprio sw b a) s =
        .next (State.done (if f.live = true then put k { f with prio := if n = 0 then (s.team h).prio
                                                                       else min n (s.wgOf h).launch.ceil } else s)
          h (Src.len a) sw)) ∧
      (n < 16 → s.det h = false ∨ f.live = false →
        WritesSreg s (exec (.fstat sw d b a) s) d
          (BitVec.ofNat 64 (leNat (((f.record (k % 256)).drop (8 * n)).take 8))) (Src.len a) sw)) ∧
    (8 ≤ n → TrapsTeam s (exec (.fprio sw b a) s) .illegalOperand 0#1024) ∧
    (16 ≤ n → TrapsTeam s (exec (.fstat sw d b a) s) .illegalOperand 0#1024)

end Sys2Proof.Claims

/-- Foals are sealed, waited for, tested, cancelled, detached, prioritised and read: `FoalsAreWaitedFor` and
`FoalsAreControlled`. -/
def Obligations.FoalsAreWaitedForAndControlled : Prop :=
  Sys2Proof.Claims.FoalsAreWaitedFor ∧ Sys2Proof.Claims.FoalsAreControlled

/-- R223, R279: PWRH.D declares intensity, onset and a length of 2^L µs, in place of the declaration before; PWRH.X
lengthens a pending one at once, unless it passes 65,535 µs, and asks the next evaluation otherwise; PWRH.E withdraws
it; PWRH.Q sets scc for a granted or active one. -/
def Obligations.PowerIsDeclared : Prop :=
  ∀ (s : State) (sw : Bool) (im o l : BitVec 4), TeamRuns s [] →
    let t := s.team s.cur
    let us := 2 ^ l.toNat
    WritesTeam s (exec (.pwrhD sw im o l) s)
      { t with xref := false
               power := some { state := 1, intensity := im.toNat, t0 := s.time, onset := o.toNat, start := 0#64, len := us,
                               wait := 0, ext := none, doomed := false, kept := false } } 1 sw ∧
    WritesTeam s (exec (.pwrhE sw) s) { t with power := none } 1 sw ∧
    (t.power = none → WritesTeam s (exec (.pwrhX sw l) s) { t with xref := false } 1 sw ∧
      WritesScc s (exec (.pwrhQ sw) s) false 1 sw) ∧
    ∀ p, t.power = some p →
      (p.state = 1 → p.len + us ≤ 65535 →
        WritesTeam s (exec (.pwrhX sw l) s) { t with power := some { p with len := p.len + us }, xref := false } 1 sw) ∧
      (p.state = 1 → 65535 < p.len + us → WritesTeam s (exec (.pwrhX sw l) s) { t with xref := true } 1 sw) ∧
      (p.state ≠ 1 → ∃ x, WritesTeam s (exec (.pwrhX sw l) s) x 1 sw ∧ x = { t with power := x.power, xref := false } ∧
        ∃ y, x.power = some y ∧ y.ext = some (p.ext.getD 0 + us) ∧ (y.state, y.len, y.start) = (p.state, p.len, p.start)) ∧
      WritesScc s (exec (.pwrhQ sw) s) (decide (2 ≤ p.state)) 1 sw

namespace Sys2Proof.Claims

/-- R211-R213: RACQ takes the next filled slot for the team, RREL gives the oldest held one to the engine, RINIT
writes a fresh ring, RSTAT reads bytes 8 to 15 of the descriptor; deterministic mode forbids it, whatever its address.
-/
def RingsPassSlots : Prop :=
  ∀ (s : State) (sw : Bool) (d b : SReg) (a : Src), TeamRuns s [] → Src.scalOk a = true → (s.ctx s.cur).status = .ready →
    let r := s.settle s.cur
    let h := s.cur
    let g := (r.team h).wg
    let o := (r.sreg h b).toNat % 2 ^ 20
    let x := r.ring g o
    let fields := fun (u : State) => u.spRead g (o + 9) 7
    let bytes := fun (l : List Nat) => l.map (BitVec.ofNat 8)
    (s.det h = true → TrapsTeam s (exec (.rstat sw d b) s) .detViolation 0#1024) ∧
    (o % 64 = 0 → o + 64 ≤ r.spSize h → o / 4096 ∉ (r.wgOf h).engPages →
    (x.broken o = false → x.filled ≠ 0 →
      ∃ u, exec (.racq sw d b) s = .next u ∧ u.sreg h d = BitVec.ofNat 64 x.head ∧ SameSregsBut d r u ∧ SameScc r u ∧
        SameVregs r u ∧ Passed r u 1 sw ∧
        fields u = bytes [(x.head + 1) % x.slots, x.tail, x.eng, x.filled - 1, x.free, x.mode, x.held + 1] ∧
        (∀ p, p ∈ (u.wg g).engPages ↔ p ∈ (r.wg g).engPages ∧ p ∉ regPages (x.base + x.head * x.size, x.size)) ∧
        (u.team h).wdleft = 2 ^ (r.wgOf h).launch.wdlim) ∧
    (x.broken o = false → x.filled = 0 → ∃ u, exec (.racq sw d b) s = .next u ∧ ParkedAt r u (.ringFilled o)) ∧
    (x.broken o = false → (r.team h).loads = 0 → (r.team h).stores = 0 → x.held ≠ 0 →
      ∃ u, exec (.rrel sw b) s = .next u ∧ SameSregs r u ∧ SameScc r u ∧ SameVregs r u ∧ Passed r u 1 sw ∧
        fields u = bytes [x.head, (x.tail + 1) % x.slots, x.eng, x.filled, x.free + 1, x.mode, x.held - 1] ∧
        (∀ p, p ∈ (u.wg g).engPages ↔ p ∈ (r.wg g).engPages ∨ p ∈ regPages (x.base + x.tail * x.size, x.size))) ∧
    (x.broken o = true → ∀ i ∈ ([.racq sw d b, .rrel sw b] : List Instr), TrapsTeam r (exec i s) .illegalOperand 0#1024) ∧
    (x.shapeOk o = true → x.active = false → (Src.scalar r h a).toNat < 2 → x.base + x.slots * x.size ≤ r.spSize h →
      x.tbbase + 16 * x.slots ≤ r.spSize h → overlaps x.tbbase (16 * x.slots) x.base (x.slots * x.size) = false →
      overlaps x.tbbase (16 * x.slots) o 64 = false →
      let drain := Src.scalar r h a = 1#64
      ∃ u, exec (.rinit sw b a) s = .next u ∧ SameSregs r u ∧ SameScc r u ∧ SameVregs r u ∧ Passed r u (Src.len a) sw ∧
        fields u = bytes [0, 0, 0, if drain then x.slots else 0, if drain then 0 else x.slots, if drain then 1 else 0, 0] ∧
        ∀ k, k < x.slots → u.tbar g (x.tbbase + 16 * k) =
          { phase := 0, arrive := 1, owner := drain, fault := false, frozen := false, sect := 0, arrive0 := 1, sect0 := 0,
            broken := false }) ∧
    (s.det h = false → WritesSreg r (exec (.rstat sw d b) s) d (BitVec.ofNat 64 (r.spNat g (o + 8) 8)) 1 sw))

/-- R208-R210: TBINIT writes a fresh barrier, TBARV takes an arrival away and answers the phase, TBEXP adds expected
sectors; a barrier without arrivals and sectors left goes to its next phase. TBWAIT answers 0 once the phase has been
left, 2 after a fault, and parks before. On a broken barrier all but TBINIT trap ILLEGAL_OPERAND. -/
def TransactionBarriersCount : Prop :=
  ∀ (s : State) (sw : Bool) (d b : SReg) (a : Src), TeamRuns s [] → Src.scalOk a = true → (s.ctx s.cur).status = .ready →
    let r := s.settle s.cur
    let h := s.cur
    let g := (r.team h).wg
    let o := (r.sreg h b).toNat % 2 ^ 20
    let v := (Src.scalar r h a).toNat
    let x := r.tbar g o
    let n := Src.len a
    let after := fun (y : TBar) => if y.arrive = 0 ∧ y.sect = 0
      then { y with phase := (y.phase + 1) % 16, arrive := y.arrive0, sect := (y.sect0 : Int) } else y
    let kept := fun (u : State) => SameScc r u ∧ SameVregs r u ∧ ∀ l, u.homeByte l = r.homeByte l
    o % 16 = 0 → o + 16 ≤ r.spSize h → o / 4096 ∉ (r.wgOf h).engPages →
    (v % 2 ^ 16 ≠ 0 → v / 2 ^ 16 < 2 ^ 31 →
      ∃ u, exec (.tbinit sw b a) s = .next u ∧ kept u ∧ SameSregs r u ∧ Passed r u n sw ∧ u.tbar g o =
        { phase := 0, arrive := v % 2 ^ 16, owner := true, fault := false, frozen := false, sect := (v / 2 ^ 16 : Nat),
          arrive0 := v % 2 ^ 16, sect0 := v / 2 ^ 16, broken := false }) ∧
    (x.broken = false → (r.team h).loads = 0 → (r.team h).stores = 0 → x.arrive ≠ 0 →
      ∃ u, exec (.tbarv sw d b) s = .next u ∧ kept u ∧ u.sreg h d = BitVec.ofNat 64 x.phase ∧ SameSregsBut d r u ∧
        Passed r u 1 sw ∧ u.tbar g o = after { x with arrive := x.arrive - 1 }) ∧
    (x.broken = false → v ≠ 0 → x.sect + v < 2 ^ 31 → v < 2 ^ 31 →
      ∃ u, exec (.tbexp sw b a) s = .next u ∧ kept u ∧ SameSregs r u ∧ Passed r u n sw ∧
        u.tbar g o = after { x with sect := x.sect + v }) ∧
    (x.broken = false → v < 16 →
      (x.fault = true ∨ x.phase ≠ v →
        ∃ u, exec (.tbwait sw d b a) s = .next u ∧ kept u ∧ u.sreg h d = (if x.fault = true then 2#64 else 0#64) ∧
          SameSregsBut d r u ∧ Passed r u n sw ∧ (u.team h).wdleft = 2 ^ (r.wgOf h).launch.wdlim) ∧
      (x.fault = false → x.phase = v →
        ∃ u, exec (.tbwait sw d b a) s = .next u ∧ ParkedAt r u (.tbar o v d.toNat n sw))) ∧
    (x.broken = true → (r.team h).loads = 0 → (r.team h).stores = 0 →
      ∀ i ∈ ([.tbarv sw d b, .tbexp sw b a, .tbwait sw d b a] : List Instr), TrapsTeam r (exec i s) .illegalOperand 0#1024)

end Sys2Proof.Claims

/-- Rings pass slots; transaction barriers count arrivals and sectors: `RingsPassSlots` and
`TransactionBarriersCount`. -/
def Obligations.RingsAndTransactionBarriers : Prop :=
  Sys2Proof.Claims.RingsPassSlots ∧ Sys2Proof.Claims.TransactionBarriersCount

namespace Sys2Proof.Claims

/-- R224: QPOST, its checks passed, copies the packet into the slot of the write index, PARENT set to the launch's
entry for a launch or range packet, advances the index, counts the child and answers the old index. It waits for the
team's loads and stores before, and for the writes its die has read (R302), and at issue for the walks of its pages (R395), parks
while the queue is full, and is forbidden in deterministic mode. -/
def PacketsArePosted : Prop :=
  ∀ (s : State) (sw : Bool) (d b : SReg) (a : Src), SoundMemory s → TeamRuns s [] → Src.scalOk a = true →
    (s.ctx s.cur).status = .ready →
    let h := s.cur
    let t := s.team h
    let w := s.wgOf h
    let da := s.sreg h b
    let pa := Src.scalar s h a
    let may := s.engineMay (foalKey (s.coreOf h) 0)
    ∀ p ∈ ([(1, .qpostL sw d b a), (2, .qpostR sw d b a), (3, .qpostS sw d b a)] : List (Nat × Instr)),
      (s.det h = true → TrapsTeam s (exec p.2 s) .detViolation 0#1024) ∧
      (s.det h = false → t.loads ≠ 0 ∨ t.stores ≠ 0 ∨ may = false →
        ∃ u, exec p.2 s = .next u ∧ ParkedAt s u (.counts .switchMarker true false)) ∧
      (s.det h = false → t.loads = 0 → t.stores = 0 → may = true → da.toNat % 64 ≠ 0 ∨ pa.toNat % 128 ≠ 0 →
        TrapsTeam s (exec p.2 s) .align 0#1024) ∧
      (s.det h = false → t.loads = 0 → t.stores = 0 → may = true → da.toNat % 64 = 0 → pa.toNat % 128 = 0 →
        s.unwalked h (vpagesOf da 64 ++ vpagesOf pa 128) = [] →
        ∀ dl pl, s.teamBytes h da 64 .readWrite = .ok dl → s.teamBytes h pa 128 .read = .ok pl →
        let q := Queue.ofBytes (dl.map s.homeByte)
        s.unwalked h (vpagesOf (q.slotAddr q.write) 128) = [] →
        let pkt := pl.map s.homeByte
        q.ok = true → q.part = w.launch.part → recNat pkt 0 2 = p.1 → packetZeros pkt = true →
        (p.1 ≤ 2 → recNat pkt 0x38 8 = 0) →
        (q.size ≤ q.count → ∀ l, dl.head? = some l → ∃ u, exec p.2 s = .next u ∧ OnlyReads s u ∧ u.team h = t ∧
          SameVregs s u ∧ u.ctx h = { s.ctx h with status := .parked (.queueRoom l) }) ∧
        (q.count < q.size → ∀ sl, s.teamBytes h (q.slotAddr q.write) 128 .write = .ok sl →
          let sent := if p.1 ≤ 2 then pkt.take 0x38 ++ leBytes 8 w.entity ++ pkt.drop 0x40 else pkt
          ∃ u, exec p.2 s = .next u ∧ u.sreg h d = q.write ∧ SameSregsBut d s u ∧ SameScc s u ∧ SameVregs s u ∧
            Passed s u (Src.len a) sw ∧
            StoresBytes s u (sl.zip sent ++ (dl.drop 0x20).zip (leBytes 8 (q.write.toNat + 1))) ∧
            (u.entity w.entity).counter = (s.entity w.entity).counter + (if p.1 ≤ 2 then 1#64 else 0#64)))

/-- R226: CNT.ADD adds to the own entity's counter and answers the sum, trapping ILLEGAL_OPERAND where less than the
part of others would be left; CNT.RD reads, CNT.WAIT parks until the counter is at most s[D], and CNT.CNCL starts the
cancel. A missing entity reads 0 and satisfies a wait; one of another job traps PERM. -/
def CountersAreAddedAndAwaited : Prop :=
  ∀ (s : State) (sw : Bool) (d : SReg) (l : BitVec 3) (a : Src), TeamRuns s [] → Src.scalOk a = true → l.toNat ≤ 3 →
    let h := s.cur
    let A := Src.scalar s h a
    let n := Src.len a
    let name := s.named h l.toNat A
    let foreign := fun e => (s.entity e).job ≠ (s.wgOf h).launch.job ∧ A ≠ BitVec.allOnes 64
    (∀ e, s.ownEntity h l.toNat = some e →
      let x := s.entity e
      (x.added + A.toInt < 0 → TrapsTeam s (exec (.cntAdd sw d l a) s) .illegalOperand 0#1024) ∧
      (0 ≤ x.added + A.toInt → (x.counter.toNat : Int) + A.toInt < 2 ^ 64 →
        ∃ u, exec (.cntAdd sw d l a) s = .next (State.sweep u) ∧
          u.sreg h d = BitVec.ofInt 64 (x.counter.toNat + A.toInt) ∧
          u.entity e = { x with counter := u.sreg h d, added := x.added + A.toInt } ∧
          SameSregsBut d s u ∧ SameScc s u ∧ SameVregs s u ∧ SameTeam s u ∧ SameMemory s u ∧ SameOthers s u ∧
          Passed s u n sw)) ∧
    (∀ e, name = .live e → foreign e →
      TrapsTeam s (exec (.cntWait sw d l a) s) .perm 0#1024 ∧ TrapsTeam s (exec (.cntCncl sw l a) s) .perm 0#1024 ∧
      (s.det h = false → TrapsTeam s (exec (.cntRd sw d l a) s) .perm 0#1024)) ∧
    (∀ e, name = .live e → ¬foreign e →
      (s.det h = false → WritesSreg s (exec (.cntRd sw d l a) s) d (s.entity e).counter n sw) ∧
      (exec (.cntCncl sw l a) s =
        .next ((State.done s h n sw).cancelStart (s.wgOf h).launch.part l.toNat (s.entity e).id)) ∧
      ((s.sreg h d).toNat < (s.entity e).counter.toNat →
        ∃ u, exec (.cntWait sw d l a) s = .next u ∧ ParkedAt s u (.counter e (s.sreg h d)))) ∧
    (name = .absent → s.det h = false → WritesSreg s (exec (.cntRd sw d l a) s) d 0#64 n sw) ∧
    (name = .absent → 2 ^ 32 ≤ A.toNat → OnlyPasses s (exec (.cntCncl sw l a) s) n sw) ∧
    (name = .absent → A.toNat < 2 ^ 32 →
      exec (.cntCncl sw l a) s = .next ((State.done s h n sw).cancelStart (s.wgOf h).launch.part l.toNat (A.setWidth 32))) ∧
    ((name = .absent ∨ ∃ e, name = .live e ∧ ¬foreign e ∧ (s.entity e).counter.toNat ≤ (s.sreg h d).toNat) →
      ∃ u, exec (.cntWait sw d l a) s = .next u ∧ SameSregs s u ∧ SameScc s u ∧ SameVregs s u ∧ SameMemory s u ∧
        SameOthers s u ∧ Passed s u n sw ∧ TeamIs s u { s.team h with fresh := s.now } ∧
        ∀ line, line < 2 ^ 45 → u.l1Line (s.coreOf h) line = none) ∧
    (s.det h = true → TrapsTeam s (exec (.cntRd sw d l a) s) .detViolation 0#1024)

end Sys2Proof.Claims

/-- Packets are posted; counters are added to, read, awaited and cancelled: `PacketsArePosted` and
`CountersAreAddedAndAwaited`. -/
def Obligations.PacketsAndCounters : Prop :=
  Sys2Proof.Claims.PacketsArePosted ∧ Sys2Proof.Claims.CountersAreAddedAndAwaited

/-- R225, R330, R337: RTAKE takes the next leaf of the workgroup's interval, RSPLIT gives its upper half away at the midpoint,
RDONE adds to the launch's report. Where its own interval is empty, RTAKE answers HI twice in deterministic mode; outside it, it
takes the upper half of the launch's longest interval of at least 2 × LEAF, of lowest WGIX among equals, and its first leaf from
it, and answers HI twice where no interval is left. That RSPLIT leaves its half with the launch as a spare interval, behind those
of the workgroups in that choice, and that the longest spare one is taken whole where none is 2 × LEAF long, is log 39 (DEDUCED).
Outside a range launch each form traps ILLEGAL_OPERAND. -/
def Obligations.RangeTasksAreTakenAndSplit : Prop :=
  ∀ (s : State) (sw : Bool) (d b : SReg), TeamRuns s [] →
    let h := s.cur
    let g := (s.team h).wg
    let w := s.wg g
    (w.launch.range = none → ∀ i ∈ ([.rtake sw d, .rsplit sw d, .rdone sw b] : List Instr),
      TrapsTeam s (exec i s) .illegalOperand 0#1024) ∧
    ∀ lo hi leaf r, w.launch.range = some (lo, hi, leaf) → (s.entity w.entity).launch = some r →
      let mid := w.lo.toNat + leaf.toNat * ((w.hi.toNat - w.lo.toNat) / (2 * leaf.toNat))
      (d = 63#6 → TrapsTeam s (exec (.rtake sw d) s) .illegalOperand 0#1024) ∧
      (d ≠ 63#6 → w.lo.toNat < w.hi.toNat →
        ∃ u, exec (.rtake sw d) s = .next u ∧ u.sreg h d = w.lo ∧
          (u.sreg h (d + 1)).toNat = min (w.lo.toNat + leaf.toNat) w.hi.toNat ∧
          (∀ x, x ≠ d → x ≠ d + 1 → u.sreg h x = s.sreg h x) ∧ u.wg g = { w with lo := u.sreg h (d + 1) } ∧
          SameScc s u ∧ SameVregs s u ∧ SameTeam s u ∧ SameMemory s u ∧ SameOthers s u ∧ Passed s u 1 sw) ∧
      (d ≠ 63#6 → w.hi.toNat ≤ w.lo.toNat → s.det h = true →
        ∃ u, exec (.rtake sw d) s = .next u ∧ u.sreg h d = hi ∧ u.sreg h (d + 1) = hi ∧
          (∀ x, x ≠ d → x ≠ d + 1 → u.sreg h x = s.sreg h x) ∧ u.wg g = w ∧ SameScc s u ∧ SameVregs s u ∧
          SameTeam s u ∧ SameMemory s u ∧ SameOthers s u ∧ Passed s u 1 sw) ∧
      (d ≠ 63#6 → w.hi = w.lo → s.det h = false → 0 < leaf.toNat →
        let spares := r.spare.zipIdx.map fun p => (2 ^ 32 + p.2, Holder.spare p.2, p.1.1, p.1.2)
        let all := s.intervals w.entity r ++ spares
        let long := fun (x : Nat × Holder × DWord × DWord) => (x.2.2.2 - x.2.2.1).toNat
        let first := fun (xs : List (Nat × Holder × DWord × DWord)) (x : Nat × Holder × DWord × DWord) =>
          x ∈ xs ∧ ∀ y ∈ xs, y = x ∨ long y < long x ∨ (long y = long x ∧ x.1 < y.1)
        let takes := fun (u : State) (a b z : DWord) => exec (.rtake sw d) s = .next u ∧ u.sreg h d = a ∧
          (u.sreg h (d + 1)).toNat = min (a.toNat + leaf.toNat) b.toNat ∧
          (∀ x, x ≠ d → x ≠ d + 1 → u.sreg h x = s.sreg h x) ∧ u.wg g = { w with lo := u.sreg h (d + 1), hi := z } ∧
          SameScc s u ∧ SameVregs s u ∧ SameTeam s u ∧ SameMemory s u ∧ SameOthers s u ∧ Passed s u 1 sw
        (∀ x, first all x → 2 * leaf.toNat ≤ long x → x.2.2.1.toNat ≤ x.2.2.2.toNat →
          let m : DWord := BitVec.ofNat 64 (x.2.2.1.toNat +
            leaf.toNat * ((x.2.2.2.toNat - x.2.2.1.toNat) / (2 * leaf.toNat)))
          ∃ u, takes u m x.2.2.2 x.2.2.2 ∧
            (∀ v, x.2.1 = .wg v → v ≠ g → u.wg v = { s.wg v with hi := m }) ∧
            (∀ i, x.2.1 = .piece i → (u.entity w.entity).launch =
              some { r with pieces := r.pieces.modify i fun p => (p.1, m) }) ∧
            ∀ i, x.2.1 = .spare i → (u.entity w.entity).launch = some { r with spare := r.spare.modify i fun p => (p.1, m) }) ∧
        ((∀ x ∈ all, long x < 2 * leaf.toNat) → ∀ x, first spares x → x.2.2.1.toNat < x.2.2.2.toNat →
          ∃ u, takes u x.2.2.1 x.2.2.2 x.2.2.2 ∧ ∀ i, x.2.1 = .spare i →
            (u.entity w.entity).launch = some { r with spare := r.spare.eraseIdx i }) ∧
        ((∀ x ∈ all, long x < 2 * leaf.toNat) → r.spare = [] →
          ∃ u, exec (.rtake sw d) s = .next u ∧ u.sreg h d = hi ∧ u.sreg h (d + 1) = hi ∧
            (∀ x, x ≠ d → x ≠ d + 1 → u.sreg h x = s.sreg h x) ∧ u.wg g = w ∧ SameScc s u ∧ SameVregs s u ∧
            SameTeam s u ∧ SameMemory s u ∧ SameOthers s u ∧ Passed s u 1 sw)) ∧
      (w.lo.toNat ≤ w.hi.toNat → (s.det h = true ∨ w.hi.toNat - w.lo.toNat < 2 * leaf.toNat) →
        WritesSreg s (exec (.rsplit sw d) s) d w.hi 1 sw) ∧
      (w.lo.toNat ≤ w.hi.toNat → s.det h = false → 2 * leaf.toNat ≤ w.hi.toNat - w.lo.toNat →
        ∃ u, exec (.rsplit sw d) s = .next u ∧ (u.sreg h d).toNat = mid ∧ SameSregsBut d s u ∧ SameScc s u ∧
          u.wg g = { w with hi := u.sreg h d } ∧ (u.entity w.entity).launch = some { r with spare := r.spare ++ [(u.sreg h d, w.hi)] } ∧
          SameVregs s u ∧ SameTeam s u ∧ SameMemory s u ∧ SameOthers s u ∧ Passed s u 1 sw) ∧
      (lo.toNat ≤ hi.toNat → r.done + (s.sreg h b).toNat ≤ hi.toNat - lo.toNat →
        ∃ u, exec (.rdone sw b) s = .next u ∧ (u.entity w.entity).launch = some { r with done := r.done + (s.sreg h b).toNat } ∧
          SameSregs s u ∧ SameScc s u ∧ SameVregs s u ∧ SameTeam s u ∧ SameMemory s u ∧ SameOthers s u ∧ Passed s u 1 sw) ∧
      (lo.toNat ≤ hi.toNat → hi.toNat - lo.toNat < r.done + (s.sreg h b).toNat →
        TrapsTeam s (exec (.rdone sw b) s) .illegalOperand 0#1024)

/-- R229-R232: TRAP and BRK are an exception on a control-core thread, with imm16 as its value, and a precise trap on
a team whose counts are 0, which waits for them first. HALT moves on and parks unless an event is pending. ERET
restores LEVEL and IE from PLEV and PIE and continues at EPC, word EIDX; a PLEV of 0 or 3 raises ILLEGAL_OPERAND and
one above LEVEL PRIV. -/
def Obligations.ExceptionsAreTakenAndLeft : Prop :=
  ∀ (s : State) (sw : Bool) (im : BitVec 16),
    let h := s.cur
    let t := s.thread h
    (ThreadRuns s 0 → TakesException s (exec (.trap sw im) s) 0x12 (BitVec.ofNat 64 im.toNat) ∧
      TakesException s (exec (.brk sw im) s) 0x11 (BitVec.ofNat 64 im.toNat)) ∧
    (TeamRuns s [] → (s.team h).loads = 0 → (s.team h).stores = 0 →
      TrapsTeam s (exec (.trap sw im) s) .swtrap 0#1024 ∧ TrapsTeam s (exec (.brk sw im) s) .brk 0#1024) ∧
    (TeamRuns s [] → (s.team h).loads ≠ 0 ∨ (s.team h).stores ≠ 0 → ∀ i ∈ ([.trap sw im, .brk sw im] : List Instr),
      ∃ u, exec i s = .next u ∧ ParkedAt s u (.counts .switchMarker true false)) ∧
    (ThreadRuns s 1 → t.events = [] →
      ∃ u, exec (.halt sw) s = .next u ∧ MovedTo s u 1 (.parked .halt) ∧ SameSregs s u ∧ SameScc s u ∧ OnlyHart s u) ∧
    (ThreadRuns s 1 → t.events ≠ [] → OnlyPasses s (exec (.halt sw) s) 1 sw) ∧
    (ThreadRuns s 1 → (t.plev = 1#2 ∨ t.plev = 2#2) → t.plev.toNat ≤ t.level.toNat →
      ∃ u, exec (.eret sw) s = .next u ∧ u.thread h = { t with level := t.plev, ie := t.pie } ∧
        u.ctx h = { s.ctx h with pc := t.epc, widx := t.eidx.toNat, clause := none, status := .ready } ∧
        (∃ cs ts, u = { s with ctxs := cs, threads := ts }) ∧ ∀ k, k ≠ h → u.ctx k = s.ctx k ∧ u.thread k = s.thread k) ∧
    (ThreadRuns s 1 → t.plev = 0#2 ∨ t.plev = 3#2 → TakesException s (exec (.eret sw) s) 0x03 0#64) ∧
    (ThreadRuns s 1 → t.plev ≠ 3#2 → t.level.toNat < t.plev.toNat → TakesException s (exec (.eret sw) s) 0x04 0#64)

namespace Sys2Proof.Claims

/-- The registers of R234 that belong to a thread: number, value, and what a write makes of the thread (R233, R235).
-/
def threadCsrs (t : Thread) : List (Nat × DWord × (DWord → Thread)) :=
  [(0, BitVec.ofNat 64 (t.level.toNat + 4 * t.plev.toNat + 16 * t.ie.toNat + 32 * t.pie.toNat),
      fun v => { t with plev := v.extractLsb' 2 2, ie := v.getLsbD 4, pie := v.getLsbD 5 }),
   (1, t.epc, fun v => { t with epc := v }), (2, BitVec.ofNat 64 t.eidx.toNat, fun v => { t with eidx := v.extractLsb' 0 4 }),
   (3, t.ecause, fun v => { t with ecause := v }), (4, t.eval, fun v => { t with eval := v }),
   (5, t.evec, fun v => { t with evec := v }),
   (0x20, BitVec.ofNat 64 t.psel, fun v => if 1 ≤ v.toNat ∧ v.toNat ≤ 63 then { t with psel := v.toNat } else t)]

/-- The others: number, level, value, and the state a write leaves before s[D] is written. A write of TQHEAD, TQSIZE
or FSRV lets waiting trap records go (`flush`); a value out of range is ignored (log 12). -/
def packageCsrs (s : State) : List (Nat × Nat × DWord × (DWord → State)) :=
  let p := (s.thread s.cur).psel
  let x := s.part p
  [(0x10, 1, s.tqbase, fun v => { s with tqbase := v }), (0x11, 1, s.tqhead, fun v => State.flush { s with tqhead := v }),
   (0x12, 1, s.tqtail, fun _ => s),
   (0x13, 1, s.tqsize, fun v => if ∃ k, k ≤ 10 ∧ v.toNat = 64 * 2 ^ k then State.flush { s with tqsize := v } else s),
   (0x100, 2, BitVec.ofNat 64 (x.det.toNat + 2 * x.live.toNat + 4 * x.creating.toNat),
     fun v => if x.live || x.creating then s else s.setPart p { x with det := v.getLsbD 0 }),
   (0x101, 2, BitVec.ofNat 64 x.fsrv, fun v => if v.toNat ≤ 4095 then State.flush (s.setPart p { x with fsrv := v.toNat }) else s),
   (0x102, 2, s.parkth, fun v => if 1 ≤ v.toNat ∧ v.toNat ≤ 100 then { s with parkth := v } else s)]

/-- R233-R236: CSRR, CSRW, CSRS and CSRC answer the old value in s[D]; the register takes s[B], old OR s[B], old AND
NOT s[B]. An unassigned number raises ILLEGAL_OPERAND, a register above the level PRIV. -/
def ControlRegistersAreReadAndWritten : Prop :=
  ∀ (s : State) (sw : Bool) (d b : SReg) (a : Src), ThreadRuns s 1 → Src.scalOk a = true →
    let h := s.cur
    let n := (Src.scalar s h a).toNat
    let len := Src.len a
    let x := s.sreg h b
    let forms := ([(.csrw sw d b a, fun _ => x), (.csrs sw d b a, fun o => o ||| x), (.csrc sw d b a, fun o => o &&& ~~~x)] :
      List (Instr × (DWord → DWord)))
    (∀ p ∈ threadCsrs (s.thread h), n = p.1 →
      WritesSreg s (exec (.csrr sw d a) s) d p.2.1 len sw ∧
      ∀ f ∈ forms, ∃ u, exec f.1 s = .next u ∧ u.sreg h d = p.2.1 ∧ u.thread h = p.2.2 (f.2 p.2.1) ∧ SameSregsBut d s u ∧
        SameScc s u ∧ Passed s u len sw ∧ (∀ k, k ≠ h → u.thread k = s.thread k) ∧ SameOthers s u ∧
        ∃ cs ts, u = { s with ctxs := cs, threads := ts }) ∧
    (∀ p ∈ packageCsrs s, n = p.1 →
      (p.2.1 ≤ (s.thread h).level.toNat →
        WritesSreg s (exec (.csrr sw d a) s) d p.2.2.1 len sw ∧
        ∀ f ∈ forms, exec f.1 s = .next (State.done (State.setSreg (p.2.2.2 (f.2 p.2.2.1)) h d p.2.2.1) h len sw)) ∧
      ((s.thread h).level.toNat < p.2.1 →
        TakesException s (exec (.csrr sw d a) s) 0x04 0#64 ∧ ∀ f ∈ forms, TakesException s (exec f.1 s) 0x04 0#64)) ∧
    (n ∉ [0, 1, 2, 3, 4, 5, 0x10, 0x11, 0x12, 0x13, 0x20, 0x100, 0x101, 0x102] →
      TakesException s (exec (.csrr sw d a) s) 0x03 0#64 ∧ ∀ f ∈ forms, TakesException s (exec f.1 s) 0x03 0#64)

/-- R237, R238: TLBI.VA drops the translations of the page of A in the partition PSEL names, TLBI.PART those of
partition A, TLBI.ALL all; TLBI.SYNC moves on once every access that translated before is performed, and a WAITV that
still waits watches its bytes where they translate now; a QPOST that waits for room is issued again. That a TLBI acts as it executes,
and that TLBI.SYNC waits for the accesses of every partition, is log 41 (DEDUCED); the new translation of what is parked is log 72
(DEDUCED). -/
def TranslationsAreInvalidated : Prop :=
  ∀ (s : State) (sw : Bool) (a : Src), ThreadRuns s 1 → Src.scalOk a = true →
    let h := s.cur
    let v := (Src.scalar s h a).toNat
    let t := s.thread h
    let drops := fun (o : Out) (out : TlbEntry → Prop) (n : Nat) => ∃ u : State, o = .next u ∧
      (∀ e, e ∈ u.tlb ↔ e ∈ s.tlb ∧ ¬out e) ∧ u.thread h = { t with posted := s.nextId } ∧ Passed s u n sw ∧ SameSregs s u ∧
      SameScc s u ∧ SameOthers s u ∧ ∃ cs ts x, u = { s with ctxs := cs, threads := ts, tlb := x }
    let done := (∀ e ∈ s.teams, (∀ r ∈ e.2.reqs, r.id < t.posted → r.todo = []) ∧ ∀ c ∈ e.2.copies, t.posted ≤ c.id) ∧
      ∀ e ∈ s.foals, e.2.id < t.posted → e.2.landing = false
    (v < 2 ^ 55 → drops (exec (.tlbiVa sw a) s)
      (fun e => e.part = t.psel ∧ e.vpage ≤ v / 65536 ∧ v / 65536 < e.vpage + e.pages) (Src.len a)) ∧
    (2 ^ 55 ≤ v → TakesException s (exec (.tlbiVa sw a) s) 0x03 0#64) ∧
    (1 ≤ v → v ≤ 63 → drops (exec (.tlbiPart sw a) s) (fun e => e.part = v) (Src.len a)) ∧
    (v = 0 ∨ 63 < v → TakesException s (exec (.tlbiPart sw a) s) 0x03 0#64) ∧
    drops (exec (.tlbiAll sw) s) (fun _ => True) 1 ∧
    (done →
      exec (.tlbiSync sw) s = .next (State.done s.retranslateAll h 1 sw) ∧
      ((∀ e ∈ s.ctxs, (∀ va pl c y w, e.2.status ≠ .parked (.value false va pl c y w)) ∧ ∀ l, e.2.status ≠ .parked (.queueRoom l)) →
        OnlyPasses s (exec (.tlbiSync sw) s) 1 sw) ∧
      (∀ k l, (s.ctx k).kind = .team → (s.ctx k).status = .parked (.queueRoom l) →
        ∃ u, exec (.tlbiSync sw) s = .next u ∧ u.ctx k = { s.ctx k with status := .ready }) ∧
      (SoundMemory s → ∀ k va pl c y w pl', (s.ctx k).kind = .team →
        (s.ctx k).status = .parked (.value false va pl c y w) → s.checkAsk k .global .read va 8 = .ok pl' →
        c.holds (s.watched k false pl') y = false →
        ∃ u, exec (.tlbiSync sw) s = .next u ∧
          u.ctx k = { s.ctx k with status := .parked (.value false va pl' c y w) })) ∧
    ((∃ e ∈ s.teams, ∃ r ∈ e.2.reqs, r.id < t.posted ∧ r.todo ≠ []) →
      ∃ u, exec (.tlbiSync sw) s = .next u ∧ ParkedAt s u .tlbi)

end Sys2Proof.Claims

/-- Control registers are read and written at their level; translations are invalidated:
`ControlRegistersAreReadAndWritten` and `TranslationsAreInvalidated`. -/
def Obligations.ControlRegistersAndTranslations : Prop :=
  Sys2Proof.Claims.ControlRegistersAreReadAndWritten ∧ Sys2Proof.Claims.TranslationsAreInvalidated

namespace Sys2Proof.Claims

/-- R239, R247: MRDC reads a meter, a team only those of its own partition; CAPR reads eight bytes of capability
space, 0 beyond its ten records, at a multiple of 8. That MRDC of a partition above 63 runs, with a value that nothing fixes, is the
model's choice (log 5). -/
def MetersAndCapabilitiesAreRead : Prop :=
  ∀ (s : State) (sw : Bool) (d : SReg) (a : Src), HartRuns s → Src.scalOk a = true →
    let h := s.cur
    let v := (Src.scalar s h a).toNat
    let sel := v % 256
    let p := v / 256
    let own := (s.wgOf h).launch.part
    let len := Src.len a
    let stops := fun (o : Out) (c : TrapCode) (val : DWord) =>
      ((s.ctx h).kind = .team → TrapsTeam s o c 0#1024) ∧ ((s.ctx h).kind = .thread → TakesException s o c.num val)
    (2 ^ 16 ≤ v → stops (exec (.mrdc sw d a) s) .illegalOperand 0#64) ∧
    (v < 2 ^ 16 → (s.ctx h).kind = .team → p ≠ 0 → p ≠ own → TrapsTeam s (exec (.mrdc sw d a) s) .perm 0#1024) ∧
    (v < 2 ^ 16 → 10 ≤ sel → ((s.ctx h).kind = .team → p = 0 ∨ p = own) →
      stops (exec (.mrdc sw d a) s) .illegalOperand 0#64) ∧
    (v < 2 ^ 16 → sel < 10 →
      ((s.ctx h).kind = .team → own ≤ 63 → p = 0 ∨ p = own →
        WritesSreg s (exec (.mrdc sw d a) s) d (Store.get 0#64 (s.part own).meters sel) len sw) ∧
      ((s.ctx h).kind = .thread → p = 0 → TakesException s (exec (.mrdc sw d a) s) 0x03 0#64) ∧
      ((s.ctx h).kind = .thread → 1 ≤ p → p ≤ 63 →
        WritesSreg s (exec (.mrdc sw d a) s) d (Store.get 0#64 (s.part p).meters sel) len sw) ∧
      ((s.ctx h).kind = .thread → 63 < p →
        ∃ u, exec (.mrdc sw d a) s = .next u ∧ SameSregsBut d s u ∧ SameScc s u ∧ Passed s u len sw ∧ SameMemory s u)) ∧
    (v % 8 = 0 → ∃ x, WritesSreg s (exec (.capr sw d a) s) d x len sw ∧ (160 ≤ v → x = 0#64) ∧
      (∀ k, k < 10 → v = 16 * k → x.toNat % 2 ^ 16 = k + 1 ∧ x.toNat / 2 ^ 32 = if k = 9 then 0 else 16 * (k + 1))) ∧
    (v % 8 ≠ 0 → stops (exec (.capr sw d a) s) .align (BitVec.ofNat 64 v))

/-- R240, R402-R404: MSIGN closes a usage record of KIND 3 for a live partition, writes it to the buffer and answers
its sequence number; the partition's next record follows it. The first 256 bytes are the record of R403; the signature
after them is a free value of the model (log 6). That a misplaced buffer raises ALIGN is log 43. -/
def MeterRecordsAreSigned : Prop :=
  ∀ (s : State) (sw : Bool) (d b : SReg) (a : Src), SoundMemory s → ThreadRuns s 2 → Src.scalOk a = true →
    (s.ctx s.cur).status = .ready →
    let h := s.cur
    let p := (Src.scalar s h a).toNat
    let x := s.part p
    let pa := (s.sreg h b).toNat
    (p = 0 ∨ 63 < p ∨ x.live = false → TakesException s (exec (.msign sw d b a) s) 0x03 0#64) ∧
    (1 ≤ p → p ≤ 63 → x.live = true → pa + 5120 ≤ 0x12000000000 → pa % 256 ≠ 0 →
      TakesException s (exec (.msign sw d b a) s) 0x0C (BitVec.ofNat 64 pa)) ∧
    (1 ≤ p → p ≤ 63 → x.live = true → pa + 5120 ≤ 0x12000000000 → pa % 256 = 0 →
      x.ulogbase + 5120 * x.ulogn ≤ 0x12000000000 → 0 < x.ulogn →
      ∃ u, exec (.msign sw d b a) s = .next u ∧ u.sreg h d = BitVec.ofNat 64 x.usage.seq ∧ SameSregsBut d s u ∧
        SameScc s u ∧ Passed s u (Src.len a) sw ∧ (u.part p).usage.seq = x.usage.seq + 1 ∧ (u.part p).usage.tend = s.time ∧
        ∀ i, i < 256 → u.homeByte ⟨pa + i, none⟩ = (s.usageBytes p 3 x.slotEntry).getD i 0#8)

end Sys2Proof.Claims

/-- Meters and capabilities are read; usage records are signed: `MetersAndCapabilitiesAreRead` and
`MeterRecordsAreSigned`. -/
def Obligations.MetersCapabilitiesAndRecords : Prop :=
  Sys2Proof.Claims.MetersAndCapabilitiesAreRead ∧ Sys2Proof.Claims.MeterRecordsAreSigned

/-- R241-R243: RCTX at the package that holds a trapped team: RD answers an item of its context, WR writes one and
answers 1, RESUME and KILL reply; a handle that is not live answers 0, another package's fault server gets PERM, and a
handle of another package is asked there, the thread parked. -/
def Obligations.TrappedContextsAreServed : Prop :=
  ∀ (s : State) (sw : Bool) (d b : SReg) (a : Src), ThreadRuns s 1 → Src.scalOk a = true →
    let h := s.cur
    let A := Src.scalar s h a
    let hd := s.sreg h b
    let i := Item.ofA A
    let len := Src.len a
    let forms := ([(.rd, .rctxRd sw d b a), (.wr, .rctxWr sw d b a), (.resume, .rctxResume sw d b a),
                   (.kill, .rctxKill sw d b a)] : List (RctxOp × Instr))
    let ok := fun op => rctxLegal op A (s.sreg h d) = true
    let here := (hd.extractLsb' 32 12).toNat = s.pkg ∨ 2 ^ 44 ≤ hd.toNat
    (∀ f ∈ forms, here → s.trapped hd = none → s.orphaned hd = none →
      (¬ok f.1 → TakesException s (exec f.2 s) 0x03 0#64) ∧ (ok f.1 → WritesSreg s (exec f.2 s) d 0#64 len sw)) ∧
    (∀ f ∈ forms, ¬here → ∃ u, exec f.2 s = .next u ∧ u.nextId = s.nextId + 1 ∧
      u.ctx h = { s.ctx h with status := .parked (.rctx s.nextId d.toNat len) } ∧ SameMemory s u) ∧
    (∀ k f, here → s.trapped hd = none → s.orphaned hd = some (k, f) → (s.part f.origin.part).fsrv = s.pkg →
      (ok .rd → WritesSreg s (exec (.rctxRd sw d b a) s) d 0#64 len sw) ∧
      (ok .wr → WritesSreg s (exec (.rctxWr sw d b a) s) d 0#64 len sw)) ∧
    ∀ g r, here → s.trapped hd = some (g, r) →
      let t := s.team g
      let fsrv := (s.part (s.wgOf g).launch.part).fsrv
      (∀ f ∈ forms, fsrv ≠ s.pkg → TakesException s (exec f.2 s) 0x0D 0#64) ∧
      (∀ f ∈ forms, fsrv = s.pkg → ¬ok f.1 → TakesException s (exec f.2 s) 0x03 0#64) ∧
      (fsrv = s.pkg → ok .rd → (i.cls = 1 → i.r < t.vregs ∧ i.p < t.width) →
        WritesSreg s (exec (.rctxRd sw d b a) s) d
          (match i.cls with
            | 0 => s.sreg g (BitVec.ofNat 6 i.r)
            | 1 => BitVec.ofNat 64 ((s.vreg g i.r).lane i.p).toNat
            | 2 => (t.lmk i.r).extractLsb' (64 * i.p) 64
            | 3 => t.exec.extractLsb' (64 * i.p) 64
            | 4 => (t.entry i.r).extractLsb' (64 * i.p) 64
            | 5 => (s.ctx g).pc
            | 6 => BitVec.ofNat 64 (s.ctx g).widx
            | 7 => BitVec.ofNat 64 (t.depth + 2 ^ 16 * t.spill.toNat)
            | 8 => (Store.get 0#1024 t.spillSlots i.r).extractLsb' (64 * i.p) 64
            | 9 => BitVec.ofNat 64 (s.ctx g).scc.toNat
            | 10 => BitVec.ofNat 64 t.flags.toNat
            | _ => t.flane.extractLsb' (64 * i.p) 64) len sw) ∧
      (fsrv = s.pkg → ok .wr → (i.cls = 1 → i.r < t.vregs ∧ i.p < t.width) →
        exec (.rctxWr sw d b a) s =
          .next (State.done (State.setSreg ((s.itemWrite g i (s.sreg h d)).renewImage (s.coreOf g)) h d 1#64) h len sw)) ∧
      (fsrv = s.pkg → ok .resume →
        exec (.rctxResume sw d b a) s = .next (State.done (State.setSreg (s.replyTeam g r A.toNat) h d 1#64) h len sw)) ∧
      (fsrv = s.pkg → ok .kill →
        exec (.rctxKill sw d b a) s = .next (State.done (State.setSreg (s.replyTeam g r (3 + A.toNat)) h d 1#64) h len sw)) ∧
      ((s.wgOf g).saved = none → r.code = .memFault → r.replay = false → r.len = 1 → r.lanes ≠ 0#1024 → t.replay = [] →
        ∃ v, s.replyTeam g r 1 = State.sweep v ∧ v.ctx g = { s.ctx g with status := .ready } ∧ (v.team g).trap = none ∧
          (v.team g).retry = some t.flane)

namespace Sys2Proof.Claims

/-- R244: SWITCH.ARM and SWITCH.URGENT arm a verified entry at an address and answer its index, or a negative code: −3
for an entry that is none or of the other kind, −4 for one behind or beside what is armed, −1 for one less than 3,000
ns ahead, −2 where no arm is free. SWITCH.CANCEL takes an armed entry back and answers 1, or 0. That the lowest free index is taken is
the model's choice (log 95), and so is the 0 for an A above 255 (log 96); that the entry must lie in HBM4 is log 43. -/
def SwitchesAreArmed : Prop :=
  ∀ (s : State) (sw : Bool) (d b : SReg) (a : Src), ThreadRuns s 2 → Src.scalOk a = true →
    let h := s.cur
    let pa := (s.sreg h b).toNat
    let k := (Src.scalar s h a).toNat
    let code := fun (n : Nat) => (BitVec.ofInt 64 (-(n : Int)) : DWord)
    (∀ f ∈ ([(false, .switchArm sw d b), (true, .switchUrgent sw d b)] : List (Bool × Instr)), pa + 32 ≤ 0x12000000000 →
      pa % 32 = 0 →
      (s.pageEntry pa = none → WritesSreg s (exec f.2 s) d (code 3) 1 sw) ∧
      ∀ e, s.pageEntry pa = some e →
        let behind := (∃ q, (s.part e.part).armed = some q ∧ e.seq.toNat ≤ q.toNat) ∨
          ∃ x ∈ s.arms, x.2.part = e.part ∧ x.2.start = e.start
        (e.urgent ≠ f.1 → WritesSreg s (exec f.2 s) d (code 3) 1 sw) ∧
        (e.urgent = f.1 → behind → WritesSreg s (exec f.2 s) d (code 4) 1 sw) ∧
        (e.urgent = f.1 → ¬behind → e.start.toNat < s.time.toNat + 3000 → WritesSreg s (exec f.2 s) d (code 1) 1 sw) ∧
        (e.urgent = f.1 → ¬behind → s.time.toNat + 3000 ≤ e.start.toNat → (∀ n, n < 256 → Store.find n s.arms ≠ none) →
          WritesSreg s (exec f.2 s) d (code 2) 1 sw) ∧
        ∀ n, n < 256 → Store.find n s.arms = none → (∀ m, m < n → Store.find m s.arms ≠ none) → e.urgent = f.1 → ¬behind →
          s.time.toNat + 3000 ≤ e.start.toNat →
          ∃ u, exec f.2 s = .next u ∧ u.sreg h d = BitVec.ofNat 64 n ∧ Store.find n u.arms = some e ∧
            (∀ m, m ≠ n → Store.find m u.arms = Store.find m s.arms) ∧ u.part e.part = { s.part e.part with armed := some e.seq } ∧
            SameSregsBut d s u ∧ SameScc s u ∧ Passed s u 1 sw ∧ SameMemory s u ∧ SameOthers s u) ∧
    (∀ e, k ≤ 255 → Store.find k s.arms = some e →
      (s.time.toNat + 3000 ≤ e.start.toNat →
        ∃ u, exec (.switchCancel sw d a) s = .next u ∧ u.sreg h d = 1#64 ∧ Store.find k u.arms = none ∧
          (∀ m, m ≠ k → Store.find m u.arms = Store.find m s.arms) ∧ SameSregsBut d s u ∧ SameScc s u ∧
          Passed s u (Src.len a) sw ∧ SameMemory s u ∧ SameOthers s u) ∧
      (e.start.toNat < s.time.toNat + 3000 → WritesSreg s (exec (.switchCancel sw d a) s) d 0#64 (Src.len a) sw)) ∧
    ((255 < k ∨ Store.find k s.arms = none) → WritesSreg s (exec (.switchCancel sw d a) s) d 0#64 (Src.len a) sw)

/-- R245, R246, R383-R389, R396: the PART forms. CREATE installs the partition its block describes, its tables and
meters to be prepared, or answers −1, −2 or −3; DESTROY begins the end of a live one, each context of which is killed as by
KILL_CONTEXT: its teams end, its foals are cancelled or end; BITMAP replaces one bitmap, WAYS one fill mask or all, each
answering as the table says. That the units of a partition being created count as owned is log 14 (DEDUCED), that the usage record
of the creation begins at PART.CREATE's TIME is log 44 (DEDUCED), that WAYS raises ILLEGAL_OPERAND before −1 is log 98, and
that a misplaced buffer raises an exception is log 43. -/
def PartitionsAreMadeAndChanged : Prop :=
  ∀ (s : State) (sw : Bool) (d b : SReg) (a : Src), ThreadRuns s 2 → Src.scalOk a = true →
    let h := s.cur
    let len := Src.len a
    let A := (Src.scalar s h a).toNat
    let B := s.sreg h b
    let code := fun (n : Nat) => (BitVec.ofInt 64 (-(n : Int)) : DWord)
    let answers := fun (o : Out) (v : DWord) => WritesSreg s o d v len sw
    let kept := fun (u : State) => SameSregsBut d s u ∧ SameScc s u ∧ Passed s u len sw ∧ SameMemory s u ∧ SameOthers s u
    (∀ i ∈ ([.partCreate sw d b a, .partDestroy sw d a, .partWays sw d b a] : List Instr),
      A = 0 ∨ 63 < A → TakesException s (exec i s) 0x03 0#64) ∧
    (1 ≤ A → A ≤ 63 →
      let x := s.part A
      (x.live = true ∨ x.creating = true → answers (exec (.partCreate sw d b a) s) (code 1)) ∧
      (x.live = false → x.creating = false → B.toNat % 4096 = 0 → B.toNat + 2048 ≤ 0x12000000000 →
        let bs := s.physRead B.toNat 2048
        let p := blockPart bs
        (blockOk bs = false ∨ s.blockFits bs = false → answers (exec (.partCreate sw d b a) s) (code 3)) ∧
        (blockOk bs = true → s.blockFits bs = true → (∃ e ∈ s.owners, p.conflicts e.2 = true) →
          answers (exec (.partCreate sw d b a) s) (code 2)) ∧
        (blockOk bs = true → s.blockFits bs = true → (∀ e ∈ s.owners, p.conflicts e.2 = false) →
          ∃ u, exec (.partCreate sw d b a) s = .next u ∧ u.sreg h d = 0#64 ∧ kept u ∧
            u.part A = { p with det := x.det, fsrv := x.fsrv, creating := true, meters := x.meters,
                                usage := ⟨0, s.time, [], 0, 0, 0⟩ } ∧
            (∀ k, k < 576 → u.fillMask A k = BitVec.ofNat 16 (recNat bs (0x300 + 2 * k) 2)) ∧
            ∀ e, e ∈ u.tlb ↔ e ∈ s.tlb ∧ e.part ≠ A)) ∧
      (x.live = false → x.creating = false → answers (exec (.partDestroy sw d a) s) (code 1)) ∧
      ((x.live = true ∨ x.creating = true) → s.coresOf A = [] →
        ∃ u, exec (.partDestroy sw d a) s = .next (State.done (State.setSreg (State.sweep u) h d 0#64) h len sw) ∧
          u.part A = { x with pens := [], switch := none, destroying := true } ∧ ∀ e ∈ u.arms, e.2.part ≠ A) ∧
      ((x.live = true ∨ x.creating = true) →
        ∃ u, exec (.partDestroy sw d a) s =
            .next (State.done (State.setSreg ((s.coresOf A).foldl State.renewImage (State.sweep u)) h d 0#64) h len sw) ∧
          (u.part A).pens = [] ∧ (u.part A).switch = none ∧ (u.part A).destroying = true ∧ (∀ e ∈ u.arms, e.2.part ≠ A) ∧
          ∀ c ∈ s.coresOf A,
            (∀ e ∈ s.wgsOn c, ∀ t ∈ s.liveTeams (s.wg e.1), (u.ctx t).kind = .absent) ∧
            ∀ k f, s.foalAt k = some f → k / 256 = c → f.live = true →
              ∃ f', u.foalAt k = some f' ∧ (f'.canreq = true ∨ f'.live = false)) ∧
      (B.toNat % 2 ^ 10 < 576 ∨ B.toNat % 2 ^ 10 = 0x3FF → B.toNat < 2 ^ 32 → B.extractLsb' 10 6 = 0#6 → x.live = false →
        answers (exec (.partWays sw d b a) s) (code 1)) ∧
      (SoundMemory s → B.toNat % 2 ^ 10 < 576 ∨ B.toNat % 2 ^ 10 = 0x3FF → B.toNat < 2 ^ 32 → B.extractLsb' 10 6 = 0#6 →
        x.live = true →
        let all := decide (B.toNat % 2 ^ 10 = 0x3FF)
        let k := B.toNat % 2 ^ 10
        ∃ u, exec (.partWays sw d b a) s = .next u ∧ kept u ∧
          u.sreg h d = BitVec.ofNat 64 (s.fillMask A (if all then 0 else k)).toNat ∧
          ∀ j, j < 576 → u.fillMask A j = if all ∨ j = k then B.extractLsb' 16 16 else s.fillMask A j)) ∧
    (∀ p kind, A = p + 256 * kind → 1 ≤ p → p ≤ 63 → kind < 4 → B.toNat % 64 = 0 → B.toNat + 128 ≤ 0x12000000000 →
      let m := ((List.range 128).map fun i => (s.homeByte ⟨B.toNat + i, none⟩).toNat * 2 ^ (8 * i)).sum
      let o := exec (.partBitmap sw d b a) s
      let x := s.part p
      let w := if kind = 0 then 144 else if kind = 1 then 768 else if kind = 2 then 48 else 24
      let owns := fun (y : Partition) (i : Nat) => if kind = 0 then y.clusters.getLsbD i else if kind = 1 then y.pchan.getLsbD i
        else if kind = 2 then y.ceng.getLsbD i else y.ports.getLsbD i
      let runs := fun (e : Nat × Foal) => e.2.live = true ∧ e.2.origin.part = p
      let used := fun (i : Nat) =>
        if kind = 0 then (∃ e ∈ s.cores, e.2.part = p ∧ e.1 < 2304 ∧ clusterOf e.1 = i) ∨
          ∃ e ∈ s.foals, runs e ∧ e.1 / 256 < 2304 ∧ clusterOf (e.1 / 256) = i
        else if kind = 1 then ∃ r ∈ ([(x.penbase, x.penbytes), (x.ctxbase, x.ctxbytes), (x.ulogbase, 5120 * x.ulogn),
            (x.gtbase, 8192 * x.gtcount)] : List (Nat × Nat)), ∃ j, j < r.2 ∧ (r.1 + j) / 0x60000000 = i
        else if kind = 2 then ∃ e ∈ s.foals, runs e ∧ ∃ j, e.2.job = .coll j ∧ j.engine = i
        else ∃ f ∈ (s.port i).buffer, f.isJob = true ∧ f.part.toNat = p
      let taken := ∃ i, i < w ∧ m.testBit i = true ∧ owns x i = false ∧
        ∃ e ∈ s.parts, e.1 ≠ p ∧ (e.2.live = true ∨ e.2.creating = true) ∧ owns e.2 i = true
      let busy := ∃ i, i < w ∧ owns x i = true ∧ m.testBit i = false ∧ used i
      (x.live = false → answers o (code 1)) ∧ (x.live = true → 2 ^ w ≤ m → answers o (code 3)) ∧
      (x.live = true → m < 2 ^ w → taken → answers o (code 2)) ∧
      (x.live = true → m < 2 ^ w → ¬taken → busy → answers o (code 4)) ∧
      (x.live = true → m < 2 ^ w → ¬taken → ¬busy →
        ∃ u, o = .next u ∧ u.sreg h d = 0#64 ∧ kept u ∧ u.part p = x.setBitmap kind m ∧
          ∀ i, i < w → owns (u.part p) i = m.testBit i)) ∧
    (63 < A % 256 ∨ A % 256 = 0 ∨ 2 ^ 10 ≤ A → TakesException s (exec (.partBitmap sw d b a) s) 0x03 0#64)

end Sys2Proof.Claims

/-- Timetable entries are armed and cancelled; partitions are created, changed and destroyed: `SwitchesAreArmed` and
`PartitionsAreMadeAndChanged`. -/
def Obligations.SwitchesAndPartitions : Prop :=
  Sys2Proof.Claims.SwitchesAreArmed ∧ Sys2Proof.Claims.PartitionsAreMadeAndChanged

namespace Sys2Proof.Claims

/-- A hart stops at what it stands at: a team with a precise trap, a thread with an exception (R53, R231). -/
def StopsHart (s : State) (o : Out) (code : TrapCode) (val : DWord) : Prop :=
  ((s.ctx s.cur).kind = .team → TrapsTeam s o code 0#1024) ∧
    ((s.ctx s.cur).kind = .thread → TakesException s o code.num val)

/-- The other harts stand as they stood. -/
def HartsStay (s t : State) (h : Nat) : Prop :=
  ∀ k, k ≠ h → t.ctx k = s.ctx k ∧ t.team k = s.team k ∧ t.thread k = s.thread k

/-- A team at a boundary traps there (R158, R369, R370): its record names the next instruction, which keeps the lanes
that a RETRY left it. -/
def TrapsAtBoundary (s : State) (o : Out) (h : Nat) (x : Team) (code : TrapCode) (addr : DWord) : Prop :=
  ∃ t r, o = .next t ∧ t.ctx h = { s.ctx h with status := .trapped } ∧
    t.team h = { x with trap := some r, flane := 0#1024, stalled := none, walked := [], unsent := true } ∧
    (r.code, r.pc, r.widx, r.addr, r.time) = (code, (s.ctx h).pc, (s.ctx h).widx, addr, s.time) ∧
    r.handle = some (BitVec.ofNat 64 ((s.serial + 1).toNat + 2 ^ 32 * s.pkg)) ∧ t.serial = s.serial + 1 ∧
    HartsStay s t h ∧ SameMemory s t

/-- Parks that end in the instruction's issuing again. -/
def Wait.issuesAgain : Wait → Prop
  | .header _ _ _ => False
  | .landed _ _ => False
  | .barrierPhase _ _ => False
  | .value _ _ _ _ _ _ => False
  | .tbar _ _ _ _ _ => False
  | .rctx _ _ _ => False
  | .tlbi => False
  | .server => False
  | _ => True

/-- A hart that is to issue or to fetch stops where it stands: a team with a precise trap at its word index, a thread with an
exception of value 0 (R53, R231, R370). Other teams of its sector may have waited the clock (R332). -/
def StopsInItsTurn (s : State) (o : Out) (code : TrapCode) : Prop :=
  let h := s.cur
  let c := s.ctx h
  let x := s.thread h
  ∃ t, o = .next t ∧ SameVregs s t ∧ SameMemory s t ∧
    (∀ k, k ≠ h → t.ctx k = s.ctx k ∧ t.thread k = s.thread k ∧ (∀ r, r < 128 → t.vreg k r = s.vreg k r) ∧
      ∃ n b, t.team k = { s.team k with waited := n, yielded := b }) ∧
    (c.kind = .team → ∃ r, t.ctx h = { c with status := .trapped } ∧ (t.team h).trap = some r ∧
      (r.code, r.pc, r.widx, r.addr, r.lanes, r.time) = (code, c.pc, c.widx, 0#64, 0#1024, s.time) ∧
      r.handle = some (BitVec.ofNat 64 ((s.serial + 1).toNat + 2 ^ 32 * s.pkg)) ∧ t.serial = s.serial + 1) ∧
    (c.kind = .thread →
      t.thread h = { x with epc := c.pc, eidx := BitVec.ofNat 4 c.widx, ecause := BitVec.ofNat 64 code.num, eval := 0#64,
                            plev := x.level, pie := x.ie, ie := false, bytes := [] } ∧
      t.ctx h = { c with pc := x.evec, widx := 0, clause := none, status := .ready })

/-- R12-R14, R20, R25-R28: the hart that may issue, without a clause, fetches the whole clause at its pc
and stands at its word 0; a team parks there while the header's waits are not met, and a header with YP reloads its
watchdog and, in normal mode, prefers another ready team in the next clock, in deterministic mode passes the turn on (R336). A
header that breaks its form, or a pc that is no multiple of 4, is an ILLEGAL_CLAUSE. A word whose OP is
reserved is an ILLEGAL_OPCODE of the hart that stands at it and may issue; of any other hart it is nothing. -/
def ClausesAreFetchedAndChecked : Prop :=
  ∀ (s : State) (hl ls : List Loc) (w : Word), SoundMemory s →
    let h := s.cur
    let c := s.ctx h
    let x := s.team h
    let bits := fun (hi lo : Nat) => w.toNat / 2 ^ lo % 2 ^ (hi + 1 - lo)
    let good : Prop := c.pc.toNat % 4 = 0 ∧ bits 31 24 = 0xA5 ∧ bits 23 14 = 0 ∧ bits 3 0 ≠ 0
    (s.mayIssue h = true → c.clause = none → c.widx = 0 → s.codeLocs h c.pc 4 = .ok hl → s.codeWords h hl = [w] →
        (¬ good → StopsInItsTurn s (exec .clauseFetch s) .illegalClause) ∧
        (good → s.codeLocs h (c.pc + 4#64) (4 * bits 3 0) = .ok ls →
          let ldw := bits 8 6
          let stw := bits 11 9
          let waits : Prop := c.kind = .team ∧ ¬ ((ldw = 7 ∨ x.loads ≤ ldw) ∧ (stw = 7 ∨ x.stores ≤ stw) ∧
            (bits 12 12 = 1 → s.regFoal h = false))
          let yp : Prop := c.kind = .team ∧ bits 13 13 = 1
          ∃ t cl, exec .clauseFetch s = .next t ∧ (t.ctx h).clause = some cl ∧ cl.words = s.codeWords h ls ∧
            cl.cls = [Cls.gen, .mem, .foal, .sys].getD (bits 5 4) .gen ∧ (t.ctx h).pc = c.pc ∧ (t.ctx h).widx = 0 ∧
            (t.ctx h).status = (if waits then .parked (.header ldw stw (decide (bits 12 12 = 1))) else .ready) ∧
            t.team h = { x with wdleft := if yp then 2 ^ (s.wgOf h).launch.wdlim else x.wdleft,
                                yielded := if waits then false else if yp ∧ s.det h = false then true else x.yielded,
                                waited := if waits then 0 else x.waited,
                                withheld := if waits then false else x.withheld } ∧
            (c.kind = .team → s.det h = true → (s.core (s.coreOf h)).part ≠ 0 →
              Store.get 0 (t.core (s.coreOf h)).turn x.sector = s.orderKey h + if waits ∨ yp then 1 else 0) ∧
            SameSregs s t ∧ SameScc s t ∧ SameVregs s t ∧ SameMemory s t ∧ SameOthers s t)) ∧
      (s.mayIssue h = true → c.standsAt w = true → bits 30 24 = 0 ∨ 0x61 ≤ bits 30 24 →
        StopsInItsTurn s (exec (.reservedOpcodeIssue w) s) .illegalOpcode) ∧
      (s.mayIssue h = false ∨ c.standsAt w = false → exec (.reservedOpcodeIssue w) s = .next s)

/-- R53, R118, R125, R231, R369, R375: a park whose reason has cleared ends and its instruction issues again, a park
at a header with the clause entered, and a park whose reason has not cleared stays; a sleep of no clocks left ends; a
reached deadline is disarmed and traps, its address field naming TIMERA and lateness, and one held at 2^64 - 1 never
fires (R124); the watchdog traps at 0; a thread with IE = 1 that is not in the middle of a misaligned access takes its oldest
event. What the end of a park for TLBI.SYNC retranslates is log 72 (DEDUCED). -/
def ParksEndAndBoundariesTrap : Prop :=
  ∀ (s : State) (h : Nat),
    let c := s.ctx h
    let x := s.team h
    (∀ w, c.status = .parked w → (c.kind = .thread ∨ s.mayGo h = true) →
      (s.parkClear h w = false → exec (.parkResume h) s = .next s) ∧
      (s.parkClear h w = true → Wait.issuesAgain w →
        ∃ t, exec (.parkResume h) s = .next t ∧ t.ctx h = { c with status := .ready } ∧ t.team h = x ∧ HartsStay s t h ∧
          SameMemory s t) ∧
      (s.parkClear h w = true → (∃ a b m, w = .header a b m) →
        ∃ t, exec (.parkResume h) s = .next t ∧
          t.ctx h = { c with status := .ready, clause := c.clause.map fun k => { k with entered := true } } ∧ t.team h = x ∧
          HartsStay s t h ∧ SameMemory s t) ∧
      (s.parkClear h w = true → w = .tlbi →
        exec (.parkResume h) s = .next (State.retranslateAll (s.setCtx h { c with status := .ready })))) ∧
    (s.parkClear h .marker = true ↔ x.loads = 0 ∧ x.stores = 0 ∧ s.regFoal h = false) ∧
    (x.sleep = 1 →
      ∃ t, exec (.sleepEnd h) s = .next t ∧ t.team h = { x with sleep := 0 } ∧ t.ctx h = c ∧ HartsStay s t h ∧
        SameMemory s t) ∧
    (x.timerHeld = true → x.timera = none → exec (.timerFire h) s = .next s) ∧
    (c.kind = .team → c.status ≠ .trapped → s.mayGo h = true →
      (x.wdleft = 0 → TrapsAtBoundary s (exec (.watchdogExpire h) s) h x .watchdog 0#64) ∧
      (x.wdleft ≠ 0 → x.poison = [] →
        (∀ d, x.timer = some d → x.timerHeld = false → d ≤ x.rclock →
          TrapsAtBoundary s (exec (.timerFire h) s) h { x with timer := none, sleep := 0 } .timer 0#64) ∧
        (∀ d, (∀ e, x.timer = some e → x.timerHeld = true ∨ x.rclock < e) → x.timera = some d → d ≤ s.time →
          TrapsAtBoundary s (exec (.timerFire h) s) h { x with timera := none, late := false, sleep := 0 } .timer
            (if x.late then 3#64 else 1#64)))) ∧
    ∀ e r, c.kind = .thread → c.status = .ready ∨ c.status = .parked .halt → (s.thread h).ie = true →
      (s.thread h).bytes = [] → (s.thread h).events = e :: r →
      ∃ t, exec (.controlEventException h) s = .next t ∧
        t.thread h = { s.thread h with
                       events := r, epc := c.pc, eidx := BitVec.ofNat 4 c.widx, ecause := BitVec.ofNat 64 e.1, eval := e.2,
                       plev := (s.thread h).level, pie := true, ie := false } ∧
        t.ctx h = { c with pc := (s.thread h).evec, widx := 0, clause := none, status := .ready } ∧ HartsStay s t h ∧
        SameMemory s t

end Sys2Proof.Claims

/-- Clauses are fetched and checked; parks end; deadlines, the watchdog and events trap at a boundary:
`ClausesAreFetchedAndChecked` and `ParksEndAndBoundariesTrap`. -/
def Obligations.FetchParksAndBoundaryTraps : Prop :=
  Sys2Proof.Claims.ClausesAreFetchedAndChecked ∧ Sys2Proof.Claims.ParksEndAndBoundariesTrap

namespace Sys2Proof.Claims

/-- A value of n bytes stands in its destination (R161, R167, R169). -/
def LandedIn (s t : State) (h lane : Nat) (d : Dest) (sext : Bool) (n v : Nat) : Prop :=
  let m := (n + 3) / 4
  (∀ r, d = .scalar r → t.sreg h (BitVec.ofNat 6 r) = BitVec.ofNat 64 v) ∧
    (∀ r, d = .vec r → r + m ≤ 128 → ∀ j, j < m →
      (t.vreg h (r + j)).lane lane =
        (if sext = true ∧ j = 0 then (if n = 1 then (BitVec.ofNat 8 v).signExtend 32 else (BitVec.ofNat 16 v).signExtend 32)
         else BitVec.ofNat 32 (v / 2 ^ (32 * j)))) ∧
    ((∀ b, d = .vec b → b + m ≤ 128) → ∀ g r l, r < 128 → l < 1024 →
      (g ≠ h ∨ l ≠ lane ∨ ∀ b, d = .vec b → r < b ∨ b + m ≤ r) → (t.vreg g r).lane l = (s.vreg g r).lane l)

/-- R19, R156, R159, R163, R164: a load's return for one lane lands the bytes of the scratchpad, or those the core,
the die or the home serves, and the lane is no longer outstanding; with its last lane the request leaves the load
count. Of a lane whose bytes are read in parts the next part is read, and the last one lands them all. That a scratchpad load takes
its value at its LOAD_RETURN is log 22 (DEDUCED). -/
def LoadReturnsLand : Prop :=
  ∀ (s : State) (h id : Nat) (r : Req) (q : LaneReq),
    let x := s.team h
    let rest := r.todo.filter fun z => z.lane != q.lane
    SoundMemory s → x.req id = some r → (x.reqs.map Req.id).Nodup → r.kind = .load → r.back = [] → q ∈ r.todo →
    (r.todo.map LaneReq.lane).Nodup → q.lane < 1024 → x.clearFor r q = true →
    let lands := fun (bs : List Byte) => ∃ t : State,
      exec (.loadReturn h id (1#1024 <<< q.lane)) s = .next (t.afterPart h) ∧ SameMemory s t ∧
      (q.after bs = none → LandedIn s t h q.lane r.dest r.sext q.bytes.length (leNat (q.read ++ bs)) ∧
        (t.team h).req id = if rest = [] then none else some { r with todo := rest }) ∧
      ∀ q', q.after bs = some q' →
        (t.team h).req id = some { r with todo := r.todo.map fun z => if z.lane = q.lane then q' else z } ∧
        (∀ g i, t.sreg g i = s.sreg g i) ∧ ∀ g i, i < 128 → t.vreg g i = s.vreg g i
    (r.space = .scratch → lands (q.next.map fun b => s.spByte x.wg b.pa)) ∧
    ∀ s' bs, r.space = .global →
      s.fetchBytes (s.coreOf h) (s.wgOf h).launch.part x.fresh r.reach q.next = .got s' bs false → lands bs

/-- R156, R162, R164, R165, R169, R170, R302: the home performs the next lane of a store, or its next part, or of an
atomic once the team's earlier accesses to its bytes and its causal predecessors are performed: exactly its bytes
change. A lane of a scratchpad store is performed, and a store that the home has applied in every lane is
acknowledged: the request leaves the store count. That a scratchpad store is performed lane by lane at its STORE_ACKs is log 22
(DEDUCED), and that a write waits for the writes its die had read when it was issued (`depsOpen`) is log 21. -/
def WritesAreAppliedAndAcknowledged : Prop :=
  ∀ (s : State) (h id : Nat) (r : Req),
    let x := s.team h
    let left := fun (q : LaneReq) (rest : List LaneReq) => (q.after (q.nextPlaced.map (·.2))).toList ++ rest
    x.req id = some r → (x.reqs.map Req.id).Nodup → SoundMemory s →
    (∀ q rest, r.space = .global → r.todo = q :: rest → r.quiet = false → x.before id .global q.bytes = [] →
      s.depsOpen r.deps = false →
      (r.kind = .store →
        ∃ (t : State) (ap : List (Nat × Nat)), exec (.homeWriteApply h id q.lane) s = .next (t.afterPart h) ∧
          StoresBytes s t q.nextPlaced ∧ ap.map (·.1) = linesOf q.next ∧
          (t.team h).req id = some { r with todo := left q rest, applied := r.applied ++ ap }) ∧
      (∀ op line, r.kind = .atom op → q.bytes.any s.homePoison = false → (∀ b ∈ q.bytes, b.pa / 128 = line) →
        let old := leNat (q.bytes.map s.homeByte)
        ∃ t : State, exec (.homeWriteApply h id q.lane) s = .next (t.afterPart h) ∧
          StoresBytes s t (q.bytes.zip (leBytes q.bytes.length (op.apply old q.data q.data2))) ∧
          (t.team h).req id = some { r with todo := rest, back := r.back ++ [(q.lane, some old)] }) ∧
      (∀ op, r.kind = .red op →
        let old := leNat (q.bytes.map s.homeByte)
        ∃ t : State, exec (.homeWriteApply h id q.lane) s = .next (t.afterPart h) ∧
          StoresBytes s t (q.bytes.zip (leBytes q.bytes.length (op.apply old q.data q.data2))) ∧
          (t.team h).req id = some { r with todo := rest })) ∧
    (r.kind = .store → r.back = [] → r.space = .global → r.todo = [] →
      ∃ t : State, exec (.storeAck h id) s = .next (t.afterPart h) ∧
        (t.team h).reqs = x.reqs.filter (fun y => y.id != id) ∧ SameMemory s t) ∧
    (∀ q rest b, r.kind = .store → r.back = [] → r.space = .scratch → r.todo = q :: rest → x.clearFor r q = true →
      q.next.head? = some b →
      ∃ t : State, exec (.storeAck h id) s = .next (t.afterPart h) ∧
        (t.team h).req id = (if left q rest = [] then none else some { r with todo := left q rest }) ∧
        (∀ l, t.homeByte l = s.homeByte l) ∧
        (∀ i, i < q.next.length → t.spByte x.wg (b.pa + i) = BitVec.ofNat 8 (q.data / 2 ^ (8 * (q.read.length + i)))) ∧
        ∀ g o, g * 2 ^ 20 + o < x.wg * 2 ^ 20 + b.pa ∨ x.wg * 2 ^ 20 + b.pa + q.next.length ≤ g * 2 ^ 20 + o →
          t.spByte g o = s.spByte g o)

end Sys2Proof.Claims

/-- Load returns land, and the home performs and acknowledges writes: `LoadReturnsLand` and
`WritesAreAppliedAndAcknowledged`. -/
def Obligations.LoadsAndWritesArePerformed : Prop :=
  Sys2Proof.Claims.LoadReturnsLand ∧ Sys2Proof.Claims.WritesAreAppliedAndAcknowledged

namespace Sys2Proof.Claims

/-- R300, R377, R395: an invalidation that reaches a die takes its older guest copy away, unless the die has a store
of its own to the line that is not acknowledged and that the home has not applied before; a line on its way is filled, behind
those that fill one of its sets and missed before it (log 88), and no byte at a home changes; a completed walk enters the caches
of its core and its cluster (the oldest entry of a full one leaves: log 60), a fault enters none, and every access of the die that
waits for the page has the result, a fault included; a walk that is tracked and not among the 128 in progress does not
complete. -/
def CopiesAreFilledAndInvalidated : Prop :=
  ∀ (s : State),
    (∀ die i, s.invals.find? (fun j => j.die == die) = some i →
      (s.guestLine die i.line = none → exec (.guestInvalidation die) s = .next { s with invals := s.invals.erase i }) ∧
      ∀ k x, s.guestLine die i.line = some (k, x) →
        (i.seq < x.filled → exec (.guestInvalidation die) s = .next { s with invals := s.invals.erase i }) ∧
        (x.filled ≤ i.seq → (∀ r ∈ s.dieReqs die, r.holds i.line i.seq = false) →
          exec (.guestInvalidation die) s = .next { s with invals := s.invals.erase i, l2 := Store.erase k s.l2 }) ∧
        (x.filled ≤ i.seq → (∃ r ∈ s.dieReqs die, r.holds i.line i.seq = true) →
          exec (.guestInvalidation die) s =
            .next { s with invals := s.invals.erase i, l2 := Store.put k { x with stale := true } s.l2 })) ∧
    (∀ k f, s.fills[k]? = some f → (∃ g ∈ s.fills.take k, g.meets f = true) → exec (.lineFill k) s = .next s) ∧
    (∀ k f, s.fills[k]? = some f → (∀ g ∈ s.fills.take k, g.meets f = false) → SoundMemory s →
      ∃ t, exec (.lineFill k) s = .next t ∧ t.fills = s.fills.eraseIdx k ∧ SameMemory s t ∧
        (f.guest = none → (s.victim f.owner (homeSlice ⟨128 * f.line, f.pin⟩) (setOf ⟨128 * f.line, f.pin⟩)).isSome →
          (t.homeLine f.line).isSome = true)) ∧
    ∀ core part (va : Addr),
      let page := va.toNat / 2 ^ 16
      let die := dieOfCore core
      let o := exec (.translationWalkComplete core part va) s
      ((part, page) ∈ s.misses die → (part, page) ∉ s.walksRunning die → o = .next s) ∧
      (((part, page) ∈ s.misses die → (part, page) ∈ s.walksRunning die) → (s.teams.map (·.1)).Nodup → va.toNat < 2 ^ 55 →
        let gives := fun (t : State) (w : Walked) =>
          w.vpage = page ∧ w.stamp = s.nextId + 1 ∧
          (∀ h, t.team h = if dieOfCore (s.coreOf h) = die ∧ (s.wgOf h).launch.part = part ∧ page ∈ (s.team h).awaits then
              { s.team h with
                walked := w :: (s.team h).walked.filter (fun x => x.vpage != page),
                stalled := if (s.team h).awaits.filter (· != page) = [] then none
                  else some (.walks ((s.team h).awaits.filter (· != page)) (s.team h).since) }
            else s.team h) ∧
          (SoundMemory s → SameMemory s t) ∧ (t.ctxs, t.vregs, t.wgs) = (s.ctxs, s.vregs, s.wgs)
        (∀ e, walk s part va.toNat = .error e → ∃ t w, o = .next t ∧ t.tlb = s.tlb ∧ w.err = some e ∧ gives t w) ∧
        ∀ p, walk s part va.toNat = .ok p →
          let n := if p.base / 2 ^ 16 < page % runPages p.run then 1 else runPages p.run
          let e : TlbEntry :=
            { cluster := false, unit := core, part := part, vpage := page - page % n, pages := n,
              ppage := p.base / 2 ^ 16 - page % n, r := p.r, w := p.w, x := p.x, pin := p.pin }
          ∃ t w, o = .next t ∧ w.err = none ∧ w.page = p ∧ gives t w ∧
            t.tlb = keepTlb true (core / 16) 8192
              (keepTlb false core 512 ({ e with cluster := true, unit := core / 16 } :: e :: s.tlb)) ∧
            t.cached core part page =
              some { base := p.base / 2 ^ 16 * 2 ^ 16, r := p.r, w := p.w, x := p.x, pin := p.pin, run := 0 })

/-- R173, R174, R216: a lane copy lands: its bytes and zeros after them stand in scratchpad, zeros alone where a
poisoned line was read, and the copy is no longer outstanding. -/
def LaneCopiesLand : Prop :=
  ∀ (s s' : State) (h : Nat) (c : LaneCopy) (bs : List Byte) (pois : Bool),
    let x := s.team h
    x.copies.find? (fun y => y.id == c.id) = some c → (∀ r ∈ x.before c.id .global c.src, r.shown = true) →
    x.before c.id .scratch (spLocs c.dst c.n) = [] → bs.length ≤ c.n →
    ((∀ e ∈ s.foalsOf h, e.2.live = true → e.2.job ≠ .batch c.slot) ∨ ∃ y ∈ x.copies, y.slot = c.slot ∧ y.id ≠ c.id) →
    s.fetchBytes (s.coreOf h) (s.wgOf h).launch.part x.fresh .near c.src = .got s' bs pois →
    ∃ t : State, exec (.laneCopyLand h c.id) s = .next (t.afterPart h) ∧ (t.team h).copies = x.copies.filter (fun y => y.id != c.id) ∧
      (∀ i, i < c.n → t.spByte x.wg (c.dst + i) = if pois = true then 0#8 else bs.getD i 0#8) ∧
      ∀ g o, g * 2 ^ 20 + o < x.wg * 2 ^ 20 + c.dst ∨ x.wg * 2 ^ 20 + c.dst + c.n ≤ g * 2 ^ 20 + o →
        t.spByte g o = s.spByte g o

end Sys2Proof.Claims

/-- Cached copies are filled and invalidated; lane copies land: `CopiesAreFilledAndInvalidated` and `LaneCopiesLand`.
-/
def Obligations.CopiesInCachesAndLaneCopies : Prop :=
  Sys2Proof.Claims.CopiesAreFilledAndInvalidated ∧ Sys2Proof.Claims.LaneCopiesLand

namespace Sys2Proof.Claims

/-- R177, R183-R186, R281: when a block of an MMA completes, its 32 D registers take the block's dot products in the
block's 128 lanes, element (l mod 64, 32 (l / 64) + r) in lane l of register r, and no other lane of any register
changes; a tile op whose step reads a word with an uncorrectable error ends in FAULT with MEM_POISON and that word's
address, STEP the steps completed (R196; log 76); a foal's undeclared throttle ends once its run time has passed. -/
def MatrixStepsWriteTheirBlock : Prop :=
  ∀ (s : State) (core slot : Nat) (f : Foal),
    let k := foalKey core slot
    s.foalAt k = some f →
    (∀ j b, (s.core core).step = .running ∨ (∃ a o, (s.core core).step = .halting a o) → (s.core core).engine = some slot →
      f.job = .mma j → j.d + 32 ≤ 128 → j.next = b → b < 8 →
      ∃ t, exec (.matrixStep core) s = .next t ∧
        (∀ r l, r < 32 → l < 128 →
          (t.vreg f.team (j.d + r)).lane (128 * b + l) =
            BitVec.ofNat 32 (j.elem b (l % 64) (32 * (l / 64) + r) ((s.vreg f.team (j.d + r)).lane (128 * b + l)).toNat)) ∧
        ∀ h r l, r < 128 → l < 1024 →
          (h ≠ f.team ∨ r < j.d ∨ j.d + 32 ≤ r ∨ l < 128 * b ∨ 128 * b + 128 ≤ l) →
          (t.vreg h r).lane l = (s.vreg h r).lane l) ∧
    (∀ j a, (s.core core).step = .running → (s.core core).engine = some slot → f.job = .tmma j → f.live = true →
      j.readsWord a = true → (s.sramErrs.filter fun e => e.1 == core) = [(core, a)] →
      ∃ (u : State) (x : Foal), exec (.matrixStep core) s =
          .next (State.chooseStep (State.sweep (State.cancelMatrix (u.setCore core { u.core core with engine := none }) core))
            core false) ∧
        u.foalAt k = some x ∧ (x.status, x.fcode, x.faddr) = (.fault, some .memPoison, BitVec.ofNat 64 a) ∧
        u.spNat f.wg (j.rcdAddr + 0x1C) 4 = j.next % 2 ^ 32) ∧
    (f.throttle = some 0 →
      ∃ t, exec (.undeclaredThrottleEnd core slot) s = .next t ∧ t.foalAt k = some { f with throttle := none } ∧
        (∀ k', k' ≠ k → t.foalAt k' = s.foalAt k') ∧ SameMemory s t)

/-- R201, R205, R215, R268: the streamer issues the next sector of the copy it chooses, and no byte changes; a
sector's landing writes exactly its bytes and counts as progress, and one that is poisoned writes none; a write to
global memory waits for the writes that its die has read (R302), and a foal that has ended lands nothing; the next
iteration of a CPL takes a free slot, whose pages and a count of its sectors it takes with it. -/
def CopySectorsIssueAndLand : Prop :=
  ∀ (s : State) (core slot : Nat) (f : Foal) (j : CopyJob),
    let k := foalKey core slot
    slot < 256 → s.foalAt k = some f → f.job = .copy j → f.canreq = false → j.bad = none →
    (∀ x, s.copyChoice core = some (k, f) → j.form ≠ .ss → j.restart ≤ j.next → j.next ∉ j.ahead →
      (∀ y ∈ j.out, y.ord ≠ j.next) →
      s.readSector core f.origin.part f.wg (1024 * (s.wg f.wg).launch.spkib) (1024 * (s.wg f.wg).launch.spkib) j.form
        (s.iterRec f j) ((s.iterRec f j).sectorBytes j.next) ⟨[], [], [], j.idx, none⟩ = .ok x → SoundMemory s →
      ∃ t y, exec (.copySectorIssue core slot) s = .next t ∧
        (y.ord, y.global, y.wg, y.writes, y.poison) = (j.next, !j.form.dstScratch, f.wg, x.writes, x.poison) ∧
        t.foalAt k =
          some { f with started := true, job := .copy { j with next := j.next + 1, idx := x.idx, out := j.out ++ [y] } } ∧
        SameMemory s t) ∧
    (∀ n x, j.out.find? (fun y => y.ord == n) = some x → n ≤ j.restart + 64 → j.ring = none → j.tb = none →
      let r := advanceRestart 66 j.restart (n :: j.ahead)
      f.live = true → (x.global = true → s.engineMay k = true) →
      x.poison = none → r ≠ j.rcd.sectors → j.form = .gs ∨ j.form = .sg ∨ j.form = .gg →
      ∃ t, exec (.copySectorLand core slot n) s = .next t ∧
        t.foalAt k =
          some { f with
            progress := f.progress + 1,
            job := .copy { j with out := j.out.filter fun y => y.ord != n, restart := r,
                                  ahead := (n :: j.ahead).filter fun a => decide (r ≤ a) } } ∧
        (x.global = true → SoundMemory s → StoresBytes s t x.writes) ∧
        ∀ l b rest, x.global = false → x.writes = (l, b) :: rest →
          (∀ y, t.homeByte y = s.homeByte y) ∧
          (∀ i, i < x.writes.length → some (t.spByte x.wg (l.pa + i)) = x.writes[i]?.map (·.2)) ∧
          ∀ g o, g * 2 ^ 20 + o < x.wg * 2 ^ 20 + l.pa ∨ x.wg * 2 ^ 20 + l.pa + x.writes.length ≤ g * 2 ^ 20 + o →
            t.spByte g o = s.spByte g o) ∧
    (∀ n, f.live = false ∨ (∃ x, j.out.find? (fun y => y.ord == n) = some x ∧ x.global = true ∧ s.engineMay k = false) →
      exec (.copySectorLand core slot n) s = .next s) ∧
    ∀ q, j.ring = some q → j.inIter = false → s.startable f = true → s.released f = true → (s.core core).step = .running →
      (s.ring f.wg q).broken q = false → (s.ring f.wg q).free ≠ 0 →
      ∃ t y, exec (.cplIterationStart core slot) s = .next t ∧ t.foalAt k = some y ∧ y.started = true ∧
        y.job = .copy { j with inIter := true, rslot := (s.ring f.wg q).eng } ∧
        (∀ p ∈ regPages ((s.ring f.wg q).slot (s.ring f.wg q).eng), p ∈ y.pages ∧ p ∈ (t.wg f.wg).engPages) ∧
        ((s.ring f.wg q).slotTb (s.ring f.wg q).eng + 16 ≤ q ∨ q + 64 ≤ (s.ring f.wg q).slotTb (s.ring f.wg q).eng →
          t.ring f.wg q = { s.ring f.wg q with free := (s.ring f.wg q).free - 1 }) ∧
        ∀ l, t.homeByte l = s.homeByte l

end Sys2Proof.Claims

/-- Matrix steps write their block; copy sectors issue and land: `MatrixStepsWriteTheirBlock` and
`CopySectorsIssueAndLand`. -/
def Obligations.EnginesWriteTheirResults : Prop :=
  Sys2Proof.Claims.MatrixStepsWriteTheirBlock ∧ Sys2Proof.Claims.CopySectorsIssueAndLand

namespace Sys2Proof.Claims

/-- Port `p` is up and takes frame `f` as the next in order; every frame sent on it has been acknowledged by then. -/
def TakesFrame (s : State) (p : Nat) (f : Frame) : Prop :=
  s.portUp p = true ∧ f.headerOk = true ∧ f.lseq = (s.port p).nextIn ∧
    ∀ g ∈ (s.port p).buffer, (f.lack - g.lseq).toNat < 32768

/-- A job packet of a running job of a partition of this package, on a port of that partition (R361, R383). -/
def ForJob (s : State) (p : Nat) (f : Frame) : Prop :=
  let part := f.part.toNat
  TakesFrame s p f ∧ f.dstpkg.toNat = s.pkg ∧ (s.part part).live = true ∧ (s.part part).destroying = false ∧
    (s.part part).ports.getLsbD p = true ∧ f.inc.toNat = s.incarnation part f.job ∧ s.jobRuns part f.job f.inc.toNat = true

/-- Such a packet for a running collective whose context is not away. -/
def ForCollective (s : State) (p : Nat) (f : Frame) (k : Nat) (x : Foal) (j : CollJob) : Prop :=
  ForJob s p f ∧ s.collFor f = some (k, x) ∧ s.foalAt k = some x ∧ x.job = .coll j ∧ x.status = .running ∧
    s.collAway k x = false ∧ x.canreq = false ∧ j.recvd ≠ j.inTotal

end Sys2Proof.Claims

/-- R201, R218, R359-R361, R419: a collective sends its next chunk on a port of its partition; a chunk that comes out
of order is kept; an acknowledgement covers its chunk and every earlier one; a refusal takes the sender back to the
first chunk that is not acknowledged; a notice of a mismatch ends the collective in FAULT; a refused notice is sent
again 10 µs later. A packet sent carries SLOT as it stands at its injection. Each packet received in order counts on its
link. That the low 40 bits of CHUNK number the chunk, and the course of the chunks from each member to the next, are the model's
(log 15, DESIGN CHOICE). -/
def Obligations.CollectivePacketsAreSentAndReceived : Prop :=
  ∀ (s : State) (k : Nat) (x : Foal) (j : CollJob),
    (∀ core slot p b, k = foalKey core slot → slot < 256 → s.foalAt k = some x → x.job = .coll j → x.status = .running →
      x.canreq = false → j.complete = false → (∀ a ∈ j.arrived, a.1 ≠ j.recvd) → s.collReady k x = true →
      (∀ e ∈ s.foals, s.collReady e.1 e.2 = true → (∃ i, e.2.job = .coll i ∧ i.engine = j.engine) → e.1 = k) →
      j.ready.find? (fun y => y.1 == j.nextSend) = some (j.nextSend, b) →
      s.jobRoute (x.origin.part % 2 ^ 8) (j.nextMember % 2 ^ 16) = some p → s.portRoom p = true →
      ∃ t f, exec (.collChunkSend core slot) s = .next t ∧ t.msgs = .frame p f :: s.msgs ∧
        (f.cls, f.job, f.group, f.payload) = (1#8, x.origin.job, j.group, b) ∧
        f.chunk.toNat % 2 ^ 40 = j.nextSend % 2 ^ 40 ∧ f.dstpkg = BitVec.ofNat 16 j.nextMember ∧
        f.slot = (s.part f.part.toNat).slotSeq ∧
        (t.port p).buffer = (s.port p).buffer ++ [f] ∧
        t.foalAt k = some { x with started := true, job := .coll { j with nextSend := j.nextSend + 1 } } ∧ SameMemory s t) ∧
    (∀ p f, ForCollective s p f k x j → f.cls = 1#8 → j.recvd < f.chunkNo → (∀ a ∈ j.arrived, a.1 ≠ f.chunkNo ∧ a.1 ≠ j.recvd) →
      ∃ t, exec (.fabricChunkReceive p f) s = .next t ∧ (t.port p).nextIn = (s.port p).nextIn + 1#16 ∧
        t.foalAt k = some { x with job := .coll { j with arrived := j.arrived ++ [(f.chunkNo, f.desc, f.payload)] } } ∧
        SameMemory s t) ∧
    (∀ p f, ForCollective s p f k x j → f.cls = 2#8 → j.acked < min (f.chunkNo + 1) j.nextSend →
      let a := min (f.chunkNo + 1) j.nextSend
      ∃ t, exec (.fabricAckReceive p f) s = .next t ∧ (t.port p).nextIn = (s.port p).nextIn + 1#16 ∧
        t.foalAt k =
          some { x with job := .coll { j with acked := a, ready := j.ready.filter fun y => decide (a ≤ y.1) } } ∧
        SameMemory s t) ∧
    (∀ p f, ForCollective s p f k x j → f.cls = 3#8 → f.payload.head? = some 1#8 →
      ∃ t, exec (.fabricRefusalReceive p f) s = .next t ∧ (t.port p).nextIn = (s.port p).nextIn + 1#16 ∧
        t.foalAt k = some { x with job := .coll { j with nextSend := j.acked } } ∧ SameMemory s t) ∧
    (∀ p f, ForJob s p f → s.foalAt k = some x → x.job = .coll j → x.status = .running →
      (s.foals.Pairwise fun a b => a.1 < b.1) → f.cls = 6#8 → f.srcpkg.toNat ≠ s.pkg → f.chunk.toNat % 256 = 2 → j.tb = none →
      s.oldestColl f.part.toNat f.job f.group = some (k, x) → s.collAway k x = false → x.detached = false → x.level = .attached →
      (s.ctx x.team).kind = .team →
      ∃ t y, exec (.fabricNoticeReceive p f) s = .next t ∧ t.foalAt k = some y ∧ y.status = .fault ∧
        y.fcode = some .illegalOperand) ∧
    ∀ n r p, s.resends[n]? = some r → r.due ≤ s.time → r.frame.cls ≠ 2#8 → s.mayInject r.frame.part.toNat r.frame.job r.frame.inc.toNat = true →
      s.jobRoute r.frame.part.toNat r.frame.dstpkg.toNat = some p → s.portRoom p = true →
      ∃ t f, exec (.ackResendTimer n) s = .next t ∧ t.resends = s.resends.eraseIdx n ∧ t.msgs = .frame p f :: s.msgs ∧
        { f with lseq := r.frame.lseq, lack := r.frame.lack, slot := r.frame.slot } = r.frame ∧
        f.slot = (s.part r.frame.part.toNat).slotSeq ∧ SameMemory s t

namespace Sys2Proof.Claims

/-- R371, R415, R417-R419: an acknowledgement empties the retry buffer of what it covers; a frame with a bad checksum
is answered with LACK, and a bare acknowledgement with a broken header is dropped and counted; 5 µs without a LACK every
unacknowledged frame is sent again, in order, none of them retried 64 times yet; an enabled port comes up
with its sequences begun again (log 16); a frame for another package goes on by the route table, on a port with room, with one
hop more, and is dropped at the seventh; a trap record enters the trap queue; the answer to an RCTX, whose bytes are the model's
(log 13, DESIGN CHOICE), reaches the thread that waits for it. -/
def LinksAcknowledgeRetryAndForward : Prop :=
  ∀ (s : State) (p : Nat) (f : Frame),
    let x := s.port p
    (s.portUp p = true → f.headerOk = true → f.cls = 0#8 → (∀ g ∈ x.buffer, (f.lack - g.lseq).toNat < 32768) →
      ∃ t, exec (.linkAckFrameReceive p f) s = .next t ∧ (t.port p).buffer = [] ∧ (t.port p).retrying = false ∧
        t.msgs = s.msgs ∧ SameMemory s t) ∧
    (s.portUp p = true → f.headerOk = false → f.cls = 0#8 →
      exec (.linkAckFrameReceive p f) s = .next { s with msgs := .log 2 p :: s.msgs }) ∧
    (s.portUp p = true → exec (.badFcsFrameReceive p) s = .next { s with msgs := .lack p (x.nextIn - 1#16) :: s.msgs }) ∧
    (s.portUp p = true → x.buffer ≠ [] → (∀ n ∈ x.resent, n < 64) → x.since.toNat + 5000 ≤ s.time.toNat →
      ∃ t, exec (.linkRetryTimeout p) s = .next t ∧
        t.port p = { x with retrying := true, resent := x.resent.map (· + 1), since := s.time } ∧
        t.msgs = (x.buffer.map fun g => Msg.frame p g).reverse ++ s.msgs ∧ SameMemory s t) ∧
    (p < 24 → x.cfg.getLsbD 0 = true → x.linkup = false →
      ∃ t, exec (.portLinkUp p) s = .next t ∧ (t.port p).linkup = true ∧ (t.port p).nextIn = 0#16 ∧
        (s.stuck = [] → s.records = [] → x.buffer = [] →
          t.port p = { x with linkup := true, retrying := false, nextOut := 0#16, nextIn := 0#16, buffer := [], resent := [],
                               since := s.time })) ∧
    (TakesFrame s p f → f.dstpkg.toNat ≠ s.pkg → f.isJob = true →
      (f.hops.toNat < 6 → ∀ q, s.route f.dstpkg.toNat = some q → s.portRoom q = true →
        ∃ t g, exec (.frameForward p f) s = .next t ∧ t.msgs = .frame q g :: s.msgs ∧
          { g with lseq := f.lseq, lack := f.lack, hops := f.hops } = f ∧ g.hops = f.hops + 1#8 ∧ SameMemory s t) ∧
      (f.hops.toNat = 6 →
        ∃ t, exec (.frameForward p f) s = .next t ∧ t.msgs = .log 4 p :: s.msgs ∧ SameMemory s t)) ∧
    (TakesFrame s p f → f.dstpkg.toNat = s.pkg → f.cls = 4#8 →
      let hd : DWord := BitVec.ofNat 64 (leNat (f.payload.take 8))
      s.queued.contains hd = false → s.tqbase.toNat + 128 * s.tqsize.toNat ≤ hbmTop →
      (s.tqtail - s.tqhead).toNat + f.payload.length / 128 ≤ s.tqsize.toNat →
      ∃ t, exec (.trapRecordReceive p f) s = .next t ∧ t.queued = hd :: s.queued ∧
        t.tqtail = s.tqtail + BitVec.ofNat 64 (f.payload.length / 128) ∧ (t.port p).nextIn = x.nextIn + 1#16) ∧
    ∀ h req d n, TakesFrame s p f → f.dstpkg.toNat = s.pkg → f.cls = 5#8 → leNat (f.payload.take 1) = 4 →
      leNat ((f.payload.drop 1).take 1) = 0 → leNat ((f.payload.drop 32).take 8) = req →
      (s.ctxs.Pairwise fun a b => a.1 < b.1) → (s.ctx h).status = .parked (.rctx req d n) →
      (∀ g e m, (s.ctx g).status = .parked (.rctx req e m) → g = h) →
      ∃ t, exec (.trapReplyReceive p f) s = .next t ∧
        t.sreg h (BitVec.ofNat 6 d) = BitVec.ofNat 64 (leNat ((f.payload.drop 24).take 8)) ∧ (t.ctx h).status = .ready ∧
        (t.port p).nextIn = x.nextIn + 1#16 ∧ SameMemory s t

/-- R241, R370, R371: the record of a trapped resident team whose counts are 0 goes to the package FSRV names: into
this package's own trap queue at TQTAIL, where it has room, or on the first route port that is up, in a frame of class
4; a record whose fault server no way leads to is logged once and waits (log 48). -/
def FaultRecordsAreSent : Prop :=
  ∀ (s : State) (h : Nat) (r : TrapRec),
    let x := s.team h
    let w := s.wgOf h
    let dst := (s.part w.launch.part).fsrv
    let bytes := s.faultRecord (s.placeOf h) r false
    x.trap = some r → x.unsent = true → x.loads = 0 → x.stores = 0 → w.saved = none →
    bytes.length = 128 ∧
    (dst = s.pkg → (s.tqtail - s.tqhead).toNat < s.tqsize.toNat → SoundMemory s →
      let a := s.tqbase.toNat + 128 * (s.tqtail.toNat % s.tqsize.toNat)
      a + 128 ≤ hbmTop →
      ∃ t, exec (.faultRecordSend h) s = .next t ∧ t.tqtail = s.tqtail + 1#64 ∧ t.tqhead = s.tqhead ∧
        t.queued = r.handle.getD 0#64 :: s.queued ∧ (t.team h).unsent = false ∧ (t.team h).trap = some r ∧
        StoresBytes s t ((List.range 128).map fun i => ((⟨a + i, none⟩ : Loc), bytes.getD i 0#8)) ∧
        ∀ k, (t.thread k).events = (s.thread k).events ++
          (if (Store.find k s.threads).isSome then [(0x100, 0#64)] else [])) ∧
    (s.unreachable w.launch.part = true → r.logged = false →
      ∃ t, exec (.faultRecordSend h) s = .next t ∧ t.msgs = .log 9 dst :: s.msgs ∧ (t.team h).unsent = true ∧
        (t.team h).trap = some { r with logged := true } ∧ SameMemory s t) ∧
    ∀ p, dst ≠ s.pkg → s.unreachable w.launch.part = false → s.route dst = some p → s.portRoom p = true →
      ∃ t f, exec (.faultRecordSend h) s = .next t ∧ t.msgs = .frame p f :: s.msgs ∧ f.cls = 4#8 ∧
        f.dstpkg.toNat = dst % 2 ^ 16 ∧ f.payload = bytes ∧ (t.port p).buffer = (s.port p).buffer ++ [f] ∧
        (t.team h).unsent = false ∧ SameMemory s t

end Sys2Proof.Claims

/-- Links acknowledge, retry and forward; fault records are sent: `LinksAcknowledgeRetryAndForward` and
`FaultRecordsAreSent`. -/
def Obligations.LinksAndFaultRecords : Prop :=
  Sys2Proof.Claims.LinksAcknowledgeRetryAndForward ∧ Sys2Proof.Claims.FaultRecordsAreSent

namespace Sys2Proof.Claims

/-- Vector `v` of function `fn` fires, or is pending while masked (R413). -/
def RaisesVector (s t : State) (fn v : Nat) : Prop :=
  let x := s.vector fn v
  (x.masked = true → t.vector fn v = { x with pending := true } ∧ t.msgs = s.msgs) ∧
    (x.masked = false → t.vector fn v = x ∧ t.msgs = .msix fn v x.addr x.data :: s.msgs)

/-- Every thread has one event more pending (R231). -/
def RaisesEvent (s t : State) (code : Nat) (val : DWord) : Prop :=
  ∀ k, Store.find k s.threads ≠ none → (t.thread k).events = (s.thread k).events ++ [(code, val)]

/-- R344, R345, R413, R415: the messages of PTP on a port that runs it. A Sync on the parent's port gives the offset,
a Pdelay_Req is answered and followed up, a Pdelay_Resp with its follow-up gives the mean link delay, a Management
message has no effect, the interval timers, which run out 2^LSYNC and 2^LPDELAY s after the last message of their kind, send with
the settings PORTCFG then holds, no Sync to the parent; holdover drops the parent and is reported; a lock sets TIME at step 7 of a
cold start only, and at any other time the offset is slewed. That the port of the first Sync is the parent's is log 17 (DESIGN
CHOICE). -/
def PtpKeepsTime : Prop :=
  ∀ (s : State) (p : Nat) (m : PtpMsg) (tai : DWord),
    let x := s.ptpPort p
    let c := s.clock
    let cfg := (s.port p).cfg
    let takes : Prop := s.portUp p = true ∧ x.on = true ∧ x.domain = m.domain
    (takes → c.parent = none ∨ c.parent = some p →
      exec (.ptpSyncReceive p m) s = .next
        { s with clock := { c with parent := some p,
                                   offset := (m.origin : Int) + x.delay + (s.port p).asym.toInt / 65536 - m.ingress } }) ∧
    (takes → ∃ a b, exec (.ptpPdelayReqReceive p m) s = .next { s with msgs := .ptp p 4 b :: .ptp p 3 a :: s.msgs } ∧
      (a.seq, a.domain, a.reqReceipt) = (m.seq, m.domain, m.ingress) ∧ (b.seq, b.origin) = (m.seq, s.time.toNat)) ∧
    (takes → m.seq = x.reqSeq →
      ∃ t, exec (.ptpPdelayRespReceive p m) s = .next t ∧ t.ptpPort p = { x with pending := some m } ∧ SameMemory s t) ∧
    (∀ r, takes → x.pending = some r → m.seq = r.seq →
      ∃ t, exec (.ptpPdelayRespFollowUp p m) s = .next t ∧ SameMemory s t ∧
        t.ptpPort p = { x with pending := none,
                               delay := (((r.ingress : Int) - x.reqSent) - ((m.origin : Int) - r.reqReceipt)) / 2 }) ∧
    exec (.ptpManagementReceive p m) s = .next s ∧
    (s.portUp p = true → cfg.getLsbD 1 = true →
      let log := fun (lo : Nat) => if cfg.toNat / 2 ^ lo % 16 < 8 then 0 else 16 - cfg.toNat / 2 ^ lo % 16
      let now := { x with on := true, oneStep := cfg.getLsbD 2, domain := cfg.toNat / 8 % 128, sync := log 10, pdelay := log 14 }
      (x.syncAt.toNat + 1000000000 / 2 ^ x.sync ≤ s.time.toNat →
        (c.parent ≠ some p → ∃ t a, exec (.ptpSyncInterval p) s = .next t ∧
          (a.domain, a.seq, a.origin, a.oneStep) = (now.domain, x.syncSeq, s.time.toNat, cfg.getLsbD 2) ∧
          t.msgs = (if cfg.getLsbD 2 = true then [.ptp p 0 a] else [.ptp p 1 a, .ptp p 0 a]) ++ s.msgs ∧
          t.ptpPort p = { now with syncAt := s.time, syncSeq := (x.syncSeq + 1) % 65536 }) ∧
        (c.parent = some p → ∃ t, exec (.ptpSyncInterval p) s = .next t ∧ t.msgs = s.msgs ∧
          t.ptpPort p = { now with syncAt := s.time } ∧ SameMemory s t)) ∧
      (s.time.toNat < x.syncAt.toNat + 1000000000 / 2 ^ x.sync → exec (.ptpSyncInterval p) s = .next s) ∧
      (x.reqAt.toNat + 1000000000 / 2 ^ x.pdelay ≤ s.time.toNat →
        ∃ t a, exec (.ptpPdelayReqInterval p) s = .next t ∧ t.msgs = .ptp p 2 a :: s.msgs ∧
          (a.domain, a.seq, a.origin) = (now.domain, (x.reqSeq + 1) % 65536, s.time.toNat) ∧
          t.ptpPort p = { now with reqAt := s.time, reqSeq := (x.reqSeq + 1) % 65536, reqSent := s.time.toNat,
                                   pending := none }) ∧
      (s.time.toNat < x.reqAt.toNat + 1000000000 / 2 ^ x.pdelay → exec (.ptpPdelayReqInterval p) s = .next s)) ∧
    (c.holdover = false →
      ∃ t, exec .holdoverEnter s = .next t ∧ t.clock = { c with holdover := true, parent := none, offset := 0 } ∧
        t.time = s.time ∧ RaisesVector s t 0 2 ∧ RaisesEvent s t 0x101 0#64) ∧
    ∃ t, exec (.ptpLock tai) s = .next t ∧ t.clock.locked = true ∧ t.clock.holdover = false ∧
      (s.start.busy = true ∧ s.start.kind = 1 ∧ s.start.step = 6 ∧ c.locked = false → t.time = tai ∧ t.clock.offset = 0) ∧
      (¬(s.start.busy = true ∧ s.start.kind = 1 ∧ s.start.step = 6 ∧ c.locked = false) →
        t.time = s.time ∧ t.clock.offset = (tai.toNat : Int) - s.time.toNat) ∧
      (c.holdover = true → RaisesVector s t 0 2 ∧ RaisesEvent s t 0x101 0#64)

/-- R347-R349, R363: a candidate sends its heartbeat; a candidate's heartbeat makes its EPOCH known and names its
winner, and another package's has no effect; with the bellwether lost the next EPOCH is proposed; a package votes at
most once in an EPOCH and only above those it voted in, for the lowest candidate it still hears (fewer than 3
heartbeats missed: log 78); a candidate with more than half the pod's votes has won; a page that breaks R348, R349 or
R347 is logged, an accepted one can be armed from; the bellwether publishes an urgent entry 10 µs ahead (its SEQ is
the model's choice, log 18). That heartbeats of packages that are no candidates have no effect, and that votes are counted at a
candidate alone, is log 50. -/
def ElectionAndTimetableFollowTheirRules : Prop :=
  ∀ (s : State) (src epoch cand : Nat),
    let e := s.election
    let known : Prop := epoch ≤ e.epoch
    (s.pkg ∈ e.candidates → ∃ w, exec .heartbeatSend s = .next { s with msgs := .heartbeat e.epoch w :: s.msgs } ∧
      (w = some e.epoch ↔ e.winner = some s.pkg)) ∧
    (s.pkg ∉ e.candidates → exec .heartbeatSend s = .next s) ∧
    (src ∉ e.candidates → ∀ won, exec (.heartbeatReceive src epoch won) s = .next s) ∧
    (src ∈ e.candidates → ∃ t, exec (.heartbeatReceive src epoch none) s = .next t ∧ (src, s.time) ∈ t.election.heard ∧
      t.election.epoch = max e.epoch epoch ∧ t.election.winner = (if known then e.winner else none) ∧ SameMemory s t) ∧
    (src ∈ e.candidates → ∃ t, exec (.heartbeatReceive src epoch (some epoch)) s = .next t ∧
      (src, s.time) ∈ t.election.heard ∧
      t.election.epoch = max e.epoch epoch ∧ (e.epoch ≤ epoch → t.election.winner = some src) ∧ SameMemory s t) ∧
    (∃ t l, exec .heartbeatLoss s = .next t ∧ t.msgs = l ++ .voteRequest (e.epoch + 1) :: s.msgs ∧
      (∀ w v, e.winner = some w → (w, v) ∉ t.election.heard) ∧ e.epoch + 1 ≤ t.election.epoch) ∧
    (∀ x, (epoch ≤ e.voted → ∃ t, exec (.voteRequestReceive x epoch) s = .next t ∧ t.msgs = s.msgs ∧ t.election.voted = e.voted) ∧
      (e.voted < epoch → ∀ c, c ∈ e.candidates → c = s.pkg ∨ e.hears s.time c = true →
        (∀ d ∈ e.candidates, d = s.pkg ∨ e.hears s.time d = true → c ≤ d) →
        ∃ t, exec (.voteRequestReceive x epoch) s = .next t ∧ t.election.voted = epoch ∧ t.msgs = .vote epoch c :: s.msgs)) ∧
    (cand = s.pkg → s.pkg ∈ e.candidates → src ∈ e.pod → e.voteEpoch = epoch → src ∉ e.votes → e.epoch ≤ epoch →
      ∃ t, exec (.voteReceive src epoch cand) s = .next t ∧ t.election.votes = src :: e.votes ∧
        (e.pod.length < 2 * (e.votes.length + 1) → t.election.winner = some s.pkg ∧ t.election.epoch = epoch)) ∧
    (∀ pa bs, (s.pageOk bs = false →
        ∃ t, exec (.timetablePageReceive pa bs) s = .next t ∧ t.pages = s.pages ∧
          RaisesVector { s with msgs := .log 5 pa :: s.msgs } t 0 1 ∧ RaisesEvent s t 0x101 0#64 ∧ SameMemory s t) ∧
      (s.pageOk bs = true → pa + 16384 ≤ hbmTop → SoundMemory s →
        ∃ t, exec (.timetablePageReceive pa bs) s = .next t ∧ (⟨pa, pageEntries bs⟩ : TPage) ∈ t.pages ∧
          (∀ q, q.pa ≠ pa → (q ∈ t.pages ↔ q ∈ s.pages)) ∧ RaisesVector s t 0 1 ∧ RaisesEvent s t 0x101 0#64 ∧
          StoresBytes s t ((List.range 16384).map fun i => ((⟨pa + i, none⟩ : Loc), bs.getD i 0#8)))) ∧
    ∀ part job (inc : BitVec 8) (len : Word), e.winner = some s.pkg → part < 256 →
      ∃ t bs, exec (.urgentRequestReceive part job inc len) s = .next t ∧ t.msgs = .page bs :: s.msgs ∧ bs.length = 16384 ∧
        recNat bs 0 4 = 0x54544247 ∧ recNat bs 4 4 = e.epoch % 2 ^ 32 ∧ recNat bs 0x0A 1 = 1 ∧
        recNat bs 0x20 8 = (s.time.toNat + 10000) % 2 ^ 64 ∧ recNat bs 0x28 4 = job.toNat ∧ recNat bs 0x30 4 = len.toNat ∧
        recNat bs 0x34 1 = part ∧ recNat bs 0x35 1 = 1 ∧ recNat bs 0x36 1 = inc.toNat

end Sys2Proof.Claims

/-- PTP keeps TIME; the election and the timetable follow their rules: `PtpKeepsTime` and
`ElectionAndTimetableFollowTheirRules`. -/
def Obligations.TimeElectionAndTimetable : Prop :=
  Sys2Proof.Claims.PtpKeepsTime ∧ Sys2Proof.Claims.ElectionAndTimetableFollowTheirRules

namespace Sys2Proof.Claims

/-- A usage record of a kind has been closed (R402-R404): its 256 bytes stand in the partition's log, the next record
follows it in the chain, its event and vector 0 of the partition's function are raised. -/
def ClosesRecord (s t : State) (part kind : Nat) (e : Option TEntry) : Prop :=
  let u := (s.part part).usage
  let bs := s.usageBytes part kind e
  let a := (s.part part).ulogbase + 5120 * (u.seq % (s.part part).ulogn)
  (t.part part).usage.seq = u.seq + 1 ∧ (t.part part).usage.tend = s.time ∧ bs.length = 256 ∧
    (∀ i, i < 256 → t.homeByte ⟨a + i, none⟩ = bs.getD i 0#8) ∧
    (∀ l, l.pa < a ∨ a + 5120 ≤ l.pa → t.homeByte l = s.homeByte l) ∧ RaisesEvent s t 0x102 0#64 ∧ RaisesVector s t part 0

/-- R351-R355, R357, R358, R360, R367, R373, R386: injection stops 2 µs before START; at START the outgoing contexts begin
their halt and the entry is in force (the times of a START that comes late, after the switch before it, count from the TIME
at which it is carried out: log 52, DEDUCED); a halt that is complete (of a timetable switch: on every core of the partition) opens the drain
window and freezes started copies; its close increments CGEN and starts the save; a completed save moves the context
to the lowest free image slot; a restore brings it to a core that can take it, or kills what fails its digest; the
overrun's hold ends; what has not halted after 20 µs is killed; a core with too many teams that wait for the fault
server is switched out. -/
def SwitchesHaltSaveAndRestore : Prop :=
  ∀ (s : State) (core part n : Nat),
    let c := s.core core
    let p := s.part part
    let vc := virtualCore part n
    (∀ k e, Store.find k s.arms = some e → e.start.toNat ≤ s.time.toNat + 2000 →
      ∃ t, exec (.injectionStop k) s = .next t ∧ t.arms = s.arms ∧ SameMemory s t ∧
        ∀ d ∈ s.residents e.part, ¬(d.2.job = e.job ∧ d.2.inc = e.inc) → (d.2.job, d.2.inc) ∈ (t.part e.part).stops) ∧
    (∀ k e, Store.find k s.arms = some e → s.startDue e = true → e.part ≠ 0 →
      (∃ d ∈ s.residents e.part, ¬(d.2.job = e.job ∧ d.2.inc = e.inc) ∧ d.2.step = .running) →
      ∃ t, exec (.switchStart k) s = .next t ∧ t.arms = Store.erase k s.arms ∧ (t.part e.part).force = some ⟨e, false, false⟩ ∧
        SameMemory s t ∧
        ∀ d, d < coreCount → (s.core d).part = e.part → (s.core d).step = .running →
          ¬((s.core d).job = e.job ∧ (s.core d).inc = e.inc) →
          (t.core d).step = .halting (if e.start < (s.part e.part).switched then s.time else e.start) false) ∧
    (∀ start out, c.step = .halting start out → s.haltDone core out = false → exec (.haltComplete core) s = .next s) ∧
    (∀ start out, c.step = .halting start out → s.haltDone core out = true → (s.cores.Pairwise fun a b => a.1 < b.1) →
      (s.foals.Pairwise fun a b => a.1 < b.1) →
      ∃ t, exec (.haltComplete core) s = .next t ∧ (t.core core).step = .draining start s.time out ∧
        ∀ k f j, k / 256 = core → s.foalAt k = some f → f.job = .copy j → f.kind = .copy → f.started = true →
          f.status = .running → f.canreq = false → f.dep = none → ∃ y, t.foalAt k = some y ∧ y.status = .frozen) ∧
    (∀ start halted out, c.step = .draining start halted out → halted.toNat + 2000 ≤ s.time.toNat →
      (s.cores.Pairwise fun a b => a.1 < b.1) →
      ∃ t, exec (.drainWindowClose core) s = .next t ∧ (t.core core).cgen = c.cgen + 1#32 ∧
        (t.core core).step = .saving start halted s.time none out) ∧
    (∀ start halted closed landed out, c.step = .saving start halted closed landed out → core < coreCount → c.part = part →
      s.saveReady core = true → s.wgsOn core ≠ [] → n < p.slots → p.image n = none → (∀ m, m < n → p.image m ≠ none) →
      (∀ w, p.switch = some w → w.record = false) → p.ctxbase + p.ctxbytes ≤ hbmTop →
      (s.wgs.Pairwise fun a b => a.1 < b.1) →
      ∃ t x, exec (.contextSaveComplete core) s = .next t ∧ (t.part part).image n = some x ∧
        (x.state, x.job, x.inc, x.cgen, x.core, x.halted, x.out) = (2, c.job, c.inc, c.cgen, core, halted, out) ∧
        (t.core core).part = 0 ∧ (t.core vc).job = c.job ∧
        ∀ g w, Store.find g s.wgs = some w → w.core = core → (t.wg g).core = vc ∧ (t.wg g).saved = some n) ∧
    (∀ x, p.image n = some x → p.ctxbase + p.ctxbytes ≤ hbmTop → SoundMemory s → (s.wgs.Pairwise fun a b => a.1 < b.1) →
      ∀ i ∈ ([.contextRestore part n core, .coreSwitchIn part n core] : List Instr),
        (i = .contextRestore part n core → s.mayRestore part n core = true) →
        (i = .coreSwitchIn part n core → s.maySwitchIn part n core = true) →
        (s.imageOk part n = true →
          ∃ t, exec i s = .next t ∧ (t.part part).image n = none ∧
            ∀ g w, Store.find g t.wgs = some w → (s.wg g).core = vc → (Store.find g s.wgs).isSome → w.core = core ∧ w.saved = none) ∧
        (s.imageOk part n = false → ∃ t, exec i s = .next t ∧ ∀ h ∈ s.teamsOn vc, (t.ctx h).kind = .absent)) ∧
    (∀ d, c.hold = some d → d ≤ s.time →
      ∃ t, exec (.overrunHoldEnd core) s = .next t ∧ t.core core = { c with hold := none } ∧ SameMemory s t) ∧
    (∀ d, core < coreCount → (core, c) ∈ s.cores → c.part = part → c.step = .halting d false → d.toNat + 20000 ≤ s.time.toNat →
      s.halted core = false → (s.wgs.Pairwise fun a b => a.1 < b.1) →
      ∃ t, exec (.switchWatchdogExpire part) s = .next t ∧ ∀ h ∈ s.teamsOn core, (t.ctx h).kind = .absent) ∧
    (core < coreCount → c.part ≠ 0 → c.step = .running →
      s.parkth.toNat * (s.teamsOn core).length <
        100 * ((s.teamsOn core).filter fun h => (s.ctx h).status == .trapped || (s.ctx h).status == .parked .server).length →
      ∃ t, exec (.coreSwitchOut core) s = .next t ∧ t.core core = { c with step := .halting s.time true } ∧ SameMemory s t)

/-- R351, R402: when a slot has come to its end its record closes and the context runs on; a partition that runs
without entries closes a record every 100 ms. -/
def SlotsAndPeriodsCloseRecords : Prop :=
  ∀ (s : State) (part : Nat),
    let p := s.part part
    p.ulogbase + 5120 * p.ulogn ≤ hbmTop → 0 < p.ulogn → p.usage.prev.length ≤ 64 → SoundMemory s →
    (∀ f, p.force = some f → p.live = true → f.ended = false →
      (f.entry.start + BitVec.ofNat 64 f.entry.len.toNat) ≤ s.time →
      (∀ x ∈ s.arms, x.2.part = part → x.2.start ≠ f.entry.start + BitVec.ofNat 64 f.entry.len.toNat) →
      ∃ t, exec (.slotEnd part) s = .next t ∧ (t.part part).force = some { f with ended := true, closed := true } ∧
        (f.closed = false → ClosesRecord s t part 2 (some f.entry)) ∧ ∀ c, t.core c = s.core c) ∧
    (p.live = true → s.time.toNat % 100000000 = 0 → p.usage.tend < s.time → (∀ f, p.force = some f → f.ended = true) →
      ∃ t, exec (.usageRecordPeriodic part) s = .next t ∧ ClosesRecord s t part 2 none)

end Sys2Proof.Claims

/-- Switches halt, save and restore; slots and periods close usage records: `SwitchesHaltSaveAndRestore` and
`SlotsAndPeriodsCloseRecords`. -/
def Obligations.SwitchesAndSlots : Prop :=
  Sys2Proof.Claims.SwitchesHaltSaveAndRestore ∧ Sys2Proof.Claims.SlotsAndPeriodsCloseRecords

namespace Sys2Proof.Claims

/-- R274, R277, R282, R284, R285: at each multiple of 10 µs, once, every cluster takes its new temperature band, boost
allowance and throttle level (the measured energy against its budget in use), and FSTEP moves by at most 4 and does not rise
while throttled; a granted window begins and ends at its times. That the throttle follows the band and the factor F which this
boundary gives is log 53 (DEDUCED). -/
def BoundariesSetBandsAndThrottle : Prop :=
  ∀ (s : State) (m : Measure),
    (s.time.toNat % 10000 = 0 → s.control.boundary ≠ s.time →
      ∃ t, exec (.controlIntervalBoundary m) s = .next t ∧ t.control = s.control.next m.power s.time ∧ SameMemory s t ∧
        ∀ k, k < 144 →
          let c := s.cluster k
          let d := t.cluster k
          let band := nextBand c.tband (measured m.temp k)
          d.tband = band ∧ d.cbudget = c.cbudget ∧ d.istep = c.istep ∧
            d.boost = (if 68 < c.fstep then c.boost - 5 * (c.fstep - 68) else if c.thr = 0 then min 50000 (c.boost + 2)
                       else c.boost) ∧
            (20 ≤ c.fstep → d.fstep ≤ c.fstep + 4 ∧ c.fstep ≤ d.fstep + 4 ∧ (d.thr ≠ 0 → d.fstep ≤ c.fstep)) ∧
            (s.limited = false →
              let e := measured m.energy k
              let b := 1250 * ((if band = 7 then c.cbudget / 2 else c.cbudget) * t.control.f16 / 16)
              d.thr = (if band = 7 ∨ 3 * b < 2 * e then 4 else if 5 * b < 4 * e then 3 else if b < e then 2 else 0))) ∧
    (s.time.toNat % 10000 ≠ 0 ∨ s.control.boundary = s.time → exec (.controlIntervalBoundary m) s = .next s) ∧
    ∀ h x, (s.team h).power = some x → x.kept = false →
      (x.state = 2 → x.start ≤ s.time →
        ∃ t, exec (.powerWindowStart h) s = .next t ∧ t.team h = { s.team h with power := some { x with state := 3 } } ∧
          HartsStay s t h ∧ SameMemory s t) ∧
      (x.state = 3 → x.start.toNat + 1000 * x.len ≤ s.time.toNat →
        ∃ t, exec (.powerWindowEnd h) s = .next t ∧ t.team h = { s.team h with power := none } ∧ HartsStay s t h ∧
          SameMemory s t)

/-- The declarations of a cluster's teams, with the team's hart and base priority; a halt returns those of its context (R287). -/
def declarations (s : State) (k : Nat) : List (Nat × Nat × PowerDecl) :=
  (s.clusterTeams k).filterMap fun e => match e.2.power with
    | some p => if p.kept = true then none else some (e.1, e.2.prio, p)
    | none => none

/-- Summed units of the declarations that meet a condition; a declaration of intensity i has i + 1 units (R275). -/
def unitsOf (l : List (Nat × Nat × PowerDecl)) (c : PowerDecl → Bool) : Nat :=
  ((l.filter fun e => c e.2.2).map fun e => e.2.2.intensity + 1).sum

/-- Units held: those of granted windows that have not ended (R275, R277). -/
def unitsHeld (s : State) (k : Nat) : Nat :=
  unitsOf (declarations s k) fun p => decide (2 ≤ p.state) && decide (s.time.toNat < p.start.toNat + 1000 * p.len)

/-- A declaration comes before another at a boundary: aged ones first, oldest first, then by base priority, then oldest first
(R276). -/
def ComesBefore (a b : Nat × Nat × PowerDecl) : Prop :=
  (16 ≤ a.2.2.wait ∧ (b.2.2.wait < 16 ∨ a.2.2.t0 < b.2.2.t0)) ∨
    (a.2.2.wait < 16 ∧ b.2.2.wait < 16 ∧ (b.2.1 < a.2.1 ∨ (a.2.1 = b.2.1 ∧ a.2.2.t0 < b.2.2.t0)))

/-- R276, R277, R279, R285: what a boundary grants in a cluster. An extension of a window that has not ended is granted whole
or refused with XREF. A pending declaration is granted, its window beginning at max(T0 + o, B + 2 µs), or has waited one
boundary more; the first of the order is granted exactly when its units fit the budget and ISTEP in use; whatever is granted
leaves the held units within the budget, and nothing is granted behind an aged declaration that waits and that the budget could
hold. The budgets in use are those under the factor F of this boundary (log 53, DEDUCED). -/
def BoundariesGrantDeclarations : Prop :=
  ∀ (s : State) (m : Measure) (k h prio : Nat) (x : PowerDecl),
    s.time.toNat % 10000 = 0 → s.control.boundary ≠ s.time → k < 144 → (s.teams.Pairwise fun a b => a.1 < b.1) →
    (h, prio, x) ∈ declarations s k →
    ∃ t, exec (.controlIntervalBoundary m) s = .next t ∧
      let c := t.cluster k
      let cb := if c.tband = 7 then c.cbudget / 2 else c.cbudget
      let budget := cb * t.control.f16 / 16
      let istep := max 1 (c.istep * t.control.f16 / 16)
      let units := x.intensity + 1
      let now := s.time.toNat
      let holdsBack := fun (y : PowerDecl) => y.state = 1 ∧ 16 ≤ y.wait ∧ y.intensity + 1 ≤ budget
      let granted := fun (g : Nat) => ∃ y, (t.team g).power = some y ∧ y.state = 2
      let start := max (x.t0.toNat + 1000 * x.onset) (now + 2000)
      let begins := unitsOf (declarations s k) fun p => decide (2 ≤ p.state) && p.start.toNat / 10000 == start / 10000
      (∀ n, 2 ≤ x.state → x.ext = some n → now < x.start.toNat + 1000 * x.len →
        let fits : Prop := (∀ y ∈ declarations s k, ¬holdsBack y.2.2) ∧ x.doomed = false ∧ unitsHeld s k ≤ cb ∧
          x.start.toNat + 1000 * (x.len + n) - max x.start.toNat now ≤ 65535000
        (fits → t.team h = { s.team h with power := some { x with len := x.len + n, ext := none } }) ∧
        (¬fits → t.team h = { s.team h with power := some { x with ext := none, doomed := false }, xref := true })) ∧
      (2 ≤ x.state → x.ext = none → t.team h = s.team h) ∧
      (x.state = 1 → x.ext = none →
        (t.team h = { s.team h with power := some { x with state := 2, start := BitVec.ofNat 64 start } } ∨
          t.team h = { s.team h with power := some { x with wait := min 255 (x.wait + 1) } }) ∧
        (granted h → unitsHeld t k ≤ budget) ∧
        ((∀ y ∈ declarations s k, y.1 ≠ h → y.2.2.state = 1 → ComesBefore (h, prio, x) y) →
          (granted h ↔ unitsHeld s k + units ≤ budget ∧ begins + units ≤ istep)) ∧
        ∀ y ∈ declarations s k, holdsBack y.2.2 → y.2.2.ext = none → ComesBefore y (h, prio, x) → ¬granted y.1 → ¬granted h)

end Sys2Proof.Claims

/-- The boundaries of the control interval: `BoundariesSetBandsAndThrottle` and `BoundariesGrantDeclarations`. -/
def Obligations.PowerIsControlledAtBoundaries : Prop :=
  Sys2Proof.Claims.BoundariesSetBandsAndThrottle ∧ Sys2Proof.Claims.BoundariesGrantDeclarations

namespace Sys2Proof.Claims

/-- At QUEUE_POP the monitor chooses a packet of a partition that is served (R321, R322): in state `u` it has found the turn
`x`, and READ and DEFICIT of the queue are at the places `ls`. -/
def Chooses (s : State) (part : Nat) (u : State) (x : Turn) (ls : List Loc) : Prop :=
  (s.part part).live = true ∧ (s.part part).destroying = false ∧ SoundMemory u ∧
    (∃ r ts, (s.pruneTokens part).turns part (List.range (s.part part).queues.length) = (r, ts) ∧
      r.roundRobin part (topPrio ts) (ts.filter fun y => y.q.prio == topPrio ts) (64 * 257) = (u, some x)) ∧
    translateBytes u none part ((u.part part).queueAddr x.ix + 0x10#64) 16 .write = .ok ls ∧ (ls.map Loc.pa).Nodup

/-- READ of the queue of a turn is one on, and its DEFICIT less the cost of the packet, or 0 where the queue is empty now. -/
def MovesRead (u t : State) (x : Turn) (ls : List Loc) : Prop :=
  let k := Packet.ofBytes x.bytes
  let cost := if k.kind = 1 ∨ k.kind = 2 then min k.grid 4096 else 1
  StoresBytes u t (ls.zip (leBytes 8 (x.q.read + 1#64).toNat ++
    leBytes 8 (if x.q.write = x.q.read + 1#64 then 0 else x.q.deficit - cost)))

/-- ERR is set in the descriptor of a queue, and vector 2 of the partition's function raised (R318, R320). -/
def SetsErr (v t : State) (part i : Nat) : Prop :=
  RaisesVector v t part 2 ∧ ∀ l, translateBytes v none part ((v.part part).queueAddr i + 0x0F#64) 1 .readWrite = .ok [l] →
    translateBytes v none part ((v.part part).queueAddr i + 0x0F#64) 1 .write = .ok [l] → SoundMemory v →
    StoresBytes v t [(l, v.homeByte l ||| 2#8)]

/-- A signal word is written for a packet of queue `i`, or, where its address is neither 0 nor one that can be written, ERR is
set (R318, R319). -/
def Signals (v t : State) (part i : Nat) (k : Packet) (status reason : Nat) : Prop :=
  (k.signal = 0#64 → SameMemory v t) ∧
    (k.signal ≠ 0#64 → k.signal.toNat % 8 = 0 → SoundMemory v →
      ∀ sl, translateBytes v none part k.signal 8 .write = .ok sl →
        StoresBytes v t (sl.zip (leBytes 8 (status + 2 ^ 8 * reason + 2 ^ 32 * k.launch.toNat)))) ∧
    (k.signal ≠ 0#64 → (k.signal.toNat % 8 ≠ 0 ∨ ∃ e, translateBytes v none part k.signal 8 .write = .error e) →
      SetsErr v t part i)

/-- Why a packet takes no entry: STATUS and REASON of its signal word (R318, R327). -/
def TurnedAway (u : State) (part : Nat) (bs : List Byte) (status reason : Nat) : Prop :=
  let k := Packet.ofBytes bs
  let valid : Prop := packetZeros bs = true ∧ k.fields = true ∧ k.kind ≤ 2
  let fits : Prop := k.teams * k.width * k.vregs * 4 ≤ 1048576 ∧ k.teams * k.width ≤ 4096 ∧ k.teams ≤ 16 ∧ k.spkib ≤ 1024 ∧
    (u.part part).clusters ≠ 0#144
  let held : Prop := ∃ e ∈ u.entities, e.2.part = part ∧ e.2.level = .launch ∧ e.2.id = k.launch
  let orphan : Prop := k.parent ≠ 0#64 ∧
    ¬∃ y, Store.find k.parent.toNat u.entities = some y ∧ y.part = part ∧ y.level = .launch
  let dropped : Prop := ∃ c ∈ (u.part part).tokens, k.idAt c.level = c.id ∧ c.id ≠ 0#32
  (packetZeros bs = false ∧ (status, reason) = (3, 1)) ∨
    (packetZeros bs = true ∧ k.fields = false ∧ (status, reason) = (3, 2)) ∨
    (valid ∧ dropped ∧ (status, reason) = (2, 0)) ∨
    (valid ∧ ¬dropped ∧ ¬fits ∧ (status, reason) = (3, 3)) ∨
    (valid ∧ ¬dropped ∧ fits ∧ held ∧ (status, reason) = (3, 4)) ∨
    (valid ∧ ¬dropped ∧ fits ∧ ¬held ∧ orphan ∧ (status, reason) = (3, 5))

/-- R317, R318, R321-R324, R326, R327, R330: a popped packet has READ moved on in its queue. A launch or range packet that passes
its checks opens an entity with all its workgroups to place, with its parent and its entities of higher level, and a range's
pieces in a chain from LO to HI; a child of a cancelled parent is cancelled at once. A signal packet holds its queue; a cancel
marker starts the cancel as CNT.CNCL does. A packet that a check rejects or a token drops takes no entry: its signal word says
so, or ERR is set, and where it is the child of a live launch that counts one less. -/
def PacketsArePopped : Prop :=
  ∀ (s : State) (part : Nat) (u : State) (x : Turn) (ls : List Loc), Chooses s part u x ls →
    let k := Packet.ofBytes x.bytes
    let checks : Prop := ¬∃ status reason, TurnedAway u part x.bytes status reason
    let opened : Entity := { Entity.blank with part := part, level := .launch, id := k.launch, job := k.job,
                                               counter := BitVec.ofNat 64 k.grid }
    let asGiven := fun (rec : LaunchRec) =>
      rec.desc = k.desc part x.q.prio (u.part part).det ∧ rec.waiting = List.range k.grid ∧ rec.signal = k.signal ∧
        rec.queue = x.ix ∧ rec.popped = u.time ∧ rec.owned = (u.part part).clusters ∧ rec.killed = false ∧
        rec.parent = (if k.parent = 0#64 then none else some k.parent.toNat) ∧
        (k.kind = 1 → rec.pieces = []) ∧
        (k.kind = 2 → rec.pieces.length = k.grid ∧ rec.pieces.map (·.1) ++ [k.hi] = k.lo :: rec.pieces.map (·.2))
    (k.kind = 1 ∨ k.kind = 2 → checks → k.parent = 0#64 ∨ (u.entity k.parent.toNat).cancelled = false →
      ∃ t e rec, exec (.queuePop part) s = .next t ∧ MovesRead u t x ls ∧ asGiven rec ∧
        t.entity e = { opened with launch := some rec } ∧ e ∈ ((t.part part).qst x.ix).live ∧
        ((u.entities.Pairwise fun a b => a.1 < b.1) → (∀ y ∈ u.entities, y.1 < u.nextId) →
          rec.above.length = k.groups.length ∧
          ∀ (i : Nat) (g : Level × Word) (a : Nat), k.groups[i]? = some g → rec.above[i]? = some a →
            ((t.entity a).part, (t.entity a).level, (t.entity a).id) = (part, g.1, g.2) ∧
            (t.entity a).counter = (match u.findEntity part g.1 g.2 with
              | some b => (u.entity b).counter + 1#64
              | none => 1#64))) ∧
    (k.kind = 1 ∨ k.kind = 2 → checks → k.parent ≠ 0#64 → (u.entity k.parent.toNat).cancelled = true →
      k.parent.toNat < u.nextId →
      ∃ v e rec, exec (.queuePop part) s = .next ((State.cancelWhole v e).pruneTokens part) ∧ MovesRead u v x ls ∧ asGiven rec ∧
        v.entity e = { opened with launch := some rec }) ∧
    (k.kind = 3 → checks →
      ∃ t, exec (.queuePop part) s = .next t ∧ MovesRead u t x ls ∧ ((t.part part).qst x.ix).held = some (k.signal, k.args) ∧
        ∀ e, t.entity e = u.entity e) ∧
    (k.kind = 4 → checks →
      ∃ v, exec (.queuePop part) s = .next ((State.cancelStart v part k.level (k.idAt k.level)).pruneTokens part) ∧
        MovesRead u v x ls ∧ ∀ e, v.entity e = u.entity e) ∧
    ∀ status reason, TurnedAway u part x.bytes status reason →
      let parent := k.parent.toNat
      let child : Prop := (k.kind = 1 ∨ k.kind = 2) ∧ k.parent ≠ 0#64 ∧
        ∃ y, Store.find parent u.entities = some y ∧ y.part = part ∧ y.level = .launch
      ∃ v w, MovesRead u v x ls ∧ (∀ e, v.entity e = u.entity e) ∧ v.msgs = u.msgs ∧
        Signals v w part x.ix k status reason ∧
        (¬child → exec (.queuePop part) s = .next (w.pruneTokens part) ∧ ∀ e, w.entity e = u.entity e) ∧
        (child → exec (.queuePop part) s = .next ((State.sweep w).pruneTokens part) ∧
          (w.entity parent).counter = (u.entity parent).counter - 1#64 ∧ ∀ e, e ≠ parent → w.entity e = u.entity e)

/-- R319, R320, R323: a signal packet's word is written once all before it has ended; a queue that could not be read is tried
again at each millisecond. -/
def HeldSignalsAreWritten : Prop :=
  ∀ (s : State) (part : Nat),
    let p := s.part part
    (∀ i va v x ls, (p.qst i).held = some (va, v) → (p.qst i).live = [] → s.seeQueue part i = .queue x → x.qflags < 2 →
      va ≠ 0#64 → translateBytes s none part va 8 .write = .ok ls → SoundMemory s →
      ∃ t, exec (.signalPacketWrite part i) s = .next t ∧ StoresBytes s t (ls.zip (leBytes 8 v.toNat)) ∧
        (t.part part).qst i = { p.qst i with held := none }) ∧
    (s.time.toNat % 1000000 = 0 →
      ∃ t, exec (.queueTranslationRetry part) s = .next t ∧ SameMemory s t ∧
        ∀ i, i < p.queues.length → (t.part part).qst i =
          (match s.seeQueue part i with
           | .dark => p.qst i
           | .broken => { p.qst i with blind := false }
           | .queue _ => { p.qst i with blind := false })) ∧
    (s.time.toNat % 1000000 ≠ 0 → exec (.queueTranslationRetry part) s = .next s)

end Sys2Proof.Claims

/-- Packets are popped and signal words written: `PacketsArePopped` and `HeldSignalsAreWritten`. -/
def Obligations.PacketsArePoppedAndSignalsWritten : Prop :=
  Sys2Proof.Claims.PacketsArePopped ∧ Sys2Proof.Claims.HeldSignalsAreWritten

/-- R52, R59, R60, R66, R70, R288, R328, R411: the next workgroup of a launch becomes resident on a core that can accept it and has power,
with all its teams: each ready at the launch's code, s[0] to s[2] holding ARGS, WGIX and TEAMIX, every other scalar 0,
EXEC full. Its scratchpad takes the lowest free 64 KiB steps of the core's SRAM, and exactly the L1 lines in them are
invalidated (log 40, DEDUCED; how the L1 lies in the steps is log 9, DESIGN CHOICE); the core keeps CGEN (log 30, DEDUCED). That
teams which have ended count for what a core can accept until their workgroup retires is log 90 (DESIGN CHOICE). -/
def Obligations.WorkgroupsArePlacedWhole : Prop :=
  ∀ (s : State) (e core w : Nat) (rest : List Nat) (r : LaunchRec),
    let x := s.entity e
    let p := s.part x.part
    let d := r.desc
    x.launch = some r → r.waiting = w :: rest → p.live = true → p.destroying = false → p.switch = none →
    (∀ f, p.force = some f → f.entry.job = d.job) → s.coreFree core x.part = true → s.coreAccepts core d = true →
    s.dieWanted x.part core r.map w = true →
    let g := s.nextId
    ∃ t rec, exec (.workgroupPlace e core) s = .next t ∧ (t.entity e).launch = some rec ∧ rec.waiting = rest ∧
      ((t.wg g).core, (t.wg g).wgix, (t.wg g).entity, (t.wg g).saved) = (core, w, e, none) ∧ (t.wg g).launch = d ∧
      (t.wg g).teams.length = d.teams ∧ (t.wg g).barriers = [] ∧ (t.wg g).engPages = [] ∧
      (t.wg g).steps = (s.freeSteps core).take (d.spkib / 64) ∧
      (∀ y, y ∈ t.l1 ↔ y ∈ s.l1 ∧ (y.1 / 2 ^ 45 ≠ core ∨ y.2.step ∉ (t.wg g).steps)) ∧
      (t.core core).cgen = (s.core core).cgen ∧ (s.core core).step = (t.core core).step ∧ (x.part ≠ 0 → (t.core core).part = x.part) ∧
      ∀ i, i < d.teams → ∃ h, (t.wg g).teams[i]? = some h ∧
        ((t.ctx h).kind, (t.ctx h).status, (t.ctx h).pc, (t.ctx h).widx, (t.ctx h).clause) = (.team, .ready, d.code, 0, none) ∧
        (t.ctx h).scc = false ∧
        (∀ n, t.sreg h n = if n = 0#6 then d.args else if n = 1#6 then BitVec.ofNat 64 w else if n = 2#6 then BitVec.ofNat 64 i
                           else 0#64) ∧
        ((t.team h).wg, (t.team h).teamix, (t.team h).width, (t.team h).vregs) = (g, i, d.width, d.vregs) ∧
        (∀ l, l < 1024 → (t.team h).exec.getLsbD l = decide (l < d.width)) ∧ (t.team h).prio = min d.prio d.ceil ∧
        (t.team h).wdleft = 2 ^ d.wdlim ∧ (t.team h).depth = 0 ∧ (t.team h).flags = 0#5 ∧ (t.team h).reqs = []

namespace Sys2Proof.Claims

/-- Where a leaf of a partition's stage-2 tables for a page of a size may stand: a level 3 entry for 64 KiB, a level 2 entry that
leads to no table for 512 MiB (R390, R392). -/
def LeafPlace (s : State) (part pa size : Nat) : Prop :=
  let root := (s.part part).s2root
  ∃ i j, i < 8192 ∧ j < 8192 ∧ isTable (s.home64 (root + 8 * i)) = true ∧
    let two := entryAddr true (s.home64 (root + 8 * i)) + 8 * j
    (size = 2 ^ 29 ∧ pa = two ∧ isTable (s.home64 two) = false) ∨
      (size = 65536 ∧ isTable (s.home64 two) = true ∧ ∃ k, k < 8192 ∧ pa = entryAddr true (s.home64 two) + 8 * k)

/-- Where an entry of a partition's stage-2 tables stands, at any level. -/
def TablePlace (s : State) (part pa : Nat) : Prop :=
  let root := (s.part part).s2root
  (∃ i, i < 8192 ∧ pa = root + 8 * i) ∨ (∃ size, LeafPlace s part pa size) ∨
    ∃ i j, i < 8192 ∧ j < 8192 ∧ isTable (s.home64 (root + 8 * i)) = true ∧
      pa = entryAddr true (s.home64 (root + 8 * i)) + 8 * j

/-- A leaf at a place whose page the scrub zeroes: it is valid, its SCRUB is 0, and the partition owns its page (R388, R392). -/
def ToScrub (s : State) (part pa size : Nat) : Prop :=
  let e := s.home64 pa
  LeafPlace s part pa size ∧ entryOk true e = true ∧ e.getLsbD 1 = false ∧ e.getLsbD 7 = false ∧ entryAddr true e % size = 0 ∧
    e.extractLsb' 5 2 ≠ 3#2 ∧ (size = 65536 ∨ e.extractLsb' 5 2 = 0#2) ∧
    (s.part part).ownsRange (entryAddr true e) size = true

/-- Two byte ranges lie apart. -/
def Apart (a n b m : Nat) : Prop := a + n ≤ b ∨ b + m ≤ a

/-- R387, R388, R401, R402: a partition being created, once the accesses of its number's last holder are performed, becomes
live; its ten meters stand at 0; its KIND 1 record stands in its log at the place of its SEQ; its pen region, its context-image
region and the page of every leaf that is to be scrubbed read 0, and SCRUB is set in that leaf. Until those accesses are
performed, and for a partition that is not being created, the event changes nothing. -/
def CreationScrubsAndGoesLive : Prop :=
  ∀ (s : State) (part : Nat),
    let p := s.part part
    let log := 5120 * p.ulogn
    let a := p.ulogbase + 5120 * (p.usage.seq % p.ulogn)
    let first := (s.setPart part { p with meters := [] }).usageBytes part 1 none
    (p.creating = true → s.quietPart part = true →
      ∃ t, exec (.partCreateComplete part) s = .next t ∧ (t.part part).live = true ∧ (t.part part).creating = false ∧
        (p.ulogbase + log ≤ hbmTop → 0 < p.ulogn → p.usage.prev.length ≤ 64 → SoundMemory s →
          (t.part part).usage.seq = p.usage.seq + 1 ∧ (t.part part).usage.tend = s.time ∧
          (part ≠ 0 → (∀ e ∈ s.l2, e.2.owner ≠ part) → (∀ h, (s.ctx h).kind = .team → (s.wgOf h).launch.part ≠ part) →
            ∀ k, Store.get 0#64 (t.part part).meters k = 0#64) ∧
          (∀ i, i < 256 → t.homeByte ⟨a + i, none⟩ = first.getD i 0#8) ∧
          (∀ r ∈ [(p.penbase, p.penbytes), (p.ctxbase, p.ctxbytes)], r.1 % 65536 = 0 → r.2 % 65536 = 0 →
            Apart r.1 r.2 p.ulogbase log → ∀ x, x < r.2 → t.homeByte ⟨r.1 + x, none⟩ = 0#8) ∧
          (p.s2root % 65536 = 0 → (∀ q, TablePlace s part q → q + 8 ≤ hbmTop) →
            (∀ q, ¬(LeafPlace s part q 65536 ∧ LeafPlace s part q (2 ^ 29))) →
            (∀ b n q, ToScrub s part b n → TablePlace s part q → Apart (entryAddr true (s.home64 b)) n q 8) →
            ∀ b n, ToScrub s part b n →
              let page := entryAddr true (s.home64 b)
              (Apart page n p.ulogbase log → ∀ x, x < n → t.homeByte ⟨page + x, none⟩ = 0#8) ∧
              ((∀ r ∈ [(p.penbase, p.penbytes), (p.ctxbase, p.ctxbytes), (p.ulogbase, log)], Apart r.1 r.2 b 8) →
                p.penbase % 128 = 0 → p.penbytes % 128 = 0 → p.ctxbase % 128 = 0 → p.ctxbytes % 128 = 0 →
                t.home64 b = s.home64 b ||| 0x80#64)))) ∧
    (p.creating = false ∨ s.quietPart part = false → exec (.partCreateComplete part) s = .next s)

/-- R245, R389, R402: a partition being destroyed, once its accesses are performed, has its KIND 4 record closed, is live no
longer, and gives up its L2 lines, translations, fill masks and entities; no byte of memory is lost by it. Until its accesses
are performed, and for a partition that is not being destroyed, the event changes nothing. -/
def DestructionGivesUpAll : Prop :=
  ∀ (s : State) (part : Nat),
    let p := s.part part
    let a := p.ulogbase + 5120 * (p.usage.seq % p.ulogn)
    (p.destroying = true → s.quietPart part = true →
      ∃ t, exec (.partDestroyComplete part) s = .next t ∧ (t.part part).live = false ∧ (t.part part).destroying = false ∧
        (∀ e ∈ t.tlb, e.part ≠ part) ∧ (∀ e ∈ t.entities, e.2.part ≠ part) ∧ (∀ k, k < 1024 → t.fillMask part k = 0#16) ∧
        (part ≠ 0 → p.ulogbase + 5120 * p.ulogn ≤ hbmTop → 0 < p.ulogn → p.usage.prev.length ≤ 64 → SoundMemory s →
          (∀ h, (s.ctx h).kind = .team → (s.wgOf h).launch.part ≠ part) →
          (∀ e ∈ t.l2, e.2.owner ≠ part) ∧
          (∀ i, i < 256 → t.homeByte ⟨a + i, none⟩ = (s.usageBytes part 4 p.slotEntry).getD i 0#8) ∧
          ∀ l, l.pa < a ∨ a + 5120 ≤ l.pa → t.homeByte l = s.homeByte l)) ∧
    (p.destroying = false ∨ s.quietPart part = false → exec (.partDestroyComplete part) s = .next s)

end Sys2Proof.Claims

/-- Partitions come and go: `CreationScrubsAndGoesLive` and `DestructionGivesUpAll`. -/
def Obligations.PartitionsComeAndGo : Prop :=
  Sys2Proof.Claims.CreationScrubsAndGoesLive ∧ Sys2Proof.Claims.DestructionGivesUpAll

/-- R406, R407, R412-R415, R420: a host's memory read is completed with the bytes its places hold, a write changes
exactly its bytes, and one of which a byte fails is completed with the status of the first and writes nothing (that the status
of a failed write is recorded, though PCI Express returns none, is log 54, DEDUCED);
configuration requests are retried until step 2 has ended, and then answer the BARs' sizes and attributes and the MSI-X
capability structure, at the places of the PCI layout (log 92, PRESUMED); the rest of configuration space is a free value
(log 5, DESIGN CHOICE); a write of the pending-bit array sets the vectors' pending bits (log 92, DESIGN CHOICE);
unmasking a pending vector fires it; an attestation takes
its nonce and ends in a signed report or in failure; a PORTCFG write outside its ranges is ignored; TIMESEED is kept
with the TIME of its write. -/
def Obligations.HostRequestsAreServed : Prop :=
  ∀ (s : State) (link fn bar off len : Nat) (bytes : List Byte) (v : DWord),
    (∀ ps, s.hostPlaces link fn bar off len false = .ok ps → SoundMemory s →
      ∃ t, exec (.hostMemoryRead link fn bar off len) s = .next t ∧
        t.msgs = .host link fn 0 (ps.map (s.hostRead fn)) :: s.msgs ∧ SameMemory s t) ∧
    (∀ e, s.hostPlaces link fn bar off len false = .error e → SoundMemory s →
      ∃ t, exec (.hostMemoryRead link fn bar off len) s = .next t ∧ t.msgs.head? = some (.host link fn e []) ∧ SameMemory s t) ∧
    (∀ ls : List Loc, s.hostPlaces link fn bar off bytes.length true = .ok (ls.map HostPlace.mem) → SoundMemory s →
      ∃ t, exec (.hostMemoryWrite link fn bar off bytes) s = .next t ∧ StoresBytes s t (ls.zip bytes)) ∧
    (∀ e, s.hostPlaces link fn bar off bytes.length true = .error e → SoundMemory s →
      ∃ t, exec (.hostMemoryWrite link fn bar off bytes) s = .next t ∧ t.msgs.head? = some (.host link fn e []) ∧
        SameMemory s t) ∧
    (s.start.step < 2 →
      exec (.hostConfigRequest link fn off) s = .next { s with msgs := .host link fn 3 [] :: s.msgs }) ∧
    (2 ≤ s.start.step →
      let o := off / 4 * 4
      let cap := 0x40 + 4 * (Config.msixCap fn).val
      let table := if fn = 0 then 0xFF000 else 0xF000
      ∃ w : Nat, w < 2 ^ 32 ∧ exec (.hostConfigRequest link fn off) s =
          .next { s with msgs := .host link fn 0 (leBytes 4 w) :: s.msgs, freeCtr := s.freeCtr + 1 } ∧
        (o = 0x10 → w % 2 ^ (if fn = 0 then 21 else 16) = 4) ∧ (o = 0x18 → w = 0xC) ∧
        (o = 0x1C → w % 2 ^ (if fn = 0 then 41 - 32 else 55 - 32) = 0) ∧
        (o = cap → w % 256 = 0x11 ∧ w / 2 ^ 16 % 2 ^ 11 = 127) ∧ (o = cap + 4 → w = table) ∧ (o = cap + 8 → w = table + 0x800)) ∧
    (∀ x : DWord, link < 2 → 1 ≤ fn → fn < 64 → s.start.ready = true → (s.part fn).live = true →
      ∀ b ∈ [0, 64],
        ∃ t, exec (.hostMemoryWrite link fn 0 (0xF800 + b / 8) (leBytes 8 x.toNat)) s = .next t ∧ SameMemory s t ∧
          t.msgs = s.msgs ∧ ∀ v, v < 2048 → t.vector fn v =
            { s.vector fn v with pending := if b ≤ v ∧ v < b + 64 then x.getLsbD (v - b) else (s.vector fn v).pending }) ∧
    (fn < 64 → off < 128 →
      let x := s.vector fn off
      ∃ t, exec (.msixVectorUnmask fn off) s = .next t ∧ t.vector fn off = { x with masked := false, pending := false } ∧
        t.msgs = (if x.masked = true ∧ x.pending = true then [.msix fn off x.addr x.data] else []) ++ s.msgs ∧
        SameMemory s t) ∧
    (fn < 64 → fn = 0 ∨ (s.part fn).live = true → (s.window fn).stat ≠ 1 →
      ∃ t, exec (.attestGo fn) s = .next t ∧ SameMemory s t ∧
        t.window fn = { s.window fn with stat := 1, taken := (s.window fn).nonce }) ∧
    ((s.window fn).stat = 1 →
      (s.reportBuffer fn = none → ∃ t, exec (.attestComplete fn) s = .next t ∧ SameMemory s t ∧
        t.window fn = { s.window fn with stat := 3 }) ∧
      ∀ ls, s.reportBuffer fn = some ls → ls.length = 8192 → (ls.map Loc.pa).Nodup → SoundMemory s →
        ∃ t, exec (.attestComplete fn) s = .next t ∧ t.window fn = { s.window fn with stat := 2 } ∧
          (∀ i l, i < 512 → ls[i]? = some l → t.homeByte l = (s.report fn).getD i 0#8) ∧
          ∀ l, (∀ m ∈ ls, m.pa ≠ l.pa) → t.homeByte l = s.homeByte l) ∧
    (off < 24 →
      let ls := (v.extractLsb' 10 4).toInt
      let lp := (v.extractLsb' 14 4).toInt
      (-7 ≤ ls ∧ ls ≤ 0 ∧ -4 ≤ lp ∧ lp ≤ 0 →
        ∃ t, exec (.portcfgWrite off v) s = .next t ∧ t.port off = { s.port off with cfg := v.setWidth 18 } ∧ SameMemory s t) ∧
      (¬(-7 ≤ ls ∧ ls ≤ 0 ∧ -4 ≤ lp ∧ lp ≤ 0) → exec (.portcfgWrite off v) s = .next s) ∧
      ∃ t, exec (.registerWrite (0x108 + 16 * off) v) s = .next t ∧ t.port off = { s.port off with asym := v } ∧
        SameMemory s t) ∧
    exec (.registerWrite 0x2008 v) s = .next { s with timeseed := v, start := { s.start with seed := some (v, s.time) } }

/-- R344, R397, R401, R405, R408, R420-R422: power-on begins a cold start, a start request a cold or a warm one, and a
request while a start runs is ignored; a requested start ends every context, keeps HBM4 (log 10, DEDUCED) and the meters, and
power-on keeps the package's number (log 56, DEDUCED). A completed step is recorded: the first, which fails unless the
signatures of the images and of the configuration record verify, takes that record, the
third of a cold start saves a signed training set, and that of a warm one fails unless the saved set verifies; the sixth trains
the ports with EN = 1, of a warm start those that are down; a step
7 without a lock is in holdover, reported where it was not before; the eighth raises READY, with HBM4 zeroed after a cold start
(bytes that nothing has written read 0, log 3), and a failed one is counted and told. -/
def Obligations.StartsRunTheirSteps : Prop :=
  ∀ (s : State) (r : StepReport),
    let x := s.start
    let images : Prop := ∀ k, k < 3 → Config.firmwareVerifies (sha3 (Config.image k)) (Config.imageSign k) = true
    let verifies : Prop := (x.step = 0 → images) ∧ (x.kind = 2 → x.step = 2 → s.setVerifies = true)
    let keepsMeters := fun (t : State) => ∀ n k, Store.get 0#64 (t.part n).meters k = Store.get 0#64 (s.part n).meters k
    (∃ t, exec .powerOn s = .next t ∧ (t.start.kind, t.start.step, t.start.ready, t.start.busy) = (1, 0, false, true) ∧
      t.mem = [] ∧ t.l2 = [] ∧ (∀ h, (t.ctx h).kind = .absent) ∧ t.time = 0#64 ∧ t.pkg = s.pkg) ∧
    (x.busy = true → ∀ v, exec (.startRequest v) s = .next s) ∧
    (x.busy = false →
      (∃ t, exec (.startRequest 1#64) s = .next t ∧ (t.start.kind, t.start.step, t.start.ready, t.start.busy) = (1, 0, false, true) ∧
        SameMemory { s with sp := [] } t ∧ keepsMeters t ∧ (∀ h, (t.ctx h).kind = .absent)) ∧
      (∃ t, exec (.startRequest 2#64) s = .next t ∧ t.start.busy = true ∧ t.start.step = 0 ∧
        t.start.kind = (if x.warmok = true ∧ x.trained.isSome = true then 2 else 1) ∧ SameMemory { s with sp := [] } t ∧
        keepsMeters t) ∧
      ∀ v, v ≠ 1#64 → v ≠ 2#64 → exec (.startRequest v) s = .next s) ∧
    (x.busy = false → exec (.startStepComplete r) s = .next s) ∧
    (x.busy = true → r.ok = false ∨ ¬verifies →
      ∃ t, exec (.startStepComplete r) s = .next t ∧ SameMemory s t ∧ RaisesVector s t 0 0 ∧
        (t.start.busy, t.start.cause, t.start.fails, t.start.step) = (false, x.step + 1, min 3 (x.fails + 1), x.step) ∧
        t.start.warmok = (x.warmok && decide (x.fails + 1 < 3))) ∧
    (x.busy = true → r.ok = true → verifies →
      ∃ t, exec (.startStepComplete r) s = .next t ∧ t.start.step = x.step + 1 ∧
        (x.step + 1 = 1 → t.election.pod = Config.pod ∧ t.election.candidates = Config.candidates ∧
          (∀ k, k < 576 → t.fillMask 0 k = Config.systemWays k) ∧
          ∀ k, k < 144 → (t.cluster k).cbudget = (Config.cbudget k).val ∧ (t.cluster k).istep = (Config.istepLess1 k).val + 1) ∧
        (x.step + 1 = 3 → x.kind ≠ 2 → ∃ body, t.start.trained = some ⟨s.pkg, body, (s.signature (sha3 body)).2⟩) ∧
        (x.step + 1 = 3 → x.kind = 2 → t.start.trained = x.trained) ∧
        (x.step + 1 = 6 → s.records = [] → ∀ p, p < 24 →
          (p ∈ r.ports → (s.port p).cfg.getLsbD 0 = true → (t.port p).linkup = true) ∧
          (p ∉ r.ports → (t.port p).linkup =
            ((s.port p).linkup && (x.kind == 2 || !(s.port p).cfg.getLsbD 0)))) ∧
        (x.step + 1 = 7 → ∀ tai, r.lock = some tai → t.clock.locked = true ∧ t.clock.holdover = false ∧
          (x.kind = 1 → s.clock.locked = false → t.time = tai)) ∧
        (x.step + 1 = 7 → r.lock = none → t.clock.holdover = true ∧ t.start.hold = true ∧
          (s.clock.holdover = false → RaisesVector s t 0 2 ∧ RaisesEvent s t 0x101 0#64) ∧
          (s.clock.holdover = true → t.msgs = s.msgs) ∧
          ∀ v w, x.seed = some (v, w) → x.kind = 1 → s.clock.locked = false → t.time = v + (s.time - w)) ∧
        (x.step + 1 ≠ 8 → t.start.ready = x.ready ∧ t.start.busy = true) ∧
        (x.step + 1 = 8 → t.start.ready = true ∧ t.start.busy = false ∧ t.start.fails = 0 ∧ t.l2 = [] ∧
          t.mem = (if x.kind = 1 then [] else s.mem) ∧ RaisesVector s t 0 0 ∧ ∀ c, (t.cluster c).boost = 0))

/-- R398, R399, R411, R413, R423: a shutdown ends every context, powers the compute dies off and records its cause;
outside the operating conditions the package is throttled until they are restored; an uncorrectable error is logged
with vector 3: an L2 line with a tag error goes, a clean line with a data error goes and is fetched again, a dirty one
is poisoned, an HBM4 block is poisoned; a copy in a guest line, an L1 or a translation cache goes. That a data error clears the
whole written mask, and for which errors vector 3 fires, is log 55 (DEDUCED); the place that the record of a tag error names is
log 20 (DEDUCED); that a shutdown ends every context and that the throttle begins at the next boundary is log 56 (DEDUCED). -/
def Obligations.ErrorsAndShutdownsAreContained : Prop :=
  ∀ (s : State) (slice set way pa : Nat) (unknown : Bool),
    let k := l2Key slice set way
    let place : Prop := slice < 576 ∧ set < 1024 ∧ way < 16
    let logs := fun (t : State) (what detail : Nat) => RaisesVector { s with msgs := .log what detail :: s.msgs } t 0 3
    ((s.wgs.Pairwise fun a b => a.1 < b.1) →
      ∀ i ∈ ([(.thermalShutdown, 9), (.flowShutdown, 10), (.supplyOutOfRange true, 11)] : List (Instr × Nat)),
        ∃ t, exec i.1 s = .next t ∧ t.powered = false ∧ t.start.cause = i.2 ∧
          ∀ core h, (∃ c, (core, c) ∈ s.cores ∧ c.part ≠ 0) → h ∈ s.teamsOn core →
            (t.ctx h).kind = .absent) ∧
    exec (.supplyOutOfRange false) s = .next { s with limited := true } ∧
    exec .coolantOutOfRange s = .next { s with limited := true } ∧
    exec .operatingConditionsRestored s = .next { s with limited := false } ∧
    (place → unknown = false → (∀ l, Store.find k s.l2 = some l → l.dirty = false ∨ l.guest = true) →
      ∃ t, exec (.l2TagError slice set way unknown) s = .next t ∧ t.l2 = Store.erase k s.l2 ∧ logs t 6 (256 * slice + way)) ∧
    (∀ l, place → Store.find k s.l2 = some l → l.dirty = true → l.guest = false → SoundMemory s →
      (s.parts.Pairwise fun a b => a.1 < b.1) →
      (∃ t, exec (.l2TagError slice set way unknown) s = .next t ∧ t.l2 = Store.erase k s.l2 ∧ logs t 6 (256 * slice + way) ∧
        ∀ h p, (s.part p).live = true → (s.fillMask p slice).getLsbD way = true → (s.ctx h).kind = .team →
          (s.wg (s.team h).wg).launch.part = p → Store.find h s.teams ≠ none →
          (t.team h).poison = (s.team h).poison ++
            [⟨(s.ctx h).pc, (s.ctx h).widx, 0#1024, BitVec.ofNat 64 (2 ^ 63 + 256 * slice + way), 0#32⟩]) ∧
      ∃ t, exec (.l2DataError slice set way) s = .next t ∧
        Store.find k t.l2 = some { l with pois := 3#2, written := 0#128 } ∧ logs t 6 (256 * slice + way) ∧ SameMemory s t) ∧
    (∀ l, place → Store.find k s.l2 = some l → l.dirty = false → SoundMemory s →
      ∃ t, exec (.l2DataError slice set way) s = .next t ∧ t.l2 = Store.erase k s.l2 ∧ logs t 6 (256 * slice + way) ∧
        SameMemory s t) ∧
    (pa < hbmTop → ∃ t, exec (.hbm4Uncorrectable pa) s = .next t ∧ Store.get false t.poison (pa / 64) = true ∧
      (∀ b, b ≠ pa / 64 → Store.get false t.poison b = Store.get false s.poison b) ∧ logs t 8 pa ∧ SameMemory s t) ∧
    (∀ die line e, s.guestLine die line = some e →
      exec (.copySramError (.guest die line)) s = .next { s with l2 := Store.erase e.1 s.l2 }) ∧
    (∀ core line, exec (.copySramError (.l1 core line)) s = .next { s with l1 := Store.erase (l1Key core line) s.l1 }) ∧
    ∀ n, exec (.copySramError (.tlb n)) s = .next { s with tlb := s.tlb.eraseIdx n }

namespace Sys2Proof.Claims

/-- R117: with the team's counts at 0 and its attached foals ended EXIT completes: it reports the faults that the team
has not been told of, ends the team, and makes what that completes. EXIT.D does so with foals still running, none of
which has registers as its destination, after detaching them. -/
def ExitsComplete : Prop :=
  ∀ (s : State) (sw : Bool), TeamRuns s [] →
    let h := s.cur
    let fs := s.attachedOf h
    let go := fs.filter fun e => e.2.live || (e.2.status == .fault && !e.2.told)
    let u := go.foldl (fun (v : State) e => v.detach e.1) s
    (s.team h).loads = 0 → (s.team h).stores = 0 → (s.team h).batch (s.team h).openSlot = 0 →
    ((∀ e ∈ fs, e.2.live = false) → exec (.exit sw) s = .next (State.sweep (State.endTeam (s.reportUntold fs) h))) ∧
    ((∀ e ∈ fs, e.2.live = true → e.2.regdest = false) →
      exec (.exitD sw) s = .next (State.sweep (State.endTeam (u.reportUntold go) h)))

/-- R241-R243: for a live handle of a team of this package whose fault server this package is, RCTX.RD completes with
the item, RCTX.WR with the item written, RCTX.RESUME and RCTX.KILL with the reply given, each with its answer in the
destination. -/
def RepliesComplete : Prop :=
  ∀ (s : State) (sw : Bool) (d b : SReg) (a : Src) (g : Nat) (r : TrapRec), ThreadRuns s 1 → Src.scalOk a = true →
    let h := s.cur
    let A := Src.scalar s h a
    let hd := s.sreg h b
    let v := s.sreg h d
    let after := fun (t : State) (x : DWord) => State.done (State.setSreg t h d x) h (Src.len a) sw
    (hd.extractLsb' 32 12).toNat = s.pkg → s.trapped hd = some (g, r) → (s.part (s.wgOf g).launch.part).fsrv = s.pkg →
    (rctxLegal .rd A v = true → (Item.ofA A).fits (s.team g) = true →
      exec (.rctxRd sw d b a) s = .next (after s (s.itemRead g (Item.ofA A)))) ∧
    (rctxLegal .wr A v = true → (Item.ofA A).fits (s.team g) = true →
      exec (.rctxWr sw d b a) s = .next (after ((s.itemWrite g (Item.ofA A) v).renewImage (s.coreOf g)) 1#64)) ∧
    (rctxLegal .resume A v = true → exec (.rctxResume sw d b a) s = .next (after (s.replyTeam g r A.toNat) 1#64)) ∧
    (rctxLegal .kill A v = true → exec (.rctxKill sw d b a) s = .next (after (s.replyTeam g r (3 + A.toNat)) 1#64))

/-- R177, R188, R201, R205: a matrix step ends the step in the engine and chooses the next; at a halt only the MMAs
that run out are chosen, and in the drain window and the save there is none. The streamer of a core issues the next
sector of the copy it chooses. -/
def EngineStepsComplete : Prop :=
  ∀ (s : State) (core slot : Nat),
    let k := foalKey core slot
    let c := s.core core
    let u := s.copySettle k
    (c.step = .running → exec (.matrixStep core) s = .next (State.chooseStep (s.stepBoundary core) core false)) ∧
    (∀ a o, c.step = .halting a o →
      exec (.matrixStep core) s = .next (State.chooseStep (s.stepBoundary core) core true)) ∧
    (∀ a b o, c.step = .draining a b o → exec (.matrixStep core) s = .next s) ∧
    (∀ a b x y o, c.step = .saving a b x y o → exec (.matrixStep core) s = .next s) ∧
    (∀ f j, u.copyChoice core = some (k, f) → f.job = .copy j →
      exec (.copySectorIssue core slot) s = .next (u.issueSector k f j)) ∧
    (u.copyChoice core = none → exec (.copySectorIssue core slot) s = .next u)

/-- Every row of the opcode table that is an event of a unit or of the outside world completes, in every state: none
of them stops the machine. What each does is said by the statements about it. -/
def EventsComplete : Prop := ∀ (s : State) (i : Instr), Instr.isEvent i = true → ∃ t, exec i s = .next t

end Sys2Proof.Claims

/-- EXIT, RCTX, the steps of the engines and the events of the table complete: `ExitsComplete`, `RepliesComplete`,
`EngineStepsComplete` and `EventsComplete`. -/
def Obligations.ExitsRepliesStepsAndEventsComplete : Prop :=
  Sys2Proof.Claims.ExitsComplete ∧ Sys2Proof.Claims.RepliesComplete ∧ Sys2Proof.Claims.EngineStepsComplete ∧
    Sys2Proof.Claims.EventsComplete
end

