-- ==== Sys2Proof/Laws/Encode.lean ====
section
/-! SUPPORT. What the pieces of an encoded word decode to: a field of an appended word, a source code, a condition, a
type, an FX word. The round trip of each instruction (Laws/PerInstr.lean) is put together from these. -/

namespace Sys2Proof

/-- A field above the last appended piece is a field of what stands before it. -/
theorem field_above {n m : Nat} (a : BitVec n) (b : BitVec m) (lo len : Nat) (h : m ≤ lo) :
    (a ++ b).extractLsb' lo len = a.extractLsb' (lo - m) len := by
  apply BitVec.eq_of_getLsbD_eq
  intro i hi
  simp [BitVec.getLsbD_append, hi]
  rw [if_neg (by omega)]
  congr 1
  omega

/-- A field inside the last appended piece is a field of that piece. -/
theorem field_inside {n m : Nat} (a : BitVec n) (b : BitVec m) (lo len : Nat) (h : lo + len ≤ m) :
    (a ++ b).extractLsb' lo len = b.extractLsb' lo len := by
  apply BitVec.eq_of_getLsbD_eq
  intro i hi
  simp [BitVec.getLsbD_append, hi]
  intro h
  omega

/-- A field whose part differs from that part of a number is not that number. -/
theorem fld_beq_false {w : Word} {lo len k l : Nat} {c : BitVec len} {e : BitVec l} (h : fld w (lo + k) l = e)
    (hl : k + l ≤ len) (hc : (e == c.extractLsb' k l) = false) : (fld w lo len == c) = false := by
  rw [beq_eq_false_iff_ne]
  rintro rfl
  refine absurd ?_ (beq_eq_false_iff_ne.1 hc)
  rw [← h]
  apply BitVec.eq_of_getLsbD_eq
  intro i hi
  simp only [fld, BitVec.getLsbD_extractLsb', hi, decide_true, Bool.true_and, show k + i < len by omega, Nat.add_assoc]

@[simp] theorem bit_eq_one (b : Bool) : (bit b == 1#1) = b := by cases b <;> rfl

/-- The only bit of an encoded Bool is that bit. -/
@[simp] theorem bit_all (b : Bool) : (bit b).extractLsb' 0 1 = bit b := BitVec.extractLsb'_eq_self

@[simp] theorem Cmp.ofCode_code (c : Cmp) : Cmp.ofCode c.code = c := by cases c <;> rfl

@[simp] theorem RedType.ofCode_code (t : RedType) : RedType.ofCode t.code = some t := by cases t <;> rfl

@[simp] theorem Ord.ofCode_code (o : Ord) : Ord.ofCode o.code = o := by cases o <;> rfl

@[simp] theorem Scope.ofCode_code (c : Scope) : Scope.ofCode c.code = c := by cases c <;> rfl

@[simp] theorem Conv.ofCode_code (k : Conv) : Conv.ofCode k.code = some k := by cases k <;> rfl

/-- R30: the code of an operand other than a literal names that operand. -/
theorem srcCode_code (a : Src) (h : a.wf = true) (hl : a.ext = []) : srcCode a.code = a ∧ a.code ≠ 0xFF#8 := by
  cases a with
  | v n => revert n; decide
  | s n => revert n; decide
  | int n => revert n; decide
  | fpc n => revert n; decide
  | laneix => decide
  | res c => revert c; decide
  | lit w => cases hl

/-- R30, R15: an encoded operand decodes to itself and owns the words it was given. -/
theorem withSrc_code (a : Src) (h : a.wf = true) (rest : List Word) (k : Src → Instr) :
    withSrc a.code (a.ext.head?.or rest.head?) k = .ok (k a) (1 + a.ext.length) := by
  cases a with
  | lit w => simp [withSrc, Src.code, Src.ext]
  | _ =>
    obtain ⟨hs, hn⟩ := srcCode_code _ h rfl
    simp [withSrc, hs, hn, Src.ext]

/-- R34: the FX word holds each of its fields. -/
@[simp] theorem Fx.ofWord_word (fx : Fx) : Fx.ofWord fx.word = fx := by
  obtain ⟨tok, desc, prio, detach, chain, depv, dep, aux⟩ := fx
  simp (disch := decide) only [Fx.ofWord, Fx.word, fld, flag, field_above, field_inside, Nat.reduceSub,
    BitVec.extractLsb'_eq_self, bit_eq_one]

/-- R34, R35: a well-formed FX word is taken with the instruction it belongs to. -/
theorem withFx_word (fx : Fx) (k : Fx → Instr) (h : (k fx).wf = true) :
    withFx (some fx.word) k = .ok (k fx) 2 := by
  simp [withFx, h]

/-- R133: an immediate below 32 has its three high bits 0. -/
theorem high_bits_of_lt_32 (i : BitVec 8) (h : i < 32#8) : i.extractLsb' 5 3 = 0#3 := by
  revert i
  decide

/-- R39: the codes of VICMP's conditions are 0 to 5. -/
theorem cmp_code_below_6 (c : Cmp) (h : c ≠ .ord) (h' : c ≠ .uno) : c.code.extractLsb' 1 2 ≠ 3#2 := by
  cases c <;> first | decide | contradiction

theorem decodeWords_one {w : Word} {i : Instr} {rest : List Word} (h : decode w rest.head? = .ok i 1) :
    decodeWords ([w] ++ rest) = some (i, rest) := by
  simp [decodeWords, h]

theorem decodeWords_two {w x : Word} {i : Instr} {rest : List Word} (h : decode w (some x) = .ok i 2) :
    decodeWords ([w, x] ++ rest) = some (i, rest) := by
  simp [decodeWords, h]

theorem decodeWords_src {w : Word} {a : Src} {i : Instr} {rest : List Word}
    (h : decode w (a.ext.head?.or rest.head?) = .ok i (1 + a.ext.length)) :
    decodeWords ((w :: a.ext) ++ rest) = some (i, rest) := by
  rw [List.cons_append, decodeWords, List.head?_append, h]
  simp

end Sys2Proof
end

