-- ==== Sys2Proof/Laws/Store.lean ====
section
/-! SUPPORT. Laws of sparse stores: read after write, and the canonical form is kept. -/

namespace Sys2Proof.Machine

variable {β : Type}

@[simp] theorem Store.get_nil (d : β) (k : Nat) : Store.get d [] k = d := rfl

theorem Store.wfFrom_mono [DecidableEq β] {d : β} {lo lo' : Nat} {st : Store β} (h : Store.wfFrom d lo st = true)
    (hl : lo' ≤ lo) : Store.wfFrom d lo' st = true := by
  cases st with
  | nil => rfl
  | cons e r => simp only [Store.wfFrom, Bool.and_eq_true, decide_eq_true_eq] at *; exact ⟨⟨by omega, h.1.2⟩, h.2⟩

theorem Store.find_of_lt [DecidableEq β] {d : β} {k : Nat} {st : Store β} {lo : Nat} (h : Store.wfFrom d lo st = true)
    (hk : k < lo) : Store.find k st = none := by
  induction st generalizing lo with
  | nil => rfl
  | cons e r ih =>
    simp only [Store.wfFrom, Bool.and_eq_true, decide_eq_true_eq] at h
    have hne : ¬ e.1 = k := by omega
    simp [Store.find, hne, ih h.2 (by omega)]

theorem Store.find_put_same {k : Nat} {v : β} {st : Store β} : Store.find k (Store.put k v st) = some v := by
  induction st with
  | nil => simp [Store.put, Store.find]
  | cons e r ih =>
    obtain ⟨j, w⟩ := e
    simp only [Store.put]
    split
    · have : ¬ j = k := by omega
      simp [Store.find, this, ih]
    · split <;> simp [Store.find]

theorem Store.find_put_other {k k' : Nat} {v : β} {st : Store β} (h : k' ≠ k) :
    Store.find k' (Store.put k v st) = Store.find k' st := by
  induction st with
  | nil => simp [Store.put, Store.find, Ne.symm h]
  | cons e r ih =>
    obtain ⟨j, w⟩ := e
    simp only [Store.put]
    split
    · simp [Store.find, ih]
    · split
      · rename_i _ hj
        have hj : j = k := by simpa using hj
        subst hj
        simp [Store.find, Ne.symm h]
      · simp [Store.find, Ne.symm h]

theorem Store.find_erase_other {k k' : Nat} {st : Store β} (h : k' ≠ k) :
    Store.find k' (Store.erase k st) = Store.find k' st := by
  induction st with
  | nil => rfl
  | cons e r ih =>
    obtain ⟨j, w⟩ := e
    by_cases hj : j = k
    · subst hj; simp [Store.erase, Store.find, ih, Ne.symm h]
    · simp [Store.erase, Store.find, ih, hj]

theorem Store.find_erase_same {k : Nat} {st : Store β} : Store.find k (Store.erase k st) = none := by
  induction st with
  | nil => rfl
  | cons e r ih =>
    obtain ⟨j, w⟩ := e
    by_cases hj : j = k
    · simp [Store.erase, ih, hj]
    · simp [Store.erase, Store.find, ih, hj]

/-- Read after write at another key. -/
theorem Store.get_set_other [DecidableEq β] {d v : β} {k k' : Nat} {st : Store β} (h : k' ≠ k) :
    Store.get d (Store.set d st k v) k' = Store.get d st k' := by
  unfold Store.get Store.set
  split
  · rw [Store.find_erase_other h]
  · rw [Store.find_put_other h]

/-- Read after write at the same key. -/
@[simp] theorem Store.get_set_same [DecidableEq β] {d v : β} {k : Nat} {st : Store β} :
    Store.get d (Store.set d st k v) k = v := by
  unfold Store.get Store.set
  split
  · rename_i hv
    rw [Store.find_erase_same, hv]; rfl
  · rw [Store.find_put_same]; rfl

theorem Store.wfFrom_erase [DecidableEq β] {d : β} {k lo : Nat} {st : Store β} (h : Store.wfFrom d lo st = true) :
    Store.wfFrom d lo (Store.erase k st) = true := by
  induction st generalizing lo with
  | nil => rfl
  | cons e r ih =>
    obtain ⟨j, w⟩ := e
    simp only [Store.wfFrom, Bool.and_eq_true, decide_eq_true_eq] at h
    by_cases hj : j = k
    · simp only [Store.erase, hj, beq_self_eq_true, if_true]
      exact Store.wfFrom_mono (ih h.2) (by omega)
    · simp only [Store.erase, beq_iff_eq, hj, if_false, Store.wfFrom, Bool.and_eq_true, decide_eq_true_eq]
      exact ⟨h.1, ih h.2⟩

theorem Store.wfFrom_put [DecidableEq β] {d v : β} {k lo : Nat} {st : Store β} (h : Store.wfFrom d lo st = true)
    (hk : lo ≤ k) (hv : v ≠ d) : Store.wfFrom d lo (Store.put k v st) = true := by
  induction st generalizing lo with
  | nil => simp [Store.put, Store.wfFrom, hk, hv]
  | cons e r ih =>
    obtain ⟨j, w⟩ := e
    have h0 := h
    simp only [Store.wfFrom, Bool.and_eq_true, decide_eq_true_eq] at h
    simp only [Store.put]
    split
    · simp only [Store.wfFrom, Bool.and_eq_true, decide_eq_true_eq]
      exact ⟨h.1, ih h.2 (by omega)⟩
    · split
      · rename_i _ hj
        have hj : j = k := by simpa using hj
        subst hj
        simp [Store.wfFrom, hk, hv, h.2]
      · rename_i hlt hj
        have hj : ¬ j = k := by simpa using hj
        simp only [Store.wfFrom, Bool.and_eq_true, decide_eq_true_eq]
        exact ⟨⟨hk, hv⟩, ⟨by omega, h.1.2⟩, h.2⟩

/-- A write keeps the canonical form. -/
theorem Store.wf_set [DecidableEq β] {d v : β} {k : Nat} {st : Store β} (h : Store.wf d st = true) :
    Store.wf d (Store.set d st k v) = true := by
  unfold Store.set
  split
  · exact Store.wfFrom_erase h
  · rename_i hv
    exact Store.wfFrom_put h (Nat.zero_le _) hv

@[simp] theorem Store.wf_nil [DecidableEq β] (d : β) : Store.wf d ([] : Store β) = true := rfl

end Sys2Proof.Machine
end

