-- ==== Sys2Proof/Laws/State.lean ====
section
/-! SUPPORT. One lemma per field of the state per update: an update of one field leaves every other as it was. -/

namespace Sys2Proof.Machine

@[simp] theorem State.setCtx_agenda (s : State) (h : Nat) (c : Ctx) : (s.setCtx h c).agenda = s.agenda := rfl
@[simp] theorem State.setCtx_cur (s : State) (h : Nat) (c : Ctx) : (s.setCtx h c).cur = s.cur := rfl
@[simp] theorem State.setCtx_nextId (s : State) (h : Nat) (c : Ctx) : (s.setCtx h c).nextId = s.nextId := rfl
@[simp] theorem State.setCtx_freeCtr (s : State) (h : Nat) (c : Ctx) : (s.setCtx h c).freeCtr = s.freeCtr := rfl
@[simp] theorem State.setCtx_now (s : State) (h : Nat) (c : Ctx) : (s.setCtx h c).now = s.now := rfl
@[simp] theorem State.setCtx_teams (s : State) (h : Nat) (c : Ctx) : (s.setCtx h c).teams = s.teams := rfl
@[simp] theorem State.setCtx_threads (s : State) (h : Nat) (c : Ctx) : (s.setCtx h c).threads = s.threads := rfl
@[simp] theorem State.setCtx_vregs (s : State) (h : Nat) (c : Ctx) : (s.setCtx h c).vregs = s.vregs := rfl
@[simp] theorem State.setCtx_wgs (s : State) (h : Nat) (c : Ctx) : (s.setCtx h c).wgs = s.wgs := rfl
@[simp] theorem State.setCtx_sp (s : State) (h : Nat) (c : Ctx) : (s.setCtx h c).sp = s.sp := rfl
@[simp] theorem State.setCtx_foals (s : State) (h : Nat) (c : Ctx) : (s.setCtx h c).foals = s.foals := rfl
@[simp] theorem State.setCtx_foalGens (s : State) (h : Nat) (c : Ctx) : (s.setCtx h c).foalGens = s.foalGens := rfl
@[simp] theorem State.setCtx_mem (s : State) (h : Nat) (c : Ctx) : (s.setCtx h c).mem = s.mem := rfl
@[simp] theorem State.setCtx_poison (s : State) (h : Nat) (c : Ctx) : (s.setCtx h c).poison = s.poison := rfl
@[simp] theorem State.setCtx_l2 (s : State) (h : Nat) (c : Ctx) : (s.setCtx h c).l2 = s.l2 := rfl
@[simp] theorem State.setCtx_ways (s : State) (h : Nat) (c : Ctx) : (s.setCtx h c).ways = s.ways := rfl
@[simp] theorem State.setCtx_l1 (s : State) (h : Nat) (c : Ctx) : (s.setCtx h c).l1 = s.l1 := rfl
@[simp] theorem State.setCtx_tlb (s : State) (h : Nat) (c : Ctx) : (s.setCtx h c).tlb = s.tlb := rfl
@[simp] theorem State.setCtx_fills (s : State) (h : Nat) (c : Ctx) : (s.setCtx h c).fills = s.fills := rfl
@[simp] theorem State.setCtx_invals (s : State) (h : Nat) (c : Ctx) : (s.setCtx h c).invals = s.invals := rfl
@[simp] theorem State.setCtx_dieSeen (s : State) (h : Nat) (c : Ctx) : (s.setCtx h c).dieSeen = s.dieSeen := rfl
@[simp] theorem State.setCtx_oldCode (s : State) (h : Nat) (c : Ctx) : (s.setCtx h c).oldCode = s.oldCode := rfl
@[simp] theorem State.setCtx_parts (s : State) (h : Nat) (c : Ctx) : (s.setCtx h c).parts = s.parts := rfl
@[simp] theorem State.setCtx_cores (s : State) (h : Nat) (c : Ctx) : (s.setCtx h c).cores = s.cores := rfl
@[simp] theorem State.setCtx_clusters (s : State) (h : Nat) (c : Ctx) : (s.setCtx h c).clusters = s.clusters := rfl
@[simp] theorem State.setCtx_sramErrs (s : State) (h : Nat) (c : Ctx) : (s.setCtx h c).sramErrs = s.sramErrs := rfl
@[simp] theorem State.setCtx_control (s : State) (h : Nat) (c : Ctx) : (s.setCtx h c).control = s.control := rfl
@[simp] theorem State.setCtx_entities (s : State) (h : Nat) (c : Ctx) : (s.setCtx h c).entities = s.entities := rfl
@[simp] theorem State.setCtx_qturn (s : State) (h : Nat) (c : Ctx) : (s.setCtx h c).qturn = s.qturn := rfl
@[simp] theorem State.setCtx_pages (s : State) (h : Nat) (c : Ctx) : (s.setCtx h c).pages = s.pages := rfl
@[simp] theorem State.setCtx_arms (s : State) (h : Nat) (c : Ctx) : (s.setCtx h c).arms = s.arms := rfl
@[simp] theorem State.setCtx_time (s : State) (h : Nat) (c : Ctx) : (s.setCtx h c).time = s.time := rfl
@[simp] theorem State.setCtx_clock (s : State) (h : Nat) (c : Ctx) : (s.setCtx h c).clock = s.clock := rfl
@[simp] theorem State.setCtx_ptp (s : State) (h : Nat) (c : Ctx) : (s.setCtx h c).ptp = s.ptp := rfl
@[simp] theorem State.setCtx_election (s : State) (h : Nat) (c : Ctx) : (s.setCtx h c).election = s.election := rfl
@[simp] theorem State.setCtx_ports (s : State) (h : Nat) (c : Ctx) : (s.setCtx h c).ports = s.ports := rfl
@[simp] theorem State.setCtx_resends (s : State) (h : Nat) (c : Ctx) : (s.setCtx h c).resends = s.resends := rfl
@[simp] theorem State.setCtx_stuck (s : State) (h : Nat) (c : Ctx) : (s.setCtx h c).stuck = s.stuck := rfl
@[simp] theorem State.setCtx_routes (s : State) (h : Nat) (c : Ctx) : (s.setCtx h c).routes = s.routes := rfl
@[simp] theorem State.setCtx_timeseed (s : State) (h : Nat) (c : Ctx) : (s.setCtx h c).timeseed = s.timeseed := rfl
@[simp] theorem State.setCtx_windows (s : State) (h : Nat) (c : Ctx) : (s.setCtx h c).windows = s.windows := rfl
@[simp] theorem State.setCtx_vectors (s : State) (h : Nat) (c : Ctx) : (s.setCtx h c).vectors = s.vectors := rfl
@[simp] theorem State.setCtx_start (s : State) (h : Nat) (c : Ctx) : (s.setCtx h c).start = s.start := rfl
@[simp] theorem State.setCtx_powered (s : State) (h : Nat) (c : Ctx) : (s.setCtx h c).powered = s.powered := rfl
@[simp] theorem State.setCtx_limited (s : State) (h : Nat) (c : Ctx) : (s.setCtx h c).limited = s.limited := rfl
@[simp] theorem State.setCtx_tqbase (s : State) (h : Nat) (c : Ctx) : (s.setCtx h c).tqbase = s.tqbase := rfl
@[simp] theorem State.setCtx_tqhead (s : State) (h : Nat) (c : Ctx) : (s.setCtx h c).tqhead = s.tqhead := rfl
@[simp] theorem State.setCtx_tqtail (s : State) (h : Nat) (c : Ctx) : (s.setCtx h c).tqtail = s.tqtail := rfl
@[simp] theorem State.setCtx_tqsize (s : State) (h : Nat) (c : Ctx) : (s.setCtx h c).tqsize = s.tqsize := rfl
@[simp] theorem State.setCtx_parkth (s : State) (h : Nat) (c : Ctx) : (s.setCtx h c).parkth = s.parkth := rfl
@[simp] theorem State.setCtx_records (s : State) (h : Nat) (c : Ctx) : (s.setCtx h c).records = s.records := rfl
@[simp] theorem State.setCtx_queued (s : State) (h : Nat) (c : Ctx) : (s.setCtx h c).queued = s.queued := rfl
@[simp] theorem State.setCtx_pkg (s : State) (h : Nat) (c : Ctx) : (s.setCtx h c).pkg = s.pkg := rfl
@[simp] theorem State.setCtx_serial (s : State) (h : Nat) (c : Ctx) : (s.setCtx h c).serial = s.serial := rfl
@[simp] theorem State.setCtx_msgs (s : State) (h : Nat) (c : Ctx) : (s.setCtx h c).msgs = s.msgs := rfl

@[simp] theorem State.setTeam_agenda (s : State) (h : Nat) (t : Team) : (s.setTeam h t).agenda = s.agenda := rfl
@[simp] theorem State.setTeam_cur (s : State) (h : Nat) (t : Team) : (s.setTeam h t).cur = s.cur := rfl
@[simp] theorem State.setTeam_nextId (s : State) (h : Nat) (t : Team) : (s.setTeam h t).nextId = s.nextId := rfl
@[simp] theorem State.setTeam_freeCtr (s : State) (h : Nat) (t : Team) : (s.setTeam h t).freeCtr = s.freeCtr := rfl
@[simp] theorem State.setTeam_now (s : State) (h : Nat) (t : Team) : (s.setTeam h t).now = s.now := rfl
@[simp] theorem State.setTeam_ctxs (s : State) (h : Nat) (t : Team) : (s.setTeam h t).ctxs = s.ctxs := rfl
@[simp] theorem State.setTeam_threads (s : State) (h : Nat) (t : Team) : (s.setTeam h t).threads = s.threads := rfl
@[simp] theorem State.setTeam_vregs (s : State) (h : Nat) (t : Team) : (s.setTeam h t).vregs = s.vregs := rfl
@[simp] theorem State.setTeam_wgs (s : State) (h : Nat) (t : Team) : (s.setTeam h t).wgs = s.wgs := rfl
@[simp] theorem State.setTeam_sp (s : State) (h : Nat) (t : Team) : (s.setTeam h t).sp = s.sp := rfl
@[simp] theorem State.setTeam_foals (s : State) (h : Nat) (t : Team) : (s.setTeam h t).foals = s.foals := rfl
@[simp] theorem State.setTeam_foalGens (s : State) (h : Nat) (t : Team) : (s.setTeam h t).foalGens = s.foalGens := rfl
@[simp] theorem State.setTeam_mem (s : State) (h : Nat) (t : Team) : (s.setTeam h t).mem = s.mem := rfl
@[simp] theorem State.setTeam_poison (s : State) (h : Nat) (t : Team) : (s.setTeam h t).poison = s.poison := rfl
@[simp] theorem State.setTeam_l2 (s : State) (h : Nat) (t : Team) : (s.setTeam h t).l2 = s.l2 := rfl
@[simp] theorem State.setTeam_ways (s : State) (h : Nat) (t : Team) : (s.setTeam h t).ways = s.ways := rfl
@[simp] theorem State.setTeam_l1 (s : State) (h : Nat) (t : Team) : (s.setTeam h t).l1 = s.l1 := rfl
@[simp] theorem State.setTeam_tlb (s : State) (h : Nat) (t : Team) : (s.setTeam h t).tlb = s.tlb := rfl
@[simp] theorem State.setTeam_fills (s : State) (h : Nat) (t : Team) : (s.setTeam h t).fills = s.fills := rfl
@[simp] theorem State.setTeam_invals (s : State) (h : Nat) (t : Team) : (s.setTeam h t).invals = s.invals := rfl
@[simp] theorem State.setTeam_dieSeen (s : State) (h : Nat) (t : Team) : (s.setTeam h t).dieSeen = s.dieSeen := rfl
@[simp] theorem State.setTeam_oldCode (s : State) (h : Nat) (t : Team) : (s.setTeam h t).oldCode = s.oldCode := rfl
@[simp] theorem State.setTeam_parts (s : State) (h : Nat) (t : Team) : (s.setTeam h t).parts = s.parts := rfl
@[simp] theorem State.setTeam_cores (s : State) (h : Nat) (t : Team) : (s.setTeam h t).cores = s.cores := rfl
@[simp] theorem State.setTeam_clusters (s : State) (h : Nat) (t : Team) : (s.setTeam h t).clusters = s.clusters := rfl
@[simp] theorem State.setTeam_sramErrs (s : State) (h : Nat) (t : Team) : (s.setTeam h t).sramErrs = s.sramErrs := rfl
@[simp] theorem State.setTeam_control (s : State) (h : Nat) (t : Team) : (s.setTeam h t).control = s.control := rfl
@[simp] theorem State.setTeam_entities (s : State) (h : Nat) (t : Team) : (s.setTeam h t).entities = s.entities := rfl
@[simp] theorem State.setTeam_qturn (s : State) (h : Nat) (t : Team) : (s.setTeam h t).qturn = s.qturn := rfl
@[simp] theorem State.setTeam_pages (s : State) (h : Nat) (t : Team) : (s.setTeam h t).pages = s.pages := rfl
@[simp] theorem State.setTeam_arms (s : State) (h : Nat) (t : Team) : (s.setTeam h t).arms = s.arms := rfl
@[simp] theorem State.setTeam_time (s : State) (h : Nat) (t : Team) : (s.setTeam h t).time = s.time := rfl
@[simp] theorem State.setTeam_clock (s : State) (h : Nat) (t : Team) : (s.setTeam h t).clock = s.clock := rfl
@[simp] theorem State.setTeam_ptp (s : State) (h : Nat) (t : Team) : (s.setTeam h t).ptp = s.ptp := rfl
@[simp] theorem State.setTeam_election (s : State) (h : Nat) (t : Team) : (s.setTeam h t).election = s.election := rfl
@[simp] theorem State.setTeam_ports (s : State) (h : Nat) (t : Team) : (s.setTeam h t).ports = s.ports := rfl
@[simp] theorem State.setTeam_resends (s : State) (h : Nat) (t : Team) : (s.setTeam h t).resends = s.resends := rfl
@[simp] theorem State.setTeam_stuck (s : State) (h : Nat) (t : Team) : (s.setTeam h t).stuck = s.stuck := rfl
@[simp] theorem State.setTeam_routes (s : State) (h : Nat) (t : Team) : (s.setTeam h t).routes = s.routes := rfl
@[simp] theorem State.setTeam_timeseed (s : State) (h : Nat) (t : Team) : (s.setTeam h t).timeseed = s.timeseed := rfl
@[simp] theorem State.setTeam_windows (s : State) (h : Nat) (t : Team) : (s.setTeam h t).windows = s.windows := rfl
@[simp] theorem State.setTeam_vectors (s : State) (h : Nat) (t : Team) : (s.setTeam h t).vectors = s.vectors := rfl
@[simp] theorem State.setTeam_start (s : State) (h : Nat) (t : Team) : (s.setTeam h t).start = s.start := rfl
@[simp] theorem State.setTeam_powered (s : State) (h : Nat) (t : Team) : (s.setTeam h t).powered = s.powered := rfl
@[simp] theorem State.setTeam_limited (s : State) (h : Nat) (t : Team) : (s.setTeam h t).limited = s.limited := rfl
@[simp] theorem State.setTeam_tqbase (s : State) (h : Nat) (t : Team) : (s.setTeam h t).tqbase = s.tqbase := rfl
@[simp] theorem State.setTeam_tqhead (s : State) (h : Nat) (t : Team) : (s.setTeam h t).tqhead = s.tqhead := rfl
@[simp] theorem State.setTeam_tqtail (s : State) (h : Nat) (t : Team) : (s.setTeam h t).tqtail = s.tqtail := rfl
@[simp] theorem State.setTeam_tqsize (s : State) (h : Nat) (t : Team) : (s.setTeam h t).tqsize = s.tqsize := rfl
@[simp] theorem State.setTeam_parkth (s : State) (h : Nat) (t : Team) : (s.setTeam h t).parkth = s.parkth := rfl
@[simp] theorem State.setTeam_records (s : State) (h : Nat) (t : Team) : (s.setTeam h t).records = s.records := rfl
@[simp] theorem State.setTeam_queued (s : State) (h : Nat) (t : Team) : (s.setTeam h t).queued = s.queued := rfl
@[simp] theorem State.setTeam_pkg (s : State) (h : Nat) (t : Team) : (s.setTeam h t).pkg = s.pkg := rfl
@[simp] theorem State.setTeam_serial (s : State) (h : Nat) (t : Team) : (s.setTeam h t).serial = s.serial := rfl
@[simp] theorem State.setTeam_msgs (s : State) (h : Nat) (t : Team) : (s.setTeam h t).msgs = s.msgs := rfl

@[simp] theorem State.setThread_agenda (s : State) (h : Nat) (t : Thread) : (s.setThread h t).agenda = s.agenda := rfl
@[simp] theorem State.setThread_cur (s : State) (h : Nat) (t : Thread) : (s.setThread h t).cur = s.cur := rfl
@[simp] theorem State.setThread_nextId (s : State) (h : Nat) (t : Thread) : (s.setThread h t).nextId = s.nextId := rfl
@[simp] theorem State.setThread_freeCtr (s : State) (h : Nat) (t : Thread) : (s.setThread h t).freeCtr = s.freeCtr := rfl
@[simp] theorem State.setThread_now (s : State) (h : Nat) (t : Thread) : (s.setThread h t).now = s.now := rfl
@[simp] theorem State.setThread_ctxs (s : State) (h : Nat) (t : Thread) : (s.setThread h t).ctxs = s.ctxs := rfl
@[simp] theorem State.setThread_teams (s : State) (h : Nat) (t : Thread) : (s.setThread h t).teams = s.teams := rfl
@[simp] theorem State.setThread_vregs (s : State) (h : Nat) (t : Thread) : (s.setThread h t).vregs = s.vregs := rfl
@[simp] theorem State.setThread_wgs (s : State) (h : Nat) (t : Thread) : (s.setThread h t).wgs = s.wgs := rfl
@[simp] theorem State.setThread_sp (s : State) (h : Nat) (t : Thread) : (s.setThread h t).sp = s.sp := rfl
@[simp] theorem State.setThread_foals (s : State) (h : Nat) (t : Thread) : (s.setThread h t).foals = s.foals := rfl
@[simp] theorem State.setThread_foalGens (s : State) (h : Nat) (t : Thread) : (s.setThread h t).foalGens = s.foalGens := rfl
@[simp] theorem State.setThread_mem (s : State) (h : Nat) (t : Thread) : (s.setThread h t).mem = s.mem := rfl
@[simp] theorem State.setThread_poison (s : State) (h : Nat) (t : Thread) : (s.setThread h t).poison = s.poison := rfl
@[simp] theorem State.setThread_l2 (s : State) (h : Nat) (t : Thread) : (s.setThread h t).l2 = s.l2 := rfl
@[simp] theorem State.setThread_ways (s : State) (h : Nat) (t : Thread) : (s.setThread h t).ways = s.ways := rfl
@[simp] theorem State.setThread_l1 (s : State) (h : Nat) (t : Thread) : (s.setThread h t).l1 = s.l1 := rfl
@[simp] theorem State.setThread_tlb (s : State) (h : Nat) (t : Thread) : (s.setThread h t).tlb = s.tlb := rfl
@[simp] theorem State.setThread_fills (s : State) (h : Nat) (t : Thread) : (s.setThread h t).fills = s.fills := rfl
@[simp] theorem State.setThread_invals (s : State) (h : Nat) (t : Thread) : (s.setThread h t).invals = s.invals := rfl
@[simp] theorem State.setThread_dieSeen (s : State) (h : Nat) (t : Thread) : (s.setThread h t).dieSeen = s.dieSeen := rfl
@[simp] theorem State.setThread_oldCode (s : State) (h : Nat) (t : Thread) : (s.setThread h t).oldCode = s.oldCode := rfl
@[simp] theorem State.setThread_parts (s : State) (h : Nat) (t : Thread) : (s.setThread h t).parts = s.parts := rfl
@[simp] theorem State.setThread_cores (s : State) (h : Nat) (t : Thread) : (s.setThread h t).cores = s.cores := rfl
@[simp] theorem State.setThread_clusters (s : State) (h : Nat) (t : Thread) : (s.setThread h t).clusters = s.clusters := rfl
@[simp] theorem State.setThread_sramErrs (s : State) (h : Nat) (t : Thread) : (s.setThread h t).sramErrs = s.sramErrs := rfl
@[simp] theorem State.setThread_control (s : State) (h : Nat) (t : Thread) : (s.setThread h t).control = s.control := rfl
@[simp] theorem State.setThread_entities (s : State) (h : Nat) (t : Thread) : (s.setThread h t).entities = s.entities := rfl
@[simp] theorem State.setThread_qturn (s : State) (h : Nat) (t : Thread) : (s.setThread h t).qturn = s.qturn := rfl
@[simp] theorem State.setThread_pages (s : State) (h : Nat) (t : Thread) : (s.setThread h t).pages = s.pages := rfl
@[simp] theorem State.setThread_arms (s : State) (h : Nat) (t : Thread) : (s.setThread h t).arms = s.arms := rfl
@[simp] theorem State.setThread_time (s : State) (h : Nat) (t : Thread) : (s.setThread h t).time = s.time := rfl
@[simp] theorem State.setThread_clock (s : State) (h : Nat) (t : Thread) : (s.setThread h t).clock = s.clock := rfl
@[simp] theorem State.setThread_ptp (s : State) (h : Nat) (t : Thread) : (s.setThread h t).ptp = s.ptp := rfl
@[simp] theorem State.setThread_election (s : State) (h : Nat) (t : Thread) : (s.setThread h t).election = s.election := rfl
@[simp] theorem State.setThread_ports (s : State) (h : Nat) (t : Thread) : (s.setThread h t).ports = s.ports := rfl
@[simp] theorem State.setThread_resends (s : State) (h : Nat) (t : Thread) : (s.setThread h t).resends = s.resends := rfl
@[simp] theorem State.setThread_stuck (s : State) (h : Nat) (t : Thread) : (s.setThread h t).stuck = s.stuck := rfl
@[simp] theorem State.setThread_routes (s : State) (h : Nat) (t : Thread) : (s.setThread h t).routes = s.routes := rfl
@[simp] theorem State.setThread_timeseed (s : State) (h : Nat) (t : Thread) : (s.setThread h t).timeseed = s.timeseed := rfl
@[simp] theorem State.setThread_windows (s : State) (h : Nat) (t : Thread) : (s.setThread h t).windows = s.windows := rfl
@[simp] theorem State.setThread_vectors (s : State) (h : Nat) (t : Thread) : (s.setThread h t).vectors = s.vectors := rfl
@[simp] theorem State.setThread_start (s : State) (h : Nat) (t : Thread) : (s.setThread h t).start = s.start := rfl
@[simp] theorem State.setThread_powered (s : State) (h : Nat) (t : Thread) : (s.setThread h t).powered = s.powered := rfl
@[simp] theorem State.setThread_limited (s : State) (h : Nat) (t : Thread) : (s.setThread h t).limited = s.limited := rfl
@[simp] theorem State.setThread_tqbase (s : State) (h : Nat) (t : Thread) : (s.setThread h t).tqbase = s.tqbase := rfl
@[simp] theorem State.setThread_tqhead (s : State) (h : Nat) (t : Thread) : (s.setThread h t).tqhead = s.tqhead := rfl
@[simp] theorem State.setThread_tqtail (s : State) (h : Nat) (t : Thread) : (s.setThread h t).tqtail = s.tqtail := rfl
@[simp] theorem State.setThread_tqsize (s : State) (h : Nat) (t : Thread) : (s.setThread h t).tqsize = s.tqsize := rfl
@[simp] theorem State.setThread_parkth (s : State) (h : Nat) (t : Thread) : (s.setThread h t).parkth = s.parkth := rfl
@[simp] theorem State.setThread_records (s : State) (h : Nat) (t : Thread) : (s.setThread h t).records = s.records := rfl
@[simp] theorem State.setThread_queued (s : State) (h : Nat) (t : Thread) : (s.setThread h t).queued = s.queued := rfl
@[simp] theorem State.setThread_pkg (s : State) (h : Nat) (t : Thread) : (s.setThread h t).pkg = s.pkg := rfl
@[simp] theorem State.setThread_serial (s : State) (h : Nat) (t : Thread) : (s.setThread h t).serial = s.serial := rfl
@[simp] theorem State.setThread_msgs (s : State) (h : Nat) (t : Thread) : (s.setThread h t).msgs = s.msgs := rfl

@[simp] theorem State.setWg_agenda (s : State) (g : Nat) (w : Workgroup) : (s.setWg g w).agenda = s.agenda := rfl
@[simp] theorem State.setWg_cur (s : State) (g : Nat) (w : Workgroup) : (s.setWg g w).cur = s.cur := rfl
@[simp] theorem State.setWg_nextId (s : State) (g : Nat) (w : Workgroup) : (s.setWg g w).nextId = s.nextId := rfl
@[simp] theorem State.setWg_freeCtr (s : State) (g : Nat) (w : Workgroup) : (s.setWg g w).freeCtr = s.freeCtr := rfl
@[simp] theorem State.setWg_now (s : State) (g : Nat) (w : Workgroup) : (s.setWg g w).now = s.now := rfl
@[simp] theorem State.setWg_ctxs (s : State) (g : Nat) (w : Workgroup) : (s.setWg g w).ctxs = s.ctxs := rfl
@[simp] theorem State.setWg_teams (s : State) (g : Nat) (w : Workgroup) : (s.setWg g w).teams = s.teams := rfl
@[simp] theorem State.setWg_threads (s : State) (g : Nat) (w : Workgroup) : (s.setWg g w).threads = s.threads := rfl
@[simp] theorem State.setWg_vregs (s : State) (g : Nat) (w : Workgroup) : (s.setWg g w).vregs = s.vregs := rfl
@[simp] theorem State.setWg_sp (s : State) (g : Nat) (w : Workgroup) : (s.setWg g w).sp = s.sp := rfl
@[simp] theorem State.setWg_foals (s : State) (g : Nat) (w : Workgroup) : (s.setWg g w).foals = s.foals := rfl
@[simp] theorem State.setWg_foalGens (s : State) (g : Nat) (w : Workgroup) : (s.setWg g w).foalGens = s.foalGens := rfl
@[simp] theorem State.setWg_mem (s : State) (g : Nat) (w : Workgroup) : (s.setWg g w).mem = s.mem := rfl
@[simp] theorem State.setWg_poison (s : State) (g : Nat) (w : Workgroup) : (s.setWg g w).poison = s.poison := rfl
@[simp] theorem State.setWg_l2 (s : State) (g : Nat) (w : Workgroup) : (s.setWg g w).l2 = s.l2 := rfl
@[simp] theorem State.setWg_ways (s : State) (g : Nat) (w : Workgroup) : (s.setWg g w).ways = s.ways := rfl
@[simp] theorem State.setWg_l1 (s : State) (g : Nat) (w : Workgroup) : (s.setWg g w).l1 = s.l1 := rfl
@[simp] theorem State.setWg_tlb (s : State) (g : Nat) (w : Workgroup) : (s.setWg g w).tlb = s.tlb := rfl
@[simp] theorem State.setWg_fills (s : State) (g : Nat) (w : Workgroup) : (s.setWg g w).fills = s.fills := rfl
@[simp] theorem State.setWg_invals (s : State) (g : Nat) (w : Workgroup) : (s.setWg g w).invals = s.invals := rfl
@[simp] theorem State.setWg_dieSeen (s : State) (g : Nat) (w : Workgroup) : (s.setWg g w).dieSeen = s.dieSeen := rfl
@[simp] theorem State.setWg_oldCode (s : State) (g : Nat) (w : Workgroup) : (s.setWg g w).oldCode = s.oldCode := rfl
@[simp] theorem State.setWg_parts (s : State) (g : Nat) (w : Workgroup) : (s.setWg g w).parts = s.parts := rfl
@[simp] theorem State.setWg_cores (s : State) (g : Nat) (w : Workgroup) : (s.setWg g w).cores = s.cores := rfl
@[simp] theorem State.setWg_clusters (s : State) (g : Nat) (w : Workgroup) : (s.setWg g w).clusters = s.clusters := rfl
@[simp] theorem State.setWg_sramErrs (s : State) (g : Nat) (w : Workgroup) : (s.setWg g w).sramErrs = s.sramErrs := rfl
@[simp] theorem State.setWg_control (s : State) (g : Nat) (w : Workgroup) : (s.setWg g w).control = s.control := rfl
@[simp] theorem State.setWg_entities (s : State) (g : Nat) (w : Workgroup) : (s.setWg g w).entities = s.entities := rfl
@[simp] theorem State.setWg_qturn (s : State) (g : Nat) (w : Workgroup) : (s.setWg g w).qturn = s.qturn := rfl
@[simp] theorem State.setWg_pages (s : State) (g : Nat) (w : Workgroup) : (s.setWg g w).pages = s.pages := rfl
@[simp] theorem State.setWg_arms (s : State) (g : Nat) (w : Workgroup) : (s.setWg g w).arms = s.arms := rfl
@[simp] theorem State.setWg_time (s : State) (g : Nat) (w : Workgroup) : (s.setWg g w).time = s.time := rfl
@[simp] theorem State.setWg_clock (s : State) (g : Nat) (w : Workgroup) : (s.setWg g w).clock = s.clock := rfl
@[simp] theorem State.setWg_ptp (s : State) (g : Nat) (w : Workgroup) : (s.setWg g w).ptp = s.ptp := rfl
@[simp] theorem State.setWg_election (s : State) (g : Nat) (w : Workgroup) : (s.setWg g w).election = s.election := rfl
@[simp] theorem State.setWg_ports (s : State) (g : Nat) (w : Workgroup) : (s.setWg g w).ports = s.ports := rfl
@[simp] theorem State.setWg_resends (s : State) (g : Nat) (w : Workgroup) : (s.setWg g w).resends = s.resends := rfl
@[simp] theorem State.setWg_stuck (s : State) (g : Nat) (w : Workgroup) : (s.setWg g w).stuck = s.stuck := rfl
@[simp] theorem State.setWg_routes (s : State) (g : Nat) (w : Workgroup) : (s.setWg g w).routes = s.routes := rfl
@[simp] theorem State.setWg_timeseed (s : State) (g : Nat) (w : Workgroup) : (s.setWg g w).timeseed = s.timeseed := rfl
@[simp] theorem State.setWg_windows (s : State) (g : Nat) (w : Workgroup) : (s.setWg g w).windows = s.windows := rfl
@[simp] theorem State.setWg_vectors (s : State) (g : Nat) (w : Workgroup) : (s.setWg g w).vectors = s.vectors := rfl
@[simp] theorem State.setWg_start (s : State) (g : Nat) (w : Workgroup) : (s.setWg g w).start = s.start := rfl
@[simp] theorem State.setWg_powered (s : State) (g : Nat) (w : Workgroup) : (s.setWg g w).powered = s.powered := rfl
@[simp] theorem State.setWg_limited (s : State) (g : Nat) (w : Workgroup) : (s.setWg g w).limited = s.limited := rfl
@[simp] theorem State.setWg_tqbase (s : State) (g : Nat) (w : Workgroup) : (s.setWg g w).tqbase = s.tqbase := rfl
@[simp] theorem State.setWg_tqhead (s : State) (g : Nat) (w : Workgroup) : (s.setWg g w).tqhead = s.tqhead := rfl
@[simp] theorem State.setWg_tqtail (s : State) (g : Nat) (w : Workgroup) : (s.setWg g w).tqtail = s.tqtail := rfl
@[simp] theorem State.setWg_tqsize (s : State) (g : Nat) (w : Workgroup) : (s.setWg g w).tqsize = s.tqsize := rfl
@[simp] theorem State.setWg_parkth (s : State) (g : Nat) (w : Workgroup) : (s.setWg g w).parkth = s.parkth := rfl
@[simp] theorem State.setWg_records (s : State) (g : Nat) (w : Workgroup) : (s.setWg g w).records = s.records := rfl
@[simp] theorem State.setWg_queued (s : State) (g : Nat) (w : Workgroup) : (s.setWg g w).queued = s.queued := rfl
@[simp] theorem State.setWg_pkg (s : State) (g : Nat) (w : Workgroup) : (s.setWg g w).pkg = s.pkg := rfl
@[simp] theorem State.setWg_serial (s : State) (g : Nat) (w : Workgroup) : (s.setWg g w).serial = s.serial := rfl
@[simp] theorem State.setWg_msgs (s : State) (g : Nat) (w : Workgroup) : (s.setWg g w).msgs = s.msgs := rfl

@[simp] theorem State.setVreg_agenda (s : State) (h r : Nat) (v : VecReg) : (s.setVreg h r v).agenda = s.agenda := rfl
@[simp] theorem State.setVreg_cur (s : State) (h r : Nat) (v : VecReg) : (s.setVreg h r v).cur = s.cur := rfl
@[simp] theorem State.setVreg_nextId (s : State) (h r : Nat) (v : VecReg) : (s.setVreg h r v).nextId = s.nextId := rfl
@[simp] theorem State.setVreg_freeCtr (s : State) (h r : Nat) (v : VecReg) : (s.setVreg h r v).freeCtr = s.freeCtr := rfl
@[simp] theorem State.setVreg_now (s : State) (h r : Nat) (v : VecReg) : (s.setVreg h r v).now = s.now := rfl
@[simp] theorem State.setVreg_ctxs (s : State) (h r : Nat) (v : VecReg) : (s.setVreg h r v).ctxs = s.ctxs := rfl
@[simp] theorem State.setVreg_teams (s : State) (h r : Nat) (v : VecReg) : (s.setVreg h r v).teams = s.teams := rfl
@[simp] theorem State.setVreg_threads (s : State) (h r : Nat) (v : VecReg) : (s.setVreg h r v).threads = s.threads := rfl
@[simp] theorem State.setVreg_wgs (s : State) (h r : Nat) (v : VecReg) : (s.setVreg h r v).wgs = s.wgs := rfl
@[simp] theorem State.setVreg_sp (s : State) (h r : Nat) (v : VecReg) : (s.setVreg h r v).sp = s.sp := rfl
@[simp] theorem State.setVreg_foals (s : State) (h r : Nat) (v : VecReg) : (s.setVreg h r v).foals = s.foals := rfl
@[simp] theorem State.setVreg_foalGens (s : State) (h r : Nat) (v : VecReg) : (s.setVreg h r v).foalGens = s.foalGens := rfl
@[simp] theorem State.setVreg_mem (s : State) (h r : Nat) (v : VecReg) : (s.setVreg h r v).mem = s.mem := rfl
@[simp] theorem State.setVreg_poison (s : State) (h r : Nat) (v : VecReg) : (s.setVreg h r v).poison = s.poison := rfl
@[simp] theorem State.setVreg_l2 (s : State) (h r : Nat) (v : VecReg) : (s.setVreg h r v).l2 = s.l2 := rfl
@[simp] theorem State.setVreg_ways (s : State) (h r : Nat) (v : VecReg) : (s.setVreg h r v).ways = s.ways := rfl
@[simp] theorem State.setVreg_l1 (s : State) (h r : Nat) (v : VecReg) : (s.setVreg h r v).l1 = s.l1 := rfl
@[simp] theorem State.setVreg_tlb (s : State) (h r : Nat) (v : VecReg) : (s.setVreg h r v).tlb = s.tlb := rfl
@[simp] theorem State.setVreg_fills (s : State) (h r : Nat) (v : VecReg) : (s.setVreg h r v).fills = s.fills := rfl
@[simp] theorem State.setVreg_invals (s : State) (h r : Nat) (v : VecReg) : (s.setVreg h r v).invals = s.invals := rfl
@[simp] theorem State.setVreg_dieSeen (s : State) (h r : Nat) (v : VecReg) : (s.setVreg h r v).dieSeen = s.dieSeen := rfl
@[simp] theorem State.setVreg_oldCode (s : State) (h r : Nat) (v : VecReg) : (s.setVreg h r v).oldCode = s.oldCode := rfl
@[simp] theorem State.setVreg_parts (s : State) (h r : Nat) (v : VecReg) : (s.setVreg h r v).parts = s.parts := rfl
@[simp] theorem State.setVreg_cores (s : State) (h r : Nat) (v : VecReg) : (s.setVreg h r v).cores = s.cores := rfl
@[simp] theorem State.setVreg_clusters (s : State) (h r : Nat) (v : VecReg) : (s.setVreg h r v).clusters = s.clusters := rfl
@[simp] theorem State.setVreg_sramErrs (s : State) (h r : Nat) (v : VecReg) : (s.setVreg h r v).sramErrs = s.sramErrs := rfl
@[simp] theorem State.setVreg_control (s : State) (h r : Nat) (v : VecReg) : (s.setVreg h r v).control = s.control := rfl
@[simp] theorem State.setVreg_entities (s : State) (h r : Nat) (v : VecReg) : (s.setVreg h r v).entities = s.entities := rfl
@[simp] theorem State.setVreg_qturn (s : State) (h r : Nat) (v : VecReg) : (s.setVreg h r v).qturn = s.qturn := rfl
@[simp] theorem State.setVreg_pages (s : State) (h r : Nat) (v : VecReg) : (s.setVreg h r v).pages = s.pages := rfl
@[simp] theorem State.setVreg_arms (s : State) (h r : Nat) (v : VecReg) : (s.setVreg h r v).arms = s.arms := rfl
@[simp] theorem State.setVreg_time (s : State) (h r : Nat) (v : VecReg) : (s.setVreg h r v).time = s.time := rfl
@[simp] theorem State.setVreg_clock (s : State) (h r : Nat) (v : VecReg) : (s.setVreg h r v).clock = s.clock := rfl
@[simp] theorem State.setVreg_ptp (s : State) (h r : Nat) (v : VecReg) : (s.setVreg h r v).ptp = s.ptp := rfl
@[simp] theorem State.setVreg_election (s : State) (h r : Nat) (v : VecReg) : (s.setVreg h r v).election = s.election := rfl
@[simp] theorem State.setVreg_ports (s : State) (h r : Nat) (v : VecReg) : (s.setVreg h r v).ports = s.ports := rfl
@[simp] theorem State.setVreg_resends (s : State) (h r : Nat) (v : VecReg) : (s.setVreg h r v).resends = s.resends := rfl
@[simp] theorem State.setVreg_stuck (s : State) (h r : Nat) (v : VecReg) : (s.setVreg h r v).stuck = s.stuck := rfl
@[simp] theorem State.setVreg_routes (s : State) (h r : Nat) (v : VecReg) : (s.setVreg h r v).routes = s.routes := rfl
@[simp] theorem State.setVreg_timeseed (s : State) (h r : Nat) (v : VecReg) : (s.setVreg h r v).timeseed = s.timeseed := rfl
@[simp] theorem State.setVreg_windows (s : State) (h r : Nat) (v : VecReg) : (s.setVreg h r v).windows = s.windows := rfl
@[simp] theorem State.setVreg_vectors (s : State) (h r : Nat) (v : VecReg) : (s.setVreg h r v).vectors = s.vectors := rfl
@[simp] theorem State.setVreg_start (s : State) (h r : Nat) (v : VecReg) : (s.setVreg h r v).start = s.start := rfl
@[simp] theorem State.setVreg_powered (s : State) (h r : Nat) (v : VecReg) : (s.setVreg h r v).powered = s.powered := rfl
@[simp] theorem State.setVreg_limited (s : State) (h r : Nat) (v : VecReg) : (s.setVreg h r v).limited = s.limited := rfl
@[simp] theorem State.setVreg_tqbase (s : State) (h r : Nat) (v : VecReg) : (s.setVreg h r v).tqbase = s.tqbase := rfl
@[simp] theorem State.setVreg_tqhead (s : State) (h r : Nat) (v : VecReg) : (s.setVreg h r v).tqhead = s.tqhead := rfl
@[simp] theorem State.setVreg_tqtail (s : State) (h r : Nat) (v : VecReg) : (s.setVreg h r v).tqtail = s.tqtail := rfl
@[simp] theorem State.setVreg_tqsize (s : State) (h r : Nat) (v : VecReg) : (s.setVreg h r v).tqsize = s.tqsize := rfl
@[simp] theorem State.setVreg_parkth (s : State) (h r : Nat) (v : VecReg) : (s.setVreg h r v).parkth = s.parkth := rfl
@[simp] theorem State.setVreg_records (s : State) (h r : Nat) (v : VecReg) : (s.setVreg h r v).records = s.records := rfl
@[simp] theorem State.setVreg_queued (s : State) (h r : Nat) (v : VecReg) : (s.setVreg h r v).queued = s.queued := rfl
@[simp] theorem State.setVreg_pkg (s : State) (h r : Nat) (v : VecReg) : (s.setVreg h r v).pkg = s.pkg := rfl
@[simp] theorem State.setVreg_serial (s : State) (h r : Nat) (v : VecReg) : (s.setVreg h r v).serial = s.serial := rfl
@[simp] theorem State.setVreg_msgs (s : State) (h r : Nat) (v : VecReg) : (s.setVreg h r v).msgs = s.msgs := rfl

@[simp] theorem State.setPart_agenda (s : State) (p : Nat) (x : Partition) : (s.setPart p x).agenda = s.agenda := rfl
@[simp] theorem State.setPart_cur (s : State) (p : Nat) (x : Partition) : (s.setPart p x).cur = s.cur := rfl
@[simp] theorem State.setPart_nextId (s : State) (p : Nat) (x : Partition) : (s.setPart p x).nextId = s.nextId := rfl
@[simp] theorem State.setPart_freeCtr (s : State) (p : Nat) (x : Partition) : (s.setPart p x).freeCtr = s.freeCtr := rfl
@[simp] theorem State.setPart_now (s : State) (p : Nat) (x : Partition) : (s.setPart p x).now = s.now := rfl
@[simp] theorem State.setPart_ctxs (s : State) (p : Nat) (x : Partition) : (s.setPart p x).ctxs = s.ctxs := rfl
@[simp] theorem State.setPart_teams (s : State) (p : Nat) (x : Partition) : (s.setPart p x).teams = s.teams := rfl
@[simp] theorem State.setPart_threads (s : State) (p : Nat) (x : Partition) : (s.setPart p x).threads = s.threads := rfl
@[simp] theorem State.setPart_vregs (s : State) (p : Nat) (x : Partition) : (s.setPart p x).vregs = s.vregs := rfl
@[simp] theorem State.setPart_wgs (s : State) (p : Nat) (x : Partition) : (s.setPart p x).wgs = s.wgs := rfl
@[simp] theorem State.setPart_sp (s : State) (p : Nat) (x : Partition) : (s.setPart p x).sp = s.sp := rfl
@[simp] theorem State.setPart_foals (s : State) (p : Nat) (x : Partition) : (s.setPart p x).foals = s.foals := rfl
@[simp] theorem State.setPart_foalGens (s : State) (p : Nat) (x : Partition) : (s.setPart p x).foalGens = s.foalGens := rfl
@[simp] theorem State.setPart_mem (s : State) (p : Nat) (x : Partition) : (s.setPart p x).mem = s.mem := rfl
@[simp] theorem State.setPart_poison (s : State) (p : Nat) (x : Partition) : (s.setPart p x).poison = s.poison := rfl
@[simp] theorem State.setPart_l2 (s : State) (p : Nat) (x : Partition) : (s.setPart p x).l2 = s.l2 := rfl
@[simp] theorem State.setPart_ways (s : State) (p : Nat) (x : Partition) : (s.setPart p x).ways = s.ways := rfl
@[simp] theorem State.setPart_l1 (s : State) (p : Nat) (x : Partition) : (s.setPart p x).l1 = s.l1 := rfl
@[simp] theorem State.setPart_tlb (s : State) (p : Nat) (x : Partition) : (s.setPart p x).tlb = s.tlb := rfl
@[simp] theorem State.setPart_fills (s : State) (p : Nat) (x : Partition) : (s.setPart p x).fills = s.fills := rfl
@[simp] theorem State.setPart_invals (s : State) (p : Nat) (x : Partition) : (s.setPart p x).invals = s.invals := rfl
@[simp] theorem State.setPart_dieSeen (s : State) (p : Nat) (x : Partition) : (s.setPart p x).dieSeen = s.dieSeen := rfl
@[simp] theorem State.setPart_oldCode (s : State) (p : Nat) (x : Partition) : (s.setPart p x).oldCode = s.oldCode := rfl
@[simp] theorem State.setPart_cores (s : State) (p : Nat) (x : Partition) : (s.setPart p x).cores = s.cores := rfl
@[simp] theorem State.setPart_clusters (s : State) (p : Nat) (x : Partition) : (s.setPart p x).clusters = s.clusters := rfl
@[simp] theorem State.setPart_sramErrs (s : State) (p : Nat) (x : Partition) : (s.setPart p x).sramErrs = s.sramErrs := rfl
@[simp] theorem State.setPart_control (s : State) (p : Nat) (x : Partition) : (s.setPart p x).control = s.control := rfl
@[simp] theorem State.setPart_entities (s : State) (p : Nat) (x : Partition) : (s.setPart p x).entities = s.entities := rfl
@[simp] theorem State.setPart_qturn (s : State) (p : Nat) (x : Partition) : (s.setPart p x).qturn = s.qturn := rfl
@[simp] theorem State.setPart_pages (s : State) (p : Nat) (x : Partition) : (s.setPart p x).pages = s.pages := rfl
@[simp] theorem State.setPart_arms (s : State) (p : Nat) (x : Partition) : (s.setPart p x).arms = s.arms := rfl
@[simp] theorem State.setPart_time (s : State) (p : Nat) (x : Partition) : (s.setPart p x).time = s.time := rfl
@[simp] theorem State.setPart_clock (s : State) (p : Nat) (x : Partition) : (s.setPart p x).clock = s.clock := rfl
@[simp] theorem State.setPart_ptp (s : State) (p : Nat) (x : Partition) : (s.setPart p x).ptp = s.ptp := rfl
@[simp] theorem State.setPart_election (s : State) (p : Nat) (x : Partition) : (s.setPart p x).election = s.election := rfl
@[simp] theorem State.setPart_ports (s : State) (p : Nat) (x : Partition) : (s.setPart p x).ports = s.ports := rfl
@[simp] theorem State.setPart_resends (s : State) (p : Nat) (x : Partition) : (s.setPart p x).resends = s.resends := rfl
@[simp] theorem State.setPart_stuck (s : State) (p : Nat) (x : Partition) : (s.setPart p x).stuck = s.stuck := rfl
@[simp] theorem State.setPart_routes (s : State) (p : Nat) (x : Partition) : (s.setPart p x).routes = s.routes := rfl
@[simp] theorem State.setPart_timeseed (s : State) (p : Nat) (x : Partition) : (s.setPart p x).timeseed = s.timeseed := rfl
@[simp] theorem State.setPart_windows (s : State) (p : Nat) (x : Partition) : (s.setPart p x).windows = s.windows := rfl
@[simp] theorem State.setPart_vectors (s : State) (p : Nat) (x : Partition) : (s.setPart p x).vectors = s.vectors := rfl
@[simp] theorem State.setPart_start (s : State) (p : Nat) (x : Partition) : (s.setPart p x).start = s.start := rfl
@[simp] theorem State.setPart_powered (s : State) (p : Nat) (x : Partition) : (s.setPart p x).powered = s.powered := rfl
@[simp] theorem State.setPart_limited (s : State) (p : Nat) (x : Partition) : (s.setPart p x).limited = s.limited := rfl
@[simp] theorem State.setPart_tqbase (s : State) (p : Nat) (x : Partition) : (s.setPart p x).tqbase = s.tqbase := rfl
@[simp] theorem State.setPart_tqhead (s : State) (p : Nat) (x : Partition) : (s.setPart p x).tqhead = s.tqhead := rfl
@[simp] theorem State.setPart_tqtail (s : State) (p : Nat) (x : Partition) : (s.setPart p x).tqtail = s.tqtail := rfl
@[simp] theorem State.setPart_tqsize (s : State) (p : Nat) (x : Partition) : (s.setPart p x).tqsize = s.tqsize := rfl
@[simp] theorem State.setPart_parkth (s : State) (p : Nat) (x : Partition) : (s.setPart p x).parkth = s.parkth := rfl
@[simp] theorem State.setPart_records (s : State) (p : Nat) (x : Partition) : (s.setPart p x).records = s.records := rfl
@[simp] theorem State.setPart_queued (s : State) (p : Nat) (x : Partition) : (s.setPart p x).queued = s.queued := rfl
@[simp] theorem State.setPart_pkg (s : State) (p : Nat) (x : Partition) : (s.setPart p x).pkg = s.pkg := rfl
@[simp] theorem State.setPart_serial (s : State) (p : Nat) (x : Partition) : (s.setPart p x).serial = s.serial := rfl
@[simp] theorem State.setPart_msgs (s : State) (p : Nat) (x : Partition) : (s.setPart p x).msgs = s.msgs := rfl

@[simp] theorem State.setSreg_agenda (s : State) (h : Nat) (r : SReg) (v : DWord) : (s.setSreg h r v).agenda = s.agenda := rfl
@[simp] theorem State.setSreg_cur (s : State) (h : Nat) (r : SReg) (v : DWord) : (s.setSreg h r v).cur = s.cur := rfl
@[simp] theorem State.setSreg_nextId (s : State) (h : Nat) (r : SReg) (v : DWord) : (s.setSreg h r v).nextId = s.nextId := rfl
@[simp] theorem State.setSreg_freeCtr (s : State) (h : Nat) (r : SReg) (v : DWord) : (s.setSreg h r v).freeCtr = s.freeCtr := rfl
@[simp] theorem State.setSreg_now (s : State) (h : Nat) (r : SReg) (v : DWord) : (s.setSreg h r v).now = s.now := rfl
@[simp] theorem State.setSreg_teams (s : State) (h : Nat) (r : SReg) (v : DWord) : (s.setSreg h r v).teams = s.teams := rfl
@[simp] theorem State.setSreg_threads (s : State) (h : Nat) (r : SReg) (v : DWord) : (s.setSreg h r v).threads = s.threads := rfl
@[simp] theorem State.setSreg_vregs (s : State) (h : Nat) (r : SReg) (v : DWord) : (s.setSreg h r v).vregs = s.vregs := rfl
@[simp] theorem State.setSreg_wgs (s : State) (h : Nat) (r : SReg) (v : DWord) : (s.setSreg h r v).wgs = s.wgs := rfl
@[simp] theorem State.setSreg_sp (s : State) (h : Nat) (r : SReg) (v : DWord) : (s.setSreg h r v).sp = s.sp := rfl
@[simp] theorem State.setSreg_foals (s : State) (h : Nat) (r : SReg) (v : DWord) : (s.setSreg h r v).foals = s.foals := rfl
@[simp] theorem State.setSreg_foalGens (s : State) (h : Nat) (r : SReg) (v : DWord) : (s.setSreg h r v).foalGens = s.foalGens := rfl
@[simp] theorem State.setSreg_mem (s : State) (h : Nat) (r : SReg) (v : DWord) : (s.setSreg h r v).mem = s.mem := rfl
@[simp] theorem State.setSreg_poison (s : State) (h : Nat) (r : SReg) (v : DWord) : (s.setSreg h r v).poison = s.poison := rfl
@[simp] theorem State.setSreg_l2 (s : State) (h : Nat) (r : SReg) (v : DWord) : (s.setSreg h r v).l2 = s.l2 := rfl
@[simp] theorem State.setSreg_ways (s : State) (h : Nat) (r : SReg) (v : DWord) : (s.setSreg h r v).ways = s.ways := rfl
@[simp] theorem State.setSreg_l1 (s : State) (h : Nat) (r : SReg) (v : DWord) : (s.setSreg h r v).l1 = s.l1 := rfl
@[simp] theorem State.setSreg_tlb (s : State) (h : Nat) (r : SReg) (v : DWord) : (s.setSreg h r v).tlb = s.tlb := rfl
@[simp] theorem State.setSreg_fills (s : State) (h : Nat) (r : SReg) (v : DWord) : (s.setSreg h r v).fills = s.fills := rfl
@[simp] theorem State.setSreg_invals (s : State) (h : Nat) (r : SReg) (v : DWord) : (s.setSreg h r v).invals = s.invals := rfl
@[simp] theorem State.setSreg_dieSeen (s : State) (h : Nat) (r : SReg) (v : DWord) : (s.setSreg h r v).dieSeen = s.dieSeen := rfl
@[simp] theorem State.setSreg_oldCode (s : State) (h : Nat) (r : SReg) (v : DWord) : (s.setSreg h r v).oldCode = s.oldCode := rfl
@[simp] theorem State.setSreg_parts (s : State) (h : Nat) (r : SReg) (v : DWord) : (s.setSreg h r v).parts = s.parts := rfl
@[simp] theorem State.setSreg_cores (s : State) (h : Nat) (r : SReg) (v : DWord) : (s.setSreg h r v).cores = s.cores := rfl
@[simp] theorem State.setSreg_clusters (s : State) (h : Nat) (r : SReg) (v : DWord) : (s.setSreg h r v).clusters = s.clusters := rfl
@[simp] theorem State.setSreg_sramErrs (s : State) (h : Nat) (r : SReg) (v : DWord) : (s.setSreg h r v).sramErrs = s.sramErrs := rfl
@[simp] theorem State.setSreg_control (s : State) (h : Nat) (r : SReg) (v : DWord) : (s.setSreg h r v).control = s.control := rfl
@[simp] theorem State.setSreg_entities (s : State) (h : Nat) (r : SReg) (v : DWord) : (s.setSreg h r v).entities = s.entities := rfl
@[simp] theorem State.setSreg_qturn (s : State) (h : Nat) (r : SReg) (v : DWord) : (s.setSreg h r v).qturn = s.qturn := rfl
@[simp] theorem State.setSreg_pages (s : State) (h : Nat) (r : SReg) (v : DWord) : (s.setSreg h r v).pages = s.pages := rfl
@[simp] theorem State.setSreg_arms (s : State) (h : Nat) (r : SReg) (v : DWord) : (s.setSreg h r v).arms = s.arms := rfl
@[simp] theorem State.setSreg_time (s : State) (h : Nat) (r : SReg) (v : DWord) : (s.setSreg h r v).time = s.time := rfl
@[simp] theorem State.setSreg_clock (s : State) (h : Nat) (r : SReg) (v : DWord) : (s.setSreg h r v).clock = s.clock := rfl
@[simp] theorem State.setSreg_ptp (s : State) (h : Nat) (r : SReg) (v : DWord) : (s.setSreg h r v).ptp = s.ptp := rfl
@[simp] theorem State.setSreg_election (s : State) (h : Nat) (r : SReg) (v : DWord) : (s.setSreg h r v).election = s.election := rfl
@[simp] theorem State.setSreg_ports (s : State) (h : Nat) (r : SReg) (v : DWord) : (s.setSreg h r v).ports = s.ports := rfl
@[simp] theorem State.setSreg_resends (s : State) (h : Nat) (r : SReg) (v : DWord) : (s.setSreg h r v).resends = s.resends := rfl
@[simp] theorem State.setSreg_stuck (s : State) (h : Nat) (r : SReg) (v : DWord) : (s.setSreg h r v).stuck = s.stuck := rfl
@[simp] theorem State.setSreg_routes (s : State) (h : Nat) (r : SReg) (v : DWord) : (s.setSreg h r v).routes = s.routes := rfl
@[simp] theorem State.setSreg_timeseed (s : State) (h : Nat) (r : SReg) (v : DWord) : (s.setSreg h r v).timeseed = s.timeseed := rfl
@[simp] theorem State.setSreg_windows (s : State) (h : Nat) (r : SReg) (v : DWord) : (s.setSreg h r v).windows = s.windows := rfl
@[simp] theorem State.setSreg_vectors (s : State) (h : Nat) (r : SReg) (v : DWord) : (s.setSreg h r v).vectors = s.vectors := rfl
@[simp] theorem State.setSreg_start (s : State) (h : Nat) (r : SReg) (v : DWord) : (s.setSreg h r v).start = s.start := rfl
@[simp] theorem State.setSreg_powered (s : State) (h : Nat) (r : SReg) (v : DWord) : (s.setSreg h r v).powered = s.powered := rfl
@[simp] theorem State.setSreg_limited (s : State) (h : Nat) (r : SReg) (v : DWord) : (s.setSreg h r v).limited = s.limited := rfl
@[simp] theorem State.setSreg_tqbase (s : State) (h : Nat) (r : SReg) (v : DWord) : (s.setSreg h r v).tqbase = s.tqbase := rfl
@[simp] theorem State.setSreg_tqhead (s : State) (h : Nat) (r : SReg) (v : DWord) : (s.setSreg h r v).tqhead = s.tqhead := rfl
@[simp] theorem State.setSreg_tqtail (s : State) (h : Nat) (r : SReg) (v : DWord) : (s.setSreg h r v).tqtail = s.tqtail := rfl
@[simp] theorem State.setSreg_tqsize (s : State) (h : Nat) (r : SReg) (v : DWord) : (s.setSreg h r v).tqsize = s.tqsize := rfl
@[simp] theorem State.setSreg_parkth (s : State) (h : Nat) (r : SReg) (v : DWord) : (s.setSreg h r v).parkth = s.parkth := rfl
@[simp] theorem State.setSreg_records (s : State) (h : Nat) (r : SReg) (v : DWord) : (s.setSreg h r v).records = s.records := rfl
@[simp] theorem State.setSreg_queued (s : State) (h : Nat) (r : SReg) (v : DWord) : (s.setSreg h r v).queued = s.queued := rfl
@[simp] theorem State.setSreg_pkg (s : State) (h : Nat) (r : SReg) (v : DWord) : (s.setSreg h r v).pkg = s.pkg := rfl
@[simp] theorem State.setSreg_serial (s : State) (h : Nat) (r : SReg) (v : DWord) : (s.setSreg h r v).serial = s.serial := rfl
@[simp] theorem State.setSreg_msgs (s : State) (h : Nat) (r : SReg) (v : DWord) : (s.setSreg h r v).msgs = s.msgs := rfl

@[simp] theorem State.setScc_agenda (s : State) (h : Nat) (b : Bool) : (s.setScc h b).agenda = s.agenda := rfl
@[simp] theorem State.setScc_cur (s : State) (h : Nat) (b : Bool) : (s.setScc h b).cur = s.cur := rfl
@[simp] theorem State.setScc_nextId (s : State) (h : Nat) (b : Bool) : (s.setScc h b).nextId = s.nextId := rfl
@[simp] theorem State.setScc_freeCtr (s : State) (h : Nat) (b : Bool) : (s.setScc h b).freeCtr = s.freeCtr := rfl
@[simp] theorem State.setScc_now (s : State) (h : Nat) (b : Bool) : (s.setScc h b).now = s.now := rfl
@[simp] theorem State.setScc_teams (s : State) (h : Nat) (b : Bool) : (s.setScc h b).teams = s.teams := rfl
@[simp] theorem State.setScc_threads (s : State) (h : Nat) (b : Bool) : (s.setScc h b).threads = s.threads := rfl
@[simp] theorem State.setScc_vregs (s : State) (h : Nat) (b : Bool) : (s.setScc h b).vregs = s.vregs := rfl
@[simp] theorem State.setScc_wgs (s : State) (h : Nat) (b : Bool) : (s.setScc h b).wgs = s.wgs := rfl
@[simp] theorem State.setScc_sp (s : State) (h : Nat) (b : Bool) : (s.setScc h b).sp = s.sp := rfl
@[simp] theorem State.setScc_foals (s : State) (h : Nat) (b : Bool) : (s.setScc h b).foals = s.foals := rfl
@[simp] theorem State.setScc_foalGens (s : State) (h : Nat) (b : Bool) : (s.setScc h b).foalGens = s.foalGens := rfl
@[simp] theorem State.setScc_mem (s : State) (h : Nat) (b : Bool) : (s.setScc h b).mem = s.mem := rfl
@[simp] theorem State.setScc_poison (s : State) (h : Nat) (b : Bool) : (s.setScc h b).poison = s.poison := rfl
@[simp] theorem State.setScc_l2 (s : State) (h : Nat) (b : Bool) : (s.setScc h b).l2 = s.l2 := rfl
@[simp] theorem State.setScc_ways (s : State) (h : Nat) (b : Bool) : (s.setScc h b).ways = s.ways := rfl
@[simp] theorem State.setScc_l1 (s : State) (h : Nat) (b : Bool) : (s.setScc h b).l1 = s.l1 := rfl
@[simp] theorem State.setScc_tlb (s : State) (h : Nat) (b : Bool) : (s.setScc h b).tlb = s.tlb := rfl
@[simp] theorem State.setScc_fills (s : State) (h : Nat) (b : Bool) : (s.setScc h b).fills = s.fills := rfl
@[simp] theorem State.setScc_invals (s : State) (h : Nat) (b : Bool) : (s.setScc h b).invals = s.invals := rfl
@[simp] theorem State.setScc_dieSeen (s : State) (h : Nat) (b : Bool) : (s.setScc h b).dieSeen = s.dieSeen := rfl
@[simp] theorem State.setScc_oldCode (s : State) (h : Nat) (b : Bool) : (s.setScc h b).oldCode = s.oldCode := rfl
@[simp] theorem State.setScc_parts (s : State) (h : Nat) (b : Bool) : (s.setScc h b).parts = s.parts := rfl
@[simp] theorem State.setScc_cores (s : State) (h : Nat) (b : Bool) : (s.setScc h b).cores = s.cores := rfl
@[simp] theorem State.setScc_clusters (s : State) (h : Nat) (b : Bool) : (s.setScc h b).clusters = s.clusters := rfl
@[simp] theorem State.setScc_sramErrs (s : State) (h : Nat) (b : Bool) : (s.setScc h b).sramErrs = s.sramErrs := rfl
@[simp] theorem State.setScc_control (s : State) (h : Nat) (b : Bool) : (s.setScc h b).control = s.control := rfl
@[simp] theorem State.setScc_entities (s : State) (h : Nat) (b : Bool) : (s.setScc h b).entities = s.entities := rfl
@[simp] theorem State.setScc_qturn (s : State) (h : Nat) (b : Bool) : (s.setScc h b).qturn = s.qturn := rfl
@[simp] theorem State.setScc_pages (s : State) (h : Nat) (b : Bool) : (s.setScc h b).pages = s.pages := rfl
@[simp] theorem State.setScc_arms (s : State) (h : Nat) (b : Bool) : (s.setScc h b).arms = s.arms := rfl
@[simp] theorem State.setScc_time (s : State) (h : Nat) (b : Bool) : (s.setScc h b).time = s.time := rfl
@[simp] theorem State.setScc_clock (s : State) (h : Nat) (b : Bool) : (s.setScc h b).clock = s.clock := rfl
@[simp] theorem State.setScc_ptp (s : State) (h : Nat) (b : Bool) : (s.setScc h b).ptp = s.ptp := rfl
@[simp] theorem State.setScc_election (s : State) (h : Nat) (b : Bool) : (s.setScc h b).election = s.election := rfl
@[simp] theorem State.setScc_ports (s : State) (h : Nat) (b : Bool) : (s.setScc h b).ports = s.ports := rfl
@[simp] theorem State.setScc_resends (s : State) (h : Nat) (b : Bool) : (s.setScc h b).resends = s.resends := rfl
@[simp] theorem State.setScc_stuck (s : State) (h : Nat) (b : Bool) : (s.setScc h b).stuck = s.stuck := rfl
@[simp] theorem State.setScc_routes (s : State) (h : Nat) (b : Bool) : (s.setScc h b).routes = s.routes := rfl
@[simp] theorem State.setScc_timeseed (s : State) (h : Nat) (b : Bool) : (s.setScc h b).timeseed = s.timeseed := rfl
@[simp] theorem State.setScc_windows (s : State) (h : Nat) (b : Bool) : (s.setScc h b).windows = s.windows := rfl
@[simp] theorem State.setScc_vectors (s : State) (h : Nat) (b : Bool) : (s.setScc h b).vectors = s.vectors := rfl
@[simp] theorem State.setScc_start (s : State) (h : Nat) (b : Bool) : (s.setScc h b).start = s.start := rfl
@[simp] theorem State.setScc_powered (s : State) (h : Nat) (b : Bool) : (s.setScc h b).powered = s.powered := rfl
@[simp] theorem State.setScc_limited (s : State) (h : Nat) (b : Bool) : (s.setScc h b).limited = s.limited := rfl
@[simp] theorem State.setScc_tqbase (s : State) (h : Nat) (b : Bool) : (s.setScc h b).tqbase = s.tqbase := rfl
@[simp] theorem State.setScc_tqhead (s : State) (h : Nat) (b : Bool) : (s.setScc h b).tqhead = s.tqhead := rfl
@[simp] theorem State.setScc_tqtail (s : State) (h : Nat) (b : Bool) : (s.setScc h b).tqtail = s.tqtail := rfl
@[simp] theorem State.setScc_tqsize (s : State) (h : Nat) (b : Bool) : (s.setScc h b).tqsize = s.tqsize := rfl
@[simp] theorem State.setScc_parkth (s : State) (h : Nat) (b : Bool) : (s.setScc h b).parkth = s.parkth := rfl
@[simp] theorem State.setScc_records (s : State) (h : Nat) (b : Bool) : (s.setScc h b).records = s.records := rfl
@[simp] theorem State.setScc_queued (s : State) (h : Nat) (b : Bool) : (s.setScc h b).queued = s.queued := rfl
@[simp] theorem State.setScc_pkg (s : State) (h : Nat) (b : Bool) : (s.setScc h b).pkg = s.pkg := rfl
@[simp] theorem State.setScc_serial (s : State) (h : Nat) (b : Bool) : (s.setScc h b).serial = s.serial := rfl
@[simp] theorem State.setScc_msgs (s : State) (h : Nat) (b : Bool) : (s.setScc h b).msgs = s.msgs := rfl

@[simp] theorem State.setHbm_agenda (s : State) (pa : Nat) (b : Byte) : (s.setHbm pa b).agenda = s.agenda := rfl
@[simp] theorem State.setHbm_cur (s : State) (pa : Nat) (b : Byte) : (s.setHbm pa b).cur = s.cur := rfl
@[simp] theorem State.setHbm_nextId (s : State) (pa : Nat) (b : Byte) : (s.setHbm pa b).nextId = s.nextId := rfl
@[simp] theorem State.setHbm_freeCtr (s : State) (pa : Nat) (b : Byte) : (s.setHbm pa b).freeCtr = s.freeCtr := rfl
@[simp] theorem State.setHbm_now (s : State) (pa : Nat) (b : Byte) : (s.setHbm pa b).now = s.now := rfl
@[simp] theorem State.setHbm_ctxs (s : State) (pa : Nat) (b : Byte) : (s.setHbm pa b).ctxs = s.ctxs := rfl
@[simp] theorem State.setHbm_teams (s : State) (pa : Nat) (b : Byte) : (s.setHbm pa b).teams = s.teams := rfl
@[simp] theorem State.setHbm_threads (s : State) (pa : Nat) (b : Byte) : (s.setHbm pa b).threads = s.threads := rfl
@[simp] theorem State.setHbm_vregs (s : State) (pa : Nat) (b : Byte) : (s.setHbm pa b).vregs = s.vregs := rfl
@[simp] theorem State.setHbm_wgs (s : State) (pa : Nat) (b : Byte) : (s.setHbm pa b).wgs = s.wgs := rfl
@[simp] theorem State.setHbm_sp (s : State) (pa : Nat) (b : Byte) : (s.setHbm pa b).sp = s.sp := rfl
@[simp] theorem State.setHbm_foals (s : State) (pa : Nat) (b : Byte) : (s.setHbm pa b).foals = s.foals := rfl
@[simp] theorem State.setHbm_foalGens (s : State) (pa : Nat) (b : Byte) : (s.setHbm pa b).foalGens = s.foalGens := rfl
@[simp] theorem State.setHbm_poison (s : State) (pa : Nat) (b : Byte) : (s.setHbm pa b).poison = s.poison := rfl
@[simp] theorem State.setHbm_l2 (s : State) (pa : Nat) (b : Byte) : (s.setHbm pa b).l2 = s.l2 := rfl
@[simp] theorem State.setHbm_ways (s : State) (pa : Nat) (b : Byte) : (s.setHbm pa b).ways = s.ways := rfl
@[simp] theorem State.setHbm_l1 (s : State) (pa : Nat) (b : Byte) : (s.setHbm pa b).l1 = s.l1 := rfl
@[simp] theorem State.setHbm_tlb (s : State) (pa : Nat) (b : Byte) : (s.setHbm pa b).tlb = s.tlb := rfl
@[simp] theorem State.setHbm_fills (s : State) (pa : Nat) (b : Byte) : (s.setHbm pa b).fills = s.fills := rfl
@[simp] theorem State.setHbm_invals (s : State) (pa : Nat) (b : Byte) : (s.setHbm pa b).invals = s.invals := rfl
@[simp] theorem State.setHbm_dieSeen (s : State) (pa : Nat) (b : Byte) : (s.setHbm pa b).dieSeen = s.dieSeen := rfl
@[simp] theorem State.setHbm_oldCode (s : State) (pa : Nat) (b : Byte) : (s.setHbm pa b).oldCode = s.oldCode := rfl
@[simp] theorem State.setHbm_parts (s : State) (pa : Nat) (b : Byte) : (s.setHbm pa b).parts = s.parts := rfl
@[simp] theorem State.setHbm_cores (s : State) (pa : Nat) (b : Byte) : (s.setHbm pa b).cores = s.cores := rfl
@[simp] theorem State.setHbm_clusters (s : State) (pa : Nat) (b : Byte) : (s.setHbm pa b).clusters = s.clusters := rfl
@[simp] theorem State.setHbm_sramErrs (s : State) (pa : Nat) (b : Byte) : (s.setHbm pa b).sramErrs = s.sramErrs := rfl
@[simp] theorem State.setHbm_control (s : State) (pa : Nat) (b : Byte) : (s.setHbm pa b).control = s.control := rfl
@[simp] theorem State.setHbm_entities (s : State) (pa : Nat) (b : Byte) : (s.setHbm pa b).entities = s.entities := rfl
@[simp] theorem State.setHbm_qturn (s : State) (pa : Nat) (b : Byte) : (s.setHbm pa b).qturn = s.qturn := rfl
@[simp] theorem State.setHbm_pages (s : State) (pa : Nat) (b : Byte) : (s.setHbm pa b).pages = s.pages := rfl
@[simp] theorem State.setHbm_arms (s : State) (pa : Nat) (b : Byte) : (s.setHbm pa b).arms = s.arms := rfl
@[simp] theorem State.setHbm_time (s : State) (pa : Nat) (b : Byte) : (s.setHbm pa b).time = s.time := rfl
@[simp] theorem State.setHbm_clock (s : State) (pa : Nat) (b : Byte) : (s.setHbm pa b).clock = s.clock := rfl
@[simp] theorem State.setHbm_ptp (s : State) (pa : Nat) (b : Byte) : (s.setHbm pa b).ptp = s.ptp := rfl
@[simp] theorem State.setHbm_election (s : State) (pa : Nat) (b : Byte) : (s.setHbm pa b).election = s.election := rfl
@[simp] theorem State.setHbm_ports (s : State) (pa : Nat) (b : Byte) : (s.setHbm pa b).ports = s.ports := rfl
@[simp] theorem State.setHbm_resends (s : State) (pa : Nat) (b : Byte) : (s.setHbm pa b).resends = s.resends := rfl
@[simp] theorem State.setHbm_stuck (s : State) (pa : Nat) (b : Byte) : (s.setHbm pa b).stuck = s.stuck := rfl
@[simp] theorem State.setHbm_routes (s : State) (pa : Nat) (b : Byte) : (s.setHbm pa b).routes = s.routes := rfl
@[simp] theorem State.setHbm_timeseed (s : State) (pa : Nat) (b : Byte) : (s.setHbm pa b).timeseed = s.timeseed := rfl
@[simp] theorem State.setHbm_windows (s : State) (pa : Nat) (b : Byte) : (s.setHbm pa b).windows = s.windows := rfl
@[simp] theorem State.setHbm_vectors (s : State) (pa : Nat) (b : Byte) : (s.setHbm pa b).vectors = s.vectors := rfl
@[simp] theorem State.setHbm_start (s : State) (pa : Nat) (b : Byte) : (s.setHbm pa b).start = s.start := rfl
@[simp] theorem State.setHbm_powered (s : State) (pa : Nat) (b : Byte) : (s.setHbm pa b).powered = s.powered := rfl
@[simp] theorem State.setHbm_limited (s : State) (pa : Nat) (b : Byte) : (s.setHbm pa b).limited = s.limited := rfl
@[simp] theorem State.setHbm_tqbase (s : State) (pa : Nat) (b : Byte) : (s.setHbm pa b).tqbase = s.tqbase := rfl
@[simp] theorem State.setHbm_tqhead (s : State) (pa : Nat) (b : Byte) : (s.setHbm pa b).tqhead = s.tqhead := rfl
@[simp] theorem State.setHbm_tqtail (s : State) (pa : Nat) (b : Byte) : (s.setHbm pa b).tqtail = s.tqtail := rfl
@[simp] theorem State.setHbm_tqsize (s : State) (pa : Nat) (b : Byte) : (s.setHbm pa b).tqsize = s.tqsize := rfl
@[simp] theorem State.setHbm_parkth (s : State) (pa : Nat) (b : Byte) : (s.setHbm pa b).parkth = s.parkth := rfl
@[simp] theorem State.setHbm_records (s : State) (pa : Nat) (b : Byte) : (s.setHbm pa b).records = s.records := rfl
@[simp] theorem State.setHbm_queued (s : State) (pa : Nat) (b : Byte) : (s.setHbm pa b).queued = s.queued := rfl
@[simp] theorem State.setHbm_pkg (s : State) (pa : Nat) (b : Byte) : (s.setHbm pa b).pkg = s.pkg := rfl
@[simp] theorem State.setHbm_serial (s : State) (pa : Nat) (b : Byte) : (s.setHbm pa b).serial = s.serial := rfl
@[simp] theorem State.setHbm_msgs (s : State) (pa : Nat) (b : Byte) : (s.setHbm pa b).msgs = s.msgs := rfl

@[simp] theorem State.setSpByte_agenda (s : State) (g o : Nat) (b : Byte) : (s.setSpByte g o b).agenda = s.agenda := rfl
@[simp] theorem State.setSpByte_cur (s : State) (g o : Nat) (b : Byte) : (s.setSpByte g o b).cur = s.cur := rfl
@[simp] theorem State.setSpByte_nextId (s : State) (g o : Nat) (b : Byte) : (s.setSpByte g o b).nextId = s.nextId := rfl
@[simp] theorem State.setSpByte_freeCtr (s : State) (g o : Nat) (b : Byte) : (s.setSpByte g o b).freeCtr = s.freeCtr := rfl
@[simp] theorem State.setSpByte_now (s : State) (g o : Nat) (b : Byte) : (s.setSpByte g o b).now = s.now := rfl
@[simp] theorem State.setSpByte_ctxs (s : State) (g o : Nat) (b : Byte) : (s.setSpByte g o b).ctxs = s.ctxs := rfl
@[simp] theorem State.setSpByte_teams (s : State) (g o : Nat) (b : Byte) : (s.setSpByte g o b).teams = s.teams := rfl
@[simp] theorem State.setSpByte_threads (s : State) (g o : Nat) (b : Byte) : (s.setSpByte g o b).threads = s.threads := rfl
@[simp] theorem State.setSpByte_vregs (s : State) (g o : Nat) (b : Byte) : (s.setSpByte g o b).vregs = s.vregs := rfl
@[simp] theorem State.setSpByte_wgs (s : State) (g o : Nat) (b : Byte) : (s.setSpByte g o b).wgs = s.wgs := rfl
@[simp] theorem State.setSpByte_foals (s : State) (g o : Nat) (b : Byte) : (s.setSpByte g o b).foals = s.foals := rfl
@[simp] theorem State.setSpByte_foalGens (s : State) (g o : Nat) (b : Byte) : (s.setSpByte g o b).foalGens = s.foalGens := rfl
@[simp] theorem State.setSpByte_mem (s : State) (g o : Nat) (b : Byte) : (s.setSpByte g o b).mem = s.mem := rfl
@[simp] theorem State.setSpByte_poison (s : State) (g o : Nat) (b : Byte) : (s.setSpByte g o b).poison = s.poison := rfl
@[simp] theorem State.setSpByte_l2 (s : State) (g o : Nat) (b : Byte) : (s.setSpByte g o b).l2 = s.l2 := rfl
@[simp] theorem State.setSpByte_ways (s : State) (g o : Nat) (b : Byte) : (s.setSpByte g o b).ways = s.ways := rfl
@[simp] theorem State.setSpByte_l1 (s : State) (g o : Nat) (b : Byte) : (s.setSpByte g o b).l1 = s.l1 := rfl
@[simp] theorem State.setSpByte_tlb (s : State) (g o : Nat) (b : Byte) : (s.setSpByte g o b).tlb = s.tlb := rfl
@[simp] theorem State.setSpByte_fills (s : State) (g o : Nat) (b : Byte) : (s.setSpByte g o b).fills = s.fills := rfl
@[simp] theorem State.setSpByte_invals (s : State) (g o : Nat) (b : Byte) : (s.setSpByte g o b).invals = s.invals := rfl
@[simp] theorem State.setSpByte_dieSeen (s : State) (g o : Nat) (b : Byte) : (s.setSpByte g o b).dieSeen = s.dieSeen := rfl
@[simp] theorem State.setSpByte_oldCode (s : State) (g o : Nat) (b : Byte) : (s.setSpByte g o b).oldCode = s.oldCode := rfl
@[simp] theorem State.setSpByte_parts (s : State) (g o : Nat) (b : Byte) : (s.setSpByte g o b).parts = s.parts := rfl
@[simp] theorem State.setSpByte_cores (s : State) (g o : Nat) (b : Byte) : (s.setSpByte g o b).cores = s.cores := rfl
@[simp] theorem State.setSpByte_clusters (s : State) (g o : Nat) (b : Byte) : (s.setSpByte g o b).clusters = s.clusters := rfl
@[simp] theorem State.setSpByte_sramErrs (s : State) (g o : Nat) (b : Byte) : (s.setSpByte g o b).sramErrs = s.sramErrs := rfl
@[simp] theorem State.setSpByte_control (s : State) (g o : Nat) (b : Byte) : (s.setSpByte g o b).control = s.control := rfl
@[simp] theorem State.setSpByte_entities (s : State) (g o : Nat) (b : Byte) : (s.setSpByte g o b).entities = s.entities := rfl
@[simp] theorem State.setSpByte_qturn (s : State) (g o : Nat) (b : Byte) : (s.setSpByte g o b).qturn = s.qturn := rfl
@[simp] theorem State.setSpByte_pages (s : State) (g o : Nat) (b : Byte) : (s.setSpByte g o b).pages = s.pages := rfl
@[simp] theorem State.setSpByte_arms (s : State) (g o : Nat) (b : Byte) : (s.setSpByte g o b).arms = s.arms := rfl
@[simp] theorem State.setSpByte_time (s : State) (g o : Nat) (b : Byte) : (s.setSpByte g o b).time = s.time := rfl
@[simp] theorem State.setSpByte_clock (s : State) (g o : Nat) (b : Byte) : (s.setSpByte g o b).clock = s.clock := rfl
@[simp] theorem State.setSpByte_ptp (s : State) (g o : Nat) (b : Byte) : (s.setSpByte g o b).ptp = s.ptp := rfl
@[simp] theorem State.setSpByte_election (s : State) (g o : Nat) (b : Byte) : (s.setSpByte g o b).election = s.election := rfl
@[simp] theorem State.setSpByte_ports (s : State) (g o : Nat) (b : Byte) : (s.setSpByte g o b).ports = s.ports := rfl
@[simp] theorem State.setSpByte_resends (s : State) (g o : Nat) (b : Byte) : (s.setSpByte g o b).resends = s.resends := rfl
@[simp] theorem State.setSpByte_stuck (s : State) (g o : Nat) (b : Byte) : (s.setSpByte g o b).stuck = s.stuck := rfl
@[simp] theorem State.setSpByte_routes (s : State) (g o : Nat) (b : Byte) : (s.setSpByte g o b).routes = s.routes := rfl
@[simp] theorem State.setSpByte_timeseed (s : State) (g o : Nat) (b : Byte) : (s.setSpByte g o b).timeseed = s.timeseed := rfl
@[simp] theorem State.setSpByte_windows (s : State) (g o : Nat) (b : Byte) : (s.setSpByte g o b).windows = s.windows := rfl
@[simp] theorem State.setSpByte_vectors (s : State) (g o : Nat) (b : Byte) : (s.setSpByte g o b).vectors = s.vectors := rfl
@[simp] theorem State.setSpByte_start (s : State) (g o : Nat) (b : Byte) : (s.setSpByte g o b).start = s.start := rfl
@[simp] theorem State.setSpByte_powered (s : State) (g o : Nat) (b : Byte) : (s.setSpByte g o b).powered = s.powered := rfl
@[simp] theorem State.setSpByte_limited (s : State) (g o : Nat) (b : Byte) : (s.setSpByte g o b).limited = s.limited := rfl
@[simp] theorem State.setSpByte_tqbase (s : State) (g o : Nat) (b : Byte) : (s.setSpByte g o b).tqbase = s.tqbase := rfl
@[simp] theorem State.setSpByte_tqhead (s : State) (g o : Nat) (b : Byte) : (s.setSpByte g o b).tqhead = s.tqhead := rfl
@[simp] theorem State.setSpByte_tqtail (s : State) (g o : Nat) (b : Byte) : (s.setSpByte g o b).tqtail = s.tqtail := rfl
@[simp] theorem State.setSpByte_tqsize (s : State) (g o : Nat) (b : Byte) : (s.setSpByte g o b).tqsize = s.tqsize := rfl
@[simp] theorem State.setSpByte_parkth (s : State) (g o : Nat) (b : Byte) : (s.setSpByte g o b).parkth = s.parkth := rfl
@[simp] theorem State.setSpByte_records (s : State) (g o : Nat) (b : Byte) : (s.setSpByte g o b).records = s.records := rfl
@[simp] theorem State.setSpByte_queued (s : State) (g o : Nat) (b : Byte) : (s.setSpByte g o b).queued = s.queued := rfl
@[simp] theorem State.setSpByte_pkg (s : State) (g o : Nat) (b : Byte) : (s.setSpByte g o b).pkg = s.pkg := rfl
@[simp] theorem State.setSpByte_serial (s : State) (g o : Nat) (b : Byte) : (s.setSpByte g o b).serial = s.serial := rfl
@[simp] theorem State.setSpByte_msgs (s : State) (g o : Nat) (b : Byte) : (s.setSpByte g o b).msgs = s.msgs := rfl

end Sys2Proof.Machine
end

