-- ==== Sys2Proof/Laws/Ops.lean ====
section
/-! SUPPORT. What the shared operations do, said once: reading a part after writing one, getting past the checks, moving
past an instruction. -/

namespace Sys2Proof.Machine

/-! ### Reading after writing -/

@[simp] theorem State.ctx_setCtx (s : State) (h : Nat) (c : Ctx) : (s.setCtx h c).ctx h = c := Store.get_set_same
theorem State.ctx_setCtx_ne (s : State) {h h' : Nat} (c : Ctx) (e : h' ≠ h) : (s.setCtx h c).ctx h' = s.ctx h' :=
  Store.get_set_other e
@[simp] theorem State.team_setTeam (s : State) (h : Nat) (t : Team) : (s.setTeam h t).team h = t := Store.get_set_same
theorem State.team_setTeam_ne (s : State) {h h' : Nat} (t : Team) (e : h' ≠ h) : (s.setTeam h t).team h' = s.team h' :=
  Store.get_set_other e
@[simp] theorem State.thread_setThread (s : State) (h : Nat) (t : Thread) : (s.setThread h t).thread h = t :=
  Store.get_set_same
theorem State.thread_setThread_ne (s : State) {h h' : Nat} (t : Thread) (e : h' ≠ h) :
    (s.setThread h t).thread h' = s.thread h' := Store.get_set_other e
@[simp] theorem State.wg_setWg (s : State) (g : Nat) (w : Workgroup) : (s.setWg g w).wg g = w := Store.get_set_same
theorem State.wg_setWg_ne (s : State) {g g' : Nat} (w : Workgroup) (e : g' ≠ g) : (s.setWg g w).wg g' = s.wg g' :=
  Store.get_set_other e
@[simp] theorem State.part_setPart (s : State) (p : Nat) (x : Partition) : (s.setPart p x).part p = x := Store.get_set_same

@[simp] theorem State.ctx_setTeam (s : State) (h h' : Nat) (t : Team) : (s.setTeam h t).ctx h' = s.ctx h' := rfl
@[simp] theorem State.ctx_setThread (s : State) (h h' : Nat) (t : Thread) : (s.setThread h t).ctx h' = s.ctx h' := rfl
@[simp] theorem State.ctx_setWg (s : State) (g h : Nat) (w : Workgroup) : (s.setWg g w).ctx h = s.ctx h := rfl
@[simp] theorem State.ctx_setVreg (s : State) (h r h' : Nat) (v : VecReg) : (s.setVreg h r v).ctx h' = s.ctx h' := rfl
@[simp] theorem State.team_setCtx (s : State) (h h' : Nat) (c : Ctx) : (s.setCtx h c).team h' = s.team h' := rfl
@[simp] theorem State.team_setThread (s : State) (h h' : Nat) (t : Thread) : (s.setThread h t).team h' = s.team h' := rfl
@[simp] theorem State.team_setWg (s : State) (g h : Nat) (w : Workgroup) : (s.setWg g w).team h = s.team h := rfl
@[simp] theorem State.team_setVreg (s : State) (h r h' : Nat) (v : VecReg) : (s.setVreg h r v).team h' = s.team h' := rfl
@[simp] theorem State.team_setSreg (s : State) (h h' : Nat) (r : SReg) (v : DWord) :
    (s.setSreg h r v).team h' = s.team h' := rfl
@[simp] theorem State.team_setScc (s : State) (h h' : Nat) (b : Bool) : (s.setScc h b).team h' = s.team h' := rfl
@[simp] theorem State.thread_setCtx (s : State) (h h' : Nat) (c : Ctx) : (s.setCtx h c).thread h' = s.thread h' := rfl
@[simp] theorem State.thread_setTeam (s : State) (h h' : Nat) (t : Team) : (s.setTeam h t).thread h' = s.thread h' := rfl
@[simp] theorem State.thread_setSreg (s : State) (h h' : Nat) (r : SReg) (v : DWord) :
    (s.setSreg h r v).thread h' = s.thread h' := rfl
@[simp] theorem State.wg_setCtx (s : State) (h g : Nat) (c : Ctx) : (s.setCtx h c).wg g = s.wg g := rfl
@[simp] theorem State.wg_setTeam (s : State) (h g : Nat) (t : Team) : (s.setTeam h t).wg g = s.wg g := rfl
@[simp] theorem State.vreg_setCtx (s : State) (h h' r : Nat) (c : Ctx) : (s.setCtx h c).vreg h' r = s.vreg h' r := rfl
@[simp] theorem State.vreg_setTeam (s : State) (h h' r : Nat) (t : Team) : (s.setTeam h t).vreg h' r = s.vreg h' r := rfl
@[simp] theorem State.vreg_setSreg (s : State) (h h' r : Nat) (d : SReg) (v : DWord) :
    (s.setSreg h d v).vreg h' r = s.vreg h' r := rfl
@[simp] theorem State.vreg_setScc (s : State) (h h' r : Nat) (b : Bool) : (s.setScc h b).vreg h' r = s.vreg h' r := rfl
@[simp] theorem State.sreg_setTeam (s : State) (h h' : Nat) (r : SReg) (t : Team) :
    (s.setTeam h t).sreg h' r = s.sreg h' r := rfl
@[simp] theorem State.sreg_setThread (s : State) (h h' : Nat) (r : SReg) (t : Thread) :
    (s.setThread h t).sreg h' r = s.sreg h' r := rfl
@[simp] theorem State.sreg_setVreg (s : State) (h h' d : Nat) (r : SReg) (v : VecReg) :
    (s.setVreg h d v).sreg h' r = s.sreg h' r := rfl
@[simp] theorem State.markerClear_setCtx (s : State) (h h' : Nat) (c : Ctx) :
    (s.setCtx h c).markerClear h' = s.markerClear h' := rfl

@[simp] theorem State.vreg_setVreg (s : State) (h r : Nat) (v : VecReg) : (s.setVreg h r v).vreg h r = v :=
  Store.get_set_same
theorem State.vreg_setVreg_ne (s : State) {h r h' r' : Nat} (v : VecReg) (hr : r < 128) (hr' : r' < 128)
    (e : h' ≠ h ∨ r' ≠ r) : (s.setVreg h r v).vreg h' r' = s.vreg h' r' := Store.get_set_other (by omega)

@[simp] theorem State.sreg_setSreg (s : State) (h : Nat) (r : SReg) (v : DWord) : (s.setSreg h r v).sreg h r = v := by
  simp [State.sreg, State.setSreg]
theorem State.sreg_setSreg_ne (s : State) (h : Nat) {r r' : SReg} (v : DWord) (e : r' ≠ r) :
    (s.setSreg h r v).sreg h r' = s.sreg h r' := by
  simp only [State.sreg, State.setSreg, State.ctx_setCtx]
  exact Store.get_set_other fun x => e (BitVec.eq_of_toNat_eq x)

/-- What a register write leaves of its hart's context. -/
theorem State.ctx_setSreg (s : State) (h : Nat) (r : SReg) (v : DWord) :
    (s.setSreg h r v).ctx h = { s.ctx h with sregs := Store.set 0#64 (s.ctx h).sregs r.toNat v } := by
  simp [State.setSreg]
theorem State.ctx_setSreg_ne (s : State) {h h' : Nat} (r : SReg) (v : DWord) (e : h' ≠ h) :
    (s.setSreg h r v).ctx h' = s.ctx h' := State.ctx_setCtx_ne s _ e
theorem State.ctx_setScc (s : State) (h : Nat) (b : Bool) : (s.setScc h b).ctx h = { s.ctx h with scc := b } := by
  simp [State.setScc]
theorem State.ctx_setScc_ne (s : State) {h h' : Nat} (b : Bool) (e : h' ≠ h) : (s.setScc h b).ctx h' = s.ctx h' :=
  State.ctx_setCtx_ne s _ e

/-! ### Getting past the checks -/

/-- A team's instruction that R28 lets through executes. -/
theorem begin_team {n : Need} {s : State} {k : Nat → Out} (h : TeamRuns s n.regs) (hl : n.level = 0)
    (hg : n.legal = true) : begin n s k = k s.cur := by
  obtain ⟨hk, hr, hh⟩ := h
  have h1 : n.regs.any (fun r => decide ((s.team s.cur).vregs ≤ r)) = false := by
    simpa using hr
  have h2 : n.regs.any (fun r => s.isHeld s.cur r) = false := by
    simpa using hh
  simp only [begin, hk, hl, hg, h1, h2]
  simp

/-- A control-core thread's instruction that R28 and R42 let through executes. -/
theorem begin_thread {n : Need} {s : State} {k : Nat → Out} (h : ThreadRuns s n.level) (ht : n.teamOnly = false)
    (hg : n.legal = true) : begin n s k = k s.cur := by
  obtain ⟨hk, hl⟩ := h
  have : ¬ (s.thread s.cur).level.toNat < n.level := by omega
  simp [begin, hk, ht, hg, this]

/-- An instruction of the supervisor profile that names no vector register executes on either kind of hart. -/
theorem begin_hart {n : Need} {s : State} {k : Nat → Out} (h : HartRuns s) (ht : n.teamOnly = false) (hl : n.level = 0)
    (hr : n.regs = []) (hg : n.legal = true) : begin n s k = k s.cur := by
  rcases h with h | h
  · exact begin_team ⟨h, by simp [hr], by simp [hr]⟩ hl hg
  · exact begin_thread ⟨h, by omega⟩ ht hg

/-! ### Moving on -/

@[simp] theorem State.issued_ctx (s : State) (h h' : Nat) : (s.issued h).ctx h' = s.ctx h' := by
  unfold State.issued; split <;> rfl
theorem State.issued_team_ne (s : State) {h h' : Nat} (e : h' ≠ h) : (s.issued h).team h' = s.team h' := by
  unfold State.issued; split
  · exact State.team_setTeam_ne s _ e
  · rfl
  · rfl
@[simp] theorem State.issued_vreg (s : State) (h h' r : Nat) : (s.issued h).vreg h' r = s.vreg h' r := by
  unfold State.issued; split <;> rfl
theorem State.issued_rest (s : State) (h : Nat) : ∃ ts, s.issued h = { s with teams := ts } := by
  unfold State.issued; split <;> exact ⟨_, rfl⟩
theorem State.issued_team (s : State) (h : Nat) :
    ((s.ctx h).kind = .team → (s.issued h).team h = (s.team h).moved) ∧
      ((s.ctx h).kind ≠ .team → (s.issued h).team h = s.team h) := by
  unfold State.issued
  cases hk : (s.ctx h).kind <;> simp

theorem State.marked_eq (s : State) (h : Nat) (sw : Bool) :
    s.marked h sw = if sw && !s.markerClear h then s.setCtx h { s.ctx h with status := .parked .marker } else s := rfl

theorem State.marked_rest (s : State) (h : Nat) (sw : Bool) : ∃ cs, s.marked h sw = { s with ctxs := cs } := by
  unfold State.marked State.park; split <;> exact ⟨_, rfl⟩
theorem State.marked_ctx_ne (s : State) {h h' : Nat} (sw : Bool) (e : h' ≠ h) : (s.marked h sw).ctx h' = s.ctx h' := by
  unfold State.marked State.park; split
  · exact State.ctx_setCtx_ne s _ e
  · rfl
theorem State.marked_ctx (s : State) (h : Nat) (sw : Bool) : (s.marked h sw).ctx h =
    { s.ctx h with status := if sw && !s.markerClear h then .parked .marker else (s.ctx h).status } := by
  rw [State.marked_eq]; split <;> simp
@[simp] theorem State.marked_team (s : State) (h h' : Nat) (sw : Bool) : (s.marked h sw).team h' = s.team h' := by
  rw [State.marked_eq]; split <;> rfl
@[simp] theorem State.marked_vreg (s : State) (h h' r : Nat) (sw : Bool) : (s.marked h sw).vreg h' r = s.vreg h' r := by
  rw [State.marked_eq]; split <;> rfl
@[simp] theorem State.marked_markerClear (s : State) (h h' : Nat) (sw : Bool) :
    (s.marked h sw).markerClear h' = s.markerClear h' := by
  rw [State.marked_eq]; split <;> rfl

/-- `done`, field by field: the contexts and the team records are all it writes. -/
theorem State.done_rest (s : State) (h n : Nat) (sw : Bool) :
    ∃ cs ts, s.done h n sw = { s with ctxs := cs, teams := ts } := by
  obtain ⟨ts, hi⟩ := State.issued_rest s h
  obtain ⟨cs, hm⟩ := State.marked_rest ((s.issued h).setCtx h (((s.issued h).ctx h).past n)) h sw
  refine ⟨cs, ts, ?_⟩
  show State.marked _ _ _ = _
  rw [hm, hi]
  rfl
theorem State.done_ctx_ne (s : State) {h h' : Nat} (n : Nat) (sw : Bool) (e : h' ≠ h) :
    (s.done h n sw).ctx h' = s.ctx h' := by
  simp [State.done, State.marked_ctx_ne, State.ctx_setCtx_ne, e]
theorem State.done_team_ne (s : State) {h h' : Nat} (n : Nat) (sw : Bool) (e : h' ≠ h) :
    (s.done h n sw).team h' = s.team h' := by
  simp [State.done, State.issued_team_ne, e]
theorem State.done_team (s : State) (h n : Nat) (sw : Bool) :
    ((s.ctx h).kind = .team → (s.done h n sw).team h = (s.team h).moved) ∧
      ((s.ctx h).kind ≠ .team → (s.done h n sw).team h = s.team h) := by
  simpa [State.done] using State.issued_team s h
@[simp] theorem State.done_vreg (s : State) (h n h' r : Nat) (sw : Bool) : (s.done h n sw).vreg h' r = s.vreg h' r := by
  simp [State.done]
/-- The context after `done`. -/
theorem State.done_ctx (s : State) (h n : Nat) (sw : Bool) : (s.done h n sw).ctx h =
    { (s.ctx h).past n with status := if sw && !(s.done h n sw).markerClear h then .parked .marker else (s.ctx h).status } := by
  have hp : ((s.ctx h).past n).status = (s.ctx h).status := by unfold Ctx.past; simp only; split <;> split <;> rfl
  simp [State.done, State.marked_ctx, hp]

theorem Ctx.past_spec (c : Ctx) (n : Nat) :
    (c.past n).kind = c.kind ∧ (c.past n).sregs = c.sregs ∧ (c.past n).scc = c.scc ∧
    (c.widx + n < c.clauseWords → (c.past n).pc = c.pc ∧ (c.past n).widx = c.widx + n ∧ (c.past n).clause = c.clause) ∧
    (c.clauseWords ≤ c.widx + n →
      (c.past n).pc = c.pc + BitVec.ofNat 64 (4 * (1 + c.clauseWords)) ∧ (c.past n).widx = 0 ∧ (c.past n).clause = none) := by
  unfold Ctx.past Ctx.clauseWords
  split <;> (simp only; split) <;> simp_all

/-- A transfer, field by field. -/
theorem State.jump_rest (s : State) (h : Nat) (a : Addr) (sw : Bool) :
    ∃ cs ts, s.jump h a sw = { s with ctxs := cs, teams := ts } := by
  obtain ⟨ts, hi⟩ := State.issued_rest s h
  obtain ⟨cs, hm⟩ := State.marked_rest
    ((s.issued h).setCtx h { (s.issued h).ctx h with pc := a, widx := 0, clause := none }) h sw
  refine ⟨cs, ts, ?_⟩
  show State.marked _ _ _ = _
  rw [hm, hi]
  rfl
theorem State.jump_ctx_ne (s : State) {h h' : Nat} (a : Addr) (sw : Bool) (e : h' ≠ h) :
    (s.jump h a sw).ctx h' = s.ctx h' := by
  simp [State.jump, State.marked_ctx_ne, State.ctx_setCtx_ne, e]
theorem State.jump_team_ne (s : State) {h h' : Nat} (a : Addr) (sw : Bool) (e : h' ≠ h) :
    (s.jump h a sw).team h' = s.team h' := by
  simp [State.jump, State.issued_team_ne, e]
theorem State.jump_team (s : State) (h : Nat) (a : Addr) (sw : Bool) :
    ((s.ctx h).kind = .team → (s.jump h a sw).team h = (s.team h).moved) ∧
      ((s.ctx h).kind ≠ .team → (s.jump h a sw).team h = s.team h) := by
  simpa [State.jump] using State.issued_team s h
@[simp] theorem State.jump_vreg (s : State) (h h' r : Nat) (a : Addr) (sw : Bool) :
    (s.jump h a sw).vreg h' r = s.vreg h' r := by
  simp [State.jump]
theorem State.jump_ctx (s : State) (h : Nat) (a : Addr) (sw : Bool) : (s.jump h a sw).ctx h =
    { s.ctx h with pc := a, widx := 0, clause := none,
                   status := if sw && !(s.jump h a sw).markerClear h then .parked .marker else (s.ctx h).status } := by
  simp [State.jump, State.marked_ctx]

/-! ### Memory is not among what these write -/

/-- A state that differs from another in contexts, team records, vector registers, threads and tables only reads the same
at every home. -/
theorem State.homeByte_of_eq {s t : State} (hl : t.l2 = s.l2) (hm : t.mem = s.mem) (l : Loc) :
    t.homeByte l = s.homeByte l := by
  unfold State.homeByte State.homeLine State.hbm
  rw [hl, hm]
theorem State.spByte_of_eq {s t : State} (h : t.sp = s.sp) (g o : Nat) : t.spByte g o = s.spByte g o := by
  unfold State.spByte
  rw [h]
theorem SameMemory.of_eq {s t : State} (hl : t.l2 = s.l2) (hm : t.mem = s.mem) (hs : t.sp = s.sp) : SameMemory s t :=
  ⟨State.homeByte_of_eq hl hm, State.spByte_of_eq hs⟩

end Sys2Proof.Machine
end

