-- ==== Sys2Proof/Laws/Memory.lean ====
section
/-! SUPPORT. What the operations over memory keep and change: the canonical form of HBM4, the soundness of the L2, and the
byte each home answers (R293, R298, R378, R396). -/

namespace Sys2Proof.Machine

/-! ### Sorted stores -/

variable {β : Type}

/-- Keys strictly rising. -/
abbrev Store.Sorted (st : Store β) : Prop := st.Pairwise fun a b => a.1 < b.1

theorem Store.mem_put {k : Nat} {v : β} {st : Store β} (h : st.Sorted) (e : Nat × β) :
    e ∈ Store.put k v st ↔ e = (k, v) ∨ (e ∈ st ∧ e.1 ≠ k) := by
  induction st with
  | nil => simp [Store.put]
  | cons a r ih =>
    obtain ⟨j, w⟩ := a
    obtain ⟨h1, h2⟩ := List.pairwise_cons.mp h
    simp only [Store.put]
    split
    · rename_i hj
      rw [List.mem_cons, ih h2, List.mem_cons]
      constructor
      · rintro (rfl | rfl | ⟨h, hk⟩)
        · exact .inr ⟨.inl rfl, by simp; omega⟩
        · exact .inl rfl
        · exact .inr ⟨.inr h, hk⟩
      · rintro (rfl | ⟨rfl | h, hk⟩)
        · exact .inr (.inl rfl)
        · exact .inl rfl
        · exact .inr (.inr ⟨h, hk⟩)
    · split
      · rename_i _ hj
        have hj : j = k := by simpa using hj
        subst hj
        simp only [List.mem_cons]
        constructor
        · rintro (rfl | h)
          · exact .inl rfl
          · have := h1 _ h; simp at this; exact .inr ⟨.inr h, by omega⟩
        · rintro (rfl | ⟨rfl | h, hk⟩)
          · exact .inl rfl
          · exact absurd rfl hk
          · exact .inr h
      · rename_i hlt hj
        have hj : j ≠ k := by simpa using hj
        simp only [List.mem_cons]
        constructor
        · rintro (rfl | rfl | h)
          · exact .inl rfl
          · exact .inr ⟨.inl rfl, hj⟩
          · have := h1 _ h; simp at this; exact .inr ⟨.inr h, by omega⟩
        · rintro (rfl | ⟨h, -⟩)
          · exact .inl rfl
          · exact .inr h

theorem Store.sorted_put {k : Nat} {v : β} {st : Store β} (h : st.Sorted) : (Store.put k v st).Sorted := by
  induction st with
  | nil => simp [Store.put, Store.Sorted]
  | cons a r ih =>
    obtain ⟨j, w⟩ := a
    obtain ⟨h1, h2⟩ := List.pairwise_cons.mp h
    simp only [Store.put]
    split
    · rename_i hj
      refine List.pairwise_cons.mpr ⟨fun e he => ?_, ih h2⟩
      rcases (Store.mem_put h2 e).mp he with rfl | ⟨he, -⟩
      · exact hj
      · exact h1 e he
    · split
      · rename_i _ hj
        have hj : j = k := by simpa using hj
        subst hj
        exact List.pairwise_cons.mpr ⟨h1, h2⟩
      · rename_i hlt hj
        have hj : j ≠ k := by simpa using hj
        refine List.pairwise_cons.mpr ⟨fun e he => ?_, h⟩
        rcases List.mem_cons.mp he with rfl | he
        · show k < j; omega
        · have : j < e.1 := h1 e he
          show k < e.1; omega

theorem Store.erase_eq {k : Nat} {st : Store β} : Store.erase k st = st.filter fun e => e.1 != k := by
  induction st with
  | nil => rfl
  | cons a r ih =>
    obtain ⟨j, w⟩ := a
    by_cases hj : j = k <;> simp [Store.erase, hj, ih]

theorem Store.mem_erase {k : Nat} {st : Store β} (e : Nat × β) : e ∈ Store.erase k st ↔ e ∈ st ∧ e.1 ≠ k := by
  simp [Store.erase_eq]

theorem Store.sorted_erase {k : Nat} {st : Store β} (h : st.Sorted) : (Store.erase k st).Sorted := by
  rw [Store.erase_eq]; exact h.filter _

theorem Store.find_eq_some {k : Nat} {v : β} {st : Store β} (h : st.Sorted) : Store.find k st = some v ↔ (k, v) ∈ st := by
  induction st with
  | nil => simp [Store.find]
  | cons a r ih =>
    obtain ⟨j, w⟩ := a
    obtain ⟨h1, h2⟩ := List.pairwise_cons.mp h
    by_cases hj : j = k
    · subst hj
      simp only [Store.find, beq_self_eq_true, if_true, Option.some.injEq, List.mem_cons, Prod.mk.injEq, true_and]
      constructor
      · rintro rfl; exact .inl rfl
      · rintro (rfl | h)
        · rfl
        · have := h1 _ h; simp at this
    · simp [Store.find, hj, ih h2, Ne.symm hj]

theorem Store.Sorted.inj {st : Store β} (h : st.Sorted) {a b : Nat × β} (ha : a ∈ st) (hb : b ∈ st) (e : a.1 = b.1) :
    a = b := by
  obtain ⟨k, v⟩ := a
  obtain ⟨j, w⟩ := b
  simp only at e
  subst e
  have h1 := (Store.find_eq_some h).mpr ha
  have h2 := (Store.find_eq_some h).mpr hb
  simp_all

theorem Store.wfFrom_keys [DecidableEq β] {d : β} {lo : Nat} {st : Store β} (h : Store.wfFrom d lo st = true)
    {e : Nat × β} (he : e ∈ st) : lo ≤ e.1 := by
  induction st generalizing lo with
  | nil => simp at he
  | cons a r ih =>
    simp only [Store.wfFrom, Bool.and_eq_true, decide_eq_true_eq] at h
    rcases List.mem_cons.mp he with rfl | he
    · exact h.1.1
    · have := ih h.2 he; omega

theorem Store.wfFrom_filter [DecidableEq β] {d : β} {lo : Nat} {st : Store β} (p : Nat × β → Bool)
    (h : Store.wfFrom d lo st = true) : Store.wfFrom d lo (st.filter p) = true := by
  induction st generalizing lo with
  | nil => rfl
  | cons a r ih =>
    simp only [Store.wfFrom, Bool.and_eq_true, decide_eq_true_eq] at h
    rw [List.filter_cons]
    split
    · simp only [Store.wfFrom, Bool.and_eq_true, decide_eq_true_eq]
      exact ⟨h.1, ih h.2⟩
    · exact Store.wfFrom_mono (ih h.2) (by omega)

theorem Store.find_filter {k : Nat} (p : Nat → Bool) (st : Store β) :
    Store.find k (st.filter fun e => p e.1) = if p k = true then Store.find k st else none := by
  induction st with
  | nil => simp [Store.find]
  | cons a r ih =>
    obtain ⟨j, w⟩ := a
    by_cases hj : j = k
    · subst hj
      cases hp : p j <;> simp [hp, Store.find, ih]
    · cases hp : p j <;> simp [hp, Store.find, ih, hj]

/-- Unlisting entries keeps the canonical form. -/
theorem Store.wf_filter [DecidableEq β] {d : β} {st : Store β} (p : Nat × β → Bool) (h : Store.wf d st = true) :
    Store.wf d (st.filter p) = true := Store.wfFrom_filter p h

/-! ### Sound memory, by membership -/

/-- `SoundMemory`, of a memory and an L2. -/
structure Sound (m : List Host.Cell) (l2 : Store L2Line) : Prop where
  wf : Memory.wf m = true
  sorted : l2.Sorted
  one : ∀ a ∈ l2, ∀ b ∈ l2, a.2.guest = false → b.2.guest = false → a.2.line = b.2.line → a.1 = b.1
  clean : ∀ e ∈ l2, e.2.guest = false → e.2.dirty = false → ∀ i, i < 128 →
    lineByte e.2.data i = Store.get 0#8 m (128 * e.2.line + i)

/-- A little-endian number of n bytes. -/
def bytesNat (f : Nat → Nat) (n : Nat) : Nat := (List.range n).foldl (fun a i => a + f i * 2 ^ (8 * i)) 0

theorem bytesNat_succ (f : Nat → Nat) (n : Nat) : bytesNat f (n + 1) = bytesNat f n + f n * 2 ^ (8 * n) := by
  simp [bytesNat, List.range_succ]

theorem bytesNat_lt {f : Nat → Nat} (hf : ∀ i, f i < 256) (n : Nat) : bytesNat f n < 2 ^ (8 * n) := by
  induction n with
  | zero => simp [bytesNat]
  | succ n ih =>
    rw [bytesNat_succ]
    have h1 : 2 ^ (8 * (n + 1)) = 256 * 2 ^ (8 * n) := by rw [Nat.mul_add, Nat.pow_add]; ring
    have := Nat.mul_le_mul_right (2 ^ (8 * n)) (Nat.le_of_lt_succ (hf n))
    omega

/-- Byte i of a little-endian number. -/
theorem bytesNat_byte {f : Nat → Nat} (hf : ∀ i, f i < 256) {n i : Nat} (hi : i < n) :
    bytesNat f n / 2 ^ (8 * i) % 256 = f i := by
  induction n with
  | zero => omega
  | succ n ih =>
    rw [bytesNat_succ]
    by_cases h : i = n
    · subst h
      rw [Nat.add_mul_div_right _ _ (by positivity), Nat.div_eq_of_lt (bytesNat_lt hf _)]
      simp [Nat.mod_eq_of_lt (hf _)]
    · have hlt : i < n := by omega
      have e : f n * 2 ^ (8 * n) = f n * 2 ^ (8 * (n - i - 1)) * 256 * 2 ^ (8 * i) := by
        have : 8 * n = 8 * (n - i - 1) + 8 + 8 * i := by omega
        rw [this, Nat.pow_add, Nat.pow_add]; ring
      rw [e, Nat.add_mul_div_right _ _ (by positivity), Nat.add_mul_mod_self_right]
      exact ih hlt

theorem lineByte_toNat (d : BitVec 1024) (i : Nat) : (lineByte d i).toNat = d.toNat / 2 ^ (8 * i) % 256 := by
  simp [lineByte, Nat.shiftRight_eq_div_pow]

/-- The bytes of HBM4 make its line. -/
theorem State.lineByte_hbmLine (s : State) (line : Nat) {i : Nat} (hi : i < 128) :
    lineByte (s.hbmLine line) i = s.hbm (128 * line + i) := by
  apply BitVec.eq_of_toNat_eq
  have hf : ∀ i, (s.hbm (128 * line + i)).toNat < 256 := fun i => (s.hbm (128 * line + i)).isLt
  have h := bytesNat_lt hf 128
  rw [lineByte_toNat]
  show (BitVec.ofNat 1024 (bytesNat (fun i => (s.hbm (128 * line + i)).toNat) 128)).toNat / 2 ^ (8 * i) % 256 = _
  rw [BitVec.toNat_ofNat, Nat.mod_eq_of_lt h, bytesNat_byte hf hi]

/-- A line is its 128 bytes. -/
theorem line_ext {a b : BitVec 1024} (h : ∀ i, i < 128 → lineByte a i = lineByte b i) : a = b := by
  apply BitVec.eq_of_getLsbD_eq
  intro j hj
  have := congrArg (fun x : Byte => x.getLsbD (j % 8)) (h (j / 8) (by omega))
  simp only [lineByte, BitVec.getLsbD_extractLsb'] at this
  have h8 : j % 8 < 8 := by omega
  have e : 8 * (j / 8) + j % 8 = j := by omega
  simpa [h8, e] using this

theorem pairwise_mem {α : Type} {R : α → α → Prop} {l : List α} (h : l.Pairwise R) {a b : α} (ha : a ∈ l) (hb : b ∈ l) :
    a = b ∨ R a b ∨ R b a := by
  induction l with
  | nil => simp at ha
  | cons c r ih =>
    obtain ⟨h1, h2⟩ := List.pairwise_cons.mp h
    rcases List.mem_cons.mp ha with rfl | ha' <;> rcases List.mem_cons.mp hb with rfl | hb'
    · exact .inl rfl
    · exact .inr (.inl (h1 b hb'))
    · exact .inr (.inr (h1 a ha'))
    · exact ih h2 ha' hb'

theorem soundMemory_iff (s : State) : SoundMemory s ↔ Sound s.mem s.l2 := by
  have hc : ∀ e : Nat × L2Line, (e.2.data = s.hbmLine e.2.line ↔
      ∀ i, i < 128 → lineByte e.2.data i = Store.get 0#8 s.mem (128 * e.2.line + i)) := by
    intro e
    constructor
    · intro h i hi; rw [h, State.lineByte_hbmLine s _ hi]; rfl
    · intro h; exact line_ext fun i hi => by rw [h i hi, State.lineByte_hbmLine s _ hi]; rfl
  constructor
  · rintro ⟨h1, h2, h3, h4⟩
    refine ⟨h1, h2, ?_, fun e he hg hd => (hc e).mp (h4 e he hg hd)⟩
    intro a ha b hb hga hgb hl
    by_contra hne
    rcases pairwise_mem h3 ha hb with rfl | h | h
    · exact hne rfl
    · exact h hga hgb hl
    · exact h hgb hga hl.symm
  · rintro ⟨h1, h2, h3, h4⟩
    refine ⟨h1, h2, ?_, fun e he hg hd => (hc e).mpr (h4 e he hg hd)⟩
    refine List.Pairwise.imp_of_mem ?_ h2
    intro a b ha hb hlt hga hgb hl
    have := h3 a ha b hb hga hgb hl
    omega

/-! ### What an update of the L2 or of HBM4 keeps -/

variable {m : List Host.Cell} {l2 : Store L2Line} {k : Nat} {x y : L2Line}

/-- No home copy of a line. -/
def NoHome (l2 : Store L2Line) (line : Nat) : Prop := ∀ e ∈ l2, e.2.guest = false → e.2.line ≠ line

theorem exists_home {line : Nat} (h : ¬NoHome l2 line) : ∃ e ∈ l2, e.2.guest = false ∧ e.2.line = line := by
  by_contra hc
  exact h fun e he ge hl => hc ⟨e, he, ge, hl⟩

theorem Sound.unique (h : Sound m l2) {a b : Nat × L2Line} (ha : a ∈ l2) (hb : b ∈ l2) (ga : a.2.guest = false)
    (gb : b.2.guest = false) (e : a.2.line = b.2.line) : a = b := h.sorted.inj ha hb (h.one a ha b hb ga gb e)

theorem Sound.noHome_of (h : Sound m l2) (hx : (k, x) ∈ l2) (gx : x.guest = false) {e : Nat × L2Line} (he : e ∈ l2)
    (ge : e.2.guest = false) (hk : e.1 ≠ k) : e.2.line ≠ x.line := fun hl => hk (congrArg (·.1) (h.unique he hx ge gx hl))

/-- A copy goes. -/
theorem Sound.erase (h : Sound m l2) (k : Nat) : Sound m (Store.erase k l2) := by
  refine ⟨h.wf, Store.sorted_erase h.sorted, ?_, ?_⟩
  · intro a ha b hb
    exact h.one a ((Store.mem_erase a).mp ha).1 b ((Store.mem_erase b).mp hb).1
  · intro e he
    exact h.clean e ((Store.mem_erase e).mp he).1

/-- Some copies go. -/
theorem Sound.filter (h : Sound m l2) (p : Nat × L2Line → Bool) : Sound m (l2.filter p) := by
  refine ⟨h.wf, h.sorted.filter p, ?_, ?_⟩
  · intro a ha b hb
    exact h.one a (List.mem_filter.mp ha).1 b (List.mem_filter.mp hb).1
  · intro e he
    exact h.clean e (List.mem_filter.mp he).1

/-- A guest copy is placed. -/
theorem Sound.put_guest (h : Sound m l2) (gy : y.guest = true) : Sound m (Store.put k y l2) := by
  refine ⟨h.wf, Store.sorted_put h.sorted, ?_, ?_⟩
  · intro a ha b hb ga gb
    rcases (Store.mem_put h.sorted a).mp ha with rfl | ⟨ha, -⟩
    · simp [gy] at ga
    · rcases (Store.mem_put h.sorted b).mp hb with rfl | ⟨hb, -⟩
      · simp [gy] at gb
      · exact h.one a ha b hb ga gb
  · intro e he ge
    rcases (Store.mem_put h.sorted e).mp he with rfl | ⟨he, -⟩
    · simp [gy] at ge
    · exact h.clean e he ge

/-- A home copy is placed where no other way holds its line; clean, it agrees with HBM4. -/
theorem Sound.put_home (h : Sound m l2) (ho : ∀ e ∈ l2, e.1 ≠ k → e.2.guest = false → e.2.line ≠ y.line)
    (hc : y.dirty = false → ∀ i, i < 128 → lineByte y.data i = Store.get 0#8 m (128 * y.line + i)) :
    Sound m (Store.put k y l2) := by
  refine ⟨h.wf, Store.sorted_put h.sorted, ?_, ?_⟩
  · intro a ha b hb ga gb hl
    rcases (Store.mem_put h.sorted a).mp ha with rfl | ⟨ha, ka⟩ <;> rcases (Store.mem_put h.sorted b).mp hb with rfl | ⟨hb, kb⟩
    · rfl
    · exact absurd hl.symm (ho b hb kb gb)
    · exact absurd hl (ho a ha ka ga)
    · exact h.one a ha b hb ga gb hl
  · intro e he ge de
    rcases (Store.mem_put h.sorted e).mp he with rfl | ⟨he, -⟩
    · exact hc de
    · exact h.clean e he ge de

/-- A way's copy changes but stays a copy of its line. -/
theorem Sound.put_same (h : Sound m l2) (hx : (k, x) ∈ l2) (gy : y.guest = x.guest) (ly : y.line = x.line)
    (hc : y.guest = false → y.dirty = false → ∀ i, i < 128 → lineByte y.data i = Store.get 0#8 m (128 * y.line + i)) :
    Sound m (Store.put k y l2) := by
  cases g : y.guest with
  | true => exact h.put_guest g
  | false =>
    refine h.put_home (fun e he ke ge => ?_) (hc g)
    rw [ly]
    exact h.noHome_of hx (by rw [← gy, g]) he ge ke

/-- HBM4 changes where no clean home copy stands. -/
theorem Sound.set_mem (h : Sound m l2) {m' : List Host.Cell} (wf : Memory.wf m' = true)
    (hs : ∀ e ∈ l2, e.2.guest = false → e.2.dirty = false → ∀ i, i < 128 →
      lineByte e.2.data i = Store.get 0#8 m' (128 * e.2.line + i)) : Sound m' l2 := ⟨wf, h.sorted, h.one, hs⟩

/-! ### The operations of the L2 and of HBM4 -/

theorem State.hbm_setHbm (s : State) (pa : Nat) (b : Byte) : (s.setHbm pa b).hbm pa = b := Store.get_set_same
theorem State.hbm_setHbm_ne (s : State) {pa pa' : Nat} (b : Byte) (h : pa' ≠ pa) : (s.setHbm pa b).hbm pa' = s.hbm pa' :=
  Store.get_set_other h

/-- What writing a line back does: HBM4 takes the line's bytes and its poison, and nothing else changes. -/
theorem State.writeBack_spec (s : State) (x : L2Line) :
    (∃ m p, s.writeBack x = { s with mem := m, poison := p } ∧ (Memory.wf s.mem = true → Memory.wf m = true)) ∧
      ∀ pa, (s.writeBack x).hbm pa = if pa / 128 = x.line then lineByte x.data (pa % 128) else s.hbm pa := by
  have key : ∀ n, n ≤ 128 → ∃ m, (List.range n).foldl (fun (s : State) i => s.setHbm (128 * x.line + i) (lineByte x.data i)) s
        = { s with mem := m } ∧ (Memory.wf s.mem = true → Memory.wf m = true) ∧
      ∀ pa, Store.get 0#8 m pa = if pa / 128 = x.line ∧ pa % 128 < n then lineByte x.data (pa % 128) else s.hbm pa := by
    intro n hn
    induction n with
    | zero => exact ⟨s.mem, rfl, id, fun pa => by simp [State.hbm]⟩
    | succ n ih =>
      obtain ⟨m, h1, h2, h3⟩ := ih (by omega)
      refine ⟨Store.set 0#8 m (128 * x.line + n) (lineByte x.data n), ?_, fun h => Store.wf_set (h2 h), ?_⟩
      · rw [List.range_succ, List.foldl_append, h1]; rfl
      · intro pa
        by_cases e : pa = 128 * x.line + n
        · subst e
          have e1 : (128 * x.line + n) / 128 = x.line := by omega
          have e2 : (128 * x.line + n) % 128 = n := by omega
          rw [Store.get_set_same, e1, e2]; simp
        · rw [Store.get_set_other e, h3]
          by_cases hl : pa / 128 = x.line
          · have : pa % 128 ≠ n := by omega
            have e3 : pa % 128 < n ↔ pa % 128 < n + 1 := by omega
            simp [hl, e3]
          · simp [hl]
  obtain ⟨m, h1, h2, h3⟩ := key 128 (Nat.le_refl _)
  refine ⟨⟨m, Store.set false (Store.set false s.poison (2 * x.line) (x.pois.getLsbD 0)) (2 * x.line + 1) (x.pois.getLsbD 1),
    ?_, h2⟩, ?_⟩
  · unfold State.writeBack; rw [h1]; rfl
  · intro pa
    have : (s.writeBack x).hbm pa = Store.get 0#8 m pa := by unfold State.writeBack; rw [h1]; rfl
    rw [this, h3]
    have : pa % 128 < 128 := Nat.mod_lt _ (by decide)
    simp [this]

theorem State.writeBack_l2 (s : State) (x : L2Line) : (s.writeBack x).l2 = s.l2 := by
  obtain ⟨⟨m, p, h, -⟩, -⟩ := s.writeBack_spec x; rw [h]

theorem State.writeBack_get (s : State) (x : L2Line) (pa : Nat) :
    Store.get 0#8 (s.writeBack x).mem pa = if pa / 128 = x.line then lineByte x.data (pa % 128) else Store.get 0#8 s.mem pa :=
  (s.writeBack_spec x).2 pa

theorem State.writeBack_wf (s : State) (x : L2Line) (h : Memory.wf s.mem = true) : Memory.wf (s.writeBack x).mem = true := by
  obtain ⟨⟨m, p, e, hw⟩, -⟩ := s.writeBack_spec x; rw [e]; exact hw h

/-- Writing back a copy of a line that stands in way k: every clean home copy but that way's still agrees. -/
theorem Sound.writeBack {s : State} (h : Sound s.mem s.l2) (hx : (k, x) ∈ s.l2) (gx : x.guest = false) (ly : y.line = x.line)
    (hd : y.data = x.data ∨ x.dirty = true) : Sound (s.writeBack y).mem s.l2 := by
  refine h.set_mem (s.writeBack_wf y h.wf) fun e he ge de i hi => ?_
  rw [s.writeBack_get y]
  have e1 : (128 * e.2.line + i) / 128 = e.2.line := by omega
  have e2 : (128 * e.2.line + i) % 128 = i := by omega
  rw [e1, e2]
  split
  · rename_i hl
    have : e = (k, x) := h.unique he hx ge gx (by rw [hl, ly])
    subst this
    rcases hd with hd | hd
    · rw [hd]
    · simp [hd] at de
  · exact h.clean e he ge de i hi

theorem State.meterAdd_rest (s : State) (p sel n : Nat) : ∃ ps, s.meterAdd p sel n = { s with parts := ps } := by
  unfold State.meterAdd; split <;> exact ⟨_, rfl⟩
@[simp] theorem State.meterAdd_mem (s : State) (p sel n : Nat) : (s.meterAdd p sel n).mem = s.mem := by
  obtain ⟨ps, h⟩ := s.meterAdd_rest p sel n; rw [h]
@[simp] theorem State.meterAdd_l2 (s : State) (p sel n : Nat) : (s.meterAdd p sel n).l2 = s.l2 := by
  obtain ⟨ps, h⟩ := s.meterAdd_rest p sel n; rw [h]

/-- The home copy that `homeLine` finds. -/
theorem State.homeLine_some {s : State} {line : Nat} {e : Nat × L2Line} (h : s.homeLine line = some e) :
    e ∈ s.l2 ∧ e.2.line = line ∧ e.2.guest = false := by
  have h1 := List.mem_of_find?_eq_some h
  have h2 := List.find?_some h
  simp at h2
  exact ⟨h1, h2.1, h2.2⟩
theorem State.homeLine_none {s : State} {line : Nat} : s.homeLine line = none ↔ NoHome s.l2 line := by
  unfold State.homeLine NoHome
  rw [List.find?_eq_none]
  constructor
  · intro h e he ge hl
    have := h e he
    simp [hl, ge] at this
  · intro h e he hp
    simp at hp
    exact h e he hp.2 hp.1
theorem Sound.homeLine {s : State} (h : Sound s.mem s.l2) {e : Nat × L2Line} (he : e ∈ s.l2) (ge : e.2.guest = false) :
    s.homeLine e.2.line = some e := by
  cases hf : s.homeLine e.2.line with
  | none => exact absurd rfl (State.homeLine_none.mp hf e he ge)
  | some a =>
    obtain ⟨h1, h2, h3⟩ := State.homeLine_some hf
    rw [h.unique h1 he h3 ge h2]

/-- The byte at the home, where a copy stands and where none does. -/
theorem Sound.homeByte {s : State} (h : Sound s.mem s.l2) {e : Nat × L2Line} (he : e ∈ s.l2) (ge : e.2.guest = false) {l : Loc}
    (hl : l.pa / 128 = e.2.line) : s.homeByte l = lineByte e.2.data (l.pa % 128) := by
  unfold State.homeByte; rw [hl, h.homeLine he ge]
theorem State.homeByte_none {s : State} {l : Loc} (h : NoHome s.l2 (l.pa / 128)) : s.homeByte l = s.hbm l.pa := by
  unfold State.homeByte; rw [State.homeLine_none.mpr h]

/-- A clean or absent copy: the byte at the home is HBM4's. -/
theorem Sound.homeByte_hbm {s : State} (h : Sound s.mem s.l2) {l : Loc}
    (hd : ∀ e ∈ s.l2, e.2.guest = false → e.2.line = l.pa / 128 → e.2.dirty = false) : s.homeByte l = s.hbm l.pa := by
  cases hf : s.homeLine (l.pa / 128) with
  | none => exact State.homeByte_none (State.homeLine_none.mp hf)
  | some e =>
    obtain ⟨h1, h2, h3⟩ := State.homeLine_some hf
    rw [h.homeByte h1 h3 h2.symm, h.clean e h1 h3 (hd e h1 h3 h2) _ (Nat.mod_lt _ (by decide)), h2]
    show Store.get _ _ _ = Store.get _ _ _
    congr 1; omega

/-- Two states whose home copies and, elsewhere, whose HBM4 agree answer the same byte. -/
theorem homeByte_congr {s t : State} (hs : Sound s.mem s.l2) (ht : Sound t.mem t.l2) {l : Loc}
    (hh : ∀ e ∈ s.l2, e.2.guest = false → e.2.line = l.pa / 128 →
      (∃ f ∈ t.l2, f.2.guest = false ∧ f.2.line = e.2.line ∧ f.2.data = e.2.data) ∨
        (NoHome t.l2 (l.pa / 128) ∧ t.hbm l.pa = lineByte e.2.data (l.pa % 128)))
    (hn : NoHome s.l2 (l.pa / 128) → t.homeByte l = s.hbm l.pa) : t.homeByte l = s.homeByte l := by
  cases hf : s.homeLine (l.pa / 128) with
  | none =>
    have := State.homeLine_none.mp hf
    rw [State.homeByte_none this, hn this]
  | some e =>
    obtain ⟨h1, h2, h3⟩ := State.homeLine_some hf
    rw [hs.homeByte h1 h3 h2.symm]
    rcases hh e h1 h3 h2 with ⟨f, hf, gf, lf, df⟩ | ⟨hn, hb⟩
    · rw [ht.homeByte hf gf (by rw [lf, h2]), df]
    · rw [State.homeByte_none hn, hb]

/-- The state's memory is as it was: sound, and every home byte the same. -/
structure KeepsHome (s t : State) : Prop where
  sound : Sound t.mem t.l2
  same : ∀ l, t.homeByte l = s.homeByte l

theorem KeepsHome.refl {s : State} (h : Sound s.mem s.l2) : KeepsHome s s := ⟨h, fun _ => rfl⟩
theorem KeepsHome.trans {s t u : State} (h1 : KeepsHome s t) (h2 : KeepsHome t u) : KeepsHome s u :=
  ⟨h2.sound, fun l => (h2.same l).trans (h1.same l)⟩
theorem KeepsHome.of_eq {s t : State} (h : Sound s.mem s.l2) (hl : t.l2 = s.l2) (hm : t.mem = s.mem) : KeepsHome s t :=
  ⟨by rw [hl, hm]; exact h, State.homeByte_of_eq hl hm⟩

/-- An eviction changes no home byte, and leaves the way free. -/
theorem State.evict_keeps {s : State} (h : Sound s.mem s.l2) (k : Nat) :
    KeepsHome s (s.evict k) ∧ (∀ e, e ∈ (s.evict k).l2 ↔ e ∈ s.l2 ∧ e.1 ≠ k) := by
  unfold State.evict
  cases hf : Store.find k s.l2 with
  | none =>
    refine ⟨KeepsHome.refl h, fun e => ⟨fun he => ⟨he, ?_⟩, And.left⟩⟩
    rintro rfl
    have := (Store.find_eq_some h.sorted).mpr (show (e.1, e.2) ∈ s.l2 from he)
    rw [hf] at this; simp at this
  | some x =>
    have hx := (Store.find_eq_some h.sorted).mp hf
    set u := if (x.dirty && !x.guest) = true then (s.writeBack x).meterAdd x.owner 5 128 else s with hu
    have hl : u.l2 = s.l2 := by rw [hu]; split <;> simp [State.writeBack_l2]
    have hsu : Sound u.mem u.l2 := by
      rw [hu]; split
      · rename_i hc
        simp at hc
        simpa [State.writeBack_l2] using h.writeBack hx hc.2 rfl (.inl rfl)
      · exact h
    refine ⟨⟨?_, fun l => ?_⟩, fun e => ?_⟩
    · exact hsu.erase k
    · refine homeByte_congr h (hsu.erase k) (fun e he ge el => ?_) (fun hn => ?_)
      · by_cases hk : e.1 = k
        · right
          have hex : e = (k, x) := h.sorted.inj he hx hk
          subst hex
          simp only at ge el
          refine ⟨?_, ?_⟩
          · intro f hf gf fl
            have hf' := (Store.mem_erase f).mp hf
            rw [hl] at hf'
            exact hf'.2 (h.one f hf'.1 (k, x) hx gf ge (by rw [fl, el]))
          · show u.hbm l.pa = _
            rw [hu]
            cases hd : x.dirty with
            | true =>
              simp only [ge, Bool.not_false, Bool.and_self, if_true]
              have := s.writeBack_get x l.pa
              simp only [State.hbm, State.meterAdd_mem, this, el, if_true]
            | false =>
              simp only [Bool.false_and]
              have := h.clean (k, x) hx ge hd (l.pa % 128) (Nat.mod_lt _ (by decide))
              simp only [Bool.false_eq_true, if_false]
              rw [this, el]
              show Store.get _ _ _ = Store.get _ _ _
              congr 1; omega
        · left
          exact ⟨e, (Store.mem_erase e).mpr ⟨by rw [hl]; exact he, hk⟩, ge, rfl, rfl⟩
      · have hn' : NoHome (u.dropL2 k).l2 (l.pa / 128) := fun f hf gf => hn f (by
          have := (Store.mem_erase f).mp hf; rw [hl] at this; exact this.1) gf
        rw [State.homeByte_none hn']
        show u.hbm l.pa = _
        rw [hu]; split
        · rename_i hc
          simp at hc
          have := s.writeBack_get x l.pa
          simp only [State.hbm, State.meterAdd_mem, this]
          rw [if_neg]
          exact fun e => hn (k, x) hx hc.2 e.symm
        · rfl
    · show e ∈ Store.erase k u.l2 ↔ _
      rw [Store.mem_erase, hl]

/-- Byte j after writing byte i. -/
theorem lineByte_setLineByte (d : BitVec 1024) (b : Byte) {i j : Nat} (hi : i < 128) (hj : j < 128) :
    lineByte (setLineByte d i b) j = if j = i then b else lineByte d j := by
  apply BitVec.eq_of_getLsbD_eq
  intro p hp
  simp only [lineByte, setLineByte, BitVec.getLsbD_extractLsb', hp, decide_true, Bool.true_and, BitVec.getLsbD_or,
    BitVec.getLsbD_and, BitVec.getLsbD_not, BitVec.getLsbD_shiftLeft, BitVec.getLsbD_setWidth]
  have hm : ∀ q : Nat, (0xFF#1024).getLsbD q = decide (q < 8) := by
    intro q
    have h : Nat.testBit 0xFF q = decide (q < 8) := Nat.testBit_two_pow_sub_one 8 q
    rw [show (0xFF#1024) = BitVec.ofNat 1024 0xFF from rfl, BitVec.getLsbD_ofNat, h]
    by_cases hm : q < 8 <;> simp [hm]
    omega
  have h1 : 8 * j + p < 1024 := by omega
  split
  · rename_i e; subst e
    have h2 : ¬ 8 * j + p < 8 * j := by omega
    have h3 : 8 * j + p - 8 * j = p := by omega
    simp [h1, h3, hm, hp, show p < 1024 by omega]
  · rename_i e
    by_cases hlt : j < i
    · have h2 : 8 * j + p < 8 * i := by omega
      simp [h1, h2, hp]
    · have h2 : ¬ 8 * j + p < 8 * i := by omega
      have h3 : ¬ 8 * j + p - 8 * i < 8 := by omega
      have h4 : b.getLsbD (8 * j + p - 8 * i) = false := BitVec.getLsbD_of_ge _ _ (by omega)
      simp [h1, h2, h3, h4, hm, hp]

theorem State.homeByte_pa {s : State} {l l' : Loc} (h : l.pa = l'.pa) : s.homeByte l = s.homeByte l' := by
  unfold State.homeByte; rw [h]

/-- A copy put into a way that held none, a guest copy or a copy of the same line: where it is a home copy with the bytes the
home answered, no home byte changes. -/
theorem Sound.keeps_put {s t : State} (h : Sound s.mem s.l2) (hl : t.l2 = Store.put k y s.l2) (hm : t.mem = s.mem)
    (ho : ∀ e ∈ s.l2, e.1 = k → e.2.guest = false → e.2.line = y.line ∧ y.guest = false)
    (hy : y.guest = false → (∀ e ∈ s.l2, e.1 ≠ k → e.2.guest = false → e.2.line ≠ y.line) ∧
      (∀ i, i < 128 → lineByte y.data i = s.homeByte ⟨128 * y.line + i, none⟩) ∧
      (y.dirty = false → ∀ i, i < 128 → lineByte y.data i = s.hbm (128 * y.line + i))) : KeepsHome s t := by
  have hs : Sound t.mem t.l2 := by
    rw [hl, hm]
    cases g : y.guest with
    | true => exact h.put_guest g
    | false => exact h.put_home (hy g).1 (hy g).2.2
  refine ⟨hs, fun l => ?_⟩
  by_cases hn : NoHome t.l2 (l.pa / 128)
  · rw [State.homeByte_none hn]
    have hn' : NoHome s.l2 (l.pa / 128) := by
      intro e he ge el
      by_cases hk : e.1 = k
      · obtain ⟨h1, h2⟩ := ho e he hk ge
        exact hn (k, y) (by rw [hl]; exact (Store.mem_put h.sorted _).mpr (.inl rfl)) h2 (by rw [← h1, el])
      · exact hn e (by rw [hl]; exact (Store.mem_put h.sorted e).mpr (.inr ⟨he, hk⟩)) ge el
    rw [State.homeByte_none hn']; unfold State.hbm; rw [hm]
  · obtain ⟨e, he, ge, el⟩ := exists_home hn
    rw [hs.homeByte he ge el.symm]
    rw [hl] at he
    rcases (Store.mem_put h.sorted e).mp he with rfl | ⟨he', -⟩
    · rw [(hy ge).2.1 _ (Nat.mod_lt _ (by decide)), el]
      exact State.homeByte_pa (by show _ = _; simp only; omega)
    · exact (h.homeByte he' ge el.symm).symm

theorem State.guestLine_some {s : State} {die line : Nat} {e : Nat × L2Line} (h : s.guestLine die line = some e) :
    e ∈ s.l2 ∧ e.2.guest = true ∧ e.2.line = line := by
  have h1 := List.mem_of_find?_eq_some h
  have h2 := List.find?_some h
  simp at h2
  exact ⟨h1, h2.1.2, h2.1.1⟩

theorem State.dropL2_guest_keeps {s : State} (h : Sound s.mem s.l2) {k : Nat} (hk : ∀ e ∈ s.l2, e.1 = k → e.2.guest = true) :
    KeepsHome s (s.dropL2 k) := by
  refine ⟨h.erase k, fun l => homeByte_congr h (h.erase k) (fun e he ge el => ?_) (fun hn => ?_)⟩
  · left
    refine ⟨e, (Store.mem_erase e).mpr ⟨he, fun e1 => ?_⟩, ge, rfl, rfl⟩
    simp [hk e he e1] at ge
  · rw [State.homeByte_none]
    · rfl
    · intro e he ge
      exact hn e ((Store.mem_erase e).mp he).1 ge

/-- A guest copy that goes changes no home byte, and no line comes. -/
theorem State.dropCopy_keeps {s : State} (h : Sound s.mem s.l2) (die line : Nat) :
    KeepsHome s (s.dropCopy die line) ∧ ∀ e ∈ (s.dropCopy die line).l2, e ∈ s.l2 := by
  unfold State.dropCopy
  split
  · rename_i e hg
    obtain ⟨h1, h2, -⟩ := State.guestLine_some hg
    refine ⟨State.dropL2_guest_keeps h fun f hf hk => ?_, fun f hf => ((Store.mem_erase f).mp hf).1⟩
    rw [h.sorted.inj hf h1 hk]
    exact h2
  · exact ⟨KeepsHome.refl h, fun _ he => he⟩

/-- Filling a home line changes no home byte. -/
theorem State.fillHome_keeps {s : State} (h : Sound s.mem s.l2) (owner : Nat) (l : Loc) : KeepsHome s (s.fillHome owner l) := by
  unfold State.fillHome
  simp only
  split
  · exact KeepsHome.refl h
  · rename_i hn
    split
    · exact KeepsHome.refl h
    · rename_i w hw
      obtain ⟨h1, m1⟩ := State.evict_keeps h (l2Key (homeSlice l) (setOf l) w)
      obtain ⟨h2, m2⟩ := State.dropCopy_keeps h1.sound (homeSlice l / 48) (l.pa / 128)
      have hm : ∀ e ∈ ((s.evict (l2Key (homeSlice l) (setOf l) w)).dropCopy (homeSlice l / 48) (l.pa / 128)).l2,
          e ∈ s.l2 ∧ e.1 ≠ l2Key (homeSlice l) (setOf l) w := fun e he => (m1 e).mp (m2 e he)
      have hk := h1.trans h2
      generalize (s.evict (l2Key (homeSlice l) (setOf l) w)).dropCopy (homeSlice l / 48) (l.pa / 128) = u at hk hm
      refine hk.trans (Sound.keeps_put (t := _) (k := l2Key (homeSlice l) (setOf l) w) hk.sound (by simp; rfl) (by simp; rfl) ?_ ?_)
      · intro e he e1
        exact absurd e1 (hm e he).2
      · intro _
        have hno : NoHome u.l2 (l.pa / 128) := fun e he ge => State.homeLine_none.mp hn e (hm e he).1 ge
        refine ⟨fun e he _ ge => hno e he ge, fun i hi => ?_, fun _ i hi => ?_⟩
        · simp only
          rw [State.lineByte_hbmLine _ _ hi, State.homeByte_none]
          have : (128 * (l.pa / 128) + i) / 128 = l.pa / 128 := by omega
          simp only [this]; exact hno
        · simp only
          rw [State.lineByte_hbmLine _ _ hi]

/-- R298, R396: one byte written at the home: it reads back, and every other home byte reads as it did. -/
theorem State.writeHomeByte_spec {s : State} (h : Sound s.mem s.l2) (owner : Nat) (l : Loc) (b : Byte) :
    Sound (s.writeHomeByte owner l b).mem (s.writeHomeByte owner l b).l2 ∧
      ∀ l', (s.writeHomeByte owner l b).homeByte l' = if l'.pa = l.pa then b else s.homeByte l' := by
  obtain ⟨hu, hsame⟩ := State.fillHome_keeps h owner l
  unfold State.writeHomeByte
  simp only
  generalize s.fillHome owner l = u at *
  have hsame' : ∀ l', s.homeByte l' = u.homeByte l' := fun l' => (hsame l').symm
  simp only [hsame']
  cases hf : u.homeLine (l.pa / 128) with
  | none =>
    have hn := State.homeLine_none.mp hf
    simp only
    have hs : Sound (u.setHbm l.pa b).mem (u.setHbm l.pa b).l2 := by
      refine hu.set_mem (Store.wf_set hu.wf) fun e he ge de i hi => ?_
      rw [show (u.setHbm l.pa b).mem = Store.set 0#8 u.mem l.pa b from rfl, Store.get_set_other, hu.clean e he ge de i hi]
      intro e1
      exact hn e he ge (by omega)
    refine ⟨hs, fun l' => ?_⟩
    by_cases hl' : NoHome u.l2 (l'.pa / 128)
    · rw [State.homeByte_none (show NoHome (u.setHbm l.pa b).l2 _ from hl'), State.homeByte_none hl']
      split
      · rename_i e; rw [e]; exact State.hbm_setHbm ..
      · rename_i e; exact State.hbm_setHbm_ne _ _ e
    · have hne : l'.pa ≠ l.pa := by rintro e; rw [e] at hl'; exact hl' hn
      rw [if_neg hne]
      obtain ⟨e, he, ge, el⟩ := exists_home hl'
      rw [hs.homeByte he ge el.symm, hu.homeByte he ge el.symm]
  | some p =>
    obtain ⟨k, x⟩ := p
    obtain ⟨hx, lx, gx⟩ := State.homeLine_some hf
    simp only at lx gx
    simp only
    have hml : l.pa % 128 < 128 := Nat.mod_lt _ (by decide)
    have key : ∀ t : State, ∀ z : L2Line, t.l2 = Store.put k z u.l2 → Sound t.mem t.l2 → z.guest = false → z.line = x.line →
        z.data = setLineByte x.data (l.pa % 128) b → (∀ pa, pa / 128 ≠ x.line → t.hbm pa = u.hbm pa) →
        ∀ l', t.homeByte l' = if l'.pa = l.pa then b else u.homeByte l' := by
      intro t z ht hst gz lz dz hmm l'
      have hz : (k, z) ∈ t.l2 := by rw [ht]; exact (Store.mem_put hu.sorted _).mpr (.inl rfl)
      by_cases hl : l'.pa / 128 = x.line
      · have hb := hu.homeByte hx gx (l := l') hl
        rw [hst.homeByte hz gz (by rw [hl, lz]), dz, lineByte_setLineByte _ _ hml (Nat.mod_lt _ (by decide)), hb]
        have : l'.pa % 128 = l.pa % 128 ↔ l'.pa = l.pa := by omega
        simp [this]
      · rw [if_neg (by rintro e; rw [e] at hl; exact hl lx.symm)]
        by_cases hn : NoHome u.l2 (l'.pa / 128)
        · rw [State.homeByte_none hn, State.homeByte_none, hmm _ hl]
          intro e he ge
          rw [ht] at he
          rcases (Store.mem_put hu.sorted e).mp he with rfl | ⟨he, -⟩
          · simp only; rw [lz]; exact fun h => hl h.symm
          · exact hn e he ge
        · obtain ⟨e, he, ge, el⟩ := exists_home hn
          have hk : e.1 ≠ k := by
            intro hk
            have := hu.sorted.inj he hx hk
            subst this
            exact hl el.symm
          rw [hu.homeByte he ge el.symm, hst.homeByte (by rw [ht]; exact (Store.mem_put hu.sorted e).mpr (.inr ⟨he, hk⟩)) ge el.symm]
    split
    · have hs : Sound u.mem (Store.put k ({ x.write (l.pa % 128) b with used := u.now, dirty := true } : L2Line) u.l2) :=
        hu.put_same hx rfl rfl (by intro _ hd; simp at hd)
      exact ⟨hs, key _ _ rfl hs gx rfl rfl fun _ _ => rfl⟩
    · set y : L2Line := { x.write (l.pa % 128) b with used := u.now } with hy
      have hw : Sound (u.writeBack y).mem (Store.put k ({ y with dirty := false } : L2Line) u.l2) := by
        refine ⟨u.writeBack_wf y hu.wf, Store.sorted_put hu.sorted, ?_, ?_⟩
        · intro a ha c hc ga gc hl
          rcases (Store.mem_put hu.sorted a).mp ha with rfl | ⟨ha, ka⟩ <;> rcases (Store.mem_put hu.sorted c).mp hc with rfl | ⟨hc, kc⟩
          · rfl
          · exact absurd hl.symm (hu.noHome_of hx gx hc gc kc)
          · exact absurd hl (hu.noHome_of hx gx ha ga ka)
          · exact hu.one a ha c hc ga gc hl
        · intro e he ge de i hi
          rw [u.writeBack_get y]
          have e1 : (128 * e.2.line + i) / 128 = e.2.line := by omega
          have e2 : (128 * e.2.line + i) % 128 = i := by omega
          rw [e1, e2]
          rcases (Store.mem_put hu.sorted e).mp he with rfl | ⟨he, ke⟩
          · simp
          · rw [if_neg (show e.2.line ≠ y.line from hu.noHome_of hx gx he ge ke)]
            exact hu.clean e he ge de i hi
      refine ⟨?_, ?_⟩
      · simpa [State.putL2, State.writeBack_l2] using hw
      · refine key _ ({ y with dirty := false } : L2Line) ?_ (by simpa [State.putL2, State.writeBack_l2] using hw) gx rfl rfl ?_
        · simp [State.putL2, State.writeBack_l2]; rfl
        · intro pa hpa
          unfold State.hbm
          show Store.get 0#8 (u.writeBack y).mem pa = _
          rw [u.writeBack_get y, if_neg]
          exact hpa

/-! ### Wakes -/

/-- An acquire touches a core's L1 and its own team's record only (R171). -/
theorem State.acquire_rest (s : State) (h : Nat) (c : Scope) :
    ∃ ts x n, s.acquire h c = { s with teams := ts, l1 := x, now := n } := by
  unfold State.acquire
  split
  · exact ⟨_, _, _, rfl⟩
  · exact ⟨_, _, _, rfl⟩
  · simp only
    split <;> split <;> exact ⟨_, _, _, rfl⟩

/-! ### Reads at the home (R377, R397) -/

/-- What a read at the home may change: the L2 with what its evictions write back, the poison they carry, the meters and the
moment. -/
def ReadsHome (s t : State) : Prop := ∃ l m p ps n, t = { s with l2 := l, mem := m, poison := p, parts := ps, now := n }

theorem ReadsHome.refl (s : State) : ReadsHome s s := ⟨_, _, _, _, _, rfl⟩
theorem ReadsHome.trans {s t u : State} (h1 : ReadsHome s t) (h2 : ReadsHome t u) : ReadsHome s u := by
  obtain ⟨l, m, p, ps, n, rfl⟩ := h1
  obtain ⟨l', m', p', ps', n', rfl⟩ := h2
  exact ⟨_, _, _, _, _, rfl⟩
theorem State.meterAdd_reads (s : State) (p sel n : Nat) : ReadsHome s (s.meterAdd p sel n) := by
  obtain ⟨ps, e⟩ := s.meterAdd_rest p sel n
  rw [e]; exact ⟨_, _, _, _, _, rfl⟩
theorem State.writeBack_reads (s : State) (x : L2Line) : ReadsHome s (s.writeBack x) := by
  obtain ⟨⟨m, p, e, -⟩, -⟩ := s.writeBack_spec x
  rw [e]; exact ⟨_, _, _, _, _, rfl⟩
theorem State.evict_reads (s : State) (k : Nat) : ReadsHome s (s.evict k) := by
  unfold State.evict
  split
  · exact ReadsHome.refl s
  · refine ReadsHome.trans (t := ite _ _ _) ?_ ⟨_, _, _, _, _, rfl⟩
    split
    · exact (s.writeBack_reads _).trans (State.meterAdd_reads ..)
    · exact ReadsHome.refl s
theorem State.dropCopy_reads (s : State) (die line : Nat) : ReadsHome s (s.dropCopy die line) := by
  unfold State.dropCopy; split <;> exact ⟨_, _, _, _, _, rfl⟩
theorem State.fillHome_reads (s : State) (owner : Nat) (l : Loc) : ReadsHome s (s.fillHome owner l) := by
  unfold State.fillHome
  simp only
  split
  · exact ReadsHome.refl s
  · split
    · exact ReadsHome.refl s
    · exact (((s.evict_reads _).trans (State.dropCopy_reads ..)).trans ⟨_, _, _, _, _, rfl⟩).trans (State.meterAdd_reads ..)
theorem State.touch_reads (s : State) (k : Nat) : ReadsHome s (s.touch k) := by
  unfold State.touch; split <;> exact ⟨_, _, _, _, _, rfl⟩
theorem State.useHome_reads (s : State) (owner : Nat) (l : Loc) : ReadsHome s (s.useHome owner l) := by
  unfold State.useHome
  simp only
  split
  · exact s.touch_reads _
  · split
    · exact s.fillHome_reads owner l
    · exact (s.fillHome_reads owner l).trans (State.meterAdd_reads ..)

/-- A hit changes no home byte. -/
theorem State.touch_keeps {s : State} (h : Sound s.mem s.l2) (k : Nat) : KeepsHome s (s.touch k) := by
  unfold State.touch
  cases hf : Store.find k s.l2 with
  | none => exact KeepsHome.refl h
  | some x =>
    have hx := (Store.find_eq_some h.sorted).mp hf
    refine Sound.keeps_put (t := _) (k := k) (y := { x with used := s.now }) h rfl rfl (fun e he hk ge => ?_) (fun gy => ?_)
    · have := h.sorted.inj he hx hk
      subst this
      exact ⟨rfl, ge⟩
    · refine ⟨fun e he ke ge => h.noHome_of hx gy he ge ke, fun i hi => ?_, fun hd i hi => h.clean _ hx gy hd i hi⟩
      have e1 : (128 * x.line + i) / 128 = x.line := by omega
      have e2 : (128 * x.line + i) % 128 = i := by omega
      rw [h.homeByte hx gy (l := ⟨128 * x.line + i, none⟩) e1]
      simp only [e2]

theorem State.useHome_keeps {s : State} (h : Sound s.mem s.l2) (owner : Nat) (l : Loc) : KeepsHome s (s.useHome owner l) := by
  unfold State.useHome
  simp only
  split
  · exact State.touch_keeps h _
  · have hk := State.fillHome_keeps h owner l
    split
    · exact hk
    · exact hk.trans (KeepsHome.of_eq hk.sound (State.meterAdd_l2 ..) (State.meterAdd_mem ..))

/-- Reads of a list of bytes at the home change no home byte, and only what a read may change. -/
theorem State.useAll_spec (owner : Nat) (bs : List Loc) {s : State} (h : Sound s.mem s.l2) :
    KeepsHome s (s.useAll owner bs) ∧ ReadsHome s (s.useAll owner bs) := by
  unfold State.useAll
  generalize lineHeads bs = ls
  induction ls generalizing s with
  | nil => exact ⟨KeepsHome.refl h, ReadsHome.refl s⟩
  | cons l r ih =>
    have h1 := State.useHome_keeps h owner l
    obtain ⟨h2, h3⟩ := ih h1.sound
    exact ⟨h1.trans h2, (s.useHome_reads owner l).trans h3⟩

/-- What a WAITV that reads again may change: contexts, team records, the L1 and what a read at the home may change (R175). -/
def Rereads (s t : State) : Prop :=
  ∃ cs ts x l m p ps n, t = { s with ctxs := cs, teams := ts, l1 := x, l2 := l, mem := m, poison := p, parts := ps, now := n }

theorem Rereads.trans {s t u : State} (h1 : Rereads s t) (h2 : Rereads t u) : Rereads s u := by
  obtain ⟨_, _, _, _, _, _, _, _, rfl⟩ := h1
  obtain ⟨_, _, _, _, _, _, _, _, rfl⟩ := h2
  exact ⟨_, _, _, _, _, _, _, _, rfl⟩
theorem ReadsHome.rereads {s t : State} (h : ReadsHome s t) : Rereads s t := by
  obtain ⟨_, _, _, _, _, rfl⟩ := h
  exact ⟨_, _, _, _, _, _, _, _, rfl⟩

/-- A wait that is over changes contexts, team records, the L1 and the moment. -/
theorem State.waitMet_rest (s : State) (h : Nat) (sc sw : Bool) :
    ∃ cs ts x n, s.waitMet h sc sw = { s with ctxs := cs, teams := ts, l1 := x, now := n } := by
  unfold State.waitMet
  obtain ⟨ts, x, n, ha⟩ : ∃ ts x n, (if sc = true then s.setCtx h { s.ctx h with status := .ready }
      else (s.setCtx h { s.ctx h with status := .ready }).acquire h .pkg) =
      { s.setCtx h { s.ctx h with status := .ready } with teams := ts, l1 := x, now := n } := by
    split
    · exact ⟨_, _, _, rfl⟩
    · exact State.acquire_rest ..
  obtain ⟨cs', ts', hd⟩ := State.done_rest { s.setCtx h { s.ctx h with status := .ready } with teams := ts, l1 := x, now := n } h 1 sw
  simp only [ha]
  rw [hd]
  exact ⟨_, _, _, _, rfl⟩

/-- A WAITV's read changes no home byte, and only what it may change. -/
theorem State.readWait_spec {s : State} (hs : Sound s.mem s.l2) (h : Nat) (sc : Bool) (pl : List Loc) (c : WaitCond) (y : DWord)
    (sw : Bool) : KeepsHome s (s.readWait h sc pl c y sw) ∧ Rereads s (s.readWait h sc pl c y sw) := by
  have hr : KeepsHome s (if sc then s else s.useAll (s.owner h) pl) ∧ ReadsHome s (if sc then s else s.useAll (s.owner h) pl) := by
    split
    · exact ⟨KeepsHome.refl hs, ReadsHome.refl s⟩
    · exact State.useAll_spec _ _ hs
  unfold State.readWait
  simp only
  generalize (if sc then s else s.useAll (s.owner h) pl) = r at hr
  split
  · exact ⟨KeepsHome.refl hs, (ReadsHome.refl s).rereads⟩
  · split
    · obtain ⟨cs, ts, x, n, e⟩ := r.waitMet_rest h sc sw
      rw [e]
      exact ⟨hr.1.trans (KeepsHome.of_eq hr.1.sound rfl rfl), hr.2.rereads.trans ⟨_, _, _, _, _, _, _, _, rfl⟩⟩
    · exact ⟨hr.1, hr.2.rereads⟩

theorem State.reread_spec {s : State} (hs : Sound s.mem s.l2) (h : Nat) : KeepsHome s (s.reread h) ∧ Rereads s (s.reread h) := by
  unfold State.reread
  split
  · exact State.readWait_spec hs ..
  all_goals exact ⟨KeepsHome.refl hs, (ReadsHome.refl s).rereads⟩

theorem State.rereads_spec (hs : List Nat) {s : State} (h : Sound s.mem s.l2) :
    KeepsHome s (hs.foldl State.reread s) ∧ Rereads s (hs.foldl State.reread s) := by
  induction hs generalizing s with
  | nil => exact ⟨KeepsHome.refl h, (ReadsHome.refl s).rereads⟩
  | cons a r ih =>
    obtain ⟨h1, h2⟩ := State.reread_spec h a
    obtain ⟨h3, h4⟩ := ih h1.sound
    exact ⟨h1.trans h3, h2.trans h4⟩

/-! ### Writes at the home -/

/-- The bytes of a list stand in a function of places, the later ones last. -/
def applyBytes (bs : List (Loc × Byte)) (f : Nat → Byte) : Nat → Byte :=
  bs.foldl (fun f p a => if a = p.1.pa then p.2 else f a) f

theorem applyBytes_other {bs : List (Loc × Byte)} {f : Nat → Byte} {a : Nat} (h : ∀ p ∈ bs, p.1.pa ≠ a) :
    applyBytes bs f a = f a := by
  induction bs generalizing f with
  | nil => rfl
  | cons p r ih =>
    show applyBytes r _ a = _
    rw [ih fun q hq => h q (List.mem_cons_of_mem _ hq)]
    exact if_neg (Ne.symm (h p (List.mem_cons_self ..)))

theorem applyBytes_mem {bs : List (Loc × Byte)} {f : Nat → Byte} (hn : (bs.map fun p => p.1.pa).Nodup) {p : Loc × Byte}
    (hp : p ∈ bs) : applyBytes bs f p.1.pa = p.2 := by
  induction bs generalizing f with
  | nil => simp at hp
  | cons q r ih =>
    rw [List.map_cons, List.nodup_cons] at hn
    show applyBytes r _ _ = _
    rcases List.mem_cons.mp hp with rfl | hp
    · rw [applyBytes_other]
      · exact if_pos rfl
      · intro q hq e
        exact hn.1 (List.mem_map.mpr ⟨q, hq, e⟩)
    · exact ih hn.2 hp

/-- Bytes written one after the other at the home. -/
theorem State.writeBytes_spec (bs : List (Loc × Byte)) (owner : Nat) {s : State} (h : Sound s.mem s.l2) :
    let t := bs.foldl (fun s p => s.writeHomeByte owner p.1 p.2) s
    Sound t.mem t.l2 ∧ ∀ l, t.homeByte l = applyBytes bs (fun a => s.homeByte ⟨a, none⟩) l.pa := by
  induction bs generalizing s with
  | nil => exact ⟨h, fun l => rfl⟩
  | cons p r ih =>
    obtain ⟨h1, h2⟩ := State.writeHomeByte_spec h owner p.1 p.2
    obtain ⟨h3, h4⟩ := ih h1
    refine ⟨h3, fun l => ?_⟩
    rw [List.foldl_cons, h4]
    show applyBytes r _ _ = applyBytes r _ _
    congr 1
    funext a
    exact h2 ⟨a, none⟩

theorem State.fillHome_sp (s : State) (owner : Nat) (l : Loc) : (s.fillHome owner l).sp = s.sp := by
  obtain ⟨_, _, _, _, _, e⟩ := s.fillHome_reads owner l
  rw [e]

theorem State.writeHomeByte_sp (s : State) (owner : Nat) (l : Loc) (b : Byte) : (s.writeHomeByte owner l b).sp = s.sp := by
  have hw : ∀ (s : State) x, (s.writeBack x).sp = s.sp := fun s x => by
    obtain ⟨⟨m, p, h, -⟩, -⟩ := s.writeBack_spec x; rw [h]
  unfold State.writeHomeByte
  simp only
  split
  · exact s.fillHome_sp owner l
  · split
    · exact s.fillHome_sp owner l
    · simp only [State.putL2, hw]; exact s.fillHome_sp owner l

theorem State.writeBytes_sp (bs : List (Loc × Byte)) (owner : Nat) (s : State) :
    (bs.foldl (fun s p => s.writeHomeByte owner p.1 p.2) s).sp = s.sp := by
  induction bs generalizing s with
  | nil => rfl
  | cons p r ih => rw [List.foldl_cons, ih, State.writeHomeByte_sp]

theorem State.meterWrites_rest (owner : Nat) (ls : List Nat) (f : Nat → Nat) (s : State) :
    ∃ ps, ls.foldl (fun s line => s.meterWrite owner line (f line)) s = { s with parts := ps } := by
  induction ls generalizing s with
  | nil => exact ⟨_, rfl⟩
  | cons l r ih =>
    obtain ⟨ps, e⟩ : ∃ ps, s.meterWrite owner l (f l) = { s with parts := ps } := by
      unfold State.meterWrite
      split
      · exact s.meterAdd_rest ..
      · split
        · exact ⟨_, rfl⟩
        · exact s.meterAdd_rest ..
    rw [List.foldl_cons, e]
    obtain ⟨ps', e'⟩ := ih { s with parts := ps }
    exact ⟨ps', e'⟩

/-- Guest copies that a note is made on: no home byte changes. -/
theorem State.noteGuests_keeps {s : State} (h : Sound s.mem s.l2) (p : L2Line → Bool) (n : Nat) (v : State)
    (hl : v.l2 = s.l2.map fun (e : Nat × L2Line) => if (e.2.guest && p e.2) = true then (e.1, { e.2 with wrote := n }) else e)
    (hm : v.mem = s.mem) : KeepsHome s v := by
  set z : Nat × L2Line → Nat × L2Line := fun e => if (e.2.guest && p e.2) = true then (e.1, { e.2 with wrote := n }) else e with hz
  have z1 : ∀ e, (z e).1 = e.1 := fun e => by simp only [hz]; split <;> rfl
  have z2 : ∀ e, (z e).2.line = e.2.line := fun e => by simp only [hz]; split <;> rfl
  have z3 : ∀ e, (z e).2.guest = e.2.guest := fun e => by simp only [hz]; split <;> rfl
  have z4 : ∀ e : Nat × L2Line, e.2.guest = false → z e = e := fun e ge => by simp [hz, ge]
  have hs : Sound v.mem v.l2 := by
    rw [hl, hm]
    refine ⟨h.wf, List.pairwise_map.mpr (h.sorted.imp fun {a b} hab => by rw [z1, z1]; exact hab), ?_, ?_⟩
    · intro a ha b hb
      obtain ⟨a, ha', rfl⟩ := List.mem_map.mp ha
      obtain ⟨b, hb', rfl⟩ := List.mem_map.mp hb
      rw [z1, z1, z2, z2, z3, z3]
      exact h.one a ha' b hb'
    · intro e he ge
      obtain ⟨e, he', rfl⟩ := List.mem_map.mp he
      rw [z3] at ge
      rw [z4 e ge]
      exact h.clean e he' ge
  refine ⟨hs, fun l => homeByte_congr h hs (fun e he ge el => .inl ⟨e, ?_, ge, rfl, rfl⟩) fun hn => ?_⟩
  · rw [hl]
    exact List.mem_map.mpr ⟨e, he, z4 e ge⟩
  · rw [State.homeByte_none]
    · unfold State.hbm; rw [hm]
    · intro e he ge
      rw [hl] at he
      obtain ⟨e, he', rfl⟩ := List.mem_map.mp he
      rw [z3] at ge
      rw [z2]
      exact hn e he' ge

/-- R300, R302: a write performed at the home: its bytes stand there, every other byte reads as it did, and the memory stays
sound. -/
theorem State.write_spec {s : State} (h : Sound s.mem s.l2) (owner : Nat) (src : Option Nat) (bs : List (Loc × Byte)) :
    Sound (s.write owner src bs).mem (s.write owner src bs).l2 ∧ StoresBytes s (s.write owner src bs) bs := by
  obtain ⟨h1, h2⟩ := State.writeBytes_spec bs owner h
  set u := bs.foldl (fun s p => s.writeHomeByte owner p.1 p.2) s with hu
  have hsp : u.sp = s.sp := State.writeBytes_sp ..
  obtain ⟨ps, hps⟩ := State.meterWrites_rest owner (linesOf (bs.map (·.1)))
    (fun line => (bs.filter fun p => p.1.pa / 128 == line).length) u
  set v := s.writeHome owner src bs with hv
  have hvm : v.mem = u.mem ∧ v.sp = u.sp := by
    rw [hv]; unfold State.writeHome
    simp only [← hu, hps, and_self]
  have hvu : KeepsHome u v := by
    refine State.noteGuests_keeps h1 (fun x => (linesOf (bs.map (·.1))).contains x.line) u.now v ?_ hvm.1
    rw [hv]; unfold State.writeHome
    simp only [← hu, hps]
  have hvs : Sound v.mem v.l2 := hvu.sound
  have hw : s.write owner src bs = ((v.ctxs.filter fun e => e.2.watchesGlobal (bs.map (·.1))).map (·.1)).foldl State.reread v := rfl
  obtain ⟨h3, h4⟩ := State.rereads_spec ((v.ctxs.filter fun e => e.2.watchesGlobal (bs.map (·.1))).map (·.1)) hvs
  rw [hw]
  generalize ((v.ctxs.filter fun e => e.2.watchesGlobal (bs.map (·.1))).map (·.1)).foldl State.reread v = w at h3 h4
  have hb : ∀ l, w.homeByte l = applyBytes bs (fun a => s.homeByte ⟨a, none⟩) l.pa := by
    intro l
    rw [h3.same, hvu.same]
    exact h2 l
  refine ⟨h3.sound, ?_, ?_, ?_⟩
  · intro l hl
    rw [hb, applyBytes_other hl]
    exact State.homeByte_pa rfl
  · intro hn p hp
    rw [hb, applyBytes_mem hn hp]
  · intro g o
    obtain ⟨_, _, _, _, _, _, _, _, e⟩ := h4
    exact State.spByte_of_eq (by rw [e]; exact hvm.2.trans hsp) g o

/-! ### Guest copies, evictions and cleaning -/

/-- A guest copy that changes in its way changes no home byte. -/
theorem State.putGuest_keeps {s : State} (h : Sound s.mem s.l2) {k : Nat} {x y : L2Line} (hx : (k, x) ∈ s.l2)
    (gx : x.guest = true) (gy : y.guest = true) : KeepsHome s (s.putL2 k y) := by
  refine h.keeps_put rfl rfl (fun e he hk ge => ?_) (fun hy => ?_)
  · have := h.sorted.inj he hx hk
    subst this
    simp [gx] at ge
  · simp [gy] at hy

/-- A die's own writes to its guest copies change no home byte (R164, R300). -/
theorem State.writeGuest_keeps {s : State} (h : Sound s.mem s.l2) (die : Nat) (bs : List (Loc × Byte)) :
    KeepsHome s (s.writeGuest die bs) := by
  induction bs generalizing s with
  | nil => exact KeepsHome.refl h
  | cons p r ih =>
    have key : KeepsHome s (s.writeGuest die [p]) := by
      unfold State.writeGuest
      simp only [List.foldl_cons, List.foldl_nil]
      split
      · exact KeepsHome.refl h
      · rename_i k x hg
        obtain ⟨h1, h2, -⟩ := State.guestLine_some hg
        have hp := State.putGuest_keeps h h1 h2 (y := { x with data := setLineByte x.data (p.1.pa % 128) p.2, used := s.now }) h2
        exact hp.trans (KeepsHome.of_eq hp.sound rfl rfl)
    exact key.trans (ih key.sound)

theorem State.putL2_mem (s : State) (k : Nat) (x : L2Line) : (s.putL2 k x).mem = s.mem := rfl
theorem State.putL2_l2 (s : State) (k : Nat) (x : L2Line) : (s.putL2 k x).l2 = Store.put k x s.l2 := rfl
theorem State.putL2_hbm (s : State) (k : Nat) (x : L2Line) (pa : Nat) : (s.putL2 k x).hbm pa = s.hbm pa := rfl

/-- A home copy written back and left clean: no home byte changes, and HBM4 holds its bytes (R176, R396). -/
theorem State.clean_keeps {s : State} (h : Sound s.mem s.l2) {k : Nat} {x : L2Line} (hx : (k, x) ∈ s.l2)
    (gx : x.guest = false) : KeepsHome s ((s.writeBack x).putL2 k { x with dirty := false }) := by
  have hs : Sound (s.writeBack x).mem (Store.put k ({ x with dirty := false } : L2Line) s.l2) := by
    refine Sound.put_home (h.writeBack hx gx rfl (.inl rfl)) (fun e he ke ge => h.noHome_of hx gx he ge ke) (fun _ i hi => ?_)
    rw [s.writeBack_get x]
    have e1 : (128 * x.line + i) / 128 = x.line := by omega
    have e2 : (128 * x.line + i) % 128 = i := by omega
    simp [e1, e2]
  have hl : ((s.writeBack x).putL2 k { x with dirty := false }).l2 = Store.put k ({ x with dirty := false } : L2Line) s.l2 := by
    rw [State.putL2_l2, State.writeBack_l2]
  have ht : Sound ((s.writeBack x).putL2 k { x with dirty := false }).mem ((s.writeBack x).putL2 k { x with dirty := false }).l2 := by
    rw [hl, State.putL2_mem]; exact hs
  refine ⟨ht, fun l => homeByte_congr h ht (fun e he ge el => .inl ?_) (fun hn => ?_)⟩
  · rw [hl]
    by_cases hk : e.1 = k
    · have := h.sorted.inj he hx hk
      subst this
      exact ⟨_, (Store.mem_put h.sorted _).mpr (.inl rfl), gx, rfl, rfl⟩
    · exact ⟨e, (Store.mem_put h.sorted e).mpr (.inr ⟨he, hk⟩), ge, rfl, rfl⟩
  · rw [State.homeByte_none]
    · rw [State.putL2_hbm, (s.writeBack_spec x).2, if_neg (fun e => hn (k, x) hx gx e.symm)]
    · rw [hl]
      intro e he ge
      rcases (Store.mem_put h.sorted e).mp he with rfl | ⟨he, -⟩
      · exact hn (k, x) hx gx
      · exact hn e he ge

/-- PREF.WB's clean (R176). -/
theorem State.cleanLine_keeps {s : State} (h : Sound s.mem s.l2) (l : Loc) : KeepsHome s (s.cleanLine l) := by
  unfold State.cleanLine
  split
  · rename_i k x hf
    obtain ⟨h1, -, h3⟩ := State.homeLine_some hf
    split
    · have hk := State.clean_keeps h h1 h3
      exact hk.trans (KeepsHome.of_eq hk.sound (State.meterAdd_l2 ..) (State.meterAdd_mem ..))
    · exact KeepsHome.refl h
  · exact KeepsHome.refl h

/-- A clean home copy, or a guest copy, that goes changes no home byte. -/
theorem State.dropL2_clean_keeps {s : State} (h : Sound s.mem s.l2) {k : Nat} {x : L2Line} (hx : (k, x) ∈ s.l2)
    (hc : x.guest = true ∨ x.dirty = false) : KeepsHome s (s.dropL2 k) := by
  refine ⟨h.erase k, fun l => homeByte_congr h (h.erase k) (fun e he ge el => ?_) (fun hn => ?_)⟩
  · by_cases hk : e.1 = k
    · right
      have := h.sorted.inj he hx hk
      subst this
      have hd : x.dirty = false := by rcases hc with hc | hc <;> simp_all
      refine ⟨fun f hf gf fl => ?_, ?_⟩
      · have hf' := (Store.mem_erase f).mp hf
        exact hf'.2 (h.one f hf'.1 (k, x) hx gf ge (by rw [fl, el]))
      · have := h.clean (k, x) hx ge hd (l.pa % 128) (Nat.mod_lt _ (by decide))
        rw [this, el]
        show Store.get _ _ _ = Store.get _ _ _
        congr 1; omega
    · left
      exact ⟨e, (Store.mem_erase e).mpr ⟨he, hk⟩, ge, rfl, rfl⟩
  · rw [State.homeByte_none]
    · rfl
    · intro e he ge
      exact hn e ((Store.mem_erase e).mp he).1 ge

/-- A fill, or a refresh, of a guest copy changes no home byte (R295). -/
theorem State.fillGuest_keeps {s : State} (h : Sound s.mem s.l2) (owner die : Nat) (l : Loc) :
    KeepsHome s (s.fillGuest owner die l) := by
  have h1 := State.useHome_keeps h owner l
  unfold State.fillGuest
  simp only
  generalize s.useHome owner l = u at *
  split
  · exact h1
  · split
    · exact h1.trans (State.dropCopy_keeps h1.sound ..).1
    · split
      · rename_i k x hg
        obtain ⟨hx, gx, -⟩ := State.guestLine_some hg
        refine h1.trans (KeepsHome.trans (State.putGuest_keeps h1.sound hx gx ?_) (KeepsHome.of_eq ?_ rfl rfl))
        · exact gx
        · exact h1.sound.put_guest gx
      · split
        · exact h1
        · rename_i w _
          obtain ⟨h2, hm⟩ := State.evict_keeps h1.sound (l2Key (guestSlice die l) (setOf l) w)
          have h3 := Sound.keeps_put (k := l2Key (guestSlice die l) (setOf l) w)
            (y := { line := l.pa / 128, guest := true,
                    data := (u.ownPending die (l.pa / 128)).foldl (fun d p => setLineByte d p.1 p.2) (u.homeData (l.pa / 128)),
                    dirty := false, owner := owner, used := u.now, filled := u.now, stale := false, wrote := 0, pois := 0#2,
                    written := 0#128 })
            (t := (u.evict (l2Key (guestSlice die l) (setOf l) w)).putL2 (l2Key (guestSlice die l) (setOf l) w) _) h2.sound rfl rfl
            (fun e he e1 => absurd e1 ((hm e).mp he).2) (by intro hy; simp at hy)
          exact h1.trans (h2.trans (h3.trans (KeepsHome.of_eq h3.sound rfl rfl)))

/-- Zeros over whole lines: the memory stays sound (R388). -/
theorem Sound.zero (h : Sound m l2) (inn : Nat → Bool) :
    Sound (m.filter fun c => !inn (c.1 / 128))
      ((l2.filter fun e => !(e.2.guest && inn e.2.line)).map fun e =>
        if inn e.2.line = true then (e.1, { e.2 with data := 0#1024, dirty := false, pois := 0#2, written := 0#128 }) else e) := by
  set z : Nat × L2Line → Nat × L2Line := fun e =>
    if inn e.2.line = true then (e.1, { e.2 with data := 0#1024, dirty := false, pois := 0#2, written := 0#128 }) else e with hz
  have z1 : ∀ e, (z e).1 = e.1 := fun e => by simp only [hz]; split <;> rfl
  have z2 : ∀ e, (z e).2.line = e.2.line := fun e => by simp only [hz]; split <;> rfl
  have z3 : ∀ e, (z e).2.guest = e.2.guest := fun e => by simp only [hz]; split <;> rfl
  have hf := h.filter fun e => !(e.2.guest && inn e.2.line)
  refine ⟨Store.wf_filter _ h.wf, ?_, ?_, ?_⟩
  · refine List.pairwise_map.mpr (hf.sorted.imp ?_)
    intro a b hab
    rw [z1, z1]; exact hab
  · intro a ha b hb
    obtain ⟨a, ha', rfl⟩ := List.mem_map.mp ha
    obtain ⟨b, hb', rfl⟩ := List.mem_map.mp hb
    rw [z1, z1, z2, z2, z3, z3]
    exact hf.one a ha' b hb'
  · intro e he ge de i hi
    obtain ⟨e, he', rfl⟩ := List.mem_map.mp he
    rw [z3] at ge
    have hdiv : (128 * e.2.line + i) / 128 = e.2.line := by omega
    rw [z2]
    cases hin : inn e.2.line with
    | true =>
      have : Store.get 0#8 (m.filter fun c => !inn (c.1 / 128)) (128 * e.2.line + i) = 0#8 := by
        have hn : Store.find (128 * e.2.line + i) (m.filter fun c => !inn (c.1 / 128)) = none := by
          rw [Store.find_filter fun a => !inn (a / 128)]
          simp [hdiv, hin]
        simp [Store.get, hn]
      rw [this]
      simp [hz, hin, lineByte]
    | false =>
      have : Store.get 0#8 (m.filter fun c => !inn (c.1 / 128)) (128 * e.2.line + i) = Store.get 0#8 m (128 * e.2.line + i) := by
        simp only [Store.get]
        rw [Store.find_filter fun a => !inn (a / 128)]
        simp [hdiv, hin]
      rw [this]
      have hze : z e = e := by simp [hz, hin]
      rw [hze] at de ⊢
      exact hf.clean e he' ge de i hi

theorem State.zeroPlain_sound {s : State} (h : Sound s.mem s.l2) (base len : Nat) :
    Sound (s.zeroPlain base len).mem (s.zeroPlain base len).l2 := by
  have hz := h.zero fun l => decide (base / 128 ≤ l ∧ l < (base + len) / 128)
  have hd : ∀ l : Nat, 128 * l / 128 = l := fun l => by omega
  unfold State.zeroPlain
  simp only [hd]
  exact (State.rereads_spec _ hz).1.sound

/-- A scrub keeps the memory sound (R388, R397). -/
theorem State.zeroRange_sound {s : State} (h : Sound s.mem s.l2) (pin : Option Nat) (base len : Nat) :
    Sound (s.zeroRange pin base len).mem (s.zeroRange pin base len).l2 := by
  have hz := State.zeroPlain_sound h base len
  unfold State.zeroRange
  simp only
  generalize s.zeroPlain base len = z at hz ⊢
  split
  · exact hz
  · rename_i hf
    clear hf
    generalize List.range (len / 128) = is
    induction is generalizing z with
    | nil => exact hz
    | cons i r ih => exact ih _ (State.write_spec hz 0 none _).1

/-- The lines a partition owns, written back and invalidated (R402), and a way's, cleaned (R396): no home byte changes. -/
theorem State.purge_keeps (es : List (Nat × L2Line)) {s : State} (h : Sound s.mem s.l2) (hn : es.Pairwise fun a b => a.1 ≠ b.1)
    (hs : ∀ e ∈ es, e ∈ s.l2) :
    KeepsHome s (es.foldl (fun s e => (if e.2.dirty && !e.2.guest then s.writeBack e.2 else s).dropL2 e.1) s) := by
  induction es generalizing s with
  | nil => exact KeepsHome.refl h
  | cons e r ih =>
    obtain ⟨k, x⟩ := e
    obtain ⟨n1, n2⟩ := List.pairwise_cons.mp hn
    have hx := hs (k, x) (List.mem_cons_self ..)
    have he : s.evict k = ((if (x.dirty && !x.guest) = true then (s.writeBack x).meterAdd x.owner 5 128 else s).dropL2 k) := by
      unfold State.evict
      rw [(Store.find_eq_some h.sorted).mpr hx]
    obtain ⟨h1, h2⟩ := State.evict_keeps h k
    have key : KeepsHome s ((if (x.dirty && !x.guest) = true then s.writeBack x else s).dropL2 k) ∧
        ((if (x.dirty && !x.guest) = true then s.writeBack x else s).dropL2 k).l2 = (s.evict k).l2 := by
      rw [he] at h1 ⊢
      have hl : ((if (x.dirty && !x.guest) = true then s.writeBack x else s).dropL2 k).l2 =
          ((if (x.dirty && !x.guest) = true then (s.writeBack x).meterAdd x.owner 5 128 else s).dropL2 k).l2 := by
        split <;> simp [State.dropL2]
      have hm : ((if (x.dirty && !x.guest) = true then s.writeBack x else s).dropL2 k).mem =
          ((if (x.dirty && !x.guest) = true then (s.writeBack x).meterAdd x.owner 5 128 else s).dropL2 k).mem := by
        split <;> simp [State.dropL2]
      exact ⟨h1.trans (KeepsHome.of_eq h1.sound hl hm), hl⟩
    rw [List.foldl_cons]
    refine key.1.trans (ih key.1.sound n2 fun f hf => ?_)
    rw [key.2]
    exact (h2 f).mpr ⟨hs f (List.mem_cons_of_mem _ hf), (n1 f hf).symm⟩

theorem State.cleans_keeps (es : List (Nat × L2Line)) {s : State} (h : Sound s.mem s.l2) (hn : es.Pairwise fun a b => a.1 ≠ b.1)
    (hs : ∀ e ∈ es, e ∈ s.l2 ∧ e.2.guest = false) :
    KeepsHome s (es.foldl (fun s e => ((s.writeBack e.2).putL2 e.1 { e.2 with dirty := false }).meterAdd e.2.owner 5 128) s) := by
  induction es generalizing s with
  | nil => exact KeepsHome.refl h
  | cons e r ih =>
    obtain ⟨k, x⟩ := e
    obtain ⟨n1, n2⟩ := List.pairwise_cons.mp hn
    obtain ⟨hx, gx⟩ := hs (k, x) (List.mem_cons_self ..)
    have h1 := State.clean_keeps h hx gx
    have h2 : KeepsHome s (((s.writeBack x).putL2 k { x with dirty := false }).meterAdd x.owner 5 128) :=
      h1.trans (KeepsHome.of_eq h1.sound (State.meterAdd_l2 ..) (State.meterAdd_mem ..))
    rw [List.foldl_cons]
    refine h2.trans (ih h2.sound n2 fun f hf => ?_)
    obtain ⟨h3, h4⟩ := hs f (List.mem_cons_of_mem _ hf)
    refine ⟨?_, h4⟩
    rw [State.meterAdd_l2, State.putL2_l2, State.writeBack_l2]
    exact (Store.mem_put h.sorted f).mpr (.inr ⟨h3, (n1 f hf).symm⟩)

theorem State.purgeLines_keeps {s : State} (h : Sound s.mem s.l2) (part : Nat) : KeepsHome s (s.purgeLines part) := by
  refine State.purge_keeps _ h ((h.sorted.filter _).imp fun hab => ?_) fun e he => (List.mem_filter.mp he).1
  omega

theorem State.cleanWay_keeps {s : State} (h : Sound s.mem s.l2) (slice way : Nat) : KeepsHome s (s.cleanWay slice way) := by
  refine State.cleans_keeps _ h ((h.sorted.filter _).imp fun hab => ?_) fun e he => ?_
  · omega
  · have := List.mem_filter.mp he
    simp at this
    exact ⟨this.1, this.2.2⟩

/-! ### At reset -/

/-- HBM4 lists nothing at reset, and the canonical form holds. -/
theorem reset_sound : Sound State.reset.mem State.reset.l2 := by
  refine ⟨rfl, List.Pairwise.nil, ?_, ?_⟩ <;> intro e he <;> simp [State.reset] at he

end Sys2Proof.Machine
end

