-- ==== Sys2Proof/Laws/PerInstr.lean ====
section
/-! SUPPORT. The round trip of every instruction (R27-R41): decoding what the encoder wrote gives the instruction back,
whatever words follow it. One lemma per constructor, put together from Laws/Encode.lean. -/

set_option linter.unusedSimpArgs false

namespace Sys2Proof.Laws.RoundTrip

open Sys2Proof

/-- A well-formed instruction's words decode to it, and the decoder takes exactly those words. -/
def Statement (i : Instr) : Prop :=
  i.wf = true → ∀ rest : List Word, decodeWords (encode i ++ rest) = some (i, rest)

theorem br (sw o) : Statement (.br sw o) := by
  intro h rest
  refine decodeWords_one ?_
  rw [decode, show fld _ 24 7 = 1#7 by simp (disch := decide) only [fld, flag, field_above, field_inside, Nat.reduceSub, BitVec.extractLsb'_eq_self]]
  show decode01 _ _ = _
  simp (disch := decide) only [decode01, fld, flag, field_above, field_inside, Nat.reduceSub, BitVec.extractLsb'_eq_self]
  simp

theorem brS1 (sw o) : Statement (.brS1 sw o) := by
  intro h rest
  refine decodeWords_one ?_
  rw [decode, show fld _ 24 7 = 1#7 by simp (disch := decide) only [fld, flag, field_above, field_inside, Nat.reduceSub, BitVec.extractLsb'_eq_self]]
  show decode01 _ _ = _
  simp (disch := decide) only [decode01, fld, flag, field_above, field_inside, Nat.reduceSub, BitVec.extractLsb'_eq_self]
  simp

theorem brS0 (sw o) : Statement (.brS0 sw o) := by
  intro h rest
  refine decodeWords_one ?_
  rw [decode, show fld _ 24 7 = 1#7 by simp (disch := decide) only [fld, flag, field_above, field_inside, Nat.reduceSub, BitVec.extractLsb'_eq_self]]
  show decode01 _ _ = _
  simp (disch := decide) only [decode01, fld, flag, field_above, field_inside, Nat.reduceSub, BitVec.extractLsb'_eq_self]
  simp

theorem brEz (sw o) : Statement (.brEz sw o) := by
  intro h rest
  refine decodeWords_one ?_
  rw [decode, show fld _ 24 7 = 1#7 by simp (disch := decide) only [fld, flag, field_above, field_inside, Nat.reduceSub, BitVec.extractLsb'_eq_self]]
  show decode01 _ _ = _
  simp (disch := decide) only [decode01, fld, flag, field_above, field_inside, Nat.reduceSub, BitVec.extractLsb'_eq_self]
  simp

theorem call (sw o) : Statement (.call sw o) := by
  intro h rest
  refine decodeWords_one ?_
  rw [decode, show fld _ 24 7 = 2#7 by simp (disch := decide) only [fld, flag, field_above, field_inside, Nat.reduceSub, BitVec.extractLsb'_eq_self]]
  show decode02 _ _ = _
  simp (disch := decide) only [decode02, fld, flag, field_above, field_inside, Nat.reduceSub, BitVec.extractLsb'_eq_self]
  simp

theorem jmp (sw a) : Statement (.jmp sw a) := by
  intro h rest
  refine decodeWords_src ?_
  rw [decode, show fld _ 24 7 = 3#7 by simp (disch := decide) only [fld, flag, field_above, field_inside, Nat.reduceSub, BitVec.extractLsb'_eq_self]]
  show decode03 _ _ = _
  simp (disch := decide) only [decode03, fld, flag, field_above, field_inside, Nat.reduceSub, BitVec.extractLsb'_eq_self]
  have ha : a.wf = true := h
  simp [withSrc_code a ha rest]

theorem jmpl (sw a) : Statement (.jmpl sw a) := by
  intro h rest
  refine decodeWords_src ?_
  rw [decode, show fld _ 24 7 = 3#7 by simp (disch := decide) only [fld, flag, field_above, field_inside, Nat.reduceSub, BitVec.extractLsb'_eq_self]]
  show decode03 _ _ = _
  simp (disch := decide) only [decode03, fld, flag, field_above, field_inside, Nat.reduceSub, BitVec.extractLsb'_eq_self]
  have ha : a.wf = true := h
  simp [withSrc_code a ha rest]

theorem ret (sw) : Statement (.ret sw) := by
  intro h rest
  refine decodeWords_one ?_
  rw [decode, show fld _ 24 7 = 3#7 by simp (disch := decide) only [fld, flag, field_above, field_inside, Nat.reduceSub, BitVec.extractLsb'_eq_self]]
  show decode03 _ _ = _
  simp (disch := decide) only [decode03, fld, flag, field_above, field_inside, Nat.reduceSub, BitVec.extractLsb'_eq_self]
  simp

theorem mpush (sw m) : Statement (.mpush sw m) := by
  intro h rest
  refine decodeWords_one ?_
  rw [decode, show fld _ 24 7 = 4#7 by simp (disch := decide) only [fld, flag, field_above, field_inside, Nat.reduceSub, BitVec.extractLsb'_eq_self]]
  show decode04 _ _ = _
  simp (disch := decide) only [decode04, fld, flag, field_above, field_inside, Nat.reduceSub, BitVec.extractLsb'_eq_self]
  simp

theorem mpop (sw) : Statement (.mpop sw) := by
  intro h rest
  refine decodeWords_one ?_
  rw [decode, show fld _ 24 7 = 4#7 by simp (disch := decide) only [fld, flag, field_above, field_inside, Nat.reduceSub, BitVec.extractLsb'_eq_self]]
  show decode04 _ _ = _
  simp (disch := decide) only [decode04, fld, flag, field_above, field_inside, Nat.reduceSub, BitVec.extractLsb'_eq_self]
  simp

theorem melse (sw) : Statement (.melse sw) := by
  intro h rest
  refine decodeWords_one ?_
  rw [decode, show fld _ 24 7 = 4#7 by simp (disch := decide) only [fld, flag, field_above, field_inside, Nat.reduceSub, BitVec.extractLsb'_eq_self]]
  show decode04 _ _ = _
  simp (disch := decide) only [decode04, fld, flag, field_above, field_inside, Nat.reduceSub, BitVec.extractLsb'_eq_self]
  simp

theorem mdepth (sw d) : Statement (.mdepth sw d) := by
  intro h rest
  refine decodeWords_one ?_
  rw [decode, show fld _ 24 7 = 4#7 by simp (disch := decide) only [fld, flag, field_above, field_inside, Nat.reduceSub, BitVec.extractLsb'_eq_self]]
  show decode04 _ _ = _
  have hf : fld ((bit sw) ++ 4#7 ++ 3#2 ++ d ++ 0#16) 22 2 = 3#2 := by
    simp (disch := decide) only [fld, flag, field_above, field_inside, Nat.reduceSub, BitVec.extractLsb'_eq_self]
  rw [decode04, fld_beq_false (lo := 16) (k := 6) (c := 0#8) hf (by decide) (by decide), fld_beq_false (lo := 0) (k := 22) (c := 4194304#24) hf (by decide) (by decide), fld_beq_false (lo := 0) (k := 22) (c := 8388608#24) hf (by decide) (by decide)]
  simp (disch := decide) only [fld, flag, field_above, field_inside, Nat.reduceSub, BitVec.extractLsb'_eq_self]
  simp

theorem mand (sw m) : Statement (.mand sw m) := by
  intro h rest
  refine decodeWords_one ?_
  rw [decode, show fld _ 24 7 = 5#7 by simp (disch := decide) only [fld, flag, field_above, field_inside, Nat.reduceSub, BitVec.extractLsb'_eq_self]]
  show decode05 _ _ = _
  simp (disch := decide) only [decode05, fld, flag, field_above, field_inside, Nat.reduceSub, BitVec.extractLsb'_eq_self]
  simp

theorem mload (sw m) : Statement (.mload sw m) := by
  intro h rest
  refine decodeWords_one ?_
  rw [decode, show fld _ 24 7 = 5#7 by simp (disch := decide) only [fld, flag, field_above, field_inside, Nat.reduceSub, BitVec.extractLsb'_eq_self]]
  show decode05 _ _ = _
  simp (disch := decide) only [decode05, fld, flag, field_above, field_inside, Nat.reduceSub, BitVec.extractLsb'_eq_self]
  simp

theorem msave (sw m) : Statement (.msave sw m) := by
  intro h rest
  refine decodeWords_one ?_
  rw [decode, show fld _ 24 7 = 5#7 by simp (disch := decide) only [fld, flag, field_above, field_inside, Nat.reduceSub, BitVec.extractLsb'_eq_self]]
  show decode05 _ _ = _
  simp (disch := decide) only [decode05, fld, flag, field_above, field_inside, Nat.reduceSub, BitVec.extractLsb'_eq_self]
  simp

theorem mandn (sw m) : Statement (.mandn sw m) := by
  intro h rest
  refine decodeWords_one ?_
  rw [decode, show fld _ 24 7 = 5#7 by simp (disch := decide) only [fld, flag, field_above, field_inside, Nat.reduceSub, BitVec.extractLsb'_eq_self]]
  show decode05 _ _ = _
  simp (disch := decide) only [decode05, fld, flag, field_above, field_inside, Nat.reduceSub, BitVec.extractLsb'_eq_self]
  simp

theorem mrd (sw d m p) : Statement (.mrd sw d m p) := by
  intro h rest
  refine decodeWords_one ?_
  rw [decode, show fld _ 24 7 = 6#7 by simp (disch := decide) only [fld, flag, field_above, field_inside, Nat.reduceSub, BitVec.extractLsb'_eq_self]]
  show decode06 _ _ = _
  simp (disch := decide) only [decode06, fld, flag, field_above, field_inside, Nat.reduceSub, BitVec.extractLsb'_eq_self]
  simp

theorem mwr (sw d m p) : Statement (.mwr sw d m p) := by
  intro h rest
  refine decodeWords_one ?_
  rw [decode, show fld _ 24 7 = 6#7 by simp (disch := decide) only [fld, flag, field_above, field_inside, Nat.reduceSub, BitVec.extractLsb'_eq_self]]
  show decode06 _ _ = _
  simp (disch := decide) only [decode06, fld, flag, field_above, field_inside, Nat.reduceSub, BitVec.extractLsb'_eq_self]
  simp

theorem mpopc (sw d m) : Statement (.mpopc sw d m) := by
  intro h rest
  refine decodeWords_one ?_
  rw [decode, show fld _ 24 7 = 6#7 by simp (disch := decide) only [fld, flag, field_above, field_inside, Nat.reduceSub, BitVec.extractLsb'_eq_self]]
  show decode06 _ _ = _
  simp (disch := decide) only [decode06, fld, flag, field_above, field_inside, Nat.reduceSub, BitVec.extractLsb'_eq_self]
  simp

theorem mffs (sw d m) : Statement (.mffs sw d m) := by
  intro h rest
  refine decodeWords_one ?_
  rw [decode, show fld _ 24 7 = 6#7 by simp (disch := decide) only [fld, flag, field_above, field_inside, Nat.reduceSub, BitVec.extractLsb'_eq_self]]
  show decode06 _ _ = _
  simp (disch := decide) only [decode06, fld, flag, field_above, field_inside, Nat.reduceSub, BitVec.extractLsb'_eq_self]
  simp

theorem lpack (sw) : Statement (.lpack sw) := by
  intro h rest
  refine decodeWords_one ?_
  rw [decode, show fld _ 24 7 = 7#7 by simp (disch := decide) only [fld, flag, field_above, field_inside, Nat.reduceSub, BitVec.extractLsb'_eq_self]]
  show decode07 _ _ = _
  simp (disch := decide) only [decode07, fld, flag, field_above, field_inside, Nat.reduceSub, BitVec.extractLsb'_eq_self]
  simp

theorem lunpack (sw) : Statement (.lunpack sw) := by
  intro h rest
  refine decodeWords_one ?_
  rw [decode, show fld _ 24 7 = 7#7 by simp (disch := decide) only [fld, flag, field_above, field_inside, Nat.reduceSub, BitVec.extractLsb'_eq_self]]
  show decode07 _ _ = _
  simp (disch := decide) only [decode07, fld, flag, field_above, field_inside, Nat.reduceSub, BitVec.extractLsb'_eq_self]
  simp

theorem lperm (sw d) : Statement (.lperm sw d) := by
  intro h rest
  refine decodeWords_one ?_
  rw [decode, show fld _ 24 7 = 7#7 by simp (disch := decide) only [fld, flag, field_above, field_inside, Nat.reduceSub, BitVec.extractLsb'_eq_self]]
  show decode07 _ _ = _
  have hf : fld ((bit sw) ++ 7#7 ++ 2#2 ++ d ++ 0#15) 22 2 = 2#2 := by
    simp (disch := decide) only [fld, flag, field_above, field_inside, Nat.reduceSub, BitVec.extractLsb'_eq_self]
  rw [decode07, fld_beq_false (lo := 0) (k := 22) (c := 0#24) hf (by decide) (by decide), fld_beq_false (lo := 0) (k := 22) (c := 4194304#24) hf (by decide) (by decide)]
  simp (disch := decide) only [fld, flag, field_above, field_inside, Nat.reduceSub, BitVec.extractLsb'_eq_self]
  simp

theorem barSync (sw b n) : Statement (.barSync sw b n) := by
  intro h rest
  refine decodeWords_one ?_
  rw [decode, show fld _ 24 7 = 8#7 by simp (disch := decide) only [fld, flag, field_above, field_inside, Nat.reduceSub, BitVec.extractLsb'_eq_self]]
  show decode08 _ _ = _
  simp (disch := decide) only [decode08, fld, flag, field_above, field_inside, Nat.reduceSub, BitVec.extractLsb'_eq_self]
  simp

theorem barArv (sw b n) : Statement (.barArv sw b n) := by
  intro h rest
  refine decodeWords_one ?_
  rw [decode, show fld _ 24 7 = 8#7 by simp (disch := decide) only [fld, flag, field_above, field_inside, Nat.reduceSub, BitVec.extractLsb'_eq_self]]
  show decode08 _ _ = _
  simp (disch := decide) only [decode08, fld, flag, field_above, field_inside, Nat.reduceSub, BitVec.extractLsb'_eq_self]
  simp

theorem barWt (sw b) : Statement (.barWt sw b) := by
  intro h rest
  refine decodeWords_one ?_
  rw [decode, show fld _ 24 7 = 8#7 by simp (disch := decide) only [fld, flag, field_above, field_inside, Nat.reduceSub, BitVec.extractLsb'_eq_self]]
  show decode08 _ _ = _
  simp (disch := decide) only [decode08, fld, flag, field_above, field_inside, Nat.reduceSub, BitVec.extractLsb'_eq_self]
  simp

theorem exit (sw) : Statement (.exit sw) := by
  intro h rest
  refine decodeWords_one ?_
  rw [decode, show fld _ 24 7 = 9#7 by simp (disch := decide) only [fld, flag, field_above, field_inside, Nat.reduceSub, BitVec.extractLsb'_eq_self]]
  show decode09 _ _ = _
  simp (disch := decide) only [decode09, fld, flag, field_above, field_inside, Nat.reduceSub, BitVec.extractLsb'_eq_self]
  simp

theorem exitD (sw) : Statement (.exitD sw) := by
  intro h rest
  refine decodeWords_one ?_
  rw [decode, show fld _ 24 7 = 9#7 by simp (disch := decide) only [fld, flag, field_above, field_inside, Nat.reduceSub, BitVec.extractLsb'_eq_self]]
  show decode09 _ _ = _
  simp (disch := decide) only [decode09, fld, flag, field_above, field_inside, Nat.reduceSub, BitVec.extractLsb'_eq_self]
  simp

theorem nop (sw) : Statement (.nop sw) := by
  intro h rest
  refine decodeWords_one ?_
  rw [decode, show fld _ 24 7 = 10#7 by simp (disch := decide) only [fld, flag, field_above, field_inside, Nat.reduceSub, BitVec.extractLsb'_eq_self]]
  show decode0A _ _ = _
  simp (disch := decide) only [decode0A, fld, flag, field_above, field_inside, Nat.reduceSub, BitVec.extractLsb'_eq_self]
  simp

theorem yield (sw) : Statement (.yield sw) := by
  intro h rest
  refine decodeWords_one ?_
  rw [decode, show fld _ 24 7 = 10#7 by simp (disch := decide) only [fld, flag, field_above, field_inside, Nat.reduceSub, BitVec.extractLsb'_eq_self]]
  show decode0A _ _ = _
  simp (disch := decide) only [decode0A, fld, flag, field_above, field_inside, Nat.reduceSub, BitVec.extractLsb'_eq_self]
  simp

theorem sleep (sw i) : Statement (.sleep sw i) := by
  intro h rest
  refine decodeWords_one ?_
  rw [decode, show fld _ 24 7 = 10#7 by simp (disch := decide) only [fld, flag, field_above, field_inside, Nat.reduceSub, BitVec.extractLsb'_eq_self]]
  show decode0A _ _ = _
  have hf : fld ((bit sw) ++ 10#7 ++ 128#8 ++ i) 22 2 = 2#2 := by
    simp (disch := decide) only [fld, flag, field_above, field_inside, Nat.reduceSub, BitVec.extractLsb'_eq_self, BitVec.reduceExtractLsb']
  rw [decode0A, fld_beq_false (lo := 0) (k := 22) (c := 0#24) hf (by decide) (by decide), fld_beq_false (lo := 0) (k := 22) (c := 4194304#24) hf (by decide) (by decide)]
  simp (disch := decide) only [fld, flag, field_above, field_inside, Nat.reduceSub, BitVec.extractLsb'_eq_self]
  simp

theorem sadd (sw d b a) : Statement (.sadd sw d b a) := by
  intro h rest
  refine decodeWords_src ?_
  rw [decode, show fld _ 24 7 = 11#7 by simp (disch := decide) only [fld, flag, field_above, field_inside, Nat.reduceSub, BitVec.extractLsb'_eq_self]]
  show decode0B _ _ = _
  simp (disch := decide) only [decode0B, fld, flag, field_above, field_inside, Nat.reduceSub, BitVec.extractLsb'_eq_self]
  have ha : a.wf = true := h
  simp [withSrc_code a ha rest]

theorem ssub (sw d b a) : Statement (.ssub sw d b a) := by
  intro h rest
  refine decodeWords_src ?_
  rw [decode, show fld _ 24 7 = 11#7 by simp (disch := decide) only [fld, flag, field_above, field_inside, Nat.reduceSub, BitVec.extractLsb'_eq_self]]
  show decode0B _ _ = _
  simp (disch := decide) only [decode0B, fld, flag, field_above, field_inside, Nat.reduceSub, BitVec.extractLsb'_eq_self]
  have ha : a.wf = true := h
  simp [withSrc_code a ha rest]

theorem smul (sw d b a) : Statement (.smul sw d b a) := by
  intro h rest
  refine decodeWords_src ?_
  rw [decode, show fld _ 24 7 = 11#7 by simp (disch := decide) only [fld, flag, field_above, field_inside, Nat.reduceSub, BitVec.extractLsb'_eq_self]]
  show decode0B _ _ = _
  simp (disch := decide) only [decode0B, fld, flag, field_above, field_inside, Nat.reduceSub, BitVec.extractLsb'_eq_self]
  have ha : a.wf = true := h
  simp [withSrc_code a ha rest]

theorem smulh (sw d b a) : Statement (.smulh sw d b a) := by
  intro h rest
  refine decodeWords_src ?_
  rw [decode, show fld _ 24 7 = 11#7 by simp (disch := decide) only [fld, flag, field_above, field_inside, Nat.reduceSub, BitVec.extractLsb'_eq_self]]
  show decode0B _ _ = _
  simp (disch := decide) only [decode0B, fld, flag, field_above, field_inside, Nat.reduceSub, BitVec.extractLsb'_eq_self]
  have ha : a.wf = true := h
  simp [withSrc_code a ha rest]

theorem saddi (sw d i) : Statement (.saddi sw d i) := by
  intro h rest
  refine decodeWords_one ?_
  rw [decode, show fld _ 24 7 = 12#7 by simp (disch := decide) only [fld, flag, field_above, field_inside, Nat.reduceSub, BitVec.extractLsb'_eq_self]]
  show decode0C _ _ = _
  simp (disch := decide) only [decode0C, fld, flag, field_above, field_inside, Nat.reduceSub, BitVec.extractLsb'_eq_self]
  simp

theorem smovi (sw d i) : Statement (.smovi sw d i) := by
  intro h rest
  refine decodeWords_one ?_
  rw [decode, show fld _ 24 7 = 12#7 by simp (disch := decide) only [fld, flag, field_above, field_inside, Nat.reduceSub, BitVec.extractLsb'_eq_self]]
  show decode0C _ _ = _
  simp (disch := decide) only [decode0C, fld, flag, field_above, field_inside, Nat.reduceSub, BitVec.extractLsb'_eq_self]
  simp

theorem slui (sw d i) : Statement (.slui sw d i) := by
  intro h rest
  refine decodeWords_one ?_
  rw [decode, show fld _ 24 7 = 12#7 by simp (disch := decide) only [fld, flag, field_above, field_inside, Nat.reduceSub, BitVec.extractLsb'_eq_self]]
  show decode0C _ _ = _
  simp (disch := decide) only [decode0C, fld, flag, field_above, field_inside, Nat.reduceSub, BitVec.extractLsb'_eq_self]
  simp

theorem sori (sw d i) : Statement (.sori sw d i) := by
  intro h rest
  refine decodeWords_one ?_
  rw [decode, show fld _ 24 7 = 12#7 by simp (disch := decide) only [fld, flag, field_above, field_inside, Nat.reduceSub, BitVec.extractLsb'_eq_self]]
  show decode0C _ _ = _
  simp (disch := decide) only [decode0C, fld, flag, field_above, field_inside, Nat.reduceSub, BitVec.extractLsb'_eq_self]
  simp

theorem sand (sw d b a) : Statement (.sand sw d b a) := by
  intro h rest
  refine decodeWords_src ?_
  rw [decode, show fld _ 24 7 = 13#7 by simp (disch := decide) only [fld, flag, field_above, field_inside, Nat.reduceSub, BitVec.extractLsb'_eq_self]]
  show decode0D _ _ = _
  simp (disch := decide) only [decode0D, fld, flag, field_above, field_inside, Nat.reduceSub, BitVec.extractLsb'_eq_self]
  have ha : a.wf = true := h
  simp [withSrc_code a ha rest]

theorem sor (sw d b a) : Statement (.sor sw d b a) := by
  intro h rest
  refine decodeWords_src ?_
  rw [decode, show fld _ 24 7 = 13#7 by simp (disch := decide) only [fld, flag, field_above, field_inside, Nat.reduceSub, BitVec.extractLsb'_eq_self]]
  show decode0D _ _ = _
  simp (disch := decide) only [decode0D, fld, flag, field_above, field_inside, Nat.reduceSub, BitVec.extractLsb'_eq_self]
  have ha : a.wf = true := h
  simp [withSrc_code a ha rest]

theorem sxor (sw d b a) : Statement (.sxor sw d b a) := by
  intro h rest
  refine decodeWords_src ?_
  rw [decode, show fld _ 24 7 = 13#7 by simp (disch := decide) only [fld, flag, field_above, field_inside, Nat.reduceSub, BitVec.extractLsb'_eq_self]]
  show decode0D _ _ = _
  simp (disch := decide) only [decode0D, fld, flag, field_above, field_inside, Nat.reduceSub, BitVec.extractLsb'_eq_self]
  have ha : a.wf = true := h
  simp [withSrc_code a ha rest]

theorem sandn (sw d b a) : Statement (.sandn sw d b a) := by
  intro h rest
  refine decodeWords_src ?_
  rw [decode, show fld _ 24 7 = 13#7 by simp (disch := decide) only [fld, flag, field_above, field_inside, Nat.reduceSub, BitVec.extractLsb'_eq_self]]
  show decode0D _ _ = _
  simp (disch := decide) only [decode0D, fld, flag, field_above, field_inside, Nat.reduceSub, BitVec.extractLsb'_eq_self]
  have ha : a.wf = true := h
  simp [withSrc_code a ha rest]

theorem sshl (sw d b a) : Statement (.sshl sw d b a) := by
  intro h rest
  refine decodeWords_src ?_
  rw [decode, show fld _ 24 7 = 14#7 by simp (disch := decide) only [fld, flag, field_above, field_inside, Nat.reduceSub, BitVec.extractLsb'_eq_self]]
  show decode0E _ _ = _
  simp (disch := decide) only [decode0E, fld, flag, field_above, field_inside, Nat.reduceSub, BitVec.extractLsb'_eq_self]
  have ha : a.wf = true := h
  simp [withSrc_code a ha rest]

theorem sshr (sw d b a) : Statement (.sshr sw d b a) := by
  intro h rest
  refine decodeWords_src ?_
  rw [decode, show fld _ 24 7 = 14#7 by simp (disch := decide) only [fld, flag, field_above, field_inside, Nat.reduceSub, BitVec.extractLsb'_eq_self]]
  show decode0E _ _ = _
  simp (disch := decide) only [decode0E, fld, flag, field_above, field_inside, Nat.reduceSub, BitVec.extractLsb'_eq_self]
  have ha : a.wf = true := h
  simp [withSrc_code a ha rest]

theorem ssar (sw d b a) : Statement (.ssar sw d b a) := by
  intro h rest
  refine decodeWords_src ?_
  rw [decode, show fld _ 24 7 = 14#7 by simp (disch := decide) only [fld, flag, field_above, field_inside, Nat.reduceSub, BitVec.extractLsb'_eq_self]]
  show decode0E _ _ = _
  simp (disch := decide) only [decode0E, fld, flag, field_above, field_inside, Nat.reduceSub, BitVec.extractLsb'_eq_self]
  have ha : a.wf = true := h
  simp [withSrc_code a ha rest]

theorem srot (sw d b a) : Statement (.srot sw d b a) := by
  intro h rest
  refine decodeWords_src ?_
  rw [decode, show fld _ 24 7 = 14#7 by simp (disch := decide) only [fld, flag, field_above, field_inside, Nat.reduceSub, BitVec.extractLsb'_eq_self]]
  show decode0E _ _ = _
  simp (disch := decide) only [decode0E, fld, flag, field_above, field_inside, Nat.reduceSub, BitVec.extractLsb'_eq_self]
  have ha : a.wf = true := h
  simp [withSrc_code a ha rest]

theorem scmpeq (sw b a) : Statement (.scmpeq sw b a) := by
  intro h rest
  refine decodeWords_src ?_
  rw [decode, show fld _ 24 7 = 15#7 by simp (disch := decide) only [fld, flag, field_above, field_inside, Nat.reduceSub, BitVec.extractLsb'_eq_self]]
  show decode0F _ _ = _
  simp (disch := decide) only [decode0F, fld, flag, field_above, field_inside, Nat.reduceSub, BitVec.extractLsb'_eq_self]
  have ha : a.wf = true := h
  simp [withSrc_code a ha rest]

theorem scmplt (sw b a) : Statement (.scmplt sw b a) := by
  intro h rest
  refine decodeWords_src ?_
  rw [decode, show fld _ 24 7 = 15#7 by simp (disch := decide) only [fld, flag, field_above, field_inside, Nat.reduceSub, BitVec.extractLsb'_eq_self]]
  show decode0F _ _ = _
  simp (disch := decide) only [decode0F, fld, flag, field_above, field_inside, Nat.reduceSub, BitVec.extractLsb'_eq_self]
  have ha : a.wf = true := h
  simp [withSrc_code a ha rest]

theorem scmpltn (sw b a) : Statement (.scmpltn sw b a) := by
  intro h rest
  refine decodeWords_src ?_
  rw [decode, show fld _ 24 7 = 15#7 by simp (disch := decide) only [fld, flag, field_above, field_inside, Nat.reduceSub, BitVec.extractLsb'_eq_self]]
  show decode0F _ _ = _
  simp (disch := decide) only [decode0F, fld, flag, field_above, field_inside, Nat.reduceSub, BitVec.extractLsb'_eq_self]
  have ha : a.wf = true := h
  simp [withSrc_code a ha rest]

theorem scmple (sw b a) : Statement (.scmple sw b a) := by
  intro h rest
  refine decodeWords_src ?_
  rw [decode, show fld _ 24 7 = 15#7 by simp (disch := decide) only [fld, flag, field_above, field_inside, Nat.reduceSub, BitVec.extractLsb'_eq_self]]
  show decode0F _ _ = _
  simp (disch := decide) only [decode0F, fld, flag, field_above, field_inside, Nat.reduceSub, BitVec.extractLsb'_eq_self]
  have ha : a.wf = true := h
  simp [withSrc_code a ha rest]

theorem ssel (sw d b a) : Statement (.ssel sw d b a) := by
  intro h rest
  refine decodeWords_src ?_
  rw [decode, show fld _ 24 7 = 16#7 by simp (disch := decide) only [fld, flag, field_above, field_inside, Nat.reduceSub, BitVec.extractLsb'_eq_self]]
  show decode10 _ _ = _
  simp (disch := decide) only [decode10, fld, flag, field_above, field_inside, Nat.reduceSub, BitVec.extractLsb'_eq_self]
  have ha : a.wf = true := h
  simp [withSrc_code a ha rest]

theorem smin (sw d b a) : Statement (.smin sw d b a) := by
  intro h rest
  refine decodeWords_src ?_
  rw [decode, show fld _ 24 7 = 16#7 by simp (disch := decide) only [fld, flag, field_above, field_inside, Nat.reduceSub, BitVec.extractLsb'_eq_self]]
  show decode10 _ _ = _
  simp (disch := decide) only [decode10, fld, flag, field_above, field_inside, Nat.reduceSub, BitVec.extractLsb'_eq_self]
  have ha : a.wf = true := h
  simp [withSrc_code a ha rest]

theorem smax (sw d b a) : Statement (.smax sw d b a) := by
  intro h rest
  refine decodeWords_src ?_
  rw [decode, show fld _ 24 7 = 16#7 by simp (disch := decide) only [fld, flag, field_above, field_inside, Nat.reduceSub, BitVec.extractLsb'_eq_self]]
  show decode10 _ _ = _
  simp (disch := decide) only [decode10, fld, flag, field_above, field_inside, Nat.reduceSub, BitVec.extractLsb'_eq_self]
  have ha : a.wf = true := h
  simp [withSrc_code a ha rest]

theorem sminn (sw d b a) : Statement (.sminn sw d b a) := by
  intro h rest
  refine decodeWords_src ?_
  rw [decode, show fld _ 24 7 = 16#7 by simp (disch := decide) only [fld, flag, field_above, field_inside, Nat.reduceSub, BitVec.extractLsb'_eq_self]]
  show decode10 _ _ = _
  simp (disch := decide) only [decode10, fld, flag, field_above, field_inside, Nat.reduceSub, BitVec.extractLsb'_eq_self]
  have ha : a.wf = true := h
  simp [withSrc_code a ha rest]

theorem spopc (sw d a) : Statement (.spopc sw d a) := by
  intro h rest
  refine decodeWords_src ?_
  rw [decode, show fld _ 24 7 = 17#7 by simp (disch := decide) only [fld, flag, field_above, field_inside, Nat.reduceSub, BitVec.extractLsb'_eq_self]]
  show decode11 _ _ = _
  simp (disch := decide) only [decode11, fld, flag, field_above, field_inside, Nat.reduceSub, BitVec.extractLsb'_eq_self]
  have ha : a.wf = true := h
  simp [withSrc_code a ha rest]

theorem sclz (sw d a) : Statement (.sclz sw d a) := by
  intro h rest
  refine decodeWords_src ?_
  rw [decode, show fld _ 24 7 = 17#7 by simp (disch := decide) only [fld, flag, field_above, field_inside, Nat.reduceSub, BitVec.extractLsb'_eq_self]]
  show decode11 _ _ = _
  simp (disch := decide) only [decode11, fld, flag, field_above, field_inside, Nat.reduceSub, BitVec.extractLsb'_eq_self]
  have ha : a.wf = true := h
  simp [withSrc_code a ha rest]

theorem sctz (sw d a) : Statement (.sctz sw d a) := by
  intro h rest
  refine decodeWords_src ?_
  rw [decode, show fld _ 24 7 = 17#7 by simp (disch := decide) only [fld, flag, field_above, field_inside, Nat.reduceSub, BitVec.extractLsb'_eq_self]]
  show decode11 _ _ = _
  simp (disch := decide) only [decode11, fld, flag, field_above, field_inside, Nat.reduceSub, BitVec.extractLsb'_eq_self]
  have ha : a.wf = true := h
  simp [withSrc_code a ha rest]

theorem sbrev (sw d a) : Statement (.sbrev sw d a) := by
  intro h rest
  refine decodeWords_src ?_
  rw [decode, show fld _ 24 7 = 17#7 by simp (disch := decide) only [fld, flag, field_above, field_inside, Nat.reduceSub, BitVec.extractLsb'_eq_self]]
  show decode11 _ _ = _
  simp (disch := decide) only [decode11, fld, flag, field_above, field_inside, Nat.reduceSub, BitVec.extractLsb'_eq_self]
  have ha : a.wf = true := h
  simp [withSrc_code a ha rest]

theorem sdiv (sw d b a) : Statement (.sdiv sw d b a) := by
  intro h rest
  refine decodeWords_src ?_
  rw [decode, show fld _ 24 7 = 18#7 by simp (disch := decide) only [fld, flag, field_above, field_inside, Nat.reduceSub, BitVec.extractLsb'_eq_self]]
  show decode12 _ _ = _
  simp (disch := decide) only [decode12, fld, flag, field_above, field_inside, Nat.reduceSub, BitVec.extractLsb'_eq_self]
  have ha : a.wf = true := h
  simp [withSrc_code a ha rest]

theorem sdivn (sw d b a) : Statement (.sdivn sw d b a) := by
  intro h rest
  refine decodeWords_src ?_
  rw [decode, show fld _ 24 7 = 18#7 by simp (disch := decide) only [fld, flag, field_above, field_inside, Nat.reduceSub, BitVec.extractLsb'_eq_self]]
  show decode12 _ _ = _
  simp (disch := decide) only [decode12, fld, flag, field_above, field_inside, Nat.reduceSub, BitVec.extractLsb'_eq_self]
  have ha : a.wf = true := h
  simp [withSrc_code a ha rest]

theorem srem (sw d b a) : Statement (.srem sw d b a) := by
  intro h rest
  refine decodeWords_src ?_
  rw [decode, show fld _ 24 7 = 18#7 by simp (disch := decide) only [fld, flag, field_above, field_inside, Nat.reduceSub, BitVec.extractLsb'_eq_self]]
  show decode12 _ _ = _
  simp (disch := decide) only [decode12, fld, flag, field_above, field_inside, Nat.reduceSub, BitVec.extractLsb'_eq_self]
  have ha : a.wf = true := h
  simp [withSrc_code a ha rest]

theorem sremn (sw d b a) : Statement (.sremn sw d b a) := by
  intro h rest
  refine decodeWords_src ?_
  rw [decode, show fld _ 24 7 = 18#7 by simp (disch := decide) only [fld, flag, field_above, field_inside, Nat.reduceSub, BitVec.extractLsb'_eq_self]]
  show decode12 _ _ = _
  simp (disch := decide) only [decode12, fld, flag, field_above, field_inside, Nat.reduceSub, BitVec.extractLsb'_eq_self]
  have ha : a.wf = true := h
  simp [withSrc_code a ha rest]

theorem sget (sw d i) : Statement (.sget sw d i) := by
  intro h rest
  refine decodeWords_one ?_
  rw [decode, show fld _ 24 7 = 19#7 by simp (disch := decide) only [fld, flag, field_above, field_inside, Nat.reduceSub, BitVec.extractLsb'_eq_self]]
  show decode13 _ _ = _
  simp (disch := decide) only [decode13, fld, flag, field_above, field_inside, Nat.reduceSub, BitVec.extractLsb'_eq_self]
  simp

theorem sset (sw d i) : Statement (.sset sw d i) := by
  intro h rest
  refine decodeWords_one ?_
  rw [decode, show fld _ 24 7 = 19#7 by simp (disch := decide) only [fld, flag, field_above, field_inside, Nat.reduceSub, BitVec.extractLsb'_eq_self]]
  show decode13 _ _ = _
  simp (disch := decide) only [decode13, fld, flag, field_above, field_inside, Nat.reduceSub, BitVec.extractLsb'_eq_self]
  simp

theorem srdln (sw d b a) : Statement (.srdln sw d b a) := by
  intro h rest
  refine decodeWords_src ?_
  rw [decode, show fld _ 24 7 = 20#7 by simp (disch := decide) only [fld, flag, field_above, field_inside, Nat.reduceSub, BitVec.extractLsb'_eq_self]]
  show decode14 _ _ = _
  simp (disch := decide) only [decode14, fld, flag, field_above, field_inside, Nat.reduceSub, BitVec.extractLsb'_eq_self]
  have ha : a.wf = true := h
  simp [withSrc_code a ha rest]

theorem swrln (sw d b a) : Statement (.swrln sw d b a) := by
  intro h rest
  refine decodeWords_src ?_
  rw [decode, show fld _ 24 7 = 20#7 by simp (disch := decide) only [fld, flag, field_above, field_inside, Nat.reduceSub, BitVec.extractLsb'_eq_self]]
  show decode14 _ _ = _
  simp (disch := decide) only [decode14, fld, flag, field_above, field_inside, Nat.reduceSub, BitVec.extractLsb'_eq_self]
  have ha : a.wf = true := h
  simp [withSrc_code a ha rest]

theorem rclock (sw d) : Statement (.rclock sw d) := by
  intro h rest
  refine decodeWords_one ?_
  rw [decode, show fld _ 24 7 = 21#7 by simp (disch := decide) only [fld, flag, field_above, field_inside, Nat.reduceSub, BitVec.extractLsb'_eq_self]]
  show decode15 _ _ = _
  simp (disch := decide) only [decode15, fld, flag, field_above, field_inside, Nat.reduceSub, BitVec.extractLsb'_eq_self]
  simp

theorem rtime (sw d) : Statement (.rtime sw d) := by
  intro h rest
  refine decodeWords_one ?_
  rw [decode, show fld _ 24 7 = 21#7 by simp (disch := decide) only [fld, flag, field_above, field_inside, Nat.reduceSub, BitVec.extractLsb'_eq_self]]
  show decode15 _ _ = _
  simp (disch := decide) only [decode15, fld, flag, field_above, field_inside, Nat.reduceSub, BitVec.extractLsb'_eq_self]
  simp

theorem timer (sw a) : Statement (.timer sw a) := by
  intro h rest
  refine decodeWords_src ?_
  rw [decode, show fld _ 24 7 = 21#7 by simp (disch := decide) only [fld, flag, field_above, field_inside, Nat.reduceSub, BitVec.extractLsb'_eq_self]]
  show decode15 _ _ = _
  simp (disch := decide) only [decode15, fld, flag, field_above, field_inside, Nat.reduceSub, BitVec.extractLsb'_eq_self]
  have ha : a.wf = true := h
  simp [withSrc_code a ha rest]

theorem timera (sw a) : Statement (.timera sw a) := by
  intro h rest
  refine decodeWords_src ?_
  rw [decode, show fld _ 24 7 = 21#7 by simp (disch := decide) only [fld, flag, field_above, field_inside, Nat.reduceSub, BitVec.extractLsb'_eq_self]]
  show decode15 _ _ = _
  simp (disch := decide) only [decode15, fld, flag, field_above, field_inside, Nat.reduceSub, BitVec.extractLsb'_eq_self]
  have ha : a.wf = true := h
  simp [withSrc_code a ha rest]

theorem scmpieq (sw d i) : Statement (.scmpieq sw d i) := by
  intro h rest
  refine decodeWords_one ?_
  rw [decode, show fld _ 24 7 = 22#7 by simp (disch := decide) only [fld, flag, field_above, field_inside, Nat.reduceSub, BitVec.extractLsb'_eq_self]]
  show decode16 _ _ = _
  simp (disch := decide) only [decode16, fld, flag, field_above, field_inside, Nat.reduceSub, BitVec.extractLsb'_eq_self]
  simp

theorem scmpilt (sw d i) : Statement (.scmpilt sw d i) := by
  intro h rest
  refine decodeWords_one ?_
  rw [decode, show fld _ 24 7 = 22#7 by simp (disch := decide) only [fld, flag, field_above, field_inside, Nat.reduceSub, BitVec.extractLsb'_eq_self]]
  show decode16 _ _ = _
  simp (disch := decide) only [decode16, fld, flag, field_above, field_inside, Nat.reduceSub, BitVec.extractLsb'_eq_self]
  simp

theorem scmpiltn (sw d i) : Statement (.scmpiltn sw d i) := by
  intro h rest
  refine decodeWords_one ?_
  rw [decode, show fld _ 24 7 = 22#7 by simp (disch := decide) only [fld, flag, field_above, field_inside, Nat.reduceSub, BitVec.extractLsb'_eq_self]]
  show decode16 _ _ = _
  simp (disch := decide) only [decode16, fld, flag, field_above, field_inside, Nat.reduceSub, BitVec.extractLsb'_eq_self]
  simp

theorem viaddI32 (sw d b a) : Statement (.viaddI32 sw d b a) := by
  intro h rest
  refine decodeWords_src ?_
  rw [decode, show fld _ 24 7 = 23#7 by simp (disch := decide) only [fld, flag, field_above, field_inside, Nat.reduceSub, BitVec.extractLsb'_eq_self]]
  show decode17 _ _ = _
  simp (disch := decide) only [decode17, fld, flag, field_above, field_inside, Nat.reduceSub, BitVec.extractLsb'_eq_self]
  have ha : a.wf = true := h
  simp [withSrc_code a ha rest]

theorem viaddI16x2 (sw d b a) : Statement (.viaddI16x2 sw d b a) := by
  intro h rest
  refine decodeWords_src ?_
  rw [decode, show fld _ 24 7 = 23#7 by simp (disch := decide) only [fld, flag, field_above, field_inside, Nat.reduceSub, BitVec.extractLsb'_eq_self]]
  show decode17 _ _ = _
  simp (disch := decide) only [decode17, fld, flag, field_above, field_inside, Nat.reduceSub, BitVec.extractLsb'_eq_self]
  have ha : a.wf = true := h
  simp [withSrc_code a ha rest]

theorem viaddI8x4 (sw d b a) : Statement (.viaddI8x4 sw d b a) := by
  intro h rest
  refine decodeWords_src ?_
  rw [decode, show fld _ 24 7 = 23#7 by simp (disch := decide) only [fld, flag, field_above, field_inside, Nat.reduceSub, BitVec.extractLsb'_eq_self]]
  show decode17 _ _ = _
  simp (disch := decide) only [decode17, fld, flag, field_above, field_inside, Nat.reduceSub, BitVec.extractLsb'_eq_self]
  have ha : a.wf = true := h
  simp [withSrc_code a ha rest]

theorem viaddS32sat (sw d b a) : Statement (.viaddS32sat sw d b a) := by
  intro h rest
  refine decodeWords_src ?_
  rw [decode, show fld _ 24 7 = 23#7 by simp (disch := decide) only [fld, flag, field_above, field_inside, Nat.reduceSub, BitVec.extractLsb'_eq_self]]
  show decode17 _ _ = _
  simp (disch := decide) only [decode17, fld, flag, field_above, field_inside, Nat.reduceSub, BitVec.extractLsb'_eq_self]
  have ha : a.wf = true := h
  simp [withSrc_code a ha rest]

theorem visubI32 (sw d b a) : Statement (.visubI32 sw d b a) := by
  intro h rest
  refine decodeWords_src ?_
  rw [decode, show fld _ 24 7 = 24#7 by simp (disch := decide) only [fld, flag, field_above, field_inside, Nat.reduceSub, BitVec.extractLsb'_eq_self]]
  show decode18 _ _ = _
  simp (disch := decide) only [decode18, fld, flag, field_above, field_inside, Nat.reduceSub, BitVec.extractLsb'_eq_self]
  have ha : a.wf = true := h
  simp [withSrc_code a ha rest]

theorem visubI16x2 (sw d b a) : Statement (.visubI16x2 sw d b a) := by
  intro h rest
  refine decodeWords_src ?_
  rw [decode, show fld _ 24 7 = 24#7 by simp (disch := decide) only [fld, flag, field_above, field_inside, Nat.reduceSub, BitVec.extractLsb'_eq_self]]
  show decode18 _ _ = _
  simp (disch := decide) only [decode18, fld, flag, field_above, field_inside, Nat.reduceSub, BitVec.extractLsb'_eq_self]
  have ha : a.wf = true := h
  simp [withSrc_code a ha rest]

theorem visubI8x4 (sw d b a) : Statement (.visubI8x4 sw d b a) := by
  intro h rest
  refine decodeWords_src ?_
  rw [decode, show fld _ 24 7 = 24#7 by simp (disch := decide) only [fld, flag, field_above, field_inside, Nat.reduceSub, BitVec.extractLsb'_eq_self]]
  show decode18 _ _ = _
  simp (disch := decide) only [decode18, fld, flag, field_above, field_inside, Nat.reduceSub, BitVec.extractLsb'_eq_self]
  have ha : a.wf = true := h
  simp [withSrc_code a ha rest]

theorem visubS32sat (sw d b a) : Statement (.visubS32sat sw d b a) := by
  intro h rest
  refine decodeWords_src ?_
  rw [decode, show fld _ 24 7 = 24#7 by simp (disch := decide) only [fld, flag, field_above, field_inside, Nat.reduceSub, BitVec.extractLsb'_eq_self]]
  show decode18 _ _ = _
  simp (disch := decide) only [decode18, fld, flag, field_above, field_inside, Nat.reduceSub, BitVec.extractLsb'_eq_self]
  have ha : a.wf = true := h
  simp [withSrc_code a ha rest]

theorem vimulLo (sw d b a) : Statement (.vimulLo sw d b a) := by
  intro h rest
  refine decodeWords_src ?_
  rw [decode, show fld _ 24 7 = 25#7 by simp (disch := decide) only [fld, flag, field_above, field_inside, Nat.reduceSub, BitVec.extractLsb'_eq_self]]
  show decode19 _ _ = _
  simp (disch := decide) only [decode19, fld, flag, field_above, field_inside, Nat.reduceSub, BitVec.extractLsb'_eq_self]
  have ha : a.wf = true := h
  simp [withSrc_code a ha rest]

theorem vimulHs (sw d b a) : Statement (.vimulHs sw d b a) := by
  intro h rest
  refine decodeWords_src ?_
  rw [decode, show fld _ 24 7 = 25#7 by simp (disch := decide) only [fld, flag, field_above, field_inside, Nat.reduceSub, BitVec.extractLsb'_eq_self]]
  show decode19 _ _ = _
  simp (disch := decide) only [decode19, fld, flag, field_above, field_inside, Nat.reduceSub, BitVec.extractLsb'_eq_self]
  have ha : a.wf = true := h
  simp [withSrc_code a ha rest]

theorem vimulHn (sw d b a) : Statement (.vimulHn sw d b a) := by
  intro h rest
  refine decodeWords_src ?_
  rw [decode, show fld _ 24 7 = 25#7 by simp (disch := decide) only [fld, flag, field_above, field_inside, Nat.reduceSub, BitVec.extractLsb'_eq_self]]
  show decode19 _ _ = _
  simp (disch := decide) only [decode19, fld, flag, field_above, field_inside, Nat.reduceSub, BitVec.extractLsb'_eq_self]
  have ha : a.wf = true := h
  simp [withSrc_code a ha rest]

theorem vimulI16x2 (sw d b a) : Statement (.vimulI16x2 sw d b a) := by
  intro h rest
  refine decodeWords_src ?_
  rw [decode, show fld _ 24 7 = 25#7 by simp (disch := decide) only [fld, flag, field_above, field_inside, Nat.reduceSub, BitVec.extractLsb'_eq_self]]
  show decode19 _ _ = _
  simp (disch := decide) only [decode19, fld, flag, field_above, field_inside, Nat.reduceSub, BitVec.extractLsb'_eq_self]
  have ha : a.wf = true := h
  simp [withSrc_code a ha rest]

theorem vimadI32 (sw d b a) : Statement (.vimadI32 sw d b a) := by
  intro h rest
  refine decodeWords_src ?_
  rw [decode, show fld _ 24 7 = 26#7 by simp (disch := decide) only [fld, flag, field_above, field_inside, Nat.reduceSub, BitVec.extractLsb'_eq_self]]
  show decode1A _ _ = _
  simp (disch := decide) only [decode1A, fld, flag, field_above, field_inside, Nat.reduceSub, BitVec.extractLsb'_eq_self]
  have ha : a.wf = true := h
  simp [withSrc_code a ha rest]

theorem vimadI16x2 (sw d b a) : Statement (.vimadI16x2 sw d b a) := by
  intro h rest
  refine decodeWords_src ?_
  rw [decode, show fld _ 24 7 = 26#7 by simp (disch := decide) only [fld, flag, field_above, field_inside, Nat.reduceSub, BitVec.extractLsb'_eq_self]]
  show decode1A _ _ = _
  simp (disch := decide) only [decode1A, fld, flag, field_above, field_inside, Nat.reduceSub, BitVec.extractLsb'_eq_self]
  have ha : a.wf = true := h
  simp [withSrc_code a ha rest]

theorem vimadDot4s8 (sw d b a) : Statement (.vimadDot4s8 sw d b a) := by
  intro h rest
  refine decodeWords_src ?_
  rw [decode, show fld _ 24 7 = 26#7 by simp (disch := decide) only [fld, flag, field_above, field_inside, Nat.reduceSub, BitVec.extractLsb'_eq_self]]
  show decode1A _ _ = _
  simp (disch := decide) only [decode1A, fld, flag, field_above, field_inside, Nat.reduceSub, BitVec.extractLsb'_eq_self]
  have ha : a.wf = true := h
  simp [withSrc_code a ha rest]

theorem vimadDot4n8 (sw d b a) : Statement (.vimadDot4n8 sw d b a) := by
  intro h rest
  refine decodeWords_src ?_
  rw [decode, show fld _ 24 7 = 26#7 by simp (disch := decide) only [fld, flag, field_above, field_inside, Nat.reduceSub, BitVec.extractLsb'_eq_self]]
  show decode1A _ _ = _
  simp (disch := decide) only [decode1A, fld, flag, field_above, field_inside, Nat.reduceSub, BitVec.extractLsb'_eq_self]
  have ha : a.wf = true := h
  simp [withSrc_code a ha rest]

theorem vlogAnd (sw d b a) : Statement (.vlogAnd sw d b a) := by
  intro h rest
  refine decodeWords_src ?_
  rw [decode, show fld _ 24 7 = 27#7 by simp (disch := decide) only [fld, flag, field_above, field_inside, Nat.reduceSub, BitVec.extractLsb'_eq_self]]
  show decode1B _ _ = _
  simp (disch := decide) only [decode1B, fld, flag, field_above, field_inside, Nat.reduceSub, BitVec.extractLsb'_eq_self]
  have ha : a.wf = true := h
  simp [withSrc_code a ha rest]

theorem vlogOr (sw d b a) : Statement (.vlogOr sw d b a) := by
  intro h rest
  refine decodeWords_src ?_
  rw [decode, show fld _ 24 7 = 27#7 by simp (disch := decide) only [fld, flag, field_above, field_inside, Nat.reduceSub, BitVec.extractLsb'_eq_self]]
  show decode1B _ _ = _
  simp (disch := decide) only [decode1B, fld, flag, field_above, field_inside, Nat.reduceSub, BitVec.extractLsb'_eq_self]
  have ha : a.wf = true := h
  simp [withSrc_code a ha rest]

theorem vlogXor (sw d b a) : Statement (.vlogXor sw d b a) := by
  intro h rest
  refine decodeWords_src ?_
  rw [decode, show fld _ 24 7 = 27#7 by simp (disch := decide) only [fld, flag, field_above, field_inside, Nat.reduceSub, BitVec.extractLsb'_eq_self]]
  show decode1B _ _ = _
  simp (disch := decide) only [decode1B, fld, flag, field_above, field_inside, Nat.reduceSub, BitVec.extractLsb'_eq_self]
  have ha : a.wf = true := h
  simp [withSrc_code a ha rest]

theorem vlogAndn (sw d b a) : Statement (.vlogAndn sw d b a) := by
  intro h rest
  refine decodeWords_src ?_
  rw [decode, show fld _ 24 7 = 27#7 by simp (disch := decide) only [fld, flag, field_above, field_inside, Nat.reduceSub, BitVec.extractLsb'_eq_self]]
  show decode1B _ _ = _
  simp (disch := decide) only [decode1B, fld, flag, field_above, field_inside, Nat.reduceSub, BitVec.extractLsb'_eq_self]
  have ha : a.wf = true := h
  simp [withSrc_code a ha rest]

theorem vshfShl (sw d b a) : Statement (.vshfShl sw d b a) := by
  intro h rest
  refine decodeWords_src ?_
  rw [decode, show fld _ 24 7 = 28#7 by simp (disch := decide) only [fld, flag, field_above, field_inside, Nat.reduceSub, BitVec.extractLsb'_eq_self]]
  show decode1C _ _ = _
  simp (disch := decide) only [decode1C, fld, flag, field_above, field_inside, Nat.reduceSub, BitVec.extractLsb'_eq_self]
  have ha : a.wf = true := h
  simp [withSrc_code a ha rest]

theorem vshfShr (sw d b a) : Statement (.vshfShr sw d b a) := by
  intro h rest
  refine decodeWords_src ?_
  rw [decode, show fld _ 24 7 = 28#7 by simp (disch := decide) only [fld, flag, field_above, field_inside, Nat.reduceSub, BitVec.extractLsb'_eq_self]]
  show decode1C _ _ = _
  simp (disch := decide) only [decode1C, fld, flag, field_above, field_inside, Nat.reduceSub, BitVec.extractLsb'_eq_self]
  have ha : a.wf = true := h
  simp [withSrc_code a ha rest]

theorem vshfSar (sw d b a) : Statement (.vshfSar sw d b a) := by
  intro h rest
  refine decodeWords_src ?_
  rw [decode, show fld _ 24 7 = 28#7 by simp (disch := decide) only [fld, flag, field_above, field_inside, Nat.reduceSub, BitVec.extractLsb'_eq_self]]
  show decode1C _ _ = _
  simp (disch := decide) only [decode1C, fld, flag, field_above, field_inside, Nat.reduceSub, BitVec.extractLsb'_eq_self]
  have ha : a.wf = true := h
  simp [withSrc_code a ha rest]

theorem vshfRot (sw d b a) : Statement (.vshfRot sw d b a) := by
  intro h rest
  refine decodeWords_src ?_
  rw [decode, show fld _ 24 7 = 28#7 by simp (disch := decide) only [fld, flag, field_above, field_inside, Nat.reduceSub, BitVec.extractLsb'_eq_self]]
  show decode1C _ _ = _
  simp (disch := decide) only [decode1C, fld, flag, field_above, field_inside, Nat.reduceSub, BitVec.extractLsb'_eq_self]
  have ha : a.wf = true := h
  simp [withSrc_code a ha rest]

theorem vshfiShl (sw d b i) : Statement (.vshfiShl sw d b i) := by
  intro h rest
  refine decodeWords_one ?_
  rw [decode, show fld _ 24 7 = 29#7 by simp (disch := decide) only [fld, flag, field_above, field_inside, Nat.reduceSub, BitVec.extractLsb'_eq_self]]
  show decode1D _ _ = _
  simp (disch := decide) only [decode1D, fld, flag, field_above, field_inside, Nat.reduceSub, BitVec.extractLsb'_eq_self]
  simp [Instr.wf] at h
  simp [high_bits_of_lt_32 i (by simpa [BitVec.ult, BitVec.lt_def] using h)]

theorem vshfiShr (sw d b i) : Statement (.vshfiShr sw d b i) := by
  intro h rest
  refine decodeWords_one ?_
  rw [decode, show fld _ 24 7 = 29#7 by simp (disch := decide) only [fld, flag, field_above, field_inside, Nat.reduceSub, BitVec.extractLsb'_eq_self]]
  show decode1D _ _ = _
  simp (disch := decide) only [decode1D, fld, flag, field_above, field_inside, Nat.reduceSub, BitVec.extractLsb'_eq_self]
  simp [Instr.wf] at h
  simp [high_bits_of_lt_32 i (by simpa [BitVec.ult, BitVec.lt_def] using h)]

theorem vshfiSar (sw d b i) : Statement (.vshfiSar sw d b i) := by
  intro h rest
  refine decodeWords_one ?_
  rw [decode, show fld _ 24 7 = 29#7 by simp (disch := decide) only [fld, flag, field_above, field_inside, Nat.reduceSub, BitVec.extractLsb'_eq_self]]
  show decode1D _ _ = _
  simp (disch := decide) only [decode1D, fld, flag, field_above, field_inside, Nat.reduceSub, BitVec.extractLsb'_eq_self]
  simp [Instr.wf] at h
  simp [high_bits_of_lt_32 i (by simpa [BitVec.ult, BitVec.lt_def] using h)]

theorem vshfiRot (sw d b i) : Statement (.vshfiRot sw d b i) := by
  intro h rest
  refine decodeWords_one ?_
  rw [decode, show fld _ 24 7 = 29#7 by simp (disch := decide) only [fld, flag, field_above, field_inside, Nat.reduceSub, BitVec.extractLsb'_eq_self]]
  show decode1D _ _ = _
  simp (disch := decide) only [decode1D, fld, flag, field_above, field_inside, Nat.reduceSub, BitVec.extractLsb'_eq_self]
  simp [Instr.wf] at h
  simp [high_bits_of_lt_32 i (by simpa [BitVec.ult, BitVec.lt_def] using h)]

theorem viminS32min (sw d b a) : Statement (.viminS32min sw d b a) := by
  intro h rest
  refine decodeWords_src ?_
  rw [decode, show fld _ 24 7 = 30#7 by simp (disch := decide) only [fld, flag, field_above, field_inside, Nat.reduceSub, BitVec.extractLsb'_eq_self]]
  show decode1E _ _ = _
  simp (disch := decide) only [decode1E, fld, flag, field_above, field_inside, Nat.reduceSub, BitVec.extractLsb'_eq_self]
  have ha : a.wf = true := h
  simp [withSrc_code a ha rest]

theorem viminN32min (sw d b a) : Statement (.viminN32min sw d b a) := by
  intro h rest
  refine decodeWords_src ?_
  rw [decode, show fld _ 24 7 = 30#7 by simp (disch := decide) only [fld, flag, field_above, field_inside, Nat.reduceSub, BitVec.extractLsb'_eq_self]]
  show decode1E _ _ = _
  simp (disch := decide) only [decode1E, fld, flag, field_above, field_inside, Nat.reduceSub, BitVec.extractLsb'_eq_self]
  have ha : a.wf = true := h
  simp [withSrc_code a ha rest]

theorem viminS32max (sw d b a) : Statement (.viminS32max sw d b a) := by
  intro h rest
  refine decodeWords_src ?_
  rw [decode, show fld _ 24 7 = 30#7 by simp (disch := decide) only [fld, flag, field_above, field_inside, Nat.reduceSub, BitVec.extractLsb'_eq_self]]
  show decode1E _ _ = _
  simp (disch := decide) only [decode1E, fld, flag, field_above, field_inside, Nat.reduceSub, BitVec.extractLsb'_eq_self]
  have ha : a.wf = true := h
  simp [withSrc_code a ha rest]

theorem viminN32max (sw d b a) : Statement (.viminN32max sw d b a) := by
  intro h rest
  refine decodeWords_src ?_
  rw [decode, show fld _ 24 7 = 30#7 by simp (disch := decide) only [fld, flag, field_above, field_inside, Nat.reduceSub, BitVec.extractLsb'_eq_self]]
  show decode1E _ _ = _
  simp (disch := decide) only [decode1E, fld, flag, field_above, field_inside, Nat.reduceSub, BitVec.extractLsb'_eq_self]
  have ha : a.wf = true := h
  simp [withSrc_code a ha rest]

theorem vbitPopc (sw d a) : Statement (.vbitPopc sw d a) := by
  intro h rest
  refine decodeWords_src ?_
  rw [decode, show fld _ 24 7 = 31#7 by simp (disch := decide) only [fld, flag, field_above, field_inside, Nat.reduceSub, BitVec.extractLsb'_eq_self]]
  show decode1F _ _ = _
  simp (disch := decide) only [decode1F, fld, flag, field_above, field_inside, Nat.reduceSub, BitVec.extractLsb'_eq_self]
  have ha : a.wf = true := h
  simp [withSrc_code a ha rest]

theorem vbitClz (sw d a) : Statement (.vbitClz sw d a) := by
  intro h rest
  refine decodeWords_src ?_
  rw [decode, show fld _ 24 7 = 31#7 by simp (disch := decide) only [fld, flag, field_above, field_inside, Nat.reduceSub, BitVec.extractLsb'_eq_self]]
  show decode1F _ _ = _
  simp (disch := decide) only [decode1F, fld, flag, field_above, field_inside, Nat.reduceSub, BitVec.extractLsb'_eq_self]
  have ha : a.wf = true := h
  simp [withSrc_code a ha rest]

theorem vbitBrev (sw d a) : Statement (.vbitBrev sw d a) := by
  intro h rest
  refine decodeWords_src ?_
  rw [decode, show fld _ 24 7 = 31#7 by simp (disch := decide) only [fld, flag, field_above, field_inside, Nat.reduceSub, BitVec.extractLsb'_eq_self]]
  show decode1F _ _ = _
  simp (disch := decide) only [decode1F, fld, flag, field_above, field_inside, Nat.reduceSub, BitVec.extractLsb'_eq_self]
  have ha : a.wf = true := h
  simp [withSrc_code a ha rest]

theorem vbitFfs (sw d a) : Statement (.vbitFfs sw d a) := by
  intro h rest
  refine decodeWords_src ?_
  rw [decode, show fld _ 24 7 = 31#7 by simp (disch := decide) only [fld, flag, field_above, field_inside, Nat.reduceSub, BitVec.extractLsb'_eq_self]]
  show decode1F _ _ = _
  simp (disch := decide) only [decode1F, fld, flag, field_above, field_inside, Nat.reduceSub, BitVec.extractLsb'_eq_self]
  have ha : a.wf = true := h
  simp [withSrc_code a ha rest]

theorem vicmpS32 (sw l c b a) : Statement (.vicmpS32 sw l c b a) := by
  intro h rest
  refine decodeWords_src ?_
  rw [decode, show fld _ 24 7 = 32#7 by simp (disch := decide) only [fld, flag, field_above, field_inside, Nat.reduceSub, BitVec.extractLsb'_eq_self]]
  show decode20 _ _ = _
  simp (disch := decide) only [decode20, fld, flag, field_above, field_inside, Nat.reduceSub, BitVec.extractLsb'_eq_self]
  simp [Instr.wf] at h
  simp [withSrc_code a (by simp [h]) rest, cmp_code_below_6 c h.1.2 h.2]

theorem vicmpN32 (sw l c b a) : Statement (.vicmpN32 sw l c b a) := by
  intro h rest
  refine decodeWords_src ?_
  rw [decode, show fld _ 24 7 = 32#7 by simp (disch := decide) only [fld, flag, field_above, field_inside, Nat.reduceSub, BitVec.extractLsb'_eq_self]]
  show decode20 _ _ = _
  simp (disch := decide) only [decode20, fld, flag, field_above, field_inside, Nat.reduceSub, BitVec.extractLsb'_eq_self]
  simp [Instr.wf] at h
  simp [withSrc_code a (by simp [h]) rest, cmp_code_below_6 c h.1.2 h.2]

theorem vselLm0 (sw d b a) : Statement (.vselLm0 sw d b a) := by
  intro h rest
  refine decodeWords_src ?_
  rw [decode, show fld _ 24 7 = 33#7 by simp (disch := decide) only [fld, flag, field_above, field_inside, Nat.reduceSub, BitVec.extractLsb'_eq_self]]
  show decode21 _ _ = _
  simp (disch := decide) only [decode21, fld, flag, field_above, field_inside, Nat.reduceSub, BitVec.extractLsb'_eq_self]
  have ha : a.wf = true := h
  simp [withSrc_code a ha rest]

theorem vselLm1 (sw d b a) : Statement (.vselLm1 sw d b a) := by
  intro h rest
  refine decodeWords_src ?_
  rw [decode, show fld _ 24 7 = 33#7 by simp (disch := decide) only [fld, flag, field_above, field_inside, Nat.reduceSub, BitVec.extractLsb'_eq_self]]
  show decode21 _ _ = _
  simp (disch := decide) only [decode21, fld, flag, field_above, field_inside, Nat.reduceSub, BitVec.extractLsb'_eq_self]
  have ha : a.wf = true := h
  simp [withSrc_code a ha rest]

theorem vselLm2 (sw d b a) : Statement (.vselLm2 sw d b a) := by
  intro h rest
  refine decodeWords_src ?_
  rw [decode, show fld _ 24 7 = 33#7 by simp (disch := decide) only [fld, flag, field_above, field_inside, Nat.reduceSub, BitVec.extractLsb'_eq_self]]
  show decode21 _ _ = _
  simp (disch := decide) only [decode21, fld, flag, field_above, field_inside, Nat.reduceSub, BitVec.extractLsb'_eq_self]
  have ha : a.wf = true := h
  simp [withSrc_code a ha rest]

theorem vselLm3 (sw d b a) : Statement (.vselLm3 sw d b a) := by
  intro h rest
  refine decodeWords_src ?_
  rw [decode, show fld _ 24 7 = 33#7 by simp (disch := decide) only [fld, flag, field_above, field_inside, Nat.reduceSub, BitVec.extractLsb'_eq_self]]
  show decode21 _ _ = _
  simp (disch := decide) only [decode21, fld, flag, field_above, field_inside, Nat.reduceSub, BitVec.extractLsb'_eq_self]
  have ha : a.wf = true := h
  simp [withSrc_code a ha rest]

theorem vmov (sw d a) : Statement (.vmov sw d a) := by
  intro h rest
  refine decodeWords_src ?_
  rw [decode, show fld _ 24 7 = 34#7 by simp (disch := decide) only [fld, flag, field_above, field_inside, Nat.reduceSub, BitVec.extractLsb'_eq_self]]
  show decode22 _ _ = _
  simp (disch := decide) only [decode22, fld, flag, field_above, field_inside, Nat.reduceSub, BitVec.extractLsb'_eq_self]
  have ha : a.wf = true := h
  simp [withSrc_code a ha rest]

theorem vsx16 (sw d a) : Statement (.vsx16 sw d a) := by
  intro h rest
  refine decodeWords_src ?_
  rw [decode, show fld _ 24 7 = 34#7 by simp (disch := decide) only [fld, flag, field_above, field_inside, Nat.reduceSub, BitVec.extractLsb'_eq_self]]
  show decode22 _ _ = _
  simp (disch := decide) only [decode22, fld, flag, field_above, field_inside, Nat.reduceSub, BitVec.extractLsb'_eq_self]
  have ha : a.wf = true := h
  simp [withSrc_code a ha rest]

theorem vsx8 (sw d a) : Statement (.vsx8 sw d a) := by
  intro h rest
  refine decodeWords_src ?_
  rw [decode, show fld _ 24 7 = 34#7 by simp (disch := decide) only [fld, flag, field_above, field_inside, Nat.reduceSub, BitVec.extractLsb'_eq_self]]
  show decode22 _ _ = _
  simp (disch := decide) only [decode22, fld, flag, field_above, field_inside, Nat.reduceSub, BitVec.extractLsb'_eq_self]
  have ha : a.wf = true := h
  simp [withSrc_code a ha rest]

theorem vzx16 (sw d a) : Statement (.vzx16 sw d a) := by
  intro h rest
  refine decodeWords_src ?_
  rw [decode, show fld _ 24 7 = 34#7 by simp (disch := decide) only [fld, flag, field_above, field_inside, Nat.reduceSub, BitVec.extractLsb'_eq_self]]
  show decode22 _ _ = _
  simp (disch := decide) only [decode22, fld, flag, field_above, field_inside, Nat.reduceSub, BitVec.extractLsb'_eq_self]
  have ha : a.wf = true := h
  simp [withSrc_code a ha rest]

theorem vfaddF32 (sw d b a) : Statement (.vfaddF32 sw d b a) := by
  intro h rest
  refine decodeWords_src ?_
  rw [decode, show fld _ 24 7 = 35#7 by simp (disch := decide) only [fld, flag, field_above, field_inside, Nat.reduceSub, BitVec.extractLsb'_eq_self]]
  show decode23 _ _ = _
  simp (disch := decide) only [decode23, fld, flag, field_above, field_inside, Nat.reduceSub, BitVec.extractLsb'_eq_self]
  have ha : a.wf = true := h
  simp [withSrc_code a ha rest]

theorem vfaddF16x2 (sw d b a) : Statement (.vfaddF16x2 sw d b a) := by
  intro h rest
  refine decodeWords_src ?_
  rw [decode, show fld _ 24 7 = 35#7 by simp (disch := decide) only [fld, flag, field_above, field_inside, Nat.reduceSub, BitVec.extractLsb'_eq_self]]
  show decode23 _ _ = _
  simp (disch := decide) only [decode23, fld, flag, field_above, field_inside, Nat.reduceSub, BitVec.extractLsb'_eq_self]
  have ha : a.wf = true := h
  simp [withSrc_code a ha rest]

theorem vfaddBf16x2 (sw d b a) : Statement (.vfaddBf16x2 sw d b a) := by
  intro h rest
  refine decodeWords_src ?_
  rw [decode, show fld _ 24 7 = 35#7 by simp (disch := decide) only [fld, flag, field_above, field_inside, Nat.reduceSub, BitVec.extractLsb'_eq_self]]
  show decode23 _ _ = _
  simp (disch := decide) only [decode23, fld, flag, field_above, field_inside, Nat.reduceSub, BitVec.extractLsb'_eq_self]
  have ha : a.wf = true := h
  simp [withSrc_code a ha rest]

theorem vfsubF32 (sw d b a) : Statement (.vfsubF32 sw d b a) := by
  intro h rest
  refine decodeWords_src ?_
  rw [decode, show fld _ 24 7 = 36#7 by simp (disch := decide) only [fld, flag, field_above, field_inside, Nat.reduceSub, BitVec.extractLsb'_eq_self]]
  show decode24 _ _ = _
  simp (disch := decide) only [decode24, fld, flag, field_above, field_inside, Nat.reduceSub, BitVec.extractLsb'_eq_self]
  have ha : a.wf = true := h
  simp [withSrc_code a ha rest]

theorem vfsubF16x2 (sw d b a) : Statement (.vfsubF16x2 sw d b a) := by
  intro h rest
  refine decodeWords_src ?_
  rw [decode, show fld _ 24 7 = 36#7 by simp (disch := decide) only [fld, flag, field_above, field_inside, Nat.reduceSub, BitVec.extractLsb'_eq_self]]
  show decode24 _ _ = _
  simp (disch := decide) only [decode24, fld, flag, field_above, field_inside, Nat.reduceSub, BitVec.extractLsb'_eq_self]
  have ha : a.wf = true := h
  simp [withSrc_code a ha rest]

theorem vfsubBf16x2 (sw d b a) : Statement (.vfsubBf16x2 sw d b a) := by
  intro h rest
  refine decodeWords_src ?_
  rw [decode, show fld _ 24 7 = 36#7 by simp (disch := decide) only [fld, flag, field_above, field_inside, Nat.reduceSub, BitVec.extractLsb'_eq_self]]
  show decode24 _ _ = _
  simp (disch := decide) only [decode24, fld, flag, field_above, field_inside, Nat.reduceSub, BitVec.extractLsb'_eq_self]
  have ha : a.wf = true := h
  simp [withSrc_code a ha rest]

theorem vfmulF32 (sw d b a) : Statement (.vfmulF32 sw d b a) := by
  intro h rest
  refine decodeWords_src ?_
  rw [decode, show fld _ 24 7 = 37#7 by simp (disch := decide) only [fld, flag, field_above, field_inside, Nat.reduceSub, BitVec.extractLsb'_eq_self]]
  show decode25 _ _ = _
  simp (disch := decide) only [decode25, fld, flag, field_above, field_inside, Nat.reduceSub, BitVec.extractLsb'_eq_self]
  have ha : a.wf = true := h
  simp [withSrc_code a ha rest]

theorem vfmulF16x2 (sw d b a) : Statement (.vfmulF16x2 sw d b a) := by
  intro h rest
  refine decodeWords_src ?_
  rw [decode, show fld _ 24 7 = 37#7 by simp (disch := decide) only [fld, flag, field_above, field_inside, Nat.reduceSub, BitVec.extractLsb'_eq_self]]
  show decode25 _ _ = _
  simp (disch := decide) only [decode25, fld, flag, field_above, field_inside, Nat.reduceSub, BitVec.extractLsb'_eq_self]
  have ha : a.wf = true := h
  simp [withSrc_code a ha rest]

theorem vfmulBf16x2 (sw d b a) : Statement (.vfmulBf16x2 sw d b a) := by
  intro h rest
  refine decodeWords_src ?_
  rw [decode, show fld _ 24 7 = 37#7 by simp (disch := decide) only [fld, flag, field_above, field_inside, Nat.reduceSub, BitVec.extractLsb'_eq_self]]
  show decode25 _ _ = _
  simp (disch := decide) only [decode25, fld, flag, field_above, field_inside, Nat.reduceSub, BitVec.extractLsb'_eq_self]
  have ha : a.wf = true := h
  simp [withSrc_code a ha rest]

theorem vfmaF32 (sw d b a) : Statement (.vfmaF32 sw d b a) := by
  intro h rest
  refine decodeWords_src ?_
  rw [decode, show fld _ 24 7 = 38#7 by simp (disch := decide) only [fld, flag, field_above, field_inside, Nat.reduceSub, BitVec.extractLsb'_eq_self]]
  show decode26 _ _ = _
  simp (disch := decide) only [decode26, fld, flag, field_above, field_inside, Nat.reduceSub, BitVec.extractLsb'_eq_self]
  have ha : a.wf = true := h
  simp [withSrc_code a ha rest]

theorem vfmaF16x2 (sw d b a) : Statement (.vfmaF16x2 sw d b a) := by
  intro h rest
  refine decodeWords_src ?_
  rw [decode, show fld _ 24 7 = 38#7 by simp (disch := decide) only [fld, flag, field_above, field_inside, Nat.reduceSub, BitVec.extractLsb'_eq_self]]
  show decode26 _ _ = _
  simp (disch := decide) only [decode26, fld, flag, field_above, field_inside, Nat.reduceSub, BitVec.extractLsb'_eq_self]
  have ha : a.wf = true := h
  simp [withSrc_code a ha rest]

theorem vfmaBf16x2 (sw d b a) : Statement (.vfmaBf16x2 sw d b a) := by
  intro h rest
  refine decodeWords_src ?_
  rw [decode, show fld _ 24 7 = 38#7 by simp (disch := decide) only [fld, flag, field_above, field_inside, Nat.reduceSub, BitVec.extractLsb'_eq_self]]
  show decode26 _ _ = _
  simp (disch := decide) only [decode26, fld, flag, field_above, field_inside, Nat.reduceSub, BitVec.extractLsb'_eq_self]
  have ha : a.wf = true := h
  simp [withSrc_code a ha rest]

theorem vfminF32 (sw d b a) : Statement (.vfminF32 sw d b a) := by
  intro h rest
  refine decodeWords_src ?_
  rw [decode, show fld _ 24 7 = 39#7 by simp (disch := decide) only [fld, flag, field_above, field_inside, Nat.reduceSub, BitVec.extractLsb'_eq_self]]
  show decode27 _ _ = _
  simp (disch := decide) only [decode27, fld, flag, field_above, field_inside, Nat.reduceSub, BitVec.extractLsb'_eq_self]
  have ha : a.wf = true := h
  simp [withSrc_code a ha rest]

theorem vfmaxF32 (sw d b a) : Statement (.vfmaxF32 sw d b a) := by
  intro h rest
  refine decodeWords_src ?_
  rw [decode, show fld _ 24 7 = 39#7 by simp (disch := decide) only [fld, flag, field_above, field_inside, Nat.reduceSub, BitVec.extractLsb'_eq_self]]
  show decode27 _ _ = _
  simp (disch := decide) only [decode27, fld, flag, field_above, field_inside, Nat.reduceSub, BitVec.extractLsb'_eq_self]
  have ha : a.wf = true := h
  simp [withSrc_code a ha rest]

theorem vfminF16x2 (sw d b a) : Statement (.vfminF16x2 sw d b a) := by
  intro h rest
  refine decodeWords_src ?_
  rw [decode, show fld _ 24 7 = 39#7 by simp (disch := decide) only [fld, flag, field_above, field_inside, Nat.reduceSub, BitVec.extractLsb'_eq_self]]
  show decode27 _ _ = _
  simp (disch := decide) only [decode27, fld, flag, field_above, field_inside, Nat.reduceSub, BitVec.extractLsb'_eq_self]
  have ha : a.wf = true := h
  simp [withSrc_code a ha rest]

theorem vfmaxF16x2 (sw d b a) : Statement (.vfmaxF16x2 sw d b a) := by
  intro h rest
  refine decodeWords_src ?_
  rw [decode, show fld _ 24 7 = 39#7 by simp (disch := decide) only [fld, flag, field_above, field_inside, Nat.reduceSub, BitVec.extractLsb'_eq_self]]
  show decode27 _ _ = _
  simp (disch := decide) only [decode27, fld, flag, field_above, field_inside, Nat.reduceSub, BitVec.extractLsb'_eq_self]
  have ha : a.wf = true := h
  simp [withSrc_code a ha rest]

theorem vfcmpF32 (sw l c b a) : Statement (.vfcmpF32 sw l c b a) := by
  intro h rest
  refine decodeWords_src ?_
  rw [decode, show fld _ 24 7 = 40#7 by simp (disch := decide) only [fld, flag, field_above, field_inside, Nat.reduceSub, BitVec.extractLsb'_eq_self]]
  show decode28 _ _ = _
  simp (disch := decide) only [decode28, fld, flag, field_above, field_inside, Nat.reduceSub, BitVec.extractLsb'_eq_self]
  have ha : a.wf = true := h
  simp [withSrc_code a ha rest]

theorem vfcmpF16 (sw l c b a) : Statement (.vfcmpF16 sw l c b a) := by
  intro h rest
  refine decodeWords_src ?_
  rw [decode, show fld _ 24 7 = 40#7 by simp (disch := decide) only [fld, flag, field_above, field_inside, Nat.reduceSub, BitVec.extractLsb'_eq_self]]
  show decode28 _ _ = _
  simp (disch := decide) only [decode28, fld, flag, field_above, field_inside, Nat.reduceSub, BitVec.extractLsb'_eq_self]
  have ha : a.wf = true := h
  simp [withSrc_code a ha rest]

theorem vfcmpBf16 (sw l c b a) : Statement (.vfcmpBf16 sw l c b a) := by
  intro h rest
  refine decodeWords_src ?_
  rw [decode, show fld _ 24 7 = 40#7 by simp (disch := decide) only [fld, flag, field_above, field_inside, Nat.reduceSub, BitVec.extractLsb'_eq_self]]
  show decode28 _ _ = _
  simp (disch := decide) only [decode28, fld, flag, field_above, field_inside, Nat.reduceSub, BitVec.extractLsb'_eq_self]
  have ha : a.wf = true := h
  simp [withSrc_code a ha rest]

theorem vfcvtRne (sw d k a) : Statement (.vfcvtRne sw d k a) := by
  intro h rest
  refine decodeWords_src ?_
  rw [decode, show fld _ 24 7 = 41#7 by simp (disch := decide) only [fld, flag, field_above, field_inside, Nat.reduceSub, BitVec.extractLsb'_eq_self]]
  show decode29 _ _ = _
  simp (disch := decide) only [decode29, fld, flag, field_above, field_inside, Nat.reduceSub, BitVec.extractLsb'_eq_self]
  have ha : a.wf = true := h
  simp [withSrc_code a ha rest]

theorem vfcvtRtz (sw d k a) : Statement (.vfcvtRtz sw d k a) := by
  intro h rest
  refine decodeWords_src ?_
  rw [decode, show fld _ 24 7 = 41#7 by simp (disch := decide) only [fld, flag, field_above, field_inside, Nat.reduceSub, BitVec.extractLsb'_eq_self]]
  show decode29 _ _ = _
  simp (disch := decide) only [decode29, fld, flag, field_above, field_inside, Nat.reduceSub, BitVec.extractLsb'_eq_self]
  have ha : a.wf = true := h
  simp [withSrc_code a ha rest]

theorem vfcvtDn (sw d k a) : Statement (.vfcvtDn sw d k a) := by
  intro h rest
  refine decodeWords_src ?_
  rw [decode, show fld _ 24 7 = 41#7 by simp (disch := decide) only [fld, flag, field_above, field_inside, Nat.reduceSub, BitVec.extractLsb'_eq_self]]
  show decode29 _ _ = _
  simp (disch := decide) only [decode29, fld, flag, field_above, field_inside, Nat.reduceSub, BitVec.extractLsb'_eq_self]
  have ha : a.wf = true := h
  simp [withSrc_code a ha rest]

theorem vfcvtUp (sw d k a) : Statement (.vfcvtUp sw d k a) := by
  intro h rest
  refine decodeWords_src ?_
  rw [decode, show fld _ 24 7 = 41#7 by simp (disch := decide) only [fld, flag, field_above, field_inside, Nat.reduceSub, BitVec.extractLsb'_eq_self]]
  show decode29 _ _ = _
  simp (disch := decide) only [decode29, fld, flag, field_above, field_inside, Nat.reduceSub, BitVec.extractLsb'_eq_self]
  have ha : a.wf = true := h
  simp [withSrc_code a ha rest]

theorem vrcp (sw d a) : Statement (.vrcp sw d a) := by
  intro h rest
  refine decodeWords_src ?_
  rw [decode, show fld _ 24 7 = 42#7 by simp (disch := decide) only [fld, flag, field_above, field_inside, Nat.reduceSub, BitVec.extractLsb'_eq_self]]
  show decode2A _ _ = _
  simp (disch := decide) only [decode2A, fld, flag, field_above, field_inside, Nat.reduceSub, BitVec.extractLsb'_eq_self]
  have ha : a.wf = true := h
  simp [withSrc_code a ha rest]

theorem vrsq (sw d a) : Statement (.vrsq sw d a) := by
  intro h rest
  refine decodeWords_src ?_
  rw [decode, show fld _ 24 7 = 42#7 by simp (disch := decide) only [fld, flag, field_above, field_inside, Nat.reduceSub, BitVec.extractLsb'_eq_self]]
  show decode2A _ _ = _
  simp (disch := decide) only [decode2A, fld, flag, field_above, field_inside, Nat.reduceSub, BitVec.extractLsb'_eq_self]
  have ha : a.wf = true := h
  simp [withSrc_code a ha rest]

theorem vex2 (sw d a) : Statement (.vex2 sw d a) := by
  intro h rest
  refine decodeWords_src ?_
  rw [decode, show fld _ 24 7 = 42#7 by simp (disch := decide) only [fld, flag, field_above, field_inside, Nat.reduceSub, BitVec.extractLsb'_eq_self]]
  show decode2A _ _ = _
  simp (disch := decide) only [decode2A, fld, flag, field_above, field_inside, Nat.reduceSub, BitVec.extractLsb'_eq_self]
  have ha : a.wf = true := h
  simp [withSrc_code a ha rest]

theorem vlg2 (sw d a) : Statement (.vlg2 sw d a) := by
  intro h rest
  refine decodeWords_src ?_
  rw [decode, show fld _ 24 7 = 42#7 by simp (disch := decide) only [fld, flag, field_above, field_inside, Nat.reduceSub, BitVec.extractLsb'_eq_self]]
  show decode2A _ _ = _
  simp (disch := decide) only [decode2A, fld, flag, field_above, field_inside, Nat.reduceSub, BitVec.extractLsb'_eq_self]
  have ha : a.wf = true := h
  simp [withSrc_code a ha rest]

theorem vsinpi (sw d a) : Statement (.vsinpi sw d a) := by
  intro h rest
  refine decodeWords_src ?_
  rw [decode, show fld _ 24 7 = 43#7 by simp (disch := decide) only [fld, flag, field_above, field_inside, Nat.reduceSub, BitVec.extractLsb'_eq_self]]
  show decode2B _ _ = _
  simp (disch := decide) only [decode2B, fld, flag, field_above, field_inside, Nat.reduceSub, BitVec.extractLsb'_eq_self]
  have ha : a.wf = true := h
  simp [withSrc_code a ha rest]

theorem vcospi (sw d a) : Statement (.vcospi sw d a) := by
  intro h rest
  refine decodeWords_src ?_
  rw [decode, show fld _ 24 7 = 43#7 by simp (disch := decide) only [fld, flag, field_above, field_inside, Nat.reduceSub, BitVec.extractLsb'_eq_self]]
  show decode2B _ _ = _
  simp (disch := decide) only [decode2B, fld, flag, field_above, field_inside, Nat.reduceSub, BitVec.extractLsb'_eq_self]
  have ha : a.wf = true := h
  simp [withSrc_code a ha rest]

theorem vsqrt (sw d a) : Statement (.vsqrt sw d a) := by
  intro h rest
  refine decodeWords_src ?_
  rw [decode, show fld _ 24 7 = 43#7 by simp (disch := decide) only [fld, flag, field_above, field_inside, Nat.reduceSub, BitVec.extractLsb'_eq_self]]
  show decode2B _ _ = _
  simp (disch := decide) only [decode2B, fld, flag, field_above, field_inside, Nat.reduceSub, BitVec.extractLsb'_eq_self]
  have ha : a.wf = true := h
  simp [withSrc_code a ha rest]

theorem vtanh (sw d a) : Statement (.vtanh sw d a) := by
  intro h rest
  refine decodeWords_src ?_
  rw [decode, show fld _ 24 7 = 43#7 by simp (disch := decide) only [fld, flag, field_above, field_inside, Nat.reduceSub, BitVec.extractLsb'_eq_self]]
  show decode2B _ _ = _
  simp (disch := decide) only [decode2B, fld, flag, field_above, field_inside, Nat.reduceSub, BitVec.extractLsb'_eq_self]
  have ha : a.wf = true := h
  simp [withSrc_code a ha rest]

theorem vfrndRne (sw d a) : Statement (.vfrndRne sw d a) := by
  intro h rest
  refine decodeWords_src ?_
  rw [decode, show fld _ 24 7 = 44#7 by simp (disch := decide) only [fld, flag, field_above, field_inside, Nat.reduceSub, BitVec.extractLsb'_eq_self]]
  show decode2C _ _ = _
  simp (disch := decide) only [decode2C, fld, flag, field_above, field_inside, Nat.reduceSub, BitVec.extractLsb'_eq_self]
  have ha : a.wf = true := h
  simp [withSrc_code a ha rest]

theorem vfrndRtz (sw d a) : Statement (.vfrndRtz sw d a) := by
  intro h rest
  refine decodeWords_src ?_
  rw [decode, show fld _ 24 7 = 44#7 by simp (disch := decide) only [fld, flag, field_above, field_inside, Nat.reduceSub, BitVec.extractLsb'_eq_self]]
  show decode2C _ _ = _
  simp (disch := decide) only [decode2C, fld, flag, field_above, field_inside, Nat.reduceSub, BitVec.extractLsb'_eq_self]
  have ha : a.wf = true := h
  simp [withSrc_code a ha rest]

theorem vfrndFloor (sw d a) : Statement (.vfrndFloor sw d a) := by
  intro h rest
  refine decodeWords_src ?_
  rw [decode, show fld _ 24 7 = 44#7 by simp (disch := decide) only [fld, flag, field_above, field_inside, Nat.reduceSub, BitVec.extractLsb'_eq_self]]
  show decode2C _ _ = _
  simp (disch := decide) only [decode2C, fld, flag, field_above, field_inside, Nat.reduceSub, BitVec.extractLsb'_eq_self]
  have ha : a.wf = true := h
  simp [withSrc_code a ha rest]

theorem vfrndCeil (sw d a) : Statement (.vfrndCeil sw d a) := by
  intro h rest
  refine decodeWords_src ?_
  rw [decode, show fld _ 24 7 = 44#7 by simp (disch := decide) only [fld, flag, field_above, field_inside, Nat.reduceSub, BitVec.extractLsb'_eq_self]]
  show decode2C _ _ = _
  simp (disch := decide) only [decode2C, fld, flag, field_above, field_inside, Nat.reduceSub, BitVec.extractLsb'_eq_self]
  have ha : a.wf = true := h
  simp [withSrc_code a ha rest]

theorem vfdotDot2bf16 (sw d b a) : Statement (.vfdotDot2bf16 sw d b a) := by
  intro h rest
  refine decodeWords_src ?_
  rw [decode, show fld _ 24 7 = 45#7 by simp (disch := decide) only [fld, flag, field_above, field_inside, Nat.reduceSub, BitVec.extractLsb'_eq_self]]
  show decode2D _ _ = _
  simp (disch := decide) only [decode2D, fld, flag, field_above, field_inside, Nat.reduceSub, BitVec.extractLsb'_eq_self]
  have ha : a.wf = true := h
  simp [withSrc_code a ha rest]

theorem vfdotDot2f16 (sw d b a) : Statement (.vfdotDot2f16 sw d b a) := by
  intro h rest
  refine decodeWords_src ?_
  rw [decode, show fld _ 24 7 = 45#7 by simp (disch := decide) only [fld, flag, field_above, field_inside, Nat.reduceSub, BitVec.extractLsb'_eq_self]]
  show decode2D _ _ = _
  simp (disch := decide) only [decode2D, fld, flag, field_above, field_inside, Nat.reduceSub, BitVec.extractLsb'_eq_self]
  have ha : a.wf = true := h
  simp [withSrc_code a ha rest]

theorem vfdotDot4f8e4 (sw d b a) : Statement (.vfdotDot4f8e4 sw d b a) := by
  intro h rest
  refine decodeWords_src ?_
  rw [decode, show fld _ 24 7 = 45#7 by simp (disch := decide) only [fld, flag, field_above, field_inside, Nat.reduceSub, BitVec.extractLsb'_eq_self]]
  show decode2D _ _ = _
  simp (disch := decide) only [decode2D, fld, flag, field_above, field_inside, Nat.reduceSub, BitVec.extractLsb'_eq_self]
  have ha : a.wf = true := h
  simp [withSrc_code a ha rest]

theorem vfdotDot4f8e5 (sw d b a) : Statement (.vfdotDot4f8e5 sw d b a) := by
  intro h rest
  refine decodeWords_src ?_
  rw [decode, show fld _ 24 7 = 45#7 by simp (disch := decide) only [fld, flag, field_above, field_inside, Nat.reduceSub, BitVec.extractLsb'_eq_self]]
  show decode2D _ _ = _
  simp (disch := decide) only [decode2D, fld, flag, field_above, field_inside, Nat.reduceSub, BitVec.extractLsb'_eq_self]
  have ha : a.wf = true := h
  simp [withSrc_code a ha rest]

theorem vmaxiMax (sw d b a) : Statement (.vmaxiMax sw d b a) := by
  intro h rest
  refine decodeWords_src ?_
  rw [decode, show fld _ 24 7 = 46#7 by simp (disch := decide) only [fld, flag, field_above, field_inside, Nat.reduceSub, BitVec.extractLsb'_eq_self]]
  show decode2E _ _ = _
  simp (disch := decide) only [decode2E, fld, flag, field_above, field_inside, Nat.reduceSub, BitVec.extractLsb'_eq_self]
  have ha : a.wf = true := h
  simp [withSrc_code a ha rest]

theorem vmaxiMin (sw d b a) : Statement (.vmaxiMin sw d b a) := by
  intro h rest
  refine decodeWords_src ?_
  rw [decode, show fld _ 24 7 = 46#7 by simp (disch := decide) only [fld, flag, field_above, field_inside, Nat.reduceSub, BitVec.extractLsb'_eq_self]]
  show decode2E _ _ = _
  simp (disch := decide) only [decode2E, fld, flag, field_above, field_inside, Nat.reduceSub, BitVec.extractLsb'_eq_self]
  have ha : a.wf = true := h
  simp [withSrc_code a ha rest]

theorem vpackF16x2 (sw d b a) : Statement (.vpackF16x2 sw d b a) := by
  intro h rest
  refine decodeWords_src ?_
  rw [decode, show fld _ 24 7 = 47#7 by simp (disch := decide) only [fld, flag, field_above, field_inside, Nat.reduceSub, BitVec.extractLsb'_eq_self]]
  show decode2F _ _ = _
  simp (disch := decide) only [decode2F, fld, flag, field_above, field_inside, Nat.reduceSub, BitVec.extractLsb'_eq_self]
  have ha : a.wf = true := h
  simp [withSrc_code a ha rest]

theorem vpackBf16x2 (sw d b a) : Statement (.vpackBf16x2 sw d b a) := by
  intro h rest
  refine decodeWords_src ?_
  rw [decode, show fld _ 24 7 = 47#7 by simp (disch := decide) only [fld, flag, field_above, field_inside, Nat.reduceSub, BitVec.extractLsb'_eq_self]]
  show decode2F _ _ = _
  simp (disch := decide) only [decode2F, fld, flag, field_above, field_inside, Nat.reduceSub, BitVec.extractLsb'_eq_self]
  have ha : a.wf = true := h
  simp [withSrc_code a ha rest]

theorem vpackS16x2sat (sw d b a) : Statement (.vpackS16x2sat sw d b a) := by
  intro h rest
  refine decodeWords_src ?_
  rw [decode, show fld _ 24 7 = 47#7 by simp (disch := decide) only [fld, flag, field_above, field_inside, Nat.reduceSub, BitVec.extractLsb'_eq_self]]
  show decode2F _ _ = _
  simp (disch := decide) only [decode2F, fld, flag, field_above, field_inside, Nat.reduceSub, BitVec.extractLsb'_eq_self]
  have ha : a.wf = true := h
  simp [withSrc_code a ha rest]

theorem vexpd (sw d p a) : Statement (.vexpd sw d p a) := by
  intro h rest
  refine decodeWords_src ?_
  rw [decode, show fld _ 24 7 = 48#7 by simp (disch := decide) only [fld, flag, field_above, field_inside, Nat.reduceSub, BitVec.extractLsb'_eq_self]]
  show decode30 _ _ = _
  simp (disch := decide) only [decode30, fld, flag, field_above, field_inside, Nat.reduceSub, BitVec.extractLsb'_eq_self]
  have ha : a.wf = true := h
  simp [withSrc_code a ha rest]

theorem vhashCrc32c (sw d b a) : Statement (.vhashCrc32c sw d b a) := by
  intro h rest
  refine decodeWords_src ?_
  rw [decode, show fld _ 24 7 = 49#7 by simp (disch := decide) only [fld, flag, field_above, field_inside, Nat.reduceSub, BitVec.extractLsb'_eq_self]]
  show decode31 _ _ = _
  simp (disch := decide) only [decode31, fld, flag, field_above, field_inside, Nat.reduceSub, BitVec.extractLsb'_eq_self]
  have ha : a.wf = true := h
  simp [withSrc_code a ha rest]

theorem vhashMix32 (sw d b a) : Statement (.vhashMix32 sw d b a) := by
  intro h rest
  refine decodeWords_src ?_
  rw [decode, show fld _ 24 7 = 49#7 by simp (disch := decide) only [fld, flag, field_above, field_inside, Nat.reduceSub, BitVec.extractLsb'_eq_self]]
  show decode31 _ _ = _
  simp (disch := decide) only [decode31, fld, flag, field_above, field_inside, Nat.reduceSub, BitVec.extractLsb'_eq_self]
  have ha : a.wf = true := h
  simp [withSrc_code a ha rest]

theorem vshflIdx (sw d b a) : Statement (.vshflIdx sw d b a) := by
  intro h rest
  refine decodeWords_src ?_
  rw [decode, show fld _ 24 7 = 50#7 by simp (disch := decide) only [fld, flag, field_above, field_inside, Nat.reduceSub, BitVec.extractLsb'_eq_self]]
  show decode32 _ _ = _
  simp (disch := decide) only [decode32, fld, flag, field_above, field_inside, Nat.reduceSub, BitVec.extractLsb'_eq_self]
  have ha : a.wf = true := h
  simp [withSrc_code a ha rest]

theorem vshflXor (sw d b a) : Statement (.vshflXor sw d b a) := by
  intro h rest
  refine decodeWords_src ?_
  rw [decode, show fld _ 24 7 = 50#7 by simp (disch := decide) only [fld, flag, field_above, field_inside, Nat.reduceSub, BitVec.extractLsb'_eq_self]]
  show decode32 _ _ = _
  simp (disch := decide) only [decode32, fld, flag, field_above, field_inside, Nat.reduceSub, BitVec.extractLsb'_eq_self]
  have ha : a.wf = true := h
  simp [withSrc_code a ha rest]

theorem vshflUp (sw d b a) : Statement (.vshflUp sw d b a) := by
  intro h rest
  refine decodeWords_src ?_
  rw [decode, show fld _ 24 7 = 50#7 by simp (disch := decide) only [fld, flag, field_above, field_inside, Nat.reduceSub, BitVec.extractLsb'_eq_self]]
  show decode32 _ _ = _
  simp (disch := decide) only [decode32, fld, flag, field_above, field_inside, Nat.reduceSub, BitVec.extractLsb'_eq_self]
  have ha : a.wf = true := h
  simp [withSrc_code a ha rest]

theorem vshflDown (sw d b a) : Statement (.vshflDown sw d b a) := by
  intro h rest
  refine decodeWords_src ?_
  rw [decode, show fld _ 24 7 = 50#7 by simp (disch := decide) only [fld, flag, field_above, field_inside, Nat.reduceSub, BitVec.extractLsb'_eq_self]]
  show decode32 _ _ = _
  simp (disch := decide) only [decode32, fld, flag, field_above, field_inside, Nat.reduceSub, BitVec.extractLsb'_eq_self]
  have ha : a.wf = true := h
  simp [withSrc_code a ha rest]

theorem vredAdd (sw d t a) : Statement (.vredAdd sw d t a) := by
  intro h rest
  refine decodeWords_src ?_
  rw [decode, show fld _ 24 7 = 51#7 by simp (disch := decide) only [fld, flag, field_above, field_inside, Nat.reduceSub, BitVec.extractLsb'_eq_self]]
  show decode33 _ _ = _
  simp (disch := decide) only [decode33, fld, flag, field_above, field_inside, Nat.reduceSub, BitVec.extractLsb'_eq_self]
  simp [Instr.wf] at h
  simp [withSrc_code a (by simp [h]) rest, h]

theorem vredMax (sw d t a) : Statement (.vredMax sw d t a) := by
  intro h rest
  refine decodeWords_src ?_
  rw [decode, show fld _ 24 7 = 51#7 by simp (disch := decide) only [fld, flag, field_above, field_inside, Nat.reduceSub, BitVec.extractLsb'_eq_self]]
  show decode33 _ _ = _
  simp (disch := decide) only [decode33, fld, flag, field_above, field_inside, Nat.reduceSub, BitVec.extractLsb'_eq_self]
  simp [Instr.wf] at h
  simp [withSrc_code a (by simp [h]) rest, h]

theorem vredMin (sw d t a) : Statement (.vredMin sw d t a) := by
  intro h rest
  refine decodeWords_src ?_
  rw [decode, show fld _ 24 7 = 51#7 by simp (disch := decide) only [fld, flag, field_above, field_inside, Nat.reduceSub, BitVec.extractLsb'_eq_self]]
  show decode33 _ _ = _
  simp (disch := decide) only [decode33, fld, flag, field_above, field_inside, Nat.reduceSub, BitVec.extractLsb'_eq_self]
  simp [Instr.wf] at h
  simp [withSrc_code a (by simp [h]) rest, h]

theorem vredMaxi (sw d t a) : Statement (.vredMaxi sw d t a) := by
  intro h rest
  refine decodeWords_src ?_
  rw [decode, show fld _ 24 7 = 51#7 by simp (disch := decide) only [fld, flag, field_above, field_inside, Nat.reduceSub, BitVec.extractLsb'_eq_self]]
  show decode33 _ _ = _
  simp (disch := decide) only [decode33, fld, flag, field_above, field_inside, Nat.reduceSub, BitVec.extractLsb'_eq_self]
  simp [Instr.wf] at h
  simp [withSrc_code a (by simp [h]) rest, h]

theorem vscanInclAddS32 (sw d a) : Statement (.vscanInclAddS32 sw d a) := by
  intro h rest
  refine decodeWords_src ?_
  rw [decode, show fld _ 24 7 = 52#7 by simp (disch := decide) only [fld, flag, field_above, field_inside, Nat.reduceSub, BitVec.extractLsb'_eq_self]]
  show decode34 _ _ = _
  simp (disch := decide) only [decode34, fld, flag, field_above, field_inside, Nat.reduceSub, BitVec.extractLsb'_eq_self]
  have ha : a.wf = true := h
  simp [withSrc_code a ha rest]

theorem vscanExclAddS32 (sw d a) : Statement (.vscanExclAddS32 sw d a) := by
  intro h rest
  refine decodeWords_src ?_
  rw [decode, show fld _ 24 7 = 52#7 by simp (disch := decide) only [fld, flag, field_above, field_inside, Nat.reduceSub, BitVec.extractLsb'_eq_self]]
  show decode34 _ _ = _
  simp (disch := decide) only [decode34, fld, flag, field_above, field_inside, Nat.reduceSub, BitVec.extractLsb'_eq_self]
  have ha : a.wf = true := h
  simp [withSrc_code a ha rest]

theorem vscanInclAddF32 (sw d a) : Statement (.vscanInclAddF32 sw d a) := by
  intro h rest
  refine decodeWords_src ?_
  rw [decode, show fld _ 24 7 = 52#7 by simp (disch := decide) only [fld, flag, field_above, field_inside, Nat.reduceSub, BitVec.extractLsb'_eq_self]]
  show decode34 _ _ = _
  simp (disch := decide) only [decode34, fld, flag, field_above, field_inside, Nat.reduceSub, BitVec.extractLsb'_eq_self]
  have ha : a.wf = true := h
  simp [withSrc_code a ha rest]

theorem vscanInclMaxi (sw d a) : Statement (.vscanInclMaxi sw d a) := by
  intro h rest
  refine decodeWords_src ?_
  rw [decode, show fld _ 24 7 = 52#7 by simp (disch := decide) only [fld, flag, field_above, field_inside, Nat.reduceSub, BitVec.extractLsb'_eq_self]]
  show decode34 _ _ = _
  simp (disch := decide) only [decode34, fld, flag, field_above, field_inside, Nat.reduceSub, BitVec.extractLsb'_eq_self]
  have ha : a.wf = true := h
  simp [withSrc_code a ha rest]

theorem ballot (sw l a) : Statement (.ballot sw l a) := by
  intro h rest
  refine decodeWords_src ?_
  rw [decode, show fld _ 24 7 = 53#7 by simp (disch := decide) only [fld, flag, field_above, field_inside, Nat.reduceSub, BitVec.extractLsb'_eq_self]]
  show decode35 _ _ = _
  simp (disch := decide) only [decode35, fld, flag, field_above, field_inside, Nat.reduceSub, BitVec.extractLsb'_eq_self]
  have ha : a.wf = true := h
  simp [withSrc_code a ha rest]

theorem mpre (sw l d) : Statement (.mpre sw l d) := by
  intro h rest
  refine decodeWords_one ?_
  rw [decode, show fld _ 24 7 = 53#7 by simp (disch := decide) only [fld, flag, field_above, field_inside, Nat.reduceSub, BitVec.extractLsb'_eq_self]]
  show decode35 _ _ = _
  simp (disch := decide) only [decode35, fld, flag, field_above, field_inside, Nat.reduceSub, BitVec.extractLsb'_eq_self]
  simp

theorem vany (sw a) : Statement (.vany sw a) := by
  intro h rest
  refine decodeWords_src ?_
  rw [decode, show fld _ 24 7 = 53#7 by simp (disch := decide) only [fld, flag, field_above, field_inside, Nat.reduceSub, BitVec.extractLsb'_eq_self]]
  show decode35 _ _ = _
  simp (disch := decide) only [decode35, fld, flag, field_above, field_inside, Nat.reduceSub, BitVec.extractLsb'_eq_self]
  have ha : a.wf = true := h
  simp [withSrc_code a ha rest]

theorem vall (sw a) : Statement (.vall sw a) := by
  intro h rest
  refine decodeWords_src ?_
  rw [decode, show fld _ 24 7 = 53#7 by simp (disch := decide) only [fld, flag, field_above, field_inside, Nat.reduceSub, BitVec.extractLsb'_eq_self]]
  show decode35 _ _ = _
  simp (disch := decide) only [decode35, fld, flag, field_above, field_inside, Nat.reduceSub, BitVec.extractLsb'_eq_self]
  have ha : a.wf = true := h
  simp [withSrc_code a ha rest]

theorem ldvB8 (sw d b i) : Statement (.ldvB8 sw d b i) := by
  intro h rest
  refine decodeWords_one ?_
  rw [decode, show fld _ 24 7 = 54#7 by simp (disch := decide) only [fld, flag, field_above, field_inside, Nat.reduceSub, BitVec.extractLsb'_eq_self]]
  show decode36 _ _ = _
  simp (disch := decide) only [decode36, fld, flag, field_above, field_inside, Nat.reduceSub, BitVec.extractLsb'_eq_self]
  simp

theorem ldvB16 (sw d b i) : Statement (.ldvB16 sw d b i) := by
  intro h rest
  refine decodeWords_one ?_
  rw [decode, show fld _ 24 7 = 54#7 by simp (disch := decide) only [fld, flag, field_above, field_inside, Nat.reduceSub, BitVec.extractLsb'_eq_self]]
  show decode36 _ _ = _
  simp (disch := decide) only [decode36, fld, flag, field_above, field_inside, Nat.reduceSub, BitVec.extractLsb'_eq_self]
  simp

theorem ldvB32 (sw d b i) : Statement (.ldvB32 sw d b i) := by
  intro h rest
  refine decodeWords_one ?_
  rw [decode, show fld _ 24 7 = 54#7 by simp (disch := decide) only [fld, flag, field_above, field_inside, Nat.reduceSub, BitVec.extractLsb'_eq_self]]
  show decode36 _ _ = _
  simp (disch := decide) only [decode36, fld, flag, field_above, field_inside, Nat.reduceSub, BitVec.extractLsb'_eq_self]
  simp

theorem ldvB64 (sw d b i) : Statement (.ldvB64 sw d b i) := by
  intro h rest
  refine decodeWords_one ?_
  rw [decode, show fld _ 24 7 = 54#7 by simp (disch := decide) only [fld, flag, field_above, field_inside, Nat.reduceSub, BitVec.extractLsb'_eq_self]]
  show decode36 _ _ = _
  simp (disch := decide) only [decode36, fld, flag, field_above, field_inside, Nat.reduceSub, BitVec.extractLsb'_eq_self]
  simp

theorem ldvsS8 (sw d b i) : Statement (.ldvsS8 sw d b i) := by
  intro h rest
  refine decodeWords_one ?_
  rw [decode, show fld _ 24 7 = 55#7 by simp (disch := decide) only [fld, flag, field_above, field_inside, Nat.reduceSub, BitVec.extractLsb'_eq_self]]
  show decode37 _ _ = _
  simp (disch := decide) only [decode37, fld, flag, field_above, field_inside, Nat.reduceSub, BitVec.extractLsb'_eq_self]
  simp

theorem ldvsS16 (sw d b i) : Statement (.ldvsS16 sw d b i) := by
  intro h rest
  refine decodeWords_one ?_
  rw [decode, show fld _ 24 7 = 55#7 by simp (disch := decide) only [fld, flag, field_above, field_inside, Nat.reduceSub, BitVec.extractLsb'_eq_self]]
  show decode37 _ _ = _
  simp (disch := decide) only [decode37, fld, flag, field_above, field_inside, Nat.reduceSub, BitVec.extractLsb'_eq_self]
  simp

theorem ldgB8 (sw k d b x) : Statement (.ldgB8 sw k d b x) := by
  intro h rest
  refine decodeWords_one ?_
  rw [decode, show fld _ 24 7 = 56#7 by simp (disch := decide) only [fld, flag, field_above, field_inside, Nat.reduceSub, BitVec.extractLsb'_eq_self]]
  show decode38 _ _ = _
  simp (disch := decide) only [decode38, fld, flag, field_above, field_inside, Nat.reduceSub, BitVec.extractLsb'_eq_self]
  simp

theorem ldgB16 (sw k d b x) : Statement (.ldgB16 sw k d b x) := by
  intro h rest
  refine decodeWords_one ?_
  rw [decode, show fld _ 24 7 = 56#7 by simp (disch := decide) only [fld, flag, field_above, field_inside, Nat.reduceSub, BitVec.extractLsb'_eq_self]]
  show decode38 _ _ = _
  simp (disch := decide) only [decode38, fld, flag, field_above, field_inside, Nat.reduceSub, BitVec.extractLsb'_eq_self]
  simp

theorem ldgB32 (sw k d b x) : Statement (.ldgB32 sw k d b x) := by
  intro h rest
  refine decodeWords_one ?_
  rw [decode, show fld _ 24 7 = 56#7 by simp (disch := decide) only [fld, flag, field_above, field_inside, Nat.reduceSub, BitVec.extractLsb'_eq_self]]
  show decode38 _ _ = _
  simp (disch := decide) only [decode38, fld, flag, field_above, field_inside, Nat.reduceSub, BitVec.extractLsb'_eq_self]
  simp

theorem ldgB64 (sw k d b x) : Statement (.ldgB64 sw k d b x) := by
  intro h rest
  refine decodeWords_one ?_
  rw [decode, show fld _ 24 7 = 56#7 by simp (disch := decide) only [fld, flag, field_above, field_inside, Nat.reduceSub, BitVec.extractLsb'_eq_self]]
  show decode38 _ _ = _
  simp (disch := decide) only [decode38, fld, flag, field_above, field_inside, Nat.reduceSub, BitVec.extractLsb'_eq_self]
  simp

theorem stvB8 (sw d b i) : Statement (.stvB8 sw d b i) := by
  intro h rest
  refine decodeWords_one ?_
  rw [decode, show fld _ 24 7 = 57#7 by simp (disch := decide) only [fld, flag, field_above, field_inside, Nat.reduceSub, BitVec.extractLsb'_eq_self]]
  show decode39 _ _ = _
  simp (disch := decide) only [decode39, fld, flag, field_above, field_inside, Nat.reduceSub, BitVec.extractLsb'_eq_self]
  simp

theorem stvB16 (sw d b i) : Statement (.stvB16 sw d b i) := by
  intro h rest
  refine decodeWords_one ?_
  rw [decode, show fld _ 24 7 = 57#7 by simp (disch := decide) only [fld, flag, field_above, field_inside, Nat.reduceSub, BitVec.extractLsb'_eq_self]]
  show decode39 _ _ = _
  simp (disch := decide) only [decode39, fld, flag, field_above, field_inside, Nat.reduceSub, BitVec.extractLsb'_eq_self]
  simp

theorem stvB32 (sw d b i) : Statement (.stvB32 sw d b i) := by
  intro h rest
  refine decodeWords_one ?_
  rw [decode, show fld _ 24 7 = 57#7 by simp (disch := decide) only [fld, flag, field_above, field_inside, Nat.reduceSub, BitVec.extractLsb'_eq_self]]
  show decode39 _ _ = _
  simp (disch := decide) only [decode39, fld, flag, field_above, field_inside, Nat.reduceSub, BitVec.extractLsb'_eq_self]
  simp

theorem stvB64 (sw d b i) : Statement (.stvB64 sw d b i) := by
  intro h rest
  refine decodeWords_one ?_
  rw [decode, show fld _ 24 7 = 57#7 by simp (disch := decide) only [fld, flag, field_above, field_inside, Nat.reduceSub, BitVec.extractLsb'_eq_self]]
  show decode39 _ _ = _
  simp (disch := decide) only [decode39, fld, flag, field_above, field_inside, Nat.reduceSub, BitVec.extractLsb'_eq_self]
  simp

theorem stgB8 (sw k d b x) : Statement (.stgB8 sw k d b x) := by
  intro h rest
  refine decodeWords_one ?_
  rw [decode, show fld _ 24 7 = 58#7 by simp (disch := decide) only [fld, flag, field_above, field_inside, Nat.reduceSub, BitVec.extractLsb'_eq_self]]
  show decode3A _ _ = _
  simp (disch := decide) only [decode3A, fld, flag, field_above, field_inside, Nat.reduceSub, BitVec.extractLsb'_eq_self]
  simp

theorem stgB16 (sw k d b x) : Statement (.stgB16 sw k d b x) := by
  intro h rest
  refine decodeWords_one ?_
  rw [decode, show fld _ 24 7 = 58#7 by simp (disch := decide) only [fld, flag, field_above, field_inside, Nat.reduceSub, BitVec.extractLsb'_eq_self]]
  show decode3A _ _ = _
  simp (disch := decide) only [decode3A, fld, flag, field_above, field_inside, Nat.reduceSub, BitVec.extractLsb'_eq_self]
  simp

theorem stgB32 (sw k d b x) : Statement (.stgB32 sw k d b x) := by
  intro h rest
  refine decodeWords_one ?_
  rw [decode, show fld _ 24 7 = 58#7 by simp (disch := decide) only [fld, flag, field_above, field_inside, Nat.reduceSub, BitVec.extractLsb'_eq_self]]
  show decode3A _ _ = _
  simp (disch := decide) only [decode3A, fld, flag, field_above, field_inside, Nat.reduceSub, BitVec.extractLsb'_eq_self]
  simp

theorem stgB64 (sw k d b x) : Statement (.stgB64 sw k d b x) := by
  intro h rest
  refine decodeWords_one ?_
  rw [decode, show fld _ 24 7 = 58#7 by simp (disch := decide) only [fld, flag, field_above, field_inside, Nat.reduceSub, BitVec.extractLsb'_eq_self]]
  show decode3A _ _ = _
  simp (disch := decide) only [decode3A, fld, flag, field_above, field_inside, Nat.reduceSub, BitVec.extractLsb'_eq_self]
  simp

theorem ldsB8 (sw d b i) : Statement (.ldsB8 sw d b i) := by
  intro h rest
  refine decodeWords_one ?_
  rw [decode, show fld _ 24 7 = 59#7 by simp (disch := decide) only [fld, flag, field_above, field_inside, Nat.reduceSub, BitVec.extractLsb'_eq_self]]
  show decode3B _ _ = _
  simp (disch := decide) only [decode3B, fld, flag, field_above, field_inside, Nat.reduceSub, BitVec.extractLsb'_eq_self]
  simp

theorem ldsB16 (sw d b i) : Statement (.ldsB16 sw d b i) := by
  intro h rest
  refine decodeWords_one ?_
  rw [decode, show fld _ 24 7 = 59#7 by simp (disch := decide) only [fld, flag, field_above, field_inside, Nat.reduceSub, BitVec.extractLsb'_eq_self]]
  show decode3B _ _ = _
  simp (disch := decide) only [decode3B, fld, flag, field_above, field_inside, Nat.reduceSub, BitVec.extractLsb'_eq_self]
  simp

theorem ldsB32 (sw d b i) : Statement (.ldsB32 sw d b i) := by
  intro h rest
  refine decodeWords_one ?_
  rw [decode, show fld _ 24 7 = 59#7 by simp (disch := decide) only [fld, flag, field_above, field_inside, Nat.reduceSub, BitVec.extractLsb'_eq_self]]
  show decode3B _ _ = _
  simp (disch := decide) only [decode3B, fld, flag, field_above, field_inside, Nat.reduceSub, BitVec.extractLsb'_eq_self]
  simp

theorem ldsB64 (sw d b i) : Statement (.ldsB64 sw d b i) := by
  intro h rest
  refine decodeWords_one ?_
  rw [decode, show fld _ 24 7 = 59#7 by simp (disch := decide) only [fld, flag, field_above, field_inside, Nat.reduceSub, BitVec.extractLsb'_eq_self]]
  show decode3B _ _ = _
  simp (disch := decide) only [decode3B, fld, flag, field_above, field_inside, Nat.reduceSub, BitVec.extractLsb'_eq_self]
  simp

theorem stsB8 (sw d b i) : Statement (.stsB8 sw d b i) := by
  intro h rest
  refine decodeWords_one ?_
  rw [decode, show fld _ 24 7 = 60#7 by simp (disch := decide) only [fld, flag, field_above, field_inside, Nat.reduceSub, BitVec.extractLsb'_eq_self]]
  show decode3C _ _ = _
  simp (disch := decide) only [decode3C, fld, flag, field_above, field_inside, Nat.reduceSub, BitVec.extractLsb'_eq_self]
  simp

theorem stsB16 (sw d b i) : Statement (.stsB16 sw d b i) := by
  intro h rest
  refine decodeWords_one ?_
  rw [decode, show fld _ 24 7 = 60#7 by simp (disch := decide) only [fld, flag, field_above, field_inside, Nat.reduceSub, BitVec.extractLsb'_eq_self]]
  show decode3C _ _ = _
  simp (disch := decide) only [decode3C, fld, flag, field_above, field_inside, Nat.reduceSub, BitVec.extractLsb'_eq_self]
  simp

theorem stsB32 (sw d b i) : Statement (.stsB32 sw d b i) := by
  intro h rest
  refine decodeWords_one ?_
  rw [decode, show fld _ 24 7 = 60#7 by simp (disch := decide) only [fld, flag, field_above, field_inside, Nat.reduceSub, BitVec.extractLsb'_eq_self]]
  show decode3C _ _ = _
  simp (disch := decide) only [decode3C, fld, flag, field_above, field_inside, Nat.reduceSub, BitVec.extractLsb'_eq_self]
  simp

theorem stsB64 (sw d b i) : Statement (.stsB64 sw d b i) := by
  intro h rest
  refine decodeWords_one ?_
  rw [decode, show fld _ 24 7 = 60#7 by simp (disch := decide) only [fld, flag, field_above, field_inside, Nat.reduceSub, BitVec.extractLsb'_eq_self]]
  show decode3C _ _ = _
  simp (disch := decide) only [decode3C, fld, flag, field_above, field_inside, Nat.reduceSub, BitVec.extractLsb'_eq_self]
  simp

theorem ldspB8 (sw k d b x) : Statement (.ldspB8 sw k d b x) := by
  intro h rest
  refine decodeWords_one ?_
  rw [decode, show fld _ 24 7 = 61#7 by simp (disch := decide) only [fld, flag, field_above, field_inside, Nat.reduceSub, BitVec.extractLsb'_eq_self]]
  show decode3D _ _ = _
  simp (disch := decide) only [decode3D, fld, flag, field_above, field_inside, Nat.reduceSub, BitVec.extractLsb'_eq_self]
  simp

theorem ldspB16 (sw k d b x) : Statement (.ldspB16 sw k d b x) := by
  intro h rest
  refine decodeWords_one ?_
  rw [decode, show fld _ 24 7 = 61#7 by simp (disch := decide) only [fld, flag, field_above, field_inside, Nat.reduceSub, BitVec.extractLsb'_eq_self]]
  show decode3D _ _ = _
  simp (disch := decide) only [decode3D, fld, flag, field_above, field_inside, Nat.reduceSub, BitVec.extractLsb'_eq_self]
  simp

theorem ldspB32 (sw k d b x) : Statement (.ldspB32 sw k d b x) := by
  intro h rest
  refine decodeWords_one ?_
  rw [decode, show fld _ 24 7 = 61#7 by simp (disch := decide) only [fld, flag, field_above, field_inside, Nat.reduceSub, BitVec.extractLsb'_eq_self]]
  show decode3D _ _ = _
  simp (disch := decide) only [decode3D, fld, flag, field_above, field_inside, Nat.reduceSub, BitVec.extractLsb'_eq_self]
  simp

theorem ldspB64 (sw k d b x) : Statement (.ldspB64 sw k d b x) := by
  intro h rest
  refine decodeWords_one ?_
  rw [decode, show fld _ 24 7 = 61#7 by simp (disch := decide) only [fld, flag, field_above, field_inside, Nat.reduceSub, BitVec.extractLsb'_eq_self]]
  show decode3D _ _ = _
  simp (disch := decide) only [decode3D, fld, flag, field_above, field_inside, Nat.reduceSub, BitVec.extractLsb'_eq_self]
  simp

theorem stspB8 (sw k d b x) : Statement (.stspB8 sw k d b x) := by
  intro h rest
  refine decodeWords_one ?_
  rw [decode, show fld _ 24 7 = 62#7 by simp (disch := decide) only [fld, flag, field_above, field_inside, Nat.reduceSub, BitVec.extractLsb'_eq_self]]
  show decode3E _ _ = _
  simp (disch := decide) only [decode3E, fld, flag, field_above, field_inside, Nat.reduceSub, BitVec.extractLsb'_eq_self]
  simp

theorem stspB16 (sw k d b x) : Statement (.stspB16 sw k d b x) := by
  intro h rest
  refine decodeWords_one ?_
  rw [decode, show fld _ 24 7 = 62#7 by simp (disch := decide) only [fld, flag, field_above, field_inside, Nat.reduceSub, BitVec.extractLsb'_eq_self]]
  show decode3E _ _ = _
  simp (disch := decide) only [decode3E, fld, flag, field_above, field_inside, Nat.reduceSub, BitVec.extractLsb'_eq_self]
  simp

theorem stspB32 (sw k d b x) : Statement (.stspB32 sw k d b x) := by
  intro h rest
  refine decodeWords_one ?_
  rw [decode, show fld _ 24 7 = 62#7 by simp (disch := decide) only [fld, flag, field_above, field_inside, Nat.reduceSub, BitVec.extractLsb'_eq_self]]
  show decode3E _ _ = _
  simp (disch := decide) only [decode3E, fld, flag, field_above, field_inside, Nat.reduceSub, BitVec.extractLsb'_eq_self]
  simp

theorem stspB64 (sw k d b x) : Statement (.stspB64 sw k d b x) := by
  intro h rest
  refine decodeWords_one ?_
  rw [decode, show fld _ 24 7 = 62#7 by simp (disch := decide) only [fld, flag, field_above, field_inside, Nat.reduceSub, BitVec.extractLsb'_eq_self]]
  show decode3E _ _ = _
  simp (disch := decide) only [decode3E, fld, flag, field_above, field_inside, Nat.reduceSub, BitVec.extractLsb'_eq_self]
  simp

theorem sldspB32 (sw d b i) : Statement (.sldspB32 sw d b i) := by
  intro h rest
  refine decodeWords_one ?_
  rw [decode, show fld _ 24 7 = 63#7 by simp (disch := decide) only [fld, flag, field_above, field_inside, Nat.reduceSub, BitVec.extractLsb'_eq_self]]
  show decode3F _ _ = _
  simp (disch := decide) only [decode3F, fld, flag, field_above, field_inside, Nat.reduceSub, BitVec.extractLsb'_eq_self]
  simp

theorem sldspB64 (sw d b i) : Statement (.sldspB64 sw d b i) := by
  intro h rest
  refine decodeWords_one ?_
  rw [decode, show fld _ 24 7 = 63#7 by simp (disch := decide) only [fld, flag, field_above, field_inside, Nat.reduceSub, BitVec.extractLsb'_eq_self]]
  show decode3F _ _ = _
  simp (disch := decide) only [decode3F, fld, flag, field_above, field_inside, Nat.reduceSub, BitVec.extractLsb'_eq_self]
  simp

theorem sstspB32 (sw d b i) : Statement (.sstspB32 sw d b i) := by
  intro h rest
  refine decodeWords_one ?_
  rw [decode, show fld _ 24 7 = 63#7 by simp (disch := decide) only [fld, flag, field_above, field_inside, Nat.reduceSub, BitVec.extractLsb'_eq_self]]
  show decode3F _ _ = _
  simp (disch := decide) only [decode3F, fld, flag, field_above, field_inside, Nat.reduceSub, BitVec.extractLsb'_eq_self]
  simp

theorem sstspB64 (sw d b i) : Statement (.sstspB64 sw d b i) := by
  intro h rest
  refine decodeWords_one ?_
  rw [decode, show fld _ 24 7 = 63#7 by simp (disch := decide) only [fld, flag, field_above, field_inside, Nat.reduceSub, BitVec.extractLsb'_eq_self]]
  show decode3F _ _ = _
  simp (disch := decide) only [decode3F, fld, flag, field_above, field_inside, Nat.reduceSub, BitVec.extractLsb'_eq_self]
  simp

theorem atomAddI32 (sw o c d a) : Statement (.atomAddI32 sw o c d a) := by
  intro h rest
  refine decodeWords_one ?_
  rw [decode, show fld _ 24 7 = 64#7 by simp (disch := decide) only [fld, flag, field_above, field_inside, Nat.reduceSub, BitVec.extractLsb'_eq_self]]
  show decode40 _ _ = _
  rw [decode40, show fld _ 20 4 = 0#4 by simp (disch := decide) only [fld, flag, field_above, field_inside, Nat.reduceSub, BitVec.extractLsb'_eq_self],
    show fld _ 0 1 = 0#1 by simp (disch := decide) only [fld, flag, field_above, field_inside, Nat.reduceSub, BitVec.extractLsb'_eq_self]]
  show Decoded.ok _ _ = _
  simp (disch := decide) only [fld, flag, field_above, field_inside, Nat.reduceSub, BitVec.extractLsb'_eq_self, bit_eq_one, Ord.ofCode_code, Scope.ofCode_code]

theorem atomAddF32 (sw o c d a) : Statement (.atomAddF32 sw o c d a) := by
  intro h rest
  refine decodeWords_one ?_
  rw [decode, show fld _ 24 7 = 64#7 by simp (disch := decide) only [fld, flag, field_above, field_inside, Nat.reduceSub, BitVec.extractLsb'_eq_self]]
  show decode40 _ _ = _
  rw [decode40, show fld _ 20 4 = 1#4 by simp (disch := decide) only [fld, flag, field_above, field_inside, Nat.reduceSub, BitVec.extractLsb'_eq_self],
    show fld _ 0 1 = 0#1 by simp (disch := decide) only [fld, flag, field_above, field_inside, Nat.reduceSub, BitVec.extractLsb'_eq_self]]
  show Decoded.ok _ _ = _
  simp (disch := decide) only [fld, flag, field_above, field_inside, Nat.reduceSub, BitVec.extractLsb'_eq_self, bit_eq_one, Ord.ofCode_code, Scope.ofCode_code]

theorem atomMinS32 (sw o c d a) : Statement (.atomMinS32 sw o c d a) := by
  intro h rest
  refine decodeWords_one ?_
  rw [decode, show fld _ 24 7 = 64#7 by simp (disch := decide) only [fld, flag, field_above, field_inside, Nat.reduceSub, BitVec.extractLsb'_eq_self]]
  show decode40 _ _ = _
  rw [decode40, show fld _ 20 4 = 2#4 by simp (disch := decide) only [fld, flag, field_above, field_inside, Nat.reduceSub, BitVec.extractLsb'_eq_self],
    show fld _ 0 1 = 0#1 by simp (disch := decide) only [fld, flag, field_above, field_inside, Nat.reduceSub, BitVec.extractLsb'_eq_self]]
  show Decoded.ok _ _ = _
  simp (disch := decide) only [fld, flag, field_above, field_inside, Nat.reduceSub, BitVec.extractLsb'_eq_self, bit_eq_one, Ord.ofCode_code, Scope.ofCode_code]

theorem atomMaxS32 (sw o c d a) : Statement (.atomMaxS32 sw o c d a) := by
  intro h rest
  refine decodeWords_one ?_
  rw [decode, show fld _ 24 7 = 64#7 by simp (disch := decide) only [fld, flag, field_above, field_inside, Nat.reduceSub, BitVec.extractLsb'_eq_self]]
  show decode40 _ _ = _
  rw [decode40, show fld _ 20 4 = 3#4 by simp (disch := decide) only [fld, flag, field_above, field_inside, Nat.reduceSub, BitVec.extractLsb'_eq_self],
    show fld _ 0 1 = 0#1 by simp (disch := decide) only [fld, flag, field_above, field_inside, Nat.reduceSub, BitVec.extractLsb'_eq_self]]
  show Decoded.ok _ _ = _
  simp (disch := decide) only [fld, flag, field_above, field_inside, Nat.reduceSub, BitVec.extractLsb'_eq_self, bit_eq_one, Ord.ofCode_code, Scope.ofCode_code]

theorem atomMinN32 (sw o c d a) : Statement (.atomMinN32 sw o c d a) := by
  intro h rest
  refine decodeWords_one ?_
  rw [decode, show fld _ 24 7 = 64#7 by simp (disch := decide) only [fld, flag, field_above, field_inside, Nat.reduceSub, BitVec.extractLsb'_eq_self]]
  show decode40 _ _ = _
  rw [decode40, show fld _ 20 4 = 4#4 by simp (disch := decide) only [fld, flag, field_above, field_inside, Nat.reduceSub, BitVec.extractLsb'_eq_self],
    show fld _ 0 1 = 0#1 by simp (disch := decide) only [fld, flag, field_above, field_inside, Nat.reduceSub, BitVec.extractLsb'_eq_self]]
  show Decoded.ok _ _ = _
  simp (disch := decide) only [fld, flag, field_above, field_inside, Nat.reduceSub, BitVec.extractLsb'_eq_self, bit_eq_one, Ord.ofCode_code, Scope.ofCode_code]

theorem atomMaxN32 (sw o c d a) : Statement (.atomMaxN32 sw o c d a) := by
  intro h rest
  refine decodeWords_one ?_
  rw [decode, show fld _ 24 7 = 64#7 by simp (disch := decide) only [fld, flag, field_above, field_inside, Nat.reduceSub, BitVec.extractLsb'_eq_self]]
  show decode40 _ _ = _
  rw [decode40, show fld _ 20 4 = 5#4 by simp (disch := decide) only [fld, flag, field_above, field_inside, Nat.reduceSub, BitVec.extractLsb'_eq_self],
    show fld _ 0 1 = 0#1 by simp (disch := decide) only [fld, flag, field_above, field_inside, Nat.reduceSub, BitVec.extractLsb'_eq_self]]
  show Decoded.ok _ _ = _
  simp (disch := decide) only [fld, flag, field_above, field_inside, Nat.reduceSub, BitVec.extractLsb'_eq_self, bit_eq_one, Ord.ofCode_code, Scope.ofCode_code]

theorem atomAnd (sw o c d a) : Statement (.atomAnd sw o c d a) := by
  intro h rest
  refine decodeWords_one ?_
  rw [decode, show fld _ 24 7 = 64#7 by simp (disch := decide) only [fld, flag, field_above, field_inside, Nat.reduceSub, BitVec.extractLsb'_eq_self]]
  show decode40 _ _ = _
  rw [decode40, show fld _ 20 4 = 6#4 by simp (disch := decide) only [fld, flag, field_above, field_inside, Nat.reduceSub, BitVec.extractLsb'_eq_self],
    show fld _ 0 1 = 0#1 by simp (disch := decide) only [fld, flag, field_above, field_inside, Nat.reduceSub, BitVec.extractLsb'_eq_self]]
  show Decoded.ok _ _ = _
  simp (disch := decide) only [fld, flag, field_above, field_inside, Nat.reduceSub, BitVec.extractLsb'_eq_self, bit_eq_one, Ord.ofCode_code, Scope.ofCode_code]

theorem atomOr (sw o c d a) : Statement (.atomOr sw o c d a) := by
  intro h rest
  refine decodeWords_one ?_
  rw [decode, show fld _ 24 7 = 64#7 by simp (disch := decide) only [fld, flag, field_above, field_inside, Nat.reduceSub, BitVec.extractLsb'_eq_self]]
  show decode40 _ _ = _
  rw [decode40, show fld _ 20 4 = 7#4 by simp (disch := decide) only [fld, flag, field_above, field_inside, Nat.reduceSub, BitVec.extractLsb'_eq_self],
    show fld _ 0 1 = 0#1 by simp (disch := decide) only [fld, flag, field_above, field_inside, Nat.reduceSub, BitVec.extractLsb'_eq_self]]
  show Decoded.ok _ _ = _
  simp (disch := decide) only [fld, flag, field_above, field_inside, Nat.reduceSub, BitVec.extractLsb'_eq_self, bit_eq_one, Ord.ofCode_code, Scope.ofCode_code]

theorem atomXor (sw o c d a) : Statement (.atomXor sw o c d a) := by
  intro h rest
  refine decodeWords_one ?_
  rw [decode, show fld _ 24 7 = 64#7 by simp (disch := decide) only [fld, flag, field_above, field_inside, Nat.reduceSub, BitVec.extractLsb'_eq_self]]
  show decode40 _ _ = _
  rw [decode40, show fld _ 20 4 = 8#4 by simp (disch := decide) only [fld, flag, field_above, field_inside, Nat.reduceSub, BitVec.extractLsb'_eq_self],
    show fld _ 0 1 = 0#1 by simp (disch := decide) only [fld, flag, field_above, field_inside, Nat.reduceSub, BitVec.extractLsb'_eq_self]]
  show Decoded.ok _ _ = _
  simp (disch := decide) only [fld, flag, field_above, field_inside, Nat.reduceSub, BitVec.extractLsb'_eq_self, bit_eq_one, Ord.ofCode_code, Scope.ofCode_code]

theorem atomExch (sw o c d a) : Statement (.atomExch sw o c d a) := by
  intro h rest
  refine decodeWords_one ?_
  rw [decode, show fld _ 24 7 = 64#7 by simp (disch := decide) only [fld, flag, field_above, field_inside, Nat.reduceSub, BitVec.extractLsb'_eq_self]]
  show decode40 _ _ = _
  rw [decode40, show fld _ 20 4 = 9#4 by simp (disch := decide) only [fld, flag, field_above, field_inside, Nat.reduceSub, BitVec.extractLsb'_eq_self],
    show fld _ 0 1 = 0#1 by simp (disch := decide) only [fld, flag, field_above, field_inside, Nat.reduceSub, BitVec.extractLsb'_eq_self]]
  show Decoded.ok _ _ = _
  simp (disch := decide) only [fld, flag, field_above, field_inside, Nat.reduceSub, BitVec.extractLsb'_eq_self, bit_eq_one, Ord.ofCode_code, Scope.ofCode_code]

theorem atomCas (sw o c d a) : Statement (.atomCas sw o c d a) := by
  intro h rest
  refine decodeWords_one ?_
  rw [decode, show fld _ 24 7 = 64#7 by simp (disch := decide) only [fld, flag, field_above, field_inside, Nat.reduceSub, BitVec.extractLsb'_eq_self]]
  show decode40 _ _ = _
  rw [decode40, show fld _ 20 4 = 10#4 by simp (disch := decide) only [fld, flag, field_above, field_inside, Nat.reduceSub, BitVec.extractLsb'_eq_self],
    show fld _ 0 1 = 0#1 by simp (disch := decide) only [fld, flag, field_above, field_inside, Nat.reduceSub, BitVec.extractLsb'_eq_self]]
  show Decoded.ok _ _ = _
  simp (disch := decide) only [fld, flag, field_above, field_inside, Nat.reduceSub, BitVec.extractLsb'_eq_self, bit_eq_one, Ord.ofCode_code, Scope.ofCode_code]

theorem atomMaxi (sw o c d a) : Statement (.atomMaxi sw o c d a) := by
  intro h rest
  refine decodeWords_one ?_
  rw [decode, show fld _ 24 7 = 64#7 by simp (disch := decide) only [fld, flag, field_above, field_inside, Nat.reduceSub, BitVec.extractLsb'_eq_self]]
  show decode40 _ _ = _
  rw [decode40, show fld _ 20 4 = 11#4 by simp (disch := decide) only [fld, flag, field_above, field_inside, Nat.reduceSub, BitVec.extractLsb'_eq_self],
    show fld _ 0 1 = 0#1 by simp (disch := decide) only [fld, flag, field_above, field_inside, Nat.reduceSub, BitVec.extractLsb'_eq_self]]
  show Decoded.ok _ _ = _
  simp (disch := decide) only [fld, flag, field_above, field_inside, Nat.reduceSub, BitVec.extractLsb'_eq_self, bit_eq_one, Ord.ofCode_code, Scope.ofCode_code]

theorem atomAddF16x2 (sw o c d a) : Statement (.atomAddF16x2 sw o c d a) := by
  intro h rest
  refine decodeWords_one ?_
  rw [decode, show fld _ 24 7 = 64#7 by simp (disch := decide) only [fld, flag, field_above, field_inside, Nat.reduceSub, BitVec.extractLsb'_eq_self]]
  show decode40 _ _ = _
  rw [decode40, show fld _ 20 4 = 12#4 by simp (disch := decide) only [fld, flag, field_above, field_inside, Nat.reduceSub, BitVec.extractLsb'_eq_self],
    show fld _ 0 1 = 0#1 by simp (disch := decide) only [fld, flag, field_above, field_inside, Nat.reduceSub, BitVec.extractLsb'_eq_self]]
  show Decoded.ok _ _ = _
  simp (disch := decide) only [fld, flag, field_above, field_inside, Nat.reduceSub, BitVec.extractLsb'_eq_self, bit_eq_one, Ord.ofCode_code, Scope.ofCode_code]

theorem atomAddI64 (sw o c d a) : Statement (.atomAddI64 sw o c d a) := by
  intro h rest
  refine decodeWords_one ?_
  rw [decode, show fld _ 24 7 = 64#7 by simp (disch := decide) only [fld, flag, field_above, field_inside, Nat.reduceSub, BitVec.extractLsb'_eq_self]]
  show decode40 _ _ = _
  rw [decode40, show fld _ 20 4 = 13#4 by simp (disch := decide) only [fld, flag, field_above, field_inside, Nat.reduceSub, BitVec.extractLsb'_eq_self],
    show fld _ 0 1 = 0#1 by simp (disch := decide) only [fld, flag, field_above, field_inside, Nat.reduceSub, BitVec.extractLsb'_eq_self]]
  show Decoded.ok _ _ = _
  simp (disch := decide) only [fld, flag, field_above, field_inside, Nat.reduceSub, BitVec.extractLsb'_eq_self, bit_eq_one, Ord.ofCode_code, Scope.ofCode_code]

theorem atomsAddI32 (sw o c d a) : Statement (.atomsAddI32 sw o c d a) := by
  intro h rest
  refine decodeWords_one ?_
  rw [decode, show fld _ 24 7 = 65#7 by simp (disch := decide) only [fld, flag, field_above, field_inside, Nat.reduceSub, BitVec.extractLsb'_eq_self]]
  show decode41 _ _ = _
  rw [decode41, show fld _ 20 4 = 0#4 by simp (disch := decide) only [fld, flag, field_above, field_inside, Nat.reduceSub, BitVec.extractLsb'_eq_self],
    show fld _ 0 1 = 0#1 by simp (disch := decide) only [fld, flag, field_above, field_inside, Nat.reduceSub, BitVec.extractLsb'_eq_self]]
  show Decoded.ok _ _ = _
  simp (disch := decide) only [fld, flag, field_above, field_inside, Nat.reduceSub, BitVec.extractLsb'_eq_self, bit_eq_one, Ord.ofCode_code, Scope.ofCode_code]

theorem atomsAddF32 (sw o c d a) : Statement (.atomsAddF32 sw o c d a) := by
  intro h rest
  refine decodeWords_one ?_
  rw [decode, show fld _ 24 7 = 65#7 by simp (disch := decide) only [fld, flag, field_above, field_inside, Nat.reduceSub, BitVec.extractLsb'_eq_self]]
  show decode41 _ _ = _
  rw [decode41, show fld _ 20 4 = 1#4 by simp (disch := decide) only [fld, flag, field_above, field_inside, Nat.reduceSub, BitVec.extractLsb'_eq_self],
    show fld _ 0 1 = 0#1 by simp (disch := decide) only [fld, flag, field_above, field_inside, Nat.reduceSub, BitVec.extractLsb'_eq_self]]
  show Decoded.ok _ _ = _
  simp (disch := decide) only [fld, flag, field_above, field_inside, Nat.reduceSub, BitVec.extractLsb'_eq_self, bit_eq_one, Ord.ofCode_code, Scope.ofCode_code]

theorem atomsMinS32 (sw o c d a) : Statement (.atomsMinS32 sw o c d a) := by
  intro h rest
  refine decodeWords_one ?_
  rw [decode, show fld _ 24 7 = 65#7 by simp (disch := decide) only [fld, flag, field_above, field_inside, Nat.reduceSub, BitVec.extractLsb'_eq_self]]
  show decode41 _ _ = _
  rw [decode41, show fld _ 20 4 = 2#4 by simp (disch := decide) only [fld, flag, field_above, field_inside, Nat.reduceSub, BitVec.extractLsb'_eq_self],
    show fld _ 0 1 = 0#1 by simp (disch := decide) only [fld, flag, field_above, field_inside, Nat.reduceSub, BitVec.extractLsb'_eq_self]]
  show Decoded.ok _ _ = _
  simp (disch := decide) only [fld, flag, field_above, field_inside, Nat.reduceSub, BitVec.extractLsb'_eq_self, bit_eq_one, Ord.ofCode_code, Scope.ofCode_code]

theorem atomsMaxS32 (sw o c d a) : Statement (.atomsMaxS32 sw o c d a) := by
  intro h rest
  refine decodeWords_one ?_
  rw [decode, show fld _ 24 7 = 65#7 by simp (disch := decide) only [fld, flag, field_above, field_inside, Nat.reduceSub, BitVec.extractLsb'_eq_self]]
  show decode41 _ _ = _
  rw [decode41, show fld _ 20 4 = 3#4 by simp (disch := decide) only [fld, flag, field_above, field_inside, Nat.reduceSub, BitVec.extractLsb'_eq_self],
    show fld _ 0 1 = 0#1 by simp (disch := decide) only [fld, flag, field_above, field_inside, Nat.reduceSub, BitVec.extractLsb'_eq_self]]
  show Decoded.ok _ _ = _
  simp (disch := decide) only [fld, flag, field_above, field_inside, Nat.reduceSub, BitVec.extractLsb'_eq_self, bit_eq_one, Ord.ofCode_code, Scope.ofCode_code]

theorem atomsMinN32 (sw o c d a) : Statement (.atomsMinN32 sw o c d a) := by
  intro h rest
  refine decodeWords_one ?_
  rw [decode, show fld _ 24 7 = 65#7 by simp (disch := decide) only [fld, flag, field_above, field_inside, Nat.reduceSub, BitVec.extractLsb'_eq_self]]
  show decode41 _ _ = _
  rw [decode41, show fld _ 20 4 = 4#4 by simp (disch := decide) only [fld, flag, field_above, field_inside, Nat.reduceSub, BitVec.extractLsb'_eq_self],
    show fld _ 0 1 = 0#1 by simp (disch := decide) only [fld, flag, field_above, field_inside, Nat.reduceSub, BitVec.extractLsb'_eq_self]]
  show Decoded.ok _ _ = _
  simp (disch := decide) only [fld, flag, field_above, field_inside, Nat.reduceSub, BitVec.extractLsb'_eq_self, bit_eq_one, Ord.ofCode_code, Scope.ofCode_code]

theorem atomsMaxN32 (sw o c d a) : Statement (.atomsMaxN32 sw o c d a) := by
  intro h rest
  refine decodeWords_one ?_
  rw [decode, show fld _ 24 7 = 65#7 by simp (disch := decide) only [fld, flag, field_above, field_inside, Nat.reduceSub, BitVec.extractLsb'_eq_self]]
  show decode41 _ _ = _
  rw [decode41, show fld _ 20 4 = 5#4 by simp (disch := decide) only [fld, flag, field_above, field_inside, Nat.reduceSub, BitVec.extractLsb'_eq_self],
    show fld _ 0 1 = 0#1 by simp (disch := decide) only [fld, flag, field_above, field_inside, Nat.reduceSub, BitVec.extractLsb'_eq_self]]
  show Decoded.ok _ _ = _
  simp (disch := decide) only [fld, flag, field_above, field_inside, Nat.reduceSub, BitVec.extractLsb'_eq_self, bit_eq_one, Ord.ofCode_code, Scope.ofCode_code]

theorem atomsAnd (sw o c d a) : Statement (.atomsAnd sw o c d a) := by
  intro h rest
  refine decodeWords_one ?_
  rw [decode, show fld _ 24 7 = 65#7 by simp (disch := decide) only [fld, flag, field_above, field_inside, Nat.reduceSub, BitVec.extractLsb'_eq_self]]
  show decode41 _ _ = _
  rw [decode41, show fld _ 20 4 = 6#4 by simp (disch := decide) only [fld, flag, field_above, field_inside, Nat.reduceSub, BitVec.extractLsb'_eq_self],
    show fld _ 0 1 = 0#1 by simp (disch := decide) only [fld, flag, field_above, field_inside, Nat.reduceSub, BitVec.extractLsb'_eq_self]]
  show Decoded.ok _ _ = _
  simp (disch := decide) only [fld, flag, field_above, field_inside, Nat.reduceSub, BitVec.extractLsb'_eq_self, bit_eq_one, Ord.ofCode_code, Scope.ofCode_code]

theorem atomsOr (sw o c d a) : Statement (.atomsOr sw o c d a) := by
  intro h rest
  refine decodeWords_one ?_
  rw [decode, show fld _ 24 7 = 65#7 by simp (disch := decide) only [fld, flag, field_above, field_inside, Nat.reduceSub, BitVec.extractLsb'_eq_self]]
  show decode41 _ _ = _
  rw [decode41, show fld _ 20 4 = 7#4 by simp (disch := decide) only [fld, flag, field_above, field_inside, Nat.reduceSub, BitVec.extractLsb'_eq_self],
    show fld _ 0 1 = 0#1 by simp (disch := decide) only [fld, flag, field_above, field_inside, Nat.reduceSub, BitVec.extractLsb'_eq_self]]
  show Decoded.ok _ _ = _
  simp (disch := decide) only [fld, flag, field_above, field_inside, Nat.reduceSub, BitVec.extractLsb'_eq_self, bit_eq_one, Ord.ofCode_code, Scope.ofCode_code]

theorem atomsXor (sw o c d a) : Statement (.atomsXor sw o c d a) := by
  intro h rest
  refine decodeWords_one ?_
  rw [decode, show fld _ 24 7 = 65#7 by simp (disch := decide) only [fld, flag, field_above, field_inside, Nat.reduceSub, BitVec.extractLsb'_eq_self]]
  show decode41 _ _ = _
  rw [decode41, show fld _ 20 4 = 8#4 by simp (disch := decide) only [fld, flag, field_above, field_inside, Nat.reduceSub, BitVec.extractLsb'_eq_self],
    show fld _ 0 1 = 0#1 by simp (disch := decide) only [fld, flag, field_above, field_inside, Nat.reduceSub, BitVec.extractLsb'_eq_self]]
  show Decoded.ok _ _ = _
  simp (disch := decide) only [fld, flag, field_above, field_inside, Nat.reduceSub, BitVec.extractLsb'_eq_self, bit_eq_one, Ord.ofCode_code, Scope.ofCode_code]

theorem atomsExch (sw o c d a) : Statement (.atomsExch sw o c d a) := by
  intro h rest
  refine decodeWords_one ?_
  rw [decode, show fld _ 24 7 = 65#7 by simp (disch := decide) only [fld, flag, field_above, field_inside, Nat.reduceSub, BitVec.extractLsb'_eq_self]]
  show decode41 _ _ = _
  rw [decode41, show fld _ 20 4 = 9#4 by simp (disch := decide) only [fld, flag, field_above, field_inside, Nat.reduceSub, BitVec.extractLsb'_eq_self],
    show fld _ 0 1 = 0#1 by simp (disch := decide) only [fld, flag, field_above, field_inside, Nat.reduceSub, BitVec.extractLsb'_eq_self]]
  show Decoded.ok _ _ = _
  simp (disch := decide) only [fld, flag, field_above, field_inside, Nat.reduceSub, BitVec.extractLsb'_eq_self, bit_eq_one, Ord.ofCode_code, Scope.ofCode_code]

theorem atomsCas (sw o c d a) : Statement (.atomsCas sw o c d a) := by
  intro h rest
  refine decodeWords_one ?_
  rw [decode, show fld _ 24 7 = 65#7 by simp (disch := decide) only [fld, flag, field_above, field_inside, Nat.reduceSub, BitVec.extractLsb'_eq_self]]
  show decode41 _ _ = _
  rw [decode41, show fld _ 20 4 = 10#4 by simp (disch := decide) only [fld, flag, field_above, field_inside, Nat.reduceSub, BitVec.extractLsb'_eq_self],
    show fld _ 0 1 = 0#1 by simp (disch := decide) only [fld, flag, field_above, field_inside, Nat.reduceSub, BitVec.extractLsb'_eq_self]]
  show Decoded.ok _ _ = _
  simp (disch := decide) only [fld, flag, field_above, field_inside, Nat.reduceSub, BitVec.extractLsb'_eq_self, bit_eq_one, Ord.ofCode_code, Scope.ofCode_code]

theorem atomsMaxi (sw o c d a) : Statement (.atomsMaxi sw o c d a) := by
  intro h rest
  refine decodeWords_one ?_
  rw [decode, show fld _ 24 7 = 65#7 by simp (disch := decide) only [fld, flag, field_above, field_inside, Nat.reduceSub, BitVec.extractLsb'_eq_self]]
  show decode41 _ _ = _
  rw [decode41, show fld _ 20 4 = 11#4 by simp (disch := decide) only [fld, flag, field_above, field_inside, Nat.reduceSub, BitVec.extractLsb'_eq_self],
    show fld _ 0 1 = 0#1 by simp (disch := decide) only [fld, flag, field_above, field_inside, Nat.reduceSub, BitVec.extractLsb'_eq_self]]
  show Decoded.ok _ _ = _
  simp (disch := decide) only [fld, flag, field_above, field_inside, Nat.reduceSub, BitVec.extractLsb'_eq_self, bit_eq_one, Ord.ofCode_code, Scope.ofCode_code]

theorem atomsAddF16x2 (sw o c d a) : Statement (.atomsAddF16x2 sw o c d a) := by
  intro h rest
  refine decodeWords_one ?_
  rw [decode, show fld _ 24 7 = 65#7 by simp (disch := decide) only [fld, flag, field_above, field_inside, Nat.reduceSub, BitVec.extractLsb'_eq_self]]
  show decode41 _ _ = _
  rw [decode41, show fld _ 20 4 = 12#4 by simp (disch := decide) only [fld, flag, field_above, field_inside, Nat.reduceSub, BitVec.extractLsb'_eq_self],
    show fld _ 0 1 = 0#1 by simp (disch := decide) only [fld, flag, field_above, field_inside, Nat.reduceSub, BitVec.extractLsb'_eq_self]]
  show Decoded.ok _ _ = _
  simp (disch := decide) only [fld, flag, field_above, field_inside, Nat.reduceSub, BitVec.extractLsb'_eq_self, bit_eq_one, Ord.ofCode_code, Scope.ofCode_code]

theorem atomsAddI64 (sw o c d a) : Statement (.atomsAddI64 sw o c d a) := by
  intro h rest
  refine decodeWords_one ?_
  rw [decode, show fld _ 24 7 = 65#7 by simp (disch := decide) only [fld, flag, field_above, field_inside, Nat.reduceSub, BitVec.extractLsb'_eq_self]]
  show decode41 _ _ = _
  rw [decode41, show fld _ 20 4 = 13#4 by simp (disch := decide) only [fld, flag, field_above, field_inside, Nat.reduceSub, BitVec.extractLsb'_eq_self],
    show fld _ 0 1 = 0#1 by simp (disch := decide) only [fld, flag, field_above, field_inside, Nat.reduceSub, BitVec.extractLsb'_eq_self]]
  show Decoded.ok _ _ = _
  simp (disch := decide) only [fld, flag, field_above, field_inside, Nat.reduceSub, BitVec.extractLsb'_eq_self, bit_eq_one, Ord.ofCode_code, Scope.ofCode_code]

theorem redAddI32 (sw o c d a) : Statement (.redAddI32 sw o c d a) := by
  intro h rest
  refine decodeWords_one ?_
  rw [decode, show fld _ 24 7 = 66#7 by simp (disch := decide) only [fld, flag, field_above, field_inside, Nat.reduceSub, BitVec.extractLsb'_eq_self]]
  show decode42 _ _ = _
  rw [decode42, show fld _ 20 4 = 0#4 by simp (disch := decide) only [fld, flag, field_above, field_inside, Nat.reduceSub, BitVec.extractLsb'_eq_self],
    show fld _ 0 1 = 0#1 by simp (disch := decide) only [fld, flag, field_above, field_inside, Nat.reduceSub, BitVec.extractLsb'_eq_self]]
  show Decoded.ok _ _ = _
  simp (disch := decide) only [fld, flag, field_above, field_inside, Nat.reduceSub, BitVec.extractLsb'_eq_self, bit_eq_one, Ord.ofCode_code, Scope.ofCode_code]

theorem redAddF32 (sw o c d a) : Statement (.redAddF32 sw o c d a) := by
  intro h rest
  refine decodeWords_one ?_
  rw [decode, show fld _ 24 7 = 66#7 by simp (disch := decide) only [fld, flag, field_above, field_inside, Nat.reduceSub, BitVec.extractLsb'_eq_self]]
  show decode42 _ _ = _
  rw [decode42, show fld _ 20 4 = 1#4 by simp (disch := decide) only [fld, flag, field_above, field_inside, Nat.reduceSub, BitVec.extractLsb'_eq_self],
    show fld _ 0 1 = 0#1 by simp (disch := decide) only [fld, flag, field_above, field_inside, Nat.reduceSub, BitVec.extractLsb'_eq_self]]
  show Decoded.ok _ _ = _
  simp (disch := decide) only [fld, flag, field_above, field_inside, Nat.reduceSub, BitVec.extractLsb'_eq_self, bit_eq_one, Ord.ofCode_code, Scope.ofCode_code]

theorem redMinS32 (sw o c d a) : Statement (.redMinS32 sw o c d a) := by
  intro h rest
  refine decodeWords_one ?_
  rw [decode, show fld _ 24 7 = 66#7 by simp (disch := decide) only [fld, flag, field_above, field_inside, Nat.reduceSub, BitVec.extractLsb'_eq_self]]
  show decode42 _ _ = _
  rw [decode42, show fld _ 20 4 = 2#4 by simp (disch := decide) only [fld, flag, field_above, field_inside, Nat.reduceSub, BitVec.extractLsb'_eq_self],
    show fld _ 0 1 = 0#1 by simp (disch := decide) only [fld, flag, field_above, field_inside, Nat.reduceSub, BitVec.extractLsb'_eq_self]]
  show Decoded.ok _ _ = _
  simp (disch := decide) only [fld, flag, field_above, field_inside, Nat.reduceSub, BitVec.extractLsb'_eq_self, bit_eq_one, Ord.ofCode_code, Scope.ofCode_code]

theorem redMaxS32 (sw o c d a) : Statement (.redMaxS32 sw o c d a) := by
  intro h rest
  refine decodeWords_one ?_
  rw [decode, show fld _ 24 7 = 66#7 by simp (disch := decide) only [fld, flag, field_above, field_inside, Nat.reduceSub, BitVec.extractLsb'_eq_self]]
  show decode42 _ _ = _
  rw [decode42, show fld _ 20 4 = 3#4 by simp (disch := decide) only [fld, flag, field_above, field_inside, Nat.reduceSub, BitVec.extractLsb'_eq_self],
    show fld _ 0 1 = 0#1 by simp (disch := decide) only [fld, flag, field_above, field_inside, Nat.reduceSub, BitVec.extractLsb'_eq_self]]
  show Decoded.ok _ _ = _
  simp (disch := decide) only [fld, flag, field_above, field_inside, Nat.reduceSub, BitVec.extractLsb'_eq_self, bit_eq_one, Ord.ofCode_code, Scope.ofCode_code]

theorem redMinN32 (sw o c d a) : Statement (.redMinN32 sw o c d a) := by
  intro h rest
  refine decodeWords_one ?_
  rw [decode, show fld _ 24 7 = 66#7 by simp (disch := decide) only [fld, flag, field_above, field_inside, Nat.reduceSub, BitVec.extractLsb'_eq_self]]
  show decode42 _ _ = _
  rw [decode42, show fld _ 20 4 = 4#4 by simp (disch := decide) only [fld, flag, field_above, field_inside, Nat.reduceSub, BitVec.extractLsb'_eq_self],
    show fld _ 0 1 = 0#1 by simp (disch := decide) only [fld, flag, field_above, field_inside, Nat.reduceSub, BitVec.extractLsb'_eq_self]]
  show Decoded.ok _ _ = _
  simp (disch := decide) only [fld, flag, field_above, field_inside, Nat.reduceSub, BitVec.extractLsb'_eq_self, bit_eq_one, Ord.ofCode_code, Scope.ofCode_code]

theorem redMaxN32 (sw o c d a) : Statement (.redMaxN32 sw o c d a) := by
  intro h rest
  refine decodeWords_one ?_
  rw [decode, show fld _ 24 7 = 66#7 by simp (disch := decide) only [fld, flag, field_above, field_inside, Nat.reduceSub, BitVec.extractLsb'_eq_self]]
  show decode42 _ _ = _
  rw [decode42, show fld _ 20 4 = 5#4 by simp (disch := decide) only [fld, flag, field_above, field_inside, Nat.reduceSub, BitVec.extractLsb'_eq_self],
    show fld _ 0 1 = 0#1 by simp (disch := decide) only [fld, flag, field_above, field_inside, Nat.reduceSub, BitVec.extractLsb'_eq_self]]
  show Decoded.ok _ _ = _
  simp (disch := decide) only [fld, flag, field_above, field_inside, Nat.reduceSub, BitVec.extractLsb'_eq_self, bit_eq_one, Ord.ofCode_code, Scope.ofCode_code]

theorem redAnd (sw o c d a) : Statement (.redAnd sw o c d a) := by
  intro h rest
  refine decodeWords_one ?_
  rw [decode, show fld _ 24 7 = 66#7 by simp (disch := decide) only [fld, flag, field_above, field_inside, Nat.reduceSub, BitVec.extractLsb'_eq_self]]
  show decode42 _ _ = _
  rw [decode42, show fld _ 20 4 = 6#4 by simp (disch := decide) only [fld, flag, field_above, field_inside, Nat.reduceSub, BitVec.extractLsb'_eq_self],
    show fld _ 0 1 = 0#1 by simp (disch := decide) only [fld, flag, field_above, field_inside, Nat.reduceSub, BitVec.extractLsb'_eq_self]]
  show Decoded.ok _ _ = _
  simp (disch := decide) only [fld, flag, field_above, field_inside, Nat.reduceSub, BitVec.extractLsb'_eq_self, bit_eq_one, Ord.ofCode_code, Scope.ofCode_code]

theorem redOr (sw o c d a) : Statement (.redOr sw o c d a) := by
  intro h rest
  refine decodeWords_one ?_
  rw [decode, show fld _ 24 7 = 66#7 by simp (disch := decide) only [fld, flag, field_above, field_inside, Nat.reduceSub, BitVec.extractLsb'_eq_self]]
  show decode42 _ _ = _
  rw [decode42, show fld _ 20 4 = 7#4 by simp (disch := decide) only [fld, flag, field_above, field_inside, Nat.reduceSub, BitVec.extractLsb'_eq_self],
    show fld _ 0 1 = 0#1 by simp (disch := decide) only [fld, flag, field_above, field_inside, Nat.reduceSub, BitVec.extractLsb'_eq_self]]
  show Decoded.ok _ _ = _
  simp (disch := decide) only [fld, flag, field_above, field_inside, Nat.reduceSub, BitVec.extractLsb'_eq_self, bit_eq_one, Ord.ofCode_code, Scope.ofCode_code]

theorem redXor (sw o c d a) : Statement (.redXor sw o c d a) := by
  intro h rest
  refine decodeWords_one ?_
  rw [decode, show fld _ 24 7 = 66#7 by simp (disch := decide) only [fld, flag, field_above, field_inside, Nat.reduceSub, BitVec.extractLsb'_eq_self]]
  show decode42 _ _ = _
  rw [decode42, show fld _ 20 4 = 8#4 by simp (disch := decide) only [fld, flag, field_above, field_inside, Nat.reduceSub, BitVec.extractLsb'_eq_self],
    show fld _ 0 1 = 0#1 by simp (disch := decide) only [fld, flag, field_above, field_inside, Nat.reduceSub, BitVec.extractLsb'_eq_self]]
  show Decoded.ok _ _ = _
  simp (disch := decide) only [fld, flag, field_above, field_inside, Nat.reduceSub, BitVec.extractLsb'_eq_self, bit_eq_one, Ord.ofCode_code, Scope.ofCode_code]

theorem redMaxi (sw o c d a) : Statement (.redMaxi sw o c d a) := by
  intro h rest
  refine decodeWords_one ?_
  rw [decode, show fld _ 24 7 = 66#7 by simp (disch := decide) only [fld, flag, field_above, field_inside, Nat.reduceSub, BitVec.extractLsb'_eq_self]]
  show decode42 _ _ = _
  rw [decode42, show fld _ 20 4 = 11#4 by simp (disch := decide) only [fld, flag, field_above, field_inside, Nat.reduceSub, BitVec.extractLsb'_eq_self],
    show fld _ 0 1 = 0#1 by simp (disch := decide) only [fld, flag, field_above, field_inside, Nat.reduceSub, BitVec.extractLsb'_eq_self]]
  show Decoded.ok _ _ = _
  simp (disch := decide) only [fld, flag, field_above, field_inside, Nat.reduceSub, BitVec.extractLsb'_eq_self, bit_eq_one, Ord.ofCode_code, Scope.ofCode_code]

theorem redAddF16x2 (sw o c d a) : Statement (.redAddF16x2 sw o c d a) := by
  intro h rest
  refine decodeWords_one ?_
  rw [decode, show fld _ 24 7 = 66#7 by simp (disch := decide) only [fld, flag, field_above, field_inside, Nat.reduceSub, BitVec.extractLsb'_eq_self]]
  show decode42 _ _ = _
  rw [decode42, show fld _ 20 4 = 12#4 by simp (disch := decide) only [fld, flag, field_above, field_inside, Nat.reduceSub, BitVec.extractLsb'_eq_self],
    show fld _ 0 1 = 0#1 by simp (disch := decide) only [fld, flag, field_above, field_inside, Nat.reduceSub, BitVec.extractLsb'_eq_self]]
  show Decoded.ok _ _ = _
  simp (disch := decide) only [fld, flag, field_above, field_inside, Nat.reduceSub, BitVec.extractLsb'_eq_self, bit_eq_one, Ord.ofCode_code, Scope.ofCode_code]

theorem redAddI64 (sw o c d a) : Statement (.redAddI64 sw o c d a) := by
  intro h rest
  refine decodeWords_one ?_
  rw [decode, show fld _ 24 7 = 66#7 by simp (disch := decide) only [fld, flag, field_above, field_inside, Nat.reduceSub, BitVec.extractLsb'_eq_self]]
  show decode42 _ _ = _
  rw [decode42, show fld _ 20 4 = 13#4 by simp (disch := decide) only [fld, flag, field_above, field_inside, Nat.reduceSub, BitVec.extractLsb'_eq_self],
    show fld _ 0 1 = 0#1 by simp (disch := decide) only [fld, flag, field_above, field_inside, Nat.reduceSub, BitVec.extractLsb'_eq_self]]
  show Decoded.ok _ _ = _
  simp (disch := decide) only [fld, flag, field_above, field_inside, Nat.reduceSub, BitVec.extractLsb'_eq_self, bit_eq_one, Ord.ofCode_code, Scope.ofCode_code]

theorem ldaB16 (sw o c d a) : Statement (.ldaB16 sw o c d a) := by
  intro h rest
  refine decodeWords_one ?_
  rw [decode, show fld _ 24 7 = 67#7 by simp (disch := decide) only [fld, flag, field_above, field_inside, Nat.reduceSub, BitVec.extractLsb'_eq_self]]
  show decode43 _ _ = _
  simp (disch := decide) only [decode43, fld, flag, field_above, field_inside, Nat.reduceSub, BitVec.extractLsb'_eq_self]
  simp

theorem ldaB32 (sw o c d a) : Statement (.ldaB32 sw o c d a) := by
  intro h rest
  refine decodeWords_one ?_
  rw [decode, show fld _ 24 7 = 67#7 by simp (disch := decide) only [fld, flag, field_above, field_inside, Nat.reduceSub, BitVec.extractLsb'_eq_self]]
  show decode43 _ _ = _
  simp (disch := decide) only [decode43, fld, flag, field_above, field_inside, Nat.reduceSub, BitVec.extractLsb'_eq_self]
  simp

theorem ldaB64 (sw o c d a) : Statement (.ldaB64 sw o c d a) := by
  intro h rest
  refine decodeWords_one ?_
  rw [decode, show fld _ 24 7 = 67#7 by simp (disch := decide) only [fld, flag, field_above, field_inside, Nat.reduceSub, BitVec.extractLsb'_eq_self]]
  show decode43 _ _ = _
  simp (disch := decide) only [decode43, fld, flag, field_above, field_inside, Nat.reduceSub, BitVec.extractLsb'_eq_self]
  simp

theorem stlB16 (sw o c d a) : Statement (.stlB16 sw o c d a) := by
  intro h rest
  refine decodeWords_one ?_
  rw [decode, show fld _ 24 7 = 68#7 by simp (disch := decide) only [fld, flag, field_above, field_inside, Nat.reduceSub, BitVec.extractLsb'_eq_self]]
  show decode44 _ _ = _
  simp (disch := decide) only [decode44, fld, flag, field_above, field_inside, Nat.reduceSub, BitVec.extractLsb'_eq_self]
  simp

theorem stlB32 (sw o c d a) : Statement (.stlB32 sw o c d a) := by
  intro h rest
  refine decodeWords_one ?_
  rw [decode, show fld _ 24 7 = 68#7 by simp (disch := decide) only [fld, flag, field_above, field_inside, Nat.reduceSub, BitVec.extractLsb'_eq_self]]
  show decode44 _ _ = _
  simp (disch := decide) only [decode44, fld, flag, field_above, field_inside, Nat.reduceSub, BitVec.extractLsb'_eq_self]
  simp

theorem stlB64 (sw o c d a) : Statement (.stlB64 sw o c d a) := by
  intro h rest
  refine decodeWords_one ?_
  rw [decode, show fld _ 24 7 = 68#7 by simp (disch := decide) only [fld, flag, field_above, field_inside, Nat.reduceSub, BitVec.extractLsb'_eq_self]]
  show decode44 _ _ = _
  simp (disch := decide) only [decode44, fld, flag, field_above, field_inside, Nat.reduceSub, BitVec.extractLsb'_eq_self]
  simp

theorem fenceAcq (sw c) : Statement (.fenceAcq sw c) := by
  intro h rest
  refine decodeWords_one ?_
  rw [decode, show fld _ 24 7 = 69#7 by simp (disch := decide) only [fld, flag, field_above, field_inside, Nat.reduceSub, BitVec.extractLsb'_eq_self]]
  show decode45 _ _ = _
  simp (disch := decide) only [decode45, fld, flag, field_above, field_inside, Nat.reduceSub, BitVec.extractLsb'_eq_self]
  simp

theorem fenceRel (sw c) : Statement (.fenceRel sw c) := by
  intro h rest
  refine decodeWords_one ?_
  rw [decode, show fld _ 24 7 = 69#7 by simp (disch := decide) only [fld, flag, field_above, field_inside, Nat.reduceSub, BitVec.extractLsb'_eq_self]]
  show decode45 _ _ = _
  simp (disch := decide) only [decode45, fld, flag, field_above, field_inside, Nat.reduceSub, BitVec.extractLsb'_eq_self]
  simp

theorem fenceAr (sw c) : Statement (.fenceAr sw c) := by
  intro h rest
  refine decodeWords_one ?_
  rw [decode, show fld _ 24 7 = 69#7 by simp (disch := decide) only [fld, flag, field_above, field_inside, Nat.reduceSub, BitVec.extractLsb'_eq_self]]
  show decode45 _ _ = _
  simp (disch := decide) only [decode45, fld, flag, field_above, field_inside, Nat.reduceSub, BitVec.extractLsb'_eq_self]
  simp

theorem fenceSc (sw c) : Statement (.fenceSc sw c) := by
  intro h rest
  refine decodeWords_one ?_
  rw [decode, show fld _ 24 7 = 69#7 by simp (disch := decide) only [fld, flag, field_above, field_inside, Nat.reduceSub, BitVec.extractLsb'_eq_self]]
  show decode45 _ _ = _
  simp (disch := decide) only [decode45, fld, flag, field_above, field_inside, Nat.reduceSub, BitVec.extractLsb'_eq_self]
  simp

theorem lcpy4 (sw d b v) : Statement (.lcpy4 sw d b v) := by
  intro h rest
  refine decodeWords_one ?_
  rw [decode, show fld _ 24 7 = 70#7 by simp (disch := decide) only [fld, flag, field_above, field_inside, Nat.reduceSub, BitVec.extractLsb'_eq_self]]
  show decode46 _ _ = _
  simp (disch := decide) only [decode46, fld, flag, field_above, field_inside, Nat.reduceSub, BitVec.extractLsb'_eq_self]
  simp

theorem lcpy8 (sw d b v) : Statement (.lcpy8 sw d b v) := by
  intro h rest
  refine decodeWords_one ?_
  rw [decode, show fld _ 24 7 = 70#7 by simp (disch := decide) only [fld, flag, field_above, field_inside, Nat.reduceSub, BitVec.extractLsb'_eq_self]]
  show decode46 _ _ = _
  simp (disch := decide) only [decode46, fld, flag, field_above, field_inside, Nat.reduceSub, BitVec.extractLsb'_eq_self]
  simp

theorem lcpy16 (sw d b v) : Statement (.lcpy16 sw d b v) := by
  intro h rest
  refine decodeWords_one ?_
  rw [decode, show fld _ 24 7 = 70#7 by simp (disch := decide) only [fld, flag, field_above, field_inside, Nat.reduceSub, BitVec.extractLsb'_eq_self]]
  show decode46 _ _ = _
  simp (disch := decide) only [decode46, fld, flag, field_above, field_inside, Nat.reduceSub, BitVec.extractLsb'_eq_self]
  simp

theorem lcpy32 (sw d b v) : Statement (.lcpy32 sw d b v) := by
  intro h rest
  refine decodeWords_one ?_
  rw [decode, show fld _ 24 7 = 70#7 by simp (disch := decide) only [fld, flag, field_above, field_inside, Nat.reduceSub, BitVec.extractLsb'_eq_self]]
  show decode46 _ _ = _
  simp (disch := decide) only [decode46, fld, flag, field_above, field_inside, Nat.reduceSub, BitVec.extractLsb'_eq_self]
  simp

theorem waitvEq (sw a v) : Statement (.waitvEq sw a v) := by
  intro h rest
  refine decodeWords_one ?_
  rw [decode, show fld _ 24 7 = 71#7 by simp (disch := decide) only [fld, flag, field_above, field_inside, Nat.reduceSub, BitVec.extractLsb'_eq_self]]
  show decode47 _ _ = _
  simp (disch := decide) only [decode47, fld, flag, field_above, field_inside, Nat.reduceSub, BitVec.extractLsb'_eq_self]
  simp

theorem waitvNe (sw a v) : Statement (.waitvNe sw a v) := by
  intro h rest
  refine decodeWords_one ?_
  rw [decode, show fld _ 24 7 = 71#7 by simp (disch := decide) only [fld, flag, field_above, field_inside, Nat.reduceSub, BitVec.extractLsb'_eq_self]]
  show decode47 _ _ = _
  simp (disch := decide) only [decode47, fld, flag, field_above, field_inside, Nat.reduceSub, BitVec.extractLsb'_eq_self]
  simp

theorem waitvGe (sw a v) : Statement (.waitvGe sw a v) := by
  intro h rest
  refine decodeWords_one ?_
  rw [decode, show fld _ 24 7 = 71#7 by simp (disch := decide) only [fld, flag, field_above, field_inside, Nat.reduceSub, BitVec.extractLsb'_eq_self]]
  show decode47 _ _ = _
  simp (disch := decide) only [decode47, fld, flag, field_above, field_inside, Nat.reduceSub, BitVec.extractLsb'_eq_self]
  simp

theorem waitvLt (sw a v) : Statement (.waitvLt sw a v) := by
  intro h rest
  refine decodeWords_one ?_
  rw [decode, show fld _ 24 7 = 71#7 by simp (disch := decide) only [fld, flag, field_above, field_inside, Nat.reduceSub, BitVec.extractLsb'_eq_self]]
  show decode47 _ _ = _
  simp (disch := decide) only [decode47, fld, flag, field_above, field_inside, Nat.reduceSub, BitVec.extractLsb'_eq_self]
  simp

theorem prefL2 (sw b i) : Statement (.prefL2 sw b i) := by
  intro h rest
  refine decodeWords_one ?_
  rw [decode, show fld _ 24 7 = 72#7 by simp (disch := decide) only [fld, flag, field_above, field_inside, Nat.reduceSub, BitVec.extractLsb'_eq_self]]
  show decode48 _ _ = _
  simp (disch := decide) only [decode48, fld, flag, field_above, field_inside, Nat.reduceSub, BitVec.extractLsb'_eq_self]
  simp

theorem prefL1 (sw b i) : Statement (.prefL1 sw b i) := by
  intro h rest
  refine decodeWords_one ?_
  rw [decode, show fld _ 24 7 = 72#7 by simp (disch := decide) only [fld, flag, field_above, field_inside, Nat.reduceSub, BitVec.extractLsb'_eq_self]]
  show decode48 _ _ = _
  simp (disch := decide) only [decode48, fld, flag, field_above, field_inside, Nat.reduceSub, BitVec.extractLsb'_eq_self]
  simp

theorem prefGinv (sw b i) : Statement (.prefGinv sw b i) := by
  intro h rest
  refine decodeWords_one ?_
  rw [decode, show fld _ 24 7 = 72#7 by simp (disch := decide) only [fld, flag, field_above, field_inside, Nat.reduceSub, BitVec.extractLsb'_eq_self]]
  show decode48 _ _ = _
  simp (disch := decide) only [decode48, fld, flag, field_above, field_inside, Nat.reduceSub, BitVec.extractLsb'_eq_self]
  simp

theorem prefWb (sw b i) : Statement (.prefWb sw b i) := by
  intro h rest
  refine decodeWords_one ?_
  rw [decode, show fld _ 24 7 = 72#7 by simp (disch := decide) only [fld, flag, field_above, field_inside, Nat.reduceSub, BitVec.extractLsb'_eq_self]]
  show decode48 _ _ = _
  simp (disch := decide) only [decode48, fld, flag, field_above, field_inside, Nat.reduceSub, BitVec.extractLsb'_eq_self]
  simp

theorem mmaDense (sw d a b fx) : Statement (.mmaDense sw d a b fx) := by
  intro h rest
  refine decodeWords_two ?_
  rw [decode, show fld _ 24 7 = 73#7 by simp (disch := decide) only [fld, flag, field_above, field_inside, Nat.reduceSub, BitVec.extractLsb'_eq_self]]
  show decode49 _ _ = _
  simp (disch := decide) only [decode49, fld, flag, field_above, field_inside, Nat.reduceSub, BitVec.extractLsb'_eq_self]
  simp [withFx_word fx _ h]

theorem mmaSp (sw d a b fx) : Statement (.mmaSp sw d a b fx) := by
  intro h rest
  refine decodeWords_two ?_
  rw [decode, show fld _ 24 7 = 73#7 by simp (disch := decide) only [fld, flag, field_above, field_inside, Nat.reduceSub, BitVec.extractLsb'_eq_self]]
  show decode49 _ _ = _
  simp (disch := decide) only [decode49, fld, flag, field_above, field_inside, Nat.reduceSub, BitVec.extractLsb'_eq_self]
  simp [withFx_word fx _ h]

theorem mmaZ (sw d a b fx) : Statement (.mmaZ sw d a b fx) := by
  intro h rest
  refine decodeWords_two ?_
  rw [decode, show fld _ 24 7 = 73#7 by simp (disch := decide) only [fld, flag, field_above, field_inside, Nat.reduceSub, BitVec.extractLsb'_eq_self]]
  show decode49 _ _ = _
  simp (disch := decide) only [decode49, fld, flag, field_above, field_inside, Nat.reduceSub, BitVec.extractLsb'_eq_self]
  simp [withFx_word fx _ h]

theorem tmmaAcc (sw r m n fx) : Statement (.tmmaAcc sw r m n fx) := by
  intro h rest
  refine decodeWords_two ?_
  rw [decode, show fld _ 24 7 = 74#7 by simp (disch := decide) only [fld, flag, field_above, field_inside, Nat.reduceSub, BitVec.extractLsb'_eq_self]]
  show decode4A _ _ = _
  simp (disch := decide) only [decode4A, fld, flag, field_above, field_inside, Nat.reduceSub, BitVec.extractLsb'_eq_self]
  simp [withFx_word fx _ h]

theorem tmmaZ (sw r m n fx) : Statement (.tmmaZ sw r m n fx) := by
  intro h rest
  refine decodeWords_two ?_
  rw [decode, show fld _ 24 7 = 74#7 by simp (disch := decide) only [fld, flag, field_above, field_inside, Nat.reduceSub, BitVec.extractLsb'_eq_self]]
  show decode4A _ _ = _
  simp (disch := decide) only [decode4A, fld, flag, field_above, field_inside, Nat.reduceSub, BitVec.extractLsb'_eq_self]
  simp [withFx_word fx _ h]

theorem tlda (sw d a w p) : Statement (.tlda sw d a w p) := by
  intro h rest
  refine decodeWords_one ?_
  rw [decode, show fld _ 24 7 = 75#7 by simp (disch := decide) only [fld, flag, field_above, field_inside, Nat.reduceSub, BitVec.extractLsb'_eq_self]]
  show decode4B _ _ = _
  simp (disch := decide) only [decode4B, fld, flag, field_above, field_inside, Nat.reduceSub, BitVec.extractLsb'_eq_self]
  simp

theorem tldb (sw d a w p) : Statement (.tldb sw d a w p) := by
  intro h rest
  refine decodeWords_one ?_
  rw [decode, show fld _ 24 7 = 75#7 by simp (disch := decide) only [fld, flag, field_above, field_inside, Nat.reduceSub, BitVec.extractLsb'_eq_self]]
  show decode4B _ _ = _
  simp (disch := decide) only [decode4B, fld, flag, field_above, field_inside, Nat.reduceSub, BitVec.extractLsb'_eq_self]
  simp

theorem tstd (sw d a w p) : Statement (.tstd sw d a w p) := by
  intro h rest
  refine decodeWords_one ?_
  rw [decode, show fld _ 24 7 = 75#7 by simp (disch := decide) only [fld, flag, field_above, field_inside, Nat.reduceSub, BitVec.extractLsb'_eq_self]]
  show decode4B _ _ = _
  simp (disch := decide) only [decode4B, fld, flag, field_above, field_inside, Nat.reduceSub, BitVec.extractLsb'_eq_self]
  simp

theorem tldd (sw d a w p) : Statement (.tldd sw d a w p) := by
  intro h rest
  refine decodeWords_one ?_
  rw [decode, show fld _ 24 7 = 75#7 by simp (disch := decide) only [fld, flag, field_above, field_inside, Nat.reduceSub, BitVec.extractLsb'_eq_self]]
  show decode4B _ _ = _
  simp (disch := decide) only [decode4B, fld, flag, field_above, field_inside, Nat.reduceSub, BitVec.extractLsb'_eq_self]
  simp

theorem cpyGs (sw r b fx) : Statement (.cpyGs sw r b fx) := by
  intro h rest
  refine decodeWords_two ?_
  rw [decode, show fld _ 24 7 = 76#7 by simp (disch := decide) only [fld, flag, field_above, field_inside, Nat.reduceSub, BitVec.extractLsb'_eq_self]]
  show decode4C _ _ = _
  simp (disch := decide) only [decode4C, fld, flag, field_above, field_inside, Nat.reduceSub, BitVec.extractLsb'_eq_self]
  simp [withFx_word fx _ h]

theorem cpySg (sw r b fx) : Statement (.cpySg sw r b fx) := by
  intro h rest
  refine decodeWords_two ?_
  rw [decode, show fld _ 24 7 = 76#7 by simp (disch := decide) only [fld, flag, field_above, field_inside, Nat.reduceSub, BitVec.extractLsb'_eq_self]]
  show decode4C _ _ = _
  simp (disch := decide) only [decode4C, fld, flag, field_above, field_inside, Nat.reduceSub, BitVec.extractLsb'_eq_self]
  simp [withFx_word fx _ h]

theorem cpyGg (sw r b fx) : Statement (.cpyGg sw r b fx) := by
  intro h rest
  refine decodeWords_two ?_
  rw [decode, show fld _ 24 7 = 76#7 by simp (disch := decide) only [fld, flag, field_above, field_inside, Nat.reduceSub, BitVec.extractLsb'_eq_self]]
  show decode4C _ _ = _
  simp (disch := decide) only [decode4C, fld, flag, field_above, field_inside, Nat.reduceSub, BitVec.extractLsb'_eq_self]
  simp [withFx_word fx _ h]

theorem cpySs (sw r b fx) : Statement (.cpySs sw r b fx) := by
  intro h rest
  refine decodeWords_two ?_
  rw [decode, show fld _ 24 7 = 76#7 by simp (disch := decide) only [fld, flag, field_above, field_inside, Nat.reduceSub, BitVec.extractLsb'_eq_self]]
  show decode4C _ _ = _
  simp (disch := decide) only [decode4C, fld, flag, field_above, field_inside, Nat.reduceSub, BitVec.extractLsb'_eq_self]
  simp [withFx_word fx _ h]

theorem cplFill (sw r g fx) : Statement (.cplFill sw r g fx) := by
  intro h rest
  refine decodeWords_two ?_
  rw [decode, show fld _ 24 7 = 77#7 by simp (disch := decide) only [fld, flag, field_above, field_inside, Nat.reduceSub, BitVec.extractLsb'_eq_self]]
  show decode4D _ _ = _
  simp (disch := decide) only [decode4D, fld, flag, field_above, field_inside, Nat.reduceSub, BitVec.extractLsb'_eq_self]
  simp [withFx_word fx _ h]

theorem cplDrain (sw r g fx) : Statement (.cplDrain sw r g fx) := by
  intro h rest
  refine decodeWords_two ?_
  rw [decode, show fld _ 24 7 = 77#7 by simp (disch := decide) only [fld, flag, field_above, field_inside, Nat.reduceSub, BitVec.extractLsb'_eq_self]]
  show decode4D _ _ = _
  simp (disch := decide) only [decode4D, fld, flag, field_above, field_inside, Nat.reduceSub, BitVec.extractLsb'_eq_self]
  simp [withFx_word fx _ h]

theorem lcseal (sw t) : Statement (.lcseal sw t) := by
  intro h rest
  refine decodeWords_one ?_
  rw [decode, show fld _ 24 7 = 78#7 by simp (disch := decide) only [fld, flag, field_above, field_inside, Nat.reduceSub, BitVec.extractLsb'_eq_self]]
  show decode4E _ _ = _
  simp (disch := decide) only [decode4E, fld, flag, field_above, field_inside, Nat.reduceSub, BitVec.extractLsb'_eq_self]
  simp

theorem collAr (sw r b fx) : Statement (.collAr sw r b fx) := by
  intro h rest
  refine decodeWords_two ?_
  rw [decode, show fld _ 24 7 = 79#7 by simp (disch := decide) only [fld, flag, field_above, field_inside, Nat.reduceSub, BitVec.extractLsb'_eq_self]]
  show decode4F _ _ = _
  simp (disch := decide) only [decode4F, fld, flag, field_above, field_inside, Nat.reduceSub, BitVec.extractLsb'_eq_self]
  simp [withFx_word fx _ h]

theorem collAg (sw r b fx) : Statement (.collAg sw r b fx) := by
  intro h rest
  refine decodeWords_two ?_
  rw [decode, show fld _ 24 7 = 79#7 by simp (disch := decide) only [fld, flag, field_above, field_inside, Nat.reduceSub, BitVec.extractLsb'_eq_self]]
  show decode4F _ _ = _
  simp (disch := decide) only [decode4F, fld, flag, field_above, field_inside, Nat.reduceSub, BitVec.extractLsb'_eq_self]
  simp [withFx_word fx _ h]

theorem collRs (sw r b fx) : Statement (.collRs sw r b fx) := by
  intro h rest
  refine decodeWords_two ?_
  rw [decode, show fld _ 24 7 = 79#7 by simp (disch := decide) only [fld, flag, field_above, field_inside, Nat.reduceSub, BitVec.extractLsb'_eq_self]]
  show decode4F _ _ = _
  simp (disch := decide) only [decode4F, fld, flag, field_above, field_inside, Nat.reduceSub, BitVec.extractLsb'_eq_self]
  simp [withFx_word fx _ h]

theorem collBc (sw r b fx) : Statement (.collBc sw r b fx) := by
  intro h rest
  refine decodeWords_two ?_
  rw [decode, show fld _ 24 7 = 79#7 by simp (disch := decide) only [fld, flag, field_above, field_inside, Nat.reduceSub, BitVec.extractLsb'_eq_self]]
  show decode4F _ _ = _
  simp (disch := decide) only [decode4F, fld, flag, field_above, field_inside, Nat.reduceSub, BitVec.extractLsb'_eq_self]
  simp [withFx_word fx _ h]

theorem fwait (sw d b) : Statement (.fwait sw d b) := by
  intro h rest
  refine decodeWords_one ?_
  rw [decode, show fld _ 24 7 = 80#7 by simp (disch := decide) only [fld, flag, field_above, field_inside, Nat.reduceSub, BitVec.extractLsb'_eq_self]]
  show decode50 _ _ = _
  simp (disch := decide) only [decode50, fld, flag, field_above, field_inside, Nat.reduceSub, BitVec.extractLsb'_eq_self]
  simp

theorem fwaitT (sw d b) : Statement (.fwaitT sw d b) := by
  intro h rest
  refine decodeWords_one ?_
  rw [decode, show fld _ 24 7 = 80#7 by simp (disch := decide) only [fld, flag, field_above, field_inside, Nat.reduceSub, BitVec.extractLsb'_eq_self]]
  show decode50 _ _ = _
  simp (disch := decide) only [decode50, fld, flag, field_above, field_inside, Nat.reduceSub, BitVec.extractLsb'_eq_self]
  simp

theorem ftest (sw d b) : Statement (.ftest sw d b) := by
  intro h rest
  refine decodeWords_one ?_
  rw [decode, show fld _ 24 7 = 80#7 by simp (disch := decide) only [fld, flag, field_above, field_inside, Nat.reduceSub, BitVec.extractLsb'_eq_self]]
  show decode50 _ _ = _
  simp (disch := decide) only [decode50, fld, flag, field_above, field_inside, Nat.reduceSub, BitVec.extractLsb'_eq_self]
  simp

theorem fwaitall (sw d) : Statement (.fwaitall sw d) := by
  intro h rest
  refine decodeWords_one ?_
  rw [decode, show fld _ 24 7 = 80#7 by simp (disch := decide) only [fld, flag, field_above, field_inside, Nat.reduceSub, BitVec.extractLsb'_eq_self]]
  show decode50 _ _ = _
  simp (disch := decide) only [decode50, fld, flag, field_above, field_inside, Nat.reduceSub, BitVec.extractLsb'_eq_self]
  simp

theorem fcancel (sw b) : Statement (.fcancel sw b) := by
  intro h rest
  refine decodeWords_one ?_
  rw [decode, show fld _ 24 7 = 81#7 by simp (disch := decide) only [fld, flag, field_above, field_inside, Nat.reduceSub, BitVec.extractLsb'_eq_self]]
  show decode51 _ _ = _
  simp (disch := decide) only [decode51, fld, flag, field_above, field_inside, Nat.reduceSub, BitVec.extractLsb'_eq_self]
  simp

theorem fdetach (sw b) : Statement (.fdetach sw b) := by
  intro h rest
  refine decodeWords_one ?_
  rw [decode, show fld _ 24 7 = 81#7 by simp (disch := decide) only [fld, flag, field_above, field_inside, Nat.reduceSub, BitVec.extractLsb'_eq_self]]
  show decode51 _ _ = _
  simp (disch := decide) only [decode51, fld, flag, field_above, field_inside, Nat.reduceSub, BitVec.extractLsb'_eq_self]
  simp

theorem fprio (sw b a) : Statement (.fprio sw b a) := by
  intro h rest
  refine decodeWords_src ?_
  rw [decode, show fld _ 24 7 = 81#7 by simp (disch := decide) only [fld, flag, field_above, field_inside, Nat.reduceSub, BitVec.extractLsb'_eq_self]]
  show decode51 _ _ = _
  simp (disch := decide) only [decode51, fld, flag, field_above, field_inside, Nat.reduceSub, BitVec.extractLsb'_eq_self]
  have ha : a.wf = true := h
  simp [withSrc_code a ha rest]

theorem fstat (sw d b a) : Statement (.fstat sw d b a) := by
  intro h rest
  refine decodeWords_src ?_
  rw [decode, show fld _ 24 7 = 81#7 by simp (disch := decide) only [fld, flag, field_above, field_inside, Nat.reduceSub, BitVec.extractLsb'_eq_self]]
  show decode51 _ _ = _
  have hf : fld ((bit sw) ++ 81#7 ++ 3#2 ++ d ++ b ++ 0#2 ++ a.code) 22 2 = 3#2 := by
    simp (disch := decide) only [fld, flag, field_above, field_inside, Nat.reduceSub, BitVec.extractLsb'_eq_self]
  rw [decode51, fld_beq_false (lo := 16) (k := 6) (c := 0#8) hf (by decide) (by decide), fld_beq_false (lo := 16) (k := 6) (c := 64#8) hf (by decide) (by decide), fld_beq_false (lo := 16) (k := 6) (c := 128#8) hf (by decide) (by decide)]
  simp (disch := decide) only [fld, flag, field_above, field_inside, Nat.reduceSub, BitVec.extractLsb'_eq_self]
  have ha : a.wf = true := h
  simp [withSrc_code a ha rest]

theorem pwrhD (sw i o l) : Statement (.pwrhD sw i o l) := by
  intro h rest
  refine decodeWords_one ?_
  rw [decode, show fld _ 24 7 = 82#7 by simp (disch := decide) only [fld, flag, field_above, field_inside, Nat.reduceSub, BitVec.extractLsb'_eq_self]]
  show decode52 _ _ = _
  simp (disch := decide) only [decode52, fld, flag, field_above, field_inside, Nat.reduceSub, BitVec.extractLsb'_eq_self]
  simp

theorem pwrhX (sw l) : Statement (.pwrhX sw l) := by
  intro h rest
  refine decodeWords_one ?_
  rw [decode, show fld _ 24 7 = 82#7 by simp (disch := decide) only [fld, flag, field_above, field_inside, Nat.reduceSub, BitVec.extractLsb'_eq_self]]
  show decode52 _ _ = _
  simp (disch := decide) only [decode52, fld, flag, field_above, field_inside, Nat.reduceSub, BitVec.extractLsb'_eq_self]
  simp

theorem pwrhE (sw) : Statement (.pwrhE sw) := by
  intro h rest
  refine decodeWords_one ?_
  rw [decode, show fld _ 24 7 = 82#7 by simp (disch := decide) only [fld, flag, field_above, field_inside, Nat.reduceSub, BitVec.extractLsb'_eq_self]]
  show decode52 _ _ = _
  simp (disch := decide) only [decode52, fld, flag, field_above, field_inside, Nat.reduceSub, BitVec.extractLsb'_eq_self]
  simp

theorem pwrhQ (sw) : Statement (.pwrhQ sw) := by
  intro h rest
  refine decodeWords_one ?_
  rw [decode, show fld _ 24 7 = 82#7 by simp (disch := decide) only [fld, flag, field_above, field_inside, Nat.reduceSub, BitVec.extractLsb'_eq_self]]
  show decode52 _ _ = _
  simp (disch := decide) only [decode52, fld, flag, field_above, field_inside, Nat.reduceSub, BitVec.extractLsb'_eq_self]
  simp

theorem racq (sw d b) : Statement (.racq sw d b) := by
  intro h rest
  refine decodeWords_one ?_
  rw [decode, show fld _ 24 7 = 83#7 by simp (disch := decide) only [fld, flag, field_above, field_inside, Nat.reduceSub, BitVec.extractLsb'_eq_self]]
  show decode53 _ _ = _
  simp (disch := decide) only [decode53, fld, flag, field_above, field_inside, Nat.reduceSub, BitVec.extractLsb'_eq_self]
  simp

theorem rrel (sw b) : Statement (.rrel sw b) := by
  intro h rest
  refine decodeWords_one ?_
  rw [decode, show fld _ 24 7 = 83#7 by simp (disch := decide) only [fld, flag, field_above, field_inside, Nat.reduceSub, BitVec.extractLsb'_eq_self]]
  show decode53 _ _ = _
  simp (disch := decide) only [decode53, fld, flag, field_above, field_inside, Nat.reduceSub, BitVec.extractLsb'_eq_self]
  simp

theorem rinit (sw b a) : Statement (.rinit sw b a) := by
  intro h rest
  refine decodeWords_src ?_
  rw [decode, show fld _ 24 7 = 83#7 by simp (disch := decide) only [fld, flag, field_above, field_inside, Nat.reduceSub, BitVec.extractLsb'_eq_self]]
  show decode53 _ _ = _
  simp (disch := decide) only [decode53, fld, flag, field_above, field_inside, Nat.reduceSub, BitVec.extractLsb'_eq_self]
  have ha : a.wf = true := h
  simp [withSrc_code a ha rest]

theorem rstat (sw d b) : Statement (.rstat sw d b) := by
  intro h rest
  refine decodeWords_one ?_
  rw [decode, show fld _ 24 7 = 83#7 by simp (disch := decide) only [fld, flag, field_above, field_inside, Nat.reduceSub, BitVec.extractLsb'_eq_self]]
  show decode53 _ _ = _
  have hf : fld ((bit sw) ++ 83#7 ++ 3#2 ++ d ++ b ++ 0#10) 22 2 = 3#2 := by
    simp (disch := decide) only [fld, flag, field_above, field_inside, Nat.reduceSub, BitVec.extractLsb'_eq_self]
  rw [decode53, fld_beq_false (lo := 16) (k := 6) (c := 64#8) hf (by decide) (by decide), fld_beq_false (lo := 16) (k := 6) (c := 128#8) hf (by decide) (by decide)]
  simp (disch := decide) only [fld, flag, field_above, field_inside, Nat.reduceSub, BitVec.extractLsb'_eq_self]
  simp

theorem tbinit (sw b a) : Statement (.tbinit sw b a) := by
  intro h rest
  refine decodeWords_src ?_
  rw [decode, show fld _ 24 7 = 84#7 by simp (disch := decide) only [fld, flag, field_above, field_inside, Nat.reduceSub, BitVec.extractLsb'_eq_self]]
  show decode54 _ _ = _
  simp (disch := decide) only [decode54, fld, flag, field_above, field_inside, Nat.reduceSub, BitVec.extractLsb'_eq_self]
  have ha : a.wf = true := h
  simp [withSrc_code a ha rest]

theorem tbarv (sw d b) : Statement (.tbarv sw d b) := by
  intro h rest
  refine decodeWords_one ?_
  rw [decode, show fld _ 24 7 = 84#7 by simp (disch := decide) only [fld, flag, field_above, field_inside, Nat.reduceSub, BitVec.extractLsb'_eq_self]]
  show decode54 _ _ = _
  have hf : fld ((bit sw) ++ 84#7 ++ 1#2 ++ d ++ b ++ 0#10) 22 2 = 1#2 := by
    simp (disch := decide) only [fld, flag, field_above, field_inside, Nat.reduceSub, BitVec.extractLsb'_eq_self]
  rw [decode54, fld_beq_false (lo := 16) (k := 6) (c := 0#8) hf (by decide) (by decide)]
  simp (disch := decide) only [fld, flag, field_above, field_inside, Nat.reduceSub, BitVec.extractLsb'_eq_self]
  simp

theorem tbwait (sw d b a) : Statement (.tbwait sw d b a) := by
  intro h rest
  refine decodeWords_src ?_
  rw [decode, show fld _ 24 7 = 84#7 by simp (disch := decide) only [fld, flag, field_above, field_inside, Nat.reduceSub, BitVec.extractLsb'_eq_self]]
  show decode54 _ _ = _
  have hf : fld ((bit sw) ++ 84#7 ++ 2#2 ++ d ++ b ++ 0#2 ++ a.code) 22 2 = 2#2 := by
    simp (disch := decide) only [fld, flag, field_above, field_inside, Nat.reduceSub, BitVec.extractLsb'_eq_self]
  rw [decode54, fld_beq_false (lo := 16) (k := 6) (c := 0#8) hf (by decide) (by decide)]
  simp (disch := decide) only [fld, flag, field_above, field_inside, Nat.reduceSub, BitVec.extractLsb'_eq_self]
  have ha : a.wf = true := h
  simp [withSrc_code a ha rest]

theorem tbexp (sw b a) : Statement (.tbexp sw b a) := by
  intro h rest
  refine decodeWords_src ?_
  rw [decode, show fld _ 24 7 = 84#7 by simp (disch := decide) only [fld, flag, field_above, field_inside, Nat.reduceSub, BitVec.extractLsb'_eq_self]]
  show decode54 _ _ = _
  simp (disch := decide) only [decode54, fld, flag, field_above, field_inside, Nat.reduceSub, BitVec.extractLsb'_eq_self]
  have ha : a.wf = true := h
  simp [withSrc_code a ha rest]

theorem qpostL (sw d b a) : Statement (.qpostL sw d b a) := by
  intro h rest
  refine decodeWords_src ?_
  rw [decode, show fld _ 24 7 = 85#7 by simp (disch := decide) only [fld, flag, field_above, field_inside, Nat.reduceSub, BitVec.extractLsb'_eq_self]]
  show decode55 _ _ = _
  simp (disch := decide) only [decode55, fld, flag, field_above, field_inside, Nat.reduceSub, BitVec.extractLsb'_eq_self]
  have ha : a.wf = true := h
  simp [withSrc_code a ha rest]

theorem qpostR (sw d b a) : Statement (.qpostR sw d b a) := by
  intro h rest
  refine decodeWords_src ?_
  rw [decode, show fld _ 24 7 = 85#7 by simp (disch := decide) only [fld, flag, field_above, field_inside, Nat.reduceSub, BitVec.extractLsb'_eq_self]]
  show decode55 _ _ = _
  simp (disch := decide) only [decode55, fld, flag, field_above, field_inside, Nat.reduceSub, BitVec.extractLsb'_eq_self]
  have ha : a.wf = true := h
  simp [withSrc_code a ha rest]

theorem qpostS (sw d b a) : Statement (.qpostS sw d b a) := by
  intro h rest
  refine decodeWords_src ?_
  rw [decode, show fld _ 24 7 = 85#7 by simp (disch := decide) only [fld, flag, field_above, field_inside, Nat.reduceSub, BitVec.extractLsb'_eq_self]]
  show decode55 _ _ = _
  simp (disch := decide) only [decode55, fld, flag, field_above, field_inside, Nat.reduceSub, BitVec.extractLsb'_eq_self]
  have ha : a.wf = true := h
  simp [withSrc_code a ha rest]

theorem rtake (sw d) : Statement (.rtake sw d) := by
  intro h rest
  refine decodeWords_one ?_
  rw [decode, show fld _ 24 7 = 86#7 by simp (disch := decide) only [fld, flag, field_above, field_inside, Nat.reduceSub, BitVec.extractLsb'_eq_self]]
  show decode56 _ _ = _
  simp (disch := decide) only [decode56, fld, flag, field_above, field_inside, Nat.reduceSub, BitVec.extractLsb'_eq_self]
  simp

theorem rsplit (sw d) : Statement (.rsplit sw d) := by
  intro h rest
  refine decodeWords_one ?_
  rw [decode, show fld _ 24 7 = 86#7 by simp (disch := decide) only [fld, flag, field_above, field_inside, Nat.reduceSub, BitVec.extractLsb'_eq_self]]
  show decode56 _ _ = _
  simp (disch := decide) only [decode56, fld, flag, field_above, field_inside, Nat.reduceSub, BitVec.extractLsb'_eq_self]
  simp

theorem rdone (sw b) : Statement (.rdone sw b) := by
  intro h rest
  refine decodeWords_one ?_
  rw [decode, show fld _ 24 7 = 86#7 by simp (disch := decide) only [fld, flag, field_above, field_inside, Nat.reduceSub, BitVec.extractLsb'_eq_self]]
  show decode56 _ _ = _
  simp (disch := decide) only [decode56, fld, flag, field_above, field_inside, Nat.reduceSub, BitVec.extractLsb'_eq_self]
  simp

theorem cntAdd (sw d l a) : Statement (.cntAdd sw d l a) := by
  intro h rest
  refine decodeWords_src ?_
  rw [decode, show fld _ 24 7 = 87#7 by simp (disch := decide) only [fld, flag, field_above, field_inside, Nat.reduceSub, BitVec.extractLsb'_eq_self]]
  show decode57 _ _ = _
  simp (disch := decide) only [decode57, fld, flag, field_above, field_inside, Nat.reduceSub, BitVec.extractLsb'_eq_self]
  have ha : a.wf = true := h
  simp [withSrc_code a ha rest]

theorem cntWait (sw d l a) : Statement (.cntWait sw d l a) := by
  intro h rest
  refine decodeWords_src ?_
  rw [decode, show fld _ 24 7 = 87#7 by simp (disch := decide) only [fld, flag, field_above, field_inside, Nat.reduceSub, BitVec.extractLsb'_eq_self]]
  show decode57 _ _ = _
  simp (disch := decide) only [decode57, fld, flag, field_above, field_inside, Nat.reduceSub, BitVec.extractLsb'_eq_self]
  have ha : a.wf = true := h
  simp [withSrc_code a ha rest]

theorem cntRd (sw d l a) : Statement (.cntRd sw d l a) := by
  intro h rest
  refine decodeWords_src ?_
  rw [decode, show fld _ 24 7 = 87#7 by simp (disch := decide) only [fld, flag, field_above, field_inside, Nat.reduceSub, BitVec.extractLsb'_eq_self]]
  show decode57 _ _ = _
  simp (disch := decide) only [decode57, fld, flag, field_above, field_inside, Nat.reduceSub, BitVec.extractLsb'_eq_self]
  have ha : a.wf = true := h
  simp [withSrc_code a ha rest]

theorem cntCncl (sw l a) : Statement (.cntCncl sw l a) := by
  intro h rest
  refine decodeWords_src ?_
  rw [decode, show fld _ 24 7 = 87#7 by simp (disch := decide) only [fld, flag, field_above, field_inside, Nat.reduceSub, BitVec.extractLsb'_eq_self]]
  show decode57 _ _ = _
  simp (disch := decide) only [decode57, fld, flag, field_above, field_inside, Nat.reduceSub, BitVec.extractLsb'_eq_self]
  have ha : a.wf = true := h
  simp [withSrc_code a ha rest]

theorem trap (sw i) : Statement (.trap sw i) := by
  intro h rest
  refine decodeWords_one ?_
  rw [decode, show fld _ 24 7 = 88#7 by simp (disch := decide) only [fld, flag, field_above, field_inside, Nat.reduceSub, BitVec.extractLsb'_eq_self]]
  show decode58 _ _ = _
  simp (disch := decide) only [decode58, fld, flag, field_above, field_inside, Nat.reduceSub, BitVec.extractLsb'_eq_self]
  simp

theorem brk (sw i) : Statement (.brk sw i) := by
  intro h rest
  refine decodeWords_one ?_
  rw [decode, show fld _ 24 7 = 88#7 by simp (disch := decide) only [fld, flag, field_above, field_inside, Nat.reduceSub, BitVec.extractLsb'_eq_self]]
  show decode58 _ _ = _
  simp (disch := decide) only [decode58, fld, flag, field_above, field_inside, Nat.reduceSub, BitVec.extractLsb'_eq_self]
  simp

theorem halt (sw) : Statement (.halt sw) := by
  intro h rest
  refine decodeWords_one ?_
  rw [decode, show fld _ 24 7 = 88#7 by simp (disch := decide) only [fld, flag, field_above, field_inside, Nat.reduceSub, BitVec.extractLsb'_eq_self]]
  show decode58 _ _ = _
  simp (disch := decide) only [decode58, fld, flag, field_above, field_inside, Nat.reduceSub, BitVec.extractLsb'_eq_self]
  simp

theorem csrr (sw d a) : Statement (.csrr sw d a) := by
  intro h rest
  refine decodeWords_src ?_
  rw [decode, show fld _ 24 7 = 89#7 by simp (disch := decide) only [fld, flag, field_above, field_inside, Nat.reduceSub, BitVec.extractLsb'_eq_self]]
  show decode59 _ _ = _
  simp (disch := decide) only [decode59, fld, flag, field_above, field_inside, Nat.reduceSub, BitVec.extractLsb'_eq_self]
  have ha : a.wf = true := h
  simp [withSrc_code a ha rest]

theorem csrw (sw d b a) : Statement (.csrw sw d b a) := by
  intro h rest
  refine decodeWords_src ?_
  rw [decode, show fld _ 24 7 = 89#7 by simp (disch := decide) only [fld, flag, field_above, field_inside, Nat.reduceSub, BitVec.extractLsb'_eq_self]]
  show decode59 _ _ = _
  simp (disch := decide) only [decode59, fld, flag, field_above, field_inside, Nat.reduceSub, BitVec.extractLsb'_eq_self]
  have ha : a.wf = true := h
  simp [withSrc_code a ha rest]

theorem csrs (sw d b a) : Statement (.csrs sw d b a) := by
  intro h rest
  refine decodeWords_src ?_
  rw [decode, show fld _ 24 7 = 89#7 by simp (disch := decide) only [fld, flag, field_above, field_inside, Nat.reduceSub, BitVec.extractLsb'_eq_self]]
  show decode59 _ _ = _
  simp (disch := decide) only [decode59, fld, flag, field_above, field_inside, Nat.reduceSub, BitVec.extractLsb'_eq_self]
  have ha : a.wf = true := h
  simp [withSrc_code a ha rest]

theorem csrc (sw d b a) : Statement (.csrc sw d b a) := by
  intro h rest
  refine decodeWords_src ?_
  rw [decode, show fld _ 24 7 = 89#7 by simp (disch := decide) only [fld, flag, field_above, field_inside, Nat.reduceSub, BitVec.extractLsb'_eq_self]]
  show decode59 _ _ = _
  simp (disch := decide) only [decode59, fld, flag, field_above, field_inside, Nat.reduceSub, BitVec.extractLsb'_eq_self]
  have ha : a.wf = true := h
  simp [withSrc_code a ha rest]

theorem eret (sw) : Statement (.eret sw) := by
  intro h rest
  refine decodeWords_one ?_
  rw [decode, show fld _ 24 7 = 90#7 by simp (disch := decide) only [fld, flag, field_above, field_inside, Nat.reduceSub, BitVec.extractLsb'_eq_self]]
  show decode5A _ _ = _
  simp (disch := decide) only [decode5A, fld, flag, field_above, field_inside, Nat.reduceSub, BitVec.extractLsb'_eq_self]
  simp

theorem tlbiVa (sw a) : Statement (.tlbiVa sw a) := by
  intro h rest
  refine decodeWords_src ?_
  rw [decode, show fld _ 24 7 = 91#7 by simp (disch := decide) only [fld, flag, field_above, field_inside, Nat.reduceSub, BitVec.extractLsb'_eq_self]]
  show decode5B _ _ = _
  simp (disch := decide) only [decode5B, fld, flag, field_above, field_inside, Nat.reduceSub, BitVec.extractLsb'_eq_self]
  have ha : a.wf = true := h
  simp [withSrc_code a ha rest]

theorem tlbiPart (sw a) : Statement (.tlbiPart sw a) := by
  intro h rest
  refine decodeWords_src ?_
  rw [decode, show fld _ 24 7 = 91#7 by simp (disch := decide) only [fld, flag, field_above, field_inside, Nat.reduceSub, BitVec.extractLsb'_eq_self]]
  show decode5B _ _ = _
  simp (disch := decide) only [decode5B, fld, flag, field_above, field_inside, Nat.reduceSub, BitVec.extractLsb'_eq_self]
  have ha : a.wf = true := h
  simp [withSrc_code a ha rest]

theorem tlbiAll (sw) : Statement (.tlbiAll sw) := by
  intro h rest
  refine decodeWords_one ?_
  rw [decode, show fld _ 24 7 = 91#7 by simp (disch := decide) only [fld, flag, field_above, field_inside, Nat.reduceSub, BitVec.extractLsb'_eq_self]]
  show decode5B _ _ = _
  simp (disch := decide) only [decode5B, fld, flag, field_above, field_inside, Nat.reduceSub, BitVec.extractLsb'_eq_self]
  simp

theorem tlbiSync (sw) : Statement (.tlbiSync sw) := by
  intro h rest
  refine decodeWords_one ?_
  rw [decode, show fld _ 24 7 = 91#7 by simp (disch := decide) only [fld, flag, field_above, field_inside, Nat.reduceSub, BitVec.extractLsb'_eq_self]]
  show decode5B _ _ = _
  simp (disch := decide) only [decode5B, fld, flag, field_above, field_inside, Nat.reduceSub, BitVec.extractLsb'_eq_self]
  simp

theorem mrdc (sw d a) : Statement (.mrdc sw d a) := by
  intro h rest
  refine decodeWords_src ?_
  rw [decode, show fld _ 24 7 = 92#7 by simp (disch := decide) only [fld, flag, field_above, field_inside, Nat.reduceSub, BitVec.extractLsb'_eq_self]]
  show decode5C _ _ = _
  simp (disch := decide) only [decode5C, fld, flag, field_above, field_inside, Nat.reduceSub, BitVec.extractLsb'_eq_self]
  have ha : a.wf = true := h
  simp [withSrc_code a ha rest]

theorem msign (sw d b a) : Statement (.msign sw d b a) := by
  intro h rest
  refine decodeWords_src ?_
  rw [decode, show fld _ 24 7 = 92#7 by simp (disch := decide) only [fld, flag, field_above, field_inside, Nat.reduceSub, BitVec.extractLsb'_eq_self]]
  show decode5C _ _ = _
  simp (disch := decide) only [decode5C, fld, flag, field_above, field_inside, Nat.reduceSub, BitVec.extractLsb'_eq_self]
  have ha : a.wf = true := h
  simp [withSrc_code a ha rest]

theorem rctxRd (sw d b a) : Statement (.rctxRd sw d b a) := by
  intro h rest
  refine decodeWords_src ?_
  rw [decode, show fld _ 24 7 = 93#7 by simp (disch := decide) only [fld, flag, field_above, field_inside, Nat.reduceSub, BitVec.extractLsb'_eq_self]]
  show decode5D _ _ = _
  simp (disch := decide) only [decode5D, fld, flag, field_above, field_inside, Nat.reduceSub, BitVec.extractLsb'_eq_self]
  have ha : a.wf = true := h
  simp [withSrc_code a ha rest]

theorem rctxWr (sw d b a) : Statement (.rctxWr sw d b a) := by
  intro h rest
  refine decodeWords_src ?_
  rw [decode, show fld _ 24 7 = 93#7 by simp (disch := decide) only [fld, flag, field_above, field_inside, Nat.reduceSub, BitVec.extractLsb'_eq_self]]
  show decode5D _ _ = _
  simp (disch := decide) only [decode5D, fld, flag, field_above, field_inside, Nat.reduceSub, BitVec.extractLsb'_eq_self]
  have ha : a.wf = true := h
  simp [withSrc_code a ha rest]

theorem rctxResume (sw d b a) : Statement (.rctxResume sw d b a) := by
  intro h rest
  refine decodeWords_src ?_
  rw [decode, show fld _ 24 7 = 93#7 by simp (disch := decide) only [fld, flag, field_above, field_inside, Nat.reduceSub, BitVec.extractLsb'_eq_self]]
  show decode5D _ _ = _
  simp (disch := decide) only [decode5D, fld, flag, field_above, field_inside, Nat.reduceSub, BitVec.extractLsb'_eq_self]
  have ha : a.wf = true := h
  simp [withSrc_code a ha rest]

theorem rctxKill (sw d b a) : Statement (.rctxKill sw d b a) := by
  intro h rest
  refine decodeWords_src ?_
  rw [decode, show fld _ 24 7 = 93#7 by simp (disch := decide) only [fld, flag, field_above, field_inside, Nat.reduceSub, BitVec.extractLsb'_eq_self]]
  show decode5D _ _ = _
  simp (disch := decide) only [decode5D, fld, flag, field_above, field_inside, Nat.reduceSub, BitVec.extractLsb'_eq_self]
  have ha : a.wf = true := h
  simp [withSrc_code a ha rest]

theorem switchArm (sw d b) : Statement (.switchArm sw d b) := by
  intro h rest
  refine decodeWords_one ?_
  rw [decode, show fld _ 24 7 = 94#7 by simp (disch := decide) only [fld, flag, field_above, field_inside, Nat.reduceSub, BitVec.extractLsb'_eq_self]]
  show decode5E _ _ = _
  simp (disch := decide) only [decode5E, fld, flag, field_above, field_inside, Nat.reduceSub, BitVec.extractLsb'_eq_self]
  simp

theorem switchUrgent (sw d b) : Statement (.switchUrgent sw d b) := by
  intro h rest
  refine decodeWords_one ?_
  rw [decode, show fld _ 24 7 = 94#7 by simp (disch := decide) only [fld, flag, field_above, field_inside, Nat.reduceSub, BitVec.extractLsb'_eq_self]]
  show decode5E _ _ = _
  simp (disch := decide) only [decode5E, fld, flag, field_above, field_inside, Nat.reduceSub, BitVec.extractLsb'_eq_self]
  simp

theorem switchCancel (sw d a) : Statement (.switchCancel sw d a) := by
  intro h rest
  refine decodeWords_src ?_
  rw [decode, show fld _ 24 7 = 94#7 by simp (disch := decide) only [fld, flag, field_above, field_inside, Nat.reduceSub, BitVec.extractLsb'_eq_self]]
  show decode5E _ _ = _
  simp (disch := decide) only [decode5E, fld, flag, field_above, field_inside, Nat.reduceSub, BitVec.extractLsb'_eq_self]
  have ha : a.wf = true := h
  simp [withSrc_code a ha rest]

theorem partCreate (sw d b a) : Statement (.partCreate sw d b a) := by
  intro h rest
  refine decodeWords_src ?_
  rw [decode, show fld _ 24 7 = 95#7 by simp (disch := decide) only [fld, flag, field_above, field_inside, Nat.reduceSub, BitVec.extractLsb'_eq_self]]
  show decode5F _ _ = _
  simp (disch := decide) only [decode5F, fld, flag, field_above, field_inside, Nat.reduceSub, BitVec.extractLsb'_eq_self]
  have ha : a.wf = true := h
  simp [withSrc_code a ha rest]

theorem partDestroy (sw d a) : Statement (.partDestroy sw d a) := by
  intro h rest
  refine decodeWords_src ?_
  rw [decode, show fld _ 24 7 = 95#7 by simp (disch := decide) only [fld, flag, field_above, field_inside, Nat.reduceSub, BitVec.extractLsb'_eq_self]]
  show decode5F _ _ = _
  simp (disch := decide) only [decode5F, fld, flag, field_above, field_inside, Nat.reduceSub, BitVec.extractLsb'_eq_self]
  have ha : a.wf = true := h
  simp [withSrc_code a ha rest]

theorem partBitmap (sw d b a) : Statement (.partBitmap sw d b a) := by
  intro h rest
  refine decodeWords_src ?_
  rw [decode, show fld _ 24 7 = 95#7 by simp (disch := decide) only [fld, flag, field_above, field_inside, Nat.reduceSub, BitVec.extractLsb'_eq_self]]
  show decode5F _ _ = _
  simp (disch := decide) only [decode5F, fld, flag, field_above, field_inside, Nat.reduceSub, BitVec.extractLsb'_eq_self]
  have ha : a.wf = true := h
  simp [withSrc_code a ha rest]

theorem partWays (sw d b a) : Statement (.partWays sw d b a) := by
  intro h rest
  refine decodeWords_src ?_
  rw [decode, show fld _ 24 7 = 95#7 by simp (disch := decide) only [fld, flag, field_above, field_inside, Nat.reduceSub, BitVec.extractLsb'_eq_self]]
  show decode5F _ _ = _
  simp (disch := decide) only [decode5F, fld, flag, field_above, field_inside, Nat.reduceSub, BitVec.extractLsb'_eq_self]
  have ha : a.wf = true := h
  simp [withSrc_code a ha rest]

theorem capr (sw d a) : Statement (.capr sw d a) := by
  intro h rest
  refine decodeWords_src ?_
  rw [decode, show fld _ 24 7 = 96#7 by simp (disch := decide) only [fld, flag, field_above, field_inside, Nat.reduceSub, BitVec.extractLsb'_eq_self]]
  show decode60 _ _ = _
  simp (disch := decide) only [decode60, fld, flag, field_above, field_inside, Nat.reduceSub, BitVec.extractLsb'_eq_self]
  have ha : a.wf = true := h
  simp [withSrc_code a ha rest]

theorem clauseFetch : Statement .clauseFetch := fun h => by cases h

theorem parkResume (x0) : Statement (.parkResume x0) := fun h => by cases h

theorem loadReturn (x0 x1 x2) : Statement (.loadReturn x0 x1 x2) := fun h => by cases h

theorem storeAck (x0 x1) : Statement (.storeAck x0 x1) := fun h => by cases h

theorem homeWriteApply (x0 x1 x2) : Statement (.homeWriteApply x0 x1 x2) := fun h => by cases h

theorem guestInvalidation (x0) : Statement (.guestInvalidation x0) := fun h => by cases h

theorem lineFill (x0) : Statement (.lineFill x0) := fun h => by cases h

theorem translationWalkComplete (x0 x1 x2) : Statement (.translationWalkComplete x0 x1 x2) := fun h => by cases h

theorem laneCopyLand (x0 x1) : Statement (.laneCopyLand x0 x1) := fun h => by cases h

theorem sleepEnd (x0) : Statement (.sleepEnd x0) := fun h => by cases h

theorem timerFire (x0) : Statement (.timerFire x0) := fun h => by cases h

theorem watchdogExpire (x0) : Statement (.watchdogExpire x0) := fun h => by cases h

theorem faultRecordSend (x0) : Statement (.faultRecordSend x0) := fun h => by cases h

theorem matrixStep (x0) : Statement (.matrixStep x0) := fun h => by cases h

theorem copySectorIssue (x0 x1) : Statement (.copySectorIssue x0 x1) := fun h => by cases h

theorem copySectorLand (x0 x1 x2) : Statement (.copySectorLand x0 x1 x2) := fun h => by cases h

theorem cplIterationStart (x0 x1) : Statement (.cplIterationStart x0 x1) := fun h => by cases h

theorem collChunkSend (x0 x1) : Statement (.collChunkSend x0 x1) := fun h => by cases h

theorem fabricChunkReceive (x0 x1) : Statement (.fabricChunkReceive x0 x1) := fun h => by cases h

theorem fabricAckReceive (x0 x1) : Statement (.fabricAckReceive x0 x1) := fun h => by cases h

theorem fabricRefusalReceive (x0 x1) : Statement (.fabricRefusalReceive x0 x1) := fun h => by cases h

theorem fabricNoticeReceive (x0 x1) : Statement (.fabricNoticeReceive x0 x1) := fun h => by cases h

theorem trapRecordReceive (x0 x1) : Statement (.trapRecordReceive x0 x1) := fun h => by cases h

theorem trapReplyReceive (x0 x1) : Statement (.trapReplyReceive x0 x1) := fun h => by cases h

theorem linkAckFrameReceive (x0 x1) : Statement (.linkAckFrameReceive x0 x1) := fun h => by cases h

theorem frameForward (x0 x1) : Statement (.frameForward x0 x1) := fun h => by cases h

theorem linkRetryTimeout (x0) : Statement (.linkRetryTimeout x0) := fun h => by cases h

theorem portLinkUp (x0) : Statement (.portLinkUp x0) := fun h => by cases h

theorem ackResendTimer (x0) : Statement (.ackResendTimer x0) := fun h => by cases h

theorem ptpSyncReceive (x0 x1) : Statement (.ptpSyncReceive x0 x1) := fun h => by cases h

theorem ptpPdelayReqReceive (x0 x1) : Statement (.ptpPdelayReqReceive x0 x1) := fun h => by cases h

theorem ptpPdelayRespReceive (x0 x1) : Statement (.ptpPdelayRespReceive x0 x1) := fun h => by cases h

theorem ptpPdelayRespFollowUp (x0 x1) : Statement (.ptpPdelayRespFollowUp x0 x1) := fun h => by cases h

theorem ptpManagementReceive (x0 x1) : Statement (.ptpManagementReceive x0 x1) := fun h => by cases h

theorem ptpSyncInterval (x0) : Statement (.ptpSyncInterval x0) := fun h => by cases h

theorem ptpPdelayReqInterval (x0) : Statement (.ptpPdelayReqInterval x0) := fun h => by cases h

theorem holdoverEnter : Statement .holdoverEnter := fun h => by cases h

theorem ptpLock (x0) : Statement (.ptpLock x0) := fun h => by cases h

theorem heartbeatSend : Statement .heartbeatSend := fun h => by cases h

theorem heartbeatReceive (x0 x1 x2) : Statement (.heartbeatReceive x0 x1 x2) := fun h => by cases h

theorem heartbeatLoss : Statement .heartbeatLoss := fun h => by cases h

theorem voteRequestReceive (x0 x1) : Statement (.voteRequestReceive x0 x1) := fun h => by cases h

theorem voteReceive (x0 x1 x2) : Statement (.voteReceive x0 x1 x2) := fun h => by cases h

theorem timetablePageReceive (x0 x1) : Statement (.timetablePageReceive x0 x1) := fun h => by cases h

theorem urgentRequestReceive (x0 x1 x2 x3) : Statement (.urgentRequestReceive x0 x1 x2 x3) := fun h => by cases h

theorem injectionStop (x0) : Statement (.injectionStop x0) := fun h => by cases h

theorem switchStart (x0) : Statement (.switchStart x0) := fun h => by cases h

theorem haltComplete (x0) : Statement (.haltComplete x0) := fun h => by cases h

theorem drainWindowClose (x0) : Statement (.drainWindowClose x0) := fun h => by cases h

theorem contextSaveComplete (x0) : Statement (.contextSaveComplete x0) := fun h => by cases h

theorem contextRestore (x0 x1 x2) : Statement (.contextRestore x0 x1 x2) := fun h => by cases h

theorem overrunHoldEnd (x0) : Statement (.overrunHoldEnd x0) := fun h => by cases h

theorem switchWatchdogExpire (x0) : Statement (.switchWatchdogExpire x0) := fun h => by cases h

theorem slotEnd (x0) : Statement (.slotEnd x0) := fun h => by cases h

theorem usageRecordPeriodic (x0) : Statement (.usageRecordPeriodic x0) := fun h => by cases h

theorem coreSwitchOut (x0) : Statement (.coreSwitchOut x0) := fun h => by cases h

theorem coreSwitchIn (x0 x1 x2) : Statement (.coreSwitchIn x0 x1 x2) := fun h => by cases h

theorem controlIntervalBoundary (x0) : Statement (.controlIntervalBoundary x0) := fun h => by cases h

theorem powerWindowStart (x0) : Statement (.powerWindowStart x0) := fun h => by cases h

theorem powerWindowEnd (x0) : Statement (.powerWindowEnd x0) := fun h => by cases h

theorem undeclaredThrottleEnd (x0 x1) : Statement (.undeclaredThrottleEnd x0 x1) := fun h => by cases h

theorem queuePop (x0) : Statement (.queuePop x0) := fun h => by cases h

theorem signalPacketWrite (x0 x1) : Statement (.signalPacketWrite x0 x1) := fun h => by cases h

theorem queueTranslationRetry (x0) : Statement (.queueTranslationRetry x0) := fun h => by cases h

theorem workgroupPlace (x0 x1) : Statement (.workgroupPlace x0 x1) := fun h => by cases h

theorem controlEventException (x0) : Statement (.controlEventException x0) := fun h => by cases h

theorem partCreateComplete (x0) : Statement (.partCreateComplete x0) := fun h => by cases h

theorem l2TagError (x0 x1 x2 x3) : Statement (.l2TagError x0 x1 x2 x3) := fun h => by cases h

theorem l2DataError (x0 x1 x2) : Statement (.l2DataError x0 x1 x2) := fun h => by cases h

theorem hbm4Uncorrectable (x0) : Statement (.hbm4Uncorrectable x0) := fun h => by cases h

theorem copySramError (x0) : Statement (.copySramError x0) := fun h => by cases h

theorem hostMemoryWrite (x0 x1 x2 x3 x4) : Statement (.hostMemoryWrite x0 x1 x2 x3 x4) := fun h => by cases h

theorem hostMemoryRead (x0 x1 x2 x3 x4) : Statement (.hostMemoryRead x0 x1 x2 x3 x4) := fun h => by cases h

theorem hostConfigRequest (x0 x1 x2) : Statement (.hostConfigRequest x0 x1 x2) := fun h => by cases h

theorem msixVectorUnmask (x0 x1) : Statement (.msixVectorUnmask x0 x1) := fun h => by cases h

theorem attestGo (x0) : Statement (.attestGo x0) := fun h => by cases h

theorem attestComplete (x0) : Statement (.attestComplete x0) := fun h => by cases h

theorem startRequest (x0) : Statement (.startRequest x0) := fun h => by cases h

theorem portcfgWrite (x0 x1) : Statement (.portcfgWrite x0 x1) := fun h => by cases h

theorem registerWrite (x0 x1) : Statement (.registerWrite x0 x1) := fun h => by cases h

theorem powerOn : Statement .powerOn := fun h => by cases h

theorem startStepComplete (x0) : Statement (.startStepComplete x0) := fun h => by cases h

theorem thermalShutdown : Statement .thermalShutdown := fun h => by cases h

theorem flowShutdown : Statement .flowShutdown := fun h => by cases h

theorem supplyOutOfRange (x0) : Statement (.supplyOutOfRange x0) := fun h => by cases h

theorem reservedOpcodeIssue (x0) : Statement (.reservedOpcodeIssue x0) := fun h => by cases h

theorem partDestroyComplete (x0) : Statement (.partDestroyComplete x0) := fun h => by cases h

theorem badFcsFrameReceive (x0) : Statement (.badFcsFrameReceive x0) := fun h => by cases h

theorem coolantOutOfRange : Statement .coolantOutOfRange := fun h => by cases h

theorem operatingConditionsRestored : Statement .operatingConditionsRestored := fun h => by cases h

end Sys2Proof.Laws.RoundTrip
end

