-- ==== Sys2Proof/Laws/Results.lean ====
section
/-! SUPPORT. What an instruction that writes one thing and moves on leaves, said once for each kind of thing: a scalar
register, scc, the team record, lanes of a vector register, the place it stands at. -/

namespace Sys2Proof.Machine

/-! ### Lanes -/

/-- Lane i after writing lane j. -/
theorem VecReg.lane_setLane (v : VecReg) (j : Nat) (x : Word) (i : Nat) (hi : i < 1024) :
    VecReg.lane (VecReg.setLane v j x) i = if i = j then x else VecReg.lane v i := by
  apply BitVec.eq_of_getLsbD_eq
  intro k hk
  have hm : ∀ m : Nat, (0xFFFFFFFF#32768).getLsbD m = decide (m < 32) := by
    intro m
    have h : Nat.testBit 0xFFFFFFFF m = decide (m < 32) := Nat.testBit_two_pow_sub_one 32 m
    rw [show (0xFFFFFFFF#32768) = BitVec.ofNat 32768 0xFFFFFFFF from rfl, BitVec.getLsbD_ofNat, h]
    by_cases hm : m < 32 <;> simp [hm]
    omega
  simp only [VecReg.lane, VecReg.setLane, BitVec.getLsbD_extractLsb', BitVec.getLsbD_or, BitVec.getLsbD_and,
    BitVec.getLsbD_not, BitVec.getLsbD_shiftLeft, hm, BitVec.getLsbD_setWidth, hk, decide_true, Bool.true_and]
  have hb : 32 * i + k < 32768 := by omega
  by_cases h : i = j
  · subst h
    have h1 : ¬ (32 * i + k < 32 * i) := by omega
    have h2 : 32 * i + k - 32 * i = k := by omega
    have h3 : k < 32768 := by omega
    simp [hb, h1, h2, h3, hk]
  · rw [if_neg h]
    simp only [BitVec.getLsbD_extractLsb', hk, decide_true, Bool.true_and]
    by_cases h1 : 32 * i + k < 32 * j
    · simp [hb, h1]
    · have h2 : ¬ (32 * i + k - 32 * j < 32) := by omega
      have h3 : x.getLsbD (32 * i + k - 32 * j) = false := BitVec.getLsbD_of_ge _ _ (by omega)
      simp [hb, h1, h2, h3]

/-- Lane i after writing the listed lanes. -/
theorem VecReg.lane_setLanes (v : VecReg) (ls : List Nat) (f : Nat → Word) (i : Nat) (hi : i < 1024) :
    VecReg.lane (VecReg.setLanes v ls f) i = if i ∈ ls then f i else VecReg.lane v i := by
  unfold VecReg.setLanes
  induction ls generalizing v with
  | nil => simp
  | cons j r ih =>
    rw [List.foldl_cons, ih, VecReg.lane_setLane v j _ i hi]
    by_cases hr : i ∈ r
    · simp [hr]
    · by_cases hj : i = j
      · subst hj; simp
      · simp [hr, hj]

theorem mem_lanesOf {m : Mask} {w i : Nat} : i ∈ lanesOf m w ↔ i < w ∧ m.getLsbD i = true := by
  simp [lanesOf]

theorem Team.mem_active {t : Team} {i : Nat} : i ∈ t.active ↔ i < t.width ∧ t.exec.getLsbD i = true := mem_lanesOf

/-! ### The results -/

/-- What `done` makes of a state whose hart stands as before. -/
theorem passed_done {s s' : State} (n : Nat) (sw : Bool) (hk : (s'.ctx s.cur).kind = (s.ctx s.cur).kind)
    (hp : (s'.ctx s.cur).pc = (s.ctx s.cur).pc) (hw : (s'.ctx s.cur).widx = (s.ctx s.cur).widx)
    (hc : (s'.ctx s.cur).clause = (s.ctx s.cur).clause) (hs : (s'.ctx s.cur).status = (s.ctx s.cur).status) :
    Passed s (s'.done s.cur n sw) n sw := by
  obtain ⟨h1, -, -, h4, h5⟩ := Ctx.past_spec (s'.ctx s.cur) n
  have hcw : (s'.ctx s.cur).clauseWords = (s.ctx s.cur).clauseWords := by simp [Ctx.clauseWords, hc]
  refine ⟨?_, ?_, ?_, ?_⟩
  · rw [State.done_ctx]; simp [h1, hk]
  · rw [State.done_ctx, StatusAfter, hs]
  · rw [State.done_ctx]
    intro h
    rw [← hw, ← hp, ← hc]
    exact h4 (by rw [hw, hcw]; exact h)
  · rw [State.done_ctx, ← hp, ← hcw, ← hw]
    exact h5

/-- What a state changed only in its hart's own registers and then moved on keeps. -/
theorem onlyHart_done {s s' : State} (n : Nat) (sw : Bool)
    (hr : ∃ cs ts vs, s' = { s with ctxs := cs, teams := ts, vregs := vs })
    (ho : ∀ h, h ≠ s.cur → s'.ctx h = s.ctx h ∧ s'.team h = s.team h ∧ ∀ r, r < 128 → s'.vreg h r = s.vreg h r) :
    OnlyHart s (s'.done s.cur n sw) := by
  obtain ⟨cs, ts, vs, rfl⟩ := hr
  obtain ⟨cs', ts', hd⟩ := State.done_rest { s with ctxs := cs, teams := ts, vregs := vs } s.cur n sw
  refine ⟨⟨cs', ts', vs, hd⟩, ?_, ?_⟩
  · intro h hh
    rw [State.done_ctx_ne _ n sw hh, State.done_team_ne _ n sw hh]
    simpa using ho h hh
  · exact SameMemory.of_eq (by rw [hd]) (by rw [hd]) (by rw [hd])

theorem sameTeam_done {s s' : State} (n : Nat) (sw : Bool) (hk : (s'.ctx s.cur).kind = (s.ctx s.cur).kind)
    (ht : s'.team s.cur = s.team s.cur) : SameTeam s (s'.done s.cur n sw) := by
  obtain ⟨h1, h2⟩ := State.done_team s' s.cur n sw
  rw [hk, ht] at h1
  rw [hk, ht] at h2
  exact ⟨h1, h2⟩

theorem teamIs_done {s s' : State} (n : Nat) (sw : Bool) (hk : (s'.ctx s.cur).kind = .team) :
    TeamIs s (s'.done s.cur n sw) (s'.team s.cur) := (State.done_team s' s.cur n sw).1 hk

theorem sameSregs_done {s s' : State} (n : Nat) (sw : Bool) (r : SReg) :
    (s'.done s.cur n sw).sreg s.cur r = s'.sreg s.cur r := by
  simp [State.sreg, State.done_ctx, (Ctx.past_spec (s'.ctx s.cur) n).2.1]

theorem sameScc_done {s s' : State} (n : Nat) (sw : Bool) :
    ((s'.done s.cur n sw).ctx s.cur).scc = (s'.ctx s.cur).scc := by
  simp [State.done_ctx, (Ctx.past_spec (s'.ctx s.cur) n).2.2.1]

/-- R119: writing s[d] and moving on. -/
theorem writesSreg_done (s : State) (d : SReg) (v : DWord) (n : Nat) (sw : Bool) :
    WritesSreg s (.next ((s.setSreg s.cur d v).done s.cur n sw)) d v n sw := by
  refine ⟨_, rfl, ?_, ?_, ?_, ?_, ?_, ?_, ?_⟩
  · rw [sameSregs_done]; simp
  · intro r hr; rw [sameSregs_done]; exact State.sreg_setSreg_ne s _ v hr
  · rw [SameScc, sameScc_done, State.ctx_setSreg]
  · exact sameTeam_done n sw (by rw [State.ctx_setSreg]) rfl
  · intro r _; simp
  · exact passed_done n sw (by rw [State.ctx_setSreg]) (by rw [State.ctx_setSreg]) (by rw [State.ctx_setSreg])
      (by rw [State.ctx_setSreg]) (by rw [State.ctx_setSreg])
  · exact onlyHart_done n sw ⟨_, _, _, rfl⟩ fun h hh => ⟨State.ctx_setSreg_ne s d v hh, rfl, fun _ _ => rfl⟩

/-- Writing scc and moving on. -/
theorem writesScc_done (s : State) (b : Bool) (n : Nat) (sw : Bool) :
    WritesScc s (.next ((s.setScc s.cur b).done s.cur n sw)) b n sw := by
  refine ⟨_, rfl, ?_, ?_, ?_, ?_, ?_, ?_⟩
  · rw [sameScc_done, State.ctx_setScc]
  · intro r; rw [sameSregs_done]; simp [State.sreg, State.ctx_setScc]
  · exact sameTeam_done n sw (by rw [State.ctx_setScc]) rfl
  · intro r _; simp
  · exact passed_done n sw (by rw [State.ctx_setScc]) (by rw [State.ctx_setScc]) (by rw [State.ctx_setScc])
      (by rw [State.ctx_setScc]) (by rw [State.ctx_setScc])
  · exact onlyHart_done n sw ⟨_, _, _, rfl⟩ fun h hh => ⟨State.ctx_setScc_ne s b hh, rfl, fun _ _ => rfl⟩

/-- Writing the team record and moving on. -/
theorem writesTeam_done (s : State) (x : Team) (n : Nat) (sw : Bool) (hk : (s.ctx s.cur).kind = .team) :
    WritesTeam s (.next ((s.setTeam s.cur x).done s.cur n sw)) x n sw := by
  refine ⟨_, rfl, ?_, ?_, ?_, ?_, ?_, ?_⟩
  · have h := teamIs_done (s := s) (s' := s.setTeam s.cur x) n sw hk
    rwa [State.team_setTeam] at h
  · intro r; rw [sameSregs_done]; rfl
  · rw [SameScc, sameScc_done]; rfl
  · intro r _; simp
  · exact passed_done n sw rfl rfl rfl rfl rfl
  · exact onlyHart_done n sw ⟨_, _, _, rfl⟩ fun h hh => ⟨rfl, State.team_setTeam_ne s x hh, fun _ _ => rfl⟩

/-- Moving on and nothing else. -/
theorem onlyPasses_done (s : State) (n : Nat) (sw : Bool) : OnlyPasses s (.next (s.done s.cur n sw)) n sw := by
  refine ⟨_, rfl, ?_, ?_, ?_, ?_, ?_, ?_⟩
  · intro r; rw [sameSregs_done]
  · rw [SameScc, sameScc_done]
  · exact sameTeam_done n sw rfl rfl
  · intro r _; simp
  · exact passed_done n sw rfl rfl rfl rfl rfl
  · exact onlyHart_done n sw ⟨_, _, _, rfl⟩ fun h hh => ⟨rfl, rfl, fun _ _ => rfl⟩

/-- R55, R127: one result word per active lane, and the team record (its flags among it) made `x`. -/
theorem writesLanes_done (s : State) (d : VReg) (f : Nat → Word) (x : Team) (n : Nat) (sw : Bool)
    (hk : (s.ctx s.cur).kind = .team) :
    WritesLanes s (.next (((s.putLanes s.cur d f).setTeam s.cur x).done s.cur n sw)) d f x n sw := by
  refine ⟨_, rfl, ?_, ?_, ?_, ?_, ?_, ?_, ?_⟩
  · intro i hi
    rw [State.done_vreg, State.vreg_setTeam, State.putLanes, State.vreg_setVreg, VecReg.lane_setLanes _ _ _ _ hi]
    simp [Team.mem_active]
  · intro r hr hd
    rw [State.done_vreg, State.vreg_setTeam, State.putLanes,
      State.vreg_setVreg_ne s _ d.isLt hr (Or.inr hd)]
  · have h := teamIs_done (s := s) (s' := (s.putLanes s.cur d f).setTeam s.cur x) n sw hk
    rwa [State.team_setTeam] at h
  · intro r; rw [sameSregs_done]; rfl
  · rw [SameScc, sameScc_done]; rfl
  · exact passed_done n sw rfl rfl rfl rfl rfl
  · exact onlyHart_done n sw ⟨_, _, _, rfl⟩ fun h hh => ⟨rfl, State.team_setTeam_ne _ x hh, fun r hr =>
      State.vreg_setVreg_ne s _ d.isLt hr (Or.inl hh)⟩

/-- R55, R127: the same for a form that sets no flag. -/
theorem writesLanes_plain (s : State) (d : VReg) (f : Nat → Word) (n : Nat) (sw : Bool)
    (hk : (s.ctx s.cur).kind = .team) :
    WritesLanes s (.next ((s.putLanes s.cur d f).done s.cur n sw)) d f (s.team s.cur) n sw := by
  refine ⟨_, rfl, ?_, ?_, ?_, ?_, ?_, ?_, ?_⟩
  · intro i hi
    rw [State.done_vreg, State.putLanes, State.vreg_setVreg, VecReg.lane_setLanes _ _ _ _ hi]
    simp [Team.mem_active]
  · intro r hr hd
    rw [State.done_vreg, State.putLanes, State.vreg_setVreg_ne s _ d.isLt hr (Or.inr hd)]
  · exact teamIs_done (s := s) (s' := s.putLanes s.cur d f) n sw hk
  · intro r; rw [sameSregs_done]; rfl
  · rw [SameScc, sameScc_done]; rfl
  · exact passed_done n sw rfl rfl rfl rfl rfl
  · exact onlyHart_done n sw ⟨_, _, _, rfl⟩ fun h hh => ⟨rfl, rfl, fun r hr =>
      State.vreg_setVreg_ne s _ d.isLt hr (Or.inl hh)⟩

/-! ### Transfers -/

theorem jumped_jump {s s' : State} (a : Addr) (sw : Bool) (hk : (s'.ctx s.cur).kind = (s.ctx s.cur).kind)
    (hs : (s'.ctx s.cur).status = (s.ctx s.cur).status) : Jumped s (s'.jump s.cur a sw) a sw := by
  refine ⟨?_, ?_, ?_, ?_, ?_⟩ <;> rw [State.jump_ctx]
  · exact hk
  · rw [StatusAfter, hs]

theorem onlyHart_jump {s s' : State} (a : Addr) (sw : Bool)
    (hr : ∃ cs ts vs, s' = { s with ctxs := cs, teams := ts, vregs := vs })
    (ho : ∀ h, h ≠ s.cur → s'.ctx h = s.ctx h ∧ s'.team h = s.team h ∧ ∀ r, r < 128 → s'.vreg h r = s.vreg h r) :
    OnlyHart s (s'.jump s.cur a sw) := by
  obtain ⟨cs, ts, vs, rfl⟩ := hr
  obtain ⟨cs', ts', hd⟩ := State.jump_rest { s with ctxs := cs, teams := ts, vregs := vs } s.cur a sw
  refine ⟨⟨cs', ts', vs, hd⟩, ?_, ?_⟩
  · intro h hh
    rw [State.jump_ctx_ne _ a sw hh, State.jump_team_ne _ a sw hh]
    simpa using ho h hh
  · exact SameMemory.of_eq (by rw [hd]) (by rw [hd]) (by rw [hd])

theorem sreg_jump {s s' : State} (a : Addr) (sw : Bool) (r : SReg) :
    (s'.jump s.cur a sw).sreg s.cur r = s'.sreg s.cur r := by
  simp [State.sreg, State.jump_ctx]

/-- A transfer that links nothing. -/
theorem transfers_jump (s : State) (a : Addr) (sw : Bool) : Transfers s (.next (s.jump s.cur a sw)) a none sw := by
  refine ⟨_, rfl, jumped_jump a sw rfl rfl, fun r => sreg_jump a sw r, ?_, State.jump_team s s.cur a sw, ?_,
    onlyHart_jump a sw ⟨_, _, _, rfl⟩ fun h hh => ⟨rfl, rfl, fun _ _ => rfl⟩⟩
  · rw [SameScc, State.jump_ctx]
  · intro r _; simp

/-- A transfer that links s[63]. -/
theorem transfers_link (s : State) (v a : Addr) (sw : Bool) :
    Transfers s (.next ((s.setSreg s.cur 63#6 v).jump s.cur a sw)) a (some v) sw := by
  have hk : ((s.setSreg s.cur 63#6 v).ctx s.cur).kind = (s.ctx s.cur).kind := by rw [State.ctx_setSreg]
  refine ⟨_, rfl, jumped_jump a sw hk (by rw [State.ctx_setSreg]), ⟨?_, ?_⟩, ?_, ?_, ?_,
    onlyHart_jump a sw ⟨_, _, _, rfl⟩ fun h hh => ⟨State.ctx_setSreg_ne s _ v hh, rfl, fun _ _ => rfl⟩⟩
  · rw [sreg_jump]; simp
  · intro r hr; rw [sreg_jump]; exact State.sreg_setSreg_ne s _ v hr
  · rw [SameScc, State.jump_ctx, State.ctx_setSreg]
  · have h := State.jump_team (s.setSreg s.cur 63#6 v) s.cur a sw
    rw [hk] at h
    exact h
  · intro r _; simp

end Sys2Proof.Machine
end

