-- ==== Sys2Proof/Laws/Requests.lean ====
section
/-! SUPPORT. What a memory instruction that gets past its checks leaves behind: one request (R19, R157-R163). -/

namespace Sys2Proof.Machine

theorem State.checkAll_ok (s : State) (h : Nat) (sp : Space) (k : Access) (asks : List Ask)
    (ha : ∀ q ∈ asks, ∃ bs, s.checkAsk h sp k q.addr q.n = .ok bs) :
    (s.checkAll h sp k asks).bad = [] ∧
    (s.checkAll h sp k asks).good.map (fun q => (q.lane, q.va, q.data, q.data2)) =
      asks.map (fun q => (q.lane, q.addr, q.data, q.data2)) ∧
    (s.checkAll h sp k asks).good.map (fun q => some q.bytes) =
      asks.map fun q => (s.checkAsk h sp k q.addr q.n).toOption := by
  induction asks with
  | nil => simp [State.checkAll]
  | cons q r ih =>
    obtain ⟨h1, h2, h3⟩ := ih fun q hq => ha q (List.mem_cons_of_mem _ hq)
    obtain ⟨bs, hb⟩ := ha q (List.mem_cons_self ..)
    simp only [State.checkAll, hb]
    refine ⟨h1, ?_, ?_⟩
    · simp [h2]
    · simp [h3, hb, Except.toOption]

theorem State.checkAll_mem (s : State) (h : Nat) (sp : Space) (k : Access) (asks : List Ask) {g : LaneReq}
    (hg : g ∈ (s.checkAll h sp k asks).good) : ∃ q ∈ asks, s.checkAsk h sp k q.addr q.n = .ok g.bytes := by
  induction asks with
  | nil => simp [State.checkAll] at hg
  | cons q r ih =>
    simp only [State.checkAll] at hg
    cases hb : s.checkAsk h sp k q.addr q.n with
    | ok bs =>
      rw [hb] at hg
      rcases List.mem_cons.mp hg with rfl | hg
      · exact ⟨q, List.mem_cons_self .., hb⟩
      · obtain ⟨q', h1, h2⟩ := ih hg
        exact ⟨q', List.mem_cons_of_mem _ h1, h2⟩
    | error x =>
      rw [hb] at hg
      obtain ⟨q', h1, h2⟩ := ih hg
      exact ⟨q', List.mem_cons_of_mem _ h1, h2⟩

theorem State.acquire_team_ne (s : State) {h h' : Nat} (c : Scope) (e : h' ≠ h) : (s.acquire h c).team h' = s.team h' := by
  unfold State.acquire
  split
  · rfl
  · rfl
  · simp only
    split <;> split <;> first | rfl | exact State.team_setTeam_ne _ _ e
theorem State.acquire_team (s : State) (h : Nat) (c : Scope) : ∃ n, (s.acquire h c).team h = { s.team h with fresh := n } := by
  unfold State.acquire
  split
  · exact ⟨_, rfl⟩
  · exact ⟨_, rfl⟩
  · simp only
    split <;> split <;> first | exact ⟨_, rfl⟩ | exact ⟨_, State.team_setTeam ..⟩

theorem State.writeL1_rest (s : State) (core : Nat) (bs : List (Loc × Byte)) : ∃ x, s.writeL1 core bs = { s with l1 := x } := by
  induction bs generalizing s with
  | nil => exact ⟨_, rfl⟩
  | cons p r ih =>
    obtain ⟨x, hx⟩ : ∃ x, s.writeL1 core [p] = { s with l1 := x } := by
      unfold State.writeL1
      simp only [List.foldl_cons, List.foldl_nil]
      split <;> exact ⟨_, rfl⟩
    obtain ⟨y, hy⟩ := ih { s with l1 := x }
    exact ⟨y, by show State.writeL1 (s.writeL1 core [p]) core r = _; rw [hx, hy]⟩

theorem State.writeGuest_rest (s : State) (die : Nat) (bs : List (Loc × Byte)) :
    ∃ y n, s.writeGuest die bs = { s with l2 := y, now := n } := by
  induction bs generalizing s with
  | nil => exact ⟨_, _, rfl⟩
  | cons p r ih =>
    obtain ⟨x, m, hx⟩ : ∃ x m, s.writeGuest die [p] = { s with l2 := x, now := m } := by
      unfold State.writeGuest
      simp only [List.foldl_cons, List.foldl_nil]
      split <;> exact ⟨_, _, rfl⟩
    obtain ⟨y, n, hy⟩ := ih { s with l2 := x, now := m }
    exact ⟨y, n, by show State.writeGuest (s.writeGuest die [p]) die r = _; rw [hx, hy]⟩

/-- A store's bytes taken into the copies of its own core and die (R164). -/
theorem State.showStore_spec (good : List LaneReq) (core : Nat) (s : State) :
    (∃ x y n, s.showStore core good = { s with l1 := x, l2 := y, now := n }) ∧
      (Sound s.mem s.l2 → KeepsHome s (s.showStore core good)) := by
  induction good generalizing s with
  | nil => exact ⟨⟨_, _, _, rfl⟩, KeepsHome.refl⟩
  | cons q r ih =>
    obtain ⟨x, hx⟩ := s.writeL1_rest core q.placed
    obtain ⟨y, n, hy⟩ := State.writeGuest_rest { s with l1 := x } (dieOfCore core) q.placed
    obtain ⟨⟨x', y', n', h1⟩, h2⟩ := ih ((s.writeL1 core q.placed).writeGuest (dieOfCore core) q.placed)
    refine ⟨⟨x', y', n', ?_⟩, fun hs => ?_⟩
    · show State.showStore _ core r = _
      rw [h1, hx, hy]
    · have k1 : KeepsHome s (s.writeL1 core q.placed) := KeepsHome.of_eq hs (by rw [hx]) (by rw [hx])
      have k2 := State.writeGuest_keeps k1.sound (dieOfCore core) q.placed
      exact (k1.trans k2).trans (h2 k2.sound)

/-- The request a memory instruction leaves, as `issueReq` makes it. -/
theorem State.issueReq_spec (s : State) (h : Nat) (f : MemForm) (good : List LaneReq) :
    (good = [] → ∃ ts x n, s.issueReq h f good = { s with teams := ts, l1 := x, now := n }) ∧
    (good ≠ [] → ∃ x y n r, s.issueReq h f good =
        { (s.setTeam h { s.team h with reqs := (s.team h).reqs ++ [r] }) with nextId := s.nextId + 1, l1 := x, l2 := y, now := n } ∧
      (r.id, r.kind, r.space, r.dest, r.sext) = (s.nextId, f.kind, f.space, f.dest, f.sext) ∧
      (r.reach, r.acquire, r.pc, r.widx) = (f.reach, f.acquire, (s.ctx h).pc, (s.ctx h).widx) ∧
      r.back = [] ∧ r.pois = [] ∧ r.todo = good) ∧
    ((f.kind = .store → f.space = .global → Sound s.mem s.l2) →
      (∀ l, (s.issueReq h f good).homeByte l = s.homeByte l) ∧ ∀ g o, (s.issueReq h f good).spByte g o = s.spByte g o) := by
  unfold State.issueReq
  by_cases hg : good = []
  · subst hg
    simp only [List.isEmpty_nil, if_true, ne_eq, not_true_eq_false, false_implies, true_and, forall_const]
    cases f.acquire with
    | none => exact ⟨⟨_, _, _, rfl⟩, fun _ => ⟨fun _ => rfl, fun _ _ => rfl⟩⟩
    | some c =>
      obtain ⟨ts, x, n, e⟩ := s.acquire_rest h c
      exact ⟨⟨ts, x, n, e⟩, fun _ => ⟨State.homeByte_of_eq (t := s.acquire h c) (by rw [e]) (by rw [e]),
        State.spByte_of_eq (t := s.acquire h c) (by rw [e])⟩⟩
  · have he : good.isEmpty = false := by cases good <;> simp_all
    simp only [he, Bool.false_eq_true, if_false, hg, false_implies, true_and, ne_eq, not_false_eq_true, forall_const]
    split
    · rename_i hk hsp
      split
      · exact ⟨⟨_, _, _, _, rfl, rfl, rfl, rfl, rfl, rfl⟩, fun _ => ⟨fun _ => rfl, fun _ _ => rfl⟩⟩
      · generalize hr : ({ id := s.nextId, kind := f.kind, space := f.space, dest := f.dest, sext := f.sext, reach := f.reach,
                           acquire := f.acquire, pc := (s.ctx h).pc, widx := (s.ctx h).widx,
                           word := ((s.ctx h).instrWords 1).setWidth 32, todo := good, back := [],
                           deps := Store.get [] s.dieSeen (dieOfCore (s.coreOf h)), pois := [],
                           quiet := (s.team h).hazard s.nextId f good, applied := [] } : Req) = r
        obtain ⟨⟨x, y, n, e⟩, hs⟩ := State.showStore_spec good (s.coreOf h)
          (State.setTeam { s with nextId := s.nextId + 1 } h { s.team h with reqs := (s.team h).reqs ++ [r] })
        refine ⟨⟨x, y, n, r, e, ?_, ?_, ?_, ?_, ?_⟩, fun hss => ⟨fun l => (hs (hss hk hsp)).same l, ?_⟩⟩
        all_goals first
          | (subst hr; rfl)
          | exact State.spByte_of_eq (by rw [e]; rfl)
    · exact ⟨⟨_, _, _, _, rfl, rfl, rfl, rfl, rfl, rfl⟩, fun _ => ⟨fun _ => rfl, fun _ _ => rfl⟩⟩

/-- R157: a memory instruction whose checks pass, whose lanes all pass and which need not wait. -/
theorem State.memory_eq {s : State} {f : MemForm} {asks : List Ask} (sw : Bool) (hm : MayIssue s f asks) :
    ∃ good : List LaneReq, good.map (fun q => (q.lane, q.va, q.data, q.data2)) = asks.map (fun q => (q.lane, q.addr, q.data, q.data2)) ∧
      good.map (fun q => some q.bytes) = asks.map (fun q => (s.checkAsk s.cur f.space f.access q.addr q.n).toOption) ∧
      s.memory s.cur f asks sw =
        match f.acquire with
        | some _ => if good.isEmpty then (s.issueReq s.cur f good).done s.cur 1 sw
                    else ((s.issueReq s.cur f good).done s.cur 1 sw).park s.cur (.landed s.nextId sw)
        | none => (s.issueReq s.cur f good).done s.cur 1 sw := by
  obtain ⟨h1, h2, hw, h3, h4⟩ := hm
  have hok : ∀ q ∈ asks, ∃ bs, s.checkAsk s.cur f.space f.access q.addr q.n = .ok bs := fun q hq =>
    ⟨(h4 q hq).2.choose, (h4 q hq).2.choose_spec.1⟩
  obtain ⟨g1, g2, g3⟩ := s.checkAll_ok s.cur f.space f.access asks hok
  refine ⟨_, g2, g3, ?_⟩
  have hodd : (asks.filter fun q => f.align && q.addr.toNat % q.n != 0) = [] := by
    rw [List.filter_eq_nil_iff]
    intro q hq
    have h5 := (h4 q hq).1
    cases hf : f.align with
    | false => simp
    | true => simp [h5 hf]
  have hdet : (f.noDet && s.det s.cur) = false := by
    cases hf : f.noDet
    · rfl
    · simp [h1 hf]
  have hrel : (f.release && ((s.team s.cur).loads != 0 || (s.team s.cur).stores != 0)) = false := by
    cases hf : f.release
    · rfl
    · simp [h2 hf]
  have heng : (f.space == .scratch && (s.wgOf s.cur).enginePage (pagesOf ((s.checkAll s.cur f.space f.access asks).good.flatMap (·.bytes)))) = false := by
    by_cases hf : f.space = .scratch
    · have : (s.wgOf s.cur).enginePage (pagesOf ((s.checkAll s.cur f.space f.access asks).good.flatMap (·.bytes))) = false := by
        unfold Workgroup.enginePage
        rw [List.any_eq_false]
        intro p hp
        unfold pagesOf at hp
        rw [List.mem_eraseDups, List.mem_map] at hp
        obtain ⟨b, hb, rfl⟩ := hp
        obtain ⟨g, hg, hb⟩ := List.mem_flatMap.mp hb
        obtain ⟨q, hq, hc⟩ := s.checkAll_mem s.cur f.space f.access asks hg
        obtain ⟨-, bs, e1, e2⟩ := h4 q hq
        rw [hc] at e1
        injection e1 with e1
        subst e1
        simpa using e2 hf b hb
      simp [this]
    · simp [hf]
  have hfull : (t : Team) → t = s.team s.cur → t.full f.kind.isLoad = false := by
    rintro t rfl
    unfold Team.full
    split at h3 <;> rename_i hl <;> simp [hl] <;> omega
  have hwalk : s.asksWalks s.cur f.space asks = [] := by
    unfold State.asksWalks
    cases hf : f.space
    · exact hw hf
    · rfl
  unfold State.memory
  simp only [hdet, hrel, hodd, hwalk, Bool.not_true, heng, hfull _ rfl, g1, Bool.and_false, Bool.false_eq_true, if_false,
    List.isEmpty_nil, if_true]
  all_goals (cases f.acquire <;> rfl)

/-- R157-R163: a memory instruction that may issue leaves its request and moves on, or, with an acquire, waits for its
landing. -/
theorem memory_issues {s : State} {f : MemForm} {asks : List Ask} (sw : Bool) (hk : (s.ctx s.cur).kind = .team)
    (hm : MayIssue s f asks) (hs : f.kind = .store → f.space = .global → SoundMemory s) :
    IssuesRequest s (.next (s.memory s.cur f asks sw)) f asks sw := by
  obtain ⟨good, g1, g2, e⟩ := State.memory_eq sw hm
  obtain ⟨i1, i2, i3⟩ := s.issueReq_spec s.cur f good
  obtain ⟨b1, b2⟩ := i3 fun h1 h2 => (soundMemory_iff s).mp (hs h1 h2)
  have hnil : asks = [] ↔ good = [] := by
    have := congrArg List.length g1
    simp only [List.length_map] at this
    constructor
    · rintro rfl; simpa using this
    · rintro rfl; simpa using this.symm
  -- the state the request leaves before the hart moves on
  obtain ⟨u, hu⟩ : ∃ u, u = s.issueReq s.cur f good := ⟨_, rfl⟩
  have hrest : u.ctxs = s.ctxs ∧ u.vregs = s.vregs ∧ (∀ h, h ≠ s.cur → u.team h = s.team h) ∧
      (∃ ts x y n m, u = { s with teams := ts, l1 := x, l2 := y, nextId := n, now := m }) ∧
      (good = [] → (u.team s.cur).reqs = (s.team s.cur).reqs) := by
    by_cases hg : good = []
    · have ha : u = s ∨ ∃ c, u = s.acquire s.cur c := by
        rw [hu, hg]
        unfold State.issueReq
        simp only [List.isEmpty_nil, if_true]
        cases f.acquire with
        | none => exact .inl rfl
        | some c => exact .inr ⟨c, rfl⟩
      rcases ha with e | ⟨c, e⟩
      · rw [e]
        exact ⟨rfl, rfl, fun _ _ => rfl, ⟨_, _, _, _, _, rfl⟩, fun _ => rfl⟩
      · obtain ⟨ts, x, n, e'⟩ := s.acquire_rest s.cur c
        obtain ⟨n', e3⟩ := s.acquire_team s.cur c
        refine ⟨by rw [e, e'], by rw [e, e'], fun h hh => by rw [e, s.acquire_team_ne c hh], ⟨_, _, _, _, _, by rw [e, e']⟩,
          fun _ => by rw [e, e3]⟩
    · obtain ⟨x, y, n, r, e1, -⟩ := i2 hg
      rw [← hu] at e1
      refine ⟨by rw [e1]; rfl, by rw [e1]; rfl, fun h hh => ?_, ⟨_, _, _, _, _, e1⟩, fun hc => absurd hc hg⟩
      rw [e1]
      exact State.team_setTeam_ne s _ hh
  obtain ⟨c1, c2, c3, c4, c5⟩ := hrest
  rw [← hu] at e b1 b2 i2
  have hctx : ∀ h, u.ctx h = s.ctx h := fun h => by unfold State.ctx; rw [c1]
  have hvreg : ∀ h r, u.vreg h r = s.vreg h r := fun h r => by unfold State.vreg; rw [c2]
  -- the state after it has moved on
  obtain ⟨v, hv⟩ : ∃ v, v = s.memory s.cur f asks sw := ⟨_, rfl⟩
  rw [← hv] at e ⊢
  have hv' : v = u.done s.cur 1 sw ∨ (good ≠ [] ∧ (∃ c, f.acquire = some c) ∧
      v = (u.done s.cur 1 sw).park s.cur (.landed s.nextId sw)) := by
    cases ha : f.acquire with
    | none => rw [ha] at e; exact .inl e
    | some c =>
      rw [ha] at e
      simp only at e
      split at e
      · exact .inl e
      · rename_i hne
        exact .inr ⟨fun hc => hne (by rw [hc]; rfl), ⟨c, rfl⟩, e⟩
  have hdk : (u.ctx s.cur).kind = .team := by rw [hctx]; exact hk
  have hsreg : ∀ r, v.sreg s.cur r = s.sreg s.cur r := by
    intro r
    have h0 : (u.done s.cur 1 sw).sreg s.cur r = s.sreg s.cur r := by
      rw [sameSregs_done]; unfold State.sreg; rw [hctx]
    rcases hv' with e | ⟨-, -, e⟩ <;> rw [e]
    · exact h0
    · rw [← h0]; unfold State.park State.sreg; rw [State.ctx_setCtx]
  have hscc : (v.ctx s.cur).scc = (s.ctx s.cur).scc := by
    have h0 : ((u.done s.cur 1 sw).ctx s.cur).scc = (s.ctx s.cur).scc := by
      rw [sameScc_done, hctx]
    rcases hv' with e | ⟨-, -, e⟩ <;> rw [e]
    · exact h0
    · rw [← h0]; unfold State.park; rw [State.ctx_setCtx]
  have hvv : ∀ h r, v.vreg h r = s.vreg h r := by
    intro h r
    rcases hv' with e | ⟨-, -, e⟩ <;> rw [e]
    · rw [State.done_vreg, hvreg]
    · show (u.done s.cur 1 sw).vreg h r = _
      rw [State.done_vreg, hvreg]
  obtain ⟨cs, ts, hd⟩ := State.done_rest u s.cur 1 sw
  have hvr : ∃ cs ts, v = { u with ctxs := cs, teams := ts } := by
    rcases hv' with e | ⟨-, -, e⟩
    · exact ⟨cs, ts, by rw [e, hd]⟩
    · exact ⟨_, ts, by rw [e, hd]; rfl⟩
  have hteam : ∀ h, v.team h = (u.done s.cur 1 sw).team h := by
    intro h
    rcases hv' with e | ⟨-, -, e⟩ <;> rw [e]
    rfl
  have hpass : Passed s (u.done s.cur 1 sw) 1 sw :=
    passed_done 1 sw (by rw [hctx]) (by rw [hctx]) (by rw [hctx]) (by rw [hctx]) (by rw [hctx])
  refine ⟨v, rfl, hsreg, hscc, fun r _ => hvv _ r, ?_, ?_, ?_, ?_, ?_⟩
  · obtain ⟨cs', ts', hvr⟩ := hvr
    exact ⟨fun l => (State.homeByte_of_eq (s := u) (by rw [hvr]) (by rw [hvr]) l).trans (b1 l),
      fun g o => (State.spByte_of_eq (s := u) (by rw [hvr]) g o).trans (b2 g o)⟩
  · intro h hh
    refine ⟨?_, ?_, fun r _ => hvv h r⟩
    · have h0 : (u.done s.cur 1 sw).ctx h = s.ctx h := by rw [State.done_ctx_ne _ 1 sw hh, hctx]
      rcases hv' with e | ⟨-, -, e⟩ <;> rw [e]
      · exact h0
      · rw [← h0]; exact State.ctx_setCtx_ne _ _ hh
    · rw [hteam, State.done_team_ne _ 1 sw hh, c3 h hh]
  · obtain ⟨cs', ts', hvr⟩ := hvr
    obtain ⟨ts, x, y, n, m, c4⟩ := c4
    exact ⟨cs', ts', x, y, n, m, by rw [hvr, c4]⟩
  · intro ha
    have hg := hnil.mp ha
    have e' : v = u.done s.cur 1 sw := by
      rcases hv' with e | ⟨h, -⟩
      · exact e
      · exact absurd hg h
    refine ⟨?_, by rw [e']; exact hpass⟩
    rw [hteam, (State.done_team u s.cur 1 sw).1 hdk, ← c5 hg]
    rfl
  · intro ha
    have hg : good ≠ [] := fun h => ha (hnil.mpr h)
    obtain ⟨x, y, n, r, e1, r1, r2, r3, r4, r5⟩ := i2 hg
    refine ⟨?_, ?_, r, ?_, r1, r2, r3, r4, ?_, ?_⟩
    · obtain ⟨cs', ts', hvr⟩ := hvr
      rw [hvr, e1]
    · cases hf : f.acquire with
      | none =>
        simp only
        rcases hv' with e | ⟨-, ⟨c, hc⟩, -⟩
        · rw [e]; exact hpass
        · rw [hf] at hc; simp at hc
      | some c =>
        simp only
        have e' : v = (u.done s.cur 1 sw).park s.cur (.landed s.nextId sw) := by
          rw [hf] at e
          simp only at e
          rw [if_neg (by simpa using hg)] at e
          exact e
        obtain ⟨p1, p2, p3, p4⟩ := hpass
        rw [e']
        unfold State.park
        refine ⟨?_, ?_, ?_, ?_⟩ <;> rw [State.ctx_setCtx]
        · exact p1
        · exact p3
        · exact p4
    · unfold TeamIs
      rw [hteam, (State.done_team u s.cur 1 sw).1 hdk, e1]
      show _ = _
      have : ({ (s.setTeam s.cur { s.team s.cur with reqs := (s.team s.cur).reqs ++ [r] }) with
          nextId := s.nextId + 1, l1 := x, l2 := y, now := n } : State).team s.cur = { s.team s.cur with reqs := (s.team s.cur).reqs ++ [r] } :=
        State.team_setTeam ..
      rw [this]
    · rw [r5]; exact g1
    · rw [r5]; exact g2

end Sys2Proof.Machine
end

