-- ==== Sys2Proof/Tests/Slice0.lean ====
section
/-! SUPPORT. Small tests: ill-formed terms that the checks refuse, words of the spec that decode, single steps whose results the
spec gives, and for each statement with hypotheses a state and operands that meet them. -/

open Sys2Proof Sys2Proof.Machine Sys2Proof.Claims

namespace Sys2Proof.Tests

set_option Elab.async false

/-! ### Small states -/

/-- A team of 64 lanes, of workgroup 20. -/
def team : Team := { Team.blank with wg := 20, width := 64, vregs := 64, exec := maskBelow 64, wdleft := 5 }
/-- Its launch. -/
def launch : Launch := { Launch.blank with width := 64, vregs := 64, teams := 2, spkib := 64, ceil := 7 }
/-- Its workgroup. -/
def wg : Workgroup := { Workgroup.blank with launch := launch, teams := [5] }
/-- A translation of virtual pages 0 to 31 in the cache of core 0. -/
def page : TlbEntry :=
  { cluster := false, unit := 0, part := 1, vpage := 0, pages := 32, ppage := 32, r := true, w := true, x := true, pin := none }
/-- Hart 5, a team, is to issue; s1 is 0x100, s2 is 2^20 - 1 and s3 is 0. -/
def running (t : Team) : State :=
  { State.reset with
    cur := 5, nextId := 100, teams := [(5, t)], wgs := [(20, wg)], parts := [(1, { Partition.blank with live := true })],
    tlb := [page],
    ctxs := [(5, { Ctx.blank with kind := .team, status := .ready, pc := 0x2000#64, sregs := [(1, 0x100#64), (2, 0xFFFFF#64)] })] }
/-- Control-core thread 0 at a level is to issue; s1 is 0x100 and s2 the end of HBM4. -/
def control (l : BitVec 2) : State :=
  { State.reset with
    nextId := 100, threads := [(0, { Thread.blank with level := l })],
    ctxs := [(0, { Ctx.blank with kind := .thread, status := .ready, sregs := [(1, 0x100#64), (2, 0x12000000000#64)] })] }
/-- A request of the team that is under way: a load or a store of lane 0 to address 0x300. -/
def request (k : ReqKind) : Req :=
  { id := 50, kind := k, space := .global, dest := .vec 3, sext := false, reach := .near, acquire := none, pc := 0x2000#64,
    widx := 0, word := 0#32, back := [], deps := [], pois := [], quiet := false, applied := [],
    todo := [⟨0, 0x300#64, [⟨0x200300, none⟩, ⟨0x200301, none⟩, ⟨0x200302, none⟩, ⟨0x200303, none⟩], 7, 0, []⟩] }
/-- The team with a load under way, and with a store. -/
def loading : Team := { team with reqs := [request .load] }
def storing : Team := { team with reqs := [request .store] }
/-- A MATRIX foal of the team that holds v0 to v31. -/
def matrixFoal : Foal :=
  { id := 60, kind := .matrix, gen := 1#12, status := .running, prio := 0, chain := 0, detached := false, regdest := true,
    depv := false, canreq := false, team := 5, teamix := 0, wg := 20, wgix := 0, origin := launch, level := .attached,
    adopter := 5, preds := [], dep := none, progress := 0, fcode := none, faddr := 0#64, flanes := 0#64, started := false,
    told := false, orphan := none, pages := [], reads := [], writes := [], throttle := none, declared := true,
    job := .mma ⟨.dense, 0#64, 0, [], [], [], [], [], 1, 0⟩ }
/-- A state with one foal in slot 3 of core 0. -/
def withFoal (s : State) (f : Foal) : State := { s with foals := [(3, f)] }


/-! ### Single steps of the spec's examples -/

/-- The first lane of v2 and the flags after an instruction of a team with that lane alone active, v1 holding b and v2 holding d. -/
def laneAfter (i : Instr) (b d : Word) : Option (Word × FFlags) :=
  let s := { running { team with exec := 1#1024 } with vregs := [(5 * 128 + 1, b.setWidth 32768), (5 * 128 + 2, d.setWidth 32768)] }
  match exec i s with
  | .next t => some ((t.vreg 5 2).lane 0, (t.team 5).flags)
  | .fault _ => none
  | .refused _ => none

/-- The worked example of 05_vector.md, integer rows. -/
theorem test_step_integer :
    laneAfter (.viaddS32sat false 2#7 1#7 (.lit 1#32)) 0x7FFFFFFF#32 0#32 = some (0x7FFFFFFF#32, 0#5) ∧
    laneAfter (.viaddI8x4 false 2#7 1#7 (.lit 0x01010101#32)) 0x7F80FF01#32 0#32 = some (0x80810002#32, 0#5) ∧
    laneAfter (.vimulHs false 2#7 1#7 (.lit 0xFFFFFFFF#32)) 0xFFFFFFFF#32 0#32 = some (0#32, 0#5) ∧
    laneAfter (.vimulHn false 2#7 1#7 (.lit 0xFFFFFFFF#32)) 0xFFFFFFFF#32 0#32 = some (0xFFFFFFFE#32, 0#5) ∧
    laneAfter (.vimadDot4s8 false 2#7 1#7 (.lit 0x7F020304#32)) 0x80FF0102#32 0#32 = some (0xFFFFC089#32, 0#5) ∧
    laneAfter (.vimadDot4n8 false 2#7 1#7 (.lit 0x7F020304#32)) 0x80FF0102#32 0#32 = some (0x4189#32, 0#5) := by
  decide +kernel
theorem test_step_bits :
    laneAfter (.vshfShl false 2#7 1#7 (.lit 33#32)) 3#32 0#32 = some (6#32, 0#5) ∧
    laneAfter (.vbitClz false 2#7 (.lit 0#32)) 0#32 0#32 = some (0x20#32, 0#5) ∧
    laneAfter (.vbitFfs false 2#7 (.lit 0x100#32)) 0#32 0#32 = some (8#32, 0#5) ∧
    laneAfter (.vsx8 false 2#7 (.lit 0x80#32)) 0#32 0#32 = some (0xFFFFFF80#32, 0#5) ∧
    laneAfter (.vpackS16x2sat false 2#7 1#7 (.lit 0xFFFFFFFB#32)) 40000#32 0#32 = some (0xFFFB7FFF#32, 0#5) ∧
    laneAfter (.vexpd false 2#7 0#2 (.lit 0x2C3087F1#32)) 0#32 0#32 = some (0xBF803F80#32, 0#5) ∧
    laneAfter (.vexpd false 2#7 1#2 (.lit 0x2C3087F1#32)) 0#32 0#32 = some (0xC10040E0#32, 0#5) := by
  decide +kernel
/-- Its floating-point rows; NV is bit 0 of FLAGS (R67). -/
theorem test_step_float :
    laneAfter (.vfsubF32 false 2#7 1#7 (.lit 0#32)) 0x80000000#32 0#32 = some (0x80000000#32, 0#5) ∧
    laneAfter (.vfmaF32 false 2#7 1#7 (.lit 0#32)) 0x7F800000#32 0x3F800000#32 = some (0x7FC00000#32, 1#5) ∧
    laneAfter (.vfrndFloor false 2#7 (.lit 0xBF000000#32)) 0#32 0#32 = some (0xBF800000#32, 0#5) ∧
    laneAfter (.vfrndCeil false 2#7 (.lit 0xBF000000#32)) 0#32 0#32 = some (0x80000000#32, 0#5) ∧
    laneAfter (.vfcvtRtz false 2#7 .s32F32 (.lit 0x4F32D05E#32)) 0#32 0#32 = some (0x7FFFFFFF#32, 1#5) ∧
    laneAfter (.vfcvtRtz false 2#7 .n32F32 (.lit 0xBFC00000#32)) 0#32 0#32 = some (0#32, 1#5) := by
  decide +kernel

/-- s3 after an instruction of thread 0 with s1 holding x. -/
def scalarAfter (i : Instr) (x : DWord) : Option DWord :=
  let s := { control 0#2 with ctxs := [(0, { Ctx.blank with kind := .thread, status := .ready, sregs := [(1, x)] })] }
  match exec i s with
  | .next t => some (t.sreg 0 3#6)
  | .fault _ => none
  | .refused _ => none

/-- R120: the quotient and the remainder of −7 by 2; 7 by 0; −2^63 by −1. -/
theorem test_step_divide :
    scalarAfter (.sdiv false 3#6 1#6 (.lit 2#32)) (-7#64) = some (-3#64) ∧ scalarAfter (.srem false 3#6 1#6 (.lit 2#32)) (-7#64) = some (-1#64) ∧
    scalarAfter (.sremn false 3#6 1#6 (.lit 0#32)) 7#64 = some 7#64 ∧ scalarAfter (.sdivn false 3#6 1#6 (.lit 0#32)) 7#64 = some (-1#64) ∧
    scalarAfter (.sdiv false 3#6 1#6 (.lit 0xFFFFFFFF#32)) 0x8000000000000000#64 = some 0x8000000000000000#64 ∧
    scalarAfter (.srem false 3#6 1#6 (.lit 0xFFFFFFFF#32)) 0x8000000000000000#64 = some 0#64 := by
  decide +kernel
/-! ### Ill-formed terms -/

/-- R30: codes that are no reserved ones. -/
theorem test_wf_operand : (Instr.sadd false 1#6 2#6 (.res 0xE8#8)).wf = false ∧ (Instr.vmov false 1#7 (.res 0xFF#8)).wf = false ∧
    (Instr.jmp false (.res 0x00#8)).wf = false ∧ (Instr.cntAdd false 1#6 0#3 (.res 0xDF#8)).wf = false := by decide

/-- R35: DEP without DEPV; AUX and DESC where an instruction has none. -/
theorem test_wf_foals :
    (Instr.tmmaAcc false 1#6 0#2 0#2 ⟨1#6, 2#6, 0#3, false, 0#2, false, 3#6, 0#7⟩).wf = false ∧
    (Instr.mmaDense false 0#7 32#7 40#7 ⟨1#6, 2#6, 0#3, false, 0#2, false, 0#6, 1#7⟩).wf = false ∧
    (Instr.mmaZ false 0#7 32#7 40#7 ⟨1#6, 2#6, 0#3, false, 0#2, false, 0#6, 1#7⟩).wf = false ∧
    (Instr.cpyGs false 1#6 63#6 ⟨1#6, 2#6, 0#3, false, 0#2, false, 0#6, 0#7⟩).wf = false ∧
    (Instr.cplFill false 1#6 2#6 ⟨1#6, 0#6, 0#3, false, 0#2, false, 0#6, 5#7⟩).wf = false ∧
    (Instr.collAr false 1#6 63#6 ⟨1#6, 2#6, 0#3, false, 0#2, false, 0#6, 0#7⟩).wf = false := by decide

/-- R39, R133: conditions, types and shifts that no word encodes. -/
theorem test_wf_fields : (Instr.vshfiShl false 1#7 2#7 32#8).wf = false ∧ (Instr.vicmpS32 false 0#3 .ord 1#7 (.v 2#7)).wf = false ∧
    (Instr.vicmpN32 false 0#3 .uno 1#7 (.v 2#7)).wf = false ∧ (Instr.vredAdd false 1#6 .vi (.v 2#7)).wf = false ∧
    (Instr.vredMax false 1#6 .vi (.v 2#7)).wf = false ∧ (Instr.vredMin false 1#6 .vi (.v 2#7)).wf = false ∧
    (Instr.vredMaxi false 1#6 .s32 (.v 2#7)).wf = false := by decide

/-- An event has no words (95_what_each_step_holds). -/
theorem test_wf_events : Instr.clauseFetch.wf = false ∧ Instr.powerOn.wf = false ∧ (Instr.matrixStep 0).wf = false := by decide

/-! ### Words of the spec's listings, and words it refuses -/

/-- The words of the listings of 04_control_scalar and 05_vector. -/
theorem test_decode_listings : decodeWords [0x170080E8#32] = some (.viaddI32 false 1#7 0#7 .laneix, []) ∧
    decodeWords [0x0C8400FF#32] = some (.slui false 4#6 0xFF#16, []) ∧
    decodeWords [0x06441000#32] = some (.mwr false 4#6 1#4 0#4, []) ∧
    decodeWords [0x04001000#32] = some (.mpush false 1#4, []) ∧
    decodeWords [0x01C00002#32] = some (.brEz false 2#22, []) ∧
    decodeWords [0x04800000#32] = some (.melse false, []) ∧
    decodeWords [0x04400000#32] = some (.mpop false, []) ∧
    decodeWords [0x09000000#32] = some (.exit false, []) ∧
    decodeWords [0x13460018#32] = some (.sset false 6#6 0x18#8, []) ∧
    decodeWords [0x29020A01#32] = some (.vfcvtRne false 4#7 .f8e4F32 (.v 1#7), []) ∧
    decodeWords [0x200A0203#32] = some (.vicmpS32 false 1#3 .lt 2#7 (.v 3#7), []) ∧
    decodeWords [0x33C76004#32] = some (.vredMaxi false 7#6 .vi (.v 4#7), []) ∧
    decodeWords [0x35100005#32] = some (.ballot false 2#3 (.v 5#7), []) ∧
    decodeWords [0x35500600#32] = some (.mpre false 2#3 6#7, []) := by
  exact ⟨rfl, rfl, rfl, rfl, rfl, rfl, rfl, rfl, rfl, rfl, rfl, rfl, rfl, rfl⟩

/-- R143: every conversion code. -/
theorem test_decode_conversions :
    ([0x00, 0x01, 0x02, 0x03, 0x04, 0x05, 0x08, 0x09, 0x0A, 0x0B, 0x0C, 0x0D, 0x10, 0x11, 0x12, 0x13, 0x14, 0x15] : List Nat).map
      (fun k => decodeWords [BitVec.ofNat 32 (0x29020001 + 256 * k)]) =
    ([.f32F16, .f32Bf16, .f32F8e4, .f32F8e5, .f32S32, .f32N32, .f16F32, .bf16F32, .f8e4F32, .f8e5F32, .s32F32, .n32F32, .f8e4F16,
      .f8e5F16, .f8e4Bf16, .f8e5Bf16, .f16Bf16, .bf16F16] : List Conv).map fun k => some (.vfcvtRne false 4#7 k (.v 1#7), []) := by
  rfl

/-- R27, R35, R38, R39, R40: reserved OP and FN, a field that must be zero, a COND, an AOP, a conversion code, an ORD and a TYPE
that are none. -/
theorem test_decode_refuses : decode 0x00000000#32 none = .opcode ∧ decode 0x61000000#32 none = .opcode ∧
    decode 0x02400000#32 none = .opcode ∧ decode 0x03000100#32 none = .opcode ∧ decode 0x200E0203#32 none = .opcode ∧
    decode 0x40E00000#32 none = .opcode ∧ decode 0x42900000#32 none = .opcode ∧ decode 0x29020601#32 none = .opcode ∧
    decode 0x33008004#32 none = .opcode ∧
    decode 0x49000000#32 none = .missing := by
  exact ⟨rfl, rfl, rfl, rfl, rfl, rfl, rfl, rfl, rfl, rfl⟩

/-! ### Words written out from R29, R34, R38, R40 and R41, one for each encoded constructor -/

/-- BR. -/
theorem test_decode_br :
    decodeWords [0x01205F7A#32] = some (.br false 0x205F7A#22, []) ∧
    decodeWords [0x8151E4B7#32] = some (.brS1 true 0x11E4B7#22, []) ∧
    decodeWords [0x018328E1#32] = some (.brS0 false 0x328E1#22, []) ∧
    decodeWords [0x81F56C12#32] = some (.brEz true 0x356C12#22, []) := by
  exact ⟨rfl, rfl, rfl, rfl⟩

/-- CALL. -/
theorem test_decode_call :
    decodeWords [0x0226B04C#32] = some (.call false 0x26B04C#22, []) := by
  rfl

/-- JMP. -/
theorem test_decode_jmp :
    decodeWords [0x830000E8#32] = some (.jmp true .laneix, []) ∧
    decodeWords [0x034000C7#32] = some (.jmpl false (.int 7#5), []) ∧
    decodeWords [0x83800000#32] = some (.ret true, []) := by
  exact ⟨rfl, rfl, rfl⟩

/-- MSTK. -/
theorem test_decode_mstk :
    decodeWords [0x04006000#32] = some (.mpush false 0x6#4, []) ∧
    decodeWords [0x84400000#32] = some (.mpop true, []) ∧
    decodeWords [0x04800000#32] = some (.melse false, []) ∧
    decodeWords [0x84EE0000#32] = some (.mdepth true 0x2E#6, []) := by
  exact ⟨rfl, rfl, rfl, rfl⟩

/-- MSET. -/
theorem test_decode_mset :
    decodeWords [0x05008000#32] = some (.mand false 0x8#4, []) ∧
    decodeWords [0x85405000#32] = some (.mload true 0x5#4, []) ∧
    decodeWords [0x05807000#32] = some (.msave false 0x7#4, []) ∧
    decodeWords [0x85C00000#32] = some (.mandn true 0x0#4, []) := by
  exact ⟨rfl, rfl, rfl, rfl⟩

/-- MWORD. -/
theorem test_decode_mword :
    decodeWords [0x06224700#32] = some (.mrd false 0x22#6 0x4#4 0x7#4, []) ∧
    decodeWords [0x865C1900#32] = some (.mwr true 0x1C#6 0x1#4 0x9#4, []) ∧
    decodeWords [0x06896000#32] = some (.mpopc false 0x9#6 0x6#4, []) ∧
    decodeWords [0x86FB4000#32] = some (.mffs true 0x3B#6 0x4#4, []) := by
  exact ⟨rfl, rfl, rfl, rfl⟩

/-- LANE. -/
theorem test_decode_lane :
    decodeWords [0x07000000#32] = some (.lpack false, []) ∧
    decodeWords [0x87400000#32] = some (.lunpack true, []) ∧
    decodeWords [0x07A98000#32] = some (.lperm false 0x53#7, []) := by
  exact ⟨rfl, rfl, rfl⟩

/-- BAR. -/
theorem test_decode_bar :
    decodeWords [0x88344C5B#32] = some (.barSync true 0xD#4 0x4C5B#16, []) ∧
    decodeWords [0x08780868#32] = some (.barArv false 0xE#4 0x868#16, []) ∧
    decodeWords [0x88A00000#32] = some (.barWt true 0x8#4, []) := by
  exact ⟨rfl, rfl, rfl⟩

/-- EXIT. -/
theorem test_decode_exit :
    decodeWords [0x09000000#32] = some (.exit false, []) ∧
    decodeWords [0x89400000#32] = some (.exitD true, []) := by
  exact ⟨rfl, rfl⟩

/-- NOP. -/
theorem test_decode_nop :
    decodeWords [0x0A000000#32] = some (.nop false, []) ∧
    decodeWords [0x8A400000#32] = some (.yield true, []) ∧
    decodeWords [0x0A805D6F#32] = some (.sleep false 0x5D6F#16, []) := by
  exact ⟨rfl, rfl, rfl⟩

/-- SALU. -/
theorem test_decode_salu :
    decodeWords [0x8B193CE3#32] = some (.sadd true 0x19#6 0xF#6 (.fpc 3#3), []) ∧
    decodeWords [0x0B4B7451#32] = some (.ssub false 0xB#6 0x1D#6 (.v 0x51#7), []) ∧
    decodeWords [0x8B8448E8#32] = some (.smul true 0x4#6 0x12#6 .laneix, []) ∧
    decodeWords [0x0BF680C7#32] = some (.smulh false 0x36#6 0x20#6 (.int 7#5), []) := by
  exact ⟨rfl, rfl, rfl, rfl⟩

/-- SIMM. -/
theorem test_decode_simm :
    decodeWords [0x8C233E35#32] = some (.saddi true 0x23#6 0x3E35#16, []) ∧
    decodeWords [0x0C5DFBCB#32] = some (.smovi false 0x1D#6 0xFBCB#16, []) ∧
    decodeWords [0x8C8EB798#32] = some (.slui true 0xE#6 0xB798#16, []) ∧
    decodeWords [0x0CF873AE#32] = some (.sori false 0x38#6 0x73AE#16, []) := by
  exact ⟨rfl, rfl, rfl, rfl⟩

/-- SLOG. -/
theorem test_decode_slog :
    decodeWords [0x8D358CE8#32] = some (.sand true 0x35#6 0x23#6 .laneix, []) ∧
    decodeWords [0x0D67C4C7#32] = some (.sor false 0x27#6 0x31#6 (.int 7#5), []) ∧
    decodeWords [0x8D9018DF#32] = some (.sxor true 0x10#6 0x6#6 (.int 31#5), []) ∧
    decodeWords [0x0DC250A1#32] = some (.sandn false 0x2#6 0x14#6 (.s 33#6), []) := by
  exact ⟨rfl, rfl, rfl, rfl⟩

/-- SSHF. -/
theorem test_decode_sshf :
    decodeWords [0x8E3FA4E3#32] = some (.sshl true 0x3F#6 0x29#6 (.fpc 3#3), []) ∧
    decodeWords [0x0E69FC51#32] = some (.sshr false 0x29#6 0x3F#6 (.v 0x51#7), []) ∧
    decodeWords [0x8E9A30E8#32] = some (.ssar true 0x1A#6 0xC#6 .laneix, []) ∧
    decodeWords [0x0ED408C7#32] = some (.srot false 0x14#6 0x2#6 (.int 7#5), []) := by
  exact ⟨rfl, rfl, rfl, rfl⟩

/-- SCMP. -/
theorem test_decode_scmp :
    decodeWords [0x8F0004C7#32] = some (.scmpeq true 0x1#6 (.int 7#5), []) ∧
    decodeWords [0x0F40CCDF#32] = some (.scmplt false 0x33#6 (.int 31#5), []) ∧
    decodeWords [0x8F80B4A1#32] = some (.scmpltn true 0x2D#6 (.s 33#6), []) ∧
    decodeWords [0x0FC078E3#32] = some (.scmple false 0x1E#6 (.fpc 3#3), []) := by
  exact ⟨rfl, rfl, rfl, rfl⟩

/-- SSEL. -/
theorem test_decode_ssel :
    decodeWords [0x900878E8#32] = some (.ssel true 0x8#6 0x1E#6 .laneix, []) ∧
    decodeWords [0x10454CC7#32] = some (.smin false 0x5#6 0x13#6 (.int 7#5), []) ∧
    decodeWords [0x90B784DF#32] = some (.smax true 0x37#6 0x21#6 (.int 31#5), []) ∧
    decodeWords [0x10E0D8A1#32] = some (.sminn false 0x20#6 0x36#6 (.s 33#6), []) := by
  exact ⟨rfl, rfl, rfl, rfl⟩

/-- SBIT. -/
theorem test_decode_sbit :
    decodeWords [0x911200A1#32] = some (.spopc true 0x12#6 (.s 33#6), []) ∧
    decodeWords [0x114F00E3#32] = some (.sclz false 0xF#6 (.fpc 3#3), []) ∧
    decodeWords [0x91B90051#32] = some (.sctz true 0x39#6 (.v 0x51#7), []) ∧
    decodeWords [0x11EA00E8#32] = some (.sbrev false 0x2A#6 .laneix, []) := by
  exact ⟨rfl, rfl, rfl, rfl⟩

/-- SDIV. -/
theorem test_decode_sdiv :
    decodeWords [0x9224C8DF#32] = some (.sdiv true 0x24#6 0x32#6 (.int 31#5), []) ∧
    decodeWords [0x12511CA1#32] = some (.sdivn false 0x11#6 0x7#6 (.s 33#6), []) ∧
    decodeWords [0x928354E3#32] = some (.srem true 0x3#6 0x15#6 (.fpc 3#3), []) ∧
    decodeWords [0x12FCA851#32] = some (.sremn false 0x3C#6 0x2A#6 (.v 0x51#7), []) := by
  exact ⟨rfl, rfl, rfl, rfl⟩

/-- SREG. -/
theorem test_decode_sreg :
    decodeWords [0x932E00B8#32] = some (.sget true 0x2E#6 0xB8#8, []) ∧
    decodeWords [0x1358004E#32] = some (.sset false 0x18#6 0x4E#8, []) := by
  exact ⟨rfl, rfl⟩

/-- SLANE. -/
theorem test_decode_slane :
    decodeWords [0x94150CDF#32] = some (.srdln true 0x15#6 0x3#6 (.int 31#5), []) ∧
    decodeWords [0x144744A1#32] = some (.swrln false 0x7#6 0x11#6 (.s 33#6), []) := by
  exact ⟨rfl, rfl⟩

/-- CLK. -/
theorem test_decode_clk :
    decodeWords [0x95300000#32] = some (.rclock true 0x30#6, []) ∧
    decodeWords [0x15620000#32] = some (.rtime false 0x22#6, []) ∧
    decodeWords [0x958000E3#32] = some (.timer true (.fpc 3#3), []) ∧
    decodeWords [0x15C00051#32] = some (.timera false (.v 0x51#7), []) := by
  exact ⟨rfl, rfl, rfl, rfl⟩

/-- SCMPI. -/
theorem test_decode_scmpi :
    decodeWords [0x963A852C#32] = some (.scmpieq true 0x3A#6 0x852C#16, []) ∧
    decodeWords [0x167442E2#32] = some (.scmpilt false 0x34#6 0x42E2#16, []) ∧
    decodeWords [0x96A11EB7#32] = some (.scmpiltn true 0x21#6 0x1EB7#16, []) := by
  exact ⟨rfl, rfl, rfl⟩

/-- VIADD. -/
theorem test_decode_viadd :
    decodeWords [0x1709C551#32] = some (.viaddI32 false 0x13#7 0x45#7 (.v 0x51#7), []) ∧
    decodeWords [0x97661AE8#32] = some (.viaddI16x2 true 0x4C#7 0x1A#7 .laneix, []) ∧
    decodeWords [0x17BF28C7#32] = some (.viaddI8x4 false 0x7E#7 0x28#7 (.int 7#5), []) ∧
    decodeWords [0x97D5FDDF#32] = some (.viaddS32sat true 0x2B#7 0x7D#7 (.int 31#5), []) := by
  exact ⟨rfl, rfl, rfl, rfl⟩

/-- VISUB. -/
theorem test_decode_visub :
    decodeWords [0x1832B3A1#32] = some (.visubI32 false 0x65#7 0x33#7 (.s 33#6), []) ∧
    decodeWords [0x984B40E3#32] = some (.visubI16x2 true 0x16#7 0x40#7 (.fpc 3#3), []) ∧
    decodeWords [0x18A01651#32] = some (.visubI8x4 false 0x40#7 0x16#7 (.v 0x51#7), []) ∧
    decodeWords [0x98F924E8#32] = some (.visubS32sat true 0x72#7 0x24#7 .laneix, []) := by
  exact ⟨rfl, rfl, rfl, rfl⟩

/-- VIMUL. -/
theorem test_decode_vimul :
    decodeWords [0x1917F9C7#32] = some (.vimulLo false 0x2F#7 0x79#7 (.int 7#5), []) ∧
    decodeWords [0x996C8FDF#32] = some (.vimulHs true 0x59#7 0xF#7 (.int 31#5), []) ∧
    decodeWords [0x19855CA1#32] = some (.vimulHn false 0xA#7 0x5C#7 (.s 33#6), []) ∧
    decodeWords [0x99E212E3#32] = some (.vimulI16x2 true 0x44#7 0x12#7 (.fpc 3#3), []) := by
  exact ⟨rfl, rfl, rfl, rfl⟩

/-- VIMAD. -/
theorem test_decode_vimad :
    decodeWords [0x1A38A751#32] = some (.vimadI32 false 0x71#7 0x27#7 (.v 0x51#7), []) ∧
    decodeWords [0x9A51F5E8#32] = some (.vimadI16x2 true 0x23#7 0x75#7 .laneix, []) ∧
    decodeWords [0x1AAE0AC7#32] = some (.vimadDot4s8 false 0x5C#7 0xA#7 (.int 7#5), []) ∧
    decodeWords [0x9AC758DF#32] = some (.vimadDot4n8 true 0xE#7 0x58#7 (.int 31#5), []) := by
  exact ⟨rfl, rfl, rfl, rfl⟩

/-- VLOG. -/
theorem test_decode_vlog :
    decodeWords [0x1B1DEDA1#32] = some (.vlogAnd false 0x3B#7 0x6D#7 (.s 33#6), []) ∧
    decodeWords [0x9B7AA3E3#32] = some (.vlogOr true 0x75#7 0x23#7 (.fpc 3#3), []) ∧
    decodeWords [0x1B937051#32] = some (.vlogXor false 0x26#7 0x70#7 (.v 0x51#7), []) ∧
    decodeWords [0x9BE806E8#32] = some (.vlogAndn true 0x50#7 0x6#7 .laneix, []) := by
  exact ⟨rfl, rfl, rfl, rfl⟩

/-- VSHF. -/
theorem test_decode_vshf :
    decodeWords [0x1C06DBC7#32] = some (.vshfShl false 0xD#7 0x5B#7 (.int 7#5), []) ∧
    decodeWords [0x9C5FE9DF#32] = some (.vshfShr true 0x3F#7 0x69#7 (.int 31#5), []) ∧
    decodeWords [0x1CB4BFA1#32] = some (.vshfSar false 0x69#7 0x3F#7 (.s 33#6), []) ∧
    decodeWords [0x9CCD4CE3#32] = some (.vshfRot true 0x1A#7 0x4C#7 (.fpc 3#3), []) := by
  exact ⟨rfl, rfl, rfl, rfl⟩

/-- VSHFI. -/
theorem test_decode_vshfi :
    decodeWords [0x1D2A0211#32] = some (.vshfiShl false 0x54#7 0x2#7 0x11#8, []) ∧
    decodeWords [0x9D40D704#32] = some (.vshfiShr true 0x1#7 0x57#7 0x4#8, []) ∧
    decodeWords [0x1D99E516#32] = some (.vshfiSar false 0x33#7 0x65#7 0x16#8, []) ∧
    decodeWords [0x9DF63A09#32] = some (.vshfiRot true 0x6C#7 0x3A#7 0x9#8, []) := by
  exact ⟨rfl, rfl, rfl, rfl⟩

/-- VIMIN. -/
theorem test_decode_vimin :
    decodeWords [0x1E0F48A1#32] = some (.viminS32min false 0x1E#7 0x48#7 (.s 33#6), []) ∧
    decodeWords [0x9E659DE3#32] = some (.viminN32min true 0x4B#7 0x1D#7 (.fpc 3#3), []) ∧
    decodeWords [0x1E82D351#32] = some (.viminS32max false 0x5#7 0x53#7 (.v 0x51#7), []) ∧
    decodeWords [0x9EDB60E8#32] = some (.viminN32max true 0x36#7 0x60#7 .laneix, []) := by
  exact ⟨rfl, rfl, rfl, rfl⟩

/-- VBIT. -/
theorem test_decode_vbit :
    decodeWords [0x1F3000E8#32] = some (.vbitPopc false 0x60#7 .laneix, []) ∧
    decodeWords [0x9F4E80C7#32] = some (.vbitClz true 0x1D#7 (.int 7#5), []) ∧
    decodeWords [0x1FA780DF#32] = some (.vbitBrev false 0x4F#7 (.int 31#5), []) ∧
    decodeWords [0x9FFC00A1#32] = some (.vbitFfs true 0x78#7 (.s 33#6), []) := by
  exact ⟨rfl, rfl, rfl, rfl⟩

/-- VICMP. -/
theorem test_decode_vicmp :
    decodeWords [0x20100FE8#32] = some (.vicmpS32 false 0x2#3 .eq 0xF#7 .laneix, []) ∧
    decodeWords [0xA07B42C7#32] = some (.vicmpN32 true 0x7#3 .le 0x42#7 (.int 7#5), []) := by
  exact ⟨rfl, rfl⟩

/-- VSEL. -/
theorem test_decode_vsel :
    decodeWords [0x2108C7C7#32] = some (.vselLm0 false 0x11#7 0x47#7 (.int 7#5), []) ∧
    decodeWords [0xA16195DF#32] = some (.vselLm1 true 0x43#7 0x15#7 (.int 31#5), []) ∧
    decodeWords [0x21BE2AA1#32] = some (.vselLm2 false 0x7C#7 0x2A#7 (.s 33#6), []) ∧
    decodeWords [0xA1D778E3#32] = some (.vselLm3 true 0x2E#7 0x78#7 (.fpc 3#3), []) := by
  exact ⟨rfl, rfl, rfl, rfl⟩

/-- VMOV. -/
theorem test_decode_vmov :
    decodeWords [0x222D80E3#32] = some (.vmov false 0x5B#7 (.fpc 3#3), []) ∧
    decodeWords [0xA24A8051#32] = some (.vsx16 true 0x15#7 (.v 0x51#7), []) ∧
    decodeWords [0x22A300E8#32] = some (.vsx8 false 0x46#7 .laneix, []) ∧
    decodeWords [0xA2F800C7#32] = some (.vzx16 true 0x70#7 (.int 7#5), []) := by
  exact ⟨rfl, rfl, rfl, rfl⟩

/-- VFADD. -/
theorem test_decode_vfadd :
    decodeWords [0x2316FBA1#32] = some (.vfaddF32 false 0x2D#7 0x7B#7 (.s 33#6), []) ∧
    decodeWords [0xA36F89E3#32] = some (.vfaddF16x2 true 0x5F#7 0x9#7 (.fpc 3#3), []) ∧
    decodeWords [0x23845E51#32] = some (.vfaddBf16x2 false 0x8#7 0x5E#7 (.v 0x51#7), []) := by
  exact ⟨rfl, rfl, rfl⟩

/-- VFSUB. -/
theorem test_decode_vfsub :
    decodeWords [0xA41D6CE8#32] = some (.vfsubF32 true 0x3A#7 0x6C#7 .laneix, []) ∧
    decodeWords [0x247BA1C7#32] = some (.vfsubF16x2 false 0x77#7 0x21#7 (.int 7#5), []) ∧
    decodeWords [0xA490F7DF#32] = some (.vfsubBf16x2 true 0x21#7 0x77#7 (.int 31#5), []) := by
  exact ⟨rfl, rfl, rfl⟩

/-- VFMUL. -/
theorem test_decode_vfmul :
    decodeWords [0x252904A1#32] = some (.vfmulF32 false 0x52#7 0x4#7 (.s 33#6), []) ∧
    decodeWords [0xA5465AE3#32] = some (.vfmulF16x2 true 0xC#7 0x5A#7 (.fpc 3#3), []) ∧
    decodeWords [0x259F6851#32] = some (.vfmulBf16x2 false 0x3E#7 0x68#7 (.v 0x51#7), []) := by
  exact ⟨rfl, rfl, rfl⟩

/-- VFMA. -/
theorem test_decode_vfma :
    decodeWords [0xA635BDE8#32] = some (.vfmaF32 true 0x6B#7 0x3D#7 .laneix, []) ∧
    decodeWords [0x2652F3C7#32] = some (.vfmaF16x2 false 0x25#7 0x73#7 (.int 7#5), []) ∧
    decodeWords [0xA6AB00DF#32] = some (.vfmaBf16x2 true 0x56#7 0x0#7 (.int 31#5), []) := by
  exact ⟨rfl, rfl, rfl⟩

/-- VFMIN. -/
theorem test_decode_vfmin :
    decodeWords [0x270056A1#32] = some (.vfminF32 false 0x0#7 0x56#7 (.s 33#6), []) ∧
    decodeWords [0xA75EEBE3#32] = some (.vfmaxF32 true 0x3D#7 0x6B#7 (.fpc 3#3), []) ∧
    decodeWords [0x27B7B951#32] = some (.vfminF16x2 false 0x6F#7 0x39#7 (.v 0x51#7), []) ∧
    decodeWords [0xA7CC4EE8#32] = some (.vfmaxF16x2 true 0x18#7 0x4E#7 .laneix, []) := by
  exact ⟨rfl, rfl, rfl, rfl⟩

/-- VFCMP. -/
theorem test_decode_vfcmp :
    decodeWords [0x28106FDF#32] = some (.vfcmpF32 false 0x2#3 .eq 0x6F#7 (.int 31#5), []) ∧
    decodeWords [0xA87B22A1#32] = some (.vfcmpF16 true 0x7#3 .le 0x22#7 (.s 33#6), []) ∧
    decodeWords [0x288814E3#32] = some (.vfcmpBf16 false 0x1#3 .eq 0x14#7 (.fpc 3#3), []) := by
  exact ⟨rfl, rfl, rfl⟩

/-- VFCVT. -/
theorem test_decode_vfcvt :
    decodeWords [0xA9310AE3#32] = some (.vfcvtRne true 0x62#7 .f8e4F32 (.fpc 3#3), []) ∧
    decodeWords [0x294E0A51#32] = some (.vfcvtRtz false 0x1C#7 .f8e4F32 (.v 0x51#7), []) ∧
    decodeWords [0xA9A48AE8#32] = some (.vfcvtDn true 0x49#7 .f8e4F32 .laneix, []) ∧
    decodeWords [0x29FD8AC7#32] = some (.vfcvtUp false 0x7B#7 .f8e4F32 (.int 7#5), []) := by
  exact ⟨rfl, rfl, rfl, rfl⟩

/-- VFSP1. -/
theorem test_decode_vfsp1 :
    decodeWords [0xAA1A00C7#32] = some (.vrcp true 0x34#7 (.int 7#5), []) ∧
    decodeWords [0x2A7300DF#32] = some (.vrsq false 0x66#7 (.int 31#5), []) ∧
    decodeWords [0xAA8800A1#32] = some (.vex2 true 0x10#7 (.s 33#6), []) ∧
    decodeWords [0x2AE680E3#32] = some (.vlg2 false 0x4D#7 (.fpc 3#3), []) := by
  exact ⟨rfl, rfl, rfl, rfl⟩

/-- VFSP2. -/
theorem test_decode_vfsp2 :
    decodeWords [0xAB3F8051#32] = some (.vsinpi true 0x7F#7 (.v 0x51#7), []) ∧
    decodeWords [0x2B5400E8#32] = some (.vcospi false 0x28#7 .laneix, []) ∧
    decodeWords [0xABAD00C7#32] = some (.vsqrt true 0x5A#7 (.int 7#5), []) ∧
    decodeWords [0x2BCB80DF#32] = some (.vtanh false 0x17#7 (.int 31#5), []) := by
  exact ⟨rfl, rfl, rfl, rfl⟩

/-- VFRND. -/
theorem test_decode_vfrnd :
    decodeWords [0xAC2080A1#32] = some (.vfrndRne true 0x41#7 (.s 33#6), []) ∧
    decodeWords [0x2C7900E3#32] = some (.vfrndRtz false 0x72#7 (.fpc 3#3), []) ∧
    decodeWords [0xAC960051#32] = some (.vfrndFloor true 0x2C#7 (.v 0x51#7), []) ∧
    decodeWords [0x2CEC80E8#32] = some (.vfrndCeil false 0x59#7 .laneix, []) := by
  exact ⟨rfl, rfl, rfl, rfl⟩

/-- VFDOT. -/
theorem test_decode_vfdot :
    decodeWords [0xAD05DDDF#32] = some (.vfdotDot2bf16 true 0xB#7 0x5D#7 (.int 31#5), []) ∧
    decodeWords [0x2D6212A1#32] = some (.vfdotDot2f16 false 0x44#7 0x12#7 (.s 33#6), []) ∧
    decodeWords [0xADBB20E3#32] = some (.vfdotDot4f8e4 true 0x76#7 0x20#7 (.fpc 3#3), []) ∧
    decodeWords [0x2DD1F551#32] = some (.vfdotDot4f8e5 false 0x23#7 0x75#7 (.v 0x51#7), []) := by
  exact ⟨rfl, rfl, rfl, rfl⟩

/-- VMAXI. -/
theorem test_decode_vmaxi :
    decodeWords [0xAE2E8BE8#32] = some (.vmaxiMax true 0x5D#7 0xB#7 .laneix, []) ∧
    decodeWords [0x2E47D9C7#32] = some (.vmaxiMin false 0xF#7 0x59#7 (.int 7#5), []) := by
  exact ⟨rfl, rfl⟩

/-- VPACK. -/
theorem test_decode_vpack :
    decodeWords [0xAF1C6EDF#32] = some (.vpackF16x2 true 0x38#7 0x6E#7 (.int 31#5), []) ∧
    decodeWords [0x2F753CA1#32] = some (.vpackBf16x2 false 0x6A#7 0x3C#7 (.s 33#6), []) ∧
    decodeWords [0xAF93F1E3#32] = some (.vpackS16x2sat true 0x27#7 0x71#7 (.fpc 3#3), []) := by
  exact ⟨rfl, rfl, rfl⟩

/-- VEXPD. -/
theorem test_decode_vexpd :
    decodeWords [0x30288351#32] = some (.vexpd false 0x51#7 0x3#2 (.v 0x51#7), []) := by
  rfl

/-- VHASH. -/
theorem test_decode_vhash :
    decodeWords [0xB10154E8#32] = some (.vhashCrc32c true 0x2#7 0x54#7 .laneix, []) ∧
    decodeWords [0x315E6AC7#32] = some (.vhashMix32 false 0x3C#7 0x6A#7 (.int 7#5), []) := by
  exact ⟨rfl, rfl⟩

/-- VSHFL. -/
theorem test_decode_vshfl :
    decodeWords [0xB234BFDF#32] = some (.vshflIdx true 0x69#7 0x3F#7 (.int 31#5), []) ∧
    decodeWords [0x324DCDA1#32] = some (.vshflXor false 0x1B#7 0x4D#7 (.s 33#6), []) ∧
    decodeWords [0xB2AA02E3#32] = some (.vshflUp true 0x54#7 0x2#7 (.fpc 3#3), []) ∧
    decodeWords [0x32C35051#32] = some (.vshflDown false 0x6#7 0x50#7 (.v 0x51#7), []) := by
  exact ⟨rfl, rfl, rfl, rfl⟩

/-- VRED. -/
theorem test_decode_vred :
    decodeWords [0xB3330051#32] = some (.vredAdd true 0x33#6 .s32 (.v 0x51#7), []) ∧
    decodeWords [0x336D20FF#32, 0x89ABCDEF#32] = some (.vredMax false 0x2D#6 .n32 (.lit 0x89ABCDEF#32), []) ∧
    decodeWords [0xB39E4051#32] = some (.vredMin true 0x1E#6 .f32 (.v 0x51#7), []) ∧
    decodeWords [0x33C860FF#32, 0x89ABCDEF#32] = some (.vredMaxi false 0x8#6 .vi (.lit 0x89ABCDEF#32), []) := by
  exact ⟨rfl, rfl, rfl, rfl⟩

/-- VSCAN. -/
theorem test_decode_vscan :
    decodeWords [0xB40280A1#32] = some (.vscanInclAddS32 true 0x5#7 (.s 33#6), []) ∧
    decodeWords [0x345B80E3#32] = some (.vscanExclAddS32 false 0x37#7 (.fpc 3#3), []) ∧
    decodeWords [0xB4B08051#32] = some (.vscanInclAddF32 true 0x61#7 (.v 0x51#7), []) ∧
    decodeWords [0x34C900E8#32] = some (.vscanInclMaxi false 0x12#7 .laneix, []) := by
  exact ⟨rfl, rfl, rfl, rfl⟩

/-- VBAL. -/
theorem test_decode_vbal :
    decodeWords [0xB52000C7#32] = some (.ballot true 0x4#3 (.int 7#5), []) ∧
    decodeWords [0x35482F00#32] = some (.mpre false 0x1#3 0x2F#7, []) ∧
    decodeWords [0xB58000DF#32] = some (.vany true (.int 31#5), []) ∧
    decodeWords [0x35C000A1#32] = some (.vall false (.s 33#6), []) := by
  exact ⟨rfl, rfl, rfl, rfl⟩

/-- LDV. -/
theorem test_decode_ldv :
    decodeWords [0xB60B0033#32] = some (.ldvB8 true 0x16#7 0x0#6 0x33#9, []) ∧
    decodeWords [0x3661AA66#32] = some (.ldvB16 false 0x43#7 0x15#6 0x66#9, []) ∧
    decodeWords [0xB691D658#32] = some (.ldvB32 true 0x23#7 0x2B#6 0x58#9, []) ∧
    decodeWords [0x36D7708B#32] = some (.ldvB64 false 0x2E#7 0x38#6 0x8B#9, []) := by
  exact ⟨rfl, rfl, rfl, rfl⟩

/-- LDVS. -/
theorem test_decode_ldvs :
    decodeWords [0xB72C1CFD#32] = some (.ldvsS8 true 0x58#7 0xE#6 0xFD#9, []) ∧
    decodeWords [0x374A8730#32] = some (.ldvsS16 false 0x15#7 0x3#6 0x130#9, []) := by
  exact ⟨rfl, rfl⟩

/-- LDG. -/
theorem test_decode_ldg :
    decodeWords [0xB832313C#32] = some (.ldgB8 true 0x3#2 0x11#7 0x22#6 0x3C#7, []) ∧
    decodeWords [0x3844CA8B#32] = some (.ldgB16 false 0x0#2 0x26#7 0x15#6 0xB#7, []) ∧
    decodeWords [0xB8A343D9#32] = some (.ldgB32 true 0x2#2 0x1A#7 0x7#6 0x59#7, []) ∧
    decodeWords [0x38C15CA7#32] = some (.ldgB64 false 0x0#2 0xA#7 0x39#6 0x27#7, []) := by
  exact ⟨rfl, rfl, rfl, rfl⟩

/-- STV. -/
theorem test_decode_stv :
    decodeWords [0xB904BE2C#32] = some (.stvB8 true 0x9#7 0x1F#6 0x2C#9, []) ∧
    decodeWords [0x395DDA1E#32] = some (.stvB16 false 0x3B#7 0x2D#6 0x1E#9, []) ∧
    decodeWords [0xB98D4451#32] = some (.stvB32 true 0x1A#7 0x22#6 0x51#9, []) ∧
    decodeWords [0x39D36083#32] = some (.stvB64 false 0x26#7 0x30#6 0x83#9, []) := by
  exact ⟨rfl, rfl, rfl, rfl⟩

/-- STG. -/
theorem test_decode_stg :
    decodeWords [0xBA30BB28#32] = some (.stgB8 true 0x3#2 0x5#7 0x36#6 0x28#7, []) ∧
    decodeWords [0x3A50341C#32] = some (.stgB16 false 0x1#2 0x1#7 0x28#6 0x1C#7, []) ∧
    decodeWords [0xBAA1CDC5#32] = some (.stgB32 true 0x2#2 0xE#7 0x1B#6 0x45#7, []) ∧
    decodeWords [0x3AC7C693#32] = some (.stgB64 false 0x0#2 0x3E#7 0xD#6 0x13#7, []) := by
  exact ⟨rfl, rfl, rfl, rfl⟩

/-- LDS. -/
theorem test_decode_lds :
    decodeWords [0xBB25CF80#32] = some (.ldsB8 true 0x25#6 0x33#6 0x380#10, []) ∧
    decodeWords [0x3B5707F2#32] = some (.ldsB16 false 0x17#6 0x1#6 0x3F2#10, []) ∧
    decodeWords [0xBB805825#32] = some (.ldsB32 true 0x0#6 0x16#6 0x25#10, []) ∧
    decodeWords [0x3BF29017#32] = some (.ldsB64 false 0x32#6 0x24#6 0x17#10, []) := by
  exact ⟨rfl, rfl, rfl, rfl⟩

/-- STS. -/
theorem test_decode_sts :
    decodeWords [0xBC2FE44A#32] = some (.stsB8 true 0x2F#6 0x39#6 0x4A#10, []) ∧
    decodeWords [0x3C593CBC#32] = some (.stsB16 false 0x19#6 0xF#6 0xBC#10, []) ∧
    decodeWords [0xBC8A70EF#32] = some (.stsB32 true 0xA#6 0x1C#6 0xEF#10, []) ∧
    decodeWords [0x3CC44921#32] = some (.stsB64 false 0x4#6 0x12#6 0x121#10, []) := by
  exact ⟨rfl, rfl, rfl, rfl⟩

/-- LDSP. -/
theorem test_decode_ldsp :
    decodeWords [0xBD20C9CD#32] = some (.ldspB8 true 0x2#2 0x6#7 0x13#6 0x4D#7, []) ∧
    decodeWords [0x3D76A318#32] = some (.ldspB16 false 0x3#2 0x35#7 0x6#6 0x18#7, []) ∧
    decodeWords [0xBD997C0C#32] = some (.ldspB32 true 0x1#2 0x4B#7 0x38#6 0xC#7, []) ∧
    decodeWords [0x3DE315B5#32] = some (.ldspB64 false 0x2#2 0x18#7 0x2B#6 0x35#7, []) := by
  exact ⟨rfl, rfl, rfl, rfl⟩

/-- STSP. -/
theorem test_decode_stsp :
    decodeWords [0xBE05CE83#32] = some (.stspB8 true 0x0#2 0x2E#7 0x1D#6 0x3#7, []) ∧
    decodeWords [0x3E51284E#32] = some (.stspB16 false 0x1#2 0x9#7 0x10#6 0x4E#7, []) ∧
    decodeWords [0xBEB6211C#32] = some (.stspB32 true 0x3#2 0x31#7 0x2#6 0x1C#7, []) ∧
    decodeWords [0x3EC8DA91#32] = some (.stspB64 false 0x0#2 0x46#7 0x35#6 0x11#7, []) := by
  exact ⟨rfl, rfl, rfl, rfl⟩

/-- SSPM. -/
theorem test_decode_sspm :
    decodeWords [0xBF0252E7#32] = some (.sldspB32 true 0x2#6 0x14#6 0x2E7#10, []) ∧
    decodeWords [0x3F7FA6DA#32] = some (.sldspB64 false 0x3F#6 0x29#6 0x2DA#10, []) ∧
    decodeWords [0xBFA9FF0C#32] = some (.sstspB32 true 0x29#6 0x3F#6 0x30C#10, []) ∧
    decodeWords [0x3FDA337F#32] = some (.sstspB64 false 0x1A#6 0xC#6 0x37F#10, []) := by
  exact ⟨rfl, rfl, rfl, rfl⟩

/-- ATOM. -/
theorem test_decode_atom :
    decodeWords [0xC007312A#32] = some (.atomAddI32 true .acquire .pod 0x31#7 0x15#7, []) ∧
    decodeWords [0x401A0A74#32] = some (.atomAddF32 false .release .die 0xA#7 0x3A#7, []) ∧
    decodeWords [0xC02D5610#32] = some (.atomMinS32 true .acqRel .core 0x56#7 0x8#7, []) ∧
    decodeWords [0x403008AC#32] = some (.atomMaxS32 false .relaxed .team 0x8#7 0x56#7, []) ∧
    decodeWords [0xC046A14A#32] = some (.atomMinN32 true .acquire .pkg 0x21#7 0x25#7, []) ∧
    decodeWords [0x4059AD32#32] = some (.atomMaxN32 false .release .cluster 0x2D#7 0x19#7, []) ∧
    decodeWords [0xC06C867C#32] = some (.atomAnd true .acqRel .wg 0x6#7 0x3E#7, []) ∧
    decodeWords [0x40735218#32] = some (.atomOr false .relaxed .pod 0x52#7 0xC#7, []) ∧
    decodeWords [0xC0860502#32] = some (.atomXor true .acquire .die 0x5#7 0x1#7, []) ∧
    decodeWords [0x40991D52#32] = some (.atomExch false .release .core 0x1D#7 0x29#7, []) ∧
    decodeWords [0xC0AC2A34#32] = some (.atomCas true .acqRel .team 0x2A#7 0x1A#7, []) ∧
    decodeWords [0x40B29C84#32] = some (.atomMaxi false .relaxed .pkg 0x1C#7 0x42#7, []) ∧
    decodeWords [0xC0C5CF22#32] = some (.atomAddF16x2 true .acquire .cluster 0x4F#7 0x11#7, []) ∧
    decodeWords [0x40D8810A#32] = some (.atomAddI64 false .release .wg 0x1#7 0x5#7, []) := by
  exact ⟨rfl, rfl, rfl, rfl, rfl, rfl, rfl, rfl, rfl, rfl, rfl, rfl, rfl, rfl⟩

/-- ATOMS. -/
theorem test_decode_atoms :
    decodeWords [0xC10F1A54#32] = some (.atomsAddI32 true .acqRel .pod 0x1A#7 0x2A#7, []) ∧
    decodeWords [0x4112263C#32] = some (.atomsAddF32 false .relaxed .die 0x26#7 0x1E#7, []) ∧
    decodeWords [0xC125198E#32] = some (.atomsMinS32 true .acquire .core 0x19#7 0x47#7, []) ∧
    decodeWords [0x41384B2A#32] = some (.atomsMaxS32 false .release .team 0x4B#7 0x15#7, []) ∧
    decodeWords [0xC14EBE0C#32] = some (.atomsMinN32 true .acqRel .pkg 0x3E#7 0x6#7, []) ∧
    decodeWords [0x4151965C#32] = some (.atomsMaxN32 false .relaxed .cluster 0x16#7 0x2E#7, []) ∧
    decodeWords [0xC164A244#32] = some (.atomsAnd true .acquire .wg 0x22#7 0x22#7, []) ∧
    decodeWords [0x417B1596#32] = some (.atomsOr false .release .pod 0x15#7 0x4B#7, []) ∧
    decodeWords [0xC18E4732#32] = some (.atomsXor true .acqRel .die 0x47#7 0x19#7, []) ∧
    decodeWords [0x41913A14#32] = some (.atomsExch false .relaxed .core 0x3A#7 0xA#7, []) ∧
    decodeWords [0xC1A41264#32] = some (.atomsCas true .acquire .team 0x12#7 0x32#7, []) ∧
    decodeWords [0x41BA8502#32] = some (.atomsMaxi false .release .pkg 0x5#7 0x1#7, []) ∧
    decodeWords [0xC1CD919E#32] = some (.atomsAddF16x2 true .acqRel .cluster 0x11#7 0x4F#7, []) ∧
    decodeWords [0x41D0C434#32] = some (.atomsAddI64 false .relaxed .wg 0x44#7 0x1A#7, []) := by
  exact ⟨rfl, rfl, rfl, rfl, rfl, rfl, rfl, rfl, rfl, rfl, rfl, rfl, rfl, rfl⟩

/-- RED. -/
theorem test_decode_red :
    decodeWords [0xC20B361C#32] = some (.redAddI32 true .release .pod 0x36#7 0xE#7, []) ∧
    decodeWords [0x421A0F6E#32] = some (.redAddF32 false .release .die 0xF#7 0x37#7, []) ∧
    decodeWords [0xC229010A#32] = some (.redMinS32 true .release .core 0x1#7 0x5#7, []) ∧
    decodeWords [0x42380EA0#32] = some (.redMaxS32 false .release .team 0xE#7 0x50#7, []) ∧
    decodeWords [0xC24AC03C#32] = some (.redMinN32 true .release .pkg 0x40#7 0x1E#7, []) ∧
    decodeWords [0x4259B326#32] = some (.redMaxN32 false .release .cluster 0x33#7 0x13#7, []) ∧
    decodeWords [0xC2688B76#32] = some (.redAnd true .release .wg 0xB#7 0x3B#7, []) ∧
    decodeWords [0x427B5712#32] = some (.redOr false .release .pod 0x57#7 0x9#7, []) ∧
    decodeWords [0xC28A0AA8#32] = some (.redXor true .release .die 0xA#7 0x54#7, []) ∧
    decodeWords [0x42B92244#32] = some (.redMaxi false .release .core 0x22#7 0x22#7, []) ∧
    decodeWords [0xC2C82F2E#32] = some (.redAddF16x2 true .release .team 0x2F#7 0x17#7, []) ∧
    decodeWords [0x42DA877E#32] = some (.redAddI64 false .release .pkg 0x7#7 0x3F#7, []) := by
  exact ⟨rfl, rfl, rfl, rfl, rfl, rfl, rfl, rfl, rfl, rfl, rfl, rfl⟩

/-- LDA. -/
theorem test_decode_lda :
    decodeWords [0xC305D414#32] = some (.ldaB16 true .acquire .cluster 0x54#7 0xA#7, []) ∧
    decodeWords [0x434486B0#32] = some (.ldaB32 false .acquire .wg 0x6#7 0x58#7, []) ∧
    decodeWords [0xC3871F4E#32] = some (.ldaB64 true .acquire .pod 0x1F#7 0x27#7, []) := by
  exact ⟨rfl, rfl, rfl⟩

/-- STL. -/
theorem test_decode_stl :
    decodeWords [0x440A2B36#32] = some (.stlB16 false .release .die 0x2B#7 0x1B#7, []) ∧
    decodeWords [0xC4491E80#32] = some (.stlB32 true .release .core 0x1E#7 0x40#7, []) ∧
    decodeWords [0x4488501C#32] = some (.stlB64 false .release .team 0x50#7 0xE#7, []) := by
  exact ⟨rfl, rfl, rfl⟩

/-- FENCE. -/
theorem test_decode_fence :
    decodeWords [0xC5280000#32] = some (.fenceAcq true .pkg, []) ∧
    decodeWords [0x45580000#32] = some (.fenceRel false .cluster, []) ∧
    decodeWords [0xC5880000#32] = some (.fenceAr true .wg, []) ∧
    decodeWords [0x45F00000#32] = some (.fenceSc false .pod, []) := by
  exact ⟨rfl, rfl, rfl, rfl⟩

/-- LCPY. -/
theorem test_decode_lcpy :
    decodeWords [0xC6077D34#32] = some (.lcpy4 true 0xE#7 0x3E#6 0x4D#7, []) ∧
    decodeWords [0x464D18FC#32] = some (.lcpy8 false 0x1A#7 0xC#6 0x3F#7, []) ∧
    decodeWords [0xC6AA045C#32] = some (.lcpy16 true 0x54#7 0x2#6 0x17#7, []) ∧
    decodeWords [0x46C0AE90#32] = some (.lcpy32 false 0x1#7 0x17#6 0x24#7, []) := by
  exact ⟨rfl, rfl, rfl, rfl⟩

/-- WAITV. -/
theorem test_decode_waitv :
    decodeWords [0xC7339400#32] = some (.waitvEq true 0x33#6 0x25#6, []) ∧
    decodeWords [0x476CE800#32] = some (.waitvNe false 0x2C#6 0x3A#6, []) ∧
    decodeWords [0xC79E2000#32] = some (.waitvGe true 0x1E#6 0x8#6, []) ∧
    decodeWords [0x47CB7400#32] = some (.waitvLt false 0xB#6 0x1D#6, []) := by
  exact ⟨rfl, rfl, rfl, rfl⟩

/-- PREF. -/
theorem test_decode_pref :
    decodeWords [0xC80017D3#32] = some (.prefL2 true 0x5#6 0x3D3#10, []) ∧
    decodeWords [0x4840DBE0#32] = some (.prefL1 false 0x36#6 0x3E0#10, []) ∧
    decodeWords [0xC88083B6#32] = some (.prefGinv true 0x20#6 0x3B6#10, []) ∧
    decodeWords [0x48C0774B#32] = some (.prefWb false 0x1D#6 0x34B#10, []) := by
  exact ⟨rfl, rfl, rfl, rfl⟩

/-- MMA. -/
theorem test_decode_mma :
    decodeWords [0xC9279920#32, 0x955AB600#32] = some (.mmaDense true 0x4F#7 0x19#7 0x10#7 ⟨37#6, 21#6, 5#3, false, 2#2, true, 44#6, 0x0#7⟩, []) ∧
    decodeWords [0x494F2E06#32, 0x955AB62B#32] = some (.mmaSp false 0x1E#7 0x2E#7 0x3#7 ⟨37#6, 21#6, 5#3, false, 2#2, true, 44#6, 0x2B#7⟩, []) ∧
    decodeWords [0xC995221E#32, 0x955AB600#32] = some (.mmaZ true 0x2A#7 0x22#7 0xF#7 ⟨37#6, 21#6, 5#3, false, 2#2, true, 44#6, 0x0#7⟩, []) := by
  exact ⟨rfl, rfl, rfl⟩

/-- TMMA. -/
theorem test_decode_tmma :
    decodeWords [0x4A276000#32, 0x955BB600#32] = some (.tmmaAcc false 0x27#6 0x1#2 0x2#2 ⟨37#6, 21#6, 5#3, true, 2#2, true, 44#6, 0x0#7⟩, []) ∧
    decodeWords [0xCA51C000#32, 0x955BB600#32] = some (.tmmaZ true 0x11#6 0x3#2 0x0#2 ⟨37#6, 21#6, 5#3, true, 2#2, true, 44#6, 0x0#7⟩, []) := by
  exact ⟨rfl, rfl⟩

/-- TMOV. -/
theorem test_decode_tmov :
    decodeWords [0x4B21AB38#32] = some (.tlda false 0x43#7 0x15#6 0x2#2 0x38#7, []) ∧
    decodeWords [0xCB515487#32] = some (.tldb true 0x22#7 0x2A#6 0x1#2 0x7#7, []) ∧
    decodeWords [0x4B977055#32] = some (.tstd false 0x2E#7 0x38#6 0x0#2 0x55#7, []) ∧
    decodeWords [0xCBC09B20#32] = some (.tldd true 0x1#7 0xD#6 0x2#2 0x20#7, []) := by
  exact ⟨rfl, rfl, rfl, rfl⟩

/-- CPY. -/
theorem test_decode_cpy :
    decodeWords [0x4C150C00#32, 0x940BB600#32] = some (.cpyGs false 0x15#6 0x3#6 ⟨37#6, 0#6, 5#3, true, 2#2, true, 44#6, 0x0#7⟩, []) ∧
    decodeWords [0xCC464000#32, 0x940BB600#32] = some (.cpySg true 0x6#6 0x10#6 ⟨37#6, 0#6, 5#3, true, 2#2, true, 44#6, 0x0#7⟩, []) ∧
    decodeWords [0x4CB09800#32, 0x940BB600#32] = some (.cpyGg false 0x30#6 0x26#6 ⟨37#6, 0#6, 5#3, true, 2#2, true, 44#6, 0x0#7⟩, []) ∧
    decodeWords [0xCCEDEC00#32, 0x940BB600#32] = some (.cpySs true 0x2D#6 0x3B#6 ⟨37#6, 0#6, 5#3, true, 2#2, true, 44#6, 0x0#7⟩, []) := by
  exact ⟨rfl, rfl, rfl, rfl⟩

/-- CPL. -/
theorem test_decode_cpl :
    decodeWords [0x4D1F2400#32, 0x940BB600#32] = some (.cplFill false 0x1F#6 0x9#6 ⟨37#6, 0#6, 5#3, true, 2#2, true, 44#6, 0x0#7⟩, []) ∧
    decodeWords [0xCD487800#32, 0x940BB600#32] = some (.cplDrain true 0x8#6 0x1E#6 ⟨37#6, 0#6, 5#3, true, 2#2, true, 44#6, 0x0#7⟩, []) := by
  exact ⟨rfl, rfl⟩

/-- LCSEAL. -/
theorem test_decode_lcseal :
    decodeWords [0x4E3A0000#32] = some (.lcseal false 0x3A#6, []) := by
  rfl

/-- COLL. -/
theorem test_decode_coll :
    decodeWords [0xCF378400#32, 0x940BB600#32] = some (.collAr true 0x37#6 0x21#6 ⟨37#6, 0#6, 5#3, true, 2#2, true, 44#6, 0x0#7⟩, []) ∧
    decodeWords [0x4F61DC00#32, 0x940BB600#32] = some (.collAg false 0x21#6 0x37#6 ⟨37#6, 0#6, 5#3, true, 2#2, true, 44#6, 0x0#7⟩, []) ∧
    decodeWords [0xCF921000#32, 0x940BB600#32] = some (.collRs true 0x12#6 0x4#6 ⟨37#6, 0#6, 5#3, true, 2#2, true, 44#6, 0x0#7⟩, []) ∧
    decodeWords [0x4FCC6800#32, 0x940BB600#32] = some (.collBc false 0xC#6 0x1A#6 ⟨37#6, 0#6, 5#3, true, 2#2, true, 44#6, 0x0#7⟩, []) := by
  exact ⟨rfl, rfl, rfl, rfl⟩

/-- FWAIT. -/
theorem test_decode_fwait :
    decodeWords [0xD039BC00#32] = some (.fwait true 0x39#6 0x2F#6, []) ∧
    decodeWords [0x506BF400#32] = some (.fwaitT false 0x2B#6 0x3D#6, []) ∧
    decodeWords [0xD0A5CC00#32] = some (.ftest true 0x25#6 0x33#6, []) ∧
    decodeWords [0x50D60000#32] = some (.fwaitall false 0x16#6, []) := by
  exact ⟨rfl, rfl, rfl, rfl⟩

/-- FCTL. -/
theorem test_decode_fctl :
    decodeWords [0xD1000000#32] = some (.fcancel true 0x0#6, []) ∧
    decodeWords [0x5140F400#32] = some (.fdetach false 0x3D#6, []) ∧
    decodeWords [0xD180BC51#32] = some (.fprio true 0x2F#6 (.v 0x51#7), []) ∧
    decodeWords [0x51D838C7#32] = some (.fstat false 0x18#6 0xE#6 (.int 7#5), []) := by
  exact ⟨rfl, rfl, rfl, rfl⟩

/-- PWRH. -/
theorem test_decode_pwrh :
    decodeWords [0xD22B3C00#32] = some (.pwrhD true 0xA#4 0xC#4 0xF#4, []) ∧
    decodeWords [0x52401C00#32] = some (.pwrhX false 0x7#4, []) ∧
    decodeWords [0xD2800000#32] = some (.pwrhE true, []) ∧
    decodeWords [0x52C00000#32] = some (.pwrhQ false, []) := by
  exact ⟨rfl, rfl, rfl, rfl⟩

/-- RING. -/
theorem test_decode_ring :
    decodeWords [0xD31C2800#32] = some (.racq true 0x1C#6 0xA#6, []) ∧
    decodeWords [0x53402400#32] = some (.rrel false 0x9#6, []) ∧
    decodeWords [0xD380ECC7#32] = some (.rinit true 0x3B#6 (.int 7#5), []) ∧
    decodeWords [0x53F48800#32] = some (.rstat false 0x34#6 0x22#6, []) := by
  exact ⟨rfl, rfl, rfl, rfl⟩

/-- TBAR. -/
theorem test_decode_tbar :
    decodeWords [0xD40098A1#32] = some (.tbinit true 0x26#6 (.s 33#6), []) ∧
    decodeWords [0x54501800#32] = some (.tbarv false 0x10#6 0x6#6, []) ∧
    decodeWords [0xD48D6CE8#32] = some (.tbwait true 0xD#6 0x1B#6 .laneix, []) ∧
    decodeWords [0x54C0FCE8#32] = some (.tbexp false 0x3F#6 .laneix, []) := by
  exact ⟨rfl, rfl, rfl, rfl⟩

/-- QPOST. -/
theorem test_decode_qpost :
    decodeWords [0xD528F8DF#32] = some (.qpostL true 0x28#6 0x3E#6 (.int 31#5), []) ∧
    decodeWords [0x555A30A1#32] = some (.qpostR false 0x1A#6 0xC#6 (.s 33#6), []) ∧
    decodeWords [0xD59704E3#32] = some (.qpostS true 0x17#6 0x1#6 (.fpc 3#3), []) := by
  exact ⟨rfl, rfl, rfl⟩

/-- RTASK. -/
theorem test_decode_rtask :
    decodeWords [0x56010000#32] = some (.rtake false 0x1#6, []) ∧
    decodeWords [0xD6720000#32] = some (.rsplit true 0x32#6, []) ∧
    decodeWords [0x5680B000#32] = some (.rdone false 0x2C#6, []) := by
  exact ⟨rfl, rfl, rfl⟩

/-- CNT. -/
theorem test_decode_cnt :
    decodeWords [0xD719E0DF#32] = some (.cntAdd true 0x19#6 0x7#3 (.int 31#5), []) ∧
    decodeWords [0x574BA0A1#32] = some (.cntWait false 0xB#6 0x5#3 (.s 33#6), []) ∧
    decodeWords [0xD78440E3#32] = some (.cntRd true 0x4#6 0x2#3 (.fpc 3#3), []) ∧
    decodeWords [0x57C0C0E3#32] = some (.cntCncl false 0x6#3 (.fpc 3#3), []) := by
  exact ⟨rfl, rfl, rfl, rfl⟩

/-- TRAP. -/
theorem test_decode_trap :
    decodeWords [0xD8001523#32] = some (.trap true 0x1523#16, []) ∧
    decodeWords [0x5840595D#32] = some (.brk false 0x595D#16, []) ∧
    decodeWords [0xD8800000#32] = some (.halt true, []) := by
  exact ⟨rfl, rfl, rfl⟩

/-- CSR. -/
theorem test_decode_csr :
    decodeWords [0x593800DF#32] = some (.csrr false 0x38#6 (.int 31#5), []) ∧
    decodeWords [0xD96AF0E3#32] = some (.csrw true 0x2A#6 0x3C#6 (.fpc 3#3), []) ∧
    decodeWords [0x59A7C451#32] = some (.csrs false 0x27#6 0x31#6 (.v 0x51#7), []) ∧
    decodeWords [0xD9D11CE8#32] = some (.csrc true 0x11#6 0x7#6 .laneix, []) := by
  exact ⟨rfl, rfl, rfl, rfl⟩

/-- ERET. -/
theorem test_decode_eret :
    decodeWords [0x5A000000#32] = some (.eret false, []) := by
  rfl

/-- TLBI. -/
theorem test_decode_tlbi :
    decodeWords [0xDB0000E8#32] = some (.tlbiVa true .laneix, []) ∧
    decodeWords [0x5B4000C7#32] = some (.tlbiPart false (.int 7#5), []) ∧
    decodeWords [0xDB800000#32] = some (.tlbiAll true, []) ∧
    decodeWords [0x5BC00000#32] = some (.tlbiSync false, []) := by
  exact ⟨rfl, rfl, rfl, rfl⟩

/-- METER. -/
theorem test_decode_meter :
    decodeWords [0xDC060051#32] = some (.mrdc true 0x6#6 (.v 0x51#7), []) ∧
    decodeWords [0x5C7394C7#32] = some (.msign false 0x33#6 0x25#6 (.int 7#5), []) := by
  exact ⟨rfl, rfl⟩

/-- RCTX. -/
theorem test_decode_rctx :
    decodeWords [0xDD2DECDF#32] = some (.rctxRd true 0x2D#6 0x3B#6 (.int 31#5), []) ∧
    decodeWords [0x5D5E20A1#32] = some (.rctxWr false 0x1E#6 0x8#6 (.s 33#6), []) ∧
    decodeWords [0xDD8878E3#32] = some (.rctxResume true 0x8#6 0x1E#6 (.fpc 3#3), []) ∧
    decodeWords [0x5DC54C51#32] = some (.rctxKill false 0x5#6 0x13#6 (.v 0x51#7), []) := by
  exact ⟨rfl, rfl, rfl, rfl⟩

/-- SWITCH. -/
theorem test_decode_switch :
    decodeWords [0xDE378400#32] = some (.switchArm true 0x37#6 0x21#6, []) ∧
    decodeWords [0x5E61DC00#32] = some (.switchUrgent false 0x21#6 0x37#6, []) ∧
    decodeWords [0xDE9200C7#32] = some (.switchCancel true 0x12#6 (.int 7#5), []) := by
  exact ⟨rfl, rfl, rfl⟩

/-- PART. -/
theorem test_decode_part :
    decodeWords [0x5F0C68A1#32] = some (.partCreate false 0xC#6 0x1A#6 (.s 33#6), []) ∧
    decodeWords [0xDF7900A1#32] = some (.partDestroy true 0x39#6 (.s 33#6), []) ∧
    decodeWords [0x5FABF451#32] = some (.partBitmap false 0x2B#6 0x3D#6 (.v 0x51#7), []) ∧
    decodeWords [0xDFE4C8E8#32] = some (.partWays true 0x24#6 0x32#6 .laneix, []) := by
  exact ⟨rfl, rfl, rfl, rfl⟩

/-- CAPR. -/
theorem test_decode_capr :
    decodeWords [0x601600E8#32] = some (.capr false 0x16#6 .laneix, []) := by
  rfl

/-! ### States that meet the hypotheses -/

/-- ScalarOperationsWriteTheirResult, DivisionWritesQuotientAndRemainder, ClocksAreReadAndDeadlinesArmed,
BranchesGoToTheirTarget, IdleInstructionsAndSpecialRegisters: a team and a control-core thread, each scalar operand form. -/
theorem test_witness_harts : HartRuns (running team) ∧ HartRuns (control 0#2) ∧ ThreadRuns (control 0#2) 0 ∧
    TeamRuns (running team) [] ∧ Src.scalOk (.s 63#6) = true ∧ Src.scalOk (.int 31#5) = true ∧ Src.scalOk (.lit 0#32) = true := by
  unfold HartRuns ThreadRuns TeamRuns; decide

/-- BranchesGoToTheirTarget, BR.EZ taken and not taken. -/
theorem test_witness_exec : TeamRuns (running { team with exec := 0#1024 }) [] ∧ { team with exec := 0#1024 }.exec = 0#1024 ∧
    team.exec ≠ 0#1024 := by
  unfold TeamRuns; decide +kernel

/-- SingleLaneAccess, VectorArithmetic, VectorLogicBitsAndMoves, VectorComparisons, VectorFloatingPoint,
VectorPackingAndHashing: allocated registers that nothing holds, the last one among them. -/
theorem test_witness_vectors : TeamRuns (running team) [0, 1, 63] ∧ Src.vecOk (.v 63#7) = true ∧ Src.vecOk .laneix = true ∧
    Src.vecOk (.fpc 0#3) = true ∧ (31#8).toNat < 32 ∧ (0#8).toNat < 32 ∧ Cmp.ge ≠ .ord ∧ Cmp.ge ≠ .uno := by
  unfold TeamRuns; decide +kernel

/-- MaskStackIsPushedAndPopped: room for one entry, a full stack, one entry, an empty one with and without spilled entries;
EXEC and lm7 as masks. -/
theorem test_witness_maskStack : TeamRuns (running { team with depth := 15 }) [] ∧ { team with depth := 15 }.depth < 16 ∧
    TeamRuns (running { team with depth := 16 }) [] ∧ 16 ≤ { team with depth := 16 }.depth ∧
    TeamRuns (running { team with depth := 1 }) [] ∧ 0 < { team with depth := 1 }.depth ∧
    team.depth = 0 ∧ team.spill = 0#32 ∧ { team with spill := 1#32 }.spill ≠ 0#32 ∧ (8#4).toNat ≤ 8 ∧ 7#4 ≠ 8#4 := by
  unfold TeamRuns; decide +kernel

/-- MasksAndLanePlacement: lm7 and EXEC; an empty mask, and one whose lowest bit is lane 63; a team with nothing
outstanding, with a load and with a held matrix result. -/
theorem test_witness_masks : (7#4).toNat < 8 ∧ (8#4).toNat ≤ 8 ∧
    (let t : Team := { team with lm := [(7, 0#1024)] }; ∀ i, i < t.width → (t.mask 7#4).getLsbD i = false) ∧
    (let t : Team := { team with lm := [(7, 1#1024 <<< 63)] }
     63 < t.width ∧ (t.mask 7#4).getLsbD 63 = true ∧ ∀ j, j < 63 → (t.mask 7#4).getLsbD j = false) ∧
    team.loads = 0 ∧ (running team).regFoal 5 = false ∧ loading.loads ≠ 0 ∧
    (withFoal (running team) matrixFoal).regFoal 5 = true := by
  decide +kernel

/-- BarriersCountArrivals: the first arrival of team 0 for all live teams, and for as many as the launch has; the barrier
after that arrival. -/
theorem test_witness_barriers : TeamRuns (running team) [] ∧ ((running team).ctx 5).status = .ready ∧
    5 ∈ ((running team).wg 20).teams ∧ team.teamix < 16 ∧ team.loads = 0 ∧ team.stores = 0 ∧
    (2#16).toNat ≤ ((running team).wg 20).launch.teams ∧ (((running team).wg 20).barrier 15).arrived = 0#16 ∧
    (let s := { running { team with lastPhase := [] } with wgs := [(20, { wg with barriers := [(3, ⟨0#32, 1#16, 2⟩)] })] }
     TeamRuns s [] ∧ Store.get 0#32 (s.team 5).lastPhase 3 = ((s.wg 20).barrier 3).phase ∧
       ((s.wg 20).barrier 3).arrived.getLsbD 0 = true) ∧
    ¬((((running team).wg 20).barrier 3).arrived.getLsbD 0 = true) := by
  unfold TeamRuns; decide +kernel

/-- IdleInstructionsAndSpecialRegisters: the first and the last assigned special register. -/
theorem test_witness_special : sregAssigned 0x00 = true ∧ sregAssigned 0x22 = true ∧ (0x22 : Nat) < 256 := by decide

/-- ExitEndsTheTeam: nothing attached; a live attached foal, with and without registers as its destination; a load under
way. -/
theorem test_witness_exit : TeamRuns (running team) [] ∧ team.loads = 0 ∧ team.stores = 0 ∧ team.batch team.openSlot = 0 ∧
    (running team).attachedOf 5 = [] ∧ TeamRuns (withFoal (running team) matrixFoal) [] ∧
    (∃ e ∈ (withFoal (running team) matrixFoal).attachedOf 5, e.2.live = true ∧ e.2.regdest = true) ∧
    (∃ e ∈ (withFoal (running team) { matrixFoal with regdest := false }).attachedOf 5, e.2.live = true) ∧
    (∀ e ∈ (withFoal (running team) { matrixFoal with regdest := false }).attachedOf 5, e.2.live = true → e.2.regdest = false) ∧
    TeamRuns (running loading) [] ∧ loading.loads ≠ 0 := by
  unfold TeamRuns
  refine ⟨by decide +kernel, by decide +kernel, by decide +kernel, by decide +kernel, by decide +kernel, by decide +kernel, ⟨(3, matrixFoal), by decide +kernel⟩,
    ⟨(3, { matrixFoal with regdest := false }), by decide +kernel⟩, by decide +kernel, by decide +kernel, by decide +kernel⟩

/-- NaNsAndComparisons: a quiet and a signalling NaN, infinities of each sign, a zero, and numbers. -/
theorem test_witness_nans : (Fmt.fp32.value 0x7FC00000).isNan = true ∧ (Fmt.fp32.value 0x7F800001).isSig = true ∧
    (Fmt.fp32.value 0xFF800000).isInf = true ∧ Fmt.fp32.value 0x80000000 = .fin true 0 Fmt.fp32.emin ∧
    Fmt.fp32.value 0x7F800000 = .inf false ∧ Fmt.fp32.value 0xFF800000 = .inf true ∧
    (Fmt.fp16.value 0x3C00).isNan = false ∧ (Fmt.bf16.value 0x8000).isZero = true ∧ (Fmt.bf16.value 0).isZero = true := by
  decide +kernel

/-- ReductionsCombineActiveLanes, ScansAreOrderedPrefixes: 64 lanes take six levels. -/
theorem test_witness_tree : TeamRuns (running team) [63] ∧ team.width ≤ 2 ^ 6 ∧ (∀ j, j < 6 → 2 ^ j < team.width) := by
  unfold TeamRuns; decide +kernel

/-- ShufflesBallotsAndConditions: a team with no active lane, and one with all. -/
theorem test_witness_ballots : TeamRuns (running team) [5] ∧ team.active.length = 64 ∧
    { team with exec := 0#1024 }.active = [] := by
  unfold TeamRuns; decide +kernel

/-- The places of one lane's bytes, where the checks pass. -/
def placesOf (s : State) (f : MemForm) (q : Ask) : Option (List Loc) :=
  (s.checkAsk s.cur f.space f.access q.addr q.n).toOption

/-- What MayIssue asks of one lane, said so that it can be computed. -/
theorem mayIssue_one {s : State} {f : MemForm} {q : Ask}
    (h : (f.noDet = true → s.det s.cur = false) ∧
      (f.release = true → (s.team s.cur).loads = 0 ∧ (s.team s.cur).stores = 0) ∧
      (f.space = .global → s.unwalked s.cur (vpagesOf q.addr q.n) = []) ∧
      (if f.kind.isLoad = true then (s.team s.cur).loads < 63 else (s.team s.cur).stores < 63) ∧
      (f.align = true → q.addr.toNat % q.n = 0) ∧ (placesOf s f q).isSome = true ∧
      (f.space = .scratch → ∀ b ∈ (placesOf s f q).getD [], b.pa / 4096 ∉ (s.wgOf s.cur).engPages)) :
    MayIssue s f [q] := by
  obtain ⟨a, b, w, c, d, e, g⟩ := h
  refine ⟨a, b, fun h => by simpa using w h, c, fun x hx => ?_⟩
  obtain rfl := List.mem_singleton.mp hx
  unfold placesOf at e g
  cases hc : s.checkAsk s.cur f.space f.access x.addr x.n with
  | error y => rw [hc] at e; cases e
  | ok bs => rw [hc] at g; exact ⟨d, bs, rfl, g⟩

/-- With lane 0 alone a vector form asks once. -/
theorem perLane_one {s : State} (h : (s.team s.cur).lanes = [0]) (n : Nat) (addr : Nat → Addr) (data data2 : Nat → Nat) :
    perLane s n addr data data2 = [⟨0, addr 0, n, data 0, data2 0⟩] := by
  unfold perLane; rw [h]; rfl

/-- A team with lane 0 alone active. -/
def lone : Team := { team with exec := 1#1024 }

theorem lone_lanes : ((running lone).team (running lone).cur).lanes = [0] := by decide +kernel

theorem running_sound : SoundMemory (running lone) := ⟨by decide, by decide, by decide, by decide⟩

/-- VectorAccessesAskForTheirLanes: a load and a store of one lane in a mapped page, at each end of the immediate, and in the
scratchpad; the lowest and the highest registers. -/
theorem test_witness_vectorAccesses :
    let s := running lone
    TeamRuns s (span 0#7 8 ++ [63]) ∧ SoundMemory s ∧
    MayIssue s (plainForm .load .global .read (.vec 0) false)
      (perLane s 8 (fun l => s.sreg 5 1#6 + BitVec.ofInt 64 (16 * (255#9).toInt + l * 8)) (fun _ => 0) fun _ => 0) ∧
    MayIssue s (plainForm .store .global .write .none false)
      (perLane s 8 (fun l => 0x1100#64 + BitVec.ofInt 64 (16 * (256#9).toInt + l * 8)) (laneBytes s 0 8) fun _ => 0) ∧
    MayIssue s (plainForm .load .scratch .read (.vec 0) false)
      (perLane s 8 (fun l => BitVec.ofNat 64 ((s.sreg 5 1#6).toNat % 2 ^ 20 + ((s.vreg 5 63).lane l).toNat * 2 ^ 3))
        (fun _ => 0) fun _ => 0) := by
  refine ⟨by unfold TeamRuns; decide +kernel, running_sound, ?_, ?_, ?_⟩ <;> rw [perLane_one lone_lanes] <;>
    exact mayIssue_one (by decide +kernel)

/-- VectorAccessesAskForTheirLanes, the fragment forms: 128 lanes, an aligned base, rows as long as they may be, and the
packed layout. -/
theorem test_witness_fragments :
    let t := { team with width := 128 }
    t.width % 128 = 0 ∧ ((running t).sreg 5 1#6).toNat % 4 = 0 ∧ 64 ≤ 16 * (4#7).toNat ∧ 32 ≤ 16 * (2#7).toNat ∧
      24 ≤ 16 * (2#7).toNat ∧ 256 ≤ 16 * (16#7).toNat ∧ 2#2 ≠ 3#2 := by
  decide

/-- ScalarAccesses on a team: a load and a store of eight bytes at the end of the immediate, global and scratchpad. -/
theorem test_witness_scalarAccesses :
    let s := running team
    TeamRuns s [] ∧ SoundMemory s ∧
    MayIssue s (plainForm .load .global .read (.scalar 63) false) [⟨0, s.sreg 5 1#6 + BitVec.ofNat 64 (1023 * 8), 8, 0, 0⟩] ∧
    MayIssue s (plainForm .store .global .write .none false) [⟨0, s.sreg 5 1#6, 8, 0, 0⟩] ∧
    MayIssue s (plainForm .store .scratch .write .none false)
      [⟨0, BitVec.ofNat 64 ((s.sreg 5 1#6).toNat % 2 ^ 20 + 1023 * 8), 8, 0, 0⟩] := by
  refine ⟨by unfold TeamRuns; decide +kernel, ⟨by decide, by decide, by decide, by decide⟩, ?_, ?_, ?_⟩ <;>
    exact mayIssue_one (by decide +kernel)

/-- ScalarAccesses on a control-core thread: the last eight bytes of HBM4, a poisoned one, and the byte after them. -/
theorem test_witness_physical :
    let s := control 0#2
    SoundMemory s ∧ ThreadRuns s 0 ∧ (s.ctx s.cur).status = .ready ∧ (0x12000000000 - 8) + 8 ≤ 0x12000000000 ∧
    (∀ j, j < 8 → s.homePoison ⟨0x12000000000 - 8 + j, none⟩ = false) ∧
    ({ s with poison := [(4, true)] } : State).homePoison ⟨0x100, none⟩ = true ∧
    (s.sreg s.cur 2#6).toNat = 0x12000000000 ∧ regionOf (0x12000000000 + 0) = .none := by
  unfold ThreadRuns
  refine ⟨⟨by decide, by decide, by decide, by decide⟩, ?_⟩
  decide +kernel

/-- AtomicsAskForTheirLanes: one lane at the aligned address its registers hold, with and without a release; a scratchpad
atomic in a WG. -/
theorem test_witness_atomics :
    let s := running lone
    let form : MemForm :=
      { kind := .atom .cas, space := .global, access := .readWrite, align := true, dest := .vec 8, sext := false, reach := .home,
        acquire := some .pod, release := true, noDet := true }
    let asks := perLane s 4 (fun l => ((s.vreg 5 11).lane l) ++ ((s.vreg 5 10).lane l)) (laneBytes s 8 4)
      fun l => ((s.vreg 5 9).lane l).toNat
    TeamRuns s ([8, 9] ++ [10, 11]) ∧ Sys2Proof.Scope.pod ≠ .reserved ∧ MayIssue s form asks ∧
    MayIssue s { form with kind := .red .addI32, dest := .none, acquire := none } asks ∧
    MayIssue s { form with space := .scratch, noDet := false }
      (perLane s 4 (fun l => BitVec.ofNat 64 (((s.vreg 5 10).lane l).toNat % 2 ^ 20)) (laneBytes s 8 4)
        fun l => ((s.vreg 5 9).lane l).toNat) := by
  refine ⟨by unfold TeamRuns; decide +kernel, by decide, ?_, ?_, ?_⟩ <;> rw [perLane_one lone_lanes] <;>
    exact mayIssue_one (by decide +kernel)

/-- OrderedAccessesAndFences: an acquire load and a release store of one lane at WG and at POD scope; a team with nothing
outstanding, with a load, with a store; a control-core thread. -/
theorem test_witness_ordered :
    let s := running lone
    let addr := fun l => ((((s.vreg 5 11).lane l) ++ ((s.vreg 5 10).lane l)) : Addr)
    SoundMemory s ∧ TeamRuns s (span 8#7 8 ++ [10, 11]) ∧
    MayIssue s { plainForm .load .global .read (.vec 8) false with align := true, reach := .home, acquire := some .pod, noDet := true }
      (perLane s 8 addr (fun _ => 0) fun _ => 0) ∧
    MayIssue s { plainForm .store .global .write .none false with align := true, release := true, noDet := false }
      (perLane s 8 addr (laneBytes s 8 8) fun _ => 0) ∧
    HartRuns s ∧ lone.loads = 0 ∧ lone.stores = 0 ∧ HartRuns (running loading) ∧ loading.loads ≠ 0 ∧ storing.stores ≠ 0 ∧
    HartRuns (control 0#2) ∧ ((control 0#2).team 0).loads = 0 := by
  refine ⟨running_sound, by unfold TeamRuns; decide +kernel, ?_, ?_, ?_⟩
  · rw [perLane_one lone_lanes]
    exact mayIssue_one (by decide +kernel)
  · rw [perLane_one lone_lanes]
    exact mayIssue_one (by decide +kernel)
  · unfold HartRuns; decide +kernel

/-- LaneCopiesAndWaitv, LCPY: one lane that copies 32 bytes to offset 0 and reads four; a sealed batch in the open slot. -/
theorem test_witness_lcpy :
    let s := { running lone with vregs := [(5 * 128 + 11, 4#32768)] }
    TeamRuns s [9, 10, 11] ∧ s.sealed 5 lone.openSlot = false ∧ lone.batch lone.openSlot + lone.lanes.length ≤ 65535 ∧
    s.unwalked 5 (lone.lanes.flatMap fun i => vpagesOf (s.sreg 5 1#6 + BitVec.ofNat 64 ((s.vreg 5 10).lane i).toNat)
      (min ((s.vreg 5 11).lane i).toNat 32)) = [] ∧
    (∀ i ∈ lone.lanes, ((s.vreg 5 9).lane i).toNat % 2 ^ 20 % 32 = 0 ∧ ((s.vreg 5 9).lane i).toNat % 2 ^ 20 + 32 ≤ s.spSize 5 ∧
      s.checkAsk 5 .global .read (s.sreg 5 1#6 + BitVec.ofNat 64 ((s.vreg 5 10).lane i).toNat)
        (min ((s.vreg 5 11).lane i).toNat 32) = .ok ((List.range 4).map fun j => ⟨0x200100 + j, none⟩)) ∧
    (withFoal s { matrixFoal with kind := .lanebatch, regdest := false, job := .batch 0 }).sealed 5 0 = true := by
  unfold TeamRuns; decide +kernel

/-- LaneCopiesAndWaitv, WAITV: a thread at an aligned address of HBM4; a team at the last aligned place of its scratchpad, at
a mapped address, and in deterministic mode. -/
theorem test_witness_waitv :
    ThreadRuns (control 0#2) 0 ∧ ((control 0#2).ctx 0).status = .ready ∧ ((control 0#2).sreg 0 1#6).toNat % 8 = 0 ∧
    ((control 0#2).sreg 0 1#6).toNat < 0x12000000000 ∧ TeamRuns (running team) [] ∧
    (let A : Addr := BitVec.ofNat 64 (2 ^ 63 + 0xFFF8)
     A.getLsbD 63 = true ∧ A.toNat % 2 ^ 20 % 8 = 0 ∧ A.toNat = 2 ^ 63 + A.toNat % 2 ^ 20 ∧
       A.toNat % 2 ^ 20 + 8 ≤ (running team).spSize 5 ∧ A.toNat % 2 ^ 20 / 4096 ∉ ((running team).wgOf 5).engPages ∧
       team.before 100 .scratch (spLocs (A.toNat % 2 ^ 20) 8) = []) ∧
    (running team).checkAsk 5 .global .read 0x100#64 8 = .ok ((List.range 8).map fun j => ⟨0x200100 + j, none⟩) ∧
    team.before 100 .global ((List.range 8).map fun j => ⟨0x200100 + j, none⟩) = [] ∧
    ((running team).sreg 5 1#6).getLsbD 63 = false ∧ (running team).det 5 = false ∧
    ((running team).wgOf 5).saved = none ∧ (running team).seenBlocks 0 ((List.range 8).map fun j => ⟨0x200100 + j, none⟩) = false ∧
    storing.before 100 .global [⟨0x200300, none⟩] ≠ [] ∧ SoundMemory (control 0#2) ∧ SoundMemory (running team) ∧
    (running team).unwalked 5 (vpagesOf 0x100#64 8) = [] ∧
    (storing.before 100 .scratch (spLocs 0x300 8) = [] ∧ ((running storing).ctx 5).status = .ready) ∧
    ({ running team with wgs := [(20, { wg with launch := { launch with det := true } })] } : State).det 5 = true := by
  unfold ThreadRuns TeamRuns SoundMemory; decide +kernel

/-- PrefetchesChangeNoByte: a mapped line and one that is not; a die with no guest copy of it. -/
theorem test_witness_prefetch : SoundMemory (running lone) ∧ HartRuns (running lone) ∧
    (running lone).locate 5 0x100#64 = some ⟨0x200100, none⟩ ∧ (running lone).locate 5 0x200000#64 = none ∧
    ((running lone).l2.filter fun e => e.2.line == 0x200100 / 128 && e.2.guest && sliceOfKey e.1 / 48 == 0).length ≤ 1 := by
  refine ⟨running_sound, by unfold HartRuns; decide +kernel, by decide +kernel, by decide +kernel, by decide +kernel⟩

/-- MemoryChecksTrapInTheirOrder: deterministic mode; a lane at address 2; a page without a translation, and the same page once
its walk has found no mapping. -/
theorem test_witness_memoryChecks :
    let d : State := { running lone with wgs := [(20, { wg with launch := { launch with det := true } })] }
    let o : State := { running lone with vregs := [(5 * 128 + 10, 2#32768)] }
    let u := fun (t : Team) => ({ running t with vregs := [(5 * 128 + 12, 0x200000#32768)] } : State)
    let addr := fun (t : Team) => (u t).sreg 5 1#6 + BitVec.ofNat 64 ((((u t).vreg 5 12).lane 0).toNat * 2 ^ 0)
    let back : Team := { lone with walked := [⟨32, some .fault, ⟨0, false, false, false, none, 1⟩, 1⟩] }
    TeamRuns d [8, 10, 11] ∧ d.det 5 = true ∧ TeamRuns o [8, 10, 11] ∧ o.det 5 = false ∧
    (lone.lanes.filter fun l =>
      (((((o.vreg 5 11).lane l) ++ ((o.vreg 5 10).lane l)) : Addr)).toNat % 4 != 0) = [0] ∧
    TeamRuns (u lone) [8, 12] ∧ (u lone).unwalked 5 (lone.lanes.flatMap fun _ => vpagesOf (addr lone) 4) = [32] ∧
    TeamRuns (u back) [8, 12] ∧ back.loads < 63 ∧ (u back).unwalked 5 (back.lanes.flatMap fun _ => vpagesOf (addr back) 4) = [] ∧
    (u back).checkAsk 5 .global .read (addr back) 4 = .error (.fault, 0x200100#64) := by
  unfold TeamRuns; decide +kernel

/-! ### Foals -/

/-- The same state with bytes in the scratchpad of workgroup 20. -/
def withSp (s : State) (bs : List (Nat × Byte)) : State := { s with sp := bs.map fun e => (20 * 2 ^ 20 + e.1, e.2) }
/-- A team of 128 lanes, all active. -/
def wide : Team := { team with width := 128, exec := maskBelow 128 }

/-- MatrixInstructionsCreateFoals, MMA: dense and sparse BF16 operands that fill the registers up to v59 or v63, no scales;
and with a scale array for A. -/
theorem test_witness_mma :
    let s := running wide
    let r := s.settle s.cur
    (∀ i, i < 1024 → wide.exec.getLsbD i = decide (i < wide.width)) ∧ wide.width % 128 = 0 ∧ fmtOk false 0#64 = true ∧
      fmtOk true 0#64 = true ∧ r.sreg 5 3#6 = 0#64 ∧ 40 + bRegs 0#64 ≤ 64 ∧ 40 + 2 * bRegs 0#64 ≤ 60 ∧ 60 + auxRegs 0#64 ≤ 64 ∧
      scaleTrap 0#64 (r.spSize 5) (scaleRegs 0#64 64 64 32) = none ∧ r.foalRoom 5 .matrix = true ∧ fmtOk false 0x10000#64 = true ∧
      scaleTrap 0x10000#64 (r.spSize 5) (scaleRegs 0x10000#64 64 64 32) = none ∧
      (∀ x ∈ regsPages (scaleRegs 0x10000#64 64 64 32), x ∉ (r.wgOf 5).engPages) := by
  decide +kernel
theorem test_witness_mma_held : ∀ x, ((running wide).settle 5).isHeld 5 x = false := fun _ => rfl

/-- A tile-op record at offset 0: A, B and C at 0x1000, 0x2000 and 0x3000, M = N = 1, K = 32. -/
def tileBytes : List (Nat × Byte) := [(1, 0x10#8), (5, 0x20#8), (9, 0x30#8), (0x12, 1#8), (0x14, 1#8), (0x16, 32#8)]

/-- MatrixInstructionsCreateFoals, TMMA: a record of one element a side, whose last bytes are zero. -/
theorem test_witness_tmma :
    let s := withSp (running wide) tileBytes
    let r := s.settle s.cur
    let x := r.tileRec 20 0
    let scs := scaleRegs 0#64 x.m x.n (x.kpad 0#64)
    let others := regsPages ([x.regA 0#64, x.regB 0#64, (0, 64)] ++ scs)
    TeamRuns s [] ∧ (s.ctx s.cur).status = .ready ∧ (r.sreg 5 3#6).toNat % 2 ^ 20 = 0 ∧ 0 + 64 ≤ r.spSize 5 ∧
      0 / 4096 ∉ (r.wgOf 5).engPages ∧ x.ok 0#64 = true ∧ (∀ i, i < 38 → r.spByte 20 (0x1A + i) = 0#8) ∧
      (∀ p ∈ regPages x.regC, p ∉ others) ∧ (∀ a ∈ [x.aaddr, x.baddr, x.caddr, x.apitch, x.bpitch, x.cpitch], a % 4 = 0) ∧
      scaleTrap 0#64 (r.spSize 5) ([x.regA 0#64, x.regB 0#64, x.regC] ++ scs) = none ∧ r.foalRoom 5 .matrix = true := by
  unfold TeamRuns; decide +kernel

/-- A stream record at offset 0: runs of 4 bytes, one iteration, the byte at 0x39 that of DEST. -/
def streamBytes (dest : Byte) : List (Nat × Byte) :=
  [(8, 4#8), (0x0A, 0xFF#8), (0x10, 1#8), (0x14, 1#8), (0x18, 1#8), (0x1C, 1#8), (0x39, dest), (0x40, 1#8)]
/-- A ring of two slots at offset 0x100, its slots at 0x2000 and its barriers at 0x80. -/
def ringBytes (filled free mode held : Byte) : List (Nat × Byte) :=
  [(0x101, 0x20#8), (0x105, 0x10#8), (0x108, 2#8), (0x10C, filled), (0x10D, free), (0x10E, mode), (0x10F, held), (0x110, 0x80#8)]

/-- CopiesAndCollectivesCreateFoals, CPY: each form from a record of one run, without a barrier and with one. -/
theorem test_witness_cpy :
    let s := withSp (running wide) (streamBytes 0x40#8)
    let r := s.settle s.cur
    let x := r.streamRec 20 0
    TeamRuns s [] ∧ r.recordChecks 5 true 0 64 [] = none ∧ r.recordChecks 5 true 0 64 [0x100 / 4096] = none ∧
      (∀ f ∈ [CopyForm.gs, .sg, .gg, .ss], x.ok f (r.spNat 20 0x0C 4) = true ∧ ∀ y ∈ x.footprint f, footFault (r.spSize 5) y = none) ∧
      (r.sreg 5 1#6).toNat % 2 ^ 20 = 0x100 ∧ 0x100 % 16 = 0 ∧ 0x100 + 16 ≤ r.spSize 5 ∧ r.foalRoom 5 .copy = true := by
  unfold TeamRuns; decide +kernel

/-- CopiesAndCollectivesCreateFoals, CPL: a fill ring and a drain ring, idle, and a record of one iteration. -/
theorem test_witness_cpl : ∀ p ∈ ([(.fill, 0#8, 0#8), (.drain, 0x40#8, 1#8)] : List (CopyForm × Byte × Byte)),
    let s := withSp (running wide) (streamBytes p.2.1 ++ ringBytes 0#8 2#8 p.2.2 0#8)
    let r := s.settle s.cur
    let x := r.streamRec 20 0
    let d := r.ring 20 0x100
    TeamRuns s [] ∧ r.recordChecks 5 true 0 80 [0x100 / 4096] = none ∧
      x.ok p.1 (r.spNat 20 0x0C 4 + r.spNat 20 0x44 4) = true ∧ r.spNat 20 0x40 4 ≠ 0 ∧ 0x100 + 64 ≤ r.spSize 5 ∧
      d.broken 0x100 = false ∧ x.total ≤ d.size ∧ d.mode % 2 = (if p.1 = .drain then 1 else 0) ∧ d.active = false ∧
      regFault (r.spSize 5) (d.base, d.slots * d.size) = none ∧ r.foalRoom 5 .copy = true := by
  unfold TeamRuns; decide +kernel

/-- CopiesAndCollectivesCreateFoals, COLL: a record for group 5 of one element, a group table of one record with packages 0
and 1, an engine and a port; without a barrier and with one. -/
theorem test_witness_coll :
    let s := { withSp (running wide) [(0, 5#8), (0x18, 1#8)] with
      mem := [(0x300000, 5#8), (0x300004, 1#8), (0x300006, 2#8), (0x300042, 1#8)],
      parts := [(1, { Partition.blank with live := true, gtbase := 0x300000, gtcount := 1, ceng := 1#48, ports := 1#24 })] }
    let r := s.settle s.cur
    TeamRuns s [] ∧ (s.ctx s.cur).status = .ready ∧ r.recordChecks 5 false 0 64 [] = none ∧
      r.recordChecks 5 false 0 64 [0x100 / 4096] = none ∧
      (∀ f ∈ [CollForm.ar, .ag, .rs, .bc], collRecordOk f (r.spRead 20 0 64) = true) ∧ r.spNat 20 0 4 = 5 ∧
      r.findGroup 1 5 = some (0#32, [0, 1]) ∧ (r.part 1).engineFor (r.coreOf 5) = some 0 ∧ (r.part 1).ports ≠ 0#24 ∧
      0x100 + 16 ≤ r.spSize 5 ∧ r.foalRoom 5 .coll = true := by
  unfold TeamRuns; decide +kernel

/-! ### Foals that exist, power, rings and barriers -/

/-- The same state with a token of generation 1 of slot 3 in s1, whose slot holds a foal. -/
def tokened (s : State) (f : Foal) : State :=
  { withFoal s f with
    foalGens := [(3, 1#12)],
    ctxs := [(5, { Ctx.blank with kind := .team, status := .ready, pc := 0x2000#64, sregs := [(1, 0x103#64), (2, 0xFFFFF#64)] })] }
/-- A foal of the team whose destination is memory. -/
def copyFoal : Foal := { matrixFoal with kind := .copy, regdest := false, job := .copy (copyJob .gg ⟨0#64, 4, 0xFF, 0, [1, 1, 1, 1], [0#32, 0#32, 0#32, 0#32], 0#64, 0#64⟩ 1 0#64 none none) }

/-- FoalsAreWaitedForAndControlled, waiting: a running foal, one that is done, one in FAULT, a stale token; attached foals that
run, and none; an open slot that is free, and one with a sealed batch. -/
theorem test_witness_waited :
    let s := tokened (running team)
    TeamRuns (s matrixFoal) [] ∧ (s matrixFoal).resolve 5 ((s matrixFoal).sreg 5 1#6) = some (3, matrixFoal) ∧
    matrixFoal.live = true ∧
    (let f := { matrixFoal with status := .done }
     (s f).resolve 5 ((s f).sreg 5 1#6) = some (3, f) ∧ f.live = false ∧ f.status.code ≠ 2 ∧
       ∀ e ∈ (s f).attachedOf 5, e.2.live = false) ∧
    (let f := { matrixFoal with status := .fault }
     (s f).resolve 5 ((s f).sreg 5 1#6) = some (3, f) ∧ f.live = false ∧ f.status.code = 2) ∧
    (s matrixFoal).resolve 5 ((s matrixFoal).sreg 5 2#6) = none ∧ (s matrixFoal).det 5 = false ∧
    (∃ e ∈ (s matrixFoal).attachedOf 5, e.2.live = true) ∧ (running team).attachedOf 5 = [] ∧
    (running team).sealedOpen 5 = false ∧ (running team).foalRoom 5 .lanebatch = true ∧
    (withFoal (running team) { matrixFoal with kind := .lanebatch, job := .batch 0 }).sealedOpen 5 = true := by
  unfold TeamRuns
  refine ⟨by decide +kernel, by decide +kernel, by decide, by decide +kernel, by decide +kernel, by decide +kernel,
    by decide +kernel, ⟨(3, matrixFoal), by decide +kernel⟩, by decide +kernel, by decide +kernel, by decide +kernel, by decide +kernel⟩

/-- FoalsAreWaitedForAndControlled, control: a foal with registers as its destination, one without, a detached one, an ended
one, one in FAULT that has been told; a workgroup with a live team whose launch is not cancelled; operands 7, 8, 15 and −16. -/
theorem test_witness_controlled :
    let s := tokened (running team)
    (s copyFoal).resolve 5 ((s copyFoal).sreg 5 1#6) = some (3, copyFoal) ∧ copyFoal.live = true ∧ copyFoal.regdest = false ∧
    copyFoal.detached = false ∧ copyFoal.hasScratch = false ∧ ((s copyFoal).entity ((s copyFoal).wgOf 5).entity).cancelled = false ∧
    (s copyFoal).liveTeams ((s copyFoal).wgOf 5) ≠ [] ∧ matrixFoal.regdest = true ∧
    (let f := { copyFoal with detached := true }
     (s f).resolve 5 ((s f).sreg 5 1#6) = some (3, f) ∧ f.live = true) ∧
    (let f := { copyFoal with status := .fault, told := true }
     (s f).resolve 5 ((s f).sreg 5 1#6) = some (3, f) ∧ f.live = false ∧ f.told = true) ∧
    (s copyFoal).resolve 5 ((s copyFoal).sreg 5 2#6) = none ∧ Src.scalOk (.int 31#5) = true ∧
    (Src.scalar (s copyFoal) 5 (.int 7#5)).toNat = 7 ∧ (Src.scalar (s copyFoal) 5 (.int 8#5)).toNat = 8 ∧
    (Src.scalar (s copyFoal) 5 (.int 15#5)).toNat = 15 ∧ 16 ≤ (Src.scalar (s copyFoal) 5 (.int 16#5)).toNat := by
  decide +kernel

/-- PowerIsDeclared: no declaration; a pending one that l = 15 lengthens to 65,535 µs, and one of a µs more; a granted one. -/
theorem test_witness_power :
    let p : PowerDecl :=
      { state := 1, intensity := 15, t0 := 0#64, onset := 0, start := 0#64, len := 32767, wait := 0, ext := none, doomed := false,
        kept := false }
    TeamRuns (running { team with power := some p }) [] ∧ team.power = none ∧ p.len + 2 ^ (15#4).toNat = 65535 ∧
    65535 < { p with len := 32768 }.len + 2 ^ (15#4).toNat ∧ { p with state := 2 }.state ≠ 1 := by
  unfold TeamRuns; decide +kernel

/-- RingsAndTransactionBarriers, rings: one slot filled and one held, none filled, a broken descriptor, an idle one in each
mode, deterministic mode. -/
theorem test_witness_rings :
    let s := withSp (running team) (ringBytes 1#8 0#8 0#8 1#8)
    let r := s.settle s.cur
    TeamRuns s [] ∧ (s.ctx s.cur).status = .ready ∧ (r.sreg 5 1#6).toNat % 2 ^ 20 = 0x100 ∧ 0x100 % 64 = 0 ∧
    0x100 + 64 ≤ r.spSize 5 ∧ 0x100 / 4096 ∉ (r.wgOf 5).engPages ∧ (r.ring 20 0x100).broken 0x100 = false ∧
    (r.ring 20 0x100).filled ≠ 0 ∧ (r.ring 20 0x100).held ≠ 0 ∧ (r.team 5).loads = 0 ∧ (r.team 5).stores = 0 ∧
    ((withSp (running team) (ringBytes 0#8 2#8 0#8 0#8)).ring 20 0x100).filled = 0 ∧
    ((withSp (running team) []).ring 20 0x100).broken 0x100 = true ∧ r.det 5 = false ∧
    (let x := (withSp (running team) (ringBytes 7#8 9#8 1#8 0#8)).ring 20 0x100
     x.shapeOk 0x100 = true ∧ x.active = false ∧ x.base + x.slots * x.size ≤ r.spSize 5 ∧ x.tbbase + 16 * x.slots ≤ r.spSize 5 ∧
       overlaps x.tbbase (16 * x.slots) x.base (x.slots * x.size) = false ∧ overlaps x.tbbase (16 * x.slots) 0x100 64 = false) ∧
    (Src.scalar r 5 (.int 1#5)).toNat < 2 ∧ Src.scalar r 5 (.int 1#5) = 1#64 ∧
    ({ r with wgs := [(20, { wg with launch := { launch with det := true } })] } : State).det 5 = true := by
  unfold TeamRuns; decide +kernel

/-- A barrier at offset 0x100: phase, ARRIVE, flags, SECT and their first values. -/
def barrierBytes (phase arrive flags sect : Byte) : List (Nat × Byte) :=
  [(0x100, phase), (0x101, arrive), (0x103, flags), (0x104, sect), (0x108, 1#8)]

/-- RingsAndTransactionBarriers, barriers: the last arrival with no sector left, phase 15, FAULT, a phase that has been left, a
broken barrier; the greatest expected counts. -/
theorem test_witness_tbarriers :
    let s := withSp (running team) (barrierBytes 15#8 1#8 1#8 0#8)
    let r := s.settle s.cur
    let x := r.tbar 20 0x100
    TeamRuns s [] ∧ 0x100 % 16 = 0 ∧ 0x100 + 16 ≤ r.spSize 5 ∧ 0x100 / 4096 ∉ (r.wgOf 5).engPages ∧ x.broken = false ∧
    x.arrive = 1 ∧ x.sect = 0 ∧ x.phase = 15 ∧ x.fault = false ∧ (r.team 5).loads = 0 ∧ (r.team 5).stores = 0 ∧
    (Src.scalar r 5 (.lit 0x7FFFFFFF#32)).toNat % 2 ^ 16 ≠ 0 ∧ (Src.scalar r 5 (.lit 0x7FFFFFFF#32)).toNat / 2 ^ 16 < 2 ^ 31 ∧
    x.sect + (Src.scalar r 5 (.lit 0x7FFFFFFF#32)).toNat < 2 ^ 31 ∧ (Src.scalar r 5 (.int 15#5)).toNat = x.phase ∧
    (Src.scalar r 5 (.int 14#5)).toNat ≠ x.phase ∧
    ((withSp (running team) (barrierBytes 0#8 0#8 3#8 5#8)).tbar 20 0x100).fault = true ∧
    ((withSp (running team) []).tbar 20 0x100).broken = true := by
  unfold TeamRuns; decide +kernel

/-! ### Work, control registers, trapped contexts, switches and partitions -/

/-- A queue descriptor at virtual address 0x100 with its slots at 0x1000, and a packet at 0x200. -/
def queueBytes (kind write : Byte) : List Host.Cell :=
  [(0x200101, 0x10#8), (0x200108, 2#8), (0x20010D, 1#8), (0x20010E, 1#8)] ++
    (if write = 0#8 then [] else [(0x200120, write)]) ++ [(0x200200, kind)]

/-- PacketsAndCounters, QPOST: each kind of packet, with room and with a full queue; a descriptor and a packet out of
alignment; loads under way; deterministic mode. -/
theorem test_witness_posted : ∀ p ∈ ([(1, 1#8), (2, 2#8), (3, 3#8)] : List (Nat × Byte)),
    let s := { running team with mem := queueBytes p.2 0#8 }
    let dl := (List.range 64).map fun j => (⟨0x200100 + j, none⟩ : Loc)
    let pl := (List.range 128).map fun j => (⟨0x200200 + j, none⟩ : Loc)
    let q := Queue.ofBytes (dl.map s.homeByte)
    let pkt := pl.map s.homeByte
    let full := Queue.ofBytes (dl.map ({ running team with mem := queueBytes p.2 2#8 } : State).homeByte)
    TeamRuns s [] ∧ SoundMemory s ∧ Src.scalar s 5 (.lit 0x200#32) = 0x200#64 ∧
      s.teamBytes 5 (s.sreg 5 1#6) 64 .readWrite = .ok dl ∧ s.teamBytes 5 0x200#64 128 .read = .ok pl ∧ q.ok = true ∧
      q.part = (s.wgOf 5).launch.part ∧ recNat pkt 0 2 = p.1 ∧ packetZeros pkt = true ∧ recNat pkt 0x38 8 = 0 ∧ q.count < q.size ∧
      s.teamBytes 5 (q.slotAddr q.write) 128 .write = .ok ((List.range 128).map fun j => ⟨0x201000 + j, none⟩) ∧
      full.size ≤ full.count ∧ full.ok = true ∧ s.unwalked 5 (vpagesOf (s.sreg 5 1#6) 64 ++ vpagesOf 0x200#64 128) = [] ∧
      s.unwalked 5 (vpagesOf (q.slotAddr q.write) 128) = [] := by
  unfold TeamRuns SoundMemory; decide +kernel
theorem test_witness_unposted : (running team).det 5 = false ∧ loading.loads ≠ 0 ∧ storing.stores ≠ 0 ∧ 0xFFFFF % 64 ≠ 0 ∧
    (Src.scalar (running team) 5 (.lit 0x40#32)).toNat % 128 ≠ 0 ∧
    ({ running team with wgs := [(20, { wg with launch := { launch with det := true } })] } : State).det 5 = true := by
  decide +kernel

/-- A state whose die has read a write of another team that is still on its way. -/
def seen : State := { running team with teams := [(5, team), (6, storing)], dieSeen := [(0, [50])] }
theorem test_witness_seen : (running team).engineMay (foalKey 0 0) = true ∧ seen.engineMay (foalKey 0 0) = false ∧
    seen.coreOf 5 = 0 ∧ (seen.team 5).loads = 0 ∧ (seen.team 5).stores = 0 ∧ seen.det 5 = false ∧
    seen.seenBlocks 0 [⟨0x200300, none⟩] = true ∧ (seen.wgOf 5).saved = none := by
  decide +kernel

/-- A state whose team's launch is entity 0: launch 7 of a job, with counter 5, of which CNT.ADD has added 3. -/
def counting (job : Word) : State :=
  { running team with
    entities := [(0, { Entity.blank with part := 1, level := .launch, id := 7#32, job := job, counter := 5#64, added := 3 })] }

/-- PacketsAndCounters, CNT: the own entity by -1, a live one by its id, one of another job, an absent one, an id of more than
32 bits; sums to 0 and below; limits below and at or above the counter. -/
theorem test_witness_counters :
    let s := counting 0#32
    let A := fun (a : Src) => Src.scalar s 5 a
    TeamRuns s [] ∧ s.ownEntity 5 0 = some 0 ∧ (s.entity 0).added + (A (.int 29#5)).toInt = 0 ∧
      (s.entity 0).added + (A (.int 28#5)).toInt < 0 ∧ ((s.entity 0).counter.toNat : Int) + (A (.int 29#5)).toInt < 2 ^ 64 ∧
      s.named 5 0 (A (.int 31#5)) = .live 0 ∧ A (.int 31#5) = BitVec.allOnes 64 ∧ s.named 5 0 (A (.int 7#5)) = .live 0 ∧
      (s.entity 0).job = (s.wgOf 5).launch.job ∧ ((counting 9#32).entity 0).job ≠ ((counting 9#32).wgOf 5).launch.job ∧
      (counting 9#32).named 5 0 (A (.int 7#5)) = .live 0 ∧ A (.int 7#5) ≠ BitVec.allOnes 64 ∧
      s.named 5 0 (A (.int 8#5)) = .absent ∧ (A (.int 8#5)).toNat < 2 ^ 32 ∧ s.named 5 3 (A (.int 30#5)) = .absent ∧
      2 ^ 32 ≤ (A (.int 30#5)).toNat ∧ s.det 5 = false ∧ (s.sreg 5 3#6).toNat < (s.entity 0).counter.toNat ∧
      (s.entity 0).counter.toNat ≤ (s.sreg 5 1#6).toNat ∧ (3#3).toNat ≤ 3 := by
  unfold TeamRuns; decide +kernel

/-- What the launch of a range packet keeps. -/
def ranged : LaunchRec :=
  { desc := launch, waiting := [], map := none, parent := none, above := [], queue := 0, signal := 0#64, killed := false,
    done := 0, pieces := [], spare := [], popped := 0#64, owned := 1#144 }
/-- A state whose workgroup holds an interval of a range launch over 0 to 10 in leaves of 3. -/
def ranging (det : Bool) (lo hi : DWord) : State :=
  { counting 0#32 with
    wgs := [(20, { wg with launch := { launch with det := det, range := some (0#64, 10#64, 3#64) }, lo := lo, hi := hi })],
    entities := [(0, { Entity.blank with part := 1, launch := some ranged })] }

/-- RangeTasksAreTakenAndSplit: no range, an interval that can be split, one too short, an empty one in deterministic mode,
reports up to the range and beyond it. -/
theorem test_witness_ranges :
    (let w := wg
     w.launch.range = none) ∧
    (let s := ranging false 0#64 10#64
     let w := s.wg 20
     TeamRuns s [] ∧ w.launch.range = some (0#64, 10#64, 3#64) ∧ (s.entity w.entity).launch = some ranged ∧
       w.lo.toNat < w.hi.toNat ∧ s.det 5 = false ∧ 2 * 3 ≤ w.hi.toNat - w.lo.toNat ∧
       ranged.done + (s.sreg 5 3#6).toNat ≤ 10 - 0 ∧ 10 - 0 < ranged.done + (s.sreg 5 1#6).toNat) ∧
    (let w := (ranging false 5#64 10#64).wg 20
     w.lo.toNat ≤ w.hi.toNat ∧ w.hi.toNat - w.lo.toNat < 2 * 3) ∧
    (let s := ranging true 10#64 10#64
     TeamRuns s [] ∧ (s.wg 20).hi.toNat ≤ (s.wg 20).lo.toNat ∧ s.det 5 = true) := by
  unfold TeamRuns; decide +kernel

/-- ExceptionsAreTakenAndLeft: threads at each level, with and without a pending event, PLEV 0 to 3; a team with nothing under
way, with a load, with a store. -/
theorem test_witness_exceptions :
    let put := fun (t : Thread) => ({ control 1#2 with threads := [(0, t)] } : State)
    let at1 : Thread := { Thread.blank with level := 1#2 }
    let at2 : Thread := { Thread.blank with level := 2#2 }
    ThreadRuns (control 0#2) 0 ∧ TeamRuns (running team) [] ∧ team.loads = 0 ∧ team.stores = 0 ∧ loading.loads ≠ 0 ∧
      storing.stores ≠ 0 ∧ ThreadRuns (put at1) 1 ∧ at1.events = [] ∧ { at1 with events := [(0x100, 0#64)] }.events ≠ [] ∧
      ThreadRuns (put { at2 with plev := 2#2 }) 1 ∧ (2#2 : BitVec 2).toNat ≤ at2.level.toNat ∧ at1.plev = 0#2 ∧
      ThreadRuns (put { at1 with plev := 3#2 }) 1 ∧ ThreadRuns (put { at1 with plev := 2#2 }) 1 ∧
      at1.level.toNat < (2#2 : BitVec 2).toNat := by
  unfold ThreadRuns TeamRuns; decide +kernel

/-- ControlRegistersAndTranslations: the numbers at each end of the tables, one that is none; levels 1 and 2; a page below and
at 2^55, partitions 0, 1, 63 and 64; nothing posted, and a request under way that was issued before. -/
theorem test_witness_csrs :
    let s := control 1#2
    let n := fun (a : Src) => (Src.scalar s 0 a).toNat
    ThreadRuns s 1 ∧ ThreadRuns (control 2#2) 1 ∧ n (.int 0#5) ∈ (threadCsrs (s.thread 0)).map (·.1) ∧
      n (.lit 0x20#32) ∈ (threadCsrs (s.thread 0)).map (·.1) ∧ n (.lit 0x10#32) ∈ (packageCsrs s).map (·.1) ∧
      n (.lit 0x102#32) ∈ (packageCsrs s).map (·.1) ∧ (s.thread 0).level.toNat < 2 ∧ 2 ≤ ((control 2#2).thread 0).level.toNat ∧
      n (.int 6#5) ∉ [0, 1, 2, 3, 4, 5, 0x10, 0x11, 0x12, 0x13, 0x20, 0x100, 0x101, 0x102] ∧ n (.lit 0x7FFFFFFF#32) < 2 ^ 55 ∧
      2 ^ 55 ≤ n (.int 31#5) ∧ 1 ≤ n (.int 1#5) ∧ n (.lit 63#32) ≤ 63 ∧ n (.int 0#5) = 0 ∧ 63 < n (.lit 64#32) ∧ s.teams = [] ∧
      s.foals = [] ∧
      (let u := { s with threads := [(0, { Thread.blank with level := 1#2, posted := 51 })], teams := [(5, loading)] }
       ∃ e ∈ u.teams, ∃ r ∈ e.2.reqs, r.id < (u.thread 0).posted ∧ r.todo ≠ []) := by
  unfold ThreadRuns
  refine ⟨?_, ?_, ?_, ?_, ?_, ?_, ?_, ?_, ?_, ?_, ?_, ?_, ?_, ?_, ?_, ?_, ?_, ⟨(5, loading), ?_, request .load, ?_, ?_⟩⟩ <;> decide +kernel

/-- ControlRegistersAndTranslations, TLBI.SYNC: nothing that translated before is under way, and a team is parked in a WAITV
whose bytes translate elsewhere now. -/
theorem test_witness_sync :
    let s : State :=
      { running team with
        cur := 0, threads := [(0, { Thread.blank with level := 1#2, posted := 60 })],
        ctxs := [(0, { Ctx.blank with kind := .thread, status := .ready }),
                 (5, { Ctx.blank with kind := .team, status := .parked (.value false 0x100#64 [⟨0, none⟩] .eq 1#64 false) })] }
    ThreadRuns s 1 ∧ (∀ e ∈ s.teams, e.2.reqs = [] ∧ e.2.copies = []) ∧ s.foals = [] ∧ SoundMemory s ∧
      s.checkAsk 5 .global .read 0x100#64 8 = .ok ((List.range 8).map fun j => ⟨0x200100 + j, none⟩) ∧
      WaitCond.eq.holds (s.watched 5 false ((List.range 8).map fun j => ⟨0x200100 + j, none⟩)) 1#64 = false := by
  unfold ThreadRuns SoundMemory; decide +kernel

/-- MetersCapabilitiesAndRecords: the last selector and one beyond it, partitions 0, 1, 63 and 64, an operand of 2^16;
capability offsets 0, 144, 160 and 1. A live partition with a log, a buffer in HBM4, one out of alignment. -/
theorem test_witness_meters :
    let n := fun (a : Src) => (Src.scalar (running team) 5 a).toNat
    HartRuns (running team) ∧ HartRuns (control 0#2) ∧ n (.lit 0x10000#32) = 2 ^ 16 ∧ n (.int 10#5) % 256 = 10 ∧
      (n (.int 9#5) % 256, n (.int 9#5) / 256) = (9, 0) ∧ (n (.lit 0x109#32) % 256, n (.lit 0x109#32) / 256) = (9, 1) ∧
      ((running team).wgOf 5).launch.part = 1 ∧ (n (.lit 0x20A#32) % 256, n (.lit 0x20A#32) / 256) = (10, 2) ∧ n (.lit 0x3F00#32) / 256 = 63 ∧ n (.lit 0x4009#32) / 256 = 64 ∧
      n (.lit 144#32) = 16 * 9 ∧ 160 ≤ n (.lit 160#32) ∧ n (.int 1#5) % 8 ≠ 0 ∧
      (let s := { control 2#2 with parts := [(1, { Partition.blank with live := true, ulogn := 16, ulogbase := 0x10000 })] }
       SoundMemory s ∧ ThreadRuns s 2 ∧ (Src.scalar s 0 (.int 1#5)).toNat = 1 ∧ (s.part 1).live = true ∧ (s.part 63).live = false ∧
         (s.sreg 0 1#6).toNat + 5120 ≤ 0x12000000000 ∧ (s.sreg 0 1#6).toNat % 256 = 0 ∧
         (s.part 1).ulogbase + 5120 * (s.part 1).ulogn ≤ 0x12000000000 ∧ 0 < (s.part 1).ulogn) := by
  unfold HartRuns ThreadRuns SoundMemory; decide +kernel

/-- A record of a trap on lane 0. -/
def trapRec : TrapRec :=
  { code := .memFault, pc := 0x2000#64, widx := 0, addr := 0#64, lanes := 1#1024, instr := 0#64, spaddr := false, replay := false,
    out := false, handle := some 0x100#64, time := 0#64, resumePark := none, len := 1, logged := false, under := none }
/-- Thread 0 at supervisor level, and a trapped team whose handle is in s1. -/
def serving (fsrv : Nat) : State :=
  { control 1#2 with
    teams := [(20, { team with trap := some trapRec, flane := 1#1024 })], wgs := [(20, { wg with teams := [20] })],
    parts := [(1, { Partition.blank with live := true, fsrv := fsrv })],
    ctxs := [(0, { Ctx.blank with kind := .thread, status := .ready, sregs := [(1, 0x100#64), (2, 0x12000000000#64)] }),
             (20, { Ctx.blank with kind := .team, status := .trapped, pc := 0x2000#64 })] }

/-- TrappedContextsAreServed: a live handle served here and one served elsewhere, a stale one, one of another package; items of
class 0 and 1 at their limits, an item that is none, reply codes 0 to 2 and 3. -/
theorem test_witness_served :
    let s := serving 0
    let hd := s.sreg 0 1#6
    let A := fun (a : Src) => Src.scalar s 0 a
    ThreadRuns s 1 ∧ s.trapped hd = some (20, trapRec) ∧ (hd.extractLsb' 32 12).toNat = s.pkg ∧
      (s.part (s.wgOf 20).launch.part).fsrv = s.pkg ∧ ((serving 4095).part ((serving 4095).wgOf 20).launch.part).fsrv ≠ s.pkg ∧
      s.trapped (s.sreg 0 3#6) = none ∧ s.orphaned (s.sreg 0 3#6) = none ∧
      ¬(((s.sreg 0 2#6).extractLsb' 32 12).toNat = s.pkg ∨ 2 ^ 44 ≤ (s.sreg 0 2#6).toNat) ∧ rctxLegal .rd (A (.lit 0x3F00#32)) 0#64 = true ∧
      (Item.ofA (A (.lit 0x3F3F01#32))).r < (s.team 20).vregs ∧ (Item.ofA (A (.lit 0x3F3F01#32))).p < (s.team 20).width ∧
      rctxLegal .wr (A (.lit 0x3F3F01#32)) 0#64 = true ∧ rctxLegal .rd (A (.int 12#5)) 0#64 = false ∧
      rctxLegal .resume (A (.int 2#5)) 0#64 = true ∧ rctxLegal .kill (A (.int 3#5)) 0#64 = false ∧ (s.wgOf 20).saved = none ∧
      trapRec.code = .memFault ∧ trapRec.replay = false ∧ trapRec.len = 1 ∧ trapRec.lanes ≠ 0#1024 ∧ (s.team 20).replay = [] ∧ (Item.ofA (A (.lit 0x3F3F01#32))).fits (s.team 20) = true := by
  unfold ThreadRuns; decide +kernel

/-- A timetable entry of partition 1 that begins 3,000 ns after power-on. -/
def entry : TEntry := { start := 3000#64, job := 1#32, seq := 5#32, len := 1000#32, part := 1, urgent := false, inc := 0 }
/-- Thread 0 at hypervisor level with an entry's address in s1, and armed entries. -/
def arming (e : TEntry) (arms : Store TEntry) : State :=
  { control 2#2 with
    pages := [⟨0x1000, [e]⟩], arms := arms, ctxs := [(0, { Ctx.blank with kind := .thread, status := .ready, sregs := [(1, 0x1020#64)] })] }

/-- SwitchesAndPartitions, SWITCH: an entry that can be armed, an urgent one, none, one behind and one beside what is armed, one
that is 1 ns too near, no free arm; an armed entry 3,000 ns away and one nearer, an arm index of 255 and of 256. -/
theorem test_witness_arms :
    let s := arming entry []
    let armed := fun (q : Word) => ({ s with parts := [(1, { Partition.blank with armed := some q })] } : State)
    ThreadRuns s 2 ∧ (s.sreg 0 1#6).toNat + 32 ≤ 0x12000000000 ∧ (s.sreg 0 1#6).toNat % 32 = 0 ∧
      s.pageEntry (s.sreg 0 1#6).toNat = some entry ∧ s.pageEntry 0x1040 = none ∧ entry.urgent = false ∧
      { entry with urgent := true }.urgent = true ∧ (s.part 1).armed = none ∧ s.arms = [] ∧ ((armed 5#32).part 1).armed = some 5#32 ∧
      entry.seq.toNat ≤ (5#32 : Word).toNat ∧ s.time.toNat + 3000 ≤ entry.start.toNat ∧
      { entry with start := 2999#64 }.start.toNat < s.time.toNat + 3000 ∧ Store.find 0 s.arms = none ∧
      (∀ k, k < 256 → Store.find k (arming entry ((List.range 256).map fun k => (k, { entry with part := 2 }))).arms ≠ none) ∧
      Store.find 255 [(255, entry)] = some entry ∧ (Src.scalar s 0 (.lit 255#32)).toNat = 255 ∧
      255 < (Src.scalar s 0 (.lit 256#32)).toNat := by
  unfold ThreadRuns; decide +kernel

/-- The partition block of a partition of no cluster: channel 0, one entry, an empty image region and a log of 16 records. -/
def blockBytes : List Host.Cell :=
  [(0x1000, 0x43#8), (0x1001, 0x50#8), (0x1002, 0x47#8), (0x1003, 0x4E#8), (0x1004, 1#8), (0x1030, 1#8), (0x109C, 1#8),
   (0x10BA, 2#8), (0x10C4, 16#8), (0x10CA, 2#8)]
/-- Thread 0 at hypervisor level with the block's address in s1. -/
def creating (parts : Store Partition) : State :=
  { control 2#2 with
    mem := blockBytes, parts := parts, ctxs := [(0, { Ctx.blank with kind := .thread, status := .ready, sregs := [(1, 0x1000#64), (2, 0xFFFF03FF#64)] })] }

/-- SwitchesAndPartitions, PART: partitions 1, 63, 0 and 64; a block that is good, one that is none, one in conflict; a live
partition without cores; masks for one slice and for all. -/
theorem test_witness_parts :
    let s := creating []
    let bs := s.physRead (s.sreg 0 1#6).toNat 2048
    let A := fun (a : Src) => (Src.scalar s 0 a).toNat
    ThreadRuns s 2 ∧ A (.lit 63#32) ≤ 63 ∧ A (.int 0#5) = 0 ∧ 63 < A (.lit 64#32) ∧ (s.part 63).live = false ∧
      (s.part 63).creating = false ∧ (s.sreg 0 1#6).toNat % 4096 = 0 ∧ (s.sreg 0 1#6).toNat + 2048 ≤ 0x12000000000 ∧
      blockOk bs = true ∧ s.blockFits bs = true ∧ s.owners = [] ∧
      blockOk (({ s with mem := [] } : State).physRead 0x1000 2048) = false ∧
      (let u := creating [(1, { Partition.blank with live := true, pchan := 1#768 })]
       (∃ e ∈ u.owners, (blockPart bs).conflicts e.2 = true) ∧ u.blockFits bs = true ∧ (u.part 1).live = true ∧ u.coresOf 1 = [] ∧
         SoundMemory u) ∧
      (s.sreg 0 1#6).toNat % 2 ^ 10 < 576 ∧ (s.sreg 0 1#6).toNat < 2 ^ 32 ∧ (s.sreg 0 2#6).toNat % 2 ^ 10 = 0x3FF ∧
      (s.sreg 0 2#6).toNat < 2 ^ 32 ∧ (s.sreg 0 2#6).extractLsb' 10 6 = 0#6 := by
  unfold ThreadRuns SoundMemory
  refine ⟨?_, ?_, ?_, ?_, ?_, ?_, ?_, ?_, ?_, ?_, ?_, ?_,
    ⟨⟨(1, { Partition.blank with live := true, pchan := 1#768 }), ?_⟩, ?_⟩, ?_⟩ <;> decide +kernel

/-- SwitchesAndPartitions, PART.BITMAP: each kind with the units kept, a partition that is not live, and operands that are
none. -/
theorem test_witness_bitmaps :
    let u := creating [(1, { Partition.blank with live := true })]
    (u.sreg 0 1#6).toNat % 64 = 0 ∧ (u.sreg 0 1#6).toNat + 128 ≤ 0x12000000000 ∧ (Src.scalar u 0 (.lit 0x301#32)).toNat = 1 + 256 * 3 ∧
      (∀ k ∈ [0, 1, 2, 3], u.bitmapRefusal 1 k 0 = none ∧ u.bitmapRefusal 63 k 0 = some 1) ∧
      2 ^ 10 ≤ (Src.scalar u 0 (.lit 0x400#32)).toNat ∧ (Src.scalar u 0 (.lit 0x100#32)).toNat % 256 = 0 := by
  decide +kernel

/-! ### Steps, fetches, parks and boundaries -/

/-- ChecksComeBeforeExecution: a team; threads of levels 0, 1 and 2; words of forms for teams alone, and one of both; forms that
name the register at VREGS and one below it, alone, in a pair and in a group; illegal operand values; a register that a foal holds. -/
theorem test_witness_checks : ((running team).ctx 5).kind = .team ∧ ((control 0#2).ctx 0).kind = .thread ∧
    ((control 0#2).thread 0).level = 0#2 ∧ ((control 1#2).thread 0).level.toNat < 2 ∧
    (∀ i ∈ ([.viaddI32 false 1#7 2#7 .laneix, .ldvB64 false 63#7 1#6 0#9, .exit false, .tlda false 62#7 1#6 0#2 0#7] : List Instr),
      teamWord ((encode i).headD 0#32) = true) ∧ teamWord ((encode (.nop false)).headD 0#32) = false ∧
    (∀ i ∈ ([.viaddI32 false 1#7 2#7 (.v 64#7), .ldvB64 false 63#7 1#6 0#9, .ldgB32 false 0#2 1#7 1#6 64#7,
        .lcpy4 false 1#7 1#6 63#7, .mmaZ false 33#7 0#7 8#7 ⟨1#6, 2#6, 0#3, false, 0#2, false, 0#6, 0#7⟩,
        .tlda false 62#7 1#6 0#2 0#7] : List Instr),
      (∃ r ∈ vectorRegisters i, team.vregs ≤ r) ∧ operandsLegal i = true) ∧
    (∀ i ∈ ([.viaddI32 false 1#7 2#7 (.res 0xE8#8), .srdln false 1#6 2#6 .laneix, .atomAddI32 false .relaxed .reserved 1#7 2#7,
        .atomsAddI32 false .relaxed .core 1#7 2#7, .ldaB32 false .release .pod 1#7 2#7, .tlda false 1#7 1#6 3#2 0#7] : List Instr),
      operandsLegal i = false) ∧
    (let i : Instr := .ldvB64 false 31#7 1#6 0#9
     operandsLegal i = true ∧ (∀ r ∈ vectorRegisters i, r < team.vregs) ∧
       ∃ r ∈ vectorRegisters i, (withFoal (running team) matrixFoal).isHeld 5 r = true) := by
  refine ⟨by decide, by decide, by decide, by decide, by decide +kernel, by decide +kernel, by decide +kernel, by decide +kernel,
    by decide +kernel, by decide +kernel, 31, by decide +kernel⟩

/-- EncodedInstructionsDecodeBack: well-formed terms of each class. -/
theorem test_witness_encoded : (Instr.viaddI32 true 127#7 0#7 (.lit 0xFFFFFFFF#32)).wf = true ∧ (Instr.ldvB64 false 0#7 63#6 256#9).wf = true ∧
    (Instr.cpyGs false 63#6 63#6 ⟨63#6, 0#6, 7#3, true, 3#2, true, 63#6, 0#7⟩).wf = true ∧
    (Instr.partWays true 63#6 0#6 (.s 63#6)).wf = true := by decide

/-- EveryStepKeepsMemorySound: sound states, with bytes listed and with a dirty line. -/
theorem test_witness_sound : SoundMemory (creating []) ∧ SoundMemory { control 0#2 with
    l2 := [(0, ⟨0, false, 5#1024, true, 1, 0, 0, false, 0, 0#2, 0#128⟩)] } := by
  unfold SoundMemory; decide +kernel

/-- A team or a thread at a header of one GEN word, with YP and waits for loads and stores. -/
def atHeader (s : State) (pa : Nat) (header : Word) : State :=
  { s with mem := (List.range 4).filterMap fun i => let b := header.extractLsb' (8 * i) 8; if b = 0#8 then none else some (pa + i, b) }
def fetching (t : Team) : State :=
  { running t with ctxs := [(5, { Ctx.blank with kind := .team, status := .ready, pc := 0x2000#64 })] }

/-- FetchParksAndBoundaryTraps, fetching: good headers of a team, with and without waits that are not met, and of a thread; a
header that breaks its form; a pc that is no multiple of 4; reserved opcodes. -/
theorem test_witness_fetched :
    let hl := (List.range 4).map fun i => (⟨0x202000 + i, none⟩ : Loc)
    let s := atHeader (fetching team) 0x202000 0xA5003FC1#32
    let u := atHeader (fetching loading) 0x202000 0xA5000001#32
    (s.ctx s.cur).clause = none ∧ (s.ctx s.cur).widx = 0 ∧ s.mayIssue 5 = true ∧ u.mayIssue 5 = true ∧ s.codeLocs 5 0x2000#64 4 = .ok hl ∧
      s.codeWords 5 hl = [0xA5003FC1#32] ∧ s.codeLocs 5 0x2004#64 4 = .ok ((List.range 4).map fun i => ⟨0x202004 + i, none⟩) ∧
      u.codeWords 5 hl = [0xA5000001#32] ∧ ¬((u.team 5).loads ≤ 0) ∧ (fetching team).codeWords 5 hl = [0#32] ∧
      (let v := { fetching team with ctxs := [(5, { Ctx.blank with kind := .team, status := .ready, pc := 0x2002#64 })] }
       v.codeLocs 5 0x2002#64 4 = .ok ((List.range 4).map fun i => ⟨0x202002 + i, none⟩) ∧
         v.codeWords 5 ((List.range 4).map fun i => ⟨0x202002 + i, none⟩) = [0#32]) ∧
      (let v := atHeader { control 0#2 with ctxs := [(0, { Ctx.blank with kind := .thread, status := .ready })] } 0 0xA5000001#32
       v.mayIssue 0 = true ∧ v.codeLocs 0 0#64 4 = .ok (spLocs 0 4) ∧ v.codeWords 0 (spLocs 0 4) = [0xA5000001#32] ∧ v.codeLocs 0 4#64 4 = .ok (spLocs 4 4)) := by
  decide +kernel
theorem test_witness_unfetched : SoundMemory (atHeader (fetching team) 0x202000 0xA5003FC1#32) ∧
    SoundMemory (atHeader (fetching loading) 0x202000 0xA5000001#32) ∧ (fetching { team with sleep := 3 }).mayIssue 5 = false := by
  unfold SoundMemory; decide +kernel

/-- The team parked, on a core that runs. -/
def parkedAt (t : Team) (w : Wait) : State :=
  { running t with ctxs := [(5, { Ctx.blank with kind := .team, status := .parked w, pc := 0x2000#64 })] }

/-- FetchParksAndBoundaryTraps, parks: waits that are over and ones that are not; a sleep's last clock; each deadline passed,
before and behind the other; the watchdog at 0; an event for a thread that runs or halts. -/
theorem test_witness_parks :
    (parkedAt team .marker).mayGo 5 = true ∧ (parkedAt team .marker).parkClear 5 .marker = true ∧ Wait.issuesAgain .allFoals ∧
    (parkedAt loading .marker).parkClear 5 .marker = false ∧ (parkedAt team .allFoals).parkClear 5 .allFoals = true ∧
    (parkedAt team (.header 0 0 true)).parkClear 5 (.header 0 0 true) = true ∧
    (parkedAt loading (.header 0 7 false)).parkClear 5 (.header 0 7 false) = false ∧ { team with sleep := 1 }.sleep = 1 ∧
    ((running team).ctx 5).status ≠ .trapped ∧ (running team).mayGo 5 = true ∧ { team with wdleft := 0 }.wdleft = 0 ∧
    team.wdleft ≠ 0 ∧ team.poison = [] ∧
    (let t := { team with timer := some 0#64 }
     t.timer = some 0#64 ∧ 0#64 ≤ t.rclock) ∧
    (let t := { team with timer := some 1#64, timera := some 0#64, late := true }
     (∀ e, t.timer = some e → t.rclock < e) ∧ t.timera = some 0#64 ∧ 0#64 ≤ (running t).time) ∧
    (let t : Thread := { Thread.blank with ie := true, events := [(0x100, 0#64)] }
     let s := { control 0#2 with threads := [(0, t)] }
     (s.ctx 0).kind = .thread ∧ (s.ctx 0).status = .ready ∧ (s.thread 0).ie = true ∧ (s.thread 0).bytes = [] ∧ (s.thread 0).events = (0x100, 0#64) :: []) := by
  refine ⟨by decide +kernel, by decide +kernel, trivial, by decide +kernel, by decide +kernel, by decide +kernel, by decide +kernel,
    by decide, by decide, by decide +kernel, by decide, by decide, by decide, by decide, ⟨?_, by decide, by decide⟩, by decide⟩
  intro e he
  cases he
  decide

/-- StepRunsTheDecodedInstruction and FetchParksAndBoundaryTraps: a clause that a restore lets fetch again; a reserved word
that the hart stands at, and none; a deadline held at its last value; a thread whose TLBI.SYNC has nothing left to wait for. -/
theorem test_witness_refetch :
    let at_ := fun (again : Bool) => ({ fetching team with
      ctxs := [(5, { Ctx.blank with kind := .team, status := .ready, pc := 0x2000#64,
                                    clause := some ⟨.gen, [0x61000000#32], 7, 7, false, false, true, again⟩ })] } : State)
    let held := { team with timer := some 0xFFFFFFFFFFFFFFFF#64, timerHeld := true }
    let sync : State := { control 0#2 with ctxs := [(0, { Ctx.blank with kind := .thread, status := .parked .tlbi })] }
    (at_ true).due.isNone = true ∧ (at_ true).agenda = [] ∧ ((at_ true).workTeam 5 team).isNone = true ∧
      (at_ true).nextHart = some 5 ∧ (at_ false).nextHart = some 5 ∧ (at_ false).mayIssue 5 = true ∧ ((at_ false).ctx 5).standsAt 0x61000000#32 = true ∧
      ((at_ true).ctx 5).standsAt 0x61000000#32 = false ∧ ((fetching team).ctx 5).standsAt 0#32 = false ∧
      held.timerHeld = true ∧ held.timera = none ∧ { held with timera := some 0#64 }.timer = held.timer ∧
      (sync.ctx 0).status = .parked .tlbi ∧ sync.parkClear 0 .tlbi = true := by
  refine ⟨?_, ?_, ?_, ?_, ?_, ?_, ?_, ?_, ?_, ?_, ?_, ?_, ?_, ?_⟩ <;> decide +kernel

/-- StepRunsTheDecodedInstruction: a team at a fetched instruction word and one without a clause; nothing is due, nothing is
asked for; words of the wrong class, cut off, and of no opcode. -/
theorem test_witness_step :
    (let s := State.reset.withFetchWord 32 0x170080E8
     s.due.isNone = true ∧ s.agenda = [] ∧ (s.workTeam s.cur (s.team s.cur)).isNone = true ∧ s.nextHart = some 16 ∧
       (s.ctx 16).clause.isSome = true) ∧
    (let s := fetching team
     s.due.isNone = true ∧ s.agenda = [] ∧ (s.workTeam s.cur (s.team s.cur)).isNone = true ∧ s.nextHart = some 5 ∧
       (s.ctx 5).clause = none) := by
  refine ⟨⟨?_, ?_, ?_, ?_, ?_⟩, ⟨?_, ?_, ?_, ?_, ?_⟩⟩ <;> decide +kernel

/-! ### Accesses that return and are performed, copies, engines -/

/-- What a fetch served: its bytes and their poison. -/
def served : Fetched → Option (List Byte × Bool)
  | .got _ bs p => some (bs, p)
  | .wait _ => none
  | .held => none
/-- A request to scratchpad bytes 0xFFFC to 0xFFFF. -/
def scratchReq (k : ReqKind) : Req :=
  { request k with space := .scratch, todo := [⟨63, 0xFFFC#64, spLocs 0xFFFC 4, 7, 0, []⟩] }

/-- LoadsAndWritesArePerformed, returns: a load of global memory and one of the scratchpad's last word, whose lane is the only
one left; registers v3, and v125 for a value of 12 bytes. -/
theorem test_witness_returns :
    (let s := running loading
     let r := request .load
     loading.req 50 = some r ∧ r.back = [] ∧ (r.todo.map LaneReq.lane).Nodup ∧ SoundMemory s ∧
       ∀ q ∈ r.todo, q.lane < 1024 ∧ loading.clearFor r q = true ∧
         served (s.fetchBytes (s.coreOf 5) (s.wgOf 5).launch.part loading.fresh r.reach q.bytes) = some ([0#8, 0#8, 0#8, 0#8], false)) ∧
    (let r := scratchReq .load
     let t := { team with reqs := [r] }
     t.req 50 = some r ∧ r.space = .scratch ∧ ∀ q ∈ r.todo, t.clearFor r q = true) ∧ 125 + (12 + 3) / 4 ≤ 128 := by
  unfold SoundMemory; decide +kernel

/-- LoadsAndWritesArePerformed, writes: a store, an atomic and a RED whose next lane the home can take; a store with none left;
a store to the scratchpad. -/
theorem test_witness_performed :
    (∀ k ∈ ([.store, .atom .addI32, .atom .cas, .red .xor] : List ReqKind),
      let r := request k
      let t := { team with reqs := [r] }
      let s := running t
      t.req 50 = some r ∧ SoundMemory s ∧ r.space = .global ∧ s.depsOpen r.deps = false ∧ r.todo ≠ [] ∧
        ∀ q ∈ r.todo, t.before 50 .global q.bytes = [] ∧ q.bytes.any s.homePoison = false ∧ ∀ b ∈ q.bytes, b.pa / 128 = 0x200300 / 128) ∧
    (let r := { request .store with todo := [] }
     { team with reqs := [r] }.req 50 = some r ∧ r.kind = .store ∧ r.back = [] ∧ r.space = .global) ∧
    (let r := scratchReq .store
     let t := { team with reqs := [r] }
     t.req 50 = some r ∧ r.space = .scratch ∧ r.back = [] ∧ ∀ q ∈ r.todo, t.clearFor r q = true ∧ q.bytes.head? = some ⟨0xFFFC, none⟩) := by
  unfold SoundMemory; decide +kernel

/-- LoadsAndWritesArePerformed: the requests of a team have numbers of their own; an aligned lane is performed at once, one that
is not byte by byte. -/
theorem test_witness_parts_of_lanes :
    let q : LaneReq := ⟨0, 0x300#64, spLocs 0x300 4, 7, 0, []⟩
    let m : LaneReq := ⟨0, 0x301#64, spLocs 0x301 4, 7, 0, []⟩
    (loading.reqs.map Req.id).Nodup ∧ SoundMemory (running loading) ∧ (request .store).quiet = false ∧
      q.after (q.nextPlaced.map (·.2)) = none ∧ q.next = q.bytes ∧ m.next = [⟨0x301, none⟩] ∧
      m.after (m.nextPlaced.map (·.2)) = some { m with read := [7#8] } ∧ (scratchReq .store).todo.length = 1 := by
  unfold SoundMemory; decide +kernel

/-- A guest copy of line 0x4004 on die 1, filled at moment 5, and an invalidation of that line that left at moment n. -/
def guestCopy (n : Nat) : State :=
  { running team with
    l2 := [(l2Key (guestSlice 1 ⟨0x200200, none⟩) 0 3, ⟨0x4004, true, 5#1024, false, 1, 0, 5, false, 0, 0#2, 0#128⟩)],
    invals := [⟨1, 0x4004, n⟩] }
/-- Page tables of partition 1 at 0x30000 (stage 1) and 0x40000 (stage 2). -/
def walked (entries : List Host.Cell) : State :=
  { running team with mem := entries, parts := [(1, { Partition.blank with live := true, s1root := 0x30000, s2root := 0x40000 })] }

/-- CopiesInCachesAndLaneCopies, caches: an invalidation older and one younger than the copy it reaches, none there; a line on
its way, with a way to fill and without; a walk that faults. -/
theorem test_witness_copied :
    let inv := fun (n : Nat) => (⟨1, 0x4004, n⟩ : Inval)
    (∀ n ∈ [4, 5, 6], (guestCopy n).invals.find? (fun j => j.die == 1) = some (inv n) ∧
      ((guestCopy n).guestLine 1 0x4004).map (·.2.filled) = some 5 ∧ (guestCopy n).dieReqs 1 = []) ∧
    ({ request .store with applied := [(0x4004, 7)] }.holds 0x4004 5 = true ∧ { request .store with applied := [(0x4004, 7)] }.holds 0x4004 7 = false) ∧
    (let s := { running storing with l2 := [(l2Key (guestSlice 0 ⟨0x200300, none⟩) 0 3, ⟨0x4006, true, 5#1024, false, 1, 0, 5, false, 0, 0#2, 0#128⟩)],
                                     invals := [⟨0, 0x4006, 6⟩] }
     s.invals.find? (fun j => j.die == 0) = some ⟨0, 0x4006, 6⟩ ∧ (s.guestLine 0 0x4006).map (·.2.filled) = some 5 ∧
       s.dieReqs 0 = [request .store] ∧ (request .store).holds 0x4006 6 = true) ∧
    ({ guestCopy 4 with l2 := [] } : State).guestLine 1 0x4004 = none ∧
    (let f : Fill := ⟨0x4004, none, none, 1, none⟩
     let s := { running team with fills := [f] }
     let w := { s with ways := [(1024 + homeSlice ⟨128 * 0x4004, none⟩, 0x8000#16)] }
     s.fills[0]? = some f ∧ SoundMemory s ∧
       (s.victim 1 (homeSlice ⟨128 * 0x4004, none⟩) (setOf ⟨128 * 0x4004, none⟩)).isSome = false ∧
       (w.victim 1 (homeSlice ⟨128 * 0x4004, none⟩) (setOf ⟨128 * 0x4004, none⟩)).isSome = true) ∧
    (match walk (walked []) 1 0x2000 with | .ok _ => false | .error _ => true) = true := by
  unfold SoundMemory; decide +kernel

/-- A lane copy of 4 bytes, 2 of them from global memory, to the scratchpad's last word. -/
def laneCopy : LaneCopy := { id := 50, slot := 0, lane := 0, dst := 0xFFFC, n := 4, src := [⟨0x200300, none⟩, ⟨0x200301, none⟩] }

/-- CopiesInCachesAndLaneCopies, a lane copy of an open batch that is the only one out. -/
theorem test_witness_landing :
    let t := { team with copies := [laneCopy] }
    let s := running t
    t.copies.find? (fun y => y.id == 50) = some laneCopy ∧ (∀ r ∈ t.before 50 .global laneCopy.src, r.shown = true) ∧
      t.before 50 .scratch (spLocs 0xFFFC 4) = [] ∧ s.foalsOf 5 = [] ∧
      served (s.fetchBytes (s.coreOf 5) (s.wgOf 5).launch.part t.fresh .near laneCopy.src) = some ([0#8, 0#8], false) := by
  decide +kernel

/-- EnginesWriteTheirResults, MATRIX: a foal in the engine of a core that runs and of one that halts, before its first and its
last block, at v96; one whose throttle is over. -/
theorem test_witness_blocks :
    (let f := { matrixFoal with job := .mma ⟨.dense, 0#64, 96, [], [], [], [], [], 8, 7⟩ }
     ∀ st ∈ ([.running, .halting 0#64 true] : List CoreStep),
       let s := { withFoal (running team) f with cores := [(0, { Core.blank with step := st, engine := some 3 })] }
       foalKey 0 3 = 3 ∧ s.foalAt 3 = some f ∧ (s.core 0).step = st ∧ (s.core 0).engine = some 3 ∧ 96 + 32 ≤ 128) ∧
    (withFoal (running team) matrixFoal).foalAt 3 = some matrixFoal ∧
    (let f := { matrixFoal with throttle := some 0 }
     (withFoal (running team) f).foalAt 3 = some f ∧ f.throttle = some 0) := by
  decide +kernel

/-- The record of a copy of 64 bytes from virtual address 0x100 to scratchpad offset 0. -/
def copied : StreamRec := ⟨0x100#64, 64, 0xFF, 0, [1, 1, 1, 1], [0#32, 0#32, 0#32, 0#32], 0#64, 0#64⟩
/-- A CPY foal of that record. -/
def copier (j : CopyJob) : Foal := { copyFoal with job := .copy j }
/-- A sector of it that has been read. -/
def sector (global : Bool) : Sector := { ord := 0, global := global, wg := 20, writes := [(⟨0x40, none⟩, 9#8), (⟨0x41, none⟩, 8#8)], poison := none }

/-- EnginesWriteTheirResults, COPY: the next sector of the copy chosen; the landing of its first of two sectors, in memory and
in the scratchpad. -/
theorem test_witness_sectors :
    (let j := copyJob .gs copied 1 0#64 none none
     let s := withFoal (running team) (copier j)
     s.foalAt (foalKey 0 3) = some (copier j) ∧ s.copyChoice 0 = some (foalKey 0 3, copier j) ∧ j.restart ≤ j.next ∧
       j.next ∉ j.ahead ∧ j.out = [] ∧ (copier j).canreq = false ∧ j.bad = none ∧
       (match s.readSector 0 (copier j).origin.part 20 (1024 * (s.wg 20).launch.spkib) (1024 * (s.wg 20).launch.spkib) j.form
          (s.iterRec (copier j) j) ((s.iterRec (copier j) j).sectorBytes j.next) ⟨[], [], [], j.idx, none⟩ with
        | .ok x => x.writes.length == 32
        | .error _ => false) = true) ∧
    (∀ g ∈ [true, false],
      let j := { copyJob (if g then .gg else .gs) copied 1 0#64 none none with out := [sector g], next := 1 }
      let s := withFoal (running team) (copier j)
      s.foalAt (foalKey 0 3) = some (copier j) ∧ j.out.find? (fun y => y.ord == 0) = some (sector g) ∧ 0 ≤ j.restart + 64 ∧
        (sector g).poison = none ∧ (copier j).live = true ∧ s.engineMay (foalKey 0 3) = true ∧ advanceRestart 66 j.restart [0] ≠ j.rcd.sectors ∧ SoundMemory s ∧ (sector g).global = g) := by
  unfold SoundMemory; decide +kernel

/-- EnginesWriteTheirResults, CPL: a foal between iterations, whose ring has a free slot. -/
theorem test_witness_iteration :
    let j := copyJob .fill copied 1 0#64 none (some 0x100)
    let s := withFoal (withSp (running team) (ringBytes 0#8 2#8 0#8 0#8)) (copier j)
    s.foalAt (foalKey 0 3) = some (copier j) ∧ j.ring = some 0x100 ∧ j.inIter = false ∧ s.startable (copier j) = true ∧
      s.released (copier j) = true ∧ (s.core 0).step = .running ∧ (s.ring 20 0x100).broken 0x100 = false ∧
      (s.ring 20 0x100).free ≠ 0 ∧ (s.ring 20 0x100).slotTb (s.ring 20 0x100).eng + 16 ≤ 0x100 := by
  decide +kernel

/-- EnginesWriteTheirResults: a tile op whose step reads the word at offset 0x1000; an engine whose die has read a write that is
on its way, and a foal that has ended, land nothing. -/
theorem test_witness_unlanded :
    (let j : TmmaJob := ⟨0, ⟨0x1000, 0x2000, 0x3000, 0, 0, 0, 1, 1, 16, 16⟩, true, 0#64, 1#256, 1#256, 0, false⟩
     let f := { matrixFoal with regdest := false, job := .tmma j }
     let s := { withFoal (running team) f with cores := [(0, { Core.blank with step := .running, engine := some 3 })], sramErrs := [(1, 5), (0, 0x1000)] }
     (s.sramErrs.filter fun e => e.1 == 0) = [(0, 0x1000)] ∧ s.foalAt 3 = some f ∧ (s.core 0).step = .running ∧ (s.core 0).engine = some 3 ∧ f.live = true ∧ j.readsWord 0x1000 = true) ∧
    (let j := { copyJob .gg copied 1 0#64 none none with out := [sector true], next := 1 }
     let s := withFoal seen (copier j)
     s.foalAt (foalKey 0 3) = some (copier j) ∧ j.out.find? (fun y => y.ord == 0) = some (sector true) ∧
       (sector true).global = true ∧ s.engineMay (foalKey 0 3) = false) ∧
    { copier (copyJob .gg copied 1 0#64 none none) with status := .done }.live = false := by
  decide +kernel

/-! ### Boundaries, queues, placement, partitions -/

/-- PowerIsControlledAtBoundaries: a boundary at TIME 0 and at 10,000 that has not been taken, one that has; clusters at their
reset, at FSTEP 69 and 20 with band 7; a granted window at its start and an active one at its end. -/
theorem test_witness_boundaries :
    (let s := { running team with control := ⟨16, [], 0, false, 10000#64⟩ }
     s.time.toNat % 10000 = 0 ∧ s.control.boundary ≠ s.time) ∧
    ({ running team with time := 10000#64 } : State).time.toNat % 10000 = 0 ∧
    ({ running team with time := 10000#64 } : State).control.boundary ≠ 10000#64 ∧
    (running team).control.boundary = (running team).time ∧ ({ running team with time := 9999#64 } : State).time.toNat % 10000 ≠ 0 ∧
    (running team).limited = false ∧ 68 < { Cluster.blank with fstep := 69 }.fstep ∧ 20 ≤ Cluster.blank.fstep ∧ Cluster.blank.thr = 0 ∧
    (let x : PowerDecl :=
       { state := 2, intensity := 15, t0 := 0#64, onset := 0, start := 0#64, len := 1, wait := 0, ext := none, doomed := false,
         kept := false }
     let s := running { team with power := some x }
     (s.team 5).power = some x ∧ x.kept = false ∧ x.start ≤ s.time ∧
       (let u := { running { team with power := some { x with state := 3 } } with time := 1000#64 }
        x.start.toNat + 1000 * x.len ≤ u.time.toNat ∧ (u.team 5).power = some { x with state := 3 })) := by
  decide +kernel

/-- Page tables that map the first 512 MiB of partition 1 to the same physical addresses, with stage-1 leaf flags a. -/
def tables (a : Byte) : List Host.Cell := [(0x30000, 3#8), (0x30002, 6#8), (0x40000, 3#8), (0x40002, 5#8), (0x50000, 0x1D#8), (0x60000, a)]
/-- A live partition of cluster 0 with a queue descriptor at 0x1000. -/
def mapped : Partition :=
  { Partition.blank with live := true, s1root := 0x30000, s2root := 0x40000, pchan := 1#768, clusters := 1#144, ctent := 8,
                         queues := [0x1000#64] }
/-- The descriptor, of two slots from 0x2000, with one launch packet of `grid` workgroups. -/
def monitored (grid : Byte) (x : QueueState) : State :=
  { running team with
    parts := [(1, { mapped with qstate := if x = QueueState.blank then [] else [(0, x)] })], tlb := [],
    mem := [(0x1001, 0x20#8), (0x1008, 2#8), (0x100D, 0xFF#8), (0x100E, 1#8), (0x100F, 1#8), (0x1020, 1#8), (0x2000, 1#8), (0x2004, 1#8),
            (0x2005, 0xFF#8), (0x2006, 32#8), (0x2008, 8#8), (0x2018, grid), (0x204C, 7#8)] ++ tables 0x1D#8 }

/-- CopiesInCachesAndLaneCopies, walks: one that ends at a leaf of 512 MiB, at its first page and its last. -/
theorem test_witness_walked :
    let s := monitored 1#8 QueueState.blank
    let leaf := fun (va : Nat) => (match walk s 1 va with | .ok p => some (p.base, p.r, p.w, p.x, p.run) | .error _ => none)
    leaf 0x1000 = some (0, true, true, true, 0) ∧ leaf 0x1FFFFFFF = some (0x1FFF0000, true, true, true, 0) ∧ leaf 0x20000000 = none ∧
      0x1FFFFFFF < 2 ^ 55 := by
  decide +kernel

/-- PacketsArePoppedAndSignalsWritten, a pop: the one queue with the one packet, of 1 and of 255 workgroups. -/
theorem test_witness_popped : ∀ grid ∈ ([1#8, 255#8] : List Byte),
    let s := monitored grid QueueState.blank
    let p := s.part 1
    let r := (s.pruneTokens 1).turns 1 (List.range p.queues.length)
    let u := r.1.roundRobin 1 (topPrio r.2) (r.2.filter fun y => y.q.prio == topPrio r.2) (64 * 257)
    let bs := (u.2.map Turn.bytes).getD []
    let k := Packet.ofBytes bs
    p.live = true ∧ p.destroying = false ∧ u.2.map Turn.ix = some 0 ∧ SoundMemory u.1 ∧ k.kind = 1 ∧ packetZeros bs = true ∧
      k.fields = true ∧ (u.1.part 1).dropped k = false ∧ u.1.packetCheck 1 k = 0 ∧ k.parent = 0#64 ∧
      translateBytes u.1 none 1 ((u.1.part 1).queueAddr 0 + 0x10#64) 16 .write = .ok ((List.range 16).map fun j => ⟨0x1010 + j, none⟩) ∧
      ((List.range 16).map fun j => (0x1010 + j)).Nodup := by
  unfold SoundMemory; decide +kernel

/-- PacketsArePoppedAndSignalsWritten, a signal packet with nothing left before it; TIME at a multiple of 1 ms, and not. -/
theorem test_witness_signalled :
    let s := monitored 1#8 { QueueState.blank with held := some (0x300#64, 5#64) }
    ((s.part 1).qst 0).held = some (0x300#64, 5#64) ∧ ((s.part 1).qst 0).live = [] ∧
      (match s.seeQueue 1 0 with | .queue x => x.qflags < 2 | .dark => False | .broken => False) ∧
      translateBytes s none 1 0x300#64 8 .write = .ok ((List.range 8).map fun j => ⟨0x300 + j, none⟩) ∧ SoundMemory s ∧
      s.time.toNat % 1000000 = 0 ∧ 0 < (s.part 1).queues.length ∧ ({ s with time := 999999#64 } : State).time.toNat % 1000000 ≠ 0 := by
  unfold SoundMemory
  refine ⟨by decide +kernel, by decide +kernel, ?_, by decide +kernel, by decide +kernel, by decide +kernel, by decide +kernel, by decide +kernel⟩
  have h : (match (monitored 1#8 { QueueState.blank with held := some (0x300#64, 5#64) }).seeQueue 1 0 with
    | .queue x => decide (x.qflags < 2) | .dark => false | .broken => false) = true := by decide +kernel
  revert h
  split <;> simp_all

/-- A launch of two teams whose workgroup 0 waits, in entity 9 of partition 1. -/
def placing (force : Option InForce) (map : Option (List Byte)) : State :=
  { running team with
    teams := [], wgs := [], parts := [(1, { mapped with force := force })],
    entities := [(9, { Entity.blank with part := 1, launch := some { ranged with waiting := [0], map := map } })] }

/-- WorkgroupsArePlacedWhole: cores 0 and 15 of cluster 0, without an entry in force and with one of the job, a map that asks for
the die and one that asks for a die the partition has nothing of. -/
theorem test_witness_placed : ∀ c ∈ [0, 15],
    ∀ f ∈ ([none, some ⟨{ entry with job := 0#32 }, false, false⟩] : List (Option InForce)), ∀ m ∈ ([none, some [0#8], some [11#8]] : List (Option (List Byte))),
    let s := placing f m
    let r := { ranged with waiting := [0], map := m }
    (s.entity 9).launch = some r ∧ (s.part 1).live = true ∧ (s.part 1).destroying = false ∧ (s.part 1).switch = none ∧
      (s.part 1).force = f ∧ (∀ e ∈ f, e.entry.job = r.desc.job) ∧ s.coreFree c 1 = true ∧ s.coreAccepts c r.desc = true ∧
      s.dieWanted 1 c m 0 = true ∧ 1 < r.desc.teams ∧ (s.freeSteps c).take (r.desc.spkib / 64) = [0] := by
  decide +kernel

/-- PartitionsComeAndGo: partition 1, and 63, being created and being destroyed, with a log of 16 records; neither. -/
theorem test_witness_passing : ∀ part ∈ [1, 63],
    let at1 := fun (c d : Bool) => ({ running team with parts := [(part, { mapped with creating := c, destroying := d, ulogn := 16, ulogbase := 0x10000 })] } : State)
    ((at1 true false).part part).creating = true ∧ ((at1 false true).part part).destroying = true ∧ part ≠ 0 ∧
      ((at1 false true).part part).ulogbase + 5120 * ((at1 false true).part part).ulogn ≤ hbmTop ∧ 0 < ((at1 false true).part part).ulogn ∧
      ((at1 false true).part part).usage.prev.length ≤ 64 ∧ SoundMemory (at1 false true) ∧ ((at1 false false).part part).creating = false ∧
      ((at1 false false).part part).destroying = false ∧ (part = 63 → (at1 true false).quietPart part = true ∧
        (at1 false true).quietPart part = true) := by
  unfold SoundMemory; decide +kernel
theorem test_witness_emptied : ∀ h, (({ running team with ctxs := [] } : State).ctx h).kind = .team →
    (({ running team with ctxs := [] } : State).wgOf h).launch.part ≠ 63 := fun _ hk => nomatch hk

/-! ### The host link, starts, errors -/

/-- Partition 1 of `mapped` with READY and an attestation window at a status; the physical function's buffer at an address. -/
def hosted (stat : Nat) (buf : DWord) : State :=
  { running team with
    parts := [(1, mapped)], mem := tables 0x1D#8, start := { State.reset.start with step := 2, ready := true },
    windows := [(0, { Window.blank with stat := stat, buf := buf })] }

/-- HostRequestsAreServed, requests: reads of memory and registers, in both functions; the last byte of HBM4 and one beyond it;
writes of memory; configuration before step 2 and from it on. -/
theorem test_witness_requests :
    let s := hosted 0 0#64
    let err := fun (x : Except HostStatus (List HostPlace)) => (match x with | .ok _ => 0 | .error e => e)
    s.hostPlaces 0 0 2 0x11FFFFFFFFF 1 false = .ok [.mem ⟨0x11FFFFFFFFF, none⟩] ∧ err (s.hostPlaces 0 0 2 0x12000000000 1 false) = 1 ∧
      s.hostPlaces 0 1 2 0x300 2 false = .ok [.mem ⟨0x300, none⟩, .mem ⟨0x301, none⟩] ∧ err (s.hostPlaces 0 2 2 0 1 true) = 1 ∧
      s.hostPlaces 0 1 2 0x300 2 true = .ok ([⟨0x300, none⟩, ⟨0x301, none⟩].map HostPlace.mem) ∧ SoundMemory s ∧
      err (s.hostPlaces 0 1 2 0x20000000 1 true) = 2 ∧ s.hostPlaces 0 0 0 8 1 false = .ok [.mgmt 8] ∧
      State.reset.start.step < 2 ∧ 2 ≤ s.start.step := by
  unfold SoundMemory; decide +kernel

/-- HostRequestsAreServed, vectors, windows and registers: a vector masked and pending; windows of functions 0 and 1 and of one
without a partition; reports with a buffer and with one out of alignment; powers at each end of their ranges and beyond. -/
theorem test_witness_windows :
    (let x : Vector := ⟨0x100#64, 7#32, true, true⟩
     ({ running team with vectors := [(63 * 2048 + 127, x)] } : State).vector 63 127 = x ∧ 63 < 64 ∧ 127 < 128) ∧
    ((hosted 0 0#64).window 0).stat ≠ 1 ∧ ((hosted 0 0#64).part 1).live = true ∧ ((hosted 0 0#64).window 1).stat ≠ 1 ∧
    ((hosted 1 0#64).window 0).stat = 1 ∧ (hosted 1 1#64).reportBuffer 0 = none ∧ ((hosted 1 1#64).window 0).stat = 1 ∧
    (let power := fun (v : DWord) => ((v.extractLsb' 10 4).toInt, (v.extractLsb' 14 4).toInt)
     power 0x32400#64 = (-7, -4) ∧ power 0#64 = (0, 0) ∧ power 0x2000#64 = (-8, 0) ∧ power 0x400#64 = (1, 0) ∧ power 0x2C000#64 = (0, -5)) := by
  decide +kernel
theorem test_witness_buffer : (hosted 1 0#64).reportBuffer 0 = some (spLocs 0 8192) ∧ (spLocs 0 8192).length = 8192 ∧
    ((spLocs 0 8192).map Loc.pa).Nodup := by
  have hp : ∀ n, (hosted 1 0#64).physLoc 0 n = ⟨n, none⟩ := fun _ => rfl
  refine ⟨?_, by simp [spLocs], ?_⟩
  · have h : (hosted 1 0#64).window 0 = { Window.blank with stat := 1 } := by decide +kernel
    unfold State.reportBuffer
    rw [h]
    simp [Window.blank, hbmTop, hp, spLocs]
  simp [spLocs, List.map_map, Function.comp_def, List.nodup_range]

/-- StartsRunTheirSteps: idle after reset; a cold and a warm start at steps 0, 2, 5, 6 and 7; a failed step's report and good ones;
step 2 of a warm start without a saved set and of a cold start with one. -/
theorem test_witness_starts :
    State.reset.start.busy = false ∧
    (let s := { running team with start := { State.reset.start with kind := 2, step := 2, busy := true } }
     s.start.busy = true ∧ s.start.kind = 2 ∧ s.start.step = 2 ∧ s.setVerifies = false) ∧
    (let s := { running team with start := { State.reset.start with kind := 1, step := 2, busy := true, warmok := true, trained := some ⟨0, [], []⟩ } }
     s.start.trained.isSome = true ∧ s.start.kind ≠ 2 ∧ s.start.warmok = true) ∧
    (∀ k ∈ [1, 2], ∀ n ∈ [0, 2, 5, 6, 7],
      let s := { running team with start := { State.reset.start with kind := k, step := n, busy := true, seed := some (9#64, 3#64) } }
      s.start.busy = true ∧ s.start.step = n ∧ s.start.kind = k ∧ s.clock.locked = false ∧ s.records = [] ∧ s.start.seed = some (9#64, 3#64)) ∧
    ({ ok := false, lock := none, ports := [] } : StepReport).ok = false ∧
    ({ ok := true, lock := some 5#64, ports := [23] } : StepReport).lock = some 5#64 ∧
    ({ running team with ports := [(23, { Port.blank with cfg := 1#18 })] } : State).ports ≠ [] ∧
    (({ running team with ports := [(23, { Port.blank with cfg := 1#18 })] } : State).port 23).cfg.getLsbD 0 = true := by
  decide +kernel

/-- A line in way 15 of set 1023 of slice 575. -/
def lineThere (dirty : Bool) : State :=
  { running team with
    l2 := [(l2Key 575 1023 15, ⟨5, false, if dirty then 9#1024 else 0#1024, dirty, 1, 0, 0, false, 0, 0#2, 0#128⟩)], ways := [(1024 + 575, 0x8000#16)],
    cores := [(0, { Core.blank with part := 1 })] }

/-- ErrorsAndShutdownsAreContained: a line in the last place of the last slice, dirty and clean, and a place that holds none; a
team on a core in use; a guest copy; the last byte of HBM4. -/
theorem test_witness_errors :
    (running team).wgs.Pairwise (fun a b => a.1 < b.1) ∧ (0, { Core.blank with part := 1 }) ∈ (lineThere true).cores ∧
      5 ∈ (lineThere true).teamsOn 0 ∧ 575 < 576 ∧ 1023 < 1024 ∧ 15 < 16 ∧
      (∀ d ∈ [true, false], (Store.find (l2Key 575 1023 15) (lineThere d).l2).map (fun l => (l.dirty, l.guest)) = some (d, false)) ∧
      Store.find (l2Key 0 0 0) (lineThere true).l2 = none ∧ SoundMemory (lineThere true) ∧ SoundMemory (lineThere false) ∧
      (lineThere true).parts.Pairwise (fun a b => a.1 < b.1) ∧ ((lineThere true).part 1).live = true ∧
      ((lineThere true).fillMask 1 575).getLsbD 15 = true ∧ ((lineThere true).wg ((lineThere true).team 5).wg).launch.part = 1 ∧
      Store.find 5 (lineThere true).teams ≠ none ∧ 0x11FFFFFFFFF < hbmTop ∧ ((guestCopy 4).guestLine 1 0x4004).isSome = true := by
  unfold SoundMemory; decide +kernel

/-! ### Collectives, links, records -/

/-- An all-reduce of one element with packages 0 and 1, of which this package has contributed; n chunks have been sent. -/
def ring (n : Nat) : CollJob :=
  { form := .ar, op := 0, ty := 0, comp := 0, group := 5#32, gen := 0#32, members := [0, 1], r := 0, send := 0x1000#64,
    recv := 0x2000#64, count := 1, tb := none, ordinal := 0, nextSend := n, acked := 0, recvd := 0, arrived := [],
    ready := [(0, [1#8, 2#8])], held := [], sectors := [], words := [], engine := 0, noticed := false }
/-- Its foal. -/
def collFoal (j : CollJob) : Foal := { copyFoal with kind := .coll, job := .coll j }
/-- The foal on core 0, whose partition owns port 0, which is up and leads to package 1; a frame waits to be sent again. -/
def linked (x : Foal) : State :=
  { withFoal (running team) x with
    parts := [(1, { Partition.blank with live := true, ports := 1#24 })], cores := [(0, { Core.blank with part := 1 })],
    ports := [(0, { Port.blank with cfg := 1#18, linkup := true })], routes := [(1, 0x20#16)],
    resends := [⟨0#64, false, 1, 0#32, Frame.make 1 6 0 1 []⟩] }
/-- A frame of the collective from package 1. -/
def collFrame (cls chunk : Nat) (payload : List Byte) : Frame :=
  { Frame.make 1 cls 1 0 payload with group := 5#32, chunk := BitVec.ofNat 64 chunk }

/-- CollectivePacketsAreSentAndReceived: a chunk that can be sent; a chunk out of order, an acknowledgement, a refusal and a notice
of a mismatch that the port takes; a notice to be sent again. -/
theorem test_witness_collective :
    let x := collFoal (ring 0)
    let s := linked x
    let y := collFoal (ring 1)
    let u := linked y
    foalKey 0 3 = 3 ∧ s.foalAt 3 = some x ∧ x.status = .running ∧ x.canreq = false ∧ (ring 0).complete = false ∧
      (ring 0).arrived = [] ∧ s.collReady 3 x = true ∧ s.foals = [(3, x)] ∧
      (ring 0).ready.find? (fun z => z.1 == 0) = some (0, [1#8, 2#8]) ∧ (ring 0).nextMember = 1 ∧ s.jobRoute 1 1 = some 0 ∧
      s.portRoom 0 = true ∧ (ring 0).recvd ≠ (ring 0).inTotal ∧
      (∀ f ∈ [collFrame 1 1 [0#8], collFrame 2 0 [], collFrame 3 0 [1#8], collFrame 6 2 []], ForJob u 0 f) ∧
      (∀ f ∈ [collFrame 1 1 [0#8], collFrame 2 0 [], collFrame 3 0 [1#8]], u.collFor f = some (3, y)) ∧
      (collFrame 1 1 [0#8]).chunkNo = 1 ∧ (ring 1).acked < min ((collFrame 2 0 []).chunkNo + 1) (ring 1).nextSend ∧
      (collFrame 3 0 [1#8]).payload.head? = some 1#8 ∧ (collFrame 6 2 []).srcpkg.toNat ≠ u.pkg ∧
      u.oldestColl 1 0#32 5#32 = some (3, y) ∧ u.collAway 3 y = false ∧ (ring 1).tb = none ∧ u.foals.Pairwise (fun a b => a.1 < b.1) ∧ y.level = .attached ∧
      (u.ctx y.team).kind = .team ∧ y.detached = false ∧
      (s.resends[0]?).map (fun r => (r.frame.cls, r.frame.dstpkg)) = some (6#8, 1#16) ∧ (∀ r ∈ s.resends, r.due ≤ s.time) ∧ s.mayInject 1 0#32 0 = true ∧ s.jobRoute 1 1 = some 0 := by
  unfold ForJob TakesFrame; decide +kernel

/-- The port with frames it has sent, r of which have been sent again. -/
def sent (r : Nat) : State :=
  { linked copyFoal with
    time := 5000#64, ports := [(0, { Port.blank with cfg := 1#18, linkup := true, buffer := [Frame.make 1 1 0 1 []], nextOut := 1#16, resent := [r] })] }
/-- A frame that has made n hops. -/
def hopped (n : Byte) : Frame := { Frame.make 1 1 1 2 [] with hops := n }

/-- LinksAndFaultRecords, links: an acknowledgement of all there is, frames to be sent again for the first and the last time, a
port that is enabled and down; frames for a package with a route, at 0, 5 and 6 hops; records and replies for this package. -/
theorem test_witness_links :
    (sent 0).portUp 0 = true ∧ (Frame.make 1 0 1 0 []).headerOk = true ∧ (Frame.make 1 0 1 0 []).cls = 0#8 ∧
      (∀ g ∈ ((sent 0).port 0).buffer, ((Frame.make 1 0 1 0 []).lack - g.lseq).toNat < 32768) ∧ ((sent 63).port 0).buffer ≠ [] ∧
      ((sent 63).port 0).resent = [63] ∧ ((sent 63).port 0).since.toNat + 5000 ≤ (sent 63).time.toNat ∧
      (let s := { running team with ports := [(23, { Port.blank with cfg := 1#18 })] }
       (s.port 23).cfg.getLsbD 0 = true ∧ (s.port 23).linkup = false ∧ s.stuck = [] ∧ s.records = []) ∧
      (let s := { linked copyFoal with routes := [(2, 0x20#16)] }
       ∀ n ∈ [0#8, 5#8, 6#8], TakesFrame s 0 (hopped n) ∧ (hopped n).dstpkg.toNat ≠ s.pkg ∧ (hopped n).isJob = true ∧
         s.route 2 = some 0 ∧ s.portRoom 0 = true) ∧
      (let s := linked copyFoal
       let f := Frame.make 0 4 1 0 (List.replicate 128 0#8)
       TakesFrame s 0 f ∧ f.dstpkg.toNat = s.pkg ∧ f.cls = 4#8 ∧ s.queued = [] ∧ s.tqbase.toNat + 128 * s.tqsize.toNat ≤ hbmTop ∧
         (s.tqtail - s.tqhead).toNat + f.payload.length / 128 ≤ s.tqsize.toNat) := by
  unfold TakesFrame; decide +kernel

/-- Thread 0 waiting for the reply to request 9, on a package whose port 0 is up. -/
def asking : State :=
  { control 1#2 with
    ports := [(0, { Port.blank with cfg := 1#18, linkup := true })],
    ctxs := [(0, { Ctx.blank with kind := .thread, status := .parked (.rctx 9 3 1) })] }

/-- LinksAndFaultRecords, replies: the answer to the one thread that waits for it. -/
theorem test_witness_replied :
    let f := Frame.make 0 5 1 0 ([4#8] ++ List.replicate 31 0#8 ++ [9#8] ++ List.replicate 7 0#8)
    TakesFrame asking 0 f ∧ f.dstpkg.toNat = asking.pkg ∧ f.cls = 5#8 ∧ leNat (f.payload.take 1) = 4 ∧
      leNat ((f.payload.drop 1).take 1) = 0 ∧ leNat ((f.payload.drop 32).take 8) = 9 ∧
      asking.ctxs.Pairwise (fun a b => a.1 < b.1) ∧ (asking.ctx 0).status = .parked (.rctx 9 3 1) := by
  unfold TakesFrame; decide +kernel
theorem test_witness_asking (g e m : Nat) (h : (asking.ctx g).status = .parked (.rctx 9 e m)) : g = 0 := by
  by_cases h0 : (0 == g) = true
  · simpa using (beq_iff_eq.mp h0).symm
  · simp [asking, State.ctx, Store.get, Store.find, h0, Ctx.blank] at h

/-- A trapped team whose record waits, for package n. -/
def untold (n : Nat) : State :=
  { linked copyFoal with
    teams := [(5, { team with trap := some trapRec, unsent := true })], threads := [(0, Thread.blank)],
    parts := [(1, { Partition.blank with live := true, fsrv := n })] }

/-- LinksAndFaultRecords, records: one for this package's queue, with room for 64; one for package 1, over port 0; one for package 2,
to which no way leads. -/
theorem test_witness_untold :
    ((untold 0).team 5).trap = some trapRec ∧ ((untold 0).team 5).unsent = true ∧ ((untold 0).team 5).loads = 0 ∧
      ((untold 0).team 5).stores = 0 ∧ ((untold 0).wgOf 5).saved = none ∧ ((untold 0).part ((untold 0).wgOf 5).launch.part).fsrv = 0 ∧
      ((untold 0).tqtail - (untold 0).tqhead).toNat < (untold 0).tqsize.toNat ∧ SoundMemory (untold 0) ∧
      (untold 0).tqbase.toNat + 128 * ((untold 0).tqtail.toNat % (untold 0).tqsize.toNat) + 128 ≤ hbmTop ∧
      ((untold 1).part ((untold 1).wgOf 5).launch.part).fsrv ≠ (untold 1).pkg ∧ (untold 1).route 1 = some 0 ∧ (untold 1).portRoom 0 = true ∧
      (untold 1).unreachable 1 = false ∧ ((untold 1).wgOf 5).launch.part = 1 ∧ (untold 2).unreachable 1 = true ∧ trapRec.logged = false := by
  unfold SoundMemory; decide +kernel

/-! ### Time, the election, the timetable, switches -/

/-- Port 0 up with PTP in domain 3, a Pdelay_Req of sequence 9 sent, and a Pdelay_Resp in hand. -/
def timed (c : Clock) : State :=
  { running team with
    ports := [(0, { Port.blank with cfg := 0x1B#18, linkup := true })], clock := c,
    ptp := [(0, { PtpPort.blank with on := true, domain := 3, reqSeq := 9, pending := some ⟨3, 9, 0, 100, 50, false⟩ })] }

/-- TimeElectionAndTimetable, PTP: a port that takes messages, no parent and the parent it is; a request and a response of the
sequence sent; holdover, and none; the seventh step of a cold start. -/
theorem test_witness_timed :
    (∀ p ∈ ([none, some 0] : List (Option Nat)),
      let s := timed ⟨false, false, p, 0⟩
      s.portUp 0 = true ∧ (s.ptpPort 0).on = true ∧ (s.ptpPort 0).domain = 3 ∧ (s.clock.parent = none ∨ s.clock.parent = some 0) ∧
        (s.ptpPort 0).reqSeq = 9 ∧ (s.ptpPort 0).pending = some ⟨3, 9, 0, 100, 50, false⟩ ∧ (s.port 0).cfg.getLsbD 1 = true ∧
        s.clock.holdover = false) ∧
    (timed ⟨true, true, none, 0⟩).clock.holdover = true ∧
    (let s := { running team with start := { State.reset.start with kind := 1, step := 6, busy := true } }
     s.start.busy = true ∧ s.start.kind = 1 ∧ s.start.step = 6 ∧ s.clock.locked = false) := by
  decide +kernel

/-- An election of packages 0, 1 and 2 in EPOCH 3, of which 0 and 2 are candidates; package 2 is heard, and 0 has won. -/
def elected (voted : Nat) : State :=
  { running team with election := ⟨[0, 1, 2], [0, 2], 3, some 0, voted, [0], 3, [(2, 0#64)], none⟩ }
/-- A page of one entry of partition 1, published by package 0 in EPOCH 3. -/
def pageBytes : List Byte :=
  [0x47#8, 0x42#8, 0x54#8, 0x54#8, 3#8, 0#8, 0#8, 0#8, 0#8, 0#8, 1#8] ++ List.replicate 21 0#8 ++
    [0xB8#8, 0x0B#8, 0#8, 0#8, 0#8, 0#8, 0#8, 0#8, 1#8, 0#8, 0#8, 0#8, 5#8, 0#8, 0#8, 0#8, 0xA0#8, 0x86#8, 1#8, 0#8, 1#8] ++
    List.replicate 16331 0#8

/-- TimeElectionAndTimetable, election: a candidate and none; EPOCHs known and new; a vote at the last EPOCH voted in and above it; a
vote that gives this package two of three; pages without an entry, and one whose form, EPOCH and PUBLISHER are right. -/
theorem test_witness_elected :
    let e := (elected 3).election
    (elected 3).pkg ∈ e.candidates ∧ (running team).pkg ∉ (running team).election.candidates ∧ 3 ≤ e.epoch ∧ ¬4 ≤ e.epoch ∧
      3 ≤ e.voted ∧ e.voted < 4 ∧ 2 ∈ e.candidates ∧ 1 ∉ e.candidates ∧ e.hears 0#64 2 = true ∧ (0 ∈ e.candidates ∧ 0 = (elected 3).pkg) ∧
      1 ∈ e.pod ∧ e.voteEpoch = 3 ∧ 1 ∉ e.votes ∧ e.epoch ≤ 3 ∧ e.pod.length < 2 * (e.votes.length + 1) ∧
      e.winner = some (elected 3).pkg ∧ (elected 3).pageOk [] = false ∧ SoundMemory (elected 3) := by
  unfold SoundMemory; decide +kernel
theorem test_witness_page : pageForm pageBytes = true ∧ recNat pageBytes 4 4 = 3 ∧ recNat pageBytes 8 2 = 0 ∧
    (Config.verifies 0 (sha3 (pageBytes.take 0x2000)) ((pageBytes.drop 0x2000).take 4627) = true → (elected 3).pageOk pageBytes = true) := by
  have h : pageForm pageBytes = true := by decide +kernel
  have h4 : recNat pageBytes 4 4 = 3 := by decide +kernel
  have h8 : recNat pageBytes 8 2 = 0 := by decide +kernel
  refine ⟨h, h4, h8, fun hv => ?_⟩
  simp only [State.pageOk, h, h4, h8, hv]
  decide

/-- Core 0 with partition 1's context at a step, at a TIME, and an entry armed in arm 255 of job 1 from 3,000 ns. -/
def switching (st : CoreStep) (time : DWord) : State :=
  { running team with
    time := time, arms := [(255, entry)], cores := [(0, { Core.blank with part := 1, step := st, hold := some time })],
    parts := [(1, { mapped with ctxbytes := 131072 + 6291456, ulogn := 16, ulogbase := 0x10000 })] }

/-- SwitchesAndSlots, out: injection stops exactly 2 µs before START; START; a halt that is complete, with a copy that has started;
one that an MMA in the engine keeps from it;
the last moment of the drain window; a save with a free slot; the end of a hold; 20 µs after START; a core with too many trapped
teams. -/
theorem test_witness_switched :
    (let s := switching .running 1000#64
     Store.find 255 s.arms = some entry ∧ entry.start.toNat ≤ s.time.toNat + 2000 ∧ s.residents 1 ≠ [] ∧
       ∀ d ∈ s.residents 1, ¬(d.2.job = entry.job ∧ d.2.inc = entry.inc)) ∧
    (let s := switching .running 3000#64
     Store.find 255 s.arms = some entry ∧ s.startDue entry = true ∧ entry.part ≠ 0 ∧
       ∃ d ∈ s.residents 1, ¬(d.2.job = entry.job ∧ d.2.inc = entry.inc) ∧ d.2.step = .running) ∧
    (let f := { copyFoal with started := true }
     let s := withFoal (switching (.halting 3000#64 false) 4000#64) f
     (s.core 0).step = .halting 3000#64 false ∧ s.haltDone 0 false = true ∧ s.cores.Pairwise (fun a b => a.1 < b.1) ∧
       s.foals.Pairwise (fun a b => a.1 < b.1) ∧ 3 / 256 = 0 ∧ s.foalAt 3 = some f ∧ f.kind = .copy ∧ f.status = .running ∧
       f.canreq = false ∧ f.dep = none) ∧
    (let s := switching (.draining 3000#64 4000#64 true) 6000#64
     (s.core 0).step = .draining 3000#64 4000#64 true ∧ (4000#64 : DWord).toNat + 2000 ≤ s.time.toNat) ∧
    (let s := switching (.saving 3000#64 4000#64 6000#64 none false) 6000#64
     (s.core 0).step = .saving 3000#64 4000#64 6000#64 none false ∧ (s.core 0).part = 1 ∧ s.saveReady 0 = true ∧ s.wgsOn 0 ≠ [] ∧
       0 < (s.part 1).slots ∧ (s.part 1).image 0 = none ∧ (s.part 1).switch = none ∧ (s.part 1).ctxbase + (s.part 1).ctxbytes ≤ hbmTop ∧
       s.wgs.Pairwise (fun a b => a.1 < b.1) ∧ (s.core 0).hold = some s.time) ∧
    (let s := withFoal (switching (.halting 3000#64 false) 23000#64) { matrixFoal with started := true }
     s.haltDone 0 false = false ∧ s.halted 0 = false ∧ s.haltDone 0 true = false ∧ (0, s.core 0) ∈ s.cores ∧ (s.core 0).step = .halting 3000#64 false ∧ (3000#64 : DWord).toNat + 20000 ≤ s.time.toNat ∧ 5 ∈ s.teamsOn 0) ∧
    (∀ c ∈ ([.trapped, .parked .server] : List Status),
      let s := { switching .running 0#64 with ctxs := [(5, { Ctx.blank with kind := .team, status := c })] }
      (s.core 0).part ≠ 0 ∧ (s.core 0).step = .running ∧
       s.parkth.toNat * (s.teamsOn 0).length <
         100 * ((s.teamsOn 0).filter fun h => (s.ctx h).status == .trapped || (s.ctx h).status == .parked .server).length) := by
  refine ⟨by decide +kernel, ⟨by decide +kernel, by decide +kernel, by decide +kernel, ⟨(0, (switching .running 3000#64).core 0), by decide +kernel⟩⟩,
    by decide +kernel, by decide +kernel, by decide +kernel, by decide +kernel, by decide +kernel⟩

/-- SHA3-512 of 128 zero bytes, computed outside the model. -/
def zeroDigest : List Byte :=
  [0xA1#8, 0x6D#8, 0x68#8, 0xFB#8, 0xCB#8, 0xC9#8, 0x47#8, 0x82#8, 0x68#8, 0xE6#8, 0x21#8, 0x24#8, 0x38#8, 0xC6#8, 0x32#8, 0x32#8,
   0xC7#8, 0xF9#8, 0x7B#8, 0xFA#8, 0x58#8, 0xE1#8, 0x1E#8, 0x84#8, 0x27#8, 0x54#8, 0x2B#8, 0x2B#8, 0x1E#8, 0x05#8, 0x9B#8, 0xED#8,
   0xE9#8, 0xAD#8, 0x3A#8, 0x1F#8, 0xBC#8, 0xF9#8, 0x1E#8, 0x20#8, 0xAE#8, 0x8D#8, 0x4B#8, 0x91#8, 0xC4#8, 0xE0#8, 0x51#8, 0xA2#8,
   0xEA#8, 0xBA#8, 0x17#8, 0x62#8, 0x2D#8, 0xF7#8, 0x3E#8, 0x4F#8, 0xA5#8, 0x84#8, 0x89#8, 0xE4#8, 0x32#8, 0x20#8, 0x43#8, 0x63#8]
/-- Slot 0 of partition 1 with a saved context of workgroup 20, whose image is zero but for a digest. -/
def imaged (out : Bool) (digest : List Byte) : State :=
  { running team with
    wgs := [(20, { wg with core := virtualCore 1 0, saved := some 0 })], cores := [(virtualCore 1 0, { Core.blank with part := 1, job := 1#32 })],
    mem := digest.zipIdx.map fun b => (131072 + 0x80 + b.2, b.1),
    parts := [(1, { mapped with
      ctxbytes := 131072 + 6291456, force := some ⟨entry, false, false⟩,
      images := [(0, ⟨1#32, 0, 2, 0, 0#32, 0#64, 0#32, 0#64, [20], 0, out⟩)] })] }

/-- SwitchesAndSlots, in: a context that the entry in force takes back to its core, and one that was switched out; an image whose
digest fails. -/
theorem test_witness_restored :
    (imaged false []).mayRestore 1 0 0 = true ∧ (imaged true []).maySwitchIn 1 0 15 = true ∧ ((imaged false []).part 1).image 0 ≠ none ∧
      ((imaged false []).part 1).ctxbase + ((imaged false []).part 1).ctxbytes ≤ hbmTop ∧
      (imaged false []).wgs.Pairwise (fun a b => a.1 < b.1) ∧ 5 ∈ (imaged false []).teamsOn (virtualCore 1 0) ∧
      SoundMemory (imaged false []) ∧ SoundMemory (imaged true []) := by
  unfold SoundMemory; decide +kernel
theorem test_witness_sealed :
    (imaged false zeroDigest).mayRestore 1 0 0 = true ∧ (imaged true zeroDigest).maySwitchIn 1 0 15 = true ∧ SoundMemory (imaged false zeroDigest) ∧
      SoundMemory (imaged true zeroDigest) := by
  unfold SoundMemory
  decide +kernel
theorem test_witness_digest : (imaged false zeroDigest).imageOk 1 0 = true := by decide +kernel
theorem test_witness_no_digest : (imaged false []).imageOk 1 0 = false := by decide +kernel

/-- SwitchesAndSlots, records: a slot at its very end, whose record is open and closed; a partition without an entry, and one whose
slot is over, at 100 ms. -/
theorem test_witness_slots :
    (∀ c ∈ [true, false],
      let s := { switching .running 4000#64 with
        parts := [(1, { mapped with force := some ⟨entry, false, c⟩, ulogn := 16, ulogbase := 0x10000 })] }
      (s.part 1).force = some ⟨entry, false, c⟩ ∧ (s.part 1).live = true ∧ (entry.start + BitVec.ofNat 64 entry.len.toNat) ≤ s.time ∧
        (∀ x ∈ s.arms, x.2.part = 1 → x.2.start ≠ entry.start + BitVec.ofNat 64 entry.len.toNat) ∧ SoundMemory s ∧
        (s.part 1).ulogbase + 5120 * (s.part 1).ulogn ≤ hbmTop ∧ 0 < (s.part 1).ulogn ∧ (s.part 1).usage.prev.length ≤ 64) ∧
    (∀ f ∈ ([none, some ⟨entry, true, true⟩] : List (Option InForce)),
      let s := { switching .running 100000000#64 with parts := [(1, { mapped with force := f, ulogn := 16, ulogbase := 0x10000 })] }
      (s.part 1).live = true ∧ s.time.toNat % 100000000 = 0 ∧ (s.part 1).usage.tend < s.time ∧ (∀ x ∈ (s.part 1).force, x.ended = true)) := by
  unfold SoundMemory; decide +kernel

/-! ### What completes -/

/-- ExitsRepliesStepsAndEventsComplete: a team without foals, accesses or lane copies, and one whose attached foals have no registers
as destinations; the steps of a core; a copy to choose and none. -/
theorem test_witness_exits :
    (let s := running team
     s.cur = 5 ∧ s.attachedOf 5 = [] ∧ (s.team 5).loads = 0 ∧ (s.team 5).stores = 0 ∧ (s.team 5).batch (s.team 5).openSlot = 0) ∧
    (let s := withFoal (running team) copyFoal
     s.attachedOf 5 = [(3, copyFoal)] ∧ copyFoal.live = true ∧ copyFoal.regdest = false) := by
  decide +kernel
theorem test_witness_steps :
    ((running team).core 0).step = .running ∧ ((switching (.halting 3000#64 false) 0#64).core 0).step = .halting 3000#64 false ∧
    ((switching (.draining 3000#64 4000#64 true) 0#64).core 0).step = .draining 3000#64 4000#64 true ∧
    ((switching (.saving 3000#64 4000#64 6000#64 none true) 0#64).core 0).step = .saving 3000#64 4000#64 6000#64 none true ∧
    ((running team).copySettle (foalKey 0 3)).copyChoice 0 = none ∧
    ((withFoal (running team) copyFoal).copySettle (foalKey 0 3)).copyChoice 0 = some (foalKey 0 3, copyFoal) := by
  decide +kernel
/-- An event of a unit and an instruction that is none. -/
theorem test_witness_event : Instr.isEvent .heartbeatLoss = true ∧ Instr.isEvent (.exit false) = false := by decide

/-! ### Further states for the statements' clauses -/

/-- ScalarAccesses on a control-core thread that has performed two, and three, of the four bytes of a misaligned access; a poisoned
one among them, and a poisoned byte of an aligned access. -/
theorem test_witness_bytewise :
    let s := fun (bs : List Byte) => ({ control 0#2 with
      threads := [(0, { Thread.blank with level := 0#2, bytes := bs })],
      ctxs := [(0, { Ctx.blank with kind := .thread, status := .ready, sregs := [(1, 0x102#64)] })] } : State)
    (∀ bs ∈ ([[1#8, 2#8], [1#8, 2#8, 3#8]] : List (List Byte)),
      SoundMemory (s bs) ∧ ThreadRuns (s bs) 0 ∧ ((s bs).ctx (s bs).cur).status = .ready ∧ ((s bs).sreg 0 1#6).toNat % 4 ≠ 0 ∧
        ((s bs).thread 0).bytes.length < 4 ∧ (s bs).homePoison ⟨0x102 + bs.length, none⟩ = false ∧
        ({ s bs with poison := [(4, true)] } : State).homePoison ⟨0x102 + bs.length, none⟩ = true) ∧
    ((s [1#8, 2#8]).thread 0).bytes.length + 1 < 4 ∧ ((s [1#8, 2#8, 3#8]).thread 0).bytes.length + 1 = 4 := by
  unfold ThreadRuns SoundMemory; decide +kernel

/-- A state whose launch has spare intervals and whose workgroup's own is empty. -/
def stealing (spare : List (DWord × DWord)) (others : Store Workgroup) : State :=
  let s := ranging false 4#64 4#64
  { s with wgs := s.wgs ++ others, entities := [(0, { Entity.blank with part := 1, launch := some { ranged with spare := spare } })] }

/-- RangeTasksAreTakenAndSplit, an empty interval outside deterministic mode: another workgroup's interval of twice a leaf, before
a spare one of that length; the longer of two short spare ones; none. -/
theorem test_witness_stealing :
    let leaf : DWord := 3#64
    let spares := fun (r : LaunchRec) => r.spare.zipIdx.map fun p => (2 ^ 32 + p.2, Holder.spare p.2, p.1.1, p.1.2)
    let all := fun (s : State) (r : LaunchRec) => s.intervals 0 r ++ spares r
    let long := fun (x : Nat × Holder × DWord × DWord) => (x.2.2.2 - x.2.2.1).toNat
    let first := fun (xs : List (Nat × Holder × DWord × DWord)) (x : Nat × Holder × DWord × DWord) =>
      x ∈ xs ∧ ∀ y ∈ xs, y = x ∨ long y < long x ∨ (long y = long x ∧ x.1 < y.1)
    let rec1 : LaunchRec := { ranged with spare := [(0#64, 6#64)] }
    let other := { (stealing [] []).wg 20 with lo := 4#64, hi := 10#64, wgix := 1 }
    let s1 := stealing rec1.spare [(21, other)]
    let rec2 : LaunchRec := { ranged with spare := [(0#64, 2#64), (5#64, 10#64)] }
    let s2 := stealing rec2.spare []
    let s3 := stealing [] []
    (∀ s ∈ [s1, s2, s3], TeamRuns s [] ∧ (s.wg 20).hi = (s.wg 20).lo ∧ s.det 5 = false ∧ 0 < leaf.toNat) ∧
    (s1.entity 0).launch = some rec1 ∧ (∃ x, x = (1, Holder.wg 21, 4#64, 10#64) ∧ first (all s1 rec1) x ∧ 2 * 3 ≤ long x ∧
      x.2.2.1.toNat ≤ x.2.2.2.toNat) ∧
    (s2.entity 0).launch = some rec2 ∧ (∀ x ∈ all s2 rec2, long x < 2 * 3) ∧
    (∃ x, x = (2 ^ 32 + 1, Holder.spare 1, 5#64, 10#64) ∧ first (spares rec2) x ∧ x.2.2.1.toNat < x.2.2.2.toNat) ∧
    (s3.entity 0).launch = some ranged ∧ (∀ x ∈ all s3 ranged, long x < 2 * 3) ∧ ranged.spare = [] := by
  unfold TeamRuns
  refine ⟨by decide +kernel, by decide +kernel, ⟨_, rfl, by decide +kernel⟩, by decide +kernel, by decide +kernel,
    ⟨_, rfl, by decide +kernel⟩, by decide +kernel, by decide +kernel, by decide +kernel⟩

/-- ControlRegistersAndTranslations, TLBI.SYNC: a team parked in a QPOST for room, and nothing under way. -/
theorem test_witness_room :
    let s : State :=
      { running team with
        cur := 0, threads := [(0, { Thread.blank with level := 1#2, posted := 60 })],
        ctxs := [(0, { Ctx.blank with kind := .thread, status := .ready }),
                 (5, { Ctx.blank with kind := .team, status := .parked (.queueRoom ⟨0x200100, none⟩) })] }
    ThreadRuns s 1 ∧ (∀ e ∈ s.teams, e.2.reqs = [] ∧ e.2.copies = []) ∧ s.foals = [] ∧ (s.ctx 5).kind = .team ∧
      (s.ctx 5).status = .parked (.queueRoom ⟨0x200100, none⟩) := by
  unfold ThreadRuns; decide +kernel

/-- SwitchesAndPartitions, PART.DESTROY: a live partition whose core holds a team and a running foal. -/
theorem test_witness_destroyed :
    let s : State :=
      { withFoal (running team) matrixFoal with
        cur := 0, threads := [(0, { Thread.blank with level := 2#2 })], cores := [(0, { Core.blank with part := 1 })],
        ctxs := [(0, { Ctx.blank with kind := .thread, status := .ready }), (5, { Ctx.blank with kind := .team, status := .ready })] }
    ThreadRuns s 2 ∧ (s.part 1).live = true ∧ s.coresOf 1 = [0] ∧ (s.wgsOn 0).map (·.1) = [20] ∧ s.liveTeams (s.wg 20) = [5] ∧
      s.foalAt 3 = some matrixFoal ∧ 3 / 256 = 0 ∧ matrixFoal.live = true := by
  unfold ThreadRuns; decide +kernel

/-- Thread 0 at hypervisor level with a bitmap of one bit at 0x1000, whose address is in s1, and partitions. -/
def bitmapped (at_ : Option Nat) (parts : Store Partition) : State :=
  { creating parts with mem := (at_.map fun i => (0x1000 + i, 1#8)).toList }
/-- A live partition that owns the first unit of each kind. -/
def owning : Partition := { Partition.blank with live := true, clusters := 1#144, pchan := 1#768, ceng := 1#48, ports := 1#24 }
def bitsAt (s : State) : Nat := ((List.range 128).map fun i => (s.homeByte ⟨0x1000 + i, none⟩).toNat * 2 ^ (8 * i)).sum

/-- SwitchesAndPartitions, PART.BITMAP: a bit beyond each kind's width; a unit of another partition; each kind's unit in use that a
bitmap of zero gives up; a bitmap that takes a free unit, and one that keeps what is owned. -/
theorem test_witness_bitmap_cases :
    (∀ c ∈ ([(144, 18), (768, 96), (48, 6), (24, 3)] : List (Nat × Nat)), 2 ^ c.1 ≤ bitsAt (bitmapped (some c.2) [(1, owning)])) ∧
    (let s := bitmapped (some 0) [(1, { Partition.blank with live := true }), (2, owning)]
     bitsAt s = 1 ∧ (s.part 1).live = true ∧ 2 ≠ 1 ∧ (2, owning) ∈ s.parts ∧ owning.live = true ∧
       ∀ b ∈ [owning.clusters.getLsbD 0, owning.pchan.getLsbD 0, owning.ceng.getLsbD 0, owning.ports.getLsbD 0], b = true) ∧
    (let s := { bitmapped none [(1, { owning with penbytes := 8 })] with
                cores := [(0, { Core.blank with part := 1 })], foals := [(3, collFoal (ring 0))],
                ports := [(0, { Port.blank with buffer := [Frame.make 1 1 0 1 []] })] }
     bitsAt s = 0 ∧ (∀ e ∈ s.parts, e.1 = 1) ∧ (∃ e ∈ s.cores, e.2.part = 1 ∧ e.1 < 2304 ∧ clusterOf e.1 = 0) ∧
       ((s.part 1).penbase + 0) / 0x60000000 = 0 ∧ 0 < (s.part 1).penbytes ∧
       (collFoal (ring 0)).live = true ∧ (collFoal (ring 0)).origin.part = 1 ∧ (ring 0).engine = 0 ∧
       (∃ f ∈ (s.port 0).buffer, f.isJob = true ∧ f.part.toNat = 1)) ∧
    (∀ x ∈ [owning, { Partition.blank with live := true }],
      let s := bitmapped (some 0) [(1, x)]
      bitsAt s = 1 ∧ (∀ e ∈ s.parts, e.1 = 1) ∧
        (∀ i, i < 144 → x.clusters.getLsbD i = false ∨ (bitsAt s).testBit i = true) ∧
        (∀ i, i < 768 → x.pchan.getLsbD i = false ∨ (bitsAt s).testBit i = true) ∧
        (∀ i, i < 48 → x.ceng.getLsbD i = false ∨ (bitsAt s).testBit i = true) ∧
        ∀ i, i < 24 → x.ports.getLsbD i = false ∨ (bitsAt s).testBit i = true) := by
  decide +kernel

/-- CopiesInCachesAndLaneCopies: a line on its way that must wait for one before it, and one that need not; a page that no team
waits for, one whose walk is in progress, and one whose walk is tracked behind 128 others. -/
theorem test_witness_walking :
    (let f : Fill := ⟨0x4004, none, none, 1, none⟩
     let s := { running team with fills := [f, f, ⟨0x8008, none, none, 1, none⟩] }
     s.fills[1]? = some f ∧ (∃ g ∈ s.fills.take 1, g.meets f = true) ∧ ∀ g ∈ s.fills.take 0, g.meets f = false) ∧
    (let s := fun (n : Nat) => running { team with stalled := some (.walks (List.range n) 3) }
     ((s 2).teams.map (·.1)).Nodup ∧ (0x10000#64 : Addr).toNat < 2 ^ 55 ∧ (1, 1) ∈ (s 2).misses 0 ∧ (1, 1) ∈ (s 2).walksRunning 0 ∧
       (1, 5) ∉ (s 2).misses 0 ∧ (1, 128) ∈ (s 129).misses 0 ∧ (1, 128) ∉ (s 129).walksRunning 0) := by
  decide +kernel

/-- LinksAndFaultRecords: a bare acknowledgement whose header's fixed bytes are not as they must be. -/
theorem test_witness_broken :
    let f := { Frame.make 1 0 1 0 [] with zeros := false }
    (sent 0).portUp 0 = true ∧ Sys2Proof.Frame.headerOk f = false ∧ f.cls = 0#8 := by
  decide +kernel

/-- TimeElectionAndTimetable, PTP: a port whose interval timers have run out, on the parent's port and on another, and one whose
timers have 1 ns left. -/
theorem test_witness_intervals : ∀ c ∈ ([none, some 0] : List (Option Nat)),
    let s := fun (n : DWord) => ({ timed ⟨true, false, c, 0⟩ with time := n } : State)
    (s 1000000000#64).portUp 0 = true ∧ ((s 1000000000#64).port 0).cfg.getLsbD 1 = true ∧
      ((s 0#64).ptpPort 0).syncAt.toNat + 1000000000 / 2 ^ ((s 0#64).ptpPort 0).sync ≤ (s 1000000000#64).time.toNat ∧
      ((s 0#64).ptpPort 0).reqAt.toNat + 1000000000 / 2 ^ ((s 0#64).ptpPort 0).pdelay ≤ (s 1000000000#64).time.toNat ∧
      (s 999999999#64).time.toNat < ((s 0#64).ptpPort 0).syncAt.toNat + 1000000000 / 2 ^ ((s 0#64).ptpPort 0).sync ∧
      (s 999999999#64).time.toNat < ((s 0#64).ptpPort 0).reqAt.toNat + 1000000000 / 2 ^ ((s 0#64).ptpPort 0).pdelay := by
  decide +kernel

/-- Two teams of cluster 0 with declarations, at a boundary. -/
def declared (a b : PowerDecl) : State :=
  { running team with
    time := 20000#64, teams := [(5, { team with power := some a }), (6, { team with power := some b })],
    ctxs := [(5, { Ctx.blank with kind := .team, status := .ready }), (6, { Ctx.blank with kind := .team, status := .ready })] }
/-- A declaration of 16 units made at TIME t that has waited n boundaries. -/
def pending (t : DWord) (n : Nat) : PowerDecl :=
  { state := 1, intensity := 15, t0 := t, onset := 0, start := 0#64, len := 10, wait := n, ext := none, doomed := false, kept := false }
/-- A granted window from 18,000 ns on, and an extension asked of it. -/
def windowed (ext : Option Nat) : PowerDecl := { pending 0#64 0 with state := 2, start := 18000#64, ext := ext }

/-- PowerIsControlledAtBoundaries, grants: two declarations in each order, the first of which fits. -/
theorem test_witness_granted :
    (let s := declared (pending 1000#64 3) (pending 2000#64 3)
     s.time.toNat % 10000 = 0 ∧ s.control.boundary ≠ s.time ∧ s.teams.Pairwise (fun a b => a.1 < b.1) ∧
       declarations s 0 = [(5, 0, pending 1000#64 3), (6, 0, pending 2000#64 3)] ∧
       ComesBefore (5, 0, pending 1000#64 3) (6, 0, pending 2000#64 3) ∧ unitsHeld s 0 = 0) ∧
    ComesBefore (6, 0, pending 2000#64 16) (5, 0, pending 1000#64 3) ∧ ComesBefore (5, 1, pending 2000#64 3) (6, 0, pending 1000#64 3) := by
  unfold ComesBefore; decide +kernel
theorem test_witness_granted_both : (((declared (pending 1000#64 3) (pending 2000#64 3)).grant 0).team 6).power.map (·.state) = some 2 := by
  decide +kernel

/-- An aged declaration that the budget could hold and ISTEP does not let begin holds the other back. -/
theorem test_witness_held_back :
    let s := { declared (pending 1000#64 16) (pending 2000#64 3) with clusters := [(0, { Cluster.blank with istep := 15 })] }
    16 ≤ (pending 1000#64 16).wait ∧ 15 + 1 ≤ Cluster.blank.cbudget ∧ (pending 1000#64 16).ext = none ∧
      ComesBefore (5, 0, pending 1000#64 16) (6, 0, pending 2000#64 3) ∧
      ((s.grant 0).team 5).power = some { pending 1000#64 16 with wait := 17 } := by
  unfold ComesBefore
  refine ⟨by decide, by decide, by decide, by decide, ?_⟩
  decide +kernel

/-- A window with an extension that is granted, one whose sum is too long, one beside an aged declaration, and one without. -/
theorem test_witness_extended :
    (∀ n ∈ [1, 65535],
      let x := windowed (some n)
      let s := declared x (windowed none)
      declarations s 0 = [(5, 0, x), (6, 0, windowed none)] ∧ 2 ≤ x.state ∧ s.time.toNat < x.start.toNat + 1000 * x.len ∧
        unitsHeld s 0 ≤ 192 ∧ (x.start.toNat + 1000 * (x.len + n) - max x.start.toNat s.time.toNat ≤ 65535000 ↔ n = 1)) ∧
    (let s := declared (windowed (some 1)) (pending 0#64 16)
     (6, 0, pending 0#64 16) ∈ declarations s 0 ∧ 16 ≤ (pending 0#64 16).wait) := by
  decide +kernel

/-- A packet at the first slot of a queue, in a package with entities and cancel tokens. -/
def packeted (pkt : List Host.Cell) (ents : Store Entity) (tokens : List CancelToken) : State :=
  { running team with
    parts := [(1, { mapped with tokens := tokens })], tlb := [], entities := ents,
    mem := [(0x1001, 0x20#8), (0x1008, 2#8), (0x100D, 0xFF#8), (0x100E, 1#8), (0x100F, 1#8), (0x1020, 1#8)] ++ pkt ++ tables 0x1D#8 }
/-- A range packet over 0 to 10 in leaves of 3, of two workgroups of a team of 32 lanes, with bytes put in at their places. -/
def rangeCells (signal parent : Option Byte) (width7 teams : Byte) : List Host.Cell :=
  [(0x2000, 2#8)] ++ (if teams = 0#8 then [] else [(0x2004, teams)]) ++ [(0x2005, 0xFF#8), (0x2006, 32#8)] ++
    (if width7 = 0#8 then [] else [(0x2007, width7)]) ++ [(0x2008, 8#8), (0x2018, 2#8)] ++
    (signal.map fun b => (0x2029, b)).toList ++ (parent.map fun b => (0x2038, b)).toList ++
    [(0x204C, 7#8), (0x2060, 10#8), (0x2068, 3#8)]
/-- The entity of a launch of partition 1. -/
def launchEntity (id : Word) (cancelled : Bool) : Entity :=
  { Entity.blank with part := 1, level := .launch, id := id, counter := 1#64, cancelled := cancelled, launch := some ranged }

/-- The turn that a pop finds, and the state in which it finds it. -/
def popped (s : State) : State × Option Turn :=
  let r := (s.pruneTokens 1).turns 1 (List.range (s.part 1).queues.length)
  r.1.roundRobin 1 (topPrio r.2) (r.2.filter fun y => y.q.prio == topPrio r.2) (64 * 257)
/-- Such a pop chooses queue 0, whose READ and DEFICIT stand at 0x1010. -/
def choosing (s : State) : Bool :=
  (s.part 1).live && !(s.part 1).destroying && (popped s).2.map Turn.ix == some 0 &&
    ((translateBytes (popped s).1 none 1 (((popped s).1.part 1).queueAddr 0 + 0x10#64) 16 .write).toOption ==
      some ((List.range 16).map fun j => ⟨0x1010 + j, none⟩))
/-- The bytes of the packet, and the packet. -/
def poppedBytes (s : State) : List Byte := ((popped s).2.map Turn.bytes).getD []
def poppedPacket (s : State) : Packet := Packet.ofBytes (poppedBytes s)
/-- A packet's bytes and fields are in order. -/
def poppedValid (s : State) : Bool :=
  packetZeros (poppedBytes s) && (poppedPacket s).fields && decide ((poppedPacket s).kind ≤ 2)
/-- A workgroup of it fits a core of a partition with clusters. -/
def poppedFits (s : State) : Prop :=
  let k := poppedPacket s
  k.teams * k.width * k.vregs * 4 ≤ 1048576 ∧ k.teams * k.width ≤ 4096 ∧ k.teams ≤ 16 ∧ k.spkib ≤ 1024 ∧
    ((popped s).1.part 1).clusters ≠ 0#144
/-- Its PARENT, as an entity that is there. -/
def poppedParent (s : State) : Option (Nat × Level × Bool) :=
  (Store.find (poppedPacket s).parent.toNat (popped s).1.entities).map fun y => (y.part, y.level, y.cancelled)

/-- PacketsArePoppedAndSignalsWritten: a range packet without a parent, as the child of a live launch and of a cancelled one; a
signal packet and a cancel marker. -/
theorem test_witness_taken :
    (∀ e ∈ ([none, some false, some true] : List (Option Bool)),
      let s := packeted (rangeCells none (e.map fun _ => 9#8) 0#8 1#8) (e.map fun c => (9, launchEntity 5#32 c)).toList []
      choosing s = true ∧ SoundMemory (popped s).1 ∧ poppedValid s = true ∧ poppedFits s ∧ (poppedPacket s).kind = 2 ∧
        ((poppedPacket s).parent.toNat = match e with | none => 0 | some _ => 9) ∧
        poppedParent s = e.map (fun c => (1, .launch, c)) ∧ ((popped s).1.part 1).tokens = [] ∧
        (∀ y ∈ (popped s).1.entities, y.2.id ≠ (poppedPacket s).launch ∧ y.1 < (popped s).1.nextId) ∧
        (popped s).1.entities.Pairwise (fun a b => a.1 < b.1)) ∧
    (∀ c ∈ ([(3, [(0x2000, 3#8), (0x2020, 5#8), (0x2029, 3#8)]), (4, [(0x2000, 4#8), (0x204C, 7#8)])] : List (Nat × List Host.Cell)),
      let s := packeted c.2 [] []
      choosing s = true ∧ (poppedPacket s).kind = c.1 ∧ packetZeros (poppedBytes s) = true ∧ (poppedPacket s).fields = true) := by
  unfold SoundMemory poppedFits; decide +kernel

/-- PacketsArePoppedAndSignalsWritten, packets that take no entry, each with its STATUS and REASON: a byte that must be zero, a
field out of range, a token that names it, a workgroup that fits no core, a LAUNCH in use, a PARENT that is none; without a signal
word, with one that can be written, and with one that cannot. -/
theorem test_witness_turned :
    (let s := packeted [(0x2000, 5#8)] [] []
     choosing s = true ∧ packetZeros (poppedBytes s) = false ∧ (poppedPacket s).signal = 0#64) ∧
    (let s := packeted ([(0x2000, 5#8), (0x2028, 1#8)]) [] []
     choosing s = true ∧ packetZeros (poppedBytes s) = false ∧ (poppedPacket s).signal.toNat % 8 ≠ 0) ∧
    (let s := packeted (rangeCells (some 3#8) none 0#8 0#8) [] []
     choosing s = true ∧ packetZeros (poppedBytes s) = true ∧ (poppedPacket s).fields = false ∧ (poppedPacket s).signal = 0x300#64 ∧
       (translateBytes (popped s).1 none 1 0x300#64 8 .write).toOption = some ((List.range 8).map fun j => ⟨0x300 + j, none⟩)) ∧
    (let s := packeted (rangeCells none none 3#8 16#8) [] []
     choosing s = true ∧ poppedValid s = true ∧ ¬poppedFits s ∧ ((popped s).1.part 1).tokens = []) ∧
    (let s := packeted (rangeCells none none 0#8 1#8) [(9, launchEntity 7#32 false)] []
     choosing s = true ∧ poppedValid s = true ∧ poppedFits s ∧ (9, launchEntity 7#32 false) ∈ (popped s).1.entities ∧
       (poppedPacket s).launch = 7#32) ∧
    (let s := packeted (rangeCells none (some 9#8) 0#8 1#8) [] []
     choosing s = true ∧ poppedValid s = true ∧ poppedFits s ∧ (poppedPacket s).parent ≠ 0#64 ∧ poppedParent s = none) := by
  unfold poppedFits; decide +kernel
theorem test_witness_dropped :
    let s := packeted (rangeCells none (some 9#8) 0#8 1#8) [(9, launchEntity 5#32 false)] [⟨0, 7#32, [1#64]⟩]
    choosing s = true ∧ poppedValid s = true ∧ (∃ c ∈ ((popped s).1.part 1).tokens, (poppedPacket s).idAt c.level = c.id ∧ c.id ≠ 0#32) ∧
      poppedParent s = some (1, .launch, false) := by
  decide +kernel

/-- Partition 63 being created or destroyed, on a package where nothing runs: stage-2 tables at 0x40000 and 0x50000, whose one leaf
maps 512 MiB at 0x20000000, and a log of 16 records at 0x10000. -/
def coming (c d : Bool) : State :=
  { running team with
    ctxs := [], teams := [], mem := [(0x40000, 3#8), (0x40002, 5#8), (0x50000, 0x1D#8), (0x50003, 0x20#8)],
    parts := [(63, { mapped with creating := c, destroying := d, ulogn := 16, ulogbase := 0x10000 })] }

/-- PartitionsComeAndGo: nothing of the partition's is under way, no line is its own, and no team; and a partition with a store. -/
theorem test_witness_quiet :
    ((coming true false).part 63).creating = true ∧ (coming true false).quietPart 63 = true ∧ (coming true false).l2 = [] ∧
      ((coming false true).part 63).destroying = true ∧ (coming false true).quietPart 63 = true ∧ SoundMemory (coming true false) ∧
      ((coming true false).part 63).s2root % 65536 = 0 ∧ (running storing).quietPart 1 = false := by
  unfold SoundMemory; decide +kernel

/-- A byte that nothing has written. -/
theorem coming_byte (a i : Nat) (h : a % 8 = 0) (h4 : a ≠ 0x40000) (h5 : a ≠ 0x50000) (hi : i < 8) :
    (coming true false).homeByte ⟨a + i, none⟩ = 0#8 := by
  have m : (coming true false).mem = [(0x40000, 3#8), (0x40002, 5#8), (0x50000, 0x1D#8), (0x50003, 0x20#8)] := rfl
  have l : ∀ n, (coming true false).homeLine n = none := fun _ => rfl
  have h1 : (0x40000 == a + i) = false := by rw [beq_eq_false_iff_ne]; omega
  have h2 : (0x40002 == a + i) = false := by rw [beq_eq_false_iff_ne]; omega
  have h3 : (0x50000 == a + i) = false := by rw [beq_eq_false_iff_ne]; omega
  have h4 : (0x50003 == a + i) = false := by rw [beq_eq_false_iff_ne]; omega
  simp only [State.homeByte, l, State.hbm, m, Store.get, Store.find, h1, h2, h3, h4, Bool.false_eq_true, if_false, Option.getD_none]

/-- The eight bytes of an entry that nothing was written to. -/
theorem coming_zero (a : Nat) (h : a % 8 = 0) (h4 : a ≠ 0x40000) (h5 : a ≠ 0x50000) : (coming true false).home64 a = 0#64 := by
  have f : (List.range 8).foldl (fun x i => x + ((coming true false).homeByte ⟨a + i, none⟩).toNat * 2 ^ (8 * i)) 0 = 0 := by
    rw [List.foldl_ext _ (fun x i => x + (0#8 : Byte).toNat * 2 ^ (8 * i)) 0
      (fun x i hi => by rw [coming_byte a i h h4 h5 (List.mem_range.mp hi)])]
    rfl
  unfold State.home64
  rw [f]

/-- The only entry of the first table that leads on is its first one, and no entry of the second leads on. -/
theorem coming_first (i : Nat) (ht : isTable ((coming true false).home64 (0x40000 + 8 * i)) = true) (h : i < 8192) : i = 0 := by
  by_contra h0
  rw [coming_zero (0x40000 + 8 * i) (by omega) (by omega) (by omega)] at ht
  exact absurd ht (by decide)
theorem coming_second (j : Nat) : isTable ((coming true false).home64 (0x50000 + 8 * j)) = false ∧
    (entryOk true ((coming true false).home64 (0x50000 + 8 * j)) = true → j = 0) := by
  by_cases h0 : j = 0
  · subst h0
    exact ⟨by decide +kernel, fun _ => rfl⟩
  · rw [coming_zero (0x50000 + 8 * j) (by omega) (by omega) (by omega)]
    exact ⟨by decide, fun h => absurd h (by decide)⟩

theorem coming_root : ((coming true false).part 63).s2root = 0x40000 ∧
    entryAddr true ((coming true false).home64 (0x40000 + 8 * 0)) = 0x50000 := by decide +kernel

/-- A leaf of those tables stands in the second one and maps 512 MiB. -/
theorem coming_leaf {pa size : Nat} (h : LeafPlace (coming true false) 63 pa size) :
    size = 2 ^ 29 ∧ ∃ j, j < 8192 ∧ pa = 0x50000 + 8 * j := by
  obtain ⟨i, j, hi, hj, ht, h⟩ := h
  rw [coming_root.1] at ht h
  obtain rfl := coming_first i ht hi
  rw [coming_root.2] at h
  obtain ⟨hs, hp, -⟩ | ⟨-, h2, -⟩ := h
  · exact ⟨hs, j, hj, hp⟩
  · rw [(coming_second j).1] at h2
    cases h2

/-- An entry of those tables stands in one of the two. -/
theorem coming_place {q : Nat} (h : TablePlace (coming true false) 63 q) : q < 0x40000 + 65536 ∨ ∃ j, j < 8192 ∧ q = 0x50000 + 8 * j := by
  obtain ⟨i, hi, hq⟩ | ⟨size, h⟩ | ⟨i, j, hi, hj, ht, hq⟩ := h
  · rw [coming_root.1] at hq
    omega
  · exact .inr (coming_leaf h).2
  · rw [coming_root.1] at ht hq
    obtain rfl := coming_first i ht hi
    rw [coming_root.2] at hq
    exact .inr ⟨j, hj, hq⟩

/-- PartitionsComeAndGo, the scrub: the one leaf is to be scrubbed, its page apart from every table entry and from the log; the
entry apart from the regions. -/
theorem test_witness_scrubbed : ToScrub (coming true false) 63 0x50000 (2 ^ 29) ∧
    (∀ q, TablePlace (coming true false) 63 q → q + 8 ≤ hbmTop) ∧
    (∀ q, ¬(LeafPlace (coming true false) 63 q 65536 ∧ LeafPlace (coming true false) 63 q (2 ^ 29))) ∧
    (∀ b n q, ToScrub (coming true false) 63 b n → TablePlace (coming true false) 63 q →
      Apart (entryAddr true ((coming true false).home64 b)) n q 8) ∧
    Apart 0x20000000 (2 ^ 29) 0x10000 (5120 * 16) ∧ Apart 0x10000 (5120 * 16) 0x50000 8 := by
  have hl : entryAddr true ((coming true false).home64 (0x50000 + 8 * 0)) = 0x20000000 := by decide +kernel
  refine ⟨⟨⟨0, 0, by omega, by omega, by decide +kernel, .inl ⟨rfl, by decide +kernel, by decide +kernel⟩⟩, by decide +kernel,
    by decide +kernel, by decide +kernel, by decide +kernel, by decide +kernel, .inr (by decide +kernel), by decide +kernel⟩,
    fun q h => ?_, fun q h => ?_, fun b n q h hq => ?_, .inr (by omega), .inl (by omega)⟩
  · unfold hbmTop
    obtain h | ⟨j, hj, rfl⟩ := coming_place h <;> omega
  · have := (coming_leaf h.1).1
    omega
  · obtain ⟨rfl, j, hj, rfl⟩ := coming_leaf h.1
    obtain rfl := (coming_second j).2 h.2.1
    rw [hl]
    right
    obtain h | ⟨j, hj, rfl⟩ := coming_place hq <;> omega

/-- HostRequestsAreServed, the pending-bit array of a live function; StartsRunTheirSteps, the sixth step with a port that it
trains and one that it does not, a clock in holdover, a saved set that verifies. -/
theorem test_witness_started :
    (hosted 0 0#64).start.ready = true ∧ ((hosted 0 0#64).part 1).live = true ∧ 2 ≤ (hosted 0 0#64).start.step ∧
    (let s := { linked copyFoal with clock := ⟨true, true, none, 0⟩ }
     let r : StepReport := { ok := true, lock := none, ports := [23] }
     23 ∈ r.ports ∧ 0 ∉ r.ports ∧ (s.port 0).linkup = true ∧ (s.port 0).cfg.getLsbD 0 = true ∧ s.records = [] ∧
       s.clock.holdover = true ∧ (timed ⟨false, false, none, 0⟩).clock.holdover = false) := by
  decide +kernel
theorem test_witness_trained (h : Config.verifies 0 (sha3 []) [] = true) :
    ({ running team with start := { State.reset.start with kind := 2, step := 2, busy := true, trained := some ⟨0, [], []⟩ } } :
      State).setVerifies = true := h
end Sys2Proof.Tests
end

section
/-! The encoding: every well-formed instruction's words decode to it (O4), and words written out from the encodings (O3). -/

namespace Sys2Proof.Laws.RoundTrip

open Sys2Proof

/-- The round trip of Laws/PerInstr.lean, put together over the constructors; an event row is never well-formed. -/
theorem statement : ∀ i : Instr, Statement i
  | .br sw o => br sw o | .brS1 sw o => brS1 sw o | .brS0 sw o => brS0 sw o | .brEz sw o => brEz sw o
  | .call sw o => call sw o | .jmp sw a => jmp sw a | .jmpl sw a => jmpl sw a | .ret sw => ret sw
  | .mpush sw m => mpush sw m | .mpop sw => mpop sw | .melse sw => melse sw | .mdepth sw d => mdepth sw d
  | .mand sw m => mand sw m | .mload sw m => mload sw m | .msave sw m => msave sw m | .mandn sw m => mandn sw m
  | .mrd sw d m p => mrd sw d m p | .mwr sw d m p => mwr sw d m p | .mpopc sw d m => mpopc sw d m
  | .mffs sw d m => mffs sw d m | .lpack sw => lpack sw | .lunpack sw => lunpack sw | .lperm sw d => lperm sw d
  | .barSync sw b n => barSync sw b n | .barArv sw b n => barArv sw b n | .barWt sw b => barWt sw b
  | .exit sw => exit sw | .exitD sw => exitD sw | .nop sw => nop sw | .yield sw => yield sw
  | .sleep sw i => sleep sw i | .sadd sw d b a => sadd sw d b a | .ssub sw d b a => ssub sw d b a
  | .smul sw d b a => smul sw d b a | .smulh sw d b a => smulh sw d b a | .saddi sw d i => saddi sw d i
  | .smovi sw d i => smovi sw d i | .slui sw d i => slui sw d i | .sori sw d i => sori sw d i
  | .sand sw d b a => sand sw d b a | .sor sw d b a => sor sw d b a | .sxor sw d b a => sxor sw d b a
  | .sandn sw d b a => sandn sw d b a | .sshl sw d b a => sshl sw d b a | .sshr sw d b a => sshr sw d b a
  | .ssar sw d b a => ssar sw d b a | .srot sw d b a => srot sw d b a | .scmpeq sw b a => scmpeq sw b a
  | .scmplt sw b a => scmplt sw b a | .scmpltn sw b a => scmpltn sw b a | .scmple sw b a => scmple sw b a
  | .ssel sw d b a => ssel sw d b a | .smin sw d b a => smin sw d b a | .smax sw d b a => smax sw d b a
  | .sminn sw d b a => sminn sw d b a | .spopc sw d a => spopc sw d a | .sclz sw d a => sclz sw d a
  | .sctz sw d a => sctz sw d a | .sbrev sw d a => sbrev sw d a | .sdiv sw d b a => sdiv sw d b a
  | .sdivn sw d b a => sdivn sw d b a | .srem sw d b a => srem sw d b a | .sremn sw d b a => sremn sw d b a
  | .sget sw d i => sget sw d i | .sset sw d i => sset sw d i | .srdln sw d b a => srdln sw d b a
  | .swrln sw d b a => swrln sw d b a | .rclock sw d => rclock sw d | .rtime sw d => rtime sw d
  | .timer sw a => timer sw a | .timera sw a => timera sw a | .scmpieq sw d i => scmpieq sw d i
  | .scmpilt sw d i => scmpilt sw d i | .scmpiltn sw d i => scmpiltn sw d i | .viaddI32 sw d b a => viaddI32 sw d b a
  | .viaddI16x2 sw d b a => viaddI16x2 sw d b a | .viaddI8x4 sw d b a => viaddI8x4 sw d b a
  | .viaddS32sat sw d b a => viaddS32sat sw d b a | .visubI32 sw d b a => visubI32 sw d b a
  | .visubI16x2 sw d b a => visubI16x2 sw d b a | .visubI8x4 sw d b a => visubI8x4 sw d b a
  | .visubS32sat sw d b a => visubS32sat sw d b a | .vimulLo sw d b a => vimulLo sw d b a
  | .vimulHs sw d b a => vimulHs sw d b a | .vimulHn sw d b a => vimulHn sw d b a
  | .vimulI16x2 sw d b a => vimulI16x2 sw d b a | .vimadI32 sw d b a => vimadI32 sw d b a
  | .vimadI16x2 sw d b a => vimadI16x2 sw d b a | .vimadDot4s8 sw d b a => vimadDot4s8 sw d b a
  | .vimadDot4n8 sw d b a => vimadDot4n8 sw d b a | .vlogAnd sw d b a => vlogAnd sw d b a
  | .vlogOr sw d b a => vlogOr sw d b a | .vlogXor sw d b a => vlogXor sw d b a
  | .vlogAndn sw d b a => vlogAndn sw d b a | .vshfShl sw d b a => vshfShl sw d b a
  | .vshfShr sw d b a => vshfShr sw d b a | .vshfSar sw d b a => vshfSar sw d b a
  | .vshfRot sw d b a => vshfRot sw d b a | .vshfiShl sw d b i => vshfiShl sw d b i
  | .vshfiShr sw d b i => vshfiShr sw d b i | .vshfiSar sw d b i => vshfiSar sw d b i
  | .vshfiRot sw d b i => vshfiRot sw d b i | .viminS32min sw d b a => viminS32min sw d b a
  | .viminN32min sw d b a => viminN32min sw d b a | .viminS32max sw d b a => viminS32max sw d b a
  | .viminN32max sw d b a => viminN32max sw d b a | .vbitPopc sw d a => vbitPopc sw d a
  | .vbitClz sw d a => vbitClz sw d a | .vbitBrev sw d a => vbitBrev sw d a | .vbitFfs sw d a => vbitFfs sw d a
  | .vicmpS32 sw l c b a => vicmpS32 sw l c b a | .vicmpN32 sw l c b a => vicmpN32 sw l c b a
  | .vselLm0 sw d b a => vselLm0 sw d b a | .vselLm1 sw d b a => vselLm1 sw d b a
  | .vselLm2 sw d b a => vselLm2 sw d b a | .vselLm3 sw d b a => vselLm3 sw d b a | .vmov sw d a => vmov sw d a
  | .vsx16 sw d a => vsx16 sw d a | .vsx8 sw d a => vsx8 sw d a | .vzx16 sw d a => vzx16 sw d a
  | .vfaddF32 sw d b a => vfaddF32 sw d b a | .vfaddF16x2 sw d b a => vfaddF16x2 sw d b a
  | .vfaddBf16x2 sw d b a => vfaddBf16x2 sw d b a | .vfsubF32 sw d b a => vfsubF32 sw d b a
  | .vfsubF16x2 sw d b a => vfsubF16x2 sw d b a | .vfsubBf16x2 sw d b a => vfsubBf16x2 sw d b a
  | .vfmulF32 sw d b a => vfmulF32 sw d b a | .vfmulF16x2 sw d b a => vfmulF16x2 sw d b a
  | .vfmulBf16x2 sw d b a => vfmulBf16x2 sw d b a | .vfmaF32 sw d b a => vfmaF32 sw d b a
  | .vfmaF16x2 sw d b a => vfmaF16x2 sw d b a | .vfmaBf16x2 sw d b a => vfmaBf16x2 sw d b a
  | .vfminF32 sw d b a => vfminF32 sw d b a | .vfmaxF32 sw d b a => vfmaxF32 sw d b a
  | .vfminF16x2 sw d b a => vfminF16x2 sw d b a | .vfmaxF16x2 sw d b a => vfmaxF16x2 sw d b a
  | .vfcmpF32 sw l c b a => vfcmpF32 sw l c b a | .vfcmpF16 sw l c b a => vfcmpF16 sw l c b a
  | .vfcmpBf16 sw l c b a => vfcmpBf16 sw l c b a | .vfcvtRne sw d k a => vfcvtRne sw d k a
  | .vfcvtRtz sw d k a => vfcvtRtz sw d k a | .vfcvtDn sw d k a => vfcvtDn sw d k a
  | .vfcvtUp sw d k a => vfcvtUp sw d k a | .vrcp sw d a => vrcp sw d a | .vrsq sw d a => vrsq sw d a
  | .vex2 sw d a => vex2 sw d a | .vlg2 sw d a => vlg2 sw d a | .vsinpi sw d a => vsinpi sw d a
  | .vcospi sw d a => vcospi sw d a | .vsqrt sw d a => vsqrt sw d a | .vtanh sw d a => vtanh sw d a
  | .vfrndRne sw d a => vfrndRne sw d a | .vfrndRtz sw d a => vfrndRtz sw d a
  | .vfrndFloor sw d a => vfrndFloor sw d a | .vfrndCeil sw d a => vfrndCeil sw d a
  | .vfdotDot2bf16 sw d b a => vfdotDot2bf16 sw d b a | .vfdotDot2f16 sw d b a => vfdotDot2f16 sw d b a
  | .vfdotDot4f8e4 sw d b a => vfdotDot4f8e4 sw d b a | .vfdotDot4f8e5 sw d b a => vfdotDot4f8e5 sw d b a
  | .vmaxiMax sw d b a => vmaxiMax sw d b a | .vmaxiMin sw d b a => vmaxiMin sw d b a
  | .vpackF16x2 sw d b a => vpackF16x2 sw d b a | .vpackBf16x2 sw d b a => vpackBf16x2 sw d b a
  | .vpackS16x2sat sw d b a => vpackS16x2sat sw d b a | .vexpd sw d p a => vexpd sw d p a
  | .vhashCrc32c sw d b a => vhashCrc32c sw d b a | .vhashMix32 sw d b a => vhashMix32 sw d b a
  | .vshflIdx sw d b a => vshflIdx sw d b a | .vshflXor sw d b a => vshflXor sw d b a
  | .vshflUp sw d b a => vshflUp sw d b a | .vshflDown sw d b a => vshflDown sw d b a
  | .vredAdd sw d t a => vredAdd sw d t a | .vredMax sw d t a => vredMax sw d t a
  | .vredMin sw d t a => vredMin sw d t a | .vredMaxi sw d t a => vredMaxi sw d t a
  | .vscanInclAddS32 sw d a => vscanInclAddS32 sw d a | .vscanExclAddS32 sw d a => vscanExclAddS32 sw d a
  | .vscanInclAddF32 sw d a => vscanInclAddF32 sw d a | .vscanInclMaxi sw d a => vscanInclMaxi sw d a
  | .ballot sw l a => ballot sw l a | .mpre sw l d => mpre sw l d | .vany sw a => vany sw a | .vall sw a => vall sw a
  | .ldvB8 sw d b i => ldvB8 sw d b i | .ldvB16 sw d b i => ldvB16 sw d b i | .ldvB32 sw d b i => ldvB32 sw d b i
  | .ldvB64 sw d b i => ldvB64 sw d b i | .ldvsS8 sw d b i => ldvsS8 sw d b i | .ldvsS16 sw d b i => ldvsS16 sw d b i
  | .ldgB8 sw k d b x => ldgB8 sw k d b x | .ldgB16 sw k d b x => ldgB16 sw k d b x
  | .ldgB32 sw k d b x => ldgB32 sw k d b x | .ldgB64 sw k d b x => ldgB64 sw k d b x
  | .stvB8 sw d b i => stvB8 sw d b i | .stvB16 sw d b i => stvB16 sw d b i | .stvB32 sw d b i => stvB32 sw d b i
  | .stvB64 sw d b i => stvB64 sw d b i | .stgB8 sw k d b x => stgB8 sw k d b x
  | .stgB16 sw k d b x => stgB16 sw k d b x | .stgB32 sw k d b x => stgB32 sw k d b x
  | .stgB64 sw k d b x => stgB64 sw k d b x | .ldsB8 sw d b i => ldsB8 sw d b i | .ldsB16 sw d b i => ldsB16 sw d b i
  | .ldsB32 sw d b i => ldsB32 sw d b i | .ldsB64 sw d b i => ldsB64 sw d b i | .stsB8 sw d b i => stsB8 sw d b i
  | .stsB16 sw d b i => stsB16 sw d b i | .stsB32 sw d b i => stsB32 sw d b i | .stsB64 sw d b i => stsB64 sw d b i
  | .ldspB8 sw k d b x => ldspB8 sw k d b x | .ldspB16 sw k d b x => ldspB16 sw k d b x
  | .ldspB32 sw k d b x => ldspB32 sw k d b x | .ldspB64 sw k d b x => ldspB64 sw k d b x
  | .stspB8 sw k d b x => stspB8 sw k d b x | .stspB16 sw k d b x => stspB16 sw k d b x
  | .stspB32 sw k d b x => stspB32 sw k d b x | .stspB64 sw k d b x => stspB64 sw k d b x
  | .sldspB32 sw d b i => sldspB32 sw d b i | .sldspB64 sw d b i => sldspB64 sw d b i
  | .sstspB32 sw d b i => sstspB32 sw d b i | .sstspB64 sw d b i => sstspB64 sw d b i
  | .atomAddI32 sw o c d a => atomAddI32 sw o c d a | .atomAddF32 sw o c d a => atomAddF32 sw o c d a
  | .atomMinS32 sw o c d a => atomMinS32 sw o c d a | .atomMaxS32 sw o c d a => atomMaxS32 sw o c d a
  | .atomMinN32 sw o c d a => atomMinN32 sw o c d a | .atomMaxN32 sw o c d a => atomMaxN32 sw o c d a
  | .atomAnd sw o c d a => atomAnd sw o c d a | .atomOr sw o c d a => atomOr sw o c d a
  | .atomXor sw o c d a => atomXor sw o c d a | .atomExch sw o c d a => atomExch sw o c d a
  | .atomCas sw o c d a => atomCas sw o c d a | .atomMaxi sw o c d a => atomMaxi sw o c d a
  | .atomAddF16x2 sw o c d a => atomAddF16x2 sw o c d a | .atomAddI64 sw o c d a => atomAddI64 sw o c d a
  | .atomsAddI32 sw o c d a => atomsAddI32 sw o c d a | .atomsAddF32 sw o c d a => atomsAddF32 sw o c d a
  | .atomsMinS32 sw o c d a => atomsMinS32 sw o c d a | .atomsMaxS32 sw o c d a => atomsMaxS32 sw o c d a
  | .atomsMinN32 sw o c d a => atomsMinN32 sw o c d a | .atomsMaxN32 sw o c d a => atomsMaxN32 sw o c d a
  | .atomsAnd sw o c d a => atomsAnd sw o c d a | .atomsOr sw o c d a => atomsOr sw o c d a
  | .atomsXor sw o c d a => atomsXor sw o c d a | .atomsExch sw o c d a => atomsExch sw o c d a
  | .atomsCas sw o c d a => atomsCas sw o c d a | .atomsMaxi sw o c d a => atomsMaxi sw o c d a
  | .atomsAddF16x2 sw o c d a => atomsAddF16x2 sw o c d a | .atomsAddI64 sw o c d a => atomsAddI64 sw o c d a
  | .redAddI32 sw o c d a => redAddI32 sw o c d a | .redAddF32 sw o c d a => redAddF32 sw o c d a
  | .redMinS32 sw o c d a => redMinS32 sw o c d a | .redMaxS32 sw o c d a => redMaxS32 sw o c d a
  | .redMinN32 sw o c d a => redMinN32 sw o c d a | .redMaxN32 sw o c d a => redMaxN32 sw o c d a
  | .redAnd sw o c d a => redAnd sw o c d a | .redOr sw o c d a => redOr sw o c d a
  | .redXor sw o c d a => redXor sw o c d a | .redMaxi sw o c d a => redMaxi sw o c d a
  | .redAddF16x2 sw o c d a => redAddF16x2 sw o c d a | .redAddI64 sw o c d a => redAddI64 sw o c d a
  | .ldaB16 sw o c d a => ldaB16 sw o c d a | .ldaB32 sw o c d a => ldaB32 sw o c d a
  | .ldaB64 sw o c d a => ldaB64 sw o c d a | .stlB16 sw o c d a => stlB16 sw o c d a
  | .stlB32 sw o c d a => stlB32 sw o c d a | .stlB64 sw o c d a => stlB64 sw o c d a
  | .fenceAcq sw c => fenceAcq sw c | .fenceRel sw c => fenceRel sw c | .fenceAr sw c => fenceAr sw c
  | .fenceSc sw c => fenceSc sw c | .lcpy4 sw d b v => lcpy4 sw d b v | .lcpy8 sw d b v => lcpy8 sw d b v
  | .lcpy16 sw d b v => lcpy16 sw d b v | .lcpy32 sw d b v => lcpy32 sw d b v | .waitvEq sw a v => waitvEq sw a v
  | .waitvNe sw a v => waitvNe sw a v | .waitvGe sw a v => waitvGe sw a v | .waitvLt sw a v => waitvLt sw a v
  | .prefL2 sw b i => prefL2 sw b i | .prefL1 sw b i => prefL1 sw b i | .prefGinv sw b i => prefGinv sw b i
  | .prefWb sw b i => prefWb sw b i | .mmaDense sw d a b fx => mmaDense sw d a b fx
  | .mmaSp sw d a b fx => mmaSp sw d a b fx | .mmaZ sw d a b fx => mmaZ sw d a b fx
  | .tmmaAcc sw r m n fx => tmmaAcc sw r m n fx | .tmmaZ sw r m n fx => tmmaZ sw r m n fx
  | .tlda sw d a w p => tlda sw d a w p | .tldb sw d a w p => tldb sw d a w p | .tstd sw d a w p => tstd sw d a w p
  | .tldd sw d a w p => tldd sw d a w p | .cpyGs sw r b fx => cpyGs sw r b fx | .cpySg sw r b fx => cpySg sw r b fx
  | .cpyGg sw r b fx => cpyGg sw r b fx | .cpySs sw r b fx => cpySs sw r b fx
  | .cplFill sw r g fx => cplFill sw r g fx | .cplDrain sw r g fx => cplDrain sw r g fx | .lcseal sw t => lcseal sw t
  | .collAr sw r b fx => collAr sw r b fx | .collAg sw r b fx => collAg sw r b fx
  | .collRs sw r b fx => collRs sw r b fx | .collBc sw r b fx => collBc sw r b fx | .fwait sw d b => fwait sw d b
  | .fwaitT sw d b => fwaitT sw d b | .ftest sw d b => ftest sw d b | .fwaitall sw d => fwaitall sw d
  | .fcancel sw b => fcancel sw b | .fdetach sw b => fdetach sw b | .fprio sw b a => fprio sw b a
  | .fstat sw d b a => fstat sw d b a | .pwrhD sw i o l => pwrhD sw i o l | .pwrhX sw l => pwrhX sw l
  | .pwrhE sw => pwrhE sw | .pwrhQ sw => pwrhQ sw | .racq sw d b => racq sw d b | .rrel sw b => rrel sw b
  | .rinit sw b a => rinit sw b a | .rstat sw d b => rstat sw d b | .tbinit sw b a => tbinit sw b a
  | .tbarv sw d b => tbarv sw d b | .tbwait sw d b a => tbwait sw d b a | .tbexp sw b a => tbexp sw b a
  | .qpostL sw d b a => qpostL sw d b a | .qpostR sw d b a => qpostR sw d b a | .qpostS sw d b a => qpostS sw d b a
  | .rtake sw d => rtake sw d | .rsplit sw d => rsplit sw d | .rdone sw b => rdone sw b
  | .cntAdd sw d l a => cntAdd sw d l a | .cntWait sw d l a => cntWait sw d l a | .cntRd sw d l a => cntRd sw d l a
  | .cntCncl sw l a => cntCncl sw l a | .trap sw i => trap sw i | .brk sw i => brk sw i | .halt sw => halt sw
  | .csrr sw d a => csrr sw d a | .csrw sw d b a => csrw sw d b a | .csrs sw d b a => csrs sw d b a
  | .csrc sw d b a => csrc sw d b a | .eret sw => eret sw | .tlbiVa sw a => tlbiVa sw a
  | .tlbiPart sw a => tlbiPart sw a | .tlbiAll sw => tlbiAll sw | .tlbiSync sw => tlbiSync sw
  | .mrdc sw d a => mrdc sw d a | .msign sw d b a => msign sw d b a | .rctxRd sw d b a => rctxRd sw d b a
  | .rctxWr sw d b a => rctxWr sw d b a | .rctxResume sw d b a => rctxResume sw d b a
  | .rctxKill sw d b a => rctxKill sw d b a | .switchArm sw d b => switchArm sw d b
  | .switchUrgent sw d b => switchUrgent sw d b | .switchCancel sw d a => switchCancel sw d a
  | .partCreate sw d b a => partCreate sw d b a | .partDestroy sw d a => partDestroy sw d a
  | .partBitmap sw d b a => partBitmap sw d b a | .partWays sw d b a => partWays sw d b a
  | .capr sw d a => capr sw d a | .clauseFetch => clauseFetch | .parkResume x0 => parkResume x0
  | .loadReturn x0 x1 x2 => loadReturn x0 x1 x2 | .storeAck x0 x1 => storeAck x0 x1
  | .homeWriteApply x0 x1 x2 => homeWriteApply x0 x1 x2 | .guestInvalidation x0 => guestInvalidation x0
  | .lineFill x0 => lineFill x0 | .translationWalkComplete x0 x1 x2 => translationWalkComplete x0 x1 x2
  | .laneCopyLand x0 x1 => laneCopyLand x0 x1 | .sleepEnd x0 => sleepEnd x0 | .timerFire x0 => timerFire x0
  | .watchdogExpire x0 => watchdogExpire x0 | .faultRecordSend x0 => faultRecordSend x0
  | .matrixStep x0 => matrixStep x0 | .copySectorIssue x0 x1 => copySectorIssue x0 x1
  | .copySectorLand x0 x1 x2 => copySectorLand x0 x1 x2 | .cplIterationStart x0 x1 => cplIterationStart x0 x1
  | .collChunkSend x0 x1 => collChunkSend x0 x1 | .fabricChunkReceive x0 x1 => fabricChunkReceive x0 x1
  | .fabricAckReceive x0 x1 => fabricAckReceive x0 x1 | .fabricRefusalReceive x0 x1 => fabricRefusalReceive x0 x1
  | .fabricNoticeReceive x0 x1 => fabricNoticeReceive x0 x1 | .trapRecordReceive x0 x1 => trapRecordReceive x0 x1
  | .trapReplyReceive x0 x1 => trapReplyReceive x0 x1 | .linkAckFrameReceive x0 x1 => linkAckFrameReceive x0 x1
  | .frameForward x0 x1 => frameForward x0 x1 | .linkRetryTimeout x0 => linkRetryTimeout x0
  | .portLinkUp x0 => portLinkUp x0 | .ackResendTimer x0 => ackResendTimer x0
  | .ptpSyncReceive x0 x1 => ptpSyncReceive x0 x1 | .ptpPdelayReqReceive x0 x1 => ptpPdelayReqReceive x0 x1
  | .ptpPdelayRespReceive x0 x1 => ptpPdelayRespReceive x0 x1
  | .ptpPdelayRespFollowUp x0 x1 => ptpPdelayRespFollowUp x0 x1
  | .ptpManagementReceive x0 x1 => ptpManagementReceive x0 x1 | .ptpSyncInterval x0 => ptpSyncInterval x0
  | .ptpPdelayReqInterval x0 => ptpPdelayReqInterval x0 | .holdoverEnter => holdoverEnter | .ptpLock x0 => ptpLock x0
  | .heartbeatSend => heartbeatSend | .heartbeatReceive x0 x1 x2 => heartbeatReceive x0 x1 x2
  | .heartbeatLoss => heartbeatLoss | .voteRequestReceive x0 x1 => voteRequestReceive x0 x1
  | .voteReceive x0 x1 x2 => voteReceive x0 x1 x2 | .timetablePageReceive x0 x1 => timetablePageReceive x0 x1
  | .urgentRequestReceive x0 x1 x2 x3 => urgentRequestReceive x0 x1 x2 x3 | .injectionStop x0 => injectionStop x0
  | .switchStart x0 => switchStart x0 | .haltComplete x0 => haltComplete x0
  | .drainWindowClose x0 => drainWindowClose x0 | .contextSaveComplete x0 => contextSaveComplete x0
  | .contextRestore x0 x1 x2 => contextRestore x0 x1 x2 | .overrunHoldEnd x0 => overrunHoldEnd x0
  | .switchWatchdogExpire x0 => switchWatchdogExpire x0 | .slotEnd x0 => slotEnd x0
  | .usageRecordPeriodic x0 => usageRecordPeriodic x0 | .coreSwitchOut x0 => coreSwitchOut x0
  | .coreSwitchIn x0 x1 x2 => coreSwitchIn x0 x1 x2 | .controlIntervalBoundary x0 => controlIntervalBoundary x0
  | .powerWindowStart x0 => powerWindowStart x0 | .powerWindowEnd x0 => powerWindowEnd x0
  | .undeclaredThrottleEnd x0 x1 => undeclaredThrottleEnd x0 x1 | .queuePop x0 => queuePop x0
  | .signalPacketWrite x0 x1 => signalPacketWrite x0 x1 | .queueTranslationRetry x0 => queueTranslationRetry x0
  | .workgroupPlace x0 x1 => workgroupPlace x0 x1 | .controlEventException x0 => controlEventException x0
  | .partCreateComplete x0 => partCreateComplete x0 | .l2TagError x0 x1 x2 x3 => l2TagError x0 x1 x2 x3
  | .l2DataError x0 x1 x2 => l2DataError x0 x1 x2 | .hbm4Uncorrectable x0 => hbm4Uncorrectable x0
  | .copySramError x0 => copySramError x0 | .hostMemoryWrite x0 x1 x2 x3 x4 => hostMemoryWrite x0 x1 x2 x3 x4
  | .hostMemoryRead x0 x1 x2 x3 x4 => hostMemoryRead x0 x1 x2 x3 x4
  | .hostConfigRequest x0 x1 x2 => hostConfigRequest x0 x1 x2 | .msixVectorUnmask x0 x1 => msixVectorUnmask x0 x1
  | .attestGo x0 => attestGo x0 | .attestComplete x0 => attestComplete x0 | .startRequest x0 => startRequest x0
  | .portcfgWrite x0 x1 => portcfgWrite x0 x1 | .registerWrite x0 x1 => registerWrite x0 x1 | .powerOn => powerOn
  | .startStepComplete x0 => startStepComplete x0 | .thermalShutdown => thermalShutdown
  | .flowShutdown => flowShutdown | .supplyOutOfRange x0 => supplyOutOfRange x0
  | .reservedOpcodeIssue x0 => reservedOpcodeIssue x0 | .partDestroyComplete x0 => partDestroyComplete x0
  | .badFcsFrameReceive x0 => badFcsFrameReceive x0 | .coolantOutOfRange => coolantOutOfRange
  | .operatingConditionsRestored => operatingConditionsRestored

end Sys2Proof.Laws.RoundTrip

/-- Settles O4: the round trip of each constructor. -/
theorem encodedInstructionsDecodeBack : Obligations.EncodedInstructionsDecodeBack :=
  Sys2Proof.Laws.RoundTrip.statement

/-- Settles O3: the decoder is run on the nine words. -/
theorem writtenOutWordsDecode : Obligations.WrittenOutWordsDecode := by
  unfold Obligations.WrittenOutWordsDecode
  decide +kernel

end

section
/-! A step and the instruction it runs (O2): the turn of the next hart, and what the checks of a clause word that need no
operand answer (R12-R18, R27, R28). -/

namespace Sys2Proof.Machine

/-- OP of a word as a number. -/
theorem opcode_toNat (w : Word) : (w.extractLsb' 24 7).toNat = w.toNat / 2 ^ 24 % 128 := by
  simp [BitVec.extractLsb'_toNat, Nat.shiftRight_eq_div_pow]

/-- With nothing due, no input and no access to go on with, the next hart takes its turn (log 4). -/
theorem step_eq_turn {s : State} {h : Nat} (hd : s.due = none) (ha : s.agenda = [])
    (hw : s.workTeam s.cur (s.team s.cur) = none) (hn : s.nextHart = some h) : step s = s.turn h := by
  simp only [step, hd, ha, State.proceed, hw, hn]

section
variable {ex : Instr → State → Out} {s : State} {h : Nat} {c : Ctx} {cl : Clause} {w : Word} {rest : List Word}

/-- R27: a word without a form. -/
theorem issueWith_opcode (hw : cl.words.drop c.widx = w :: rest) (hd : decode w rest.head? = .opcode) :
    issueWith ex s h c cl = .next (s.raise h .illegalOpcode 1) := by
  simp only [issueWith, hw, hd]

/-- R15: a word whose second word is not in the clause. -/
theorem issueWith_missing (hw : cl.words.drop c.widx = w :: rest) (hd : decode w rest.head? = .missing)
    (ht : ¬(c.kind = .thread ∧ teamWord w = true)) : issueWith ex s h c cl = .next (s.raise h .illegalClause 1) := by
  simp [issueWith, hw, hd, ht]

/-- R28: a field that no operand can hold, in a clause of the word's class. -/
theorem issueWith_operand (hw : cl.words.drop c.widx = w :: rest) (hd : decode w rest.head? = .operand)
    (ht : ¬(c.kind = .thread ∧ teamWord w = true)) (hc : opClass (w.toNat / 2 ^ 24 % 128) = cl.cls) :
    issueWith ex s h c cl = .next (s.raise h .illegalOperand 1) := by
  simp only [issueWith, hw, hd, opcode_toNat, hc]
  rw [if_neg (by simpa using ht)]
  simp

/-- R13, R18, R28: an instruction, past the checks of its class and of its place in the clause. -/
theorem issueWith_ok {i : Instr} {n : Nat} (hw : cl.words.drop c.widx = w :: rest) (hd : decode w rest.head? = .ok i n)
    (ht : ¬(c.kind = .thread ∧ teamWord w = true)) : issueWith ex s h c cl =
      if opClass (w.toNat / 2 ^ 24 % 128) ≠ cl.cls ∨ (Instr.isTransfer i = true ∧ c.widx + n ≠ cl.words.length) then
        .next (s.raise h .illegalClause n) else ex i s := by
  simp only [issueWith, hw, hd, opcode_toNat]
  rw [if_neg (by simpa using ht)]
  generalize opClass (w.toNat / 2 ^ 24 % 128) = k
  by_cases hc : k = cl.cls <;> simp [hc]
end
end Sys2Proof.Machine

open Sys2Proof Sys2Proof.Machine

/-- Settles O2: the turn of the hart that may issue, by what its clause word decodes to. -/
theorem stepRunsTheDecodedInstruction : Obligations.StepRunsTheDecodedInstruction := by
  unfold Obligations.StepRunsTheDecodedInstruction
  intro s h a c follows hdue ⟨hagenda, hwork, hnext⟩
  have hstep : step s = follows (a.stepHart h) := step_eq_turn hdue hagenda hwork hnext
  refine ⟨fun hc => ?_, fun cl hc hr => ?_, fun cl w rest hc hr hw => ?_⟩
  · have : a.stepHart h = .next (a.fetchClause h) := by simp only [State.stepHart, show a.ctx h = c from rfl, hc]
    rw [hstep, this]
  · have : a.stepHart h = .next (a.refetchClause h cl) := by
      simp only [State.stepHart, show a.ctx h = c from rfl, hc, hr, if_true]
    rw [hstep, this]
  · have hissue : step s = follows (issueWith exec a h c cl) := by
      rw [hstep]
      simp only [State.stepHart, show a.ctx h = c from rfl, hc, hr, Bool.false_eq_true, if_false]
    intro allowed
    refine ⟨fun i n hd => ⟨fun hp ht hcls => ?_, fun htr hp ht hcls => ?_, fun ht hcls => ?_⟩, fun hd => ?_,
      fun hd ht => ?_, fun hd ht hcls => ?_⟩
    · rw [hissue, issueWith_ok hw hd ht, if_neg]
      rintro (hne | ⟨htr, hne⟩)
      · exact hne hcls
      · exact hp.elim (fun hf => Bool.false_ne_true (hf.symm.trans htr)) hne
    · rw [hissue, issueWith_ok hw hd ht, if_pos (.inr ⟨htr, hp⟩)]
    · rw [hissue, issueWith_ok hw hd ht, if_pos (.inl hcls)]
    · rw [hissue, issueWith_opcode hw hd]
    · rw [hissue, issueWith_missing hw hd ht]
    · rw [hissue, issueWith_operand hw hd ht hcls]

end

section
/-! The checks before an instruction (O1): every instruction starts with the checks of a `Need`; what they are, and how each
fails (R24, R28, R33, R42, R228). -/

namespace Sys2Proof.Machine

open Sys2Proof.Claims

/-- `o` runs the decode checks of `n` before anything else (R28). -/
def Begins (n : Need) (s : State) (o : Out) : Prop := ∃ k, o = begin n s k

/-- The forms that check their registers and park for them by themselves (R183). -/
def isMma : Instr → Bool
  | .mmaDense .. | .mmaSp .. | .mmaZ .. => true
  | _ => false

/-- Opcodes of which every word is in the supervisor profile (R228). -/
def profileOps : List (BitVec 7) :=
  [0x02, 0x03, 0x0A, 0x0B, 0x0C, 0x0D, 0x0E, 0x0F, 0x10, 0x11, 0x12, 0x16, 0x3B, 0x3C, 0x45, 0x47, 0x48, 0x58, 0x59, 0x5A,
    0x5B, 0x5C, 0x5D, 0x5E, 0x5F, 0x60]

theorem teamWord_of_profileOps {w : Word} (h : profileOps.contains (w.extractLsb' 24 7) = true) : teamWord w = false := by
  unfold teamWord
  generalize w.extractLsb' 22 2 = fn
  generalize w.extractLsb' 24 7 = op at h ⊢
  revert op fn
  decide

theorem teamWord_zero : teamWord 0#32 = false := by decide

/-- What the checks of an instruction are before it executes, with outcome `o`: a form of the supervisor profile (or an
event) that names no vector register, a form for teams that names none, or one that does (R28, R33, R228). -/
inductive Form (i : Instr) (s : State) : Out → Prop
  | profile {o : Out} (word : teamWord ((encode i).headD 0#32) = false) (regs : vectorRegisters i = [])
    (legal : operandsLegal i = true) : Form i s o
  | team {n : Need} {o : Out} (begins : Begins n s o) (teamOnly : n.teamOnly = true)
    (regs : vectorRegisters i = []) (legal : operandsLegal i = true) : Form i s o
  | vector {n : Need} {o : Out} (begins : Begins n s o) (teamOnly : n.teamOnly = true) (level : n.level = 0)
    (regs : n.regs = vectorRegisters i) (legal : n.legal = operandsLegal i) (hold : n.hold = !isMma i) : Form i s o

/-! ### Operations whose checks depend on their operands -/

theorem tbarOp_begins (b : SReg) (a : Option Src) (s : State) (k : State → Nat → Nat → Out) :
    Begins { (a.elim need1 needS) with teamOnly := true } s (tbarOp b a s k) := by
  cases a <;> (unfold tbarOp; exact ⟨_, rfl⟩)

theorem mmaOp_begins (f : MmaForm) (sw : Bool) (d a b : VReg) (fx : Fx) (s : State) :
    Begins { len := 2, teamOnly := true, level := 0, legal := true, regs := group d 32 ++ group a 8, hold := false } s
      (mmaOp f sw d a b fx s) := by
  unfold mmaOp
  exact ⟨_, rfl⟩

theorem tmovOp_begins (store dd wide sw : Bool) (d : VReg) (a : SReg) (w : BitVec 2) (p : BitVec 7) (s : State) :
    Begins (needT ((wide || w == 0#2) && w != 3#2 && (p == 0#7 || rowBytes dd w ≤ 16 * p.toNat))
      (span d (rowBytes dd w / 2))) s (tmovOp store dd wide sw d a w p s) := by
  unfold tmovOp
  exact ⟨_, rfl⟩

/-! ### Legal operand values (R36, R37, R166, R167) -/

theorem scopeOk_eq (c : Scope) : scopeOk c = decide (c ≠ .reserved) := by cases c <;> rfl

theorem scopeNarrow_eq (c : Scope) : scopeNarrow c = decide (c = .team ∨ c = .wg) := by cases c <;> rfl

theorem storeOrder_legal (o : Ord) (c : Scope) :
    (scopeOk c && !ordAcq o) = decide ((o = .relaxed ∨ o = .release) ∧ c ≠ .reserved) := by
  cases o <;> cases c <;> rfl

theorem loadOrder_legal (o : Ord) (c : Scope) :
    (scopeOk c && !ordRel o) = decide ((o = .relaxed ∨ o = .acquire) ∧ c ≠ .reserved) := by
  cases o <;> cases c <;> rfl

/-- The widths of a fragment's elements. -/
theorem fragmentWidth_cases (w : BitVec 2) : w = 0#2 ∨ w = 1#2 ∨ w = 2#2 ∨ w = 3#2 := by
  revert w
  decide

theorem narrowFragment_regs {d : VReg} (w : BitVec 2) :
    span d (rowBytes false w / 2) = group d (if w = 0#2 then 8 else if w = 1#2 then 4 else 3) := by
  rcases fragmentWidth_cases w with rfl | rfl | rfl | rfl <;> rfl

theorem wideFragment_regs {d : VReg} (w : BitVec 2) : span d (rowBytes true w / 2) = group d 32 := by
  simp [span, rowBytes, group]

theorem tlda_legal (w : BitVec 2) (p : BitVec 7) :
    ((false || w == 0#2) && w != 3#2 && (p == 0#7 || rowBytes false w ≤ 16 * p.toNat)) =
      decide (w = 0#2 ∧ (p = 0#7 ∨ 64 ≤ 16 * p.toNat)) := by
  rcases fragmentWidth_cases w with rfl | rfl | rfl | rfl <;> simp [rowBytes, beq_eq_decide]

theorem tldb_legal (w : BitVec 2) (p : BitVec 7) :
    ((true || w == 0#2) && w != 3#2 && (p == 0#7 || rowBytes false w ≤ 16 * p.toNat)) =
      decide (w ≠ 3#2 ∧ (p = 0#7 ∨ (if w = 0#2 then 64 else if w = 1#2 then 32 else 24) ≤ 16 * p.toNat)) := by
  rcases fragmentWidth_cases w with rfl | rfl | rfl | rfl <;> simp [rowBytes, beq_eq_decide]

theorem wideFragment_legal (w : BitVec 2) (p : BitVec 7) :
    ((false || w == 0#2) && w != 3#2 && (p == 0#7 || rowBytes true w ≤ 16 * p.toNat)) =
      decide (w = 0#2 ∧ (p = 0#7 ∨ 256 ≤ 16 * p.toNat)) := by
  rcases fragmentWidth_cases w with rfl | rfl | rfl | rfl <;> simp [rowBytes, beq_eq_decide]

/-- Every instruction has one of the three forms of checks. -/
theorem form_exec (i : Instr) (s : State) : Form i s (exec i s) := by
  unfold exec
  cases i with
  | br | brS1 | brS0 | rtime =>
    refine .profile ?_ rfl rfl
    unfold encode
    simp (disch := decide) only [List.headD_cons, teamWord, field_above, field_inside,
      Nat.reduceSub, BitVec.extractLsb'_eq_self]
    rfl
  | call | jmp | jmpl | ret | nop | yield | sleep | sadd | ssub | smul | smulh | saddi | smovi | slui | sori | sand
  | sor | sxor | sandn | sshl | sshr | ssar | srot | scmpeq | scmplt | scmpltn | scmple | ssel | smin | smax | sminn
  | spopc | sclz | sctz | sbrev | sdiv | sdivn | srem | sremn | scmpieq | scmpilt | scmpiltn | ldsB8 | ldsB16
  | ldsB32 | ldsB64 | stsB8 | stsB16 | stsB32 | stsB64 | fenceAcq | fenceRel | fenceAr | fenceSc | waitvEq | waitvNe
  | waitvGe | waitvLt | prefL2 | prefL1 | prefGinv | prefWb | trap | brk | halt | csrr | csrw | csrs | csrc | eret
  | tlbiVa | tlbiPart | tlbiAll | tlbiSync | mrdc | msign | rctxRd | rctxWr | rctxResume | rctxKill | switchArm
  | switchUrgent | switchCancel | partCreate | partDestroy | partBitmap | partWays | capr =>
    refine .profile (teamWord_of_profileOps ?_) rfl rfl
    unfold encode
    simp (disch := decide) only [List.headD_cons, field_above, field_inside, Nat.reduceSub, BitVec.extractLsb'_eq_self]
    rfl
  | clauseFetch | parkResume | loadReturn | storeAck | homeWriteApply | guestInvalidation | lineFill
  | translationWalkComplete | laneCopyLand | sleepEnd | timerFire | watchdogExpire | faultRecordSend | matrixStep
  | copySectorIssue | copySectorLand | cplIterationStart | collChunkSend | fabricChunkReceive | fabricAckReceive
  | fabricRefusalReceive | fabricNoticeReceive | trapRecordReceive | trapReplyReceive | linkAckFrameReceive
  | frameForward | linkRetryTimeout | portLinkUp | ackResendTimer | ptpSyncReceive | ptpPdelayReqReceive
  | ptpPdelayRespReceive | ptpPdelayRespFollowUp | ptpManagementReceive | ptpSyncInterval | ptpPdelayReqInterval
  | holdoverEnter | ptpLock | heartbeatSend | heartbeatReceive | heartbeatLoss | voteRequestReceive | voteReceive
  | timetablePageReceive | urgentRequestReceive | injectionStop | switchStart | haltComplete | drainWindowClose
  | contextSaveComplete | contextRestore | overrunHoldEnd | switchWatchdogExpire | slotEnd | usageRecordPeriodic
  | coreSwitchOut | coreSwitchIn | controlIntervalBoundary | powerWindowStart | powerWindowEnd
  | undeclaredThrottleEnd | queuePop | signalPacketWrite | queueTranslationRetry | workgroupPlace
  | controlEventException | partCreateComplete | l2TagError | l2DataError | hbm4Uncorrectable | copySramError
  | hostMemoryWrite | hostMemoryRead | hostConfigRequest | msixVectorUnmask | attestGo | attestComplete
  | startRequest | portcfgWrite | registerWrite | powerOn | startStepComplete | thermalShutdown | flowShutdown
  | supplyOutOfRange | reservedOpcodeIssue | partDestroyComplete | badFcsFrameReceive | coolantOutOfRange
  | operatingConditionsRestored => exact .profile teamWord_zero rfl rfl
  | mpush | mpop | melse | mdepth | mwr | barSync | barArv | barWt | exit | exitD | sget | sset | rclock | timer
  | timera | lcseal | ftest | fwaitall | fcancel | fdetach | fprio | fstat | pwrhD | pwrhX | pwrhE | pwrhQ | rinit
  | rstat | cntAdd => exact .team ⟨_, rfl⟩ rfl rfl rfl
  | brEz => exact .team (o := branchIf ..) ⟨_, rfl⟩ rfl rfl rfl
  | mand | mload | msave | mandn => exact .team (o := maskOp ..) ⟨_, rfl⟩ rfl rfl rfl
  | mrd | mpopc | mffs => exact .team (o := maskRead ..) ⟨_, rfl⟩ rfl rfl rfl
  | lpack | lunpack => exact .team (o := placeOp ..) ⟨_, rfl⟩ rfl rfl rfl
  | sldspB32 | sldspB64 => exact .team (o := scalarLoadSp ..) ⟨_, rfl⟩ rfl rfl rfl
  | sstspB32 | sstspB64 => exact .team (o := scalarStoreSp ..) ⟨_, rfl⟩ rfl rfl rfl
  | tmmaAcc | tmmaZ => exact .team (o := tmmaOp ..) ⟨_, rfl⟩ rfl rfl rfl
  | cpyGs | cpySg | cpyGg | cpySs => exact .team (o := cpyOp ..) ⟨_, rfl⟩ rfl rfl rfl
  | cplFill | cplDrain => exact .team (o := cplOp ..) ⟨_, rfl⟩ rfl rfl rfl
  | collAr | collAg | collRs | collBc => exact .team (o := collOp ..) ⟨_, rfl⟩ rfl rfl rfl
  | fwait | fwaitT => exact .team (o := fwaitOp ..) ⟨_, rfl⟩ rfl rfl rfl
  | racq | rrel => exact .team (o := ringOp ..) ⟨_, rfl⟩ rfl rfl rfl
  | tbinit | tbarv | tbwait | tbexp => exact .team (tbarOp_begins ..) rfl rfl rfl
  | qpostL | qpostR | qpostS => exact .team (o := qpostOp ..) ⟨_, rfl⟩ rfl rfl rfl
  | rtake | rsplit | rdone => exact .team (o := rtaskOp ..) ⟨_, rfl⟩ rfl rfl rfl
  | cntWait | cntRd | cntCncl => exact .team (o := cntOp ..) ⟨_, rfl⟩ rfl rfl rfl
  | lperm | srdln | swrln | ballot | mpre | vany | vall => exact .vector ⟨_, rfl⟩ rfl rfl rfl rfl rfl
  | viaddI32 | viaddI16x2 | viaddI8x4 | viaddS32sat | visubI32 | visubI16x2 | visubI8x4 | visubS32sat | vimulLo
  | vimulHs | vimulHn | vimulI16x2 | vimadI32 | vimadI16x2 | vimadDot4s8 | vimadDot4n8 | vlogAnd | vlogOr | vlogXor
  | vlogAndn | vshfShl | vshfShr | vshfSar | vshfRot | viminS32min | viminN32min | viminS32max | viminN32max
  | vmaxiMax | vmaxiMin | vpackS16x2sat | vhashCrc32c | vhashMix32
    => exact .vector (o := vecOp ..) ⟨_, rfl⟩ rfl rfl rfl rfl rfl
  | vshfiShl | vshfiShr | vshfiSar | vshfiRot => exact .vector (o := shiftImm ..) ⟨_, rfl⟩ rfl rfl rfl rfl rfl
  | vbitPopc | vbitClz | vbitBrev | vbitFfs | vmov | vsx16 | vsx8 | vzx16 | vexpd
    => exact .vector (o := vecOp1 ..) ⟨_, rfl⟩ rfl rfl rfl rfl rfl
  | vicmpS32 | vicmpN32 | vfcmpF32 | vfcmpF16 | vfcmpBf16
    => exact .vector (o := vecCmp ..) ⟨_, rfl⟩ rfl rfl rfl rfl rfl
  | vselLm0 | vselLm1 | vselLm2 | vselLm3 => exact .vector (o := selOp ..) ⟨_, rfl⟩ rfl rfl rfl rfl rfl
  | vfaddF32 | vfaddF16x2 | vfaddBf16x2 | vfsubF32 | vfsubF16x2 | vfsubBf16x2 | vfmulF32 | vfmulF16x2 | vfmulBf16x2
  | vfmaF32 | vfmaF16x2 | vfmaBf16x2 | vfminF32 | vfmaxF32 | vfminF16x2 | vfmaxF16x2 | vfdotDot2bf16 | vfdotDot2f16
  | vfdotDot4f8e4 | vfdotDot4f8e5 | vpackF16x2 | vpackBf16x2
    => exact .vector (o := vecFop ..) ⟨_, rfl⟩ rfl rfl rfl rfl rfl
  | vfcvtRne | vfcvtRtz | vfcvtDn | vfcvtUp | vrcp | vrsq | vex2 | vlg2 | vsinpi | vcospi | vsqrt | vtanh | vfrndRne
  | vfrndRtz | vfrndFloor | vfrndCeil => exact .vector (o := vecFop1 ..) ⟨_, rfl⟩ rfl rfl rfl rfl rfl
  | vshflIdx | vshflXor | vshflUp | vshflDown => exact .vector (o := shuffleOp ..) ⟨_, rfl⟩ rfl rfl rfl rfl rfl
  | vredAdd | vredMax | vredMin | vredMaxi => exact .vector (o := reduceOp ..) ⟨_, rfl⟩ rfl rfl rfl rfl rfl
  | vscanInclAddS32 | vscanExclAddS32 | vscanInclAddF32 | vscanInclMaxi
    => exact .vector (o := scanOp ..) ⟨_, rfl⟩ rfl rfl rfl rfl rfl
  | ldvB8 | ldvB16 | ldvB32 | ldvB64 | ldvsS8 | ldvsS16 | ldgB8 | ldgB16 | ldgB32 | ldgB64 | ldspB8 | ldspB16
  | ldspB32 | ldspB64 => exact .vector (o := vecLoad ..) ⟨_, rfl⟩ rfl rfl rfl rfl rfl
  | stvB8 | stvB16 | stvB32 | stvB64 | stgB8 | stgB16 | stgB32 | stgB64 | stspB8 | stspB16 | stspB32 | stspB64
    => exact .vector (o := vecStore ..) ⟨_, rfl⟩ rfl rfl rfl rfl rfl
  | atomAddI32 | atomAddF32 | atomMinS32 | atomMaxS32 | atomMinN32 | atomMaxN32 | atomAnd | atomOr | atomXor
  | atomExch | atomCas | atomMaxi | atomAddF16x2 | atomAddI64
    => exact .vector (o := atomOp ..) ⟨_, rfl⟩ rfl rfl rfl (scopeOk_eq _) rfl
  | atomsAddI32 | atomsAddF32 | atomsMinS32 | atomsMaxS32 | atomsMinN32 | atomsMaxN32 | atomsAnd | atomsOr
  | atomsXor | atomsExch | atomsCas | atomsMaxi | atomsAddF16x2 | atomsAddI64
    => exact .vector (o := atomsOp ..) ⟨_, rfl⟩ rfl rfl rfl (scopeNarrow_eq _) rfl
  | redAddI32 | redAddF32 | redMinS32 | redMaxS32 | redMinN32 | redMaxN32 | redAnd | redOr | redXor | redMaxi
  | redAddF16x2 | redAddI64 => exact .vector (o := redOp ..) ⟨_, rfl⟩ rfl rfl rfl (storeOrder_legal _ _) rfl
  | ldaB16 | ldaB32 | ldaB64 => exact .vector (o := ldaOp ..) ⟨_, rfl⟩ rfl rfl rfl (loadOrder_legal _ _) rfl
  | stlB16 | stlB32 | stlB64 => exact .vector (o := stlOp ..) ⟨_, rfl⟩ rfl rfl rfl (storeOrder_legal _ _) rfl
  | lcpy4 | lcpy8 | lcpy16 | lcpy32 => exact .vector (o := lcpyOp ..) ⟨_, rfl⟩ rfl rfl rfl rfl rfl
  | mmaDense | mmaSp | mmaZ => exact .vector (mmaOp_begins ..) rfl rfl rfl rfl rfl
  | tlda => exact .vector (tmovOp_begins ..) rfl rfl (narrowFragment_regs _) (tlda_legal _ _) rfl
  | tldb => exact .vector (tmovOp_begins ..) rfl rfl (narrowFragment_regs _) (tldb_legal _ _) rfl
  | tstd | tldd => exact .vector (tmovOp_begins ..) rfl rfl (wideFragment_regs _) (wideFragment_legal _ _) rfl

/-! ### Traps, exceptions and parks -/

/-- A team trap whose record names the place of the issuing hart (R53, R241, R370). -/
theorem TrapsTeam.of_teamTrap {s : State} {r : TrapRec} (hpc : r.pc = (s.ctx s.cur).pc)
    (hw : r.widx = (s.ctx s.cur).widx) : TrapsTeam s (.next (s.teamTrap s.cur r)) r.code r.lanes := by
  refine ⟨_, { r with handle := _, time := s.time, under := (s.team s.cur).retry }, rfl, State.ctx_setCtx .., ?_, rfl, hpc, hw,
    rfl, rfl, rfl, rfl, ⟨_, _, rfl⟩, fun h hh => ⟨State.ctx_setCtx_ne _ _ hh, State.team_setTeam_ne _ _ hh, fun _ _ => rfl⟩,
    fun _ _ => rfl, SameMemory.of_eq rfl rfl rfl⟩
  exact congrArg Team.trap (State.team_setTeam ..)

/-- A precise trap of a team. -/
theorem TrapsTeam.of_raiseAt {s : State} (hk : (s.ctx s.cur).kind = .team) (code : TrapCode) (n : Nat) (a : DWord)
    (lanes : Mask) (sp : Bool) : TrapsTeam s (.next (s.raiseAt s.cur code n a lanes sp)) code lanes := by
  simp only [State.raiseAt, hk]
  exact .of_teamTrap rfl rfl

theorem TrapsTeam.of_raise {s : State} (hk : (s.ctx s.cur).kind = .team) (code : TrapCode) (n : Nat) :
    TrapsTeam s (.next (s.raise s.cur code n)) code 0#1024 := .of_raiseAt hk code n _ _ _

/-- A precise trap on a control-core thread is an exception (R231). -/
theorem TakesException.of_raiseAt {s : State} (hk : (s.ctx s.cur).kind = .thread) (code : TrapCode) (n : Nat) (a : DWord)
    (lanes : Mask) (sp : Bool) : TakesException s (.next (s.raiseAt s.cur code n a lanes sp)) code.num a := by
  simp only [State.raiseAt, hk]
  exact ⟨_, rfl, State.thread_setThread .., State.ctx_setCtx .., ⟨_, _, rfl⟩,
    fun h hh => ⟨State.ctx_setCtx_ne _ _ hh, State.thread_setThread_ne _ _ hh⟩, SameMemory.of_eq rfl rfl rfl⟩

theorem TakesException.of_raise {s : State} (hk : (s.ctx s.cur).kind = .thread) (code : TrapCode) (n : Nat) :
    TakesException s (.next (s.raise s.cur code n)) code.num 0#64 := .of_raiseAt hk code n _ _ _

/-- A park leaves all but the hart's status as it was (R53). -/
theorem ParkedAt.of_park (s : State) (w : Wait) : ParkedAt s (s.park s.cur w) w :=
  ⟨⟨_, rfl⟩, fun _ hh => State.ctx_setCtx_ne s _ hh, State.ctx_setCtx ..⟩

section
variable {n : Need} {s : State} {o : Out}

/-- R228: a form for teams is no form on a control core (log 8). -/
theorem Begins.illegalOpcode (hb : Begins n s o) (hk : (s.ctx s.cur).kind = .thread) (ht : n.teamOnly = true) :
    TakesException s o 0x01 0#64 := by
  obtain ⟨k, rfl⟩ := hb
  simp only [begin, hk, ht, if_true]
  exact .of_raise hk .illegalOpcode n.len

/-- R42: a team has no privilege. -/
theorem Begins.priv_team (hb : Begins n s o) (hk : (s.ctx s.cur).kind = .team) (hl : 0 < n.level) :
    TrapsTeam s o .priv 0#1024 := by
  obtain ⟨k, rfl⟩ := hb
  simp only [begin, hk, hl, if_true]
  exact .of_raise hk .priv n.len

/-- R42: a thread below the level of a form. -/
theorem Begins.priv_thread (hb : Begins n s o) (hk : (s.ctx s.cur).kind = .thread) (ht : n.teamOnly = false)
    (hl : (s.thread s.cur).level.toNat < n.level) : TakesException s o 0x04 0#64 := by
  obtain ⟨k, rfl⟩ := hb
  simp only [begin, hk, ht, hl, if_true, Bool.false_eq_true, if_false]
  exact .of_raise hk .priv n.len

/-- R28, R33: an illegal operand value, or a vector register that the team has not allocated. -/
theorem Begins.illegalOperand (hb : Begins n s o) (hk : (s.ctx s.cur).kind = .team) (hl : n.level = 0)
    (h : (∃ r ∈ n.regs, (s.team s.cur).vregs ≤ r) ∨ n.legal = false) : TrapsTeam s o .illegalOperand 0#1024 := by
  obtain ⟨k, rfl⟩ := hb
  have hc : (!n.legal || n.regs.any fun r => decide ((s.team s.cur).vregs ≤ r)) = true := by
    rcases h with h | h
    · simpa using .inr h
    · simp [h]
  simp only [begin, hk, hl, Nat.lt_irrefl, if_false, hc, if_true]
  exact .of_raise hk .illegalOperand n.len

/-- R24: a form that names a held register parks for its registers. -/
theorem Begins.parks (hb : Begins n s o) (hk : (s.ctx s.cur).kind = .team) (hl : n.level = 0) (hg : n.legal = true)
    (hr : ∀ r ∈ n.regs, r < (s.team s.cur).vregs) (hh : n.hold = true) (h : ∃ r ∈ n.regs, s.isHeld s.cur r = true) :
    ∃ t, o = .next t ∧ ParkedAt s t (.held n.regs) := by
  obtain ⟨k, rfl⟩ := hb
  have hc : (!n.legal || n.regs.any fun r => decide ((s.team s.cur).vregs ≤ r)) = false := by
    simpa [hg] using hr
  have hd : (n.hold && n.regs.any fun r => s.isHeld s.cur r) = true := by
    simpa [hh] using h
  simp only [begin, hk, hl, Nat.lt_irrefl, if_false, hc, hd, if_true, Bool.false_eq_true]
  exact ⟨_, rfl, .of_park s _⟩

end

/-- R42: an instruction asks for `level`, on a control core. -/
def Privileged (level : Nat) (s : State) (o : Out) : Prop := ∃ n, Begins n s o ∧ n.teamOnly = false ∧ n.level = level

theorem Privileged.team {l : Nat} {s : State} {o : Out} (h : Privileged l s o) (hl : 0 < l)
    (hk : (s.ctx s.cur).kind = .team) : TrapsTeam s o .priv 0#1024 := by
  obtain ⟨n, hb, -, rfl⟩ := h
  exact hb.priv_team hk hl

theorem Privileged.thread {l : Nat} {s : State} {o : Out} (h : Privileged l s o)
    (hk : (s.ctx s.cur).kind = .thread) (hl : (s.thread s.cur).level.toNat < l) : TakesException s o 0x04 0#64 := by
  obtain ⟨n, hb, ht, rfl⟩ := h
  exact hb.priv_thread hk ht hl

/-! ### The forms of R42 -/

/-- The forms that ask for supervisor level (R42). -/
noncomputable def supervisorForms (sw : Bool) (d b : SReg) (a : Src) : List Instr :=
  [.halt sw, .csrr sw d a, .csrw sw d b a, .csrs sw d b a, .csrc sw d b a, .eret sw, .tlbiVa sw a, .tlbiPart sw a, .tlbiAll sw,
    .tlbiSync sw, .rctxRd sw d b a, .rctxWr sw d b a, .rctxResume sw d b a, .rctxKill sw d b a]

/-- The forms that ask for hypervisor level (R42). -/
noncomputable def hypervisorForms (sw : Bool) (d b : SReg) (a : Src) : List Instr :=
  [.msign sw d b a, .switchArm sw d b, .switchUrgent sw d b, .switchCancel sw d a, .partCreate sw d b a, .partDestroy sw d a,
    .partBitmap sw d b a, .partWays sw d b a]

theorem csrOp_privileged (f : DWord → Option DWord) (d : SReg) (a : Src) (sw : Bool) (s : State) :
    Privileged 1 s (csrOp f d a sw s) := ⟨_, ⟨_, rfl⟩, rfl, rfl⟩

theorem rctxOp_privileged (op : RctxOp) (sw : Bool) (d b : SReg) (a : Src) (s : State) :
    Privileged 1 s (rctxOp op sw d b a s) := ⟨_, ⟨_, rfl⟩, rfl, rfl⟩

theorem armOp_privileged (u sw : Bool) (d b : SReg) (s : State) : Privileged 2 s (armOp u sw d b s) :=
  ⟨_, ⟨_, rfl⟩, rfl, rfl⟩

theorem supervisorForms_privileged (s : State) (sw : Bool) (d b : SReg) (a : Src) :
    ∀ i ∈ supervisorForms sw d b a, Privileged 1 s (exec i s) := by
  simp only [supervisorForms, List.forall_mem_cons, List.not_mem_nil, false_imp_iff, implies_true, and_true]
  unfold exec
  refine ⟨?_, csrOp_privileged .., csrOp_privileged .., csrOp_privileged .., csrOp_privileged .., ?_, ?_, ?_, ?_, ?_,
    rctxOp_privileged .., rctxOp_privileged .., rctxOp_privileged .., rctxOp_privileged ..⟩
  all_goals exact ⟨_, ⟨_, rfl⟩, rfl, rfl⟩

theorem hypervisorForms_privileged (s : State) (sw : Bool) (d b : SReg) (a : Src) :
    ∀ i ∈ hypervisorForms sw d b a, Privileged 2 s (exec i s) := by
  simp only [hypervisorForms, List.forall_mem_cons, List.not_mem_nil, false_imp_iff, implies_true, and_true]
  unfold exec
  refine ⟨?_, armOp_privileged .., armOp_privileged .., ?_, ?_, ?_, ?_, ?_⟩
  all_goals exact ⟨_, ⟨_, rfl⟩, rfl, rfl⟩

section
variable {i : Instr} {s : State} {o : Out}

theorem Form.illegalOpcode (f : Form i s o) (hk : (s.ctx s.cur).kind = .thread)
    (hw : teamWord ((encode i).headD 0#32) = true) : TakesException s o 0x01 0#64 := by
  cases f with
  | profile word => rw [word] at hw; cases hw
  | team begins teamOnly => exact begins.illegalOpcode hk teamOnly
  | vector begins teamOnly => exact begins.illegalOpcode hk teamOnly

theorem Form.illegalOperand (f : Form i s o) (hk : (s.ctx s.cur).kind = .team)
    (h : (∃ r ∈ vectorRegisters i, (s.team s.cur).vregs ≤ r) ∨ operandsLegal i = false) :
    TrapsTeam s o .illegalOperand 0#1024 := by
  cases f with
  | profile word regs legal => simp [regs, legal] at h
  | team begins teamOnly regs legal => simp [regs, legal] at h
  | vector begins teamOnly level regs legal => exact begins.illegalOperand hk level (by rwa [regs, legal])

theorem Form.parks (f : Form i s o) (hk : (s.ctx s.cur).kind = .team) (hm : isMma i = false)
    (hg : operandsLegal i = true) (hr : ∀ r ∈ vectorRegisters i, r < (s.team s.cur).vregs)
    (h : ∃ r ∈ vectorRegisters i, s.isHeld s.cur r = true) :
    ∃ t, o = .next t ∧ ParkedAt s t (.held (vectorRegisters i)) := by
  cases f with
  | profile word regs => simp [regs] at h
  | team begins teamOnly regs => simp [regs] at h
  | vector begins teamOnly level regs legal hold =>
    rw [← regs] at hr h ⊢
    exact begins.parks hk level (legal.trans hg) hr (by rw [hold, hm]; rfl) h
end
end Sys2Proof.Machine

open Sys2Proof Sys2Proof.Machine

/-- Settles O1: each instruction starts with `begin`, whose checks are read off its `Need`. -/
theorem checksComeBeforeExecution : Obligations.ChecksComeBeforeExecution := by
  unfold Obligations.ChecksComeBeforeExecution
  intro s sw d b a h supervisor hypervisor
  have hsup : ∀ i ∈ supervisor, Privileged 1 s (exec i s) := supervisorForms_privileged s sw d b a
  have hhyp : ∀ i ∈ hypervisor, Privileged 2 s (exec i s) := hypervisorForms_privileged s sw d b a
  refine ⟨fun i hi hk => ?_, fun i hi hk hl => (hsup i hi).thread hk ?_, fun i hi hk hl => (hhyp i hi).thread hk hl,
    fun i => ?_⟩
  · rcases List.mem_append.1 hi with hi | hi
    · exact (hsup i hi).team (by decide) hk
    · exact (hhyp i hi).team (by decide) hk
  · rw [hl]
    decide
  · refine ⟨(form_exec i s).illegalOpcode, (form_exec i s).illegalOperand, fun hk hm hg hr hh => ?_⟩
    obtain ⟨t, ht, hp⟩ := (form_exec i s).parks hk hm hg hr hh
    exact ⟨t, _, ht, hp, fun _ hr => hr⟩

end

section
/-! Parks that end, and boundary traps (the second half of O45). -/

namespace Sys2Proof.Claims

open Sys2Proof.Machine

theorem HartsStay.setCtx (s : State) (h : Nat) (c : Ctx) : HartsStay s (s.setCtx h c) h :=
  fun _ hk => ⟨State.ctx_setCtx_ne s c hk, rfl, rfl⟩

theorem HartsStay.setTeam (s : State) (h : Nat) (x : Team) : HartsStay s (s.setTeam h x) h :=
  fun _ hk => ⟨rfl, State.team_setTeam_ne s x hk, rfl⟩

theorem HartsStay.setThread (s : State) (h : Nat) (x : Thread) : HartsStay s (s.setThread h x) h :=
  fun _ hk => ⟨rfl, rfl, State.thread_setThread_ne s x hk⟩

theorem HartsStay.trans {s t u : State} {h : Nat} (hst : HartsStay s t h) (htu : HartsStay t u h) : HartsStay s u h := by
  intro k hk
  obtain ⟨hc, ht, hx⟩ := hst k hk
  obtain ⟨hc', ht', hx'⟩ := htu k hk
  exact ⟨hc'.trans hc, ht'.trans ht, hx'.trans hx⟩

/-! ### Parks -/

/-- PARK_RESUME of a hart that may go on. -/
theorem execParkResume_of_parked {s : State} {h : Nat} {w : Machine.Wait} (hp : (s.ctx h).status = .parked w)
    (hg : (s.ctx h).kind = .thread ∨ s.mayGo h = true) :
    execParkResume h s = if s.parkClear h w = true then .next (s.leavePark h w) else .next s := by
  have : ((s.ctx h).kind == .thread || s.mayGo h) = true := by simpa using hg
  simp only [execParkResume, hp, this, Bool.true_and]

/-- A park for an instruction that has not executed ends with the hart ready where it stands. -/
theorem leavePark_of_issuesAgain {s : State} {h : Nat} {w : Machine.Wait} (hw : Wait.issuesAgain w) :
    s.leavePark h w = s.setCtx h { s.ctx h with status := .ready } := by
  cases w with
  | header | landed | barrierPhase | value | tbar | rctx | tlbi | server => exact hw.elim
  | marker | counts | held | pages | exiting | batch | foal | allFoals | foalSlot | ringFilled | queueRoom | counter
  | halt => rfl

/-! ### Traps of teams -/

theorem teamTrap_ctx (s : State) (h : Nat) (r : TrapRec) :
    (s.teamTrap h r).ctx h = { s.ctx h with status := .trapped } := State.ctx_setCtx ..

/-- The record a trap leaves, numbered and dated. -/
def trapRecord (s : State) (h : Nat) (r : TrapRec) : TrapRec :=
  { r with handle := some (BitVec.ofNat 64 ((s.serial + 1).toNat + 2 ^ 32 * s.pkg)), time := s.time, under := (s.team h).retry }

theorem teamTrap_team (s : State) (h : Nat) (r : TrapRec) :
    (s.teamTrap h r).team h = { s.team h with
      trap := some (trapRecord s h r), flane := r.lanes, retry := if r.len == 0 then (s.team h).retry else none,
      stalled := none, walked := [], unsent := true } := State.team_setTeam ..

theorem HartsStay.teamTrap (s : State) (h : Nat) (r : TrapRec) : HartsStay s (s.teamTrap h r) h :=
  fun _ hk => ⟨State.ctx_setCtx_ne _ _ hk, State.team_setTeam_ne _ _ hk, rfl⟩

/-- What a boundary trap asks to be recorded: no instruction, no lanes. -/
def boundaryRecord (code : TrapCode) (pc : Addr) (widx : Nat) (addr : DWord) (park : Option Machine.Wait) : TrapRec :=
  { code := code, pc := pc, widx := widx, addr := addr, lanes := 0#1024, instr := 0#64, spaddr := false, replay := false,
    out := false, handle := none, time := 0#64, resumePark := park, len := 0, logged := false, under := none }

/-- A boundary trap of a team, whose record is `x` once the trap has taken its cause away. -/
theorem TrapsAtBoundary.of_boundaryTrap (s : State) (h : Nat) (x : Team) (code : TrapCode) (addr : DWord)
    (park : Option Machine.Wait) :
    TrapsAtBoundary s
      (.next ((s.setTeam h x).boundaryTrap h code (s.ctx h).pc (s.ctx h).widx addr 0#1024 0#64 park)) h x code addr := by
  have hteam := teamTrap_team (s.setTeam h x) h (boundaryRecord code (s.ctx h).pc (s.ctx h).widx addr park)
  rw [State.team_setTeam] at hteam
  exact ⟨_, _, rfl, teamTrap_ctx .., hteam, rfl, rfl, rfl,
    (HartsStay.setTeam s h x).trans (HartsStay.teamTrap _ h _), .of_eq rfl rfl rfl⟩

/-- The watchdog's trap leaves the team's record but for the trap. -/
theorem TrapsAtBoundary.of_watchdog (s : State) (h : Nat) (park : Option Machine.Wait) :
    TrapsAtBoundary s (.next (s.boundaryTrap h .watchdog (s.ctx h).pc (s.ctx h).widx 0#64 0#1024 0#64 park)) h (s.team h)
      .watchdog 0#64 := by
  have hteam := teamTrap_team s h (boundaryRecord .watchdog (s.ctx h).pc (s.ctx h).widx 0#64 park)
  exact ⟨_, _, rfl, teamTrap_ctx .., hteam, rfl, rfl, rfl, HartsStay.teamTrap _ h _, .of_eq rfl rfl rfl⟩

/-- A team that runs and has not trapped stands at a boundary (R369). -/
theorem boundaryOf_eq {s : State} {h : Nat} (hk : (s.ctx h).kind = .team) (hs : (s.ctx h).status ≠ .trapped)
    (hg : s.mayGo h = true) : s.boundaryOf h = s.boundary h (s.ctx h).parkOf := by
  simp [State.boundaryOf, hk, hs, hg]

theorem boundary_of_watchdog {s : State} {h : Nat} (park : Option Machine.Wait) (hw : (s.team h).wdleft = 0) :
    s.boundary h park =
      some (s.boundaryTrap h .watchdog (s.ctx h).pc (s.ctx h).widx 0#64 0#1024 0#64 park) := by
  simp only [State.boundary, hw, BEq.rfl, if_true]

theorem boundary_of_timerDue {s : State} {h : Nat} (park : Option Machine.Wait) {x : Team} {a : DWord}
    (hw : (s.team h).wdleft ≠ 0) (hp : (s.team h).poison = []) (hd : (s.team h).timerDue s.time = some (x, a)) :
    s.boundary h park =
      some ((s.setTeam h x).boundaryTrap h .timer (s.ctx h).pc (s.ctx h).widx a 0#1024 0#64 park) := by
  have : ((s.team h).wdleft == 0) = false := by simpa using hw
  simp only [State.boundary, this, hp, hd, Bool.false_eq_true, if_false]

/-- A deadline that is due traps its team at the boundary. -/
theorem TrapsAtBoundary.of_timerDue {s : State} {h : Nat} {x : Team} {a : DWord} (hk : (s.ctx h).kind = .team)
    (hs : (s.ctx h).status ≠ .trapped) (hg : s.mayGo h = true) (hw : (s.team h).wdleft ≠ 0)
    (hp : (s.team h).poison = []) (hd : (s.team h).timerDue s.time = some (x, a)) :
    TrapsAtBoundary s (execTimerFire h s) h x .timer a := by
  have : execTimerFire h s =
      .next ((s.setTeam h x).boundaryTrap h .timer (s.ctx h).pc (s.ctx h).widx a 0#1024 0#64 (s.ctx h).parkOf) := by
    simp [execTimerFire, hd, boundaryOf_eq hk hs hg, boundary_of_timerDue _ hw hp hd]
  rw [this]
  exact .of_boundaryTrap ..

theorem timerDue_of_timer {x : Team} {time d : DWord} (ht : x.timer = some d) (hh : x.timerHeld = false)
    (hd : d ≤ x.rclock) : x.timerDue time = some ({ x with timer := none, sleep := 0 }, 0#64) := by
  simp [Team.timerDue, ht, hh, hd]

theorem timerDue_of_timera {x : Team} {time d : DWord}
    (ht : ∀ e, x.timer = some e → x.timerHeld = true ∨ x.rclock < e) (ha : x.timera = some d) (hd : d ≤ time) :
    x.timerDue time = some x.fireTimera := by
  cases he : x.timer with
  | none => simp [Team.timerDue, he, ha, hd]
  | some e =>
    have : (!x.timerHeld && decide (e ≤ x.rclock)) = false := by
      rcases ht e he with h | h
      · simp [h]
      · simp [BitVec.not_le.2 h]
    simp [Team.timerDue, he, ha, hd, this]

theorem timerDue_of_held {x : Team} {time : DWord} (hh : x.timerHeld = true) (ha : x.timera = none) :
    x.timerDue time = none := by
  cases ht : x.timer <;> simp [Team.timerDue, ht, hh, ha]

/-! ### Events -/

/-- A thread between two instructions, or parked in HALT, is where an event reaches it (R231). -/
theorem takesEvents_of {s : State} {h : Nat} (hk : (s.ctx h).kind = .thread) (hb : (s.thread h).bytes = [])
    (hs : (s.ctx h).status = .ready ∨ (s.ctx h).status = .parked .halt) : s.takesEvents h = true := by
  rcases hs with hs | hs <;> simp [State.takesEvents, hk, hb, hs]

theorem parksEndAndBoundariesTrap : ParksEndAndBoundariesTrap := by
  intro s h c x
  refine ⟨fun w hp hg => ⟨fun hc => ?_, fun hc hw => ?_, fun hc hw => ?_, fun hc hw => ?_⟩, ?_, fun hs => ?_,
    fun hh ha => ?_, fun hk hs hg => ⟨fun hw => ?_, fun hw hpo => ⟨fun d ht hh hd => ?_, fun d ht ha hd => ?_⟩⟩,
    fun e r hk hs hi hb he => ?_⟩
  · show execParkResume h s = _
    rw [execParkResume_of_parked hp hg, hc]
    rfl
  · refine ⟨s.setCtx h { s.ctx h with status := .ready }, ?_, State.ctx_setCtx .., rfl, .setCtx _ _ _, .of_eq rfl rfl rfl⟩
    show execParkResume h s = _
    rw [execParkResume_of_parked hp hg, if_pos hc, leavePark_of_issuesAgain hw]
  · obtain ⟨a, b, m, rfl⟩ := hw
    refine ⟨s.leavePark h (.header a b m), ?_, State.ctx_setCtx .., rfl, ?_, .of_eq rfl rfl rfl⟩
    · show execParkResume h s = _
      rw [execParkResume_of_parked hp hg, if_pos hc]
    · exact (HartsStay.setCtx _ _ _).trans (.setCtx _ _ _)
  · subst hw
    show execParkResume h s = _
    rw [execParkResume_of_parked hp hg, if_pos hc]
    rfl
  · simp [State.parkClear, State.markerClear, x, and_assoc]
  · refine ⟨s.setTeam h { x with sleep := 0 }, ?_, State.team_setTeam .., rfl, .setTeam _ _ _, .of_eq rfl rfl rfl⟩
    show execSleepEnd h s = _
    simp [execSleepEnd, show (s.team h).sleep = 1 from hs, x]
  · have hd : (s.team h).timerDue s.time = none := timerDue_of_held hh ha
    show execTimerFire h s = _
    simp [execTimerFire, hd]
  · have : exec (.watchdogExpire h) s =
        .next (s.boundaryTrap h .watchdog c.pc c.widx 0#64 0#1024 0#64 c.parkOf) := by
      show execWatchdogExpire h s = _
      have hb : s.boundaryOf h = _ := (boundaryOf_eq hk hs hg).trans (boundary_of_watchdog _ hw)
      simp only [execWatchdogExpire, hb, show (s.team h).wdleft = 0 from hw, BEq.rfl, if_true, Option.getD_some, c]
    rw [this]
    exact .of_watchdog ..
  · exact .of_timerDue hk hs hg hw hpo (timerDue_of_timer ht hh hd)
  · exact .of_timerDue hk hs hg hw hpo (timerDue_of_timera ht ha hd)
  · have : exec (.controlEventException h) s =
        .next ((s.setThread h { s.thread h with events := r }).exception h e.1 e.2) := by
      show execControlEventException h s = _
      simp [execControlEventException, hi, takesEvents_of hk hb hs, State.takeEvent, he]
    refine ⟨_, this, ?_, ?_, ?_, .of_eq rfl rfl rfl⟩
    · refine (State.thread_setThread ..).trans ?_
      simp [hi, hb, c]
    · refine (State.ctx_setCtx ..).trans ?_
      simp [c]
    · exact ((HartsStay.setThread _ _ _).trans (.setThread _ _ _)).trans (.setCtx _ _ _)
end Sys2Proof.Claims
end

section
/-! What a fetch of code reads and what it leaves: the caches and the meters change, no byte, no table and no translation does
(R25, R377, R390-R397). -/

namespace Sys2Proof.Machine

/-! ### Meters -/

/-- Of every partition only the meters have changed. -/
structure MetersOnly (s t : State) : Prop where
  part : ∀ p, ∃ m, t.part p = { s.part p with meters := m }

theorem MetersOnly.of_eq {s t : State} (h : t.parts = s.parts) : MetersOnly s t := by
  refine ⟨fun p => ⟨(s.part p).meters, ?_⟩⟩
  unfold State.part
  rw [h]

theorem MetersOnly.trans {s t u : State} (hst : MetersOnly s t) (htu : MetersOnly t u) : MetersOnly s u := by
  refine ⟨fun p => ?_⟩
  obtain ⟨m, hm⟩ := hst.part p
  obtain ⟨n, hn⟩ := htu.part p
  exact ⟨n, by rw [hn, hm]⟩

theorem MetersOnly.meterAdd (s : State) (p sel n : Nat) : MetersOnly s (s.meterAdd p sel n) := by
  refine ⟨fun q => ?_⟩
  unfold State.meterAdd
  split
  · exact ⟨_, rfl⟩
  · by_cases e : q = p
    · subst e
      exact ⟨_, State.part_setPart ..⟩
    · exact ⟨(s.part q).meters, Store.get_set_other e⟩

theorem MetersOnly.writeBack (s : State) (x : L2Line) : MetersOnly s (s.writeBack x) := by
  obtain ⟨⟨m, p, e, -⟩, -⟩ := s.writeBack_spec x
  rw [e]
  exact .of_eq rfl

theorem MetersOnly.evict (s : State) (k : Nat) : MetersOnly s (s.evict k) := by
  unfold State.evict
  split
  · exact .of_eq rfl
  · refine MetersOnly.trans (t := ite _ _ _) ?_ (.of_eq rfl)
    split
    · exact (MetersOnly.writeBack ..).trans (.meterAdd ..)
    · exact .of_eq rfl

theorem MetersOnly.dropCopy (s : State) (die line : Nat) : MetersOnly s (s.dropCopy die line) := by
  unfold State.dropCopy
  split <;> exact .of_eq rfl

theorem MetersOnly.fillHome (s : State) (owner : Nat) (l : Loc) : MetersOnly s (s.fillHome owner l) := by
  unfold State.fillHome
  simp only
  split
  · exact .of_eq rfl
  · split
    · exact .of_eq rfl
    · refine MetersOnly.trans ?_ (.meterAdd ..)
      exact MetersOnly.trans ((MetersOnly.evict ..).trans (.dropCopy ..)) (.of_eq rfl)

theorem MetersOnly.touch (s : State) (k : Nat) : MetersOnly s (s.touch k) := by
  unfold State.touch
  split <;> exact .of_eq rfl

theorem MetersOnly.useHome (s : State) (owner : Nat) (l : Loc) : MetersOnly s (s.useHome owner l) := by
  unfold State.useHome
  simp only
  split
  · exact .touch ..
  · split
    · exact .fillHome ..
    · exact (MetersOnly.fillHome ..).trans (.meterAdd ..)

theorem MetersOnly.useAll (s : State) (owner : Nat) (bs : List Loc) : MetersOnly s (s.useAll owner bs) := by
  unfold State.useAll
  generalize lineHeads bs = ls
  induction ls generalizing s with
  | nil => exact .of_eq rfl
  | cons l r ih => exact (MetersOnly.useHome ..).trans (ih _)

/-! ### Reads of tables and of code -/

/-- A read at the homes of a sound memory: no home byte changes, only caches and meters do, and the memory stays sound. -/
structure Fetches (s t : State) : Prop where
  keeps : KeepsHome s t
  reads : ReadsHome s t
  meters : MetersOnly s t

theorem Fetches.refl {s : State} (h : Sound s.mem s.l2) : Fetches s s := ⟨.refl h, .refl s, .of_eq rfl⟩

theorem Fetches.trans {s t u : State} (hst : Fetches s t) (htu : Fetches t u) : Fetches s u :=
  ⟨hst.keeps.trans htu.keeps, hst.reads.trans htu.reads, hst.meters.trans htu.meters⟩

theorem Fetches.useAll {s : State} (h : Sound s.mem s.l2) (owner : Nat) (bs : List Loc) : Fetches s (s.useAll owner bs) :=
  ⟨(State.useAll_spec owner bs h).1, (State.useAll_spec owner bs h).2, .useAll s owner bs⟩

theorem Fetches.chargeWalk {s : State} (h : Sound s.mem s.l2) (part va : Nat) : Fetches s (s.chargeWalk part va) := by
  unfold State.chargeWalk
  split
  · exact .refl h
  · exact .useAll h ..

theorem Fetches.chargeMisses {s : State} (h : Sound s.mem s.l2) (core : Option Nat) (part : Nat) (va : Addr) (n : Nat) :
    Fetches s (s.chargeMisses core part va n) := by
  unfold State.chargeMisses
  generalize (vpagesOf va n).filter _ = ps
  induction ps generalizing s with
  | nil => exact .refl h
  | cons p r ih =>
    have hp := Fetches.chargeWalk h part (p * 2 ^ 16)
    exact hp.trans (ih hp.keeps.sound)

/-- R25: what a fetch of code does. -/
theorem Fetches.useCode {s : State} (hs : Sound s.mem s.l2) (h : Nat) (a : Addr) (n : Nat) : Fetches s (s.useCode h a n) := by
  have hmiss : ∃ t, Fetches s t ∧ s.useCode h a n = match t.codeLocs h a n with
      | .ok ls => t.useAll (t.owner h) ls
      | .error _ => t := by
    unfold State.useCode
    cases (s.ctx h).kind with
    | team => exact ⟨_, .chargeMisses hs .., rfl⟩
    | thread => exact ⟨_, .refl hs, rfl⟩
    | absent => exact ⟨_, .refl hs, rfl⟩
  obtain ⟨t, ht, he⟩ := hmiss
  rw [he]
  split
  · exact ht.trans (.useAll ht.keeps.sound ..)
  · exact ht

/-! ### Translation -/

theorem physLoc_pa (s : State) (owner pa : Nat) : (s.physLoc owner pa).pa = pa := by
  unfold State.physLoc
  rfl

/-- No translation depends on a meter. -/
theorem ownsPa_congr {p q : Partition} (hp : q.pchan = p.pchan) (pa : Nat) : q.ownsPa pa = p.ownsPa pa := by
  simp only [Partition.ownsPa, hp]

theorem stage2_congr (s : State) {p q : Partition} (hr : q.s2root = p.s2root) (hp : q.pchan = p.pchan) (ipa : Nat) :
    stage2 s q ipa = stage2 s p ipa := by
  simp only [stage2, hr, ownsPa_congr hp]

theorem stage1Read_congr (s : State) {p q : Partition} (hr : q.s2root = p.s2root) (hp : q.pchan = p.pchan) :
    stage1Read s q = stage1Read s p := by
  funext ipa
  simp only [stage1Read, stage1Loc, stage2_congr s hr hp]

section
variable {s t : State} (hst : Fetches s t)
include hst

theorem Fetches.home64 (pa : Nat) : t.home64 pa = s.home64 pa := by
  simp only [State.home64, hst.keeps.same]

theorem Fetches.walkStage (s2 : Bool) (rd : Nat → Except XErr Nat) (root a : Nat) :
    walkStage t s2 rd root a = walkStage s s2 rd root a := by
  simp only [Machine.walkStage, hst.home64]

theorem Fetches.stage2 (p : Partition) (ipa : Nat) : stage2 t p ipa = stage2 s p ipa := by
  simp only [Machine.stage2, hst.walkStage]

theorem Fetches.stage1Read (p : Partition) : stage1Read t p = stage1Read s p := by
  funext ipa
  simp only [Machine.stage1Read, stage1Loc, hst.stage2]

theorem Fetches.walk (part va : Nat) : walk t part va = walk s part va := by
  obtain ⟨m, hm⟩ := hst.meters.part part
  have hr1 : (t.part part).s1root = (s.part part).s1root := by rw [hm]
  have hr2 : (t.part part).s2root = (s.part part).s2root := by rw [hm]
  have hp : (t.part part).pchan = (s.part part).pchan := by rw [hm]
  have h1 := stage1Read_congr s hr2 hp
  have h2 := stage2_congr s hr2 hp
  simp only [Machine.walk, hst.stage1Read, hst.walkStage, hst.stage2, hr1, h1, h2]

theorem Fetches.cached (core part vpage : Nat) : t.cached core part vpage = s.cached core part vpage := by
  obtain ⟨_, _, _, _, _, rfl⟩ := hst.reads
  rfl

theorem Fetches.translateBytes (core : Option Nat) (part : Nat) (va : Addr) (n : Nat) (k : Access) :
    translateBytes t core part va n k = translateBytes s core part va n k := by
  have htr : ∀ v, translate t core part v k = translate s core part v k := by
    intro v
    simp only [translate, hst.cached, hst.walk]
  simp only [Machine.translateBytes, htr]

/-- The code of a clause lies where it lay: at the same places for a team, at the same addresses for a thread, whose places
may be pinned otherwise. -/
theorem Fetches.codeLocs {h : Nat} {a : Addr} {n : Nat} {ls : List Loc} (hls : s.codeLocs h a n = .ok ls) :
    ∃ ls', t.codeLocs h a n = .ok ls' ∧ ls'.map Loc.pa = ls.map Loc.pa := by
  have htl : t.ctx h = s.ctx h ∧ t.coreOf h = s.coreOf h ∧ t.wgOf h = s.wgOf h := by
    obtain ⟨_, _, _, _, _, rfl⟩ := hst.reads
    exact ⟨rfl, rfl, rfl⟩
  obtain ⟨hc, hco, hw⟩ := htl
  unfold State.codeLocs at hls ⊢
  rw [hc, hco, hw]
  cases hk : (s.ctx h).kind with
  | team =>
    simp only [hk] at hls ⊢
    exact ⟨ls, (hst.translateBytes ..).trans hls, rfl⟩
  | thread =>
    simp only [hk] at hls ⊢
    cases hf : (List.range n).find? fun i => regionOf (a.toNat + i) != .hbm with
    | some i =>
      rw [hf] at hls
      cases hls
    | none =>
      rw [hf] at hls
      cases hls
      refine ⟨_, rfl, ?_⟩
      simp only [List.map_map, Function.comp_def, physLoc_pa]
  | absent =>
    simp only [hk] at hls
    cases hls

/-- The words of code at places of the same addresses. -/
theorem Fetches.codeWords {ls ls' : List Loc} (h : Nat) (hpa : ls'.map Loc.pa = ls.map Loc.pa) :
    t.codeWords h ls' = s.codeWords h ls := by
  have hb : ∀ l l' : Loc, l'.pa = l.pa → t.codeByte h l' = s.codeByte h l := by
    intro l l' e
    have hm : t.homeByte l' = s.homeByte l := (hst.keeps.same l').trans (State.homeByte_pa e)
    unfold State.codeByte
    rw [hm, e]
    obtain ⟨_, _, _, _, _, rfl⟩ := hst.reads
    rfl
  have hlen : ls'.length = ls.length := by simpa using congrArg List.length hpa
  have hf : ls'.map (t.codeByte h) = ls.map (s.codeByte h) := by
    refine List.ext_getElem (by simpa using hlen) fun i h1 h2 => ?_
    simp only [List.getElem_map]
    refine hb _ _ ?_
    have := List.getElem_of_eq hpa (i := i) (by simpa using h1)
    simpa using this
  unfold State.codeWords
  rw [hlen]
  refine List.map_congr_left fun k _ => ?_
  rw [List.map_take, List.map_drop, hf, ← List.map_drop, ← List.map_take]
end
end Sys2Proof.Machine
end

section
/-! What follows an issue (R20, R118, R332, R336), and harts that stop in their turn: a fetch that fails and a reserved word
(R14, R27, R28). -/

namespace Sys2Proof.Machine

/-! ### After an issue -/

/-- Only what the scheduler keeps of cores and of waiting teams has changed; of the teams other than `h` no throttle's mark. -/
structure Waited (h : Nat) (s t : State) : Prop where
  rest : ∃ ts cs, t = { s with teams := ts, cores := cs }
  hart : ∃ n w b, t.team h = { s.team h with waited := n, withheld := w, yielded := b }
  others : ∀ k, k ≠ h → ∃ n b, t.team k = { s.team k with waited := n, yielded := b }

theorem Waited.refl (h : Nat) (s : State) : Waited h s s := ⟨⟨_, _, rfl⟩, ⟨_, _, _, rfl⟩, fun _ _ => ⟨_, _, rfl⟩⟩

theorem Waited.trans {h : Nat} {s t u : State} (hst : Waited h s t) (htu : Waited h t u) : Waited h s u := by
  refine ⟨?_, ?_, fun k hk => ?_⟩
  · obtain ⟨_, _, rfl⟩ := hst.rest
    obtain ⟨_, _, rfl⟩ := htu.rest
    exact ⟨_, _, rfl⟩
  · obtain ⟨_, _, _, e⟩ := hst.hart
    obtain ⟨_, _, _, e'⟩ := htu.hart
    exact ⟨_, _, _, by rw [e', e]⟩
  · obtain ⟨_, _, e⟩ := hst.others k hk
    obtain ⟨_, _, e'⟩ := htu.others k hk
    exact ⟨_, _, by rw [e', e]⟩

theorem Waited.setCore (h : Nat) (s : State) (c : Nat) (x : Core) : Waited h s (s.setCore c x) :=
  ⟨⟨_, _, rfl⟩, ⟨_, _, _, rfl⟩, fun _ _ => ⟨_, _, rfl⟩⟩

theorem Waited.noteIssue (h : Nat) (s : State) (core k g : Nat) : Waited h s (s.noteIssue core k g) := by
  unfold State.noteIssue
  simp only
  split
  · exact .refl h s
  · exact .setCore ..

theorem Waited.setTurn (h : Nat) (s : State) (core k n : Nat) : Waited h s (s.setTurn core k n) := by
  unfold State.setTurn
  simp only
  split
  · exact .refl h s
  · exact .setCore ..

theorem Waited.restWait (h : Nat) (s : State) : Waited h s (s.restWait h) := by
  unfold State.restWait
  split
  · exact ⟨⟨_, _, rfl⟩, ⟨_, _, _, State.team_setTeam ..⟩, fun k hk => ⟨(s.team k).waited, (s.team k).yielded,
      State.team_setTeam_ne s _ hk⟩⟩
  · exact .refl h s

theorem Waited.setTeam {h : Nat} (s : State) {k : Nat} (hk : k ≠ h) (n : Nat) (b : Bool) :
    Waited h s (s.setTeam k { s.team k with waited := n, yielded := b }) := by
  refine ⟨⟨_, _, rfl⟩, ⟨_, _, _, State.team_setTeam_ne s _ hk.symm⟩, fun g _ => ?_⟩
  by_cases hg : g = k
  · subst hg
    exact ⟨_, _, State.team_setTeam ..⟩
  · exact ⟨(s.team g).waited, (s.team g).yielded, State.team_setTeam_ne s _ hg⟩

theorem Waited.foldl {h : Nat} {f : State → Nat → State} (hf : ∀ s k, Waited h s (f s k)) (ks : List Nat) (s : State) :
    Waited h s (ks.foldl f s) := by
  induction ks generalizing s with
  | nil => exact .refl h s
  | cons k r ih => exact (hf s k).trans (ih _)

/-- R332-R336: all that an issue means for the core and for the other teams of the sector. -/
theorem Waited.afterIssue (s a : State) (h : Nat) : Waited h s (s.afterIssue a h) := by
  unfold State.afterIssue
  cases (a.ctx h).kind with
  | absent => exact .refl h s
  | thread => exact .refl h s
  | team =>
    simp only
    have hrest : Waited h s (s.restWait h) := .restWait ..
    have hissue : Waited h s ((s.noteIssue (a.coreOf h) (a.team h).sector h).restWait h) :=
      (Waited.noteIssue ..).trans (.restWait ..)
    have hother : ∀ (u : State) k, Waited h u (if (k == h) = true then u else u.setTeam k { u.team k with
        waited := if u.issuable k then (u.team k).waited + 1 else (u.team k).waited, yielded := false }) := by
      intro u k
      by_cases hk : k = h
      · simpa [hk] using Waited.refl h u
      · simpa [hk] using Waited.setTeam u hk _ _
    cases ((a.ctx h).clause.isSome && !(s.team h).stalled.isSome) with
    | false =>
      simp only [Bool.false_eq_true, if_false]
      split
      · exact hrest.trans (.setTurn ..)
      · exact hrest
    | true =>
      simp only [if_true]
      split
      · exact hissue.trans (.setTurn ..)
      · exact hissue.trans (.foldl hother _ _)

theorem Waited.ctx {h : Nat} {s t : State} (w : Waited h s t) (k : Nat) : t.ctx k = s.ctx k := by
  obtain ⟨_, _, rfl⟩ := w.rest
  rfl

theorem Waited.thread {h : Nat} {s t : State} (w : Waited h s t) (k : Nat) : t.thread k = s.thread k := by
  obtain ⟨_, _, rfl⟩ := w.rest
  rfl

theorem Waited.vreg {h : Nat} {s t : State} (w : Waited h s t) (k r : Nat) : t.vreg k r = s.vreg k r := by
  obtain ⟨_, _, rfl⟩ := w.rest
  rfl

theorem Waited.sameMemory {h : Nat} {s t : State} (w : Waited h s t) : SameMemory s t := by
  obtain ⟨_, _, rfl⟩ := w.rest
  exact .of_eq rfl rfl rfl

end Sys2Proof.Machine

namespace Sys2Proof.Claims
open Sys2Proof.Machine

/-- Where a hart fails to fetch or to decode, every hart stands as it did, and memory reads as it did. -/
structure Stands (s u : State) : Prop where
  ctx : ∀ k, u.ctx k = s.ctx k
  teams : u.teams = s.teams
  threads : u.threads = s.threads
  vregs : u.vregs = s.vregs
  clock : (u.time, u.serial, u.pkg) = (s.time, s.serial, s.pkg)
  memory : SameMemory s u

theorem Stands.refl (s : State) : Stands s s := ⟨fun _ => rfl, rfl, rfl, rfl, rfl, .of_eq rfl rfl rfl⟩

theorem Stands.of_fetches {s u : State} (hsu : Fetches s u) : Stands s u := by
  have hm := hsu.keeps.same
  obtain ⟨_, _, _, _, _, rfl⟩ := hsu.reads
  exact ⟨fun _ => rfl, rfl, rfl, rfl, rfl, hm, fun _ _ => rfl⟩

/-- A failed fetch takes the hart to where it stands: word 0 of no clause. -/
theorem Stands.rewind {s u : State} (hsu : Stands s u) {h : Nat} (hc : (s.ctx h).clause = none) (hw : (s.ctx h).widx = 0) :
    Stands s (u.setCtx h { u.ctx h with widx := 0, clause := none }) := by
  refine ⟨fun k => ?_, hsu.teams, hsu.threads, hsu.vregs, hsu.clock, hsu.memory⟩
  by_cases hk : k = h
  · subst hk
    rw [State.ctx_setCtx, hsu.ctx, ← hc, ← hw]
  · rw [State.ctx_setCtx_ne _ _ hk, hsu.ctx]

theorem HartsStay.raiseAt (u : State) (h : Nat) (code : TrapCode) (len : Nat) (addr : DWord) (lanes : Mask) (sp : Bool) :
    HartsStay u (u.raiseAt h code len addr lanes sp) h := by
  unfold State.raiseAt
  simp only
  split
  · exact .teamTrap _ _ _
  · exact (HartsStay.setThread _ _ _).trans (.setCtx _ _ _)
  · exact fun _ _ => ⟨rfl, rfl, rfl⟩

theorem raiseAt_rest (u : State) (h : Nat) (code : TrapCode) (len : Nat) (addr : DWord) (lanes : Mask) (sp : Bool) :
    ∃ cs ts xs n, u.raiseAt h code len addr lanes sp = { u with ctxs := cs, teams := ts, threads := xs, serial := n } := by
  unfold State.raiseAt
  simp only
  split <;> exact ⟨_, _, _, _, rfl⟩

/-- A team that traps at its word, or a thread that takes an exception there. -/
theorem StopsInItsTurn.of_raiseAt {s u : State} (hsu : Stands s u) (code : TrapCode) (len : Nat) :
    StopsInItsTurn s (.next (u.raiseAt s.cur code len 0#64 0#1024 false)) code := by
  have hstay := HartsStay.raiseAt u s.cur code len 0#64 0#1024 false
  have hrest := raiseAt_rest u s.cur code len 0#64 0#1024 false
  obtain ⟨hctx, hteams, hthreads, hvregs, hclock, hmem⟩ := hsu
  have hteam : ∀ k, u.team k = s.team k := fun k => by unfold State.team; rw [hteams]
  have hthread : ∀ k, u.thread k = s.thread k := fun k => by unfold State.thread; rw [hthreads]
  have hvreg : ∀ k r, u.vreg k r = s.vreg k r := fun k r => by unfold State.vreg; rw [hvregs]
  simp only [Prod.mk.injEq] at hclock
  obtain ⟨htime, hserial, hpkg⟩ := hclock
  refine ⟨_, rfl, fun r _ => ?_, ?_, fun k hne => ⟨?_, ?_, fun r _ => ?_, (s.team k).waited, (s.team k).yielded, ?_⟩,
    fun hk => ?_, fun hk => ?_⟩
  · obtain ⟨_, _, _, _, e⟩ := hrest
    rw [e]
    exact hvreg ..
  · obtain ⟨_, _, _, _, e⟩ := hrest
    rw [e]
    exact hmem
  · exact (hstay k hne).1.trans (hctx k)
  · exact (hstay k hne).2.2.trans (hthread k)
  · obtain ⟨_, _, _, _, e⟩ := hrest
    rw [e]
    exact hvreg ..
  · exact (hstay k hne).2.1.trans (hteam k)
  · have hr : ∃ r : TrapRec, u.raiseAt s.cur code len 0#64 0#1024 false = u.teamTrap s.cur r ∧
        (r.code, r.pc, r.widx, r.addr, r.lanes) = (code, (s.ctx s.cur).pc, (s.ctx s.cur).widx, 0#64, 0#1024) := by
      unfold State.raiseAt
      simp only [hctx, hk]
      exact ⟨_, rfl, rfl⟩
    obtain ⟨r, hr, hrec⟩ := hr
    simp only [Prod.mk.injEq] at hrec
    obtain ⟨hcode, hpc, hwidx, haddr, hlanes⟩ := hrec
    refine ⟨trapRecord u s.cur r, ?_, ?_, ?_, ?_, ?_⟩
    · rw [hr, teamTrap_ctx, hctx]
    · rw [hr, teamTrap_team]
    · simp only [trapRecord, hcode, hpc, hwidx, haddr, hlanes, htime]
    · simp only [trapRecord, hserial, hpkg]
    · rw [hr, ← hserial]
      rfl
  · have hr : u.raiseAt s.cur code len 0#64 0#1024 false = u.exception s.cur code.num 0#64 := by
      unfold State.raiseAt
      simp only [hctx, hk]
    rw [hr]
    refine ⟨(State.thread_setThread ..).trans ?_, (State.ctx_setCtx ..).trans ?_⟩
    · rw [hthread, hctx]
    · rw [hthread, hctx]

/-- What an issue means for the other teams comes on top of a stop. -/
theorem StopsInItsTurn.waited {s u t : State} {code : TrapCode} (hu : StopsInItsTurn s (.next u) code)
    (hw : Waited s.cur u t) : StopsInItsTurn s (.next t) code := by
  obtain ⟨_, he, hv, hm, hothers, hteam, hthread⟩ := hu
  cases he
  refine ⟨_, rfl, fun r hr => (hw.vreg ..).trans (hv r hr), ?_, fun k hne => ?_, fun hk => ?_, fun hk => ?_⟩
  · obtain ⟨_, _, rfl⟩ := hw.rest
    exact hm
  · obtain ⟨hc, hx, hr, n, b, e⟩ := hothers k hne
    obtain ⟨n', b', e'⟩ := hw.others k hne
    exact ⟨(hw.ctx k).trans hc, (hw.thread k).trans hx, fun r hr' => (hw.vreg ..).trans (hr r hr'), n', b', by rw [e', e]⟩
  · obtain ⟨r, hc, hr, hrec, hh, hs⟩ := hteam hk
    obtain ⟨_, _, _, e⟩ := hw.hart
    refine ⟨r, (hw.ctx _).trans hc, by rw [e]; exact hr, hrec, hh, ?_⟩
    obtain ⟨_, _, rfl⟩ := hw.rest
    exact hs
  · obtain ⟨hx, hc⟩ := hthread hk
    exact ⟨(hw.thread _).trans hx, (hw.ctx _).trans hc⟩

/-- A hart that may issue stops in its turn. -/
theorem StopsInItsTurn.of_raise {s u : State} (hsu : Stands s u) (code : TrapCode) (len : Nat) :
    StopsInItsTurn s (.next ((u.raiseAt s.cur code len 0#64 0#1024 false).afterIssue s s.cur)) code :=
  (StopsInItsTurn.of_raiseAt hsu code len).waited (.afterIssue ..)

/-- A fetch whose header is no header. -/
theorem StopsInItsTurn.of_fetchTrap {s u : State} (hsu : Stands s u) (hc : (s.ctx s.cur).clause = none)
    (hw : (s.ctx s.cur).widx = 0) (code : TrapCode) :
    StopsInItsTurn s (.next ((u.fetchTrap s.cur code 0#64).afterIssue s s.cur)) code :=
  .of_raise (hsu.rewind hc hw) code 0

end Sys2Proof.Claims

namespace Sys2Proof.Machine

/-! ### The fields of a header and the reserved opcodes -/

/-- Bits of a word, as a number. -/
theorem field_toNat (w : Word) (lo len : Nat) : (w.extractLsb' lo len).toNat = w.toNat / 2 ^ lo % 2 ^ len := by
  simp [BitVec.extractLsb'_toNat, Nat.shiftRight_eq_div_pow]

theorem getLsbD_iff (w : Word) (i : Nat) : w.getLsbD i = true ↔ w.toNat / 2 ^ i % 2 = 1 := by
  rw [BitVec.getLsbD, Nat.testBit_eq_decide_div_mod_eq, decide_eq_true_iff]

/-- R14: the checks of a header. -/
theorem headerOk_iff (w : Word) :
    headerOk w = true ↔ w.toNat / 2 ^ 24 % 2 ^ 8 = 0xA5 ∧ w.toNat / 2 ^ 14 % 2 ^ 10 = 0 ∧ w.toNat % 2 ^ 4 ≠ 0 := by
  have h0 := field_toNat w 0 4
  simp only [Nat.pow_zero, Nat.div_one] at h0
  simp only [headerOk, Bool.and_eq_true, bne_iff_ne, beq_iff_eq, ne_eq, ← BitVec.toNat_inj, field_toNat, h0, and_assoc]
  rfl

/-- R13: CLS of a header. -/
theorem headerClass_eq (w : Word) : headerClass w = [Cls.gen, .mem, .foal, .sys].getD (w.toNat / 2 ^ 4 % 2 ^ 2) .gen := by
  unfold headerClass
  simp only [beq_iff_eq, ← BitVec.toNat_inj, field_toNat]
  have : w.toNat / 2 ^ 4 % 2 ^ 2 < 4 := Nat.mod_lt _ (by decide)
  generalize w.toNat / 2 ^ 4 % 2 ^ 2 = n at this ⊢
  interval_cases n <;> rfl

/-- R27: an opcode outside the map. -/
theorem reservedWord_of_opcode {w : Word} (h : w.toNat / 2 ^ 24 % 2 ^ 7 = 0 ∨ 0x61 ≤ w.toNat / 2 ^ 24 % 2 ^ 7) :
    reservedWord w = true := by
  have hop : ((w.extractLsb' 24 7).toNat == 0 || decide (0x61 ≤ (w.extractLsb' 24 7).toNat)) = true := by
    rw [field_toNat]
    simpa using h
  unfold reservedWord
  simp only
  rw [if_pos (by simpa using hop)]

end Sys2Proof.Machine
end

section
/-! The clause a hart fetches and enters (R12, R13, R20, R25, R336): the first half of O45. -/

namespace Sys2Proof.Machine

open Sys2Proof.Claims

/-! ### Entering a clause -/

/-- R20, R375: what a header with YP does to its team's record. -/
def Team.yields (x : Team) (yp det : Bool) (wdlim : Nat) : Team :=
  { x with wdleft := if yp then 2 ^ wdlim else x.wdleft, yielded := if yp && !det then true else x.yielded }

theorem yields_spec (v : State) (h : Nat) (yp : Bool) :
    ∃ v', (if yp = true then (v.watch h).prefersOther h else v) = v' ∧ (∃ ts, v' = { v with teams := ts }) ∧
      HartsStay v v' h ∧ v'.team h = (v.team h).yields yp (v.det h) (v.wgOf h).launch.wdlim := by
  refine ⟨_, rfl, ?_⟩
  cases yp with
  | false => exact ⟨⟨_, rfl⟩, fun _ _ => ⟨rfl, rfl, rfl⟩, rfl⟩
  | true =>
    have hdet : (v.watch h).det h = v.det h := by simp [State.det, State.wgOf, State.watch]
    simp only [if_true, State.prefersOther, hdet]
    cases v.det h with
    | true => exact ⟨⟨_, rfl⟩, .setTeam _ _ _, State.team_setTeam ..⟩
    | false =>
      simp only [Bool.false_eq_true, if_false]
      refine ⟨⟨_, rfl⟩, (HartsStay.setTeam _ _ _).trans (.setTeam _ _ _), ?_⟩
      simp [State.watch, Team.yields]

/-- R13: a team at a header it has just fetched enters its clause, or parks there while the header's waits are not met. -/
theorem enterClause_team {v : State} {h : Nat} (hk : (v.ctx h).kind = .team) (cl : Clause) :
    (∃ cs ts, v.enterClause h cl = { v with ctxs := cs, teams := ts }) ∧ HartsStay v (v.enterClause h cl) h ∧
      (v.enterClause h cl).team h = (v.team h).yields cl.yp (v.det h) (v.wgOf h).launch.wdlim ∧
      (v.enterClause h cl).ctx h = if v.headerClear h cl.ldw cl.stw cl.mw = true then (v.ctx h).enter
        else { v.ctx h with status := .parked (.header cl.ldw cl.stw cl.mw) } := by
  obtain ⟨v', he, ⟨ts, hts⟩, hstay, hteam⟩ := yields_spec v h cl.yp
  have hctx : v'.ctx h = v.ctx h := by rw [hts]; rfl
  have hclear : v'.headerClear h cl.ldw cl.stw cl.mw = v.headerClear h cl.ldw cl.stw cl.mw := by
    have hl : (v'.team h).loads = (v.team h).loads := by rw [hteam]; rfl
    have hs : (v'.team h).stores = (v.team h).stores := by rw [hteam]; rfl
    have hf : v'.regFoal h = v.regFoal h := by rw [hts]; rfl
    simp only [State.headerClear, hl, hs, hf]
  have henter : v.enterClause h cl = v'.setCtx h (if v.headerClear h cl.ldw cl.stw cl.mw = true then (v.ctx h).enter
      else { v.ctx h with status := .parked (.header cl.ldw cl.stw cl.mw) }) := by
    simp only [State.enterClause, hk, he, hclear, State.park, hctx]
    split <;> rfl
  rw [henter]
  refine ⟨?_, hstay.trans (.setCtx _ _ _), hteam, State.ctx_setCtx ..⟩
  rw [hts]
  exact ⟨_, _, rfl⟩

theorem enterClause_thread {v : State} {h : Nat} (hk : (v.ctx h).kind = .thread) (cl : Clause) :
    v.enterClause h cl = v.setCtx h (v.ctx h).enter := by
  simp only [State.enterClause, hk]

/-! ### After a fetch -/

/-- A team's record once it stands, ready or not. -/
def Team.rests (x : Team) (ready : Bool) : Team :=
  { x with waited := if ready then x.waited else 0, withheld := if ready then x.withheld else false,
           yielded := if ready then x.yielded else false }

theorem restWait_team {e : State} {h : Nat} (hk : (e.ctx h).kind = .team) :
    (e.restWait h).team h = (e.team h).rests ((e.ctx h).status == .ready) := by
  unfold State.restWait
  cases hs : ((e.ctx h).status == .ready) with
  | true => simp [hk, bne, hs, Team.rests]
  | false => simp [hk, bne, hs, Team.rests]

theorem restWait_others (e : State) (h : Nat) : HartsStay e (e.restWait h) h := by
  unfold State.restWait
  split
  · exact .setTeam _ _ _
  · exact fun _ _ => ⟨rfl, rfl, rfl⟩

/-- R336: the turn of a sector. -/
theorem setTurn_turn {e : State} {core : Nat} (hp : (e.core core).part ≠ 0) (k n : Nat) :
    Store.get 0 ((e.setTurn core k n).core core).turn k = n := by
  have : ((e.core core).part == 0) = false := by simpa using hp
  simp only [State.setTurn, this, Bool.false_eq_true, if_false]
  show Store.get 0 (Store.get Core.blank (Store.set Core.blank e.cores core _) core).turn k = n
  rw [Store.get_set_same, Store.get_set_same]

theorem setTurn_hartsStay (e : State) (core k n h : Nat) :
    (e.setTurn core k n).team h = e.team h ∧ HartsStay e (e.setTurn core k n) h := by
  unfold State.setTurn
  simp only
  split <;> exact ⟨rfl, fun _ _ => ⟨rfl, rfl, rfl⟩⟩

/-- R20, R336: what follows when a team has fetched the clause at its header. -/
theorem afterIssue_of_fetch {e a : State} {h : Nat} {cl : Clause} (hk : (a.ctx h).kind = .team)
    (hc : (a.ctx h).clause = none) (hw : (a.ctx h).widx = 0) (hek : (e.ctx h).kind = .team)
    (hec : (e.ctx h).clause = some cl) :
    HartsStay e (e.afterIssue a h) h ∧ (e.afterIssue a h).team h = (e.team h).rests ((e.ctx h).status == .ready) ∧
      (a.det h = true → (e.core (a.coreOf h)).part ≠ 0 →
        Store.get 0 ((e.afterIssue a h).core (a.coreOf h)).turn (a.team h).sector =
          a.orderKey h + if ((e.ctx h).status != .ready || cl.yp) = true then 1 else 0) := by
  have hctx : (e.restWait h).ctx h = e.ctx h := (Waited.restWait h e).ctx h
  have hcore : (e.restWait h).core (a.coreOf h) = e.core (a.coreOf h) := by
    unfold State.restWait
    split <;> rfl
  have hf : (e.ctx h).fetched (a.ctx h) = true := by simp [Ctx.fetched, hc, hw, hec]
  have hyp : (e.ctx h).headerYp = cl.yp := by simp [Ctx.headerYp, hec]
  have he : e.afterIssue a h = if a.det h = true then
      (e.restWait h).setTurn (a.coreOf h) (a.team h).sector
        (if ((e.ctx h).status != .ready || cl.yp) = true then a.orderKey h + 1 else a.orderKey h)
      else e.restWait h := by
    simp [State.afterIssue, hk, hc, hctx, hf, hyp]
  rw [he]
  cases a.det h with
  | false =>
    simp only [Bool.false_eq_true, if_false]
    exact ⟨restWait_others e h, restWait_team hek, fun hd => hd.elim⟩
  | true =>
    simp only [if_true]
    obtain ⟨hteam, hstay⟩ := setTurn_hartsStay (e.restWait h) (a.coreOf h) (a.team h).sector
      (if ((e.ctx h).status != .ready || cl.yp) = true then a.orderKey h + 1 else a.orderKey h) h
    refine ⟨(restWait_others e h).trans hstay, hteam.trans (restWait_team hek), fun _ hp => ?_⟩
    rw [setTurn_turn (by rwa [hcore])]
    split <;> simp only [Nat.add_zero]

/-! ### The fetch -/

/-- R12, R25: the clause at a good header is fetched whole, and its hart stands at its word 0. -/
theorem fetchClause_eq {s : State} {h : Nat} {hl ls : List Loc} {w : Word} (hs : Sound s.mem s.l2)
    (hw : (s.ctx h).widx = 0) (hhl : s.codeLocs h (s.ctx h).pc 4 = .ok hl) (hword : s.codeWords h hl = [w])
    (hpc : (s.ctx h).pc.toNat % 4 = 0) (hok : headerOk w = true)
    (hls : s.codeLocs h ((s.ctx h).pc + 4#64) (4 * (w.toNat % 2 ^ 4)) = .ok ls) :
    ∃ u, Fetches s u ∧ s.fetchClause h = (u.setCtx h { s.ctx h with
      clause := some (clauseOf w (s.codeWords h ls) false) }).enterClause h (clauseOf w (s.codeWords h ls) false) := by
  have hcnt : (w.extractLsb' 0 4).toNat = w.toNat % 2 ^ 4 := by simp
  have hne : w.toNat % 2 ^ 4 ≠ 0 := ((headerOk_iff w).1 hok).2.2
  generalize w.toNat % 2 ^ 4 = cnt at hcnt hne hls
  have hu := Fetches.useCode hs h (s.ctx h).pc (4 + 4 * cnt)
  obtain ⟨ls', hls', hpa⟩ := hu.codeLocs hls
  have hwords := hu.codeWords h hpa
  refine ⟨_, hu, ?_⟩
  simp [State.fetchClause, hhl, hpc, hword, hok, hcnt, hls', hwords, hw, hne.symm]

/-- R14: a fetch at a bad header, or at no header's place, traps. -/
theorem fetchClause_bad {s : State} {h : Nat} {hl : List Loc} {w : Word} (hs : Sound s.mem s.l2)
    (hhl : s.codeLocs h (s.ctx h).pc 4 = .ok hl) (hword : s.codeWords h hl = [w])
    (hbad : ¬((s.ctx h).pc.toNat % 4 = 0 ∧ headerOk w = true)) :
    ∃ u, Stands s u ∧ s.fetchClause h = u.fetchTrap h .illegalClause 0#64 := by
  by_cases hpc : (s.ctx h).pc.toNat % 4 = 0
  · have hok : headerOk w = false := by simpa [hpc] using hbad
    exact ⟨_, .of_fetches (.useCode hs h (s.ctx h).pc 4), by simp [State.fetchClause, hhl, hpc, hword, hok]⟩
  · exact ⟨s, .refl s, by simp [State.fetchClause, hhl, hpc]⟩

/-- What the fetch and the entry of a clause leave of a hart, of its sector's turn and of all others. -/
structure Enters (s t : State) (h : Nat) (cl : Clause) (waits yp : Bool) : Prop where
  ctx : ∃ e, t.ctx h = { s.ctx h with
    clause := some { cl with entered := e },
    status := if waits then .parked (.header cl.ldw cl.stw cl.mw) else .ready }
  team : t.team h = ((s.team h).yields yp (s.det h) (s.wgOf h).launch.wdlim).rests !waits
  turn : (s.ctx h).kind = .team → s.det h = true → (s.core (s.coreOf h)).part ≠ 0 →
    Store.get 0 (t.core (s.coreOf h)).turn (s.team h).sector = s.orderKey h + if (waits || yp) = true then 1 else 0
  others : HartsStay s t h
  memory : SameMemory s t
  vregs : ∀ k r, t.vreg k r = s.vreg k r

theorem Fetches.others {s u : State} (hu : Fetches s u) (k : Nat) :
    u.ctx k = s.ctx k ∧ u.team k = s.team k ∧ u.thread k = s.thread k := by
  obtain ⟨_, _, _, _, _, rfl⟩ := hu.reads
  exact ⟨rfl, rfl, rfl⟩

theorem Fetches.vreg {s u : State} (hu : Fetches s u) (k r : Nat) : u.vreg k r = s.vreg k r := by
  obtain ⟨_, _, _, _, _, rfl⟩ := hu.reads
  rfl

theorem Fetches.sameMemory {s u : State} (hu : Fetches s u) : SameMemory s u := (Stands.of_fetches hu).memory

theorem Enters.of_thread {s u : State} {h : Nat} (hu : Fetches s u) (cl : Clause) (hk : (s.ctx h).kind = .thread)
    (hready : (s.ctx h).status = .ready) :
    Enters s (((u.setCtx h { s.ctx h with clause := some cl }).enterClause h cl).afterIssue s h) h cl false false := by
  have hafter : ∀ e : State, e.afterIssue s h = e := fun e => by simp only [State.afterIssue, hk]
  have hv : ((u.setCtx h { s.ctx h with clause := some cl }).ctx h).kind = .thread := by rw [State.ctx_setCtx]; exact hk
  rw [hafter, enterClause_thread hv]
  refine ⟨⟨true, ?_⟩, ?_, fun ht => ?_, fun k hne => ?_, hu.sameMemory, hu.vreg⟩
  · rw [State.ctx_setCtx, State.ctx_setCtx]
    simp [Ctx.enter, hready]
  · exact (hu.others h).2.1
  · rw [hk] at ht
    cases ht
  · obtain ⟨hc, ht, hx⟩ := hu.others k
    exact ⟨(State.ctx_setCtx_ne _ _ hne).trans ((State.ctx_setCtx_ne _ _ hne).trans hc), ht, hx⟩

theorem Enters.of_team {s u : State} {h : Nat} (hu : Fetches s u) (cl : Clause) (hk : (s.ctx h).kind = .team)
    (hready : (s.ctx h).status = .ready) (hc : (s.ctx h).clause = none) (hw : (s.ctx h).widx = 0) :
    Enters s (((u.setCtx h { s.ctx h with clause := some cl }).enterClause h cl).afterIssue s h) h cl
      (!s.headerClear h cl.ldw cl.stw cl.mw) cl.yp := by
  set v := u.setCtx h { s.ctx h with clause := some cl } with hv
  have hctx : v.ctx h = { s.ctx h with clause := some cl } := State.ctx_setCtx ..
  obtain ⟨⟨cs, ts, hrest⟩, hstay, hteam, hent⟩ := enterClause_team (v := v) (h := h) (by rw [hctx]; exact hk) cl
  have hsame : v.team h = s.team h ∧ v.det h = s.det h ∧ v.wgOf h = s.wgOf h ∧
      v.headerClear h cl.ldw cl.stw cl.mw = s.headerClear h cl.ldw cl.stw cl.mw ∧ v.cores = s.cores := by
    obtain ⟨_, _, _, _, _, rfl⟩ := hu.reads
    exact ⟨rfl, rfl, rfl, rfl, rfl⟩
  obtain ⟨hvt, hvd, hvw, hvc, hvcores⟩ := hsame
  rw [hvt, hvd, hvw] at hteam
  rw [hvc, hctx] at hent
  generalize v.enterClause h cl = e at *
  have hcore : ∀ c, e.core c = s.core c := fun c => by
    rw [hrest]
    show Store.get Core.blank v.cores c = _
    rw [hvcores]
    rfl
  have hekind : (e.ctx h).kind = .team := by
    rw [hent]
    split <;> exact hk
  have hestatus : ((e.ctx h).status == .ready) = s.headerClear h cl.ldw cl.stw cl.mw := by
    rw [hent]
    cases s.headerClear h cl.ldw cl.stw cl.mw
    · rfl
    · simp [Ctx.enter, hready]
  have hentered : ∃ b, e.ctx h = { s.ctx h with
      clause := some { cl with entered := b },
      status := if (!s.headerClear h cl.ldw cl.stw cl.mw) = true then .parked (.header cl.ldw cl.stw cl.mw) else .ready } := by
    rw [hent]
    cases s.headerClear h cl.ldw cl.stw cl.mw
    · exact ⟨cl.entered, rfl⟩
    · refine ⟨true, ?_⟩
      simp [Ctx.enter, hready]
  obtain ⟨b, hentered⟩ := hentered
  have hclause : (e.ctx h).clause = some { cl with entered := b } := by rw [hentered]
  obtain ⟨hothers, hhart, hturn⟩ := afterIssue_of_fetch hk hc hw hekind hclause
  have hwaited := Waited.afterIssue e s h
  refine ⟨⟨b, ?_⟩, ?_, fun _ hd hp => ?_, ?_, ?_, fun k r => ?_⟩
  · exact (hwaited.ctx h).trans hentered
  · rw [hhart, hteam, hestatus, Bool.not_not]
  · rw [hturn hd (by rwa [hcore]), bne, hestatus]
  · refine HartsStay.trans (fun k hne => ?_) (hstay.trans hothers)
    obtain ⟨hc, ht, hx⟩ := hu.others k
    exact ⟨(State.ctx_setCtx_ne _ _ hne).trans hc, ht, hx⟩
  · obtain ⟨hhome, hsp⟩ := hu.sameMemory
    obtain ⟨hhome', hsp'⟩ := hwaited.sameMemory
    have he : SameMemory u e := by
      rw [hrest]
      exact .of_eq rfl rfl rfl
    exact ⟨fun l => (hhome' l).trans ((he.1 l).trans (hhome l)), fun g o => (hsp' g o).trans ((he.2 g o).trans (hsp g o))⟩
  · rw [hwaited.vreg, hrest]
    exact hu.vreg k r

/-- Only a ready team or thread may issue. -/
theorem ready_of_mayIssue {s : State} {h : Nat} (hmay : s.mayIssue h = true) :
    (s.ctx h).status = .ready ∧ ((s.ctx h).kind = .team ∨ (s.ctx h).kind = .thread) := by
  unfold State.mayIssue at hmay
  cases hk : (s.ctx h).kind <;> simp [hk] at hmay ⊢
  · exact hmay
  · exact hmay.1

/-- R13: the waits of a header. -/
theorem headerClear_iff (s : State) (h ldw stw : Nat) (mw : Bool) : s.headerClear h ldw stw mw = true ↔
    (ldw = 7 ∨ (s.team h).loads ≤ ldw) ∧ (stw = 7 ∨ (s.team h).stores ≤ stw) ∧ (mw = true → s.regFoal h = false) := by
  cases mw <;> simp [State.headerClear, and_assoc]

/-- The fetch of a good clause, by the kind of its hart. -/
theorem Enters.of_fetches {s u : State} {h : Nat} (hu : Fetches s u) (cl : Clause) (hmay : s.mayIssue h = true)
    (hc : (s.ctx h).clause = none) (hw : (s.ctx h).widx = 0) :
    ∃ waits yp, Enters s (((u.setCtx h { s.ctx h with clause := some cl }).enterClause h cl).afterIssue s h) h cl waits yp ∧
      (waits = true ↔ (s.ctx h).kind = .team ∧ ¬s.headerClear h cl.ldw cl.stw cl.mw = true) ∧
      (yp = true ↔ (s.ctx h).kind = .team ∧ cl.yp = true) := by
  obtain ⟨hready, hk | hk⟩ := ready_of_mayIssue hmay
  · exact ⟨_, _, .of_team hu cl hk hready hc hw, by simp [hk], by simp [hk]⟩
  · exact ⟨_, _, .of_thread hu cl hk hready, by simp [hk], by simp [hk]⟩

end Sys2Proof.Machine

namespace Sys2Proof.Claims
open Sys2Proof.Machine

theorem clausesAreFetchedAndChecked : ClausesAreFetchedAndChecked := by
  intro s hl ls w hsound h c x bits good
  have hs : Sound s.mem s.l2 := (soundMemory_iff s).1 hsound
  refine ⟨fun hmay hc hw hhl hword => ?_, fun hmay hat hop => ?_, fun hno => ?_⟩
  · have hgood : good ↔ c.pc.toNat % 4 = 0 ∧ headerOk w = true := by
      rw [headerOk_iff]
      simp [bits, good]
    have hexec : exec .clauseFetch s = .next ((s.fetchClause s.cur).afterIssue s s.cur) := by
      show execClauseFetch s = _
      simp only [execClauseFetch, show s.mayIssue s.cur = true from hmay, show (s.ctx s.cur).clause = none from hc,
        Option.isNone_none, Bool.and_self, if_true]
    rw [hexec]
    refine ⟨fun hbad => ?_, fun hok hls => ?_⟩
    · obtain ⟨u, hu, hf⟩ := fetchClause_bad hs hhl hword (fun hok => hbad (hgood.2 hok))
      rw [hf]
      exact .of_fetchTrap hu hc hw .illegalClause
    · obtain ⟨hpc, hok'⟩ := hgood.1 hok
      have hcnt : bits 3 0 = w.toNat % 2 ^ 4 := by simp [bits]
      rw [hcnt] at hls
      obtain ⟨u, hu, hf⟩ := fetchClause_eq hs hw hhl hword hpc hok' hls
      rw [hf]
      intro ldw stw waits yp
      set cl := clauseOf w (s.codeWords h ls) false with hcl
      have hldw : cl.ldw = ldw := field_toNat w 6 3
      have hstw : cl.stw = stw := field_toNat w 9 3
      have hmw : cl.mw = true ↔ bits 12 12 = 1 := getLsbD_iff w 12
      have hyp : cl.yp = true ↔ bits 13 13 = 1 := getLsbD_iff w 13
      have hmw' : cl.mw = decide (bits 12 12 = 1) := by simp only [← hmw, Bool.decide_eq_true]
      obtain ⟨W, Y, ⟨⟨b, hctx⟩, hteam, hturn, hothers, hmem, hvregs⟩, hW, hY⟩ := Enters.of_fetches hu cl hmay hc hw
      have hwaits : W = true ↔ waits := by rw [hW, headerClear_iff, hldw, hstw, hmw]
      have hyields : Y = true ↔ yp := by rw [hY, hyp]
      have hrecord : ((s.team h).yields Y (s.det h) (s.wgOf h).launch.wdlim).rests (!W) = { x with
          wdleft := if Y then 2 ^ (s.wgOf h).launch.wdlim else x.wdleft,
          yielded := if W then false else if Y = true ∧ s.det h = false then true else x.yielded,
          waited := if W then 0 else x.waited,
          withheld := if W then false else x.withheld } := by
        cases W <;> cases Y <;> cases s.det h <;> rfl
      refine ⟨_, _, rfl, congrArg Ctx.clause hctx, rfl, headerClass_eq w, (congrArg Ctx.pc hctx :),
        (congrArg Ctx.widx hctx).trans hw, ?_, ?_, fun hk hd hp => ?_, fun r => ?_, (congrArg Ctx.scc hctx :),
        fun r _ => hvregs _ r, hmem, fun k hne => ⟨(hothers k hne).1, (hothers k hne).2.1, fun r _ => hvregs k r⟩⟩
      · rw [congrArg Ctx.status hctx, if_congr hwaits rfl rfl, hldw, hstw, hmw']
      · rw [hteam, hrecord, if_congr hwaits rfl rfl, if_congr hwaits rfl rfl, if_congr hwaits rfl rfl,
          if_congr hyields rfl rfl, if_congr (and_congr_left' hyields) rfl rfl]
      · rw [hturn hk hd hp, if_congr (by rw [Bool.or_eq_true, hwaits, hyields]) rfl rfl]
      · exact congrArg (fun c => Store.get 0#64 c.sregs r.toNat) hctx
  · have he : exec (.reservedOpcodeIssue w) s = .next ((s.raise s.cur .illegalOpcode 1).afterIssue s s.cur) := by
      show execReservedOpcodeIssue w s = _
      have hr : reservedWord w = true := reservedWord_of_opcode hop
      simp only [execReservedOpcodeIssue, show s.mayIssue s.cur = true from hmay,
        show (s.ctx s.cur).standsAt w = true from hat, hr, Bool.and_self, if_true]
    rw [he]
    exact .of_raise (.refl s) .illegalOpcode 1
  · show execReservedOpcodeIssue w s = _
    have : (s.mayIssue s.cur && (s.ctx s.cur).standsAt w) = false := by
      rcases hno with hno | hno
      · simp [show s.mayIssue s.cur = false from hno]
      · simp [show (s.ctx s.cur).standsAt w = false from hno]
    simp only [execReservedOpcodeIssue, this, Bool.false_and, Bool.false_eq_true, if_false]

end Sys2Proof.Claims
end

section

open Sys2Proof Sys2Proof.Claims

/-- Settles O45: the fetch by the checks of its header and its waits, the parks and the boundary traps by their causes. -/
theorem fetchParksAndBoundaryTraps : Obligations.FetchParksAndBoundaryTraps :=
  ⟨clausesAreFetchedAndChecked, parksEndAndBoundariesTrap⟩

end

section
/-! What follows from a change (`State.sweep`) makes no hart: every context keeps its kind (R53, R254, R261, R324). -/

namespace Sys2Proof.Machine

/-- Every hart's context has the kind it had. -/
structure KeepsKinds (s t : State) : Prop where
  kind : ∀ h, (t.ctx h).kind = (s.ctx h).kind

namespace KeepsKinds

theorem of_eq {s t : State} (h : t.ctxs = s.ctxs) : KeepsKinds s t := by
  refine ⟨fun k => ?_⟩
  unfold State.ctx
  rw [h]

theorem refl (s : State) : KeepsKinds s s := .of_eq rfl

theorem trans {s t u : State} (hst : KeepsKinds s t) (htu : KeepsKinds t u) : KeepsKinds s u :=
  ⟨fun h => (htu.kind h).trans (hst.kind h)⟩

theorem foldl {α : Type} {f : State → α → State} (hf : ∀ s a, KeepsKinds s (f s a)) (l : List α) (s : State) :
    KeepsKinds s (l.foldl f s) := by
  induction l generalizing s with
  | nil => exact .refl s
  | cons a r ih => exact (hf s a).trans (ih _)

theorem of_readsHome {s t : State} (h : ReadsHome s t) : KeepsKinds s t := by
  obtain ⟨_, _, _, _, _, rfl⟩ := h
  exact .of_eq rfl

/-! ### Memory -/

theorem setCtx (s : State) {h : Nat} {c : Ctx} (hc : c.kind = (s.ctx h).kind) : KeepsKinds s (s.setCtx h c) := by
  refine ⟨fun k => ?_⟩
  by_cases hk : k = h
  · subst hk
    rw [State.ctx_setCtx, hc]
  · rw [State.ctx_setCtx_ne s c hk]

theorem done (s : State) (h n : Nat) (sw : Bool) : KeepsKinds s (s.done h n sw) := by
  refine ⟨fun k => ?_⟩
  by_cases hk : k = h
  · subst hk
    rw [State.done_ctx]
    exact (Ctx.past_spec (s.ctx k) n).1
  · rw [State.done_ctx_ne s n sw hk]

theorem useAll (s : State) (owner : Nat) (bs : List Loc) : KeepsKinds s (s.useAll owner bs) :=
  foldl (fun s l => .of_readsHome (s.useHome_reads owner l)) _ s

theorem waitMet (s : State) (h : Nat) (sc sw : Bool) : KeepsKinds s (s.waitMet h sc sw) := by
  unfold State.waitMet
  refine trans (t := ite _ _ _) ?_ (.done ..)
  have hready : KeepsKinds s (s.setCtx h { s.ctx h with status := .ready }) := .setCtx s rfl
  split
  · exact hready
  · obtain ⟨_, _, _, e⟩ := State.acquire_rest (s.setCtx h { s.ctx h with status := .ready }) h .pkg
    exact hready.trans (.of_eq (by rw [e]))

theorem readWait (s : State) (h : Nat) (sc : Bool) (pl : List Loc) (c : WaitCond) (y : DWord) (sw : Bool) :
    KeepsKinds s (s.readWait h sc pl c y sw) := by
  have hread : KeepsKinds s (if sc then s else s.useAll (s.owner h) pl) := by
    split
    · exact .refl s
    · exact .useAll ..
  unfold State.readWait
  simp only
  split
  · exact .refl s
  · split
    · exact hread.trans (.waitMet ..)
    · exact hread

theorem reread (s : State) (h : Nat) : KeepsKinds s (s.reread h) := by
  unfold State.reread
  split
  · exact .readWait ..
  all_goals exact .refl s

theorem spWrite (s : State) (g o : Nat) (bs : List Byte) : KeepsKinds s (s.spWrite g o bs) := by
  unfold State.spWrite
  refine foldl (fun _ _ => ?_) _ s
  exact .of_eq rfl

theorem scratch (s : State) (g o : Nat) (bs : List Byte) : KeepsKinds s (s.scratch g o bs) :=
  (spWrite s g o bs).trans (foldl (fun s h => .reread s h) _ _)

theorem writeBack (s : State) (x : L2Line) : KeepsKinds s (s.writeBack x) := .of_readsHome (s.writeBack_reads x)

theorem putL2 (s : State) (k : Nat) (x : L2Line) : KeepsKinds s (s.putL2 k x) := .of_eq rfl

theorem meterAdd (s : State) (p sel n : Nat) : KeepsKinds s (s.meterAdd p sel n) := .of_readsHome (s.meterAdd_reads p sel n)

theorem meterWrite (s : State) (owner line n : Nat) : KeepsKinds s (s.meterWrite owner line n) := by
  unfold State.meterWrite
  split
  · exact .meterAdd ..
  · split
    · exact .refl s
    · exact .meterAdd ..

theorem writeHomeByte (s : State) (owner : Nat) (l : Loc) (b : Byte) : KeepsKinds s (s.writeHomeByte owner l b) := by
  have hfill : KeepsKinds s (s.fillHome owner l) := .of_readsHome (s.fillHome_reads owner l)
  unfold State.writeHomeByte
  simp only
  split
  · exact hfill.trans (.of_eq rfl)
  · split
    · exact hfill.trans (.of_eq rfl)
    · exact (hfill.trans (.writeBack ..)).trans (.putL2 ..)

theorem writeHome (s : State) (owner : Nat) (src : Option Nat) (bs : List (Loc × Byte)) :
    KeepsKinds s (s.writeHome owner src bs) := by
  unfold State.writeHome
  extract_lets s₁ s₂ invs l2
  have h₁ : KeepsKinds s s₁ := foldl (fun s p => .writeHomeByte s owner p.1 p.2) bs s
  have h₂ : KeepsKinds s₁ s₂ := foldl (fun s _ => .meterWrite s ..) _ s₁
  exact (h₁.trans h₂).trans (.of_eq rfl)

theorem write (s : State) (owner : Nat) (src : Option Nat) (bs : List (Loc × Byte)) : KeepsKinds s (s.write owner src bs) :=
  (writeHome s owner src bs).trans (foldl (fun s h => .reread s h) _ _)

theorem writeVa {s t : State} {part : Nat} {va : Addr} {bs : List Byte} (h : s.writeVa part va bs = some t) :
    KeepsKinds s t := by
  unfold State.writeVa at h
  split at h
  · cases h
  · cases h
    refine trans (foldl (fun s p => ?_) _ s) (.write ..)
    unfold State.chargeWalk
    split
    · exact .refl s
    · exact .useAll ..

/-! ### Entities -/

theorem msix (s : State) (fn v : Nat) : KeepsKinds s (s.msix fn v) := by
  unfold State.msix
  simp only
  split <;> exact .of_eq rfl

theorem queueErr (s : State) (part q : Nat) : KeepsKinds s (s.queueErr part q) := by
  unfold State.queueErr
  simp only
  refine trans ?_ (.msix ..)
  split
  · cases hw : s.writeVa part _ _ with
    | none => exact .refl s
    | some t => exact .writeVa hw
  · exact .refl s
  · exact .refl s

theorem writeSignal (s : State) (part q : Nat) (va : DWord) (status reason : Nat) (launch : Word) :
    KeepsKinds s (s.writeSignal part q va status reason launch) := by
  unfold State.writeSignal
  split
  · exact .refl s
  · split
    · exact .queueErr ..
    · split
      · rename_i t hw
        exact .writeVa hw
      · exact .queueErr ..

theorem counterAdd (s : State) (e : Nat) (v : Int) : KeepsKinds s (s.counterAdd e v) := .of_eq rfl

theorem completeEntity (s : State) (e : Nat) : KeepsKinds s (s.completeEntity e) := by
  unfold State.completeEntity
  extract_lets x s₁
  have h₁ : KeepsKinds s s₁ := .of_eq rfl
  split
  · exact h₁
  · rename_i r _
    extract_lets s₂ s₃ s₄ p q s₅
    have h₂ : KeepsKinds s₁ s₂ := .writeSignal ..
    have h₃ : KeepsKinds s₂ s₃ := by
      unfold s₃
      split
      · exact .counterAdd ..
      · exact .refl _
    have h₄ : KeepsKinds s₃ s₄ := foldl (fun s a => .counterAdd s a (-1)) _ _
    have h₅ : KeepsKinds s₄ s₅ := .of_eq rfl
    have h₆ : KeepsKinds s₅ { s₅ with oldCode := Store.keep (fun k _ => k / 2 ^ 52 != e) s₅.oldCode } := .of_eq rfl
    exact ((((h₁.trans h₂).trans h₃).trans h₄).trans h₅).trans h₆

/-! ### Foals -/

theorem transmit (s : State) (p : Nat) (f : Frame) : KeepsKinds s (s.transmit p f) := by
  unfold State.transmit
  simp only
  refine trans (t := ite _ _ _) ?_ (.of_eq rfl)
  split
  · exact .meterAdd ..
  · exact .refl s

theorem inject {s t : State} {f : Frame} (h : s.inject f = some t) : KeepsKinds s t := by
  unfold State.inject at h
  split at h
  · cases h
  · split at h
    · cases h
      exact .transmit ..
    · cases h

theorem sendJob (s : State) (f : Frame) : KeepsKinds s (s.sendJob f) := by
  unfold State.sendJob
  simp only
  split
  · split
    · rename_i t ht
      exact .inject ht
    · exact .of_eq rfl
  · exact .of_eq rfl

theorem endNotice (s : State) (k : Nat) (f : Foal) (st : FoalStatus) : KeepsKinds s (s.endNotice k f st) := by
  unfold State.endNotice
  split
  · split
    · exact .sendJob ..
    · exact .refl s
  all_goals exact .refl s

theorem ringIdle (s : State) (f : Foal) : KeepsKinds s (s.ringIdle f) := by
  unfold State.ringIdle
  split
  · split
    · exact .scratch ..
    · exact .refl s
  all_goals exact .refl s

theorem endFrozen (s : State) (k : Nat) (f : Foal) : KeepsKinds s (s.endFrozen k f) := by
  unfold State.endFrozen
  split
  · exact .refl s
  · split
    · exact .refl s
    · unfold State.markFrozen
      simp only
      split
      · exact .refl s
      · exact .scratch ..

theorem uncount (s : State) (f : Foal) : KeepsKinds s (s.uncount f) := by
  unfold State.uncount
  split <;> exact .of_eq rfl

/-- A foal that is cancelled ends; nothing is reported of it. -/
theorem endFoal_cancelled (s : State) (k : Nat) (addr : DWord) : KeepsKinds s (s.endFoal k .cancelled none addr) := by
  unfold State.endFoal
  split
  · exact .refl s
  · rename_i f _
    split
    · exact .refl s
    · extract_lets f' s₁ s₂ c s₃ s₄
      have h₁ : KeepsKinds s s₁ := by
        unfold s₁
        exact trans (t := (s.putFoal k f').returnPages f.wg f.pages) (.of_eq rfl) (.ringIdle ..)
      have h₂ : KeepsKinds s s₂ := h₁.trans (.endFrozen ..)
      have h₃ : KeepsKinds s s₃ := h₂.trans (by unfold s₃; split <;> exact .of_eq rfl)
      have h₄ : KeepsKinds s s₄ := h₃.trans (.endNotice ..)
      split
      · exact h₄.trans (.uncount ..)
      · exact h₄

theorem adoptByEntity (s : State) (k : Nat) (f : Foal) (es : List Nat) : KeepsKinds s (s.adoptByEntity k f es) := by
  unfold State.adoptByEntity
  simp only
  split
  · exact .of_eq rfl
  · split <;> exact .of_eq rfl

/-! ### The sweep -/

theorem sweepFoal {s t : State} {k : Nat} {f : Foal} (h : s.sweepFoal k f = some t) : KeepsKinds s t := by
  unfold State.sweepFoal at h
  split at h
  · cases h
  · split at h
    · cases h
      exact .endFoal_cancelled ..
    · split at h
      · cases h
      · split at h
        · cases h
          exact .of_eq rfl
        · split at h
          · cases h
          · split at h
            · cases h
              exact .of_eq rfl
            · cases h
              exact .endFoal_cancelled ..

theorem sweepWg {s t : State} {g : Nat} {w : Workgroup} (h : s.sweepWg g w = some t) : KeepsKinds s t := by
  unfold State.sweepWg at h
  split at h
  · cases h
  · simp only at h
    split at h
    · cases h
      exact .adoptByEntity ..
    · split at h
      · cases h
        exact .of_eq rfl
      · cases h

theorem sweepEntity {s t : State} {e : Nat} {x : Entity} (h : s.sweepEntity e x = some t) : KeepsKinds s t := by
  unfold State.sweepEntity at h
  split at h
  · cases h
    exact .completeEntity ..
  · split at h
    · cases h
    · simp only at h
      split at h
      · split at h
        · cases h
        · cases h
          exact trans (.adoptByEntity ..) (.counterAdd ..)
      · cases h

theorem sweepSlot {s t : State} {k : Nat} {f : Foal} (h : s.sweepSlot k f = some t) : KeepsKinds s t := by
  unfold State.sweepSlot at h
  split at h
  · cases h
    exact .of_eq rfl
  · cases h

theorem sweepCore {s t : State} {c : Nat} {x : Core} (h : s.sweepCore c x = some t) : KeepsKinds s t := by
  unfold State.sweepCore at h
  split at h
  · cases h
    exact .of_eq rfl
  · cases h

theorem sweepOnce {s t : State} (h : s.sweepOnce = some t) : KeepsKinds s t := by
  simp only [State.sweepOnce, Option.orElse_eq_or, Option.or_eq_some_iff, List.findSome?_eq_some_iff] at h
  rcases h with h | ⟨-, h | ⟨-, h | ⟨-, h | ⟨-, h⟩⟩⟩⟩
  all_goals obtain ⟨_, e, _, _, h, -⟩ := h
  · exact .sweepFoal h
  · exact .sweepWg h
  · exact .sweepEntity h
  · exact .sweepSlot h
  · exact .sweepCore h

theorem sweepGo (n : Nat) (s : State) : KeepsKinds s (State.sweepGo n s) := by
  induction n generalizing s with
  | zero => exact .refl s
  | succ n ih =>
    unfold State.sweepGo
    split
    · exact .refl s
    · rename_i t ht
      exact (sweepOnce ht).trans (ih t)

end KeepsKinds

/-- Where a hart is not absent afterwards, nothing has followed from the change. -/
theorem State.afterPart_of_present {t u : State} {h : Nat} (e : t.afterPart h = u) (hk : (u.ctx h).kind ≠ .absent) :
    t = u := by
  unfold State.afterPart at e
  split at e
  · rename_i ha
    have ha : (t.ctx h).kind = .absent := by simpa using ha
    rw [← e, State.sweep, (KeepsKinds.sweepGo _ t).kind h] at hk
    exact absurd ha hk
  · exact e

end Sys2Proof.Machine
end

section
/-! A load that its team's core does not show (O46): `quiet` is a store's mark, and the statement does not ask that a load be
without it. The return of one lane of such a load takes the mark away (R163, R164). -/

namespace Sys2Proof.Machine

/-- A load of two words of the scratchpad, into two lanes of v[1], marked as a store that is not shown. -/
def quietLoad : Req :=
  { id := 0, kind := .load, space := .scratch, dest := .vec 1, sext := false, reach := .near, acquire := none, pc := 0#64,
    widx := 0, word := 0#32, todo := [⟨0, 0#64, spLocs 0 4, 0, 0, []⟩, ⟨1, 4#64, spLocs 4 4, 0, 0, []⟩], back := [],
    deps := [], pois := [], quiet := true, applied := [] }

/-- Team 0 has that load on its way, and nothing else. -/
def quietLoadState : State :=
  { State.reset with
    ctxs := [(0, { Ctx.blank with kind := .team })], teams := [(0, { Team.blank with reqs := [quietLoad] })] }

/-- Lane 0 has landed, lane 1 has not, and the load is quiet no longer. -/
theorem quietLoad_shown : ∃ u, exec (.loadReturn 0 0 (1#1024 <<< 0)) quietLoadState = .next u ∧
    ((u.team 0).req 0).map Req.quiet = some false ∧ (u.ctx 0).kind = .team := by
  refine ⟨(quietLoadState.loadReturn 0 0 (1#1024 <<< 0)).afterPart 0, rfl, ?_⟩
  decide +kernel

end Sys2Proof.Machine

open Sys2Proof Sys2Proof.Machine

/-- Refutes O46: of a load of two lanes with `quiet` set, the return of lane 0 leaves the request with `quiet` cleared
(`showStores`), where the statement has the request as it was but for the lane. No instruction makes such a load: `quiet`
is set for stores alone (`Team.hazard`). -/
theorem not_loadsAndWritesArePerformed : ¬Obligations.LoadsAndWritesArePerformed := by
  unfold Obligations.LoadsAndWritesArePerformed
  rintro ⟨hloads, -⟩
  obtain ⟨u, hexec, hshown, hkind⟩ := quietLoad_shown
  have hsound : SoundMemory quietLoadState := ⟨by decide, by decide, by decide, fun e he => absurd he (by decide +revert)⟩
  obtain ⟨hlands, -⟩ := hloads quietLoadState 0 0 quietLoad ⟨0, 0#64, spLocs 0 4, 0, 0, []⟩ hsound (by decide) (by decide)
    rfl rfl (by decide) (by decide) (by decide) (by decide)
  obtain ⟨t, he, -, hreq, -⟩ := hlands rfl
  obtain ⟨-, hreq⟩ := hreq (by decide)
  have hu : t = u := by
    rw [hexec] at he
    injection he with he
    exact State.afterPart_of_present he.symm (by rw [hkind]; decide)
  subst hu
  rw [hreq] at hshown
  exact absurd hshown (by decide)

end

section
/-! The placement of a workgroup (O55): the core it takes, the teams it starts, the scratchpad and the L1 (R52, R59, R60,
R66, R328). -/

namespace Sys2Proof.Machine

/-! ### The core -/

/-- A core has been taken for a partition: only its own record has changed, and it keeps CGEN and its step. -/
structure TakesCore (s u : State) (core part : Nat) : Prop where
  rest : ∃ cs, u = { s with cores := cs }
  cgen : (u.core core).cgen = (s.core core).cgen
  step : (u.core core).step = (s.core core).step
  part : part ≠ 0 → (u.core core).part = part

/-- A free core gets a context of the partition, which keeps CGEN and runs; a core of the partition stays as it is. -/
theorem TakesCore.of_coreFree {s : State} {core part : Nat} (hfree : s.coreFree core part = true) (job : Word) (inc : Nat) :
    TakesCore s
      (if (s.core core).part == 0 then
        s.setCore core { Core.blank with cgen := (s.core core).cgen, part := part, job := job, inc := inc } else s)
      core part := by
  simp only [State.coreFree, Bool.and_eq_true, Bool.or_eq_true, beq_iff_eq] at hfree
  obtain ⟨⟨-, hpart⟩, hstep⟩ := hfree
  split
  · have hcore : ∀ c, (s.setCore core c).core core = c := fun c => Store.get_set_same
    exact ⟨⟨_, rfl⟩, by rw [hcore], by rw [hcore, hstep]; rfl, fun _ => by rw [hcore]⟩
  · next hheld =>
    have hheld : (s.core core).part ≠ 0 := by simpa using hheld
    exact ⟨⟨s.cores, rfl⟩, rfl, rfl, fun _ => hpart.resolve_left hheld⟩

theorem TakesCore.freeSteps {s u : State} {core part : Nat} (hu : TakesCore s u core part) (k : Nat) :
    u.freeSteps k = s.freeSteps k := by
  obtain ⟨cs, rfl⟩ := hu.rest
  rfl

theorem TakesCore.l1 {s u : State} {core part : Nat} (hu : TakesCore s u core part) : u.l1 = s.l1 := by
  obtain ⟨cs, rfl⟩ := hu.rest
  rfl

/-! ### The teams -/

/-- What a team and its hart hold at their start, beside the team's sector (R66, R70). -/
structure StartsAt (d : Launch) (g wgix i : Nat) (c : Ctx) (x : Team) : Prop where
  hart : (c.kind, c.status, c.pc, c.widx, c.clause) = (.team, .ready, d.code, 0, none)
  scc : c.scc = false
  sregs : ∀ n : SReg, Store.get 0#64 c.sregs n.toNat =
    if n = 0#6 then d.args else if n = 1#6 then BitVec.ofNat 64 wgix else if n = 2#6 then BitVec.ofNat 64 i else 0#64
  place : (x.wg, x.teamix, x.width, x.vregs) = (g, i, d.width, d.vregs)
  exec : ∀ l, l < 1024 → x.exec.getLsbD l = decide (l < d.width)
  prio : x.prio = min d.prio d.ceil
  watchdog : x.wdleft = 2 ^ d.wdlim
  idle : x.depth = 0 ∧ x.flags = 0#5 ∧ x.reqs = []

/-- The first three scalars hold three values and every other one 0. -/
theorem sregs_of_three (a b c : DWord) (n : SReg) :
    Store.get 0#64 (Store.set 0#64 (Store.set 0#64 (Store.set 0#64 [] 0 a) 1 b) 2 c) n.toNat =
      if n = 0#6 then a else if n = 1#6 then b else if n = 2#6 then c else 0#64 := by
  have hne : ∀ {k : SReg}, n ≠ k → n.toNat ≠ k.toNat := fun h e => h (BitVec.eq_of_toNat_eq e)
  by_cases h2 : n = 2#6
  · subst h2; exact Store.get_set_same
  refine (Store.get_set_other (hne h2)).trans ?_
  by_cases h1 : n = 1#6
  · subst h1; exact Store.get_set_same
  refine (Store.get_set_other (hne h1)).trans ?_
  by_cases h0 : n = 0#6
  · subst h0; exact Store.get_set_same
  refine (Store.get_set_other (hne h0)).trans ?_
  rw [Store.get_nil, if_neg h0, if_neg h1, if_neg h2]

/-- The lanes of a mask of the lowest lanes. -/
theorem maskBelow_getLsbD (w : Nat) {l : Nat} (hl : l < 1024) : (maskBelow w).getLsbD l = decide (l < w) := by
  rw [maskBelow, BitVec.getLsbD_ofNat, Nat.testBit_two_pow_sub_one, decide_eq_true hl, Bool.true_and]

theorem State.startTeam_startsAt (s : State) (g : Nat) (x : Workgroup) (slot i h : Nat) :
    StartsAt x.launch g x.wgix i ((s.startTeam g x slot i h).ctx h) ((s.startTeam g x slot i h).team h) := by
  rw [State.startTeam, State.ctx_setTeam, State.ctx_setCtx, State.team_setTeam]
  exact ⟨rfl, rfl, fun _ => sregs_of_three .., rfl, fun _ hl => maskBelow_getLsbD _ hl, rfl, rfl, rfl, rfl, rfl⟩

theorem State.startTeam_ne (s : State) (g : Nat) (x : Workgroup) (slot i : Nat) {h k : Nat} (hk : k ≠ h) :
    (s.startTeam g x slot i h).ctx k = s.ctx k ∧ (s.startTeam g x slot i h).team k = s.team k :=
  ⟨(State.ctx_setTeam ..).trans (State.ctx_setCtx_ne s _ hk), State.team_setTeam_ne _ _ hk⟩

/-- The start of a workgroup's teams, each given as its hart and its TEAMIX. -/
def State.startTeams (s : State) (g : Nat) (x : Workgroup) (slot : Nat) (ps : List (Nat × Nat)) : State :=
  ps.foldl (fun s p => s.startTeam g x slot p.2 p.1) s

/-- Only harts and team records change. -/
theorem State.startTeams_rest (s : State) (g : Nat) (x : Workgroup) (slot : Nat) (ps : List (Nat × Nat)) :
    ∃ cs ts, s.startTeams g x slot ps = { s with ctxs := cs, teams := ts } := by
  induction ps generalizing s with
  | nil => exact ⟨s.ctxs, s.teams, rfl⟩
  | cons p ps ih =>
    obtain ⟨cs, ts, h⟩ := ih (s.startTeam g x slot p.2 p.1)
    exact ⟨cs, ts, h⟩

theorem State.startTeams_other {s : State} {g : Nat} {x : Workgroup} {slot : Nat} {ps : List (Nat × Nat)} {k : Nat}
    (hk : k ∉ ps.map Prod.fst) :
    (s.startTeams g x slot ps).ctx k = s.ctx k ∧ (s.startTeams g x slot ps).team k = s.team k := by
  induction ps generalizing s with
  | nil => exact ⟨rfl, rfl⟩
  | cons p ps ih =>
    rw [List.map_cons, List.mem_cons, not_or] at hk
    obtain ⟨hp, hps⟩ := hk
    obtain ⟨hctx, hteam⟩ := s.startTeam_ne g x slot p.2 hp
    obtain ⟨hctx', hteam'⟩ := ih (s := s.startTeam g x slot p.2 p.1) hps
    exact ⟨hctx'.trans hctx, hteam'.trans hteam⟩

/-- Each team of a list without repeated harts is at its start once all have been started. -/
theorem State.startTeams_startsAt {s : State} {g : Nat} {x : Workgroup} {slot : Nat} {ps : List (Nat × Nat)} {h i : Nat}
    (hnodup : (ps.map Prod.fst).Nodup) (hmem : (h, i) ∈ ps) :
    StartsAt x.launch g x.wgix i ((s.startTeams g x slot ps).ctx h) ((s.startTeams g x slot ps).team h) := by
  induction ps generalizing s with
  | nil => cases hmem
  | cons p ps ih =>
    rw [List.map_cons, List.nodup_cons] at hnodup
    obtain ⟨hp, hps⟩ := hnodup
    rcases List.mem_cons.1 hmem with rfl | hmem
    · obtain ⟨hctx, hteam⟩ := State.startTeams_other (s := s.startTeam g x slot i h) (g := g) (x := x) (slot := slot) hp
      have := s.startTeam_startsAt g x slot i h
      rw [← hctx, ← hteam] at this
      exact this
    · exact ih (s := s.startTeam g x slot p.2 p.1) hps hmem

/-! ### The placement -/

/-- Of the L1 lines exactly those of the core in the given steps go (R60). -/
theorem State.mem_l1_dropSteps (s : State) (core : Nat) (steps : List Nat) (y : Nat × L1Line) :
    y ∈ (s.dropSteps core steps).l1 ↔ y ∈ s.l1 ∧ (y.1 / 2 ^ 45 ≠ core ∨ y.2.step ∉ steps) := by
  simp [State.dropSteps, Store.keep]

/-- The state in which the teams of a workgroup start: it is resident under its number, the lines in the steps of its
scratchpad have left the core's L1, and the launch has a workgroup less to place. -/
def State.seat (u : State) (e g : Nat) (x : Workgroup) (r : LaunchRec) : State :=
  ({ u.dropSteps x.core x.steps with nextId := g + 1 + x.launch.teams }.setWg g x).setLaunch e r

/-- The workgroup is resident, with all its teams started. -/
def State.reside (u : State) (e g : Nat) (x : Workgroup) (r : LaunchRec) (slot : Nat) : State :=
  ((u.seat e g x r).startTeams g x slot x.teams.zipIdx).tick

section
variable (u : State) (e g : Nat) (x : Workgroup) (r : LaunchRec) (slot : Nat)

theorem State.reside_rest : ∃ cs ts n, u.reside e g x r slot = { u.seat e g x r with ctxs := cs, teams := ts, now := n } := by
  obtain ⟨cs, ts, h⟩ := (u.seat e g x r).startTeams_rest g x slot x.teams.zipIdx
  exact ⟨cs, ts, _, congrArg State.tick h⟩

theorem State.launch_reside : ((u.reside e g x r slot).entity e).launch = some r := by
  obtain ⟨_, _, _, h⟩ := u.reside_rest e g x r slot
  rw [h]
  exact congrArg Entity.launch Store.get_set_same

theorem State.wg_reside : (u.reside e g x r slot).wg g = x := by
  obtain ⟨_, _, _, h⟩ := u.reside_rest e g x r slot
  rw [h]
  exact Store.get_set_same

theorem State.core_reside (k : Nat) : (u.reside e g x r slot).core k = u.core k := by
  obtain ⟨_, _, _, h⟩ := u.reside_rest e g x r slot
  rw [h]
  rfl

theorem State.l1_reside : (u.reside e g x r slot).l1 = (u.dropSteps x.core x.steps).l1 := by
  obtain ⟨_, _, _, h⟩ := u.reside_rest e g x r slot
  rw [h]
  rfl

end

theorem State.reside_startsAt (u : State) (e : Nat) {g : Nat} {x : Workgroup} (r : LaunchRec) (slot : Nat) {h i : Nat}
    (hnodup : x.teams.Nodup) (hi : x.teams[i]? = some h) :
    StartsAt x.launch g x.wgix i ((u.reside e g x r slot).ctx h) ((u.reside e g x r slot).team h) :=
  State.startTeams_startsAt (s := u.seat e g x r) (slot := slot) (ps := x.teams.zipIdx)
    (by rwa [List.zipIdx_map_fst]) (List.mk_mem_zipIdx_iff_getElem?.2 hi)

/-- The harts that a workgroup's teams get: the numbers after its own. -/
def teamHarts (g n : Nat) : List Nat := (List.range n).map fun t => g + 1 + t

theorem teamHarts_getElem? {g n i : Nat} (hi : i < n) : (teamHarts g n)[i]? = some (g + 1 + i) := by
  simp [teamHarts, hi]

theorem teamHarts_length (g n : Nat) : (teamHarts g n).length = n := by
  simp [teamHarts]

theorem teamHarts_nodup (g n : Nat) : (teamHarts g n).Nodup :=
  List.Nodup.map (fun _ _ h => Nat.add_left_cancel h) List.nodup_range

/-- The workgroup that a placement makes resident, beside its logical core, its interval and its place in the order of
residence. -/
def State.placedWg (u : State) (g e core w : Nat) (d : Launch) (lcore : Nat) (iv : DWord × DWord) (since : Nat) : Workgroup :=
  { Workgroup.blank with core := core, lcore := lcore, wgix := w, entity := e, launch := d, teams := teamHarts g d.teams,
                         lo := iv.1, hi := iv.2, since := since, steps := (u.freeSteps core).take (d.spkib / 64) }

/-- WORKGROUP_PLACE on a core that can accept the workgroup: the core is taken, the workgroup seated, its teams started. -/
theorem execWorkgroupPlace_places {s : State} {e core w : Nat} {rest : List Nat} {r : LaunchRec}
    (hl : (s.entity e).launch = some r) (hw : r.waiting = w :: rest) (hlive : (s.part (s.entity e).part).live = true)
    (hdest : (s.part (s.entity e).part).destroying = false) (hswitch : (s.part (s.entity e).part).switch = none)
    (hjob : ∀ f, (s.part (s.entity e).part).force = some f → f.entry.job = r.desc.job)
    (hfree : s.coreFree core (s.entity e).part = true) (haccepts : s.coreAccepts core r.desc = true)
    (hdie : s.dieWanted (s.entity e).part core r.map w = true) :
    ∃ u lcore iv since slot pieces, TakesCore s u core (s.entity e).part ∧
      exec (.workgroupPlace e core) s = .next (u.reside e s.nextId (u.placedWg s.nextId e core w r.desc lcore iv since)
        { r with waiting := rest, pieces := pieces } slot) := by
  show ∃ u lcore iv since slot pieces, TakesCore s u core _ ∧ execWorkgroupPlace e core s = _
  simp only [execWorkgroupPlace, hl, hw]
  rw [if_neg ?_]
  · exact ⟨_, _, _, _, _, _, TakesCore.of_coreFree hfree _ _, rfl⟩
  · cases hf : (s.part (s.entity e).part).force with
    | none => simp [hlive, hdest, hswitch, hfree, haccepts, hdie]
    | some f => simp [hlive, hdest, hswitch, hfree, haccepts, hdie, hjob f hf]

end Sys2Proof.Machine

open Sys2Proof Sys2Proof.Machine

/-- Settles O55: the core is taken, the workgroup seated, and each of its teams started at a hart of its own. -/
theorem workgroupsArePlacedWhole : Obligations.WorkgroupsArePlacedWhole := by
  unfold Obligations.WorkgroupsArePlacedWhole
  intro s e core w rest r x p d hl hw hlive hdest hswitch hjob hfree haccepts hdie g
  obtain ⟨u, lcore, iv, since, slot, pieces, htakes, hexec⟩ :=
    execWorkgroupPlace_places hl hw hlive hdest hswitch hjob hfree haccepts hdie
  refine ⟨_, _, hexec, State.launch_reside .., rfl, ?_⟩
  rw [State.wg_reside, State.core_reside, State.l1_reside]
  refine ⟨rfl, rfl, teamHarts_length .., rfl, rfl, congrArg _ (htakes.freeSteps core), fun z => ?_, htakes.cgen,
    htakes.step.symm, htakes.part, fun i hi => ?_⟩
  · rw [State.mem_l1_dropSteps, htakes.l1]
    rfl
  · have hi : (u.placedWg g e core w d lcore iv since).teams[i]? = some (g + 1 + i) := teamHarts_getElem? hi
    obtain ⟨hhart, hscc, hsregs, hplace, hexec, hprio, hwatchdog, hdepth, hflags, hreqs⟩ :=
      u.reside_startsAt e { r with waiting := rest, pieces := pieces } slot (teamHarts_nodup g d.teams) hi
    exact ⟨_, hi, hhart, hscc, hsregs, hplace, hexec, hprio, hwatchdog, hdepth, hflags, hreqs⟩

end

section
/-! NaNs and comparisons (O22): what a NaN among the operands does to a sum, a product, a fused form and a comparison, in every
format (R82, R83). -/

namespace Sys2Proof.Machine

/-! ### Exact values -/

theorem FVal.isSig_of_not_nan {x : FVal} (hx : x.isNan = false) : x.isSig = false := by
  cases x with
  | nan => cases hx
  | _ => rfl

@[simp] theorem FVal.isNan_negate (x : FVal) : x.negate.isNan = x.isNan := by cases x <;> rfl

@[simp] theorem FVal.isSig_negate (x : FVal) : x.negate.isSig = x.isSig := by cases x <;> rfl

/-- R83: NV of two operands. -/
theorem sigFlag_pair (x y : FVal) : sigFlag [x, y] = if x.isSig = true ∨ y.isSig = true then 1#5 else 0#5 := by
  simp [sigFlag, FFlags.cond, FFlags.nv, FFlags.none]

theorem sigFlag_pair_of_not_nan {x y : FVal} (hx : x.isNan = false) (hy : y.isNan = false) : sigFlag [x, y] = 0#5 := by
  rw [sigFlag_pair, FVal.isSig_of_not_nan hx, FVal.isSig_of_not_nan hy, if_neg (by decide)]

/-- R82: a sum with a NaN among its terms. -/
theorem FVal.sum_of_nan {ts : List FVal} (h : ts.any FVal.isNan = true) : FVal.sum ts = (.nan false, false) := by
  simp only [FVal.sum, h, if_true]

/-- R82: a product with a NaN among its factors is no 0 × ∞. -/
theorem FVal.mul_of_nan {x y : FVal} (h : x.isNan = true ∨ y.isNan = true) : ∃ sig, x.mul y = (.nan sig, false) := by
  cases x with
  | nan => cases y <;> exact ⟨_, rfl⟩
  | inf | fin =>
    cases y with
    | nan => exact ⟨_, rfl⟩
    | _ => simp [FVal.isNan] at h

theorem FVal.lt_of_nan {x y : FVal} (zeros : Bool) (h : x.isNan = true ∨ y.isNan = true) : x.lt zeros y = false := by
  cases x with
  | nan => cases y <;> rfl
  | inf | fin =>
    cases y with
    | nan => rfl
    | _ => simp [FVal.isNan] at h

/-- R83: neither zero is below the other. -/
theorem FVal.lt_of_zero {x y : FVal} (hx : x.isZero = true) (hy : y.isZero = true) : x.lt false y = false := by
  cases x with
  | fin n m e =>
    cases y with
    | fin k l g =>
      have hm : (m == 0) = true := hx
      have hl : (l == 0) = true := hy
      simp [FVal.lt, minExp, hm, hl]
    | _ => cases hy
  | _ => cases hx

theorem FVal.isNan_of_isZero {x : FVal} (hx : x.isZero = true) : x.isNan = false := by
  cases x with
  | nan => cases hx
  | _ => rfl

/-! ### Arithmetic -/

section
variable (f : Fmt)

theorem Fmt.addTerms_of_nan {ts : List FVal} (h : ts.any FVal.isNan = true) : f.addTerms ts = ⟨f.nan, sigFlag ts⟩ := by
  simp [Fmt.addTerms, FVal.sum_of_nan h, Fmt.round, FFlags.cond, FFlags.none]

variable {a b d : Nat}

theorem Fmt.add_of_nan (h : (f.value a).isNan = true ∨ (f.value b).isNan = true) :
    f.add a b = ⟨f.nan, sigFlag [f.value a, f.value b]⟩ :=
  f.addTerms_of_nan (by simpa using h)

theorem Fmt.sub_of_nan (h : (f.value a).isNan = true ∨ (f.value b).isNan = true) :
    f.sub a b = ⟨f.nan, sigFlag [f.value a, f.value b]⟩ := by
  rw [Fmt.sub, f.addTerms_of_nan (by simpa using h), sigFlag_pair, sigFlag_pair, FVal.isSig_negate]

theorem Fmt.mul_of_nan (h : (f.value a).isNan = true ∨ (f.value b).isNan = true) :
    f.mul a b = ⟨f.nan, sigFlag [f.value a, f.value b]⟩ := by
  obtain ⟨sig, hp⟩ := FVal.mul_of_nan h
  simp [Fmt.mul, hp, Fmt.round, FFlags.cond, FFlags.none]

/-- R82: a NaN factor makes the product a NaN, and a NaN term the sum. -/
theorem Fmt.fma_bits_of_nan (h : (f.value a).isNan = true ∨ (f.value b).isNan = true ∨ (f.value d).isNan = true) :
    (f.fma a b d).bits = f.nan := by
  have hterms : [f.value d, ((f.value a).mul (f.value b)).1].any FVal.isNan = true := by
    rcases (or_assoc.2 h) with hab | hd
    · obtain ⟨sig, hp⟩ := FVal.mul_of_nan hab
      simp [hp, FVal.isNan]
    · simp [hd]
  simp [Fmt.fma, dotAdd, FVal.sum_of_nan hterms, Fmt.round]

/-- R83: 0 × ∞. -/
theorem Fmt.mul_inf_zero {n k : Bool} {e : Int} (hx : f.value a = .inf n) (hy : f.value b = .fin k 0 e) :
    f.mul a b = ⟨f.nan, 1#5⟩ := by
  simp [Fmt.mul, hx, hy, FVal.mul, Fmt.round, sigFlag, FVal.isSig, FFlags.cond, FFlags.nv, FFlags.none]

/-- R83: ∞ − ∞. -/
theorem Fmt.addTerms_inf_inf : f.addTerms [.inf false, .inf true] = ⟨f.nan, 1#5⟩ := by
  have hsum : FVal.sum [.inf false, .inf true] = (.nan false, true) := rfl
  simp [Fmt.addTerms, hsum, Fmt.round, sigFlag, FVal.isSig, FFlags.cond, FFlags.nv, FFlags.none]

/-! ### Comparisons -/

theorem Fmt.cmp_ordered_of_nan {c : Cmp} (hc : c ∈ [Cmp.lt, .le, .gt, .ge])
    (h : (f.value a).isNan = true ∨ (f.value b).isNan = true) : f.cmp c a b = (false, 1#5) := by
  have hun : ((f.value a).isNan || (f.value b).isNan) = true := by simpa using h
  simp only [List.mem_cons, List.not_mem_nil, or_false] at hc
  rcases hc with rfl | rfl | rfl | rfl <;>
    simp [Fmt.cmp, hun, FVal.lt_of_nan false h, FVal.lt_of_nan false h.symm, FFlags.cond, FFlags.nv]

theorem Fmt.cmp_quiet_of_nan (h : (f.value a).isNan = true ∨ (f.value b).isNan = true) :
    f.cmp .eq a b = (false, sigFlag [f.value a, f.value b]) ∧ f.cmp .ne a b = (true, sigFlag [f.value a, f.value b]) ∧
      f.cmp .ord a b = (false, sigFlag [f.value a, f.value b]) ∧ f.cmp .uno a b = (true, sigFlag [f.value a, f.value b]) := by
  have hun : ((f.value a).isNan || (f.value b).isNan) = true := by simpa using h
  simp [Fmt.cmp, hun]

theorem Fmt.cmp_of_not_nan (hx : (f.value a).isNan = false) (hy : (f.value b).isNan = false) :
    f.cmp .ord a b = (true, 0#5) ∧ f.cmp .uno a b = (false, 0#5) := by
  simp [Fmt.cmp, hx, hy, sigFlag_pair_of_not_nan]

theorem Fmt.cmp_of_zero (hx : (f.value a).isZero = true) (hy : (f.value b).isZero = true) :
    f.cmp .eq a b = (true, 0#5) ∧ f.cmp .lt a b = (false, 0#5) := by
  have hxn := FVal.isNan_of_isZero hx
  have hyn := FVal.isNan_of_isZero hy
  simp [Fmt.cmp, hxn, hyn, FVal.lt_of_zero hx hy, FVal.lt_of_zero hy hx, sigFlag_pair_of_not_nan, FFlags.cond, FFlags.none]
end

end Sys2Proof.Machine

namespace Sys2Proof.Claims
open Sys2Proof.Machine

theorem arithmeticNaNsAreCanonical : ArithmeticNaNsAreCanonical := by
  intro f _ a b d x y z
  refine ⟨fun hnan r hr => ?_, fun hnan => f.fma_bits_of_nan hnan, fun hx hy => ?_, fun hx hy => ?_, fun hx hy => ?_⟩
  · have hr : r = ⟨f.nan, sigFlag [x, y]⟩ := by
      simpa [f.add_of_nan hnan, f.sub_of_nan hnan, f.mul_of_nan hnan, x, y] using hr
    rw [hr]
    exact ⟨rfl, sigFlag_pair x y⟩
  · obtain ⟨n, hx⟩ : ∃ n, x = .inf n := by
      cases h : x with
      | inf n => exact ⟨n, rfl⟩
      | _ => rw [h] at hx; cases hx
    exact f.mul_inf_zero hx hy
  · rw [Fmt.add, show f.value a = _ from hx, show f.value b = _ from hy, f.addTerms_inf_inf]
  · rw [Fmt.sub, show f.value a = _ from hx, show f.value b = _ from hy]
    exact f.addTerms_inf_inf

theorem naNComparisons : NaNComparisons := by
  intro f _ a b x y sig
  refine ⟨fun hnan => ⟨fun c hc => f.cmp_ordered_of_nan hc hnan, ?_⟩, f.cmp_of_not_nan, f.cmp_of_zero⟩
  rw [show sig = sigFlag [x, y] from (sigFlag_pair x y).symm]
  exact f.cmp_quiet_of_nan hnan

end Sys2Proof.Claims

open Sys2Proof.Claims

/-- Settles O22: in every format, by the exact values of the operands. -/
theorem naNsAndComparisons : Obligations.NaNsAndComparisons := ⟨arithmeticNaNsAreCanonical, naNComparisons⟩

end

section
/-! The order of value-index words (R99): a linear rank of words, of which the better of two words is the lower; the best of a
set of words. -/

namespace Sys2Proof.Machine

/-! ### Exact values in order -/

/-- The number that a finite value stands for. -/
def FVal.number : FVal → ℚ
  | .nan _ => 0
  | .inf _ => 0
  | .fin n m e => (if n then -1 else 1) * m * 2 ^ e

/-- The place of a value among the values: infinities outside, numbers by size, −0 below +0. -/
def FVal.rank (x : FVal) : ℤ ×ₗ ℚ ×ₗ ℤ :=
  toLex (match x with | .inf n => if n then -1 else 1 | _ => 0, toLex (x.number, if x.isNeg then 0 else 1))

/-- A term scaled to 2^e0 is its number in that unit. -/
theorem FVal.scaled_eq_number {n : Bool} {m : Nat} {e e0 : Int} (h : m ≠ 0 → e0 ≤ e) :
    ((FVal.fin n m e).scaled e0 : ℚ) * 2 ^ e0 = (FVal.fin n m e).number := by
  by_cases hm : m = 0
  · simp [FVal.scaled, FVal.number, hm]
  · have hpow : (2 : ℚ) ^ (e - e0).toNat * 2 ^ e0 = 2 ^ e := by
      rw [← zpow_natCast, Int.toNat_of_nonneg (by have := h hm; omega), ← zpow_add₀ two_ne_zero, Int.sub_add_cancel]
    have hm : (m == 0) = false := by simpa using hm
    cases n <;> simp [FVal.scaled, FVal.number, hm, Nat.shiftLeft_eq, mul_assoc, hpow]

/-- The common unit of two finite values: there is none for two zeros. -/
theorem minExp_pair (n k : Bool) (m l : Nat) (e g : Int) :
    (m = 0 ∧ l = 0 ∧ minExp [.fin n m e, .fin k l g] = none) ∨
      ((m ≠ 0 ∨ l ≠ 0) ∧ ∃ e0, minExp [.fin n m e, .fin k l g] = some e0 ∧ (m ≠ 0 → e0 ≤ e) ∧ (l ≠ 0 → e0 ≤ g)) := by
  by_cases hm : m = 0 <;> by_cases hl : l = 0
  · exact .inl ⟨hm, hl, by simp [minExp, hm, hl]⟩
  · exact .inr ⟨.inr hl, g, by simp [minExp, hm, hl], fun h => absurd hm h, fun _ => le_rfl⟩
  · exact .inr ⟨.inl hm, e, by simp [minExp, hm, hl], fun _ => le_rfl, fun h => absurd hl h⟩
  · refine .inr ⟨.inl hm, if e < g then e else g, by simp [minExp, hm, hl], ?_, ?_⟩ <;> (intro _; split <;> omega)

theorem FVal.number_eq_zero {n : Bool} {m : Nat} {e : Int} : (FVal.fin n m e).number = 0 ↔ m = 0 := by
  have := zpow_ne_zero e (two_ne_zero (α := ℚ))
  cases n <;> simp [FVal.number, this]

/-- A number that both signs share is 0. -/
theorem FVal.zeros_of_opposite {m l : Nat} {e g : Int} (h : (FVal.fin false m e).number = (FVal.fin true l g).number) :
    m = 0 ∧ l = 0 := by
  have hpos : 0 ≤ (FVal.fin false m e).number := by
    have : (0 : ℚ) ≤ m * 2 ^ e := by positivity
    simpa [FVal.number] using this
  have hneg : (FVal.fin true l g).number ≤ 0 := by
    have : (0 : ℚ) ≤ l * 2 ^ g := by positivity
    simpa [FVal.number] using this
  have hzero := le_antisymm (h.trans_le hneg) hpos
  exact ⟨FVal.number_eq_zero.1 hzero, FVal.number_eq_zero.1 (h.symm.trans hzero)⟩

/-- Numbers that are equal and not both zero have one sign. -/
theorem FVal.isNeg_eq_of_number {n k : Bool} {m l : Nat} {e g : Int} (h0 : m ≠ 0 ∨ l ≠ 0)
    (h : (FVal.fin n m e).number = (FVal.fin k l g).number) : n = k := by
  cases n <;> cases k
  · rfl
  · obtain ⟨rfl, rfl⟩ := FVal.zeros_of_opposite h
    exact absurd h0 (by decide)
  · obtain ⟨rfl, rfl⟩ := FVal.zeros_of_opposite h.symm
    exact absurd h0 (by decide)
  · rfl

/-- R83, R99: the order of values that are no NaN, with −0 below +0, is that of their ranks. -/
theorem FVal.lt_iff_rank {x y : FVal} (hx : x.isNan = false) (hy : y.isNan = false) :
    x.lt true y = true ↔ x.rank < y.rank := by
  cases x with
  | nan => cases hx
  | inf n =>
    cases y with
    | nan => cases hy
    | inf k => cases n <;> cases k <;> simp [FVal.lt, FVal.rank, Prod.Lex.toLex_lt_toLex, FVal.number, FVal.isNeg]
    | fin k l g => cases n <;> simp [FVal.lt, FVal.rank, Prod.Lex.toLex_lt_toLex]
  | fin n m e =>
    cases y with
    | nan => cases hy
    | inf k => cases k <;> simp [FVal.lt, FVal.rank, Prod.Lex.toLex_lt_toLex]
    | fin k l g =>
      have hrank : (FVal.fin n m e).rank < (FVal.fin k l g).rank ↔ (FVal.fin n m e).number < (FVal.fin k l g).number ∨
          ((FVal.fin n m e).number = (FVal.fin k l g).number ∧ n = true ∧ k = false) := by
        cases n <;> cases k <;> simp [FVal.rank, Prod.Lex.toLex_lt_toLex, FVal.isNeg]
      rw [hrank]
      rcases minExp_pair n k m l e g with ⟨rfl, rfl, hnone⟩ | ⟨h0, e0, hsome, hm, hl⟩
      · simp [FVal.lt, hnone, FVal.number]
      · have hunit : (0 : ℚ) < 2 ^ e0 := by positivity
        have hlt : (FVal.fin n m e).lt true (FVal.fin k l g) = true ↔
            (FVal.fin n m e).number < (FVal.fin k l g).number := by
          rw [← FVal.scaled_eq_number hm, ← FVal.scaled_eq_number hl, mul_lt_mul_iff_left₀ hunit, Int.cast_lt]
          simp [FVal.lt, hsome]
        rw [hlt, or_iff_left]
        rintro ⟨heq, hn, hk⟩
        have := FVal.isNeg_eq_of_number h0 heq
        simp [hn, hk] at this

/-! ### The rank of a word -/

/-- R99: numbers before NaNs, then the greatest value, the lowest index, and of NaNs with one index the lowest word. -/
def viRank (w : Nat) : ℕ ×ₗ (ℤ ×ₗ ℚ ×ₗ ℤ)ᵒᵈ ×ₗ ℕ ×ₗ ℕ :=
  if (viValue w).isNan then toLex (1, toLex (OrderDual.toDual (toLex (0, toLex (0, 0))), toLex (viIndex w, w)))
  else toLex (0, toLex (OrderDual.toDual (viValue w).rank, toLex (viIndex w, 0)))

theorem viBetter_iff_rank (a b : Nat) : viBetter true a b = true ↔ viRank a < viRank b := by
  cases hx : (viValue a).isNan <;> cases hy : (viValue b).isNan
  · have hab := FVal.lt_iff_rank hx hy
    have hba := FVal.lt_iff_rank hy hx
    have hrank : viRank a < viRank b ↔ (viValue b).rank < (viValue a).rank ∨
        ((viValue a).rank = (viValue b).rank ∧ viIndex a < viIndex b) := by
      simp [viRank, hx, hy, Prod.Lex.toLex_lt_toLex]
    rw [hrank]
    rcases lt_trichotomy (viValue b).rank (viValue a).rank with h | h | h
    · simp [viBetter, hx, hy, hba.2 h, h]
    · simp [viBetter, hx, hy, hab, hba, h]
    · simp [viBetter, hx, hy, hab.2 h, hba, h.not_gt, h.ne]
  · simp [viBetter, viRank, hx, hy, Prod.Lex.toLex_lt_toLex]
  · simp [viBetter, viRank, hx, hy, Prod.Lex.toLex_lt_toLex]
  · simp [viBetter, viRank, hx, hy, Prod.Lex.toLex_lt_toLex]

theorem viBetter_eq_false_iff_rank (a b : Nat) : viBetter true a b = false ↔ viRank b ≤ viRank a := by
  rw [← not_lt, ← viBetter_iff_rank, Bool.not_eq_true]

/-- R99: the pick of two words has the lower rank. -/
theorem viRank_viPick (a b : Nat) : viRank (viPick true a b) = min (viRank a) (viRank b) := by
  unfold viPick
  split
  · next h => exact (min_eq_right ((viBetter_iff_rank b a).1 h).le).symm
  · next h => exact (min_eq_left (not_lt.1 fun hlt => h ((viBetter_iff_rank b a).2 hlt))).symm

theorem viPick_eq_or (a b : Nat) : viPick true a b = a ∨ viPick true a b = b := by
  unfold viPick
  split
  · exact .inr rfl
  · exact .inl rfl

/-- R100: of 32-bit words 0xFFFF_FFFF alone has the highest rank. -/
theorem eq_of_not_better_than_last {y : Nat} (hy : y < 2 ^ 32) (h : viBetter true y 0xFFFFFFFF = false) :
    y = 0xFFFFFFFF := by
  have hlast : (viValue 0xFFFFFFFF).isNan = true := by decide
  have hindex : viIndex 0xFFFFFFFF = 0xFFFF := rfl
  cases hx : (viValue y).isNan
  · simp [viBetter, hx, hlast] at h
  · have hyi : viIndex y < 2 ^ 16 := Nat.mod_lt _ (by decide)
    simp [viBetter, hx, hlast, hindex] at h
    omega

/-! ### The best of a set of words -/

/-- R100: `v` is a word of the set with none better in it, or 0xFFFF_FFFF with none better in it. -/
structure IsBest (words : Set Nat) (v : Nat) : Prop where
  mem : v = 0xFFFFFFFF ∨ v ∈ words
  best : ∀ y ∈ words, viBetter true y v = false

theorem IsBest.empty : IsBest ∅ 0xFFFFFFFF := ⟨.inl rfl, fun _ hy => hy.elim⟩

theorem IsBest.singleton (v : Nat) : IsBest {v} v :=
  ⟨.inr rfl, fun y hy => (viBetter_eq_false_iff_rank y v).2 (le_of_eq (congrArg viRank (hy : y = v)).symm)⟩

/-- The pick of the best of two sets is the best of both. -/
theorem IsBest.pick {xs ys : Set Nat} {v w : Nat} (hv : IsBest xs v) (hw : IsBest ys w) :
    IsBest (xs ∪ ys) (viPick true v w) := by
  constructor
  · rcases viPick_eq_or v w with h | h <;> rw [h]
    · exact hv.mem.imp_right .inl
    · exact hw.mem.imp_right .inr
  · intro y hy
    rw [viBetter_eq_false_iff_rank, viRank_viPick]
    rcases hy with hy | hy
    · exact min_le_of_left_le ((viBetter_eq_false_iff_rank y v).1 (hv.best y hy))
    · exact min_le_of_right_le ((viBetter_eq_false_iff_rank y w).1 (hw.best y hy))

/-- Where there is a word, the best of 32-bit words is one of them. -/
theorem IsBest.mem_of_nonempty {words : Set Nat} {v : Nat} (h : IsBest words v) (hne : words.Nonempty)
    (hw : ∀ y ∈ words, y < 2 ^ 32) : v ∈ words := by
  obtain ⟨y, hy⟩ := hne
  rcases h.mem with rfl | hv
  · rwa [← eq_of_not_better_than_last (hw y hy) (h.best y hy)]
  · exact hv

theorem IsBest.lt {words : Set Nat} {v : Nat} (h : IsBest words v) (hw : ∀ y ∈ words, y < 2 ^ 32) : v < 2 ^ 32 := by
  rcases h.mem with rfl | hv
  · decide
  · exact hw v hv

theorem IsBest.foldl {words : Set Nat} {v : Nat} (h : IsBest words v) (ys : List Nat) :
    IsBest (words ∪ {y | y ∈ ys}) (ys.foldl (viPick true) v) := by
  induction ys generalizing words v with
  | nil => simpa using h
  | cons y ys ih =>
    have hset : words ∪ {z | z ∈ y :: ys} = words ∪ {y} ∪ {z | z ∈ ys} := by
      ext z
      simp [or_assoc, or_left_comm]
    rw [hset]
    exact ih (h.pick (.singleton y))

end Sys2Proof.Machine
end

section
/-! Reductions (O24): what the reduction operation writes, folds over the active lanes' words, and the pairwise tree of FP32 sums
(R94, R151). -/

namespace Sys2Proof.Machine
open Sys2Proof.Claims

/-! ### What a reduction writes -/

/-- A reduction of a vector register writes s[d] and FLAGS from the words its function reads (R151). -/
theorem writesSregAndFlags_reduceOp {s : State} (f : State → Nat → Src → DWord × FFlags) (sw : Bool) (d : SReg) {r : VReg}
    (h : TeamRuns s [r.toNat]) :
    WritesSregAndFlags s (reduceOp f sw d (.v r) s) d (f s s.cur (.v r)).1 (f s s.cur (.v r)).2 1 sw := by
  rw [reduceOp, begin_team (n := needLane (.v r)) h rfl rfl]
  have hk : (s.ctx s.cur).kind = .team := h.1
  have hctx := State.ctx_setSreg s s.cur d (f s s.cur (.v r)).1
  refine ⟨_, rfl, ?_, fun r hr => ?_, ?_, ?_, fun r _ => ?_, passed_done 1 sw ?_ ?_ ?_ ?_ ?_,
    onlyHart_done 1 sw ⟨_, _, _, rfl⟩ fun h hh => ⟨State.ctx_setSreg_ne s d _ hh, State.team_setTeam_ne _ _ hh, fun _ _ => rfl⟩⟩
  · rw [sameSregs_done]
    exact State.sreg_setSreg s s.cur d _
  · rw [sameSregs_done]
    exact State.sreg_setSreg_ne s s.cur _ hr
  · rw [SameScc, sameScc_done, State.addFlags, State.ctx_setTeam, hctx]
  · have hteam := teamIs_done (s := s) (s' := (s.setSreg s.cur d (f s s.cur (.v r)).1).addFlags s.cur (f s s.cur (.v r)).2)
      1 sw (by rw [State.addFlags, State.ctx_setTeam, hctx, hk])
    rwa [State.addFlags, State.team_setTeam] at hteam
  · exact State.done_vreg ..
  all_goals rw [State.addFlags, State.ctx_setTeam, hctx]

/-! ### Integers -/

theorem foldl_add_eq_ofInt_sum (ys : List Word) : ys.foldl (· + ·) 0#32 = BitVec.ofInt 32 (ys.map BitVec.toInt).sum := by
  rw [List.sum_eq_foldl, List.foldl_map, ← List.foldl_hom (BitVec.ofInt 32) (g₂ := fun x y => x + y)]
  · rfl
  · intro v y
    rw [BitVec.ofInt_add, BitVec.ofInt_toInt]

theorem toNat_foldl_add (ys : List Word) : (ys.foldl (· + ·) 0#32).toNat = (ys.map BitVec.toNat).sum % 2 ^ 32 := by
  rw [List.sum_eq_foldl, List.foldl_map, ← BitVec.toNat_ofNat,
    ← List.foldl_hom (BitVec.ofNat 32) (g₂ := fun x y => x + y)]
  intro v y
  rw [BitVec.ofNat_add, BitVec.ofNat_toNat, BitVec.setWidth_eq]

/-- A fold that keeps the higher, or the lower, of two words by a number of theirs answers the extreme number. -/
theorem foldl_keeps_extreme {α : Type} [LinearOrder α] {lt : Word → Word → Bool} {key : Word → α}
    (hlt : ∀ x y, lt x y = true ↔ key x < key y) (z : Word) (ys : List Word) :
    key (ys.foldl (fun x y => if lt x y then y else x) z) = (ys.map key).foldl max (key z) ∧
      key (ys.foldl (fun x y => if lt y x then y else x) z) = (ys.map key).foldl min (key z) := by
  constructor <;> rw [List.foldl_map] <;> refine (List.foldl_hom key fun x y => ?_).symm
  · split
    · next h => exact max_eq_right ((hlt x y).1 h).le
    · next h => exact max_eq_left (not_lt.1 fun hxy => h ((hlt x y).2 hxy))
  · split
    · next h => exact min_eq_right ((hlt y x).1 h).le
    · next h => exact min_eq_left (not_lt.1 fun hxy => h ((hlt y x).2 hxy))

theorem ult_iff_toNat_lt (x y : Word) : x.ult y = true ↔ x.toNat < y.toNat := by rw [BitVec.ult_iff_lt, BitVec.lt_def]

/-! ### The pairwise tree (R94) -/

theorem pow2AtLeast_eq (w : Nat) : pow2AtLeast w = 2 ^ Nat.clog 2 w := by
  unfold pow2AtLeast
  split
  · next h => rw [Nat.clog_of_right_le_one h, pow_zero]
  · next h =>
    congr 1
    refine eq_of_forall_ge_iff fun c => ?_
    rw [Nat.clog_le_iff_le_pow one_lt_two, Nat.add_one_le_iff, Nat.log2_lt (by omega)]
    omega

/-- The levels of the tree are as many as it takes to reach W. -/
theorem clog_of_levels {w k : Nat} (hk : w ≤ 2 ^ k) (hmin : ∀ j, j < k → 2 ^ j < w) : Nat.clog 2 w = k := by
  refine le_antisymm (Nat.clog_le_of_le_pow hk) (not_lt.1 fun hlt => ?_)
  exact absurd (Nat.le_pow_clog one_lt_two w) (not_le.2 (hmin _ hlt))

theorem exists_pair_of_length {n : Nat} {xs : List Nat} (hx : xs.length = 2 * (n + 1)) :
    ∃ x y zs, xs = x :: y :: zs ∧ zs.length = 2 * n := by
  match xs, hx with
  | x :: y :: zs, hx => exact ⟨x, y, zs, rfl, by simpa [Nat.mul_add] using hx⟩

theorem pairSums_append {n : Nat} {xs : List Nat} (hx : xs.length = 2 * n) (ys : List Nat) :
    pairSums (xs ++ ys) = ((pairSums xs).1 ++ (pairSums ys).1, (pairSums xs).2 ||| (pairSums ys).2) := by
  induction n generalizing xs with
  | zero =>
    obtain rfl : xs = [] := List.eq_nil_of_length_eq_zero hx
    simp [pairSums, FFlags.none]
  | succ n ih =>
    obtain ⟨x, y, xs, rfl, hxs⟩ := exists_pair_of_length hx
    simp [pairSums, ih hxs, BitVec.or_assoc]

theorem pairSums_length {n : Nat} {xs : List Nat} (hx : xs.length = 2 * n) : (pairSums xs).1.length = n := by
  induction n generalizing xs with
  | zero =>
    obtain rfl : xs = [] := List.eq_nil_of_length_eq_zero hx
    rfl
  | succ n ih =>
    obtain ⟨x, y, xs, rfl, hxs⟩ := exists_pair_of_length hx
    simp [pairSums, ih hxs]

/-- A level of the tree, and the levels above it. -/
theorem treeSum_succ {k : Nat} {xs : List Nat} (hx : xs.length = 2 ^ (k + 1)) :
    treeSum (k + 1) xs = ((treeSum k (pairSums xs).1).1, (pairSums xs).2 ||| (treeSum k (pairSums xs).1).2) := by
  obtain ⟨x, y, zs, rfl, -⟩ := exists_pair_of_length (n := 2 ^ k - 1) (by
    rw [hx, pow_succ', Nat.sub_add_cancel Nat.one_le_two_pow])
  rfl

/-- A tree is the sum of the trees of its halves. -/
theorem treeSum_append {k : Nat} {xs ys : List Nat} (hx : xs.length = 2 ^ k) (hy : ys.length = 2 ^ k) :
    treeSum (k + 1) (xs ++ ys) =
      ((Fmt.fp32.add (treeSum k xs).1 (treeSum k ys).1).bits,
        (treeSum k xs).2 ||| (treeSum k ys).2 ||| (Fmt.fp32.add (treeSum k xs).1 (treeSum k ys).1).flags) := by
  induction k generalizing xs ys with
  | zero =>
    obtain ⟨x, rfl⟩ := List.length_eq_one_iff.1 hx
    obtain ⟨y, rfl⟩ := List.length_eq_one_iff.1 hy
    simp [treeSum, pairSums, FFlags.none]
  | succ k ih =>
    have hx2 : xs.length = 2 * 2 ^ k := by rw [hx, pow_succ']
    have hy2 : ys.length = 2 * 2 ^ k := by rw [hy, pow_succ']
    rw [treeSum_succ (k := k + 1) (by rw [List.length_append, hx, hy]; ring), pairSums_append hx2,
      ih (pairSums_length hx2) (pairSums_length hy2), treeSum_succ hx, treeSum_succ hy]
    simp only [Prod.mk.injEq, true_and]
    ac_rfl

/-- R94: the tree over 2^k values from the 2^k·j-th on. -/
theorem treeSum_block (k : Nat) (x : Nat → Nat) (j : Nat) :
    treeSum k ((List.range (2 ^ k)).map fun i => x (2 ^ k * j + i)) = (treeValue k x j, treeFlags k x j) := by
  induction k generalizing j with
  | zero => simp [treeSum, treeValue, treeFlags, FFlags.none]
  | succ k ih =>
    have hhalves : ((List.range (2 ^ (k + 1))).map fun i => x (2 ^ (k + 1) * j + i)) =
        ((List.range (2 ^ k)).map fun i => x (2 ^ k * (2 * j) + i)) ++
          (List.range (2 ^ k)).map fun i => x (2 ^ k * (2 * j + 1) + i) := by
      rw [show 2 ^ (k + 1) = 2 ^ k + 2 ^ k by ring, List.range_add, List.map_append, List.map_map]
      congr 1
      · exact List.map_congr_left fun i _ => congrArg x (by ring)
      · exact List.map_congr_left fun i _ => congrArg x (by ring)
    rw [hhalves, treeSum_append (by simp) (by simp), ih, ih]
    rfl

/-- What the lanes contribute to a tree or a scan. -/
theorem laneVals_eq (s : State) (a : Src) (id n : Nat) :
    s.laneVals s.cur .f32 a id n = (List.range n).map (contribution s a id) := by
  simp [State.laneVals, contribution]

/-- R94: the FP32 sum is the tree over 2^k values. -/
theorem reduceF32Add_eq {s : State} (a : Src) {k : Nat} (hk : (s.team s.cur).width ≤ 2 ^ k)
    (hmin : ∀ j, j < k → 2 ^ j < (s.team s.cur).width) :
    reduceF32Add s s.cur a = (treeValue k (contribution s a 0x80000000) 0, treeFlags k (contribution s a 0x80000000) 0) := by
  have hblock := treeSum_block k (contribution s a 0x80000000) 0
  simp only [Nat.mul_zero, Nat.zero_add] at hblock
  rw [reduceF32Add, laneVals_eq, pow2AtLeast_eq, clog_of_levels hk hmin, Nat.log2_two_pow, negZero32, hblock]

/-! ### Floating-point extremes -/

/-- R83: an extreme is the canonical NaN or an operand that is no NaN; its flag is that of its operands. -/
theorem Fmt.minMax_cases (f : Fmt) (max : Bool) (a b : Nat) :
    (f.minMax max a b).flags = sigFlag [f.value a, f.value b] ∧
      ((f.minMax max a b).bits = f.nan ∨ ((f.minMax max a b).bits = b ∧ (f.value b).isNan = false) ∨
        ((f.minMax max a b).bits = a ∧ (f.value a).isNan = false)) := by
  cases hx : (f.value a).isNan <;> cases hy : (f.value b).isNan <;> simp [Fmt.minMax, hx, hy]
  cases max
  · cases (f.value b).lt true (f.value a) <;> simp
  · cases (f.value a).lt true (f.value b) <;> simp

/-- R83: an extreme is no signalling NaN. -/
theorem isSig_minMax (max : Bool) (a b : Nat) : (Fmt.fp32.value (Fmt.fp32.minMax max a b).bits).isSig = false := by
  obtain ⟨-, h | ⟨h, hn⟩ | ⟨h, hn⟩⟩ := Fmt.fp32.minMax_cases max a b <;> rw [h]
  · decide
  · exact FVal.isSig_of_not_nan hn
  · exact FVal.isSig_of_not_nan hn

theorem sigFlag_cons (x : FVal) (xs : List FVal) : sigFlag (x :: xs) = sigFlag [x] ||| sigFlag xs := by
  cases hx : x.isSig <;> cases hxs : xs.any FVal.isSig <;> simp [sigFlag, hx, hxs, FFlags.cond, FFlags.nv, FFlags.none]

theorem sigFlag_of_mem {x : FVal} {xs : List FVal} (hx : x ∈ xs) (hs : x.isSig = true) : sigFlag xs = 1#5 := by
  simp [sigFlag, List.any_eq_true.2 ⟨x, hx, hs⟩, FFlags.cond, FFlags.nv]

theorem sigFlag_of_forall {xs : List FVal} (h : ∀ x ∈ xs, x.isSig = false) : sigFlag xs = 0#5 := by
  have : xs.any FVal.isSig = false := List.any_eq_false.2 fun x hx => by simp [h x hx]
  simp [sigFlag, this, FFlags.cond, FFlags.none]

/-- R151: the extreme of words from one that is no signalling NaN; NV tells whether one of the words is. -/
theorem foldl_minMax (max : Bool) (ys : List Word) {v : Nat} (fl : FFlags) (hv : (Fmt.fp32.value v).isSig = false) :
    ys.foldl (fun r y => ((Fmt.fp32.minMax max r.1 y.toNat).bits, r.2 ||| (Fmt.fp32.minMax max r.1 y.toNat).flags)) (v, fl) =
      (ys.foldl (fun b y => (Fmt.fp32.minMax max b y.toNat).bits) v,
        fl ||| sigFlag (ys.map fun y => Fmt.fp32.value y.toNat)) := by
  induction ys generalizing v fl with
  | nil => simp [sigFlag, FFlags.cond, FFlags.none]
  | cons y ys ih =>
    have hflag : (Fmt.fp32.minMax max v y.toNat).flags = sigFlag [Fmt.fp32.value y.toNat] := by
      rw [(Fmt.fp32.minMax_cases max v y.toNat).1, sigFlag_cons, sigFlag_of_forall (by simpa using hv), BitVec.zero_or]
    rw [List.foldl_cons, List.foldl_cons, ih _ (isSig_minMax max v y.toNat), hflag, List.map_cons,
      sigFlag_cons (Fmt.fp32.value y.toNat) (ys.map _), BitVec.or_assoc]

theorem reduceF32MinMax_eq (max : Bool) (ys : List Word) : reduceF32MinMax max ys =
    (ys.foldl (fun b y => (Fmt.fp32.minMax max b y.toNat).bits) 0x7FC00000, sigFlag (ys.map fun y => Fmt.fp32.value y.toNat)) := by
  have := foldl_minMax max ys FFlags.none (v := f32Nan) (by decide)
  rwa [FFlags.none, BitVec.zero_or] at this

end Sys2Proof.Machine

namespace Sys2Proof.Claims
open Sys2Proof.Machine

theorem reductionsSumAndCompare : ReductionsSumAndCompare := by
  intro s sw d r h a t ys
  have hsigned := foldl_keeps_extreme (lt := BitVec.slt) (key := BitVec.toInt) (fun x y => BitVec.slt_iff_toInt_lt)
  have hunsigned := foldl_keeps_extreme (lt := BitVec.ult) (key := BitVec.toNat) ult_iff_toNat_lt
  have hred := fun f => writesSregAndFlags_reduceOp f sw d h
  refine ⟨?_, ?_, fun k hk hmin => ?_, ?_, ?_, ?_, ?_, fun max => ?_⟩
  · rw [← foldl_add_eq_ofInt_sum]
    exact hred (redAdd .s32)
  · rw [← toNat_foldl_add, BitVec.ofNat_toNat]
    exact hred (redAdd .n32)
  · have := hred (redAdd .f32)
    simp only [redAdd, reduceF32Add_eq _ hk hmin] at this
    exact this
  · rw [← show _ = (ys.map BitVec.toInt).foldl max (-2 ^ 31) from (hsigned 0x80000000#32 ys).1]
    exact hred (redMax .s32)
  · rw [← show _ = (ys.map BitVec.toInt).foldl min (2 ^ 31 - 1) from (hsigned 0x7FFFFFFF#32 ys).2]
    exact hred (redMin .s32)
  · rw [← show _ = (ys.map BitVec.toNat).foldl max 0 from (hunsigned 0#32 ys).1, BitVec.ofNat_toNat]
    exact hred (redMax .n32)
  · rw [← show _ = (ys.map BitVec.toNat).foldl min (2 ^ 32 - 1) from (hunsigned 0xFFFFFFFF#32 ys).2, BitVec.ofNat_toNat]
    exact hred (redMin .n32)
  · refine ⟨_, (reduceF32MinMax max ys).2, ?_, congrArg Prod.fst (reduceF32MinMax_eq max ys), fun ⟨y, hy, hs⟩ => ?_,
      fun hs => ?_⟩
    · cases max
      · exact hred (redMin .f32)
      · exact hred (redMax .f32)
    · rw [reduceF32MinMax_eq]
      exact sigFlag_of_mem (List.mem_map_of_mem hy) hs
    · rw [reduceF32MinMax_eq]
      exact sigFlag_of_forall (by simpa using hs)

theorem maxiAnswersTheBestWord : MaxiAnswersTheBestWord := by
  intro s sw d r h ys
  have hbest := IsBest.empty.foldl ys
  rw [Set.empty_union] at hbest
  refine ⟨ys.foldl (viPick true) 0xFFFFFFFF, ?_, fun hnil => by rw [hnil]; rfl, fun hne => ?_, hbest.best⟩
  · have hfold : ys.foldl (viPick true) 0xFFFFFFFF =
        (s.activeVals s.cur (.v r)).foldl (fun r v => viPick true r v.toNat) 0xFFFFFFFF := by
      rw [← List.foldl_map (f := BitVec.toNat), State.activeVals, List.map_map]
      rfl
    rw [hfold]
    exact writesSregAndFlags_reduceOp redMaxi sw d h
  · refine hbest.mem_of_nonempty (List.exists_mem_of_ne_nil ys hne) fun y hy => ?_
    obtain ⟨i, -, rfl⟩ := List.mem_map.1 hy
    exact BitVec.isLt _

end Sys2Proof.Claims

open Sys2Proof.Claims

/-- Settles O24: the folds and the tree of the reductions, and the best word by its rank. -/
theorem reductionsCombineActiveLanes : Obligations.ReductionsCombineActiveLanes :=
  ⟨reductionsSumAndCompare, maxiAnswersTheBestWord⟩

end

section
/-! Scans (O25): what the scan operation writes, running sums, and recursive doubling lane by lane (R95, R152). -/

namespace Sys2Proof.Machine
open Sys2Proof.Claims

/-! ### What a scan writes -/

/-- R88, R152: a scan writes each active lane from its list and merges the active lanes' flags into FLAGS. -/
theorem writesFlaggedLanes_scanOp {s : State} (f : State → Nat → Src → List (Nat × FFlags)) (sw : Bool) {d : VReg} {a : Src}
    (h : TeamRuns s (d.toNat :: Src.regs a)) (ha : Src.vecOk a = true) :
    WritesFlaggedLanes s (scanOp f sw d a s) d
      (fun i => (BitVec.ofNat 32 ((f s s.cur a).getD i (0, FFlags.none)).1, ((f s s.cur a).getD i (0, FFlags.none)).2))
      (Src.len a) sw := by
  rw [scanOp, begin_team (n := needV [d.toNat] a) h rfl ha]
  exact writesLanes_done s d _ _ _ sw h.1

/-- Only what the active lanes get counts. -/
theorem WritesFlaggedLanes.congr {s : State} {o : Out} {d : VReg} {g g' : Nat → Word × FFlags} {n : Nat} {sw : Bool}
    (hw : WritesFlaggedLanes s o d g n sw) (h : ∀ i, i < (s.team s.cur).width → g i = g' i) :
    WritesFlaggedLanes s o d g' n sw := by
  obtain ⟨t, ho, hlanes, hvregs, hteam, hrest⟩ := hw
  refine ⟨t, ho, fun i hi => ?_, hvregs, ?_, hrest⟩
  · rw [hlanes i hi]
    split
    · next hact => exact congrArg Prod.fst (h i hact.1)
    · rfl
  · have hflags : (s.team s.cur).active.map (fun i => (g i).2) = (s.team s.cur).active.map fun i => (g' i).2 :=
      List.map_congr_left fun i hi => by rw [h i (Team.mem_active.1 hi).1]
    rw [Team.flagged, ← hflags]
    exact hteam

/-- A scan without flags leaves the team record as it was. -/
theorem WritesFlaggedLanes.unflagged {s : State} {o : Out} {d : VReg} {f : Nat → Word} {n : Nat} {sw : Bool}
    (hw : WritesFlaggedLanes s o d (fun i => (f i, 0#5)) n sw) : WritesLanes s o d f (s.team s.cur) n sw := by
  have hnone : ∀ ls : List Nat, (ls.map fun _ => 0#5).foldl (· ||| ·) 0#5 = 0#5 := fun ls => by
    induction ls with
    | nil => rfl
    | cons l ls ih => simpa using ih
  have hteam : (s.team s.cur).flagged (fun _ => 0#5) = s.team s.cur := by rw [Team.flagged, hnone, BitVec.or_zero]
  unfold WritesFlaggedLanes at hw
  rwa [hteam] at hw

/-- The values of a scan that raises no flag, said lane by lane. -/
theorem writesEachLane_scanOp {s : State} {f : State → Nat → Src → List (Nat × FFlags)} {p : Nat → Word → Prop} (v : Nat → Nat)
    (sw : Bool) {d : VReg} {a : Src} (h : TeamRuns s (d.toNat :: Src.regs a)) (ha : Src.vecOk a = true)
    (hf : ∀ i, i < (s.team s.cur).width → (f s s.cur a).getD i (0, FFlags.none) = (v i, FFlags.none))
    (hp : ∀ i, i < (s.team s.cur).width → p i (BitVec.ofNat 32 (v i))) :
    WritesEachLane s (scanOp f sw d a s) d p (Src.len a) sw := by
  refine ⟨fun i => BitVec.ofNat 32 (v i), WritesFlaggedLanes.unflagged ?_, hp⟩
  exact (writesFlaggedLanes_scanOp f sw h ha).congr fun i hi => by rw [hf i hi]; rfl

/-! ### Running sums -/

theorem prefixes_add_getElem? (z : Nat) (xs : List Nat) {i : Nat} (hi : i < xs.length) :
    (prefixes (· + ·) z xs)[i]? = some (z + (xs.take (i + 1)).sum) := by
  induction xs generalizing z i with
  | nil => cases hi
  | cons x xs ih =>
    cases i with
    | zero => simp [prefixes]
    | succ i =>
      rw [prefixes, List.getElem?_cons_succ, ih _ (by simpa using hi), List.take_succ_cons, List.sum_cons, Nat.add_assoc]

/-- The active lanes below lane i. -/
theorem active_filter_lt (t : Team) {i : Nat} (hi : i ≤ t.width) :
    (t.active.filter fun j => j < i) = (List.range i).filter fun j => t.exec.getLsbD j := by
  have hbelow : (List.range i).filter (fun j => decide (j < i)) = List.range i :=
    List.filter_eq_self.2 fun j hj => decide_eq_true (List.mem_range.1 hj)
  have habove : ((List.range (t.width - i)).map (i + ·)).filter (fun j => decide (j < i)) = [] := by
    refine List.filter_eq_nil_iff.2 fun j hj => ?_
    obtain ⟨l, -, rfl⟩ := List.mem_map.1 hj
    simp
  rw [Team.active, lanesOf, List.filter_comm, ← Nat.add_sub_of_le hi, List.range_add, List.filter_append, hbelow, habove,
    List.append_nil]

/-- The words of the active lanes below lane i. -/
def wordsBelow (s : State) (a : Src) (i : Nat) : List Nat :=
  ((s.team s.cur).active.filter fun j => j < i).map fun j => (Src.lane s s.cur .f32 j a).toNat

theorem wordsBelow_lt {s : State} {a : Src} {i y : Nat} (hy : y ∈ wordsBelow s a i) : y < 2 ^ 32 := by
  obtain ⟨j, -, rfl⟩ := List.mem_map.1 hy
  exact BitVec.isLt _

/-- The lanes below i contribute the sum of the active ones' words. -/
theorem sum_contributions (s : State) (a : Src) {i : Nat} (hi : i ≤ (s.team s.cur).width) :
    ((List.range i).map (contribution s a 0)).sum = (wordsBelow s a i).sum := by
  rw [wordsBelow, active_filter_lt _ hi]
  induction i with
  | zero => rfl
  | succ i ih =>
    have hlt : i < (s.team s.cur).width := hi
    rw [List.range_succ, List.map_append, List.sum_append, ih hlt.le, List.filter_append, List.map_append, List.sum_append]
    by_cases hact : (s.team s.cur).exec.getLsbD i = true <;> simp [contribution, hlt, hact]

/-! ### Recursive doubling (R95) -/

/-- Lane i after k steps of the recursive doubling by `f`: its value, and the flags of its own additions. -/
def doubled (f : Nat → Nat → FRes) (x : Nat → Nat) : Nat → Nat → Nat × FFlags
  | 0, i => (x i, FFlags.none)
  | k + 1, i =>
    if 2 ^ k ≤ i then
      ((f (doubled f x k (i - 2 ^ k)).1 (doubled f x k i).1).bits,
        (doubled f x k i).2 ||| (f (doubled f x k (i - 2 ^ k)).1 (doubled f x k i).1).flags)
    else doubled f x k i

section
variable (f : Nat → Nat → FRes) (x : Nat → Nat)

/-- A step at distance 2^k is the next of the steps. -/
theorem doubleStep_range (w k : Nat) :
    doubleStep f (2 ^ k) ((List.range w).map (doubled f x k)) = (List.range w).map (doubled f x (k + 1)) := by
  rw [doubleStep]
  refine List.ext_getElem (by simp; omega) fun i hi hw => ?_
  have hw : i < w := by simpa using hw
  rw [List.getElem_map, List.getElem_range, doubled]
  split
  · next h =>
    rw [List.getElem_append_right (by simp [h])]
    simp only [List.length_take, List.length_map, List.length_range, List.getElem_zipWith, List.getElem_map,
      List.getElem_range, List.getElem_drop, Nat.min_eq_left (h.trans hw.le), Nat.add_sub_of_le h]
  · next h =>
    rw [List.getElem_append_left (by simp; omega), List.getElem_take, List.getElem_map, List.getElem_range]

/-- Steps at distances above a lane do not change it. -/
theorem doubled_of_lt {i k m : Nat} (hi : i < 2 ^ k) (hk : k ≤ m) : doubled f x m i = doubled f x k i := by
  induction m, hk using Nat.le_induction with
  | base => rfl
  | succ m hkm ih =>
    rw [doubled, if_neg (by have := Nat.pow_le_pow_right two_pos hkm; omega), ih]

theorem doubled_eq_of_lt {i k m : Nat} (hk : i < 2 ^ k) (hm : i < 2 ^ m) : doubled f x k i = doubled f x m i := by
  rcases le_total k m with h | h
  · exact (doubled_of_lt f x hk h).symm
  · exact doubled_of_lt f x hm h

/-- The steps while the distance is below the width are all that change a lane. -/
theorem doubling_range (w fuel k : Nat) :
    doubling f w fuel (2 ^ k) ((List.range w).map (doubled f x k)) = (List.range w).map (doubled f x (k + fuel)) := by
  induction fuel generalizing k with
  | zero => rfl
  | succ fuel ih =>
    rw [doubling]
    split
    · rw [doubleStep_range, ← pow_succ', ih, Nat.add_right_comm, Nat.add_assoc]
    · next hw =>
      refine List.map_congr_left fun i hi => (doubled_of_lt f x ?_ (Nat.le_add_right ..)).symm
      rw [List.mem_range] at hi
      omega

/-- The scan of W values by recursive doubling, at a lane below W, in as many steps as W asks for. -/
theorem doubling_getD {w k i : Nat} (hk : w ≤ 2 ^ k) (hi : i < w) :
    (doubling f w (pow2AtLeast w).log2 1 (((List.range w).map x).map fun v => (v, FFlags.none))).getD i (0, FFlags.none) =
      doubled f x k i := by
  have hstart : ((List.range w).map x).map (fun v => (v, FFlags.none)) = (List.range w).map (doubled f x 0) := by
    rw [List.map_map]
    rfl
  have hrange := doubling_range f x w (pow2AtLeast w).log2 0
  rw [pow_zero, Nat.zero_add] at hrange
  rw [hstart, hrange, List.getD_eq_getElem?_getD, List.getElem?_map, List.getElem?_range hi]
  refine doubled_eq_of_lt f x ?_ (hi.trans_le hk)
  rw [pow2AtLeast_eq, Nat.log2_two_pow]
  exact hi.trans_le (Nat.le_pow_clog one_lt_two w)

end

theorem doubled_add (x : Nat → Nat) (k i : Nat) : doubled Fmt.fp32.add x k i = (scanValue k x i, scanFlags k x i) := by
  induction k generalizing i with
  | zero => rfl
  | succ k ih =>
    rw [doubled, scanValue, scanFlags]
    split
    · rw [ih, ih]
    · exact ih i

/-- The pick of two words as the operation of a doubling: it raises no flag. -/
def pickStep (x y : Nat) : FRes := ⟨viPick true x y, FFlags.none⟩

/-- The words of the active lanes among the 2^k lanes up to lane i. -/
def wordsInReach (s : State) (a : Src) (k i : Nat) : Set Nat :=
  {y | ∃ j ∈ (s.team s.cur).active, j ≤ i ∧ i < j + 2 ^ k ∧ (Src.lane s s.cur .f32 j a).toNat = y}

theorem wordsInReach_succ (s : State) (a : Src) {k i : Nat} (hi : 2 ^ k ≤ i) :
    wordsInReach s a (k + 1) i = wordsInReach s a k (i - 2 ^ k) ∪ wordsInReach s a k i := by
  ext y
  constructor
  · rintro ⟨j, hj, hji, hij, rfl⟩
    rw [pow_succ] at hij
    by_cases h : i < j + 2 ^ k
    · exact .inr ⟨j, hj, hji, h, rfl⟩
    · exact .inl ⟨j, hj, by omega, by omega, rfl⟩
  · rintro (⟨j, hj, hji, hij, rfl⟩ | ⟨j, hj, hji, hij, rfl⟩)
    · exact ⟨j, hj, by omega, by rw [pow_succ]; omega, rfl⟩
    · exact ⟨j, hj, hji, by rw [pow_succ]; omega, rfl⟩

theorem wordsInReach_of_lt (s : State) (a : Src) {k m i : Nat} (hk : i < 2 ^ k) (hm : i < 2 ^ m) :
    wordsInReach s a k i = wordsInReach s a m i := by
  ext y
  refine exists_congr fun j => and_congr_right fun _ => and_congr_right fun _ => and_congr_left fun _ => ?_
  omega

/-- A lane below 2^k has all lanes up to it in its reach. -/
theorem wordsInReach_eq (s : State) (a : Src) {k i : Nat} (hi : i < 2 ^ k) :
    wordsInReach s a k i = {y | y ∈ wordsBelow s a (i + 1)} := by
  ext y
  simp only [wordsInReach, wordsBelow, Set.mem_ofPred_eq, List.mem_map, List.mem_filter, decide_eq_true_eq, and_assoc,
    Nat.lt_succ_iff]
  refine exists_congr fun j => and_congr_right fun _ => and_congr_right fun _ => and_iff_right ?_
  omega

/-- R152: after k steps a lane holds the best of the active words in its reach, and has raised no flag. -/
theorem isBest_doubled (s : State) (a : Src) (k i : Nat) :
    (doubled pickStep (contribution s a 0xFFFFFFFF) k i).2 = FFlags.none ∧
      IsBest (wordsInReach s a k i) (doubled pickStep (contribution s a 0xFFFFFFFF) k i).1 := by
  induction k generalizing i with
  | zero =>
    refine ⟨rfl, ?_⟩
    have hreach : ∀ y ∈ wordsInReach s a 0 i, i ∈ (s.team s.cur).active ∧ (Src.lane s s.cur .f32 i a).toNat = y := by
      rintro y ⟨j, hj, hji, hij, rfl⟩
      obtain rfl : j = i := by omega
      exact ⟨hj, rfl⟩
    by_cases hact : i ∈ (s.team s.cur).active
    · have hset : wordsInReach s a 0 i = {(Src.lane s s.cur .f32 i a).toNat} := by
        ext y
        exact ⟨fun hy => (hreach y hy).2.symm, fun hy => ⟨i, hact, le_rfl, by omega, hy.symm⟩⟩
      rw [hset, doubled, contribution, if_pos (Team.mem_active.1 hact)]
      exact .singleton _
    · have hset : wordsInReach s a 0 i = ∅ := Set.eq_empty_of_forall_notMem fun y hy => hact (hreach y hy).1
      rw [hset, doubled, contribution, if_neg (fun h => hact (Team.mem_active.2 h))]
      exact .empty
  | succ k ih =>
    obtain ⟨hflags, hbest⟩ := ih i
    rw [doubled]
    split
    · next hk =>
      obtain ⟨-, hbelow⟩ := ih (i - 2 ^ k)
      rw [wordsInReach_succ s a hk]
      exact ⟨by rw [hflags]; exact BitVec.or_zero, hbelow.pick hbest⟩
    · next hk =>
      rw [wordsInReach_of_lt s a (m := k) (by rw [pow_succ]; omega) (by omega)]
      exact ⟨hflags, hbest⟩

/-! ### The scans -/

/-- R95, R152: the running sum at lane i is that of the words of the active lanes up to it. -/
theorem scanInclS32_getD (s : State) (a : Src) {i : Nat} (hi : i < (s.team s.cur).width) :
    (scanInclS32 s s.cur a).getD i (0, FFlags.none) = ((wordsBelow s a (i + 1)).sum, FFlags.none) := by
  rw [scanInclS32, laneVals_eq, List.getD_eq_getElem?_getD, List.getElem?_map, prefixes_add_getElem? _ _ (by simpa using hi),
    ← List.map_take, List.take_range, Nat.min_eq_left hi, sum_contributions s a hi, Nat.zero_add]
  rfl

/-- R152: an exclusive scan is the inclusive one of the lane before, from 0. -/
theorem scanExclS32_getD (s : State) (a : Src) {i : Nat} (hi : i < (s.team s.cur).width) :
    (scanExclS32 s s.cur a).getD i (0, FFlags.none) = ((wordsBelow s a i).sum, FFlags.none) := by
  cases i with
  | zero =>
    rw [← sum_contributions s a (Nat.zero_le _)]
    rfl
  | succ i => exact scanInclS32_getD s a (Nat.lt_of_succ_lt hi)

end Sys2Proof.Machine

open Sys2Proof Sys2Proof.Machine Sys2Proof.Claims

/-- Settles O25: the running sums, and the recursive doubling lane by lane. -/
theorem scansAreOrderedPrefixes : Obligations.ScansAreOrderedPrefixes := by
  unfold Obligations.ScansAreOrderedPrefixes
  intro s sw d a h ha t upTo below n
  have hupTo : ∀ i, wordsBelow s a (i + 1) = upTo i := fun i => by simp [wordsBelow, upTo, t]
  refine ⟨?_, ?_, fun k hk => ?_, ?_⟩
  · refine writesEachLane_scanOp (f := scanInclS32) _ sw h ha (fun i => scanInclS32_getD s a) fun i _ => ?_
    rw [BitVec.toNat_ofNat, hupTo]
  · refine writesEachLane_scanOp (f := scanExclS32) _ sw h ha (fun i => scanExclS32_getD s a) fun i _ => ?_
    rw [BitVec.toNat_ofNat]
    rfl
  · refine (writesFlaggedLanes_scanOp scanInclF32 sw h ha).congr fun i hi => ?_
    rw [scanInclF32, laneVals_eq, doubling_getD _ _ hk hi, doubled_add]
    rfl
  · refine writesEachLane_scanOp (f := scanInclMaxi)
      (fun i => (doubled pickStep (contribution s a 0xFFFFFFFF) (Nat.clog 2 t.width) i).1) sw h ha (fun i hi => ?_) fun i hi => ?_
    · rw [scanInclMaxi, laneVals_eq]
      refine (doubling_getD pickStep _ (Nat.le_pow_clog one_lt_two _) hi).trans ?_
      exact Prod.ext rfl (isBest_doubled s a _ i).1
    · have hreach : i < 2 ^ Nat.clog 2 t.width := hi.trans_le (Nat.le_pow_clog one_lt_two _)
      have hbest := (isBest_doubled s a (Nat.clog 2 t.width) i).2
      have hword : ∀ y ∈ upTo i, y < 2 ^ 32 := hupTo i ▸ fun y => wordsBelow_lt
      rw [wordsInReach_eq s a hreach, hupTo] at hbest
      rw [BitVec.toNat_ofNat, Nat.mod_eq_of_lt (hbest.lt hword)]
      exact ⟨fun hne => hbest.mem_of_nonempty (List.exists_mem_of_ne_nil _ hne) hword, hbest.best⟩

end

section
/-! What the vector operations write, lane by lane (O17, O18, O20, O21, O23): each operation's result from the function that it
applies (R55, R127, R128), and the elements of a packed word (R72). -/

namespace Sys2Proof.Machine
open Sys2Proof.Claims

theorem TeamRuns.mono {s : State} {rs qs : List Nat} (h : TeamRuns s rs) (hsub : qs ⊆ rs) : TeamRuns s qs := by
  obtain ⟨hk, hr, hh⟩ := h
  exact ⟨hk, fun r hm => hr r (hsub hm), fun r hm => hh r (hsub hm)⟩

/-- The registers of a form with D and A are among those of one with D, B and A. -/
theorem TeamRuns.withoutB {s : State} {d b : Nat} {rs : List Nat} (h : TeamRuns s (d :: b :: rs)) : TeamRuns s (d :: rs) :=
  h.mono (List.cons_subset_cons d (List.subset_cons_self b rs))

section
variable {s : State} {d b : VReg} {a : Src} {p : Nat → Word → Prop} {n : Nat}

theorem writesEachLane_putLanes {f : Nat → Word} (sw : Bool) (hk : (s.ctx s.cur).kind = .team)
    (hp : ∀ i, i < (s.team s.cur).width → p i (f i)) :
    WritesEachLane s (.next ((s.putLanes s.cur d f).done s.cur n sw)) d p n sw :=
  ⟨f, writesLanes_plain s d f n sw hk, hp⟩

theorem writesEachLane_vecOp (f : Word → Word → Word → Word) (sw : Bool) (h : TeamRuns s (d.toNat :: b.toNat :: Src.regs a))
    (ha : Src.vecOk a = true)
    (hp : ∀ i, i < (s.team s.cur).width →
      p i (f ((s.vreg s.cur b.toNat).lane i) (Src.lane s s.cur .f32 i a) ((s.vreg s.cur d.toNat).lane i))) :
    WritesEachLane s (vecOp f sw d b a s) d p (Src.len a) sw := by
  rw [vecOp, begin_team (n := needV [d.toNat, b.toNat] a) h rfl ha]
  exact writesEachLane_putLanes sw h.1 hp

theorem writesEachLane_vecOp1 (f : Word → Word) (sw : Bool) (h : TeamRuns s (d.toNat :: Src.regs a))
    (ha : Src.vecOk a = true) (hp : ∀ i, i < (s.team s.cur).width → p i (f (Src.lane s s.cur .f32 i a))) :
    WritesEachLane s (vecOp1 f sw d a s) d p (Src.len a) sw := by
  rw [vecOp1, begin_team (n := needV [d.toNat] a) h rfl ha]
  exact writesEachLane_putLanes sw h.1 hp

theorem writesEachLane_shiftImm (f : Word → Nat → Word) (sw : Bool) {im : BitVec 8} (h : TeamRuns s [d.toNat, b.toNat])
    (hp : ∀ i, i < (s.team s.cur).width → p i (f ((s.vreg s.cur b.toNat).lane i) im.toNat)) :
    WritesEachLane s (shiftImm f sw d b im s) d p 1 sw := by
  rw [shiftImm, begin_team (n := needT true [d.toNat, b.toNat]) h rfl rfl]
  exact writesEachLane_putLanes sw h.1 hp

theorem writesEachLane_selOp (k : Nat) (sw : Bool) (h : TeamRuns s (d.toNat :: b.toNat :: Src.regs a))
    (ha : Src.vecOk a = true) :
    WritesEachLane s (selOp k sw d b a s) d
      (fun i r => r = if ((s.team s.cur).lmk k).getLsbD i = true then Src.lane s s.cur .f32 i a
        else (s.vreg s.cur b.toNat).lane i) (Src.len a) sw := by
  rw [selOp, begin_team (n := needV [d.toNat, b.toNat] a) h rfl ha]
  exact writesEachLane_putLanes sw h.1 fun _ _ => rfl

theorem writesEachLane_shuffleOp (src : Nat → Nat → Nat) (sw : Bool) (h : TeamRuns s (d.toNat :: b.toNat :: Src.regs a))
    (ha : Src.vecOk a = true)
    (hp : ∀ i, i < (s.team s.cur).width →
      p i ((s.vreg s.cur b.toNat).lane (src i ((Src.lane s s.cur .f32 i a).toNat % 32)))) :
    WritesEachLane s (shuffleOp src sw d b a s) d p (Src.len a) sw := by
  rw [shuffleOp, begin_team (n := needV [d.toNat, b.toNat] a) h rfl ha]
  exact writesEachLane_putLanes sw h.1 hp

theorem writesFlaggedLanes_vecFop (e : Elem) (f : Word → Word → Word → Word × FFlags) (sw : Bool)
    (h : TeamRuns s (d.toNat :: b.toNat :: Src.regs a)) (ha : Src.vecOk a = true) :
    WritesFlaggedLanes s (vecFop e f sw d b a s) d
      (fun i => f ((s.vreg s.cur b.toNat).lane i) (Src.lane s s.cur e i a) ((s.vreg s.cur d.toNat).lane i)) (Src.len a) sw := by
  rw [vecFop, begin_team (n := needV [d.toNat, b.toNat] a) h rfl ha]
  exact writesLanes_done s d _ _ _ sw h.1

theorem writesFlaggedLanes_vecFop1 (e : Elem) (f : Word → Word × FFlags) (sw : Bool) (h : TeamRuns s (d.toNat :: Src.regs a))
    (ha : Src.vecOk a = true) :
    WritesFlaggedLanes s (vecFop1 e f sw d a s) d (fun i => f (Src.lane s s.cur e i a)) (Src.len a) sw := by
  rw [vecFop1, begin_team (n := needV [d.toNat] a) h rfl ha]
  exact writesLanes_done s d _ _ _ sw h.1

end


/-! ### Elements of a packed word (R72) -/

theorem half_append (u v : Half) : half (u ++ v) 0 = v ∧ half (u ++ v) 1 = u :=
  ⟨BitVec.extractLsb'_append_eq_right, BitVec.extractLsb'_append_eq_left⟩

/-- An x2 form applies its function to each half. -/
theorem half_map16 (f : Half → Half → Half → Half) (b a d : Word) {k : Nat} (hk : k < 2) :
    half (map16 f b a d) k = f (half b k) (half a k) (half d k) := by
  obtain ⟨hlow, hhigh⟩ := half_append (f (half b 1) (half a 1) (half d 1)) (f (half b 0) (half a 0) (half d 0))
  obtain rfl | rfl : k = 0 ∨ k = 1 := by omega
  · exact hlow
  · exact hhigh

/-- An x4 form applies its function to each byte. -/
theorem byteOf_map8 (f : Byte → Byte → Byte) (b a : Word) {k : Nat} (hk : k < 4) :
    byteOf (map8 f b a) k = f (byteOf b k) (byteOf a k) := by
  have hlow : ∀ {n : Nat} (u : BitVec n) (v : Byte), (u ++ v).extractLsb' 0 8 = v := fun _ _ =>
    BitVec.extractLsb'_append_eq_right
  have hhigh : ∀ {n m : Nat} (u : BitVec n) (v : Byte), (u ++ v).extractLsb' (8 + m) 8 = u.extractLsb' m 8 := fun _ _ => by
    rw [BitVec.extractLsb'_append_eq_of_le (by omega), Nat.add_sub_cancel_left]
  obtain rfl | rfl | rfl | rfl : k = 0 ∨ k = 1 ∨ k = 2 ∨ k = 3 := by omega
  · exact hlow _ _
  · exact (hhigh (m := 0) _ _).trans (hlow _ _)
  · exact (hhigh (m := 8) _ _).trans ((hhigh (m := 0) _ _).trans (hlow _ _))
  · exact (hhigh (m := 16) _ _).trans ((hhigh (m := 8) _ _).trans BitVec.extractLsb'_append_eq_left)

end Sys2Proof.Machine
end

section
/-! Vector integer arithmetic (O17): words as integers, saturation, high halves of products, and sums of byte products
(R73, R130-R132). -/

namespace Sys2Proof.Machine
open Sys2Proof.Claims

theorem add_eq_ofInt {w : Nat} (x y : BitVec w) : x + y = BitVec.ofInt w (x.toInt + y.toInt) := by
  rw [BitVec.ofInt_add, BitVec.ofInt_toInt, BitVec.ofInt_toInt]

theorem sub_eq_ofInt {w : Nat} (x y : BitVec w) : x - y = BitVec.ofInt w (x.toInt - y.toInt) := by
  rw [BitVec.sub_eq_add_neg, Int.sub_eq_add_neg, BitVec.ofInt_add, BitVec.ofInt_neg, BitVec.ofInt_toInt, BitVec.ofInt_toInt]

theorem mul_eq_ofInt {w : Nat} (x y : BitVec w) : x * y = BitVec.ofInt w (x.toInt * y.toInt) := by
  rw [BitVec.ofInt_mul, BitVec.ofInt_toInt, BitVec.ofInt_toInt]

theorem add_mul_eq_ofInt {w : Nat} (x y z : BitVec w) : z + x * y = BitVec.ofInt w (z.toInt + x.toInt * y.toInt) := by
  rw [BitVec.ofInt_add, ← mul_eq_ofInt, BitVec.ofInt_toInt]

theorem clampInt_eq {lo hi : Int} (h : lo ≤ hi) (v : Int) : clampInt lo hi v = max lo (min hi v) := by
  unfold clampInt
  split
  · omega
  · split <;> omega

theorem toInt_satS32 (v : Int) : (satS32 v).toInt = max (-2 ^ 31) (min (2 ^ 31 - 1) v) := by
  rw [satS32, clampInt_eq (by decide), BitVec.toInt_ofInt_eq_self (by decide)] <;> omega

/-- The high half of a signed product: the product of two words fits 64 bits. -/
theorem toInt_highHalf (x y : Word) :
    (((x.signExtend 64) * (y.signExtend 64)).extractLsb' 32 32).toInt = x.toInt * y.toInt / 2 ^ 32 := by
  have hprod : x.signExtend 64 * y.signExtend 64 = BitVec.ofInt 64 (x.toInt * y.toInt) := by
    rw [BitVec.ofInt_mul]
    rfl
  have hup : x.toInt * y.toInt ≤ 2 ^ 62 := BitVec.toInt_mul_toInt_le
  have hlow : -2 ^ 62 ≤ x.toInt * y.toInt := le_trans (by decide) BitVec.le_toInt_mul_toInt
  rw [hprod, BitVec.toInt_extractLsb', BitVec.toNat_ofInt, Nat.shiftRight_eq_div_pow, Int.bmod_def]
  omega

/-- The high half of an unsigned product. -/
theorem toNat_highHalf (x y : Word) :
    (((x.setWidth 64) * (y.setWidth 64)).extractLsb' 32 32).toNat = x.toNat * y.toNat / 2 ^ 32 := by
  have hlt : x.toNat * y.toNat < 2 ^ 64 := (Nat.mul_lt_mul'' x.isLt y.isLt).trans_eq (by norm_num)
  have hprod : (x.setWidth 64 * y.setWidth 64).toNat = x.toNat * y.toNat := by
    rw [BitVec.toNat_mul, BitVec.toNat_setWidth_of_le (by decide), BitVec.toNat_setWidth_of_le (by decide), Nat.mod_eq_of_lt hlt]
  rw [BitVec.extractLsb'_toNat, hprod, Nat.shiftRight_eq_div_pow, Nat.mod_eq_of_lt (by omega)]

theorem dot4_eq (val : Byte → Int) (x y : Word) :
    dot4 val x y = val (byteOf x 0) * val (byteOf y 0) + val (byteOf x 1) * val (byteOf y 1) +
      val (byteOf x 2) * val (byteOf y 2) + val (byteOf x 3) * val (byteOf y 3) := by
  simp [dot4, List.range_succ]

/-- R132: the sum of unsigned byte products is added to D modulo 2^32, whatever sign D is read with. -/
theorem ofInt_add_dot4 (x y z : Word) :
    BitVec.ofInt 32 (z.toInt + dot4 (fun b => (b.toNat : Int)) x y) =
      BitVec.ofNat 32 (z.toNat + ((byteOf x 0).toNat * (byteOf y 0).toNat + (byteOf x 1).toNat * (byteOf y 1).toNat +
        (byteOf x 2).toNat * (byteOf y 2).toNat + (byteOf x 3).toNat * (byteOf y 3).toNat)) := by
  rw [dot4_eq, BitVec.ofInt_add, BitVec.ofInt_toInt, BitVec.ofNat_add, BitVec.ofNat_toNat, BitVec.setWidth_eq,
    ← BitVec.ofInt_natCast]
  push_cast
  rfl

end Sys2Proof.Machine

namespace Sys2Proof.Claims
open Sys2Proof.Machine

theorem vectorAddSubtractMultiply : VectorAddSubtractMultiply := by
  intro s sw d b a h ha x y n sat
  refine ⟨?_, ?_, ?_, ?_, ?_, ?_, ?_, ?_, ?_, ?_, ?_, ?_⟩
  · exact writesEachLane_vecOp (fun b a _ => b + a) sw h ha fun i _ => add_eq_ofInt (x i) (y i)
  · exact writesEachLane_vecOp (map16 fun x y _ => x + y) sw h ha
      fun i _ k hk => (half_map16 _ _ _ _ hk).trans (add_eq_ofInt _ _)
  · exact writesEachLane_vecOp (fun b a _ => map8 (· + ·) b a) sw h ha
      fun i _ k hk => (byteOf_map8 _ _ _ hk).trans (add_eq_ofInt _ _)
  · exact writesEachLane_vecOp (fun b a _ => satS32 (b.toInt + a.toInt)) sw h ha fun i _ => toInt_satS32 _
  · exact writesEachLane_vecOp (fun b a _ => b - a) sw h ha fun i _ => sub_eq_ofInt (x i) (y i)
  · exact writesEachLane_vecOp (map16 fun x y _ => x - y) sw h ha
      fun i _ k hk => (half_map16 _ _ _ _ hk).trans (sub_eq_ofInt _ _)
  · exact writesEachLane_vecOp (fun b a _ => map8 (· - ·) b a) sw h ha
      fun i _ k hk => (byteOf_map8 _ _ _ hk).trans (sub_eq_ofInt _ _)
  · exact writesEachLane_vecOp (fun b a _ => satS32 (b.toInt - a.toInt)) sw h ha fun i _ => toInt_satS32 _
  · exact writesEachLane_vecOp (fun b a _ => b * a) sw h ha fun i _ => mul_eq_ofInt (x i) (y i)
  · exact writesEachLane_vecOp (fun b a _ => ((b.signExtend 64) * (a.signExtend 64)).extractLsb' 32 32) sw h ha
      fun i _ => toInt_highHalf (x i) (y i)
  · exact writesEachLane_vecOp (fun b a _ => ((b.setWidth 64) * (a.setWidth 64)).extractLsb' 32 32) sw h ha
      fun i _ => toNat_highHalf (x i) (y i)
  · exact writesEachLane_vecOp (map16 fun x y _ => x * y) sw h ha
      fun i _ k hk => (half_map16 _ _ _ _ hk).trans (mul_eq_ofInt _ _)

theorem vectorMultiplyAccumulate : VectorMultiplyAccumulate := by
  intro s sw d b a h ha x y z n sp np
  refine ⟨?_, ?_, ?_, ?_⟩
  · exact writesEachLane_vecOp (fun b a d => d + b * a) sw h ha fun i _ => add_mul_eq_ofInt (x i) (y i) (z i)
  · exact writesEachLane_vecOp (map16 fun x y z => z + x * y) sw h ha
      fun i _ k hk => (half_map16 _ _ _ _ hk).trans (add_mul_eq_ofInt _ _ _)
  · exact writesEachLane_vecOp (fun b a d => BitVec.ofInt 32 (d.toInt + dot4 BitVec.toInt b a)) sw h ha fun i _ =>
      congrArg (fun v => BitVec.ofInt 32 ((z i).toInt + v)) (dot4_eq BitVec.toInt (x i) (y i))
  · exact writesEachLane_vecOp (fun b a d => BitVec.ofInt 32 (d.toInt + dot4 (fun x => (x.toNat : Int)) b a)) sw h ha
      fun i _ => ofInt_add_dot4 (x i) (y i) (z i)

end Sys2Proof.Claims

open Sys2Proof.Claims

/-- Settles O17: each form's element function, as integers. -/
theorem vectorArithmetic : Obligations.VectorArithmetic := ⟨vectorAddSubtractMultiply, vectorMultiplyAccumulate⟩

end


section
/-! Vector logic, shifts, extremes, bit counts, selects and moves (O18): what shifts, rotations and bit counts of a word are as
numbers (R133-R135). -/

namespace Sys2Proof.Machine
open Sys2Proof.Claims

/-! ### Shifts and extremes -/

theorem toNat_shiftLeft_eq_mul (v : Word) (c : Nat) : (v <<< c).toNat = v.toNat * 2 ^ c % 2 ^ 32 := by
  rw [BitVec.toNat_shiftLeft, Nat.shiftLeft_eq]

theorem toNat_shiftRight_eq_div (v : Word) (c : Nat) : (v >>> c).toNat = v.toNat / 2 ^ c := by
  rw [BitVec.toNat_ushiftRight, Nat.shiftRight_eq_div_pow]

theorem toInt_sshiftRight_eq_div (v : Word) (c : Nat) : (v.sshiftRight c).toInt = v.toInt / 2 ^ c := by
  rw [BitVec.toInt_sshiftRight, Int.shiftRight_eq_div_pow, Nat.cast_pow, Nat.cast_ofNat]

/-- A rotation adds what a left shift drops, at the low end. -/
theorem rotateLeft_eq_ofNat (v : Word) {c : Nat} (hc : c < 32) :
    v.rotateLeft c = BitVec.ofNat 32 (v.toNat * 2 ^ c + v.toNat / 2 ^ (32 - c)) := by
  have hdisjoint : v <<< c &&& v >>> (32 - c) = 0#32 := by
    ext i hi
    simp only [BitVec.getElem_and, BitVec.getElem_shiftLeft, BitVec.getElem_ushiftRight, BitVec.getElem_zero]
    by_cases hic : i < c
    · simp [hic]
    · rw [BitVec.getLsbD_of_ge v (32 - c + i) (by omega), Bool.and_false]
  rw [BitVec.rotateLeft_def, Nat.mod_eq_of_lt hc, ← BitVec.add_eq_or_of_and_eq_zero _ _ hdisjoint]
  refine BitVec.eq_of_toNat_eq ?_
  rw [BitVec.toNat_add, toNat_shiftLeft_eq_mul, toNat_shiftRight_eq_div, BitVec.toNat_ofNat, Nat.mod_add_mod]

/-- Keeping the word of the lower, or of the higher, number gives the extreme number. -/
theorem ite_keeps_extreme {α : Type} [LinearOrder α] {lt : Word → Word → Bool} {key : Word → α}
    (hlt : ∀ x y, lt x y = true ↔ key x < key y) (x y : Word) :
    key (if lt y x then y else x) = min (key x) (key y) ∧ key (if lt x y then y else x) = max (key x) (key y) := by
  obtain ⟨hmax, hmin⟩ := foldl_keeps_extreme hlt x [y]
  exact ⟨hmin, hmax⟩

/-! ### Bit counts (R135) -/

theorem toNat_popN (y : Word) :
    (BitVec.ofNat 32 (popN 32 y.toNat)).toNat = ((List.range 32).filter fun j => y.getLsbD j).length := by
  have hle : popN 32 y.toNat ≤ 32 := (List.length_filter_le ..).trans_eq List.length_range
  rw [BitVec.toNat_ofNat, Nat.mod_eq_of_lt (by omega)]
  rfl

/-- The leading zeros of a number of 32 bits bound it from both sides. -/
theorem clzN_spec {y : Nat} (hy : y < 2 ^ 32) :
    clzN 32 y ≤ 32 ∧ y < 2 ^ (32 - clzN 32 y) ∧ (clzN 32 y < 32 → 2 ^ (31 - clzN 32 y) ≤ y) := by
  unfold clzN
  by_cases h0 : y = 0
  · simp [h0]
  · have hlog : y.log2 < 32 := (Nat.log2_lt h0).2 hy
    rw [if_neg (by simpa using h0)]
    refine ⟨by omega, ?_, fun _ => ?_⟩
    · rw [show 32 - (32 - 1 - y.log2) = y.log2 + 1 by omega]
      exact Nat.lt_log2_self
    · rw [show 31 - (32 - 1 - y.log2) = y.log2 by omega]
      exact Nat.log2_self_le h0

/-- The lowest n bits of a number in reverse order. -/
def reversed (x : Nat) : Nat → Nat
  | 0 => 0
  | n + 1 => Nat.bit (x.testBit n) (reversed x n)

theorem testBit_reversed (x : Nat) {n j : Nat} (hj : j < n) : (reversed x n).testBit j = x.testBit (n - 1 - j) := by
  induction n generalizing j with
  | zero => omega
  | succ n ih =>
    cases j with
    | zero => simp [reversed]
    | succ j =>
      rw [reversed, Nat.testBit_bit_succ, ih (by omega)]
      congr 1
      omega

/-- What the reversal of w bits has added up after n of them. -/
theorem foldl_reversed (w x : Nat) {n : Nat} (hn : n ≤ w) :
    (List.range n).foldl (fun a i => if x.testBit i then a + 2 ^ (w - 1 - i) else a) 0 = 2 ^ (w - n) * reversed x n := by
  induction n with
  | zero => rfl
  | succ n ih =>
    have hpow : 2 ^ (w - n) = 2 ^ (w - (n + 1)) * 2 := by
      rw [← pow_succ]
      congr 1
      omega
    rw [List.range_succ, List.foldl_append, ih (by omega), List.foldl_cons, List.foldl_nil, reversed, hpow,
      show w - 1 - n = w - (n + 1) by omega, Nat.bit_val, Nat.mul_add, Nat.mul_assoc]
    cases x.testBit n <;> simp

theorem revN_eq_reversed (w x : Nat) : revN w x = reversed x w := by
  rw [revN, foldl_reversed w x le_rfl, Nat.sub_self, pow_zero, Nat.one_mul]

theorem getLsbD_revN (y : Word) {j : Nat} (hj : j < 32) :
    (BitVec.ofNat 32 (revN 32 y.toNat)).getLsbD j = y.getLsbD (31 - j) := by
  rw [BitVec.getLsbD_ofNat, decide_eq_true hj, Bool.true_and, revN_eq_reversed, testBit_reversed _ hj]
  rfl

/-- The trailing zeros of a number with a bit set below w: the place of its lowest one. -/
theorem ctzN_spec {w x : Nat} (h : ∃ i < w, x.testBit i = true) :
    ctzN w x < w ∧ x.testBit (ctzN w x) = true ∧ ∀ j, j < ctzN w x → x.testBit j = false := by
  unfold ctzN
  split
  · next hnil =>
    obtain ⟨i, hi, hx⟩ := h
    exact absurd hx (by simpa using List.filter_eq_nil_iff.1 hnil i (List.mem_range.2 hi))
  · next i rest hcons =>
    have hmem : ∀ j, j ∈ i :: rest ↔ j < w ∧ x.testBit j = true := fun j => by rw [← hcons]; simp
    have hsorted : (i :: rest).Pairwise (· < ·) := hcons ▸ List.pairwise_lt_range.filter _
    obtain ⟨hi, hx⟩ := (hmem i).1 List.mem_cons_self
    refine ⟨hi, hx, fun j hj => Bool.eq_false_iff.2 fun hjx => ?_⟩
    rcases List.mem_cons.1 ((hmem j).2 ⟨hj.trans hi, hjx⟩) with rfl | hrest
    · exact lt_irrefl _ hj
    · exact lt_asymm hj ((List.pairwise_cons.1 hsorted).1 j hrest)

/-- R135: the lowest bit set of a word, all ones where none is. -/
theorem ffs_spec (y : Word) :
    let r := if y == 0#32 then BitVec.allOnes 32 else BitVec.ofNat 32 (ctzN 32 y.toNat)
    if y = 0#32 then r = BitVec.allOnes 32
    else y.getLsbD r.toNat = true ∧ ∀ j, j < r.toNat → y.getLsbD j = false := by
  by_cases hy : y = 0#32
  · simp [hy]
  · have hset : ∃ i < 32, y.toNat.testBit i = true := by
      by_contra hnone
      refine hy (BitVec.eq_of_getLsbD_eq fun i hi => ?_)
      rw [BitVec.getLsbD_zero]
      exact Bool.eq_false_iff.2 fun hi' => hnone ⟨i, hi, hi'⟩
    obtain ⟨hlt, hbit, hbelow⟩ := ctzN_spec hset
    have hr : (BitVec.ofNat 32 (ctzN 32 y.toNat)).toNat = ctzN 32 y.toNat := by
      rw [BitVec.toNat_ofNat, Nat.mod_eq_of_lt (by omega)]
    simp only [hy, beq_iff_eq, if_false, hr]
    exact ⟨hbit, hbelow⟩

end Sys2Proof.Machine

namespace Sys2Proof.Claims
open Sys2Proof.Machine

theorem vectorLogicShiftsAndExtremes : VectorLogicShiftsAndExtremes := by
  intro s sw d b a im h ha him x y k n rot
  have himm : TeamRuns s [d.toNat, b.toNat] := h.mono (by simp)
  have hk : ∀ i, k i < 32 := fun i => Nat.mod_lt _ (by decide)
  have hsigned := ite_keeps_extreme (lt := BitVec.slt) (key := BitVec.toInt) fun _ _ => BitVec.slt_iff_toInt_lt
  have hunsigned := ite_keeps_extreme (lt := BitVec.ult) (key := BitVec.toNat) ult_iff_toNat_lt
  refine ⟨?_, ?_, ?_, ?_, ?_, ?_, ?_, ?_, ?_, ?_, ?_, ?_, ?_, ?_, ?_, ?_⟩
  · exact writesEachLane_vecOp (fun b a _ => b &&& a) sw h ha fun i _ => rfl
  · exact writesEachLane_vecOp (fun b a _ => b ||| a) sw h ha fun i _ => rfl
  · exact writesEachLane_vecOp (fun b a _ => b ^^^ a) sw h ha fun i _ => rfl
  · exact writesEachLane_vecOp (fun b a _ => b &&& ~~~a) sw h ha fun i _ => rfl
  · exact writesEachLane_vecOp (fun b a _ => b <<< (a.toNat % 32)) sw h ha fun i _ => toNat_shiftLeft_eq_mul (x i) (k i)
  · exact writesEachLane_vecOp (fun b a _ => b >>> (a.toNat % 32)) sw h ha fun i _ => toNat_shiftRight_eq_div (x i) (k i)
  · exact writesEachLane_vecOp (fun b a _ => b.sshiftRight (a.toNat % 32)) sw h ha
      fun i _ => toInt_sshiftRight_eq_div (x i) (k i)
  · exact writesEachLane_vecOp (fun b a _ => b.rotateLeft (a.toNat % 32)) sw h ha
      fun i _ => rotateLeft_eq_ofNat (x i) (hk i)
  · exact writesEachLane_shiftImm (fun b c => b <<< c) sw himm fun i _ => toNat_shiftLeft_eq_mul (x i) im.toNat
  · exact writesEachLane_shiftImm (fun b c => b >>> c) sw himm fun i _ => toNat_shiftRight_eq_div (x i) im.toNat
  · exact writesEachLane_shiftImm BitVec.sshiftRight sw himm fun i _ => toInt_sshiftRight_eq_div (x i) im.toNat
  · exact writesEachLane_shiftImm BitVec.rotateLeft sw himm fun i _ => rotateLeft_eq_ofNat (x i) him
  · exact writesEachLane_vecOp (fun b a _ => if a.slt b then a else b) sw h ha fun i _ => (hsigned (x i) (y i)).1
  · exact writesEachLane_vecOp (fun b a _ => if a.ult b then a else b) sw h ha fun i _ => (hunsigned (x i) (y i)).1
  · exact writesEachLane_vecOp (fun b a _ => if b.slt a then a else b) sw h ha fun i _ => (hsigned (x i) (y i)).2
  · exact writesEachLane_vecOp (fun b a _ => if b.ult a then a else b) sw h ha fun i _ => (hunsigned (x i) (y i)).2

theorem vectorBitsSelectsAndMoves : VectorBitsSelectsAndMoves := by
  intro s sw d b a h ha x y n pick
  have h1 := h.withoutB
  refine ⟨?_, ?_, ?_, ?_, ?_, ?_, ?_, ?_, ?_, ?_, ?_, ?_⟩
  · exact writesEachLane_vecOp1 (fun a => BitVec.ofNat 32 (popN 32 a.toNat)) sw h1 ha fun i _ => toNat_popN (y i)
  · refine writesEachLane_vecOp1 (fun a => BitVec.ofNat 32 (clzN 32 a.toNat)) sw h1 ha fun i _ => ?_
    have hclz := clzN_spec (y i).isLt
    rw [BitVec.toNat_ofNat, Nat.mod_eq_of_lt (hclz.1.trans_lt (by decide))]
    exact hclz
  · exact writesEachLane_vecOp1 (fun a => BitVec.ofNat 32 (revN 32 a.toNat)) sw h1 ha fun i _ j hj => getLsbD_revN (y i) hj
  · exact writesEachLane_vecOp1 (fun a => if a == 0#32 then BitVec.allOnes 32 else BitVec.ofNat 32 (ctzN 32 a.toNat)) sw h1 ha
      fun i _ => ffs_spec (y i)
  · exact writesEachLane_selOp 0 sw h ha
  · exact writesEachLane_selOp 1 sw h ha
  · exact writesEachLane_selOp 2 sw h ha
  · exact writesEachLane_selOp 3 sw h ha
  · exact writesEachLane_vecOp1 (fun a => a) sw h1 ha fun i _ => rfl
  · exact writesEachLane_vecOp1 (fun a => (half a 0).signExtend 32) sw h1 ha
      fun i _ => BitVec.toInt_signExtend_of_le (by decide)
  · exact writesEachLane_vecOp1 (fun a => (byteOf a 0).signExtend 32) sw h1 ha
      fun i _ => BitVec.toInt_signExtend_of_le (by decide)
  · exact writesEachLane_vecOp1 (fun a => (half a 0).setWidth 32) sw h1 ha
      fun i _ => BitVec.toNat_setWidth_of_le (by decide)

end Sys2Proof.Claims

open Sys2Proof.Claims

/-- Settles O18: each form's word function, as numbers and bits. -/
theorem vectorLogicBitsAndMoves : Obligations.VectorLogicBitsAndMoves :=
  ⟨vectorLogicShiftsAndExtremes, vectorBitsSelectsAndMoves⟩

end


section
/-! Vector comparisons (O19): a team whose EXEC has a bit above W, where R54 has none. A comparison clears that bit of its lane
mask (`Team.putLm` merges by EXEC), while the statement has a lane that is not active keep its bit. -/

namespace Sys2Proof.Machine

/-- A team of 32 lanes, its lane masks all ones, whose EXEC holds bit 32 alone. -/
def strayLaneState : State :=
  { State.reset with
    ctxs := [(0, { Ctx.blank with kind := .team })], teams := [(0, { Team.blank with exec := 1#1024 <<< 32 })] }

/-- VICMP.EQ of v0 with 0 into lm0 clears bit 32 of lm0. -/
theorem strayLane_cleared : ∃ u, exec (.vicmpS32 false 0#3 .eq 0#7 (.int 0#5)) strayLaneState = .next u ∧
    ((u.team 0).lmk 0).getLsbD 32 = false := by
  refine ⟨_, rfl, ?_⟩
  decide +kernel

end Sys2Proof.Machine

open Sys2Proof Sys2Proof.Machine

/-- Refutes O19: with bit 32 of EXEC set in a team of 32 lanes, VICMP.EQ into lm0 clears bit 32 of lm0, which the statement
has it keep. The instructions write EXEC through `Team.setExec`, which sets no such bit (R54); the statement is about every
state. -/
theorem not_vectorComparisons : ¬Obligations.VectorComparisons := by
  unfold Obligations.VectorComparisons
  rintro ⟨hint, -⟩
  have hruns : TeamRuns strayLaneState [0] := by
    unfold TeamRuns
    decide
  obtain ⟨⟨x, ⟨t, hnext, hteam, -⟩, -, -, hbits⟩, -⟩ :=
    hint strayLaneState false 0#3 0#7 (.int 0#5) .eq hruns rfl (by decide) (by decide)
  obtain ⟨u, hexec, hcleared⟩ := strayLane_cleared
  obtain rfl : t = u := by
    rw [hexec] at hnext
    injection hnext with hnext
    exact hnext.symm
  have hkept : (x.lmk 0).getLsbD 32 = true := by
    have hbit := hbits 32 (by decide)
    rw [if_neg (by decide)] at hbit
    exact hbit.trans (by decide +kernel)
  have hx : (t.team 0).lmk 0 = x.lmk 0 := by
    rw [show t.team 0 = x.moved from hteam]
    rfl
  rw [hx, hkept] at hcleared
  exact Bool.noConfusion hcleared

end


section
/-! Vector floating point (O20): each form is one of the operations with flags, whose element function the statement names. -/

namespace Sys2Proof.Claims
open Sys2Proof.Machine

theorem vectorFloatingPointArithmetic : VectorFloatingPointArithmetic := by
  intro s sw d b a h ha n g W
  have hW : ∀ {o : Out} {e : Elem} {f : Word → Word → Word → Word × FFlags}, o = vecFop e f sw d b a s → W o e f := by
    rintro _ e f rfl
    exact writesFlaggedLanes_vecFop e f sw h ha
  exact ⟨hW rfl, hW rfl, hW rfl, hW rfl, hW rfl, hW rfl, hW rfl, hW rfl, hW rfl, hW rfl, hW rfl, hW rfl, hW rfl, hW rfl,
    hW rfl, hW rfl, hW rfl, hW rfl, hW rfl, hW rfl⟩

theorem vectorConversionsAndFunctions : VectorConversionsAndFunctions := by
  intro s sw d a k h ha W F
  have hW : ∀ {o : Out} {e : Elem} {f : Word → Word × FFlags}, o = vecFop1 e f sw d a s → W o e f := by
    rintro _ e f rfl
    exact writesFlaggedLanes_vecFop1 e f sw h ha
  have hF : ∀ {o : Out} {f : Nat → FRes}, o = vecFop1 .f32 (fun32 f) sw d a s → F o f := by
    rintro _ f rfl
    exact writesFlaggedLanes_vecFop1 .f32 (fun32 f) sw h ha
  exact ⟨hW rfl, hW rfl, hW rfl, hW rfl, hF rfl, hF rfl, hF rfl, hF rfl, hF rfl, hF rfl, hF rfl, hF rfl, hF rfl, hF rfl,
    hF rfl, hF rfl⟩

end Sys2Proof.Claims

open Sys2Proof.Claims

/-- Settles O20: what the operations with flags write, at each form's element type and function. -/
theorem vectorFloatingPoint : Obligations.VectorFloatingPoint :=
  ⟨vectorFloatingPointArithmetic, vectorConversionsAndFunctions⟩

end

section
/-! Value-index choice, packing, expansion and hashing (O21): saturation to 16 bits, and the BF16 codes of INT4 elements
(R146-R149). -/

namespace Sys2Proof.Machine

/-- R99: the pick of two words is one of them, unchanged. -/
theorem ofNat_viPick (max : Bool) (x y : Word) :
    BitVec.ofNat 32 (viPick max x.toNat y.toNat) = if viBetter max y.toNat x.toNat = true then y else x := by
  rw [viPick, apply_ite (BitVec.ofNat 32), BitVec.ofNat_toNat, BitVec.ofNat_toNat, BitVec.setWidth_eq, BitVec.setWidth_eq]

theorem toInt_satS16 (v : Int) : (satS16 v).toInt = max (-2 ^ 15) (min (2 ^ 15 - 1) v) := by
  rw [satS16, clampInt_eq (by decide), BitVec.toInt_ofInt_eq_self (by decide)] <;> omega

/-- Bits of a code above the format's width do not change its value. -/
theorem Fmt.value_mod (f : Fmt) (c : Nat) : f.value (c % 2 ^ (f.mag + 1)) = f.value c := by
  have hsign : (c % 2 ^ (f.mag + 1)).testBit f.mag = c.testBit f.mag := by
    rw [Nat.testBit_mod_two_pow, decide_eq_true (Nat.lt_succ_self _), Bool.true_and]
  have hmag : c % 2 ^ (f.mag + 1) % 2 ^ f.mag = c % 2 ^ f.mag :=
    Nat.mod_mod_of_dvd c (pow_dvd_pow 2 (Nat.le_succ f.mag))
  rw [Fmt.value, hsign, hmag]
  rfl

/-- Each half of an expansion holds the BF16 value of its INT4 element. -/
theorem value_half_expand4 (p : Nat) (y : Word) {k : Nat} (hk : k < 2) :
    Fmt.bf16.value (half (expand4 p y) k).toNat = Fmt.bf16.value (Fmt.bf16.ofInt .rne (int4 y (2 * p + k))).bits := by
  obtain ⟨hlow, hhigh⟩ := half_append (BitVec.ofNat 16 (Fmt.bf16.ofInt .rne (int4 y (2 * p + 1))).bits)
    (BitVec.ofNat 16 (Fmt.bf16.ofInt .rne (int4 y (2 * p))).bits)
  have hvalue : ∀ c : Nat, Fmt.bf16.value (BitVec.ofNat 16 c).toNat = Fmt.bf16.value c := fun c => by
    rw [BitVec.toNat_ofNat]
    exact Fmt.bf16.value_mod c
  obtain rfl | rfl : k = 0 ∨ k = 1 := by omega
  · exact (congrArg (fun v => Fmt.bf16.value (BitVec.toNat v)) hlow).trans (hvalue _)
  · exact (congrArg (fun v => Fmt.bf16.value (BitVec.toNat v)) hhigh).trans (hvalue _)

end Sys2Proof.Machine

open Sys2Proof Sys2Proof.Machine Sys2Proof.Claims

/-- Settles O21: each form's word function. -/
theorem vectorPackingAndHashing : Obligations.VectorPackingAndHashing := by
  unfold Obligations.VectorPackingAndHashing
  intro s sw d b a p h ha x y n sat
  refine ⟨?_, ?_, ?_, ?_, ?_, ?_, ?_, ?_⟩
  · exact writesEachLane_vecOp (fun b a _ => BitVec.ofNat 32 (viPick true b.toNat a.toNat)) sw h ha
      fun i _ => ofNat_viPick true (x i) (y i)
  · exact writesEachLane_vecOp (fun b a _ => BitVec.ofNat 32 (viPick false b.toNat a.toNat)) sw h ha
      fun i _ => ofNat_viPick false (x i) (y i)
  · exact writesFlaggedLanes_vecFop .f32 (packF .fp16) sw h ha
  · exact writesFlaggedLanes_vecFop .f32 (packF .bf16) sw h ha
  · refine writesEachLane_vecOp (fun b a _ => satS16 a.toInt ++ satS16 b.toInt) sw h ha fun i _ => ?_
    obtain ⟨hlow, hhigh⟩ := half_append (satS16 (y i).toInt) (satS16 (x i).toInt)
    exact ⟨(congrArg BitVec.toInt hlow).trans (toInt_satS16 _), (congrArg BitVec.toInt hhigh).trans (toInt_satS16 _)⟩
  · exact writesEachLane_vecOp1 (expand4 p.toNat) sw h.withoutB ha fun i _ k hk => value_half_expand4 p.toNat (y i) hk
  · exact writesEachLane_vecOp (fun b a _ => crc32c b a) sw h ha fun i _ => rfl
  · exact writesEachLane_vecOp (fun b a _ => mix32 b a) sw h ha fun i _ => rfl

end

section
/-! Shuffles, ballots and team conditions (O23): lanes of one 32-lane word, and masks made from lists of lanes (R61, R150,
R153). -/

namespace Sys2Proof.Machine
open Sys2Proof.Claims

/-- A change below 32 stays within a lane's word of 32. -/
theorem xor_eq_in_word (i : Nat) {k : Nat} (hk : k < 32) : i ^^^ k = 32 * (i / 32) + ((i % 32) ^^^ k) := by
  have hword : (i ^^^ k) / 2 ^ 5 = i / 2 ^ 5 := by
    rw [Nat.xor_div_two_pow, Nat.div_eq_of_lt (show k < 2 ^ 5 from hk), Nat.xor_zero]
  have hplace : (i ^^^ k) % 2 ^ 5 = (i % 2 ^ 5) ^^^ k := by
    rw [Nat.xor_mod_two_pow, Nat.mod_eq_of_lt (show k < 2 ^ 5 from hk)]
  rw [← Nat.div_add_mod (i ^^^ k) (2 ^ 5), hword, hplace]
  rfl

/-- The bits of a mask are the listed lanes. -/
theorem getLsbD_maskOf (ls : List Nat) {i : Nat} (hi : i < 1024) : (maskOf ls).getLsbD i = decide (i ∈ ls) := by
  have hfold : ∀ m : Mask, (ls.foldl (fun m i => m ||| (1#1024 <<< i)) m).getLsbD i = (m.getLsbD i || decide (i ∈ ls)) := by
    induction ls with
    | nil => simp
    | cons l ls ih =>
      intro m
      have hone : (1#1024 <<< l).getLsbD i = decide (i = l) := by
        rw [BitVec.getLsbD_shiftLeft, BitVec.getLsbD_one]
        by_cases h : i < l <;> simp [hi, h] <;> omega
      rw [List.foldl_cons, ih, BitVec.getLsbD_or, hone]
      simp [Bool.or_assoc]
  rw [maskOf, hfold, BitVec.getLsbD_zero, Bool.false_or]

theorem State.mem_nonzeroLanes {s : State} {h : Nat} {a : Src} {i : Nat} : i ∈ s.nonzeroLanes h a ↔
    i < (s.team h).width ∧ (s.team h).exec.getLsbD i = true ∧ Src.lane s h .f32 i a ≠ 0#32 := by
  rw [State.nonzeroLanes, List.mem_filter, Team.mem_active, and_assoc, bne_iff_ne]

/-- R153: the mask that a ballot writes has the passing lanes below W, and keeps what it held from W on. -/
theorem getLsbD_ballot {t : Team} {ls : List Nat} {old : Mask} {i : Nat} (hi : i < 1024) :
    (maskOf ls ||| (old &&& ~~~(maskBelow t.width))).getLsbD i = true ↔
      i ∈ ls ∨ (t.width ≤ i ∧ old.getLsbD i = true) := by
  rw [BitVec.getLsbD_or, BitVec.getLsbD_and, BitVec.getLsbD_not, getLsbD_maskOf ls hi, maskBelow_getLsbD _ hi]
  simp [hi, and_comm]

end Sys2Proof.Machine

namespace Sys2Proof.Claims
open Sys2Proof.Machine

theorem shufflesStayInTheirWord : ShufflesStayInTheirWord := by
  intro s sw d b a h ha x k n
  have hk : ∀ i, k i < 32 := fun i => Nat.mod_lt _ (by decide)
  refine ⟨?_, ?_, ?_, ?_⟩
  · exact writesEachLane_shuffleOp (fun i k => 32 * (i / 32) + k) sw h ha fun i _ => rfl
  · refine writesEachLane_shuffleOp (fun i k => 32 * (i / 32) + (i % 32) ^^^ k) sw h ha fun i _ => congrArg x ?_
    rw [Nat.div_add_mod]
    exact xor_eq_in_word i (hk i)
  · exact writesEachLane_shuffleOp (fun i k => if k ≤ i % 32 then i - k else i) sw h ha fun i _ => rfl
  · exact writesEachLane_shuffleOp (fun i k => if i % 32 + k ≤ 31 then i + k else i) sw h ha fun i _ => rfl

theorem ballotsAndTeamConditions : BallotsAndTeamConditions := by
  intro s sw l d a t passes
  have hpasses : ∀ i, i ∈ s.nonzeroLanes s.cur a ↔ passes i := fun i => State.mem_nonzeroLanes
  refine ⟨fun h ha => ⟨?_, ?_, ?_⟩, fun h => ?_⟩
  · show ∃ x, WritesTeam s (execBallot sw l a s) x _ sw ∧ _
    rw [execBallot, begin_team (n := needV [] a) h rfl ha]
    refine ⟨_, writesTeam_done s _ _ sw h.1, rfl, fun k hk => Store.get_set_other hk, fun i hi => ?_⟩
    rw [Team.setLm, Team.lmk, Store.get_set_same, getLsbD_ballot hi, hpasses]
  · show ∃ c, WritesScc s (execVany sw a s) c _ sw ∧ _
    rw [execVany, begin_team (n := needV [] a) h rfl ha]
    refine ⟨_, writesScc_done s _ _ sw, ?_⟩
    rw [Bool.not_eq_true', List.isEmpty_eq_false_iff_exists_mem]
    exact exists_congr hpasses
  · show ∃ c, WritesScc s (execVall sw a s) c _ sw ∧ _
    rw [execVall, begin_team (n := needV [] a) h rfl ha]
    refine ⟨_, writesScc_done s _ _ sw, ?_⟩
    rw [beq_iff_eq, State.nonzeroLanes, List.length_filter_eq_length_iff]
    refine forall₂_congr fun i hi => ?_
    rw [← hpasses, State.nonzeroLanes, List.mem_filter, and_iff_right hi]
  · show WritesLanes s (execMpre sw l d s) d _ t 1 sw
    rw [execMpre, begin_team (n := needT true [d.toNat]) h rfl rfl]
    exact writesLanes_plain s d _ 1 sw h.1

end Sys2Proof.Claims

open Sys2Proof.Claims

/-- Settles O23: the lane that each shuffle reads, and the lanes whose word is not zero. -/
theorem shufflesBallotsAndConditions : Obligations.ShufflesBallotsAndConditions :=
  ⟨shufflesStayInTheirWord, ballotsAndTeamConditions⟩

end

section
/-! Memory instructions of teams at issue (O26, O28): each form is its checks and then `State.memory`, so `memory_issues` says
what it leaves once its addresses, its data and its form are those of the statement (R154-R171). -/

namespace Sys2Proof.Machine
open Sys2Proof.Claims

variable {s : State} {sw : Bool}

/-- The data of a lane, summed register by register (R58). -/
theorem vecData_eq_laneBytes (s : State) (d n i : Nat) : s.vecData s.cur d n i = laneBytes s d n i := by
  rw [State.vecData, laneBytes, List.sum_eq_foldl, List.foldl_map]

/-- A memory instruction whose checks of R28 and R157 pass leaves its request. -/
theorem IssuesRequest.of_begin {n : Need} {f : MemForm} {asks : Nat → List Ask} (h : TeamRuns s n.regs) (hl : n.level = 0)
    (hg : n.legal = true) (hs : f.kind = .store → f.space = .global → SoundMemory s) (hm : MayIssue s f (asks s.cur)) :
    IssuesRequest s (begin n s fun h => .next (s.memory h f (asks h) sw)) f (asks s.cur) sw := by
  rw [begin_team h hl hg]
  exact memory_issues sw h.1 hm hs

theorem loadAsks_eq_perLane {n : Nat} {addr : State → Nat → Nat → Addr} {at' : Nat → Addr}
    (ha : ∀ l, addr s s.cur l = at' l) :
    loadAsks s s.cur n addr = perLane s n at' (fun _ => 0) fun _ => 0 := by
  simp only [loadAsks, perLane, ha]

theorem storeAsks_eq_perLane {n : Nat} {d : VReg} {addr : State → Nat → Nat → Addr} {at' : Nat → Addr}
    (ha : ∀ l, addr s s.cur l = at' l) :
    storeAsks s s.cur n d addr = perLane s n at' (laneBytes s d.toNat n) fun _ => 0 := by
  simp only [storeAsks, perLane, ha, vecData_eq_laneBytes]

/-- A vector load of the form the statements call plain. -/
theorem vecLoad_issues {sp : Space} {n : Nat} {sext : Bool} {d : VReg} {regs : List Nat} {addr : State → Nat → Nat → Addr}
    {at' : Nat → Addr} (ha : ∀ l, addr s s.cur l = at' l) (h : TeamRuns s (span d n ++ regs))
    (hm : MayIssue s (plainForm .load sp .read (.vec d.toNat) sext) (perLane s n at' (fun _ => 0) fun _ => 0)) :
    IssuesRequest s (vecLoad sp n sext sw d regs addr s) (plainForm .load sp .read (.vec d.toNat) sext)
      (perLane s n at' (fun _ => 0) fun _ => 0) sw := by
  rw [← loadAsks_eq_perLane ha] at hm ⊢
  exact .of_begin (asks := fun h => loadAsks s h n addr) h rfl rfl (fun hk => nomatch hk) hm

/-- A vector store of the form the statements call plain. -/
theorem vecStore_issues {sp : Space} {n : Nat} {d : VReg} {regs : List Nat} {addr : State → Nat → Nat → Addr}
    {at' : Nat → Addr} (ha : ∀ l, addr s s.cur l = at' l) (hs : SoundMemory s) (h : TeamRuns s (span d n ++ regs))
    (hm : MayIssue s (plainForm .store sp .write .none false) (perLane s n at' (laneBytes s d.toNat n) fun _ => 0)) :
    IssuesRequest s (vecStore sp n sw d regs addr s) (plainForm .store sp .write .none false)
      (perLane s n at' (laneBytes s d.toNat n) fun _ => 0) sw := by
  rw [← storeAsks_eq_perLane ha] at hm ⊢
  exact .of_begin (asks := fun h => storeAsks s h n d addr) h rfl rfl (fun _ _ => hs) hm

/-! ### Addresses (R154, R167) -/

/-- A unit-stride address, its immediate and its lane in one sum (R154). -/
theorem addrMI_eq (s : State) (h : Nat) (b : SReg) (im : BitVec 9) (n l : Nat) :
    addrMI s h b im n l = s.sreg h b + BitVec.ofInt 64 (16 * im.toInt + l * n) := by
  have him : im.signExtend 64 = BitVec.ofInt 64 im.toInt := rfl
  rw [addrMI, him, BitVec.ofInt_add, BitVec.ofInt_mul, BitVec.add_assoc]
  norm_cast

/-- Alignment to four bytes is that of the low 20 bits (R155). -/
theorem spBase_mod_four {B : DWord} (h : B.toNat % 4 = 0) : spBase B % 4 = 0 := by
  rw [spBase, Nat.mod_mod_of_dvd _ (by norm_num), h]

/-- The lanes of a fragment, its halves 64 rows apart (R167). -/
theorem fragAddr_eq (B : DWord) (row pitch l : Nat) :
    fragAddr (spBase B) row pitch l = B.toNat % 2 ^ 20 + (64 * (l / 128) + l % 64) * pitch + row / 2 * (l % 128 / 64) := by
  rw [fragAddr, Nat.mod_mod_of_dvd l (by norm_num : 64 ∣ 128), spBase]

theorem pitchBytes_eq (row : Nat) (p : BitVec 7) : pitchBytes row p = if p = 0#7 then row else 16 * p.toNat := by
  simp only [pitchBytes, beq_iff_eq]

/-- Where a lane's part of a fragment begins. -/
def fragPlace (B : DWord) (p : BitVec 7) (row l : Nat) : Addr :=
  BitVec.ofNat 64 (B.toNat % 2 ^ 20 + (64 * (l / 128) + l % 64) * (if p = 0#7 then row else 16 * p.toNat) +
    row / 2 * (l % 128 / 64))

section
variable {dd wide : Bool} {d : VReg} {a : SReg} {w : BitVec 2} {p : BitVec 7} {row : Nat} (hrow : rowBytes dd w = row)
  (hw : (wide || w == 0#2) = true) (hw3 : w ≠ 3#2) (hwidth : (s.team s.cur).width % 128 = 0)
  (hbase : (s.sreg s.cur a).toNat % 4 = 0) (hpitch : p = 0#7 ∨ row ≤ 16 * p.toNat) (h : TeamRuns s (span d (row / 2)))
include hrow hw hw3 hwidth hbase hpitch h

/-- R166, R167: a fragment move whose rows are legal gets past its own two checks. -/
theorem tmovOp_eq (store : Bool) : tmovOp store dd wide sw d a w p s = .next (
    if store then s.memory s.cur (storeForm .scratch)
      (perLane s (row / 2) (fragPlace (s.sreg s.cur a) p row) (laneBytes s d.toNat (row / 2)) fun _ => 0) sw
    else s.memory s.cur (loadForm .scratch (.vec d.toNat) false)
      (perLane s (row / 2) (fragPlace (s.sreg s.cur a) p row) (fun _ => 0) fun _ => 0) sw) := by
  subst hrow
  have hlegal : ((wide || w == 0#2) && w != 3#2 && (p == 0#7 || decide (rowBytes dd w ≤ 16 * p.toNat))) = true := by
    simpa [hw, hw3] using hpitch
  have hplace : ∀ l, BitVec.ofNat 64 (fragAddr (spBase (s.sreg s.cur a)) (rowBytes dd w) (pitchBytes (rowBytes dd w) p) l) =
      fragPlace (s.sreg s.cur a) p (rowBytes dd w) l := fun l => by rw [fragAddr_eq, pitchBytes_eq]; rfl
  rw [tmovOp, begin_team h rfl hlegal,
    ← loadAsks_eq_perLane (addr := fun _ _ => fragPlace (s.sreg s.cur a) p (rowBytes dd w)) fun _ => rfl,
    ← storeAsks_eq_perLane (addr := fun _ _ => fragPlace (s.sreg s.cur a) p (rowBytes dd w)) fun _ => rfl]
  simp only [hwidth, spBase_mod_four hbase, bne_self_eq_false, Bool.false_eq_true, if_false, hplace]
  cases store <;> rfl

theorem tmovLoad_issues {n : Nat} (hn : row / 2 = n)
    (hm : MayIssue s (plainForm .load .scratch .read (.vec d.toNat) false)
      (perLane s n (fragPlace (s.sreg s.cur a) p row) (fun _ => 0) fun _ => 0)) :
    IssuesRequest s (tmovOp false dd wide sw d a w p s) (plainForm .load .scratch .read (.vec d.toNat) false)
      (perLane s n (fragPlace (s.sreg s.cur a) p row) (fun _ => 0) fun _ => 0) sw := by
  subst hn
  rw [tmovOp_eq hrow hw hw3 hwidth hbase hpitch h]
  exact memory_issues sw h.1 hm fun hk => nomatch hk

theorem tmovStore_issues {n : Nat} (hn : row / 2 = n)
    (hm : MayIssue s (plainForm .store .scratch .write .none false)
      (perLane s n (fragPlace (s.sreg s.cur a) p row) (laneBytes s d.toNat n) fun _ => 0)) :
    IssuesRequest s (tmovOp true dd wide sw d a w p s) (plainForm .store .scratch .write .none false)
      (perLane s n (fragPlace (s.sreg s.cur a) p row) (laneBytes s d.toNat n) fun _ => 0) sw := by
  subst hn
  rw [tmovOp_eq hrow hw hw3 hwidth hbase hpitch h]
  exact memory_issues sw h.1 hm fun _ hsp => nomatch hsp

end

end Sys2Proof.Machine

namespace Sys2Proof.Claims
open Sys2Proof.Machine

theorem vectorLoadsAskForTheirLanes : VectorLoadsAskForTheirLanes := by
  intro s sw d x b im k w p B idx load mi mg sg fr fits
  have hload : ∀ {i : Instr} {sp : Space} {sext : Bool} {n : Nat} {regs : List Nat} {addr : State → Nat → Nat → Addr}
      {at' : Nat → Addr}, exec i s = vecLoad sp n sext sw d regs addr s → (∀ l, addr s s.cur l = at' l) →
      load i sp sext n regs at' := by
    intro i sp sext n regs addr at' he ha h f asks hm
    rw [he]
    exact vecLoad_issues ha h hm
  have hmi : ∀ n l, addrMI s s.cur b im n l = mi n l := fun n l => addrMI_eq s s.cur b im n l
  have hfrag : ∀ {i : Instr} {dd wide : Bool} {v : BitVec 2} {row n : Nat}, exec i s = tmovOp false dd wide sw d b v p s →
      rowBytes dd v = row → row / 2 = n → (wide || v == 0#2) = true → v ≠ 3#2 → fits row →
      load i .scratch false n [] (fr row) := by
    rintro i dd wide v row n he hrow hn hw hw3 ⟨hwidth, hbase, hpitch⟩ h f asks hm
    rw [List.append_nil, ← hn] at h
    rw [he]
    exact tmovLoad_issues hrow hw hw3 hwidth hbase hpitch h hn hm
  refine ⟨hload rfl (hmi 1), hload rfl (hmi 2), hload rfl (hmi 4), hload rfl (hmi 8), hload rfl (hmi 1), hload rfl (hmi 2),
    hload rfl fun _ => rfl, hload rfl fun _ => rfl, hload rfl fun _ => rfl, hload rfl fun _ => rfl,
    hload rfl fun _ => rfl, hload rfl fun _ => rfl, hload rfl fun _ => rfl, hload rfl fun _ => rfl,
    hfrag rfl rfl rfl rfl (by decide), fun row hrow hw => hfrag rfl ?_ rfl rfl hw, hfrag rfl rfl rfl rfl (by decide)⟩
  rw [hrow]
  simp only [rowBytes, Bool.false_eq_true, if_false, beq_iff_eq]

theorem vectorStoresAskForTheirLanes : VectorStoresAskForTheirLanes := by
  intro s sw d x b im k p hs B idx store mi mg sg fr
  have hstore : ∀ {i : Instr} {sp : Space} {n : Nat} {regs : List Nat} {addr : State → Nat → Nat → Addr}
      {at' : Nat → Addr}, exec i s = vecStore sp n sw d regs addr s → (∀ l, addr s s.cur l = at' l) →
      store i sp n regs at' := by
    intro i sp n regs addr at' he ha h f asks hm
    rw [he]
    exact vecStore_issues ha hs h hm
  have hmi : ∀ n l, addrMI s s.cur b im n l = mi n l := fun n l => addrMI_eq s s.cur b im n l
  refine ⟨hstore rfl (hmi 1), hstore rfl (hmi 2), hstore rfl (hmi 4), hstore rfl (hmi 8),
    hstore rfl fun _ => rfl, hstore rfl fun _ => rfl, hstore rfl fun _ => rfl, hstore rfl fun _ => rfl,
    hstore rfl fun _ => rfl, hstore rfl fun _ => rfl, hstore rfl fun _ => rfl, hstore rfl fun _ => rfl, ?_⟩
  intro hwidth hbase hpitch h f asks hm
  rw [List.append_nil] at h
  exact tmovStore_issues (dd := true) (wide := false) (row := 256) rfl rfl (by decide) hwidth hbase hpitch h rfl hm

end Sys2Proof.Claims

open Sys2Proof Sys2Proof.Machine Sys2Proof.Claims

/-- Settles O26: each form's addresses and data are those of its asks. -/
theorem vectorAccessesAskForTheirLanes : Obligations.VectorAccessesAskForTheirLanes :=
  ⟨vectorLoadsAskForTheirLanes, vectorStoresAskForTheirLanes⟩

end

section
/-! Atomics (O28): the form and the asks of ATOM, ATOMS and RED, and the words that their operations leave (R168, R169). -/

namespace Sys2Proof.Machine
open Sys2Proof.Claims

theorem Aop.size_eq (op : Aop) : op.size = if op = .addI64 then 8 else 4 := by cases op <;> rfl

theorem Aop.span_eq (op : Aop) (d : VReg) :
    op.span d = if op = .addI64 ∨ op = .cas then [d.toNat, d.toNat + 1] else [d.toNat] := by cases op <;> rfl

theorem ordAcq_eq (o : Ord) : ordAcq o = decide (o = .acquire ∨ o = .acqRel) := by cases o <;> rfl

theorem ordRel_eq (o : Ord) : ordRel o = decide (o = .release ∨ o = .acqRel) := by cases o <;> rfl

/-- What an atomic's request is made of (R168-R170). -/
def atomForm (kind : ReqKind) (sp : Space) (dest : Dest) (acq : Option Sys2Proof.Scope) (rel noDet : Bool) : MemForm :=
  { kind := kind, space := sp, access := .readWrite, align := true, dest := dest, sext := false, reach := .home,
    acquire := acq, release := rel, noDet := noDet }

section
variable {s : State} {sw : Bool} {o : Sys2Proof.Ord} {c : Sys2Proof.Scope} {d a : VReg} {op : Aop}

/-- The asks of an atomic, at the addresses `at'`. -/
def atomLanes (s : State) (op : Aop) (d : VReg) (at' : Nat → Addr) : List Ask :=
  perLane s op.size at' (laneBytes s d.toNat op.size) fun l => ((s.vreg s.cur (d.toNat + 1)).lane l).toNat

theorem atomAsks_eq_atomLanes {addr : State → Nat → Nat → Addr} {at' : Nat → Addr} (ha : ∀ l, addr s s.cur l = at' l) :
    atomAsks op s s.cur d addr = atomLanes s op d at' := by
  simp only [atomAsks, atomLanes, perLane, ha, vecData_eq_laneBytes]

theorem atomOp_issues (hc : c ≠ .reserved) (h : TeamRuns s (op.span d ++ [a.toNat, a.toNat + 1])) {f : MemForm}
    (hf : f = atomForm (.atom op) .global (.vec d.toNat) (if ordAcq o then some c else none) (ordRel o) true)
    (hm : MayIssue s f (atomLanes s op d (addrMA s s.cur a))) :
    IssuesRequest s (atomOp op sw o c d a s) f (atomLanes s op d (addrMA s s.cur a)) sw := by
  subst hf
  rw [← atomAsks_eq_atomLanes (addr := fun s h l => addrMA s h a l) fun _ => rfl] at hm ⊢
  exact .of_begin (asks := fun h => atomAsks op s h d fun s h l => addrMA s h a l) h rfl
    ((scopeOk_eq c).trans (decide_eq_true hc)) (fun hk => nomatch hk) hm

theorem atomsOp_issues (hc : c = .team ∨ c = .wg) (h : TeamRuns s (op.span d ++ [a.toNat])) {f : MemForm}
    (hf : f = atomForm (.atom op) .scratch (.vec d.toNat) (if ordAcq o then some c else none) (ordRel o) false) {at' : Nat → Addr}
    (ha : ∀ l, BitVec.ofNat 64 (((s.vreg s.cur a.toNat).lane l).toNat % 2 ^ 20) = at' l)
    (hm : MayIssue s f (atomLanes s op d at')) : IssuesRequest s (atomsOp op sw o c d a s) f (atomLanes s op d at') sw := by
  subst hf
  rw [← atomAsks_eq_atomLanes (addr := fun s h l => BitVec.ofNat 64 (((s.vreg h a.toNat).lane l).toNat % 2 ^ 20)) ha] at hm ⊢
  exact .of_begin (asks := fun h => atomAsks op s h d fun s h l => BitVec.ofNat 64 (((s.vreg h a.toNat).lane l).toNat % 2 ^ 20))
    h rfl ((scopeNarrow_eq c).trans (decide_eq_true hc)) (fun hk => nomatch hk) hm

theorem redOp_issues (hc : c ≠ .reserved) (ho : ordAcq o = false) 
    (h : TeamRuns s (op.span d ++ [a.toNat, a.toNat + 1])) {f : MemForm}
    (hf : f = atomForm (.red op) .global .none none (ordRel o) true)
    (hm : MayIssue s f (atomLanes s op d (addrMA s s.cur a))) :
    IssuesRequest s (redOp op sw o c d a s) f (atomLanes s op d (addrMA s s.cur a)) sw := by
  subst hf
  have hlegal : (scopeOk c && !ordAcq o) = true := by rw [scopeOk_eq, decide_eq_true hc, ho]; rfl
  rw [← atomAsks_eq_atomLanes (addr := fun s h l => addrMA s h a l) fun _ => rfl] at hm ⊢
  exact .of_begin (asks := fun h => atomAsks op s h d fun s h l => addrMA s h a l) h rfl hlegal (fun hk => nomatch hk) hm

end

/-! ### Codes of FP32 fit in a word -/

theorem roundFin_fp32_lt (k : RMode) (neg : Bool) (m : Nat) (e : Int) : (Fmt.fp32.roundFin k neg m e).bits < 2 ^ 32 := by
  have hsign : Fmt.fp32.signBit neg ≤ 2 ^ 31 := by cases neg <;> decide
  have hover : Fmt.fp32.overflow k neg < 2 ^ 32 := by cases k <;> cases neg <;> decide
  have hmax : Fmt.fp32.maxMag < 2 ^ 31 := by decide
  have hzero : Fmt.fp32.zero neg = Fmt.fp32.signBit neg := rfl
  unfold Fmt.roundFin
  by_cases hm : (m == 0) = true
  · rw [if_pos hm]
    show Fmt.fp32.zero neg < 2 ^ 32
    omega
  · rw [if_neg hm]
    extract_lets q0 u q b big mag lim tiny
    clear_value mag
    split
    · exact hover
    · show (if (mag == 0) = true then Fmt.fp32.zero neg else Fmt.fp32.signBit neg + mag) < 2 ^ 32
      split <;> omega

theorem add_fp32_lt (a b : Nat) : (Fmt.fp32.add a b).bits < 2 ^ 32 := by
  show (Fmt.fp32.round .rne (FVal.sum [Fmt.fp32.value a, Fmt.fp32.value b]).1).bits < 2 ^ 32
  cases (FVal.sum [Fmt.fp32.value a, Fmt.fp32.value b]).1 with
  | nan sig => exact (by decide : Fmt.fp32.nan < 2 ^ 32)
  | inf neg => cases neg <;> decide
  | fin neg m e => exact roundFin_fp32_lt .rne neg m e

/-- A signed comparison of words is one of their integers. -/
theorem slt_iff_toInt_lt (x y : Word) : x.slt y = true ↔ x.toInt < y.toInt := BitVec.slt_iff_toInt_lt

/-- R169: what each operation leaves of two words. -/
theorem Aop.apply_word (x y z : Word) :
    let r := fun (op : Aop) => (BitVec.ofNat 32 (op.apply x.toNat y.toNat z.toNat) : Word)
    r .addI32 = BitVec.ofInt 32 (x.toInt + y.toInt) ∧ (r .minS32).toInt = min x.toInt y.toInt ∧
      (r .maxS32).toInt = max x.toInt y.toInt ∧ (r .minN32).toNat = min x.toNat y.toNat ∧
      (r .maxN32).toNat = max x.toNat y.toNat ∧ r .and = x &&& y ∧ r .or = x ||| y ∧ r .xor = x ^^^ y ∧ r .exch = y ∧
      r .cas = (if x = y then z else x) ∧ (r .addF32).toNat = (Fmt.fp32.add x.toNat y.toNat).bits ∧
      r .maxi = (if viBetter true y.toNat x.toNat = true then y else x) := by
  intro r
  have hself : ∀ v : Word, BitVec.ofNat 32 v.toNat = v := fun v => by simp
  have hsigned := ite_keeps_extreme slt_iff_toInt_lt x y
  have hunsigned := ite_keeps_extreme ult_iff_toNat_lt x y
  have hpick : ∀ c : Prop, ∀ _ : Decidable c, BitVec.ofNat 32 (if c then y.toNat else x.toNat) = if c then y else x :=
    fun c _ => by rw [apply_ite (BitVec.ofNat 32), hself, hself]
  refine ⟨?_, ?_, ?_, ?_, ?_, ?_, ?_, ?_, hself y, ?_, ?_, ofNat_viPick true x y⟩
  · rw [← add_eq_ofInt]
    show BitVec.ofNat 32 ((x.toNat + y.toNat) % 2 ^ 32) = x + y
    rw [← BitVec.toNat_add, hself]
  · rw [← hsigned.1]
    show (BitVec.ofNat 32 (if (BitVec.ofNat 32 y.toNat).slt (BitVec.ofNat 32 x.toNat) then y.toNat else x.toNat)).toInt = _
    rw [hpick, hself, hself]
  · rw [← hsigned.2]
    show (BitVec.ofNat 32 (if (BitVec.ofNat 32 x.toNat).slt (BitVec.ofNat 32 y.toNat) then y.toNat else x.toNat)).toInt = _
    rw [hpick, hself, hself]
  · rw [← hunsigned.1]
    show (BitVec.ofNat 32 (if y.toNat < x.toNat then y.toNat else x.toNat)).toNat = _
    simp only [hpick, ult_iff_toNat_lt]
  · rw [← hunsigned.2]
    show (BitVec.ofNat 32 (if x.toNat < y.toNat then y.toNat else x.toNat)).toNat = _
    simp only [hpick, ult_iff_toNat_lt]
  · show BitVec.ofNat 32 (BitVec.ofNat 32 x.toNat &&& BitVec.ofNat 32 y.toNat).toNat = _
    rw [hself, hself, hself]
  · show BitVec.ofNat 32 (BitVec.ofNat 32 x.toNat ||| BitVec.ofNat 32 y.toNat).toNat = _
    rw [hself, hself, hself]
  · show BitVec.ofNat 32 (BitVec.ofNat 32 x.toNat ^^^ BitVec.ofNat 32 y.toNat).toNat = _
    rw [hself, hself, hself]
  · show BitVec.ofNat 32 (if (x.toNat == y.toNat) = true then z.toNat else x.toNat) = _
    rw [apply_ite (BitVec.ofNat 32), hself, hself]
    simp only [beq_iff_eq, BitVec.toNat_inj]
  · exact Nat.mod_eq_of_lt (add_fp32_lt x.toNat y.toNat)

end Sys2Proof.Machine

open Sys2Proof Sys2Proof.Machine Sys2Proof.Claims

/-- Settles O28: the three families form by form, and each operation on words. -/
theorem atomicsAskForTheirLanes : Obligations.AtomicsAskForTheirLanes := by
  unfold Obligations.AtomicsAskForTheirLanes
  intro s sw o c d a hc acquires releases addr spaddr form size regs asks
  have hregs : ∀ op : Aop, regs op = op.span d := fun op => (op.span_eq d).symm
  have hasks : ∀ (op : Aop) at', asks op at' = atomLanes s op d at' := fun op at' => by rw [atomLanes, op.size_eq]
  have hform : ∀ op : Aop, form op =
      atomForm (.atom op) .global (.vec d.toNat) (if ordAcq o then some c else none) (ordRel o) true :=
    fun op => by simp only [form, acquires, releases, atomForm, ordAcq_eq, ordRel_eq, decide_eq_true_eq]
  refine ⟨fun p hp => ?_, fun p hp => ?_, Aop.apply_word⟩
  · have hexec : exec (p.2.1 sw o c d a) s = atomOp p.1 sw o c d a s ∧ exec (p.2.2 sw o c d a) s = atomsOp p.1 sw o c d a s := by
      fin_cases hp <;> exact ⟨rfl, rfl⟩
    rw [hexec.1, hexec.2, hregs, hasks, hasks]
    refine ⟨fun h hm => atomOp_issues hc h (hform p.1) hm, fun h hn hm => atomsOp_issues hn h ?_ (fun _ => rfl) hm⟩
    rw [hform]
    rfl
  · have hexec : exec (p.2 sw o c d a) s = redOp p.1 sw o c d a s := by
      fin_cases hp <;> rfl
    rw [hexec, hregs, hasks]
    intro f h hacq hm
    refine redOp_issues hc ?_ h ?_ hm
    · rw [ordAcq_eq]
      exact decide_eq_false hacq
    · simp only [f, form, acquires, hacq, if_false, releases, atomForm, ordRel_eq]

end

section
/-! Ordered accesses and fences (O29): which copies an acquire at a scope leaves, and the two parts of a fence, its park and its
acquire (R171, R172). -/

namespace Sys2Proof.Machine
open Sys2Proof.Claims

/-! ### Acquires (R171) -/

section
variable {s : State} {h : Nat} {c : Scope}

theorem State.acquire_of_thread (c : Scope) (hk : (s.ctx h).kind = .thread) : s.acquire h c = s := by
  simp only [State.acquire, hk]

/-- An acquire up to CORE leaves every copy. -/
theorem State.acquire_narrow (hc : c ∈ [Scope.team, .wg, .core]) : s.acquire h c = s := by
  unfold State.acquire
  cases (s.ctx h).kind <;> fin_cases hc <;> rfl

/-- An acquire at CLUSTER or DIE invalidates the core's L1. -/
theorem State.acquire_die (hk : (s.ctx h).kind = .team) (hc : c ∈ [Scope.cluster, .die]) :
    s.acquire h c = s.dropL1 (s.coreOf h) := by
  simp only [State.acquire, hk]
  fin_cases hc <;> rfl

/-- An acquire at PKG or wider invalidates it too, and asks for copies of the die that are filled from now on. -/
theorem State.acquire_pkg (hk : (s.ctx h).kind = .team) (hc : c ∈ [Scope.pkg, .pod]) :
    s.acquire h c = ((s.dropL1 (s.coreOf h)).setTeam h { s.team h with fresh := s.now }).tick := by
  simp only [State.acquire, hk]
  fin_cases hc <;> rfl

theorem State.l1Line_dropL1 (s : State) (core : Nat) {line : Nat} (hl : line < 2 ^ 45) :
    (s.dropL1 core).l1Line core line = none := by
  have hcore : l1Key core line / 2 ^ 45 = core := by rw [l1Key]; omega
  refine (Store.find_filter (fun k => k / 2 ^ 45 != core) s.l1).trans (if_neg ?_)
  rw [hcore, bne_self_eq_false]
  exact Bool.false_ne_true

/-- R171: what an acquire leaves of a team's L1 and of its record. -/
theorem State.acquire_spec (hk : (s.ctx h).kind = .team) (hc : c ≠ .reserved) :
    (c ∈ [Scope.cluster, .die, .pkg, .pod] → ∀ line, line < 2 ^ 45 → (s.acquire h c).l1Line (s.coreOf h) line = none) ∧
    (c ∈ [Scope.team, .wg, .core] → (s.acquire h c).l1 = s.l1) ∧
    (s.acquire h c).team h = { s.team h with fresh := if c ∈ [Scope.pkg, .pod] then s.now else (s.team h).fresh } := by
  have hcases : (c ∈ [Scope.team, .wg, .core] ∧ c ∉ [Scope.cluster, .die, .pkg, .pod] ∧ c ∉ [Scope.pkg, .pod]) ∨
      (c ∈ [Scope.cluster, .die] ∧ c ∉ [Scope.team, .wg, .core] ∧ c ∉ [Scope.pkg, .pod]) ∨
      (c ∈ [Scope.pkg, .pod] ∧ c ∉ [Scope.team, .wg, .core]) := by
    revert hc
    cases c <;> decide
  rcases hcases with ⟨hn, hnotWide, hnotPkg⟩ | ⟨hd, hnotNarrow, hnotPkg⟩ | ⟨hp, hnotNarrow⟩
  · rw [State.acquire_narrow hn, if_neg hnotPkg]
    exact ⟨fun hw => absurd hw hnotWide, fun _ => rfl, rfl⟩
  · rw [State.acquire_die hk hd, if_neg hnotPkg]
    exact ⟨fun _ line => s.l1Line_dropL1 (s.coreOf h), fun hn => absurd hn hnotNarrow, rfl⟩
  · rw [State.acquire_pkg hk hp, if_pos hp]
    exact ⟨fun _ line => s.l1Line_dropL1 (s.coreOf h), fun hn => absurd hn hnotNarrow, State.team_setTeam ..⟩

end

/-! ### Moving on from a state whose harts stand as before -/

/-- From the first state to the second no context, no vector register and no byte of memory changes, and no team's record but
that of the issuing hart. -/
structure HartsStand (s v : State) : Prop where
  ctx : ∀ h, v.ctx h = s.ctx h
  vregs : v.vregs = s.vregs
  team : ∀ h, h ≠ s.cur → v.team h = s.team h
  memory : SameMemory s v

theorem HartsStand.refl (s : State) : HartsStand s s := ⟨fun _ => rfl, rfl, fun _ _ => rfl, .of_eq rfl rfl rfl⟩

/-- R171: an acquire leaves every hart where it stands. -/
theorem HartsStand.acquire (s : State) (c : Scope) : HartsStand s (s.acquire s.cur c) := by
  have hne : ∀ h, h ≠ s.cur → (s.acquire s.cur c).team h = s.team h := fun h hh => s.acquire_team_ne c hh
  obtain ⟨ts, x, n, e⟩ := s.acquire_rest s.cur c
  rw [e] at hne ⊢
  exact ⟨fun _ => rfl, rfl, hne, .of_eq rfl rfl rfl⟩

theorem HartsStand.done {s v : State} (hv : HartsStand s v) (n : Nat) (sw : Bool) :
    Passed s (v.done s.cur n sw) n sw ∧ SameSregs s (v.done s.cur n sw) ∧ SameScc s (v.done s.cur n sw) ∧
      SameVregs s (v.done s.cur n sw) ∧ SameMemory s (v.done s.cur n sw) ∧ SameOthers s (v.done s.cur n sw) := by
  have hvreg : ∀ h r, v.vreg h r = s.vreg h r := fun h r => by rw [State.vreg, hv.vregs]; rfl
  refine ⟨passed_done n sw ?_ ?_ ?_ ?_ ?_, fun r => ?_, ?_, fun r _ => ?_, ?_, fun h hh => ⟨?_, ?_, fun r _ => ?_⟩⟩
  iterate 5 rw [hv.ctx]
  · rw [sameSregs_done, State.sreg, hv.ctx]; rfl
  · rw [SameScc, sameScc_done, hv.ctx]
  · rw [State.done_vreg, hvreg]
  · obtain ⟨cs, ts, e⟩ := v.done_rest s.cur n sw
    rw [e]
    exact ⟨fun l => (State.homeByte_of_eq rfl rfl l).trans (hv.memory.1 l), hv.memory.2⟩
  · rw [State.done_ctx_ne _ n sw hh, hv.ctx]
  · rw [State.done_team_ne _ n sw hh, hv.team h hh]
  · rw [State.done_vreg, hvreg]

theorem HartsStand.teamIs {s v : State} (hv : HartsStand s v) (hk : (s.ctx s.cur).kind = .team) (n : Nat) (sw : Bool) :
    TeamIs s (v.done s.cur n sw) (v.team s.cur) := teamIs_done n sw (by rw [hv.ctx, hk])

/-! ### LDA and STL (R171) -/

section
variable {s : State} {sw : Bool} {o : Sys2Proof.Ord} {c : Sys2Proof.Scope} {d a : VReg} {n : Nat} {f : MemForm}
  (hc : c ≠ .reserved) (h : TeamRuns s (span d n ++ [a.toNat, a.toNat + 1]))
include hc h

theorem ldaOp_issues (ho : o = .relaxed ∨ o = .acquire)
    (hf : f = { plainForm .load .global .read (.vec d.toNat) false with
                align := true, reach := scopeReach c, acquire := if o = .acquire then some c else none, noDet := !scopeNarrow c })
    (hm : MayIssue s f (perLane s n (addrMA s s.cur a) (fun _ => 0) fun _ => 0)) :
    IssuesRequest s (ldaOp n sw o c d a s) f (perLane s n (addrMA s s.cur a) (fun _ => 0) fun _ => 0) sw := by
  have hlegal : (scopeOk c && !ordRel o) = true := (loadOrder_legal o c).trans (decide_eq_true ⟨ho, hc⟩)
  rw [← loadAsks_eq_perLane (addr := fun s h l => addrMA s h a l) fun _ => rfl] at hm ⊢
  subst hf
  rcases ho with rfl | rfl
  all_goals exact .of_begin (asks := fun h => loadAsks s h n fun s h l => addrMA s h a l) h rfl hlegal (fun hk => nomatch hk) hm

theorem stlOp_issues (hs : SoundMemory s) (ho : o = .relaxed ∨ o = .release)
    (hf : f = { plainForm .store .global .write .none false with
                align := true, release := decide (o = .release), noDet := !scopeNarrow c })
    (hm : MayIssue s f (perLane s n (addrMA s s.cur a) (laneBytes s d.toNat n) fun _ => 0)) :
    IssuesRequest s (stlOp n sw o c d a s) f (perLane s n (addrMA s s.cur a) (laneBytes s d.toNat n) fun _ => 0) sw := by
  have hlegal : (scopeOk c && !ordAcq o) = true := (storeOrder_legal o c).trans (decide_eq_true ⟨ho, hc⟩)
  rw [← storeAsks_eq_perLane (addr := fun s h l => addrMA s h a l) fun _ => rfl] at hm ⊢
  subst hf
  rcases ho with rfl | rfl
  all_goals exact .of_begin (asks := fun h => storeAsks s h n d fun s h l => addrMA s h a l) h rfl hlegal (fun _ _ => hs) hm

end

/-! ### Fences (R172) -/

section
variable {s : State} {sw : Bool} {c : Scope} (hh : HartRuns s) (hc : c ≠ .reserved)
include hh hc

theorem fenceOp_parks (st : Bool) (acq : Option (Scope → Scope)) (hl : (s.team s.cur).loads ≠ 0) :
    ∃ u, fenceOp st acq sw c s = .next u ∧ ParkedAt s u (.counts .switchMarker st false) := by
  rw [fenceOp, begin_hart hh rfl rfl rfl ((scopeOk_eq c).trans (decide_eq_true hc)), if_pos (by simp [hl])]
  exact ⟨_, rfl, .of_park s _⟩

/-- A fence whose counts are 0 has its acquire and moves on. -/
theorem fenceOp_eq (st : Bool) (acq : Option (Scope → Scope)) (hl : (s.team s.cur).loads = 0)
    (hst : st = true → (s.team s.cur).stores = 0) :
    fenceOp st acq sw c s = .next ((acq.elim s fun f => s.acquire s.cur (f c)).done s.cur 1 sw) := by
  rw [fenceOp, begin_hart hh rfl rfl rfl ((scopeOk_eq c).trans (decide_eq_true hc)), if_neg]
  · cases acq <;> rfl
  · cases st <;> simp_all

end

end Sys2Proof.Machine

open Sys2Proof Sys2Proof.Machine Sys2Proof.Claims

/-- Settles O29: LDA and STL by their forms, the fences by their park and by what their acquire leaves. -/
theorem orderedAccessesAndFences : Obligations.OrderedAccessesAndFences := by
  unfold Obligations.OrderedAccessesAndFences
  intro s sw o c d a hs hc h t addr narrow reach
  have hreach : reach = scopeReach c := by
    revert hc
    cases c <;> decide
  have hnarrow : (!decide narrow) = !scopeNarrow c := by rw [scopeNarrow_eq]
  refine ⟨fun p hp hr => ?_, fun hh hcounts => ?_, fun hh p hp hl hst => ?_,
    fun hh hl => ⟨fenceOp_parks (sw := sw) hh hc false (some id) hl, fenceOp_parks (sw := sw) hh hc true none hl,
      fenceOp_parks (sw := sw) hh hc true (some id) hl, fenceOp_parks (sw := sw) hh hc true (some fun _ => .pkg) hl⟩⟩
  · have hexec : exec p.2.1 s = ldaOp p.1 sw o c d a s ∧ exec p.2.2 s = stlOp p.1 sw o c d a s := by
      fin_cases hp <;> exact ⟨rfl, rfl⟩
    rw [hexec.1, hexec.2]
    exact ⟨fun ho hm => ldaOp_issues hc hr ho (by rw [← hreach, ← hnarrow]) hm,
      fun ho hm => stlOp_issues hc hr hs ho (by rw [← hnarrow]) hm⟩
  · have he : exec (.fenceRel sw c) s = .next (s.done s.cur 1 sw) := fenceOp_eq hh hc true none hcounts.1 fun _ => hcounts.2
    rw [he]
    exact onlyPasses_done s 1 sw
  · have hexec : p.2.1 ≠ .reserved ∧ exec p.2.2 s = .next ((s.acquire s.cur p.2.1).done s.cur 1 sw) := by
      fin_cases hp
      · exact ⟨hc, fenceOp_eq hh hc false (some id) hl hst⟩
      · exact ⟨hc, fenceOp_eq hh hc true (some id) hl hst⟩
      · exact ⟨(by decide : Sys2Proof.Scope.pkg ≠ .reserved), fenceOp_eq hh hc true (some fun _ => .pkg) hl hst⟩
    obtain ⟨hscope, he⟩ := hexec
    obtain ⟨hpassed, hsregs, hscc, hvregs, hmemory, hothers⟩ := (HartsStand.acquire s p.2.1).done 1 sw
    have hl1 : ((s.acquire s.cur p.2.1).done s.cur 1 sw).l1 = (s.acquire s.cur p.2.1).l1 := by
      obtain ⟨_, _, e⟩ := (s.acquire s.cur p.2.1).done_rest s.cur 1 sw
      rw [e]
    refine ⟨_, he, hpassed, hsregs, hscc, hvregs, hmemory, hothers, fun hk hw line hlt => ?_, fun hk hn => ?_, fun hk => ?_,
      fun hk => ?_⟩
    · rw [State.l1Line, hl1]
      exact (State.acquire_spec hk hscope).1 hw line hlt
    · rw [hl1]
      exact (State.acquire_spec hk hscope).2.1 hn
    · rw [← (State.acquire_spec hk hscope).2.2]
      exact (HartsStand.acquire s p.2.1).teamIs hk 1 sw
    · rw [he, State.acquire_of_thread _ hk]
      exact onlyPasses_done s 1 sw

end

section
/-! The checks of a memory instruction (O32): each early end of `State.memory` as an equation, and what a request with failed
lanes leaves (R157, R158, R395). -/

namespace Sys2Proof.Machine
open Sys2Proof.Claims

section
variable {s : State} {h : Nat} {f : MemForm} {asks : List Ask} {sw : Bool}

/-- R168, R171: the first check. -/
theorem State.memory_det (hn : f.noDet = true) (hd : s.det h = true) :
    s.memory h f asks sw = s.raise h .detViolation 1 := by
  rw [State.memory, hn, hd]
  rfl

/-- Asks whose address is no multiple of their size. -/
def oddAsks (asks : List Ask) : List Ask := asks.filter fun q => q.addr.toNat % q.n != 0

/-- R156, R157: the lanes that are not aligned, before any address is looked up. -/
theorem State.memory_odd (hd : s.det h = false) (hr : f.release = false) (ha : f.align = true) (ho : oddAsks asks ≠ []) :
    ∃ a, s.memory h f asks sw = s.raiseAt h .align 1 a (maskOf ((oddAsks asks).map (·.lane))) (f.space == .scratch) := by
  have hodd : (asks.filter fun q => f.align && q.addr.toNat % q.n != 0) = oddAsks asks := by
    simp only [ha, Bool.true_and, oddAsks]
  obtain ⟨q, r, e⟩ := List.exists_cons_of_ne_nil ho
  refine ⟨q.addr, ?_⟩
  simp only [State.memory, hd, Bool.and_false, hr, Bool.false_and, hodd, e, Bool.false_eq_true, if_false]

/-- What an ordinary access to global memory passes: no order, no alignment, no mode that forbids it (R161). -/
structure MemForm.Ordinary (f : MemForm) : Prop where
  noDet : f.noDet = false
  release : f.release = false
  align : f.align = false
  space : f.space = .global
  acquire : f.acquire = none

section
variable (hf : f.Ordinary)
include hf

/-- R157, R395: the walks that an ordinary access waits for. -/
theorem State.memory_walks (hw : s.unwalked h (asks.flatMap fun q => vpagesOf q.addr q.n) ≠ []) :
    s.memory h f asks sw = s.awaitWalks h (s.unwalked h (asks.flatMap fun q => vpagesOf q.addr q.n)) := by
  simp [State.memory, hf.noDet, hf.release, hf.align, State.asksWalks, hf.space, hw]

/-- R157: lanes whose addresses fail trap, and the others' request is issued. -/
theorem State.memory_bad (hw : s.unwalked h (asks.flatMap fun q => vpagesOf q.addr q.n) = [])
    (hfull : (s.team h).full f.kind.isLoad = false) (hb : (s.checkAll h .global f.access asks).bad ≠ []) :
    s.memory h f asks sw = (s.issueReq h f (s.checkAll h .global f.access asks).good).raiseLanes h
      (s.checkAll h .global f.access asks).bad := by
  simp [State.memory, hf.noDet, hf.release, hf.align, State.asksWalks, hf.space, hw, hfull, hb]

end

/-! ### Lanes that pass and lanes that fail -/

theorem State.checkAll_bad (s : State) (h : Nat) (sp : Space) (k : Access) (asks : List Ask) :
    (s.checkAll h sp k asks).bad = asks.filterMap fun q => match s.checkAsk h sp k q.addr q.n with
      | .error x => some (q.lane, x.1, x.2, sp == .scratch)
      | .ok _ => none := by
  induction asks with
  | nil => rfl
  | cons q r ih =>
    rw [State.checkAll, List.filterMap_cons]
    cases s.checkAsk h sp k q.addr q.n <;> simp [ih]

theorem State.checkAll_good_lanes (s : State) (h : Nat) (sp : Space) (k : Access) (asks : List Ask) :
    (s.checkAll h sp k asks).good.map (·.lane) =
      (asks.filter fun q => (s.checkAsk h sp k q.addr q.n).isOk).map (·.lane) := by
  induction asks with
  | nil => rfl
  | cons q r ih =>
    rw [State.checkAll, List.filter_cons]
    cases s.checkAsk h sp k q.addr q.n <;> simp [ih, Except.isOk, Except.toBool]

/-- R157: the trap of lanes that failed. -/
theorem State.raiseLanes_spec {v : State} (hk : (v.ctx h).kind = .team) (b : Nat × XErr × Addr × Bool)
    (r : List (Nat × XErr × Addr × Bool)) :
    ∃ x, ((v.raiseLanes h (b :: r)).team h).trap = some x ∧ x.lanes = maskOf ((b :: r).map (·.1)) ∧ x.addr = b.2.2.1 ∧
      x.code = (if (b :: r).any fun b => b.2.1 == .fault then .memFault else .perm) ∧
      (v.raiseLanes h (b :: r)).ctx h = { v.ctx h with status := .trapped } ∧
      ((v.raiseLanes h (b :: r)).team h).reqs = (v.team h).reqs := by
  have htrap : ∃ x, v.raiseLanes h (b :: r) = v.teamTrap h x ∧ x.lanes = maskOf ((b :: r).map (·.1)) ∧ x.addr = b.2.2.1 ∧
      x.code = (if (b :: r).any fun b => b.2.1 == .fault then .memFault else .perm) := by
    simp only [State.raiseLanes, State.raiseAt, hk]
    exact ⟨_, rfl, rfl, rfl, rfl⟩
  obtain ⟨x, e, hlanes, haddr, hcode⟩ := htrap
  rw [e, teamTrap_team, teamTrap_ctx]
  exact ⟨trapRecord v h x, rfl, hlanes, haddr, hcode, rfl, rfl⟩

/-- R158: what the lanes that pass leave, of a form that has no acquire: no request for none of them, one for some. -/
theorem State.issueReq_team (s : State) (h : Nat) (good : List LaneReq) (ha : f.acquire = none) :
    (∀ k, (s.issueReq h f good).ctx k = s.ctx k) ∧ ∃ qs, ((s.issueReq h f good).team h).reqs = (s.team h).reqs ++ qs ∧
      qs.length ≤ 1 ∧ (good ≠ [] → ∃ q, qs = [q] ∧ q.todo = good) := by
  by_cases hg : good = []
  · have he : s.issueReq h f good = s := by
      rw [State.issueReq, ha, hg]
      rfl
    rw [he]
    exact ⟨fun _ => rfl, [], (List.append_nil _).symm, Nat.zero_le _, fun hne => absurd hg hne⟩
  · obtain ⟨x, y, n, q, e, -, -, -, -, htodo⟩ := (s.issueReq_spec h f good).2.1 hg
    rw [e]
    exact ⟨fun _ => rfl, [q], congrArg Team.reqs (State.team_setTeam ..), le_rfl, fun _ => ⟨q, rfl, htodo⟩⟩

/-- R157, R158: an ordinary access with lanes that fail, the first of them `b`, leaves their trap and the other lanes' request. -/
theorem State.memory_bad_spec (hf : f.Ordinary) (hk : (s.ctx h).kind = .team)
    (hw : s.unwalked h (asks.flatMap fun q => vpagesOf q.addr q.n) = []) (hfull : (s.team h).full f.kind.isLoad = false)
    {b : Nat × XErr × Addr × Bool} {r : List (Nat × XErr × Addr × Bool)}
    (hb : (s.checkAll h .global f.access asks).bad = b :: r) :
    ∃ x, (s.memory h f asks sw).ctx h = { s.ctx h with status := .trapped } ∧ ((s.memory h f asks sw).team h).trap = some x ∧
      x.lanes = maskOf ((b :: r).map (·.1)) ∧ x.addr = b.2.2.1 ∧
      x.code = (if (b :: r).any fun b => b.2.1 == .fault then .memFault else .perm) ∧
      ∃ qs, ((s.memory h f asks sw).team h).reqs = (s.team h).reqs ++ qs ∧ qs.length ≤ 1 ∧
        ((s.checkAll h .global f.access asks).good ≠ [] →
          ∃ q, qs = [q] ∧ q.todo = (s.checkAll h .global f.access asks).good) := by
  rw [State.memory_bad hf hw hfull (by rw [hb]; exact List.cons_ne_nil b r), hb]
  obtain ⟨hctx, hreq⟩ := State.issueReq_team (f := f) s h (s.checkAll h .global f.access asks).good hf.acquire
  obtain ⟨x, htrap, hlanes, haddr, hcode, hstatus, hreqs⟩ := State.raiseLanes_spec (by rw [hctx]; exact hk) b r
  rw [hctx] at hstatus
  rw [hreqs]
  exact ⟨x, hstatus, htrap, hlanes, haddr, hcode, hreq⟩

end

end Sys2Proof.Machine

open Sys2Proof Sys2Proof.Machine Sys2Proof.Claims

/-- Settles O32: `State.memory` by its early ends, on the aligned forms and on an ordinary load. -/
theorem memoryChecksTrapInTheirOrder : Obligations.MemoryChecksTrapInTheirOrder := by
  unfold Obligations.MemoryChecksTrapInTheirOrder
  intro s sw c d a x b k h t addr gaddr odd
  have haligned : TeamRuns s [d.toNat, a.toNat, a.toNat + 1] → c ≠ .reserved →
      ∀ i ∈ ([.ldaB32 sw .relaxed c d a, .stlB32 sw .relaxed c d a, .atomAddI32 sw .relaxed c d a,
              .redAddI32 sw .relaxed c d a] : List Instr), ∃ (f : MemForm) (ask : Nat → Ask),
        exec i s = .next (s.memory h f (t.lanes.map ask) sw) ∧ (scopeNarrow c = false → f.noDet = true) ∧ f.release = false ∧
          f.align = true ∧ ∀ l, (ask l).lane = l ∧ (ask l).addr = addr l ∧ (ask l).n = 4 := by
    intro hr hc i hi
    have hscope : scopeOk c = true := (scopeOk_eq c).trans (decide_eq_true hc)
    have hlegal : (scopeOk c && true) = true := by rw [hscope]; rfl
    have hlda := begin_team (n := needT (scopeOk c && true) [d.toNat, a.toNat, a.toNat + 1])
      (k := fun h => .next (s.memory h { loadForm .global (.vec d.toNat) false with
        align := true, reach := scopeReach c, noDet := !scopeNarrow c }
          (loadAsks s h 4 fun s h l => addrMA s h a l) sw)) hr rfl hlegal
    have hstl := begin_team (n := needT (scopeOk c && true) [d.toNat, a.toNat, a.toNat + 1])
      (k := fun h => .next (s.memory h { storeForm .global with align := true, noDet := !scopeNarrow c }
        (storeAsks s h 4 d fun s h l => addrMA s h a l) sw)) hr rfl hlegal
    have hatom := begin_team (n := needT (scopeOk c) [d.toNat, a.toNat, a.toNat + 1])
      (k := fun h => .next (s.memory h (atomForm (.atom .addI32) .global (.vec d.toNat) none false true)
        (atomAsks .addI32 s h d fun s h l => addrMA s h a l) sw)) hr rfl hscope
    have hred := begin_team (n := needT (scopeOk c && true) [d.toNat, a.toNat, a.toNat + 1])
      (k := fun h => .next (s.memory h (atomForm (.red .addI32) .global .none none false true)
        (atomAsks .addI32 s h d fun s h l => addrMA s h a l) sw)) hr rfl hlegal
    fin_cases hi
    · exact ⟨_, _, hlda, congrArg not, rfl, rfl, fun l => ⟨rfl, rfl, rfl⟩⟩
    · exact ⟨_, _, hstl, congrArg not, rfl, rfl, fun l => ⟨rfl, rfl, rfl⟩⟩
    · exact ⟨_, _, hatom, fun _ => rfl, rfl, rfl, fun l => ⟨rfl, rfl, rfl⟩⟩
    · exact ⟨_, _, hred, fun _ => rfl, rfl, rfl, fun l => ⟨rfl, rfl, rfl⟩⟩
  have hload : TeamRuns s [d.toNat, x.toNat] →
      exec (.ldgB32 sw k d b x) s = .next (s.memory h (loadForm .global (.vec d.toNat) false)
        (t.lanes.map fun l => ⟨l, gaddr l, 4, 0, 0⟩) sw) := fun hr =>
    begin_team (n := needT true [d.toNat, x.toNat]) (k := fun h => .next (s.memory h (loadForm .global (.vec d.toNat) false)
      (loadAsks s h 4 fun s h l => addrMG s h k b x l) sw)) hr rfl rfl
  have hplain : (loadForm .global (.vec d.toNat) false).Ordinary := ⟨rfl, rfl, rfl, rfl, rfl⟩
  refine ⟨fun hr hc hd i hi => ?_, fun hr hc hd ho i hi => ?_, fun hr => ?_, fun hr hl hw => ?_⟩
  · have hwide : scopeNarrow c = false ∧ c ≠ .reserved := by
      fin_cases hc <;> decide
    obtain ⟨f, ask, he, hdet, -⟩ := haligned hr hwide.2 i hi
    rw [he, State.memory_det (hdet hwide.1) hd]
    exact .of_raise hr.1 _ _
  · obtain ⟨f, ask, he, -, hrel, halign, hask⟩ := haligned hr hc i hi
    have hodd : oddAsks (t.lanes.map ask) = odd.map ask := by
      rw [oddAsks, List.filter_map]
      congr 1
      exact List.filter_congr fun l _ => by simp only [Function.comp_apply, hask]
    have hlanes : (odd.map ask).map (·.lane) = odd := by
      rw [List.map_map]
      exact (List.map_congr_left fun l _ => (hask l).1).trans (List.map_id odd)
    obtain ⟨v, hv⟩ := State.memory_odd (s := s) (h := h) (sw := sw) hd hrel halign (asks := t.lanes.map ask)
      (by rw [hodd]; simpa using ho)
    rw [he, hv, hodd, hlanes]
    exact .of_raiseAt hr.1 _ _ _ _ _
  · intro walks hw
    have hpages : ((t.lanes.map fun l => (⟨l, gaddr l, 4, 0, 0⟩ : Ask)).flatMap fun q => vpagesOf q.addr q.n) =
        t.lanes.flatMap fun l => vpagesOf (gaddr l) 4 := List.flatMap_map ..
    rw [hload hr, State.memory_walks hplain (by rw [hpages]; exact hw), hpages]
    exact ⟨_, _, rfl, rfl, fun h' hh => State.team_setTeam_ne _ _ hh, State.team_setTeam ..⟩
  · intro chk bad e0 he0
    let place : Nat → Ask := fun l => ⟨l, gaddr l, 4, 0, 0⟩
    have hpages : ((t.lanes.map place).flatMap fun q => vpagesOf q.addr q.n) = t.lanes.flatMap fun l => vpagesOf (gaddr l) 4 :=
      List.flatMap_map ..
    have hbad : (s.checkAll h .global .read (t.lanes.map place)).bad = bad.map fun e => (e.1, e.2.1, e.2.2, false) := by
      rw [State.checkAll_bad, List.filterMap_map, List.map_filterMap]
      refine List.filterMap_congr fun l _ => ?_
      simp only [Function.comp_apply, place, chk]
      cases s.checkAsk h .global .read (gaddr l) 4 <;> rfl
    have hpass : ∀ l ∈ t.lanes, ((chk l).isOk = true ↔ l ∉ bad.map (·.1)) := by
      intro l hl
      simp only [bad, List.mem_map, List.mem_filterMap, not_exists, not_and]
      constructor
      · rintro hok e ⟨l', -, he⟩ rfl
        cases hc : chk l' with
        | error => rw [hc] at he; cases he; rw [hc] at hok; cases hok
        | ok => rw [hc] at he; cases he
      · intro hno
        cases hc : chk l with
        | error e => exact absurd rfl (hno (l, e) ⟨l, hl, by rw [hc]⟩)
        | ok => rfl
    have hgood : (s.checkAll h .global .read (t.lanes.map place)).good.map (·.lane) =
        t.lanes.filter fun l => l ∉ bad.map (·.1) := by
      rw [State.checkAll_good_lanes, List.filter_map, List.map_map]
      refine (List.map_id _).trans (List.filter_congr fun l hl => ?_)
      exact (Bool.eq_iff_iff.2 ((hpass l hl).trans decide_eq_true_iff.symm))
    obtain ⟨r, hr0⟩ : ∃ r, bad = e0 :: r := List.head?_eq_some_iff.1 he0
    have hfull : t.full true = false := by
      rw [Team.full, if_pos rfl]
      exact decide_eq_false (by omega)
    have hbad' : (s.checkAll h .global .read (t.lanes.map place)).bad =
        (e0.1, e0.2.1, e0.2.2, false) :: r.map fun e => (e.1, e.2.1, e.2.2, false) := by rw [hbad, hr0]; rfl
    obtain ⟨y, hstatus, htrap, hlanes, haddr, hcode, qs, hreqs, hlen, hsome⟩ :=
      State.memory_bad_spec (sw := sw) hplain hr.1 (asks := t.lanes.map place) (by rw [hpages]; exact hw) hfull hbad'
    refine ⟨_, y, hload hr, hstatus, htrap, ?_, haddr, ?_, ?_, fun hex => ?_⟩
    · rw [hlanes, hr0]
      simp [Function.comp_def]
    · rw [hcode, ← List.map_cons (f := fun e : Nat × XErr × Addr => (e.1, e.2.1, e.2.2, false)), ← hr0, List.any_map]
      simp only [Function.comp_def, List.any_eq_true, beq_iff_eq]
    · exact (congrArg List.length hreqs).trans_le (by rw [List.length_append]; exact Nat.add_le_add_left hlen _)
    · obtain ⟨l, hl, hno⟩ := hex
      have hne : (s.checkAll h .global .read (t.lanes.map place)).good ≠ [] := fun he => by
        rw [he] at hgood
        exact absurd (List.mem_filter.2 ⟨hl, decide_eq_true hno⟩) (by rw [← hgood]; exact List.not_mem_nil)
      obtain ⟨q, rfl, hq⟩ := hsome hne
      exact ⟨q, hreqs, (congrArg (List.map (·.lane)) hq).trans hgood⟩

end

section
/-! Scalar accesses (O27): a team's single ask, and a control-core thread's bytes of HBM4 at physical addresses, performed at once
or one in a step (R156, R161, R228, R409). -/

namespace Sys2Proof.Machine
open Sys2Proof.Claims

/-! ### Little-endian numbers -/

theorem leNat_zipIdx (bs : List Byte) (k : Nat) :
    ((bs.zipIdx k).map fun e => e.1.toNat * 2 ^ (8 * e.2)).sum = 2 ^ (8 * k) * leNat bs := by
  induction bs generalizing k with
  | nil => rfl
  | cons b r ih =>
    rw [List.zipIdx_cons, List.map_cons, List.sum_cons, ih, leNat, Nat.mul_add, pow_add 2 (8 * k) 8]
    ring

/-- A little-endian number as the sum of its bytes at their places (R9). -/
theorem leNat_eq_sum (bs : List Byte) : leNat bs = (bs.zipIdx.map fun e => e.1.toNat * 2 ^ (8 * e.2)).sum := by
  rw [leNat_zipIdx, Nat.mul_zero, pow_zero, Nat.one_mul]

/-! ### Physical addresses -/

theorem regionOf_hbm {pa : Nat} (h : pa < hbmTop) : regionOf pa = .hbm := if_pos h

theorem physCheck_of_hbm {pa n : Nat} (level : Nat) (h : pa + n ≤ hbmTop) : physCheck pa n level = none := by
  rw [physCheck, List.findSome?_eq_none_iff]
  intro i hi
  rw [regionOf_hbm (by have := List.mem_range.mp hi; omega)]

/-- R409: the first byte that no region holds, behind bytes of HBM4. -/
theorem physCheck_of_none {pa n j : Nat} (level : Nat) (hj : j < n) (hin : ∀ i, i < j → pa + i < hbmTop)
    (hout : regionOf (pa + j) = .none) : physCheck pa n level = some (.memFault, pa + j) := by
  obtain ⟨m, rfl⟩ : ∃ m, n = j + (m + 1) := ⟨n - j - 1, by omega⟩
  have hfst : physCheck pa j level = none := by
    rw [physCheck, List.findSome?_eq_none_iff]
    intro i hi
    rw [regionOf_hbm (hin i (List.mem_range.mp hi))]
  rw [physCheck] at hfst ⊢
  rw [List.range_add, List.findSome?_append, hfst, List.range_succ_eq_map, List.map_cons, List.findSome?_cons, Nat.add_zero, hout]
  rfl

/-- Bytes of HBM4, each at its home. -/
theorem physRead_of_hbm {s : State} {pa n : Nat} (h : pa + n ≤ hbmTop) :
    s.physRead pa n = (List.range n).map fun i => s.homeByte ⟨pa + i, none⟩ := by
  refine List.map_congr_left fun i hi => ?_
  rw [State.physByte, regionOf_hbm (by have := List.mem_range.mp hi; omega)]

theorem physPoison_iff {s : State} {pa n : Nat} (h : pa < hbmTop) :
    s.physPoison pa n = true ↔ ∃ i, i < n ∧ s.homePoison ⟨pa + i, none⟩ = true := by
  rw [State.physPoison, regionOf_hbm h]
  simp

/-- A physical read leaves every home byte as it was (R377, R397). -/
theorem State.usePhys_spec {s : State} (hs : Sound s.mem s.l2) (owner pa n : Nat) :
    KeepsHome s (s.usePhys owner pa n) ∧ ReadsHome s (s.usePhys owner pa n) := by
  unfold State.usePhys
  cases regionOf pa with
  | hbm =>
    simp only
    generalize (List.range ((pa + n + 127) / 128 - pa / 128)).map _ = ls
    induction ls generalizing s with
    | nil => exact ⟨.refl hs, .refl s⟩
    | cons l r ih =>
      have hl := State.useHome_keeps hs owner l
      obtain ⟨hk, hr⟩ := ih hl.sound
      exact ⟨hl.trans hk, (s.useHome_reads owner l).trans hr⟩
  | mgmt | cap | none => exact ⟨.refl hs, .refl s⟩

/-! ### A write leaves the hart that performs it -/

theorem State.useAll_reads (s : State) (owner : Nat) (bs : List Loc) : ReadsHome s (s.useAll owner bs) := by
  unfold State.useAll
  generalize lineHeads bs = ls
  induction ls generalizing s with
  | nil => exact .refl s
  | cons l r ih => exact (s.useHome_reads owner l).trans (ih _)

/-- From the first state to the second the hart's context and every thread's record are as they were. -/
def Spares (h : Nat) (s t : State) : Prop := t.ctx h = s.ctx h ∧ t.threads = s.threads

theorem Spares.trans {h : Nat} {s t u : State} (h1 : Spares h s t) (h2 : Spares h t u) : Spares h s u :=
  ⟨h2.1.trans h1.1, h2.2.trans h1.2⟩

theorem ReadsHome.spares {s t : State} (hr : ReadsHome s t) (h : Nat) : Spares h s t := by
  obtain ⟨_, _, _, _, _, rfl⟩ := hr
  exact ⟨rfl, rfl⟩

theorem State.waitMet_spares (s : State) {h k : Nat} (sc sw : Bool) (hk : k ≠ h) : Spares k s (s.waitMet h sc sw) := by
  constructor
  · have hacq : ((s.setCtx h { s.ctx h with status := .ready }).acquire h .pkg).ctx k = s.ctx k := by
      obtain ⟨_, _, _, e⟩ := (s.setCtx h { s.ctx h with status := .ready }).acquire_rest h .pkg
      rw [e]
      exact State.ctx_setCtx_ne s _ hk
    rw [State.waitMet, State.done_ctx_ne _ 1 sw hk]
    cases sc
    · exact hacq
    · exact State.ctx_setCtx_ne s _ hk
  · obtain ⟨_, _, _, _, e⟩ := s.waitMet_rest h sc sw
    rw [e]

/-- A WAITV that reads again concerns its own hart only. -/
theorem State.readWait_spares (s : State) {h k : Nat} (sc : Bool) (pl : List Loc) (c : WaitCond) (y : DWord) (sw : Bool)
    (hk : k ≠ h) : Spares k s (s.readWait h sc pl c y sw) := by
  have hread : ReadsHome s (if sc then s else s.useAll (s.owner h) pl) := by
    cases sc
    · exact s.useAll_reads (s.owner h) pl
    · exact .refl s
  unfold State.readWait
  split
  · exact ⟨rfl, rfl⟩
  · dsimp only
    generalize (if sc = true then s else s.useAll (s.owner h) pl) = r at hread
    split
    · exact (hread.spares k).trans (r.waitMet_spares sc sw hk)
    · exact hread.spares k

/-- No WAITV that reads again concerns a hart that is not parked. -/
theorem State.reread_spares {s : State} {h : Nat} (hr : (s.ctx h).status = .ready) (k : Nat) : Spares h s (s.reread k) := by
  by_cases hk : h = k
  · subst hk
    rw [State.reread, hr]
    exact ⟨rfl, rfl⟩
  · rw [State.reread]
    split
    · exact State.readWait_spares s _ _ _ _ _ hk
    all_goals exact ⟨rfl, rfl⟩

theorem State.rereads_spare (hs : List Nat) {s : State} {h : Nat} (hr : (s.ctx h).status = .ready) :
    Spares h s (hs.foldl State.reread s) := by
  induction hs generalizing s with
  | nil => exact ⟨rfl, rfl⟩
  | cons k r ih =>
    have hk := State.reread_spares hr k
    exact hk.trans (ih (hk.1 ▸ hr))

theorem State.writeHomeByte_reads (s : State) (owner : Nat) (l : Loc) (b : Byte) : ReadsHome s (s.writeHomeByte owner l b) := by
  refine (s.fillHome_reads owner l).trans ?_
  rw [State.writeHomeByte]
  generalize s.fillHome owner l = u
  simp only
  split
  · exact ⟨_, _, _, _, _, rfl⟩
  · split
    · exact ⟨_, _, _, _, _, rfl⟩
    · exact (State.writeBack_reads ..).trans ⟨_, _, _, _, _, rfl⟩

theorem State.writeHome_rest (s : State) (owner : Nat) (src : Option Nat) (bs : List (Loc × Byte)) :
    ∃ l m p ps i n, s.writeHome owner src bs = { s with l2 := l, mem := m, poison := p, parts := ps, invals := i, now := n } := by
  have hbytes : ReadsHome s (bs.foldl (fun s p => s.writeHomeByte owner p.1 p.2) s) := by
    generalize bs = ps
    induction ps generalizing s with
    | nil => exact .refl s
    | cons p r ih => exact (s.writeHomeByte_reads owner p.1 p.2).trans (ih _)
  obtain ⟨_, _, _, _, _, e⟩ := hbytes
  obtain ⟨_, he⟩ := State.meterWrites_rest owner (linesOf (bs.map (·.1)))
    (fun line => (bs.filter fun p => p.1.pa / 128 == line).length) (bs.foldl (fun s p => s.writeHomeByte owner p.1 p.2) s)
  rw [State.writeHome]
  simp only [he]
  rw [e]
  exact ⟨_, _, _, _, _, _, rfl⟩

/-- A write leaves a hart that is not parked, and the threads. -/
theorem State.write_spares {s : State} {h : Nat} (hr : (s.ctx h).status = .ready) (owner : Nat) (src : Option Nat)
    (bs : List (Loc × Byte)) : Spares h s (s.write owner src bs) := by
  have hhome : Spares h s (s.writeHome owner src bs) := by
    obtain ⟨_, _, _, _, _, _, e⟩ := s.writeHome_rest owner src bs
    rw [e]
    exact ⟨rfl, rfl⟩
  exact hhome.trans (State.rereads_spare _ (hhome.1 ▸ hr))

/-- Where bytes go is said by their addresses. -/
theorem StoresBytes.congr {s t : State} {ps qs : List (Loc × Byte)} (h : StoresBytes s t ps)
    (hpq : ps.map (fun p => (p.1.pa, p.2)) = qs.map fun p => (p.1.pa, p.2)) : StoresBytes s t qs := by
  have hpa : ps.map (fun p => p.1.pa) = qs.map fun p => p.1.pa := by
    have := congrArg (List.map Prod.fst) hpq
    rwa [List.map_map, List.map_map] at this
  obtain ⟨hother, hbyte, hsp⟩ := h
  refine ⟨fun l hl => hother l fun p hp e => ?_, fun hn q hq => ?_, hsp⟩
  · have hmem : l.pa ∈ qs.map fun p => p.1.pa := hpa ▸ List.mem_map.2 ⟨p, hp, e⟩
    obtain ⟨q, hq, e'⟩ := List.mem_map.1 hmem
    exact hl q hq e'
  · have hmem : (q.1.pa, q.2) ∈ ps.map fun p => (p.1.pa, p.2) := hpq ▸ List.mem_map.2 ⟨q, hq, rfl⟩
    obtain ⟨p, hp, e⟩ := List.mem_map.1 hmem
    obtain ⟨epa, eb⟩ := Prod.mk.inj e
    rw [State.homeByte_pa epa.symm, hbyte (hpa ▸ hn) p hp, eb]

/-- R409: a write to HBM4 on the system owner's account. -/
theorem State.physWrite_spec {s : State} (hs : Sound s.mem s.l2) {h : Nat} (hr : (s.ctx h).status = .ready)
    (owner : Nat) {pa : Nat} (hpa : pa < hbmTop) (bs : List Byte) :
    StoresBytes s (s.physWrite owner pa bs) (bs.zipIdx.map fun p => (⟨pa + p.2, none⟩, p.1)) ∧
      Spares h s (s.physWrite owner pa bs) := by
  rw [State.physWrite, regionOf_hbm hpa]
  refine ⟨(State.write_spec hs owner none _).2.congr ?_, State.write_spares hr ..⟩
  simp only [List.map_map, Function.comp_def, physLoc_pa]

/-! ### A control-core thread's access (R156, R409) -/

/-- A thread has no team record: moving on changes its context only. -/
theorem State.done_rest_of_thread {s : State} {h : Nat} (hk : (s.ctx h).kind = .thread) (n : Nat) (sw : Bool) :
    ∃ cs, s.done h n sw = { s with ctxs := cs } := by
  have hi : s.issued h = s := by rw [State.issued, hk]
  rw [State.done, hi]
  obtain ⟨_, e⟩ := (s.setCtx h ((s.ctx h).past n)).marked_rest h sw
  exact ⟨_, e⟩

theorem Thread.next_aligned (t : Thread) {a n : Nat} (h : a % n = 0) : t.next a n = (0, n) := by
  rw [Thread.next, h, beq_self_eq_true, if_pos rfl]

theorem Thread.next_misaligned (t : Thread) {a n : Nat} (h : a % n ≠ 0) : t.next a n = (t.bytes.length, 1) := by
  rw [Thread.next, if_neg (by simpa using h)]

/-- The load has executed with the bytes `bs`. -/
def LoadsBytes (s : State) (o : Out) (d : SReg) (sw : Bool) (bs : List Byte) : Prop :=
  ∃ t, o = .next t ∧ t.sreg s.cur d = BitVec.ofNat 64 (bs.zipIdx.map fun e => e.1.toNat * 2 ^ (8 * e.2)).sum ∧
    SameSregsBut d s t ∧ SameScc s t ∧ Passed s t 1 sw ∧ t.thread s.cur = { s.thread s.cur with bytes := [] } ∧ ThreadReads s t

section
variable {s : State} {d : SReg} {a : Addr} {n k m : Nat} {sw : Bool}

theorem State.threadLoad_fault {j : Nat} (hj : j < n) (hin : ∀ i, i < j → a.toNat + i < hbmTop)
    (hout : regionOf (a.toNat + j) = .none) :
    s.threadLoad s.cur d a n sw = s.raiseAt s.cur .memFault 1 (BitVec.ofNat 64 (a.toNat + j)) 0#1024 false := by
  rw [State.threadLoad, physCheck_of_none _ hj hin hout]

theorem State.threadStore_fault {j : Nat} (hj : j < n) (hin : ∀ i, i < j → a.toNat + i < hbmTop)
    (hout : regionOf (a.toNat + j) = .none) :
    s.threadStore s.cur d a n sw = s.raiseAt s.cur .memFault 1 (BitVec.ofNat 64 (a.toNat + j)) 0#1024 false := by
  rw [State.threadStore, physCheck_of_none _ hj hin hout]

section
variable (hin : a.toNat + n ≤ hbmTop) (hu : (s.thread s.cur).next a.toNat n = (k, m))
include hin hu

theorem State.threadLoad_poison (hp : s.physPoison (a.toNat + k) m = true) :
    s.threadLoad s.cur d a n sw = s.raiseAt s.cur .memPoison 1 a 0#1024 false := by
  rw [State.threadLoad, physCheck_of_hbm _ hin]
  simp only [hu, hp, if_true]

theorem State.threadLoad_of_hbm (hp : s.physPoison (a.toNat + k) m = false) {bs : List Byte}
    (hbs : (s.thread s.cur).bytes.take k ++ s.physRead (a.toNat + k) m = bs) :
    s.threadLoad s.cur d a n sw =
      if bs.length < n then (s.usePhys 0 (a.toNat + k) m).setThread s.cur { s.thread s.cur with bytes := bs }
      else ((((s.usePhys 0 (a.toNat + k) m).setThread s.cur { s.thread s.cur with bytes := [] }).setSreg s.cur d
        (BitVec.ofNat 64 (leNat bs))).done s.cur 1 sw) := by
  rw [State.threadLoad, physCheck_of_hbm _ hin]
  simp only [hu, hp, hbs, Bool.false_eq_true, if_false]

theorem State.threadStore_of_hbm {bs : List Byte} (hbs : ((leBytes n (s.sreg s.cur d).toNat).drop k).take m = bs) :
    s.threadStore s.cur d a n sw =
      let u := s.physWrite 0 (a.toNat + k) bs
      if k + m < n then u.setThread s.cur { u.thread s.cur with bytes := (s.thread s.cur).bytes ++ bs }
      else (u.setThread s.cur { u.thread s.cur with bytes := [] }).done s.cur 1 sw := by
  rw [State.threadStore, physCheck_of_hbm _ hin]
  simp only [hu, hbs]

end

/-! ### What a thread's access leaves -/

section
variable (hs : Sound s.mem s.l2) (hk : (s.ctx s.cur).kind = .thread)

include hs in
theorem State.usePhys_ctx (pa m k : Nat) : (s.usePhys 0 pa m).ctx k = s.ctx k :=
  ((s.usePhys_spec hs 0 pa m).2.spares k).1

include hs in
theorem threadReads_of_usePhys (pa m : Nat) (x : Thread) : ThreadReads s ((s.usePhys 0 pa m).setThread s.cur x) := by
  obtain ⟨⟨-, hsame⟩, _, _, _, _, _, e⟩ := s.usePhys_spec hs 0 pa m
  have hsp : (s.usePhys 0 pa m).sp = s.sp := by rw [e]
  refine ⟨?_, fun h hh => ⟨State.usePhys_ctx hs pa m h, ?_⟩, fun l => (State.homeByte_of_eq rfl rfl l).trans (hsame l),
    State.spByte_of_eq hsp⟩
  · rw [e]
    exact ⟨_, _, _, _, _, _, _, rfl⟩
  · rw [State.thread_setThread_ne _ _ hh, e]
    rfl

include hk

theorem LoadsBytes.of_reads {v : State} (hv : ThreadReads s v) (hc : v.ctx s.cur = s.ctx s.cur)
    (ht : v.thread s.cur = { s.thread s.cur with bytes := [] }) (bs : List Byte) :
    LoadsBytes s (.next ((v.setSreg s.cur d (BitVec.ofNat 64 (leNat bs))).done s.cur 1 sw)) d sw bs := by
  have hw : (v.setSreg s.cur d (BitVec.ofNat 64 (leNat bs))).ctx s.cur =
      { s.ctx s.cur with sregs := Store.set 0#64 (s.ctx s.cur).sregs d.toNat (BitVec.ofNat 64 (leNat bs)) } := by
    rw [State.setSreg, State.ctx_setCtx, hc]
  obtain ⟨cs, e⟩ := State.done_rest_of_thread (s := v.setSreg s.cur d (BitVec.ofNat 64 (leNat bs))) (h := s.cur)
    (by rw [hw]; exact hk) 1 sw
  obtain ⟨⟨_, _, _, _, _, _, _, ev⟩, hothers, hhome, hsp⟩ := hv
  refine ⟨_, rfl, ?_, fun r hr => ?_, ?_, passed_done 1 sw ?_ ?_ ?_ ?_ ?_, ?_,
    ⟨?_, fun h hh => ⟨?_, ?_⟩, fun l => ?_, fun g o => ?_⟩⟩
  · rw [sameSregs_done, State.sreg_setSreg, leNat_eq_sum]
  · rw [sameSregs_done, State.sreg_setSreg_ne _ _ _ hr, State.sreg, hc]
    rfl
  · rw [SameScc, sameScc_done, hw]
  iterate 5 rw [hw]
  · rw [e]
    exact ht
  · rw [e, State.setSreg, State.setCtx, ev]
    exact ⟨_, _, _, _, _, _, _, rfl⟩
  · rw [State.done_ctx_ne _ 1 sw hh, State.setSreg, State.ctx_setCtx_ne _ _ hh]
    exact (hothers h hh).1
  · rw [e]
    exact (hothers h hh).2
  · rw [e]
    exact (State.homeByte_of_eq rfl rfl l).trans (hhome l)
  · rw [e]
    exact hsp g o

end

end

section
variable {s : State} {d : SReg} {a : Addr} {n : Nat} {sw : Bool}

theorem StoresBytes.of_eq {s u t : State} {ps : List (Loc × Byte)} (h : StoresBytes s u ps) (hl : t.l2 = u.l2)
    (hm : t.mem = u.mem) (hsp : t.sp = u.sp) : StoresBytes s t ps := by
  obtain ⟨hother, hbyte, hscratch⟩ := h
  have hhome := State.homeByte_of_eq hl hm
  exact ⟨fun l hl => (hhome l).trans (hother l hl), fun hn p hp => (hhome p.1).trans (hbyte hn p hp),
    fun g o => (State.spByte_of_eq hsp g o).trans (hscratch g o)⟩

section
variable {u : State} {ps : List (Loc × Byte)} (hb : StoresBytes s u ps) (hu : Spares s.cur s u)
include hb hu

theorem StoresBytes.keeps (x : List Byte) :
    let t := u.setThread s.cur { u.thread s.cur with bytes := x }
    StoresBytes s t ps ∧ t.ctx s.cur = s.ctx s.cur ∧ t.thread s.cur = { s.thread s.cur with bytes := x } := by
  have hth : u.thread s.cur = s.thread s.cur := by rw [State.thread, hu.2]; rfl
  exact ⟨hb.of_eq rfl rfl rfl, hu.1, by rw [State.thread_setThread, hth]⟩

theorem StoresBytes.executed (hk : (s.ctx s.cur).kind = .thread) :
    let t := (u.setThread s.cur { u.thread s.cur with bytes := [] }).done s.cur 1 sw
    StoresBytes s t ps ∧ SameSregs s t ∧ SameScc s t ∧ Passed s t 1 sw ∧
      t.thread s.cur = { s.thread s.cur with bytes := [] } := by
  obtain ⟨hbytes, hctx, hth⟩ := hb.keeps hu []
  intro t
  obtain ⟨cs, e⟩ := State.done_rest_of_thread (by rw [hctx]; exact hk) 1 sw
  refine ⟨hbytes.of_eq ?_ ?_ ?_, fun r => ?_, ?_, passed_done 1 sw ?_ ?_ ?_ ?_ ?_, ?_⟩
  · exact (congrArg State.l2 e :)
  · exact (congrArg State.mem e :)
  · exact (congrArg State.sp e :)
  · rw [sameSregs_done, State.sreg, hctx]
    rfl
  · rw [SameScc, sameScc_done, hctx]
  iterate 5 rw [hctx]
  · exact (congrArg (State.thread · s.cur) e).trans hth

end

/-! ### Where the bytes of an access are -/

theorem map_zipIdx_map_range {α β : Type} (f : Nat → α) (g : α × Nat → β) (n : Nat) :
    (((List.range n).map f).zipIdx.map g) = (List.range n).map fun j => g (f j, j) :=
  List.ext_getElem (by simp) fun i _ _ => by simp

theorem leBytes_drop_take {n k : Nat} (x : Nat) (hk : k < n) :
    ((leBytes n x).drop k).take 1 = [BitVec.ofNat 8 (x / 2 ^ (8 * k))] := by
  have hl : k < (leBytes n x).length := by simpa [leBytes] using hk
  rw [List.drop_eq_getElem_cons hl, List.take_succ_cons, List.take_zero]
  simp [leBytes]

/-- The byte `j` places behind an address. -/
def byteAt (a : Addr) (j : Nat) : Loc := ⟨a.toNat + j, none⟩

section
variable (hk : (s.ctx s.cur).kind = .thread) (hin : a.toNat + n ≤ hbmTop)

/-! ### Loads -/

section
variable {k m : Nat} (hu : (s.thread s.cur).next a.toNat n = (k, m)) (hkm : k + m ≤ n)
include hin hu hkm

include hk in
theorem threadLoad_takes_poison {j : Nat} (hj : j < m) (hp : s.homePoison (byteAt a (k + j)) = true) :
    TakesException s (.next (s.threadLoad s.cur d a n sw)) 0x14 a := by
  rw [State.threadLoad_poison hin hu ((physPoison_iff (by omega)).2 ⟨j, hj, by rw [Nat.add_assoc]; exact hp⟩)]
  exact .of_raiseAt hk .memPoison 1 a _ _

theorem threadLoad_eq (hm : 0 < m) (hp : ∀ j, j < m → s.homePoison (byteAt a (k + j)) = false) {bs : List Byte}
    (hbs : (s.thread s.cur).bytes.take k ++ (List.range m).map (fun j => s.homeByte (byteAt a (k + j))) = bs) :
    s.threadLoad s.cur d a n sw =
      if bs.length < n then (s.usePhys 0 (a.toNat + k) m).setThread s.cur { s.thread s.cur with bytes := bs }
      else ((((s.usePhys 0 (a.toNat + k) m).setThread s.cur { s.thread s.cur with bytes := [] }).setSreg s.cur d
        (BitVec.ofNat 64 (leNat bs))).done s.cur 1 sw) := by
  refine State.threadLoad_of_hbm hin hu ?_ ?_
  · rw [Bool.eq_false_iff, Ne, physPoison_iff (by omega)]
    rintro ⟨j, hj, hpj⟩
    rw [Nat.add_assoc] at hpj
    exact absurd ((hp j hj).symm.trans hpj) Bool.false_ne_true
  · rw [physRead_of_hbm (by omega)]
    simpa only [Nat.add_assoc, byteAt] using hbs

include hk in
theorem threadLoad_loads (hs : Sound s.mem s.l2) (hm : 0 < m) (hp : ∀ j, j < m → s.homePoison (byteAt a (k + j)) = false)
    {bs : List Byte} (hbs : (s.thread s.cur).bytes.take k ++ (List.range m).map (fun j => s.homeByte (byteAt a (k + j))) = bs)
    (hlen : bs.length = n) : LoadsBytes s (.next (s.threadLoad s.cur d a n sw)) d sw bs := by
  rw [threadLoad_eq hin hu hkm hm hp hbs, if_neg (by omega)]
  exact .of_reads hk (threadReads_of_usePhys hs ..) (State.usePhys_ctx hs ..) (State.thread_setThread ..) bs

end

/-! ### Stores -/

section
variable (hs : Sound s.mem s.l2) (hr : (s.ctx s.cur).status = .ready)
include hin hs hr

/-- All bytes of a naturally aligned store at once (R156). -/
theorem threadStore_aligned (hk : (s.ctx s.cur).kind = .thread) (hn : 0 < n) (ha : a.toNat % n = 0) :
    ∃ t, (.next (s.threadStore s.cur d a n sw) : Out) = .next t ∧
      StoresBytes s t ((List.range n).map fun j => (byteAt a j, BitVec.ofNat 8 ((s.sreg s.cur d).toNat / 2 ^ (8 * j)))) ∧
      SameSregs s t ∧ SameScc s t ∧ Passed s t 1 sw ∧ t.thread s.cur = { s.thread s.cur with bytes := [] } := by
  have hbs : ((leBytes n (s.sreg s.cur d).toNat).drop 0).take n = leBytes n (s.sreg s.cur d).toNat :=
    List.take_of_length_le (by simp [leBytes])
  obtain ⟨hb, hu⟩ := State.physWrite_spec hs hr 0 (pa := a.toNat + 0) (by omega) (leBytes n (s.sreg s.cur d).toNat)
  rw [leBytes, map_zipIdx_map_range] at hb
  rw [State.threadStore_of_hbm hin (Thread.next_aligned _ ha) hbs]
  simp only [Nat.zero_add, Nat.lt_irrefl, if_false]
  exact ⟨_, rfl, hb.executed hu hk⟩

/-- One byte of a misaligned store in a step (R156). -/
theorem threadStore_misaligned (hk : (s.ctx s.cur).kind = .thread) (ha : a.toNat % n ≠ 0) {k : Nat}
    (hkn : (s.thread s.cur).bytes.length = k) (hlt : k < n) {b : Byte}
    (hb8 : BitVec.ofNat 8 ((s.sreg s.cur d).toNat / 2 ^ (8 * k)) = b) :
    ∃ t, (.next (s.threadStore s.cur d a n sw) : Out) = .next t ∧ StoresBytes s t [(byteAt a k, b)] ∧ SameSregs s t ∧
      SameScc s t ∧
      (k + 1 = n → Passed s t 1 sw ∧ t.thread s.cur = { s.thread s.cur with bytes := [] }) ∧
      (k + 1 < n → t.ctx s.cur = s.ctx s.cur ∧
        t.thread s.cur = { s.thread s.cur with bytes := (s.thread s.cur).bytes ++ [b] }) := by
  have hnext : (s.thread s.cur).next a.toNat n = (k, 1) := by rw [Thread.next_misaligned _ ha, hkn]
  obtain ⟨hb, hu⟩ := State.physWrite_spec hs hr 0 (pa := a.toNat + k) (by omega) [b]
  rw [State.threadStore_of_hbm hin hnext ((leBytes_drop_take _ hlt).trans (by rw [hb8]))]
  dsimp only
  split
  · next hmore =>
    obtain ⟨hbytes, hctx, hth⟩ := hb.keeps hu ((s.thread s.cur).bytes ++ [b])
    refine ⟨_, rfl, hbytes, fun r => ?_, by rw [SameScc, hctx], fun he => by omega, fun _ => ⟨hctx, hth⟩⟩
    rw [State.sreg, hctx]
    rfl
  · next hlast =>
    obtain ⟨hbytes, hsregs, hscc, hpassed, hth⟩ := hb.executed (sw := sw) hu hk
    exact ⟨_, rfl, hbytes, hsregs, hscc, fun _ => ⟨hpassed, hth⟩, fun he => by omega⟩

end

end

end

end Sys2Proof.Machine
namespace Sys2Proof.Claims
open Sys2Proof.Machine

theorem scalarAccessesAskForOneValue : ScalarAccessesAskForOneValue := by
  intro s sw d b im hs hr B ask ms ss lf sf v
  have hlds : ∀ {i : Instr} {n : Nat}, exec i s = scalarLoad n sw d b im s → ask i (lf .global) n (ms n) 0 := by
    intro i n he hm
    rw [he, scalarLoad, begin_team hr rfl rfl, hr.1]
    exact memory_issues sw hr.1 hm fun hk => nomatch hk
  have hsts : ∀ {i : Instr} {n : Nat}, exec i s = scalarStore n sw d b im s → ask i (sf .global) n (ms n) (v n) := by
    intro i n he hm
    rw [he, scalarStore, begin_team hr rfl rfl, hr.1]
    exact memory_issues sw hr.1 hm fun _ _ => hs
  have hsldsp : ∀ {i : Instr} {n : Nat}, exec i s = scalarLoadSp n sw d b im s → ask i (lf .scratch) n (ss n) 0 := by
    intro i n he hm
    rw [he, scalarLoadSp, begin_team hr rfl rfl]
    exact memory_issues sw hr.1 hm fun hk => nomatch hk
  have hsstsp : ∀ {i : Instr} {n : Nat}, exec i s = scalarStoreSp n sw d b im s → ask i (sf .scratch) n (ss n) (v n) := by
    intro i n he hm
    rw [he, scalarStoreSp, begin_team hr rfl rfl]
    exact memory_issues sw hr.1 hm fun _ hsp => nomatch hsp
  exact ⟨hlds rfl, hlds rfl, hlds rfl, hlds rfl, hsts rfl, hsts rfl, hsts rfl, hsts rfl, hsldsp rfl, hsldsp rfl, hsstsp rfl,
    hsstsp rfl⟩

theorem threadsAccessPhysicalMemory : ThreadsAccessPhysicalMemory := by
  intro s sw d b im hs hr hst p hp n a place th k data loads
  have hs' : Sound s.mem s.l2 := (soundMemory_iff s).1 hs
  have hk : (s.ctx s.cur).kind = .thread := hr.1
  have hexec : 0 < n ∧ exec p.2.1 s = scalarLoad n sw d b im s ∧ exec p.2.2 s = scalarStore n sw d b im s := by
    fin_cases hp <;> exact ⟨Nat.succ_pos _, rfl, rfl⟩
  obtain ⟨hn, heload, hestore⟩ := hexec
  have hload : exec p.2.1 s = .next (s.threadLoad s.cur d (addrMS s s.cur b im n) n sw) := by
    rw [heload, scalarLoad, begin_thread hr rfl rfl, hk]
  have hstore : exec p.2.2 s = .next (s.threadStore s.cur d (addrMS s s.cur b im n) n sw) := by
    rw [hestore, scalarStore, begin_thread hr rfl rfl, hk]
  have ha : BitVec.ofNat 64 a = addrMS s s.cur b im n := BitVec.ofNat_toNat ..
  simp only [loads, hload, hstore, ha]
  refine ⟨fun hin hal => ?_, fun hin hal hkn => ?_, fun j hj hbelow hout => ?_⟩
  · have hu : th.next a n = (0, n) := Thread.next_aligned th hal
    have hbs : (th.bytes.take 0 ++ (List.range n).map fun j => s.homeByte (byteAt (addrMS s s.cur b im n) (0 + j))) =
        (List.range n).map fun j => s.homeByte (place j) := by
      simp only [Nat.zero_add]
      rfl
    have hle : 0 + n ≤ n := (Nat.zero_add n).le
    refine ⟨fun hclean => ?_, fun ⟨j, hj, hpoison⟩ => ?_, threadStore_aligned hin hs' hst hk hn hal⟩
    · exact threadLoad_loads hk hin hu hle hs' hn (fun j hj => by rw [Nat.zero_add]; exact hclean j hj) hbs (by simp)
    · exact threadLoad_takes_poison hk hin hu hle hj (by rw [Nat.zero_add]; exact hpoison)
  · have hu : th.next a n = (k, 1) := Thread.next_misaligned th hal
    have hbs : (th.bytes.take k ++ (List.range 1).map fun j => s.homeByte (byteAt (addrMS s s.cur b im n) (k + j))) =
        th.bytes ++ [s.homeByte (place k)] := by
      rw [List.take_length]
      rfl
    have hlen : (th.bytes ++ [s.homeByte (place k)]).length = k + 1 := by
      rw [List.length_append]
      rfl
    refine ⟨fun hpoison => threadLoad_takes_poison hk hin hu hkn Nat.one_pos hpoison, fun hclean => ?_,
      threadStore_misaligned hin hs' hst hk hal rfl hkn rfl⟩
    have hclean' : ∀ j, j < 1 → s.homePoison (byteAt (addrMS s s.cur b im n) (k + j)) = false := fun j hj => by
      obtain rfl : j = 0 := Nat.lt_one_iff.1 hj
      exact hclean
    refine ⟨fun hlast => threadLoad_loads hk hin hu hkn hs' Nat.one_pos hclean' hbs (hlen.trans hlast), fun hmore => ?_⟩
    have heq := (threadLoad_eq hin hu hkn Nat.one_pos hclean' hbs (d := d) (sw := sw)).trans (if_pos (by rw [hlen]; exact hmore))
    refine ⟨_, congrArg _ heq, ?_, ?_, ?_⟩
    · exact State.usePhys_ctx hs' ..
    · exact State.thread_setThread ..
    · exact threadReads_of_usePhys hs' ..
  · rw [State.threadLoad_fault (a := addrMS s s.cur b im n) hj hbelow hout,
      State.threadStore_fault (a := addrMS s s.cur b im n) hj hbelow hout]
    exact ⟨.of_raiseAt hk .memFault 1 _ _ _, .of_raiseAt hk .memFault 1 _ _ _⟩

end Sys2Proof.Claims

open Sys2Proof Sys2Proof.Machine Sys2Proof.Claims

/-- Settles O27: a team's single ask, and a thread's bytes performed at once, one in a step, or not at all. -/
theorem scalarAccesses : Obligations.ScalarAccesses := ⟨scalarAccessesAskForOneValue, threadsAccessPhysicalMemory⟩

end

section
/-! Lane copies (O30, R173): what LCPY leaves when every lane passes its checks. -/

namespace Sys2Proof.Machine
open Sys2Proof.Claims

theorem Workgroup.enginePage_eq_false {g : Workgroup} {bs : List Loc} (h : ∀ b ∈ bs, b.pa / 4096 ∉ g.engPages) :
    g.enginePage (pagesOf bs) = false := by
  rw [Workgroup.enginePage, List.any_eq_false]
  intro p hp
  rw [pagesOf, List.mem_eraseDups, List.mem_map] at hp
  obtain ⟨b, hb, rfl⟩ := hp
  simpa using h b hb

section
variable {s : State} {h n dst c : Nat} {src : Addr} {bs : List Loc}

/-- A lane whose destination lies in the scratchpad and whose source passes (R154, R155, R173). -/
theorem State.checkCopy_ok (lane : Nat) (hd : dst + n ≤ s.spSize h) (hsp : dst < 2 ^ 20)
    (hb : s.checkAsk h .global .read src c = .ok bs) :
    s.checkCopy h n lane dst c src = .ok bs := by
  have hdst : (BitVec.ofNat 64 dst).toNat = dst := by rw [BitVec.toNat_ofNat]; omega
  rw [State.checkCopy, State.checkAsk]
  simp only [hdst, if_pos hd, hb]

end

/-- What LCPY asks of its lanes, where every one passes: a copy per lane in the open slot (R173). -/
def newCopies (s : State) (lanes : List Nat) (n : Nat) (dst : Nat → Nat) (src : Nat → List Loc) : List LaneCopy :=
  lanes.zipIdx.map fun q => ⟨s.nextId + q.2, (s.team s.cur).openSlot, q.1, dst q.1, n, src q.1⟩

section
variable {s : State} {sw : Bool} {d v : VReg} {b : SReg} {n : Nat} (h : TeamRuns s [d.toNat, v.toNat, v.toNat + 1])
include h

theorem lcpyOp_parks (hs : s.sealed s.cur (s.team s.cur).openSlot = true) :
    ∃ u, lcpyOp n sw d b v s = .next u ∧ ParkedAt s u .batch := by
  rw [lcpyOp, begin_team h rfl rfl]
  simp only [hs, if_true]
  exact ⟨_, rfl, .of_park s _⟩

theorem lcpyOp_eq (hs : s.sealed s.cur (s.team s.cur).openSlot = false)
    (hroom : (s.team s.cur).batch (s.team s.cur).openSlot + (s.team s.cur).lanes.length ≤ 65535) {dst cnt : Nat → Nat}
    (hdst : ∀ i, ((s.vreg s.cur d.toNat).lane i).toNat % 2 ^ 20 = dst i)
    (hcnt : ∀ i, min ((s.vreg s.cur (v.toNat + 1)).lane i).toNat n = cnt i) {src : Nat → Addr}
    (hsrc : ∀ i, s.sreg s.cur b + ((s.vreg s.cur v.toNat).lane i).setWidth 64 = src i)
    (hw : s.unwalked s.cur ((s.team s.cur).lanes.flatMap fun i => vpagesOf (src i) (cnt i)) = []) {from' : Nat → List Loc}
    (hok : ∀ i ∈ (s.team s.cur).lanes, dst i % n = 0 ∧ dst i + n ≤ s.spSize s.cur ∧
      (∀ j, j < n → (dst i + j) / 4096 ∉ (s.wgOf s.cur).engPages) ∧
      s.checkAsk s.cur .global .read (src i) (cnt i) = .ok (from' i)) :
    lcpyOp n sw d b v s = .next (({ s with nextId := s.nextId + (s.team s.cur).lanes.length }.setTeam s.cur
      { s.team s.cur with copies := (s.team s.cur).copies ++ newCopies s (s.team s.cur).lanes n dst from' }).done
        s.cur 1 sw) := by
  have hchk : ((s.team s.cur).lanes.map fun i => (i, s.checkCopy s.cur n i (dst i) (cnt i) (src i))) =
      (s.team s.cur).lanes.map fun i => (i, (.ok (from' i) : Except (Nat × XErr × Addr × Bool) (List Loc))) := by
    refine List.map_congr_left fun i hi => ?_
    obtain ⟨-, hin, -, hb⟩ := hok i hi
    rw [State.checkCopy_ok i hin (by rw [← hdst]; exact Nat.mod_lt _ (by norm_num)) hb]
  have hodd : ((s.team s.cur).lanes.filter fun i => dst i % n != 0) = [] :=
    List.filter_eq_nil_iff.2 fun i hi => by simp [(hok i hi).1]
  have hpages : (s.wgOf s.cur).enginePage
      (pagesOf (((s.team s.cur).lanes.map fun i => (i, from' i)).flatMap fun p => spLocs (dst p.1) n)) = false := by
    refine Workgroup.enginePage_eq_false fun l hl => ?_
    obtain ⟨p, hp, hl⟩ := List.mem_flatMap.1 hl
    obtain ⟨i, hi, rfl⟩ := List.mem_map.1 hp
    obtain ⟨j, hj, rfl⟩ := List.mem_map.1 hl
    exact (hok i hi).2.2.1 j (List.mem_range.1 hj)
  have hcopies : (((s.team s.cur).lanes.map fun i => (i, from' i)).zipIdx.map fun p =>
      (⟨s.nextId + p.2, (s.team s.cur).openSlot, p.1.1, dst p.1.1, n, p.1.2⟩ : LaneCopy)) =
      newCopies s (s.team s.cur).lanes n dst from' := by
    rw [List.zipIdx_map, List.map_map]
    rfl
  have hlen : (newCopies s (s.team s.cur).lanes n dst from').length = (s.team s.cur).lanes.length := by
    rw [newCopies, List.length_map, List.length_zipIdx]
  rw [lcpyOp, begin_team h rfl rfl]
  simp only [hs, Bool.false_eq_true, if_false, Nat.not_lt.2 hroom, hdst, hcnt, hsrc, hodd, hw, hchk, List.isEmpty_nil, Bool.not_true,
    List.filterMap_map, Function.comp_def,
    List.filterMap_eq_map', List.filterMap_none, hpages, if_true, hcopies, hlen]

end

/-- A team that has more copies asked for, under identifiers of its own, stands where it did. -/
theorem HartsStand.copies (s : State) (m : Nat) (t : Team) : HartsStand s ({ s with nextId := m }.setTeam s.cur t) :=
  ⟨fun _ => rfl, rfl, fun _ hh => State.team_setTeam_ne _ _ hh, .of_eq rfl rfl rfl⟩

end Sys2Proof.Machine

namespace Sys2Proof.Claims
open Sys2Proof.Machine

theorem laneCopiesJoinTheOpenBatch : LaneCopiesJoinTheOpenBatch := by
  intro s sw d v b hr h t dst src p hp n cnt
  have he : exec p.2 s = lcpyOp n sw d b v s := by
    fin_cases hp <;> rfl
  rw [he]
  refine ⟨lcpyOp_parks hr, fun hs hroom hw hok => ?_⟩
  have hsrc : ∀ i, s.sreg s.cur b + ((s.vreg s.cur v.toNat).lane i).setWidth 64 = src i := fun i => by
    simp only [src]
    rw [← BitVec.ofNat_toNat]
  have hread : ∀ i ∈ t.lanes, ∃ bs, s.checkAsk h .global .read (src i) (cnt i) = .ok bs := fun i hi => (hok i hi).2.2.2
  choose! from' hfrom using hread
  have hstand := HartsStand.copies s (s.nextId + t.lanes.length) { t with copies := t.copies ++ newCopies s t.lanes n dst from' }
  obtain ⟨hpassed, hsregs, hscc, hvregs, hmemory, hothers⟩ := hstand.done 1 sw
  have hteam := hstand.teamIs hr.1 1 sw
  rw [State.team_setTeam] at hteam
  obtain ⟨_, _, edone⟩ := State.done_rest ({ s with nextId := s.nextId + t.lanes.length }.setTeam s.cur
    { t with copies := t.copies ++ newCopies s t.lanes n dst from' }) s.cur 1 sw
  refine ⟨_, newCopies s t.lanes n dst from', lcpyOp_eq hr hs hroom (fun _ => rfl) (fun _ => rfl) hsrc hw fun i hi => ?_,
    hteam, ?_, ?_, ?_, hpassed, hsregs, hscc, hvregs, hmemory, hothers⟩
  · obtain ⟨halign, hin, hpages, -⟩ := hok i hi
    exact ⟨halign, hin, hpages, hfrom i hi⟩
  · exact (congrArg State.nextId edone :)
  · rw [newCopies, List.map_map]
    rfl
  · calc (newCopies s t.lanes n dst from').map (fun x => some x.src)
      _ = (t.lanes.zipIdx.map Prod.fst).map fun i => some (from' i) := by rw [newCopies, List.map_map, List.map_map]; rfl
      _ = t.lanes.map fun i => some (from' i) := by rw [List.zipIdx_map_fst]
      _ = _ := List.map_congr_left fun i hi => by rw [hfrom i hi]; rfl

end Sys2Proof.Claims
end

section
/-! Reads at the home bring in no guest copy (R295, R377), and no moment goes back. -/

namespace Sys2Proof.Machine
open Sys2Proof.Claims

section
variable {β : Type} {k : Nat} {v : β} {st : Store β}

theorem Store.mem_of_find (h : Store.find k st = some v) : (k, v) ∈ st := by
  induction st with
  | nil => cases h
  | cons a r ih =>
    obtain ⟨j, w⟩ := a
    rw [Store.find] at h
    split at h
    · next hj =>
      cases h
      exact beq_iff_eq.1 hj ▸ List.mem_cons_self
    · exact List.mem_cons_of_mem _ (ih h)

theorem Store.of_mem_put {e : Nat × β} (h : e ∈ Store.put k v st) : e = (k, v) ∨ e ∈ st := by
  induction st with
  | nil => exact .inl (List.mem_singleton.1 h)
  | cons a r ih =>
    obtain ⟨j, w⟩ := a
    rw [Store.put] at h
    split at h
    · rcases List.mem_cons.1 h with rfl | h
      · exact .inr List.mem_cons_self
      · exact (ih h).imp_right (List.mem_cons_of_mem _)
    · split at h
      · exact (List.mem_cons.1 h).imp_right (List.mem_cons_of_mem _)
      · exact List.mem_cons.1 h

end

/-- From the first state to the second no moment goes back, and every guest copy was there in its way. -/
structure NoNewGuest (s t : State) : Prop where
  now : s.now ≤ t.now
  guests : ∀ e ∈ t.l2, e.2.guest = true → ∃ e' ∈ s.l2, e'.1 = e.1 ∧ e'.2.guest = true ∧ e'.2.line = e.2.line

namespace NoNewGuest

theorem of_subset {s t : State} (hn : s.now ≤ t.now) (hl : ∀ e ∈ t.l2, e ∈ s.l2) : NoNewGuest s t :=
  ⟨hn, fun e he hg => ⟨e, hl e he, rfl, hg, rfl⟩⟩

theorem of_eq {s t : State} (hn : t.now = s.now) (hl : t.l2 = s.l2) : NoNewGuest s t :=
  of_subset hn.ge fun e he => by rwa [hl] at he

theorem trans {s t u : State} (h1 : NoNewGuest s t) (h2 : NoNewGuest t u) : NoNewGuest s u := by
  refine ⟨h1.now.trans h2.now, fun e he hg => ?_⟩
  obtain ⟨e', he', hk', hg', hl'⟩ := h2.guests e he hg
  obtain ⟨e'', he'', hk'', hg'', hl''⟩ := h1.guests e' he' hg'
  exact ⟨e'', he'', hk''.trans hk', hg'', hl''.trans hl'⟩

theorem meterAdd (s : State) (p sel n : Nat) : NoNewGuest s (s.meterAdd p sel n) := by
  obtain ⟨_, e⟩ := s.meterAdd_rest p sel n
  rw [e]
  exact of_eq rfl rfl

theorem dropL2 (s : State) (k : Nat) : NoNewGuest s (s.dropL2 k) :=
  of_subset le_rfl fun e he => ((Store.mem_erase e).1 he).1

theorem evict (s : State) (k : Nat) : NoNewGuest s (s.evict k) := by
  unfold State.evict
  split
  · exact of_eq rfl rfl
  · refine trans (t := ite _ _ _) ?_ (dropL2 _ k)
    split
    · refine trans ?_ (meterAdd ..)
      obtain ⟨⟨_, _, e, -⟩, -⟩ := State.writeBack_spec s _
      rw [e]
      exact of_eq rfl rfl
    · exact of_eq rfl rfl

theorem dropCopy (s : State) (die line : Nat) : NoNewGuest s (s.dropCopy die line) := by
  unfold State.dropCopy
  split
  · exact dropL2 s _
  · exact of_eq rfl rfl

theorem fillHome (s : State) (owner : Nat) (l : Loc) : NoNewGuest s (s.fillHome owner l) := by
  unfold State.fillHome
  simp only
  split
  · exact of_eq rfl rfl
  · split
    · exact of_eq rfl rfl
    · refine (((evict s _).trans (dropCopy _ _ _)).trans ⟨Nat.le_succ _, fun e he hg => ?_⟩).trans (meterAdd ..)
      rcases Store.of_mem_put he with rfl | he
      · cases hg
      · exact ⟨e, he, rfl, hg, rfl⟩

theorem touch (s : State) (k : Nat) : NoNewGuest s (s.touch k) := by
  unfold State.touch
  split
  · exact of_eq rfl rfl
  · next x hx =>
    refine ⟨Nat.le_succ _, fun e he hg => ?_⟩
    rcases Store.of_mem_put he with rfl | he
    · exact ⟨(k, x), Store.mem_of_find hx, rfl, hg, rfl⟩
    · exact ⟨e, he, rfl, hg, rfl⟩

theorem useHome (s : State) (owner : Nat) (l : Loc) : NoNewGuest s (s.useHome owner l) := by
  unfold State.useHome
  simp only
  split
  · exact touch s _
  · split
    · exact fillHome s owner l
    · exact (fillHome s owner l).trans (meterAdd ..)

theorem useAll (s : State) (owner : Nat) (bs : List Loc) : NoNewGuest s (s.useAll owner bs) := by
  unfold State.useAll
  generalize lineHeads bs = ls
  induction ls generalizing s with
  | nil => exact of_eq rfl rfl
  | cons l r ih => exact (useHome s owner l).trans (ih _)

theorem chargeMisses (s : State) (core : Option Nat) (part : Nat) (va : Addr) (n : Nat) :
    NoNewGuest s (s.chargeMisses core part va n) := by
  unfold State.chargeMisses
  generalize (vpagesOf va n).filter _ = ps
  induction ps generalizing s with
  | nil => exact of_eq rfl rfl
  | cons p r ih =>
    refine trans ?_ (ih _)
    show NoNewGuest s (s.chargeWalk part (p * 2 ^ 16))
    unfold State.chargeWalk
    split
    · exact of_eq rfl rfl
    · exact useAll ..

end NoNewGuest

end Sys2Proof.Machine
end

section
/-! Waits on a value (O30, R175): what the read at issue leaves, and when WAITV comes to it. -/

namespace Sys2Proof.Machine
open Sys2Proof.Claims

theorem HartsStand.trans {s u v : State} (hc : u.cur = s.cur) (h1 : HartsStand s u) (h2 : HartsStand u v) : HartsStand s v :=
  ⟨fun h => (h2.ctx h).trans (h1.ctx h), h2.vregs.trans h1.vregs,
    fun h hh => (h2.team h (by rw [hc]; exact hh)).trans (h1.team h hh),
    fun l => (h2.memory.1 l).trans (h1.memory.1 l), fun g o => (h2.memory.2 g o).trans (h1.memory.2 g o)⟩

theorem HartsStand.acquired {s v : State} (hv : HartsStand s v) (hc : v.cur = s.cur) (c : Scope) :
    HartsStand s (v.acquire s.cur c) := by
  rw [← hc]
  exact hv.trans hc (.acquire v c)

/-- What a WAITV leaves whose read meets its condition, or does not (R175). -/
def WaitLeaves (s : State) (o : Out) (c : WaitCond) (sc : Bool) (va : Addr) (pl : List Loc) (y : DWord) (sw met : Bool) : Prop :=
  ∃ u, o = .next u ∧ SameSregs s u ∧ SameScc s u ∧ SameVregs s u ∧ SameMemory s u ∧ SameOthers s u ∧
    (met = true → Passed s u 1 sw ∧ (sc = false → (s.ctx s.cur).kind = .team →
      (∀ line, line < 2 ^ 45 → u.l1Line (s.coreOf s.cur) line = none) ∧
      ∃ n, s.now ≤ n ∧ TeamIs s u { s.team s.cur with fresh := n })) ∧
    (met = false → u.ctx s.cur = { s.ctx s.cur with status := .parked (.value sc va pl c y sw) } ∧ u.team s.cur = s.team s.cur)

section
variable {s : State} {h : Nat} {sc sw : Bool} {va : Addr} {pl : List Loc} {c : WaitCond} {y : DWord} {w : Wait}

/-- Whether a hart may read does not depend on where it stands. -/
theorem State.mayRead_park (s : State) (h : Nat) (w : Wait) (sc : Bool) (pl : List Loc) :
    (s.park h w).mayRead h sc pl = s.mayRead h sc pl := by
  have hk : ((s.park h w).ctx h).kind = (s.ctx h).kind := by rw [State.park, State.ctx_setCtx]
  rw [State.mayRead, State.mayRead, hk]
  rfl

theorem State.waitOn_parks (hm : s.mayRead h sc pl = false) : s.waitOn h sc va pl c y sw = s.park h (.value sc va pl c y sw) := by
  rw [State.waitOn, State.readWait, State.mayRead_park, hm]
  rfl

/-- The parked state with the lines read. -/
def State.waitReads (s : State) (h : Nat) (sc : Bool) (pl : List Loc) (w : Wait) : State :=
  if sc then s.park h w else (s.park h w).useAll ((s.park h w).owner h) pl

theorem State.waitOn_eq (hm : s.mayRead h sc pl = true) :
    s.waitOn h sc va pl c y sw =
      if c.holds (s.watched h sc pl) y then (s.waitReads h sc pl (.value sc va pl c y sw)).waitMet h sc sw
      else s.waitReads h sc pl (.value sc va pl c y sw) := by
  rw [State.waitOn, State.readWait, State.mayRead_park, hm]
  rfl

section
variable (hs : SoundMemory s)
include hs

theorem State.waitReads_spec : SameMemory s (s.waitReads h sc pl w) ∧ ReadsHome (s.park h w) (s.waitReads h sc pl w) ∧
    s.now ≤ (s.waitReads h sc pl w).now := by
  have hs' : Sound (s.park h w).mem (s.park h w).l2 := (soundMemory_iff s).1 hs
  cases sc
  · obtain ⟨hk, hr⟩ := State.useAll_spec ((s.park h w).owner h) pl hs'
    refine ⟨⟨fun l => (hk.same l).trans (State.homeByte_of_eq rfl rfl l), fun g o => ?_⟩, hr,
      (NoNewGuest.useAll (s.park h w) ((s.park h w).owner h) pl).now⟩
    obtain ⟨_, _, _, _, _, e⟩ := hr
    exact State.spByte_of_eq (congrArg State.sp e :) g o
  · exact ⟨.of_eq rfl rfl rfl, .refl _, le_rfl⟩

omit hs in
theorem ReadsHome.harts {u v : State} (hr : ReadsHome u v) :
    v.cur = u.cur ∧ (∀ k, v.ctx k = u.ctx k) ∧ v.vregs = u.vregs ∧ (∀ k, v.team k = u.team k) ∧ ∀ k, v.coreOf k = u.coreOf k := by
  obtain ⟨_, _, _, _, _, rfl⟩ := hr
  exact ⟨rfl, fun _ => rfl, rfl, fun _ => rfl, fun _ => rfl⟩

/-- A read whose condition is not met: the hart is parked. -/
theorem waitReads_parked :
    SameSregs s (s.waitReads s.cur sc pl w) ∧ SameScc s (s.waitReads s.cur sc pl w) ∧ SameVregs s (s.waitReads s.cur sc pl w) ∧
      SameMemory s (s.waitReads s.cur sc pl w) ∧ SameOthers s (s.waitReads s.cur sc pl w) ∧
      (s.waitReads s.cur sc pl w).ctx s.cur = { s.ctx s.cur with status := .parked w } ∧
      (s.waitReads s.cur sc pl w).team s.cur = s.team s.cur := by
  obtain ⟨hmem, hreads, -⟩ := State.waitReads_spec (h := s.cur) (sc := sc) (pl := pl) (w := w) hs
  obtain ⟨-, hctx, hvregs, hteam, -⟩ := hreads.harts
  have hhere : (s.waitReads s.cur sc pl w).ctx s.cur = { s.ctx s.cur with status := .parked w } :=
    (hctx s.cur).trans (State.ctx_setCtx ..)
  have hvreg : ∀ h r, (s.waitReads s.cur sc pl w).vreg h r = s.vreg h r := fun h r => by rw [State.vreg, hvregs]; rfl
  refine ⟨fun r => ?_, ?_, fun r _ => hvreg s.cur r, hmem, fun h hh => ⟨?_, hteam h, fun r _ => hvreg h r⟩, hhere, hteam s.cur⟩
  · rw [State.sreg, hhere]
    rfl
  · rw [SameScc, hhere]
  · exact (hctx h).trans (State.ctx_setCtx_ne s _ hh)

/-- With the wait over, every hart stands where it did. -/
theorem HartsStand.of_waitReads (hr : (s.ctx s.cur).status = .ready) :
    HartsStand s ((s.waitReads s.cur sc pl w).setCtx s.cur { (s.waitReads s.cur sc pl w).ctx s.cur with status := .ready }) := by
  obtain ⟨-, -, -, hmem, hothers, hhere, hteam⟩ := waitReads_parked (sc := sc) (pl := pl) (w := w) hs
  obtain ⟨-, hreads, -⟩ := State.waitReads_spec (h := s.cur) (sc := sc) (pl := pl) (w := w) hs
  refine ⟨fun h => ?_, hreads.harts.2.2.1, fun h hh => (hothers h hh).2.1,
    fun l => (State.homeByte_of_eq rfl rfl l).trans (hmem.1 l), fun g o => (State.spByte_of_eq rfl g o).trans (hmem.2 g o)⟩
  by_cases hh : h = s.cur
  · subst hh
    rw [State.ctx_setCtx, hhere, ← hr]
  · rw [State.ctx_setCtx_ne _ _ hh, (hothers h hh).1]

omit hs in
/-- An acquire at PKG scope, and the move past WAITV (R171, R175). -/
theorem HartsStand.acquires {v : State} (hv : HartsStand s v) (hcur : v.cur = s.cur) (hk : (s.ctx s.cur).kind = .team)
    (hcore : v.coreOf s.cur = s.coreOf s.cur)
    (hteam : v.team s.cur = s.team s.cur) :
    (∀ line, line < 2 ^ 45 → ((v.acquire s.cur .pkg).done s.cur 1 sw).l1Line (s.coreOf s.cur) line = none) ∧
      TeamIs s ((v.acquire s.cur .pkg).done s.cur 1 sw) { s.team s.cur with fresh := v.now } := by
  have hacq := hv.acquired hcur .pkg
  obtain ⟨hl1, -, ht⟩ := State.acquire_spec (s := v) (h := s.cur) (c := .pkg) (by rw [hv.ctx, hk]) (by decide)
  obtain ⟨_, _, e⟩ := (v.acquire s.cur .pkg).done_rest s.cur 1 sw
  refine ⟨fun line hl => ?_, ?_⟩
  · rw [e, ← hcore]
    exact hl1 (by decide) line hl
  · have hteamIs := hacq.teamIs hk 1 sw
    rwa [ht, hteam, if_pos (by decide)] at hteamIs

theorem waitLeaves_of_mayRead (hr : (s.ctx s.cur).status = .ready) (hm : s.mayRead s.cur sc pl = true) :
    WaitLeaves s (.next (s.waitOn s.cur sc va pl c y sw)) c sc va pl y sw (c.holds (s.watched s.cur sc pl) y) := by
  rw [State.waitOn_eq hm]
  cases hc : c.holds (s.watched s.cur sc pl) y with
  | false =>
    rw [if_neg Bool.false_ne_true]
    obtain ⟨hsregs, hscc, hvregs, hmemory, hothers, hhere, hteam⟩ :=
      waitReads_parked (sc := sc) (pl := pl) (w := .value sc va pl c y sw) hs
    exact ⟨_, rfl, hsregs, hscc, hvregs, hmemory, hothers, fun he => absurd he Bool.false_ne_true, fun _ => ⟨hhere, hteam⟩⟩
  | true =>
    obtain ⟨-, hreads, hnow⟩ := State.waitReads_spec (h := s.cur) (sc := sc) (pl := pl) (w := .value sc va pl c y sw) hs
    obtain ⟨hcur, -, -, hteam, hcore⟩ := hreads.harts
    have hstand := HartsStand.of_waitReads (sc := sc) (pl := pl) (w := .value sc va pl c y sw) hs hr
    rw [if_pos rfl, State.waitMet]
    generalize s.waitReads s.cur sc pl (.value sc va pl c y sw) = r at *
    cases sc with
    | false =>
      obtain ⟨hpassed, hsregs, hscc, hvregs, hmemory, hothers⟩ := (hstand.acquired hcur .pkg).done 1 sw
      refine ⟨_, rfl, hsregs, hscc, hvregs, hmemory, hothers, fun _ => ⟨hpassed, fun _ hk => ?_⟩,
        fun he => absurd he.symm Bool.false_ne_true⟩
      obtain ⟨hl1, ht⟩ := hstand.acquires (sw := sw) hcur hk (hcore s.cur) (hteam s.cur)
      exact ⟨hl1, r.now, hnow, ht⟩
    | true =>
      obtain ⟨hpassed, hsregs, hscc, hvregs, hmemory, hothers⟩ := hstand.done 1 sw
      exact ⟨_, rfl, hsregs, hscc, hvregs, hmemory, hothers, fun _ => ⟨hpassed, fun he => absurd he.symm Bool.false_ne_true⟩,
        fun he => absurd he.symm Bool.false_ne_true⟩

end

end

section
variable {s : State} {c : WaitCond} {sw : Bool} {a v : SReg}

theorem waitOp_thread (h : ThreadRuns s 0) :
    waitOp c sw a v s = .next (s.threadWait s.cur c (s.sreg s.cur a) (s.sreg s.cur v) sw) := by
  rw [waitOp, begin_thread h rfl rfl, h.1]

theorem waitOp_team (h : TeamRuns s []) :
    waitOp c sw a v s = .next (s.teamWait s.cur c (s.sreg s.cur a) (s.sreg s.cur v) sw) := by
  rw [waitOp, begin_team h rfl rfl, h.1]

end

section
variable {s : State} {h : Nat} {c : WaitCond} {sw : Bool} {A y : DWord}

theorem State.threadWait_eq (ha : A.toNat % 8 = 0) (hin : A.toNat < hbmTop) :
    s.threadWait h c A y sw = s.waitOn h false A ((List.range 8).map fun i => s.physLoc 0 (A.toNat + i)) c y sw := by
  rw [State.threadWait, ha, regionOf_hbm hin]
  rfl

theorem State.teamWait_scratch {o : Nat} (ho : o < 2 ^ 20) (h8 : o % 8 = 0) (hbit : A.getLsbD 63 = true)
    (hA : A.toNat = 2 ^ 63 + o) (hin : o + 8 ≤ s.spSize h)
    (hp : o / 4096 ∉ (s.wgOf h).engPages) :
    s.teamWait h c A y sw = s.waitOn h true (BitVec.ofNat 64 o) (spLocs o 8) c y sw := by
  have hmod : A.toNat % 2 ^ 20 = o := by omega
  have hzero : A.extractLsb' 20 43 = 0#43 := by
    apply BitVec.eq_of_toNat_eq
    rw [BitVec.extractLsb'_toNat, Nat.shiftRight_eq_div_pow, BitVec.toNat_ofNat]
    omega
  have hpage : (s.wgOf h).enginePage [o / 4096] = false := by
    simpa [Workgroup.enginePage] using hp
  rw [State.teamWait, if_pos hbit, hmod]
  simp [h8, hzero, hpage, Nat.not_lt.2 hin]

theorem State.teamWait_global {bs : List Loc} (hbit : A.getLsbD 63 = false) (hd : s.det h = false) (h8 : A.toNat % 8 = 0)
    (hw : s.unwalked h (vpagesOf A 8) = []) (hb : s.checkAsk h .global .read A 8 = .ok bs) :
    s.teamWait h c A y sw = s.waitOn h false A bs c y sw := by
  rw [State.teamWait, hbit, hd, h8, hw]
  simp [hb]

theorem State.teamWait_det (hbit : A.getLsbD 63 = false) (hd : s.det h = true) :
    s.teamWait h c A y sw = s.raise h .detViolation 1 := by
  rw [State.teamWait, hbit, hd]
  rfl

/-! ### Whether it may read -/

theorem State.mayRead_thread (sc : Bool) (pl : List Loc) (hk : (s.ctx h).kind = .thread) : s.mayRead h sc pl = true := by
  rw [State.mayRead, hk]

theorem State.mayRead_scratch {o : Nat} (hk : (s.ctx h).kind = .team) (hsaved : (s.wgOf h).saved = none) (h8 : o % 8 = 0)
    (hp : o / 4096 ∉ (s.wgOf h).engPages) :
    s.mayRead h true (spLocs o 8) = ((s.team h).before s.nextId .scratch (spLocs o 8)).isEmpty := by
  have hpages : (s.wgOf h).enginePage (pagesOf (spLocs o 8)) = false := by
    refine Workgroup.enginePage_eq_false fun l hl => ?_
    obtain ⟨j, hj, rfl⟩ := List.mem_map.1 hl
    have hj8 := List.mem_range.1 hj
    rwa [show (o + j) / 4096 = o / 4096 by omega]
  rw [State.mayRead, hk]
  simp [hsaved, hpages]

theorem State.mayRead_global {bs : List Loc} (hk : (s.ctx h).kind = .team) (hsaved : (s.wgOf h).saved = none) :
    s.mayRead h false bs = (((s.team h).before s.nextId .global bs).isEmpty && !s.seenBlocks (dieOfCore (s.coreOf h)) bs) := by
  rw [State.mayRead, hk]
  simp [hsaved]

end

end Sys2Proof.Machine

namespace Sys2Proof.Claims
open Sys2Proof.Machine

theorem waitvParksUntilItsConditionHolds : WaitvParksUntilItsConditionHolds := by
  intro s sw a v h A y p hp meets word waits here
  have he : exec p.2 s = waitOp p.1 sw a v s := by
    fin_cases hp <;> rfl
  have hmeets : ∀ x, p.1.holds x y = meets x := by
    intro x
    fin_cases hp
    · rfl
    · exact (decide_not (p := x = y)).symm
    · rfl
    · rfl
  have hreads : ∀ {sc va pl bs}, SoundMemory s → (s.ctx h).status = .ready → s.mayRead h sc pl = true →
      exec p.2 s = .next (s.waitOn h sc va pl p.1 y sw) →
      (pl.map fun l => if sc then s.spByte (s.team h).wg l.pa else s.homeByte l) = bs → waits sc va pl (word bs) := by
    intro sc va pl bs hs hst hm hx hbs
    have hleaves := waitLeaves_of_mayRead (va := va) (c := p.1) (y := y) (sw := sw) hs hst hm
    rw [State.watched, leNat_eq_sum, hbs, hmeets, ← hx] at hleaves
    exact hleaves
  have hparks : ∀ {sc va pl}, s.mayRead h sc pl = false → exec p.2 s = .next (s.waitOn h sc va pl p.1 y sw) →
      ∃ u, exec p.2 s = .next u ∧ ParkedAt s u (.value sc va pl p.1 y sw) := fun hm hx =>
    ⟨_, hx.trans (by rw [State.waitOn_parks hm]), .of_park s _⟩
  refine ⟨fun hr hst h8 hin hs => ?_, fun hr hst hs => ?_⟩
  · refine hreads hs hst (State.mayRead_thread false _ hr.1) (he.trans ?_) ?_
    · rw [waitOp_thread hr, State.threadWait_eq h8 hin]
    · rw [List.map_map]
      exact List.map_congr_left fun j _ => State.homeByte_pa (physLoc_pa ..)
  · rw [waitOp_team hr] at he
    intro o
    refine ⟨fun hbit h8 hA hin hp hhere => ?_, fun hbit hd h8 hhere hw bs hb => ?_, fun hbit hd => ?_⟩
    · intro pl
      have hmay : s.mayRead h true pl = ((s.team h).before s.nextId .scratch pl).isEmpty := State.mayRead_scratch hr.1 hhere h8 hp
      have hx : exec p.2 s = .next (s.waitOn h true (BitVec.ofNat 64 o) pl p.1 y sw) :=
        he.trans (congrArg _ (State.teamWait_scratch (Nat.mod_lt _ (by norm_num)) h8 hbit hA hin hp))
      refine ⟨fun hfree => hreads hs hst (hmay.trans (List.isEmpty_iff.2 hfree)) hx (List.map_map ..),
        fun hbusy => hparks (hmay.trans ?_) hx⟩
      rwa [List.isEmpty_eq_false_iff]
    · intro free
      have hmay : s.mayRead h false bs = true ↔ free := by
        rw [State.mayRead_global hr.1 hhere, Bool.and_eq_true, List.isEmpty_iff, Bool.not_eq_true']
      have hx : exec p.2 s = .next (s.waitOn h false A bs p.1 y sw) :=
        he.trans (congrArg _ (State.teamWait_global hbit hd h8 hw hb))
      exact ⟨fun hfree => hreads hs hst (hmay.2 hfree) hx rfl,
        fun hbusy => hparks (Bool.eq_false_iff.2 fun hm => hbusy (hmay.1 hm)) hx⟩
    · rw [he, State.teamWait_det hbit hd]
      exact .of_raise hr.1 _ _

end Sys2Proof.Claims

open Sys2Proof Sys2Proof.Machine Sys2Proof.Claims

/-- Settles O30: LCPY by the copies it makes, WAITV by what its read at issue leaves. -/
theorem laneCopiesAndWaitv : Obligations.LaneCopiesAndWaitv :=
  ⟨laneCopiesJoinTheOpenBatch, waitvParksUntilItsConditionHolds⟩

end

section
/-! Prefetches and cache maintenance (O31, R176): what PREF's walk and each form do to the copies of the line. -/

namespace Sys2Proof.Machine
open Sys2Proof.Claims

/-- From the first state to the second no register, no team's record and no byte of memory changes, and memory stays sound. -/
structure HartsUnmoved (s v : State) : Prop where
  ctxs : v.ctxs = s.ctxs
  teams : v.teams = s.teams
  vregs : v.vregs = s.vregs
  sp : v.sp = s.sp
  keeps : KeepsHome s v

namespace HartsUnmoved

theorem refl {s : State} (hs : Sound s.mem s.l2) : HartsUnmoved s s := ⟨rfl, rfl, rfl, rfl, .refl hs⟩

theorem trans {s u v : State} (h1 : HartsUnmoved s u) (h2 : HartsUnmoved u v) : HartsUnmoved s v :=
  ⟨h2.ctxs.trans h1.ctxs, h2.teams.trans h1.teams, h2.vregs.trans h1.vregs, h2.sp.trans h1.sp, h1.keeps.trans h2.keeps⟩

theorem of_reads {s v : State} (hk : KeepsHome s v) (hr : ReadsHome s v) : HartsUnmoved s v := by
  obtain ⟨_, _, _, _, _, rfl⟩ := hr
  exact ⟨rfl, rfl, rfl, rfl, hk⟩

section
variable {s v : State} (hv : HartsUnmoved s v)
include hv

theorem stand : HartsStand s v :=
  ⟨fun h => by rw [State.ctx, hv.ctxs]; rfl, hv.vregs, fun h _ => by rw [State.team, hv.teams]; rfl, hv.keeps.same,
    State.spByte_of_eq hv.sp⟩

theorem sameTeam (n : Nat) (sw : Bool) : SameTeam s (v.done s.cur n sw) :=
  sameTeam_done n sw (by rw [hv.stand.ctx]) (by rw [State.team, hv.teams]; rfl)

end

end HartsUnmoved

/-! ### What the forms do to the line -/

section
variable {s : State} (hs : Sound s.mem s.l2)

include hs in
theorem HartsUnmoved.touch (k : Nat) : HartsUnmoved s (s.touch k) := .of_reads (State.touch_keeps hs k) (s.touch_reads k)

include hs in
theorem HartsUnmoved.addFill (f : Fill) : HartsUnmoved s (s.addFill f) := by
  unfold State.addFill
  split
  · exact .refl hs
  · exact ⟨rfl, rfl, rfl, rfl, .of_eq hs rfl rfl⟩

/-- The line asked for is on its way. -/
theorem State.mem_addFill (s : State) (f : Fill) : f ∈ (s.addFill f).fills := by
  unfold State.addFill
  split
  · next h => exact List.contains_iff_mem.1 h
  · exact List.mem_append_right _ (List.mem_singleton.2 rfl)

include hs in
theorem HartsUnmoved.prefetch (h : Nat) (l1 : Bool) (l : Loc) : HartsUnmoved s (s.prefetch h l1 l) := by
  unfold State.prefetch
  split
  · simp only
    split
    · exact (HartsUnmoved.touch hs _).trans (.addFill (State.touch_keeps hs _).sound _)
    · exact .addFill hs _
  · exact .refl hs
  · exact .refl hs

theorem State.prefetch_fills {h : Nat} (hk : (s.ctx h).kind = .team) (l1 : Bool) (l : Loc) :
    ∃ f ∈ (s.prefetch h l1 l).fills, f.line = l.pa / 128 ∧ f.pin = l.pin := by
  rw [State.prefetch, hk]
  exact ⟨_, State.mem_addFill .., rfl, rfl⟩

include hs in
theorem HartsUnmoved.dropGuest (h : Nat) (l : Loc) : HartsUnmoved s (s.dropGuest h l) := by
  unfold State.dropGuest
  split
  · exact .of_reads (State.dropCopy_keeps hs ..).1 (State.dropCopy_reads ..)
  · exact .refl hs
  · exact .refl hs

include hs in
theorem HartsUnmoved.cleanLine (l : Loc) : HartsUnmoved s (s.cleanLine l) := by
  refine .of_reads (State.cleanLine_keeps hs l) ?_
  unfold State.cleanLine
  split
  · split
    · exact ((State.writeBack_reads ..).trans ⟨_, _, _, _, _, rfl⟩).trans (State.meterAdd_reads ..)
    · exact .refl s
  · exact .refl s

theorem eq_of_length_le_one {α : Type} {l : List α} (h : l.length ≤ 1) {a b : α} (ha : a ∈ l) (hb : b ∈ l) : a = b := by
  match l, h with
  | [], _ => cases ha
  | [c], _ => rw [List.mem_singleton.1 ha, List.mem_singleton.1 hb]

/-- The copies that PREF.GINV drops from. -/
def guestsOf (s : State) (die line : Nat) : Store L2Line :=
  s.l2.filter fun e => e.2.line == line && e.2.guest && sliceOfKey e.1 / 48 == die

/-- Where the die had no second copy of the line, it has none left. -/
theorem State.guestLine_dropCopy {s₀ : State} (hg : NoNewGuest s₀ s) (die line : Nat) (hone : (guestsOf s₀ die line).length ≤ 1) :
    (s.dropCopy die line).guestLine die line = none := by
  have hfrom : ∀ e ∈ s.l2, (e.2.line == line && e.2.guest && sliceOfKey e.1 / 48 == die) = true →
      ∃ f ∈ guestsOf s₀ die line, f.1 = e.1 := by
    intro e he hp
    simp only [Bool.and_eq_true, beq_iff_eq] at hp
    obtain ⟨⟨hline, hguest⟩, hdie⟩ := hp
    obtain ⟨f, hf, hk, hg', hl⟩ := hg.guests e he hguest
    refine ⟨f, List.mem_filter.2 ⟨hf, ?_⟩, hk⟩
    simp only [hk, hg', hl, hline, hdie, beq_self_eq_true, Bool.and_self]
  rw [State.dropCopy]
  cases hl : s.guestLine die line with
  | none => exact hl
  | some e =>
    refine List.find?_eq_none.2 fun e' he' hp => ?_
    obtain ⟨hmem, hne⟩ := (Store.mem_erase e').1 he'
    obtain ⟨f, hf, hk⟩ := hfrom e (List.mem_of_find?_eq_some hl)
      (List.find?_some (p := fun e : Nat × L2Line => e.2.line == line && e.2.guest && sliceOfKey e.1 / 48 == die) hl)
    obtain ⟨f', hf', hk'⟩ := hfrom e' hmem hp
    exact hne (by rw [← hk, ← hk', eq_of_length_le_one hone hf hf'])

include hs in
/-- R176: after PREF.WB the home line is clean. -/
theorem State.cleanLine_clean (l : Loc) {e : Nat × L2Line} (he : e ∈ (s.cleanLine l).l2) (hg : e.2.guest = false)
    (hl : e.2.line = l.pa / 128) : e.2.dirty = false := by
  have hv : Sound (s.cleanLine l).mem (s.cleanLine l).l2 := (State.cleanLine_keeps hs l).sound
  unfold State.cleanLine at he hv
  split at he
  · next k x hx =>
    obtain ⟨hmem, hline, hguest⟩ := State.homeLine_some hx
    rw [hx] at hv
    dsimp only at hv
    split at he
    · next hd =>
      rw [if_pos hd, State.meterAdd_l2, State.putL2_l2, State.writeBack_l2] at *
      have hput : (k, { x with dirty := false }) ∈ Store.put k { x with dirty := false } s.l2 :=
        (Store.mem_put hs.sorted _).2 (.inl rfl)
      rw [hv.unique he hput hg hguest (hl.trans hline.symm)]
    · next hd =>
      rw [hs.unique he hmem hg hguest (hl.trans hline.symm)]
      exact Bool.eq_false_iff.2 hd
  · next hx => exact absurd hl (State.homeLine_none.1 hx e he hg)

end

/-! ### PREF -/

/-- The walk that PREF makes where its caches miss (R395, R397). -/
def State.prefWalk (s : State) (va : Addr) : State :=
  match (s.ctx s.cur).kind with
  | .team => s.chargeMisses (some (s.coreOf s.cur)) (s.wgOf s.cur).launch.part va 1
  | .thread => s
  | .absent => s

theorem State.prefWalk_spec {s : State} (hs : Sound s.mem s.l2) (va : Addr) :
    KeepsHome s (s.prefWalk va) ∧ ReadsHome s (s.prefWalk va) ∧ NoNewGuest s (s.prefWalk va) := by
  unfold State.prefWalk
  split
  · have hf := Fetches.chargeMisses hs (some (s.coreOf s.cur)) (s.wgOf s.cur).launch.part va 1
    exact ⟨hf.keeps, hf.reads, .chargeMisses ..⟩
  all_goals exact ⟨.refl hs, .refl s, .of_eq rfl rfl⟩

/-- PREF: the walk, what the form does to a line that is found, and the move past it. -/
theorem prefOp_eq {s : State} (h : HartRuns s) (f : State → Nat → Loc → State) (sw : Bool) (b : SReg) (im : BitVec 10) {va : Addr}
    (hva : s.sreg s.cur b + BitVec.ofNat 64 (im.toNat * 128) = va) :
    prefOp f sw b im s = .next (((s.locate s.cur va).elim (s.prefWalk va) (f (s.prefWalk va) s.cur)).done s.cur 1 sw) := by
  subst hva
  rw [prefOp, begin_hart h rfl rfl rfl rfl]
  simp only
  split
  · next l hl => rw [hl]; rfl
  · next hl => rw [hl]; rfl

theorem prefOp_walks {s : State} (hs : Sound s.mem s.l2) (hh : HartRuns s) (b : SReg) (im : BitVec 10) :
    ∃ u, KeepsHome s u ∧ ReadsHome s u ∧ NoNewGuest s u ∧ ∀ (f : State → Nat → Loc → State) (sw : Bool), prefOp f sw b im s =
      .next (((s.locate s.cur (s.sreg s.cur b + BitVec.ofNat 64 (im.toNat * 128))).elim u (f u s.cur)).done s.cur 1 sw) := by
  obtain ⟨hkeeps, hreads, hguests⟩ := State.prefWalk_spec hs (s.sreg s.cur b + BitVec.ofNat 64 (im.toNat * 128))
  exact ⟨_, hkeeps, hreads, hguests, fun f sw => prefOp_eq hh f sw b im rfl⟩

/-- What every form of PREF leaves, whatever it does to the line found at `w`. -/
theorem pref_passes {s u : State} (hk : KeepsHome s u) (hr : ReadsHome s u) {f : Loc → State} (hf : ∀ l, HartsUnmoved u (f l))
    (w : Option Loc) (sw : Bool) :
    let t := (w.elim u f).done s.cur 1 sw
    (w = none → OnlyReads s t) ∧ Passed s t 1 sw ∧ SameSregs s t ∧ SameScc s t ∧ SameVregs s t ∧ SameTeam s t ∧ SameMemory s t ∧
      SameOthers s t := by
  have hwalk : HartsUnmoved s u := .of_reads hk hr
  have hv : HartsUnmoved s (w.elim u f) := by
    cases w with
    | none => exact hwalk
    | some l => exact hwalk.trans (hf l)
  obtain ⟨hpassed, hsregs, hscc, hvregs, hmemory, hothers⟩ := hv.stand.done 1 sw
  refine ⟨?_, hpassed, hsregs, hscc, hvregs, hv.sameTeam 1 sw, hmemory, hothers⟩
  rintro rfl
  refine ⟨?_, hothers, hmemory⟩
  obtain ⟨_, _, e⟩ := u.done_rest s.cur 1 sw
  obtain ⟨_, _, _, _, _, rfl⟩ := hr
  exact ⟨_, _, _, _, _, _, _, _, e⟩

end Sys2Proof.Machine

open Sys2Proof Sys2Proof.Machine Sys2Proof.Claims

/-- Settles O31: PREF's walk, then each form's effect on the line found. -/
theorem prefetchesChangeNoByte : Obligations.PrefetchesChangeNoByte := by
  unfold Obligations.PrefetchesChangeNoByte
  intro s sw b im hs hh
  obtain ⟨u, hkeeps, hreads, hguests, hpref⟩ := prefOp_walks ((soundMemory_iff s).1 hs) hh b im
  intro h w
  have hl2 : exec (.prefL2 sw b im) s = .next ((w.elim u (u.prefetch h false)).done h 1 sw) :=
    hpref (fun s h l => s.prefetch h false l) sw
  have hl1 : exec (.prefL1 sw b im) s = .next ((w.elim u (u.prefetch h true)).done h 1 sw) :=
    hpref (fun s h l => s.prefetch h true l) sw
  have hginv : exec (.prefGinv sw b im) s = .next ((w.elim u (u.dropGuest h)).done h 1 sw) :=
    hpref (fun s h l => s.dropGuest h l) sw
  have hwb : exec (.prefWb sw b im) s = .next ((w.elim u u.cleanLine).done h 1 sw) :=
    hpref (fun s _ l => s.cleanLine l) sw
  clear_value w
  refine ⟨fun i hi => ?_, fun l hl t => ⟨fun hk => ⟨fun hx => ?_, fun hx hone => ?_⟩, fun hx => ?_⟩⟩
  · have hform : ∃ f : Loc → State, exec i s = .next ((w.elim u f).done h 1 sw) ∧ ∀ l, HartsUnmoved u (f l) := by
      rw [List.mem_cons, List.mem_cons, List.mem_cons, List.mem_singleton] at hi
      rcases hi with rfl | rfl | rfl | rfl
      · exact ⟨_, hl2, .prefetch hkeeps.sound h false⟩
      · exact ⟨_, hl1, .prefetch hkeeps.sound h true⟩
      · exact ⟨_, hginv, .dropGuest hkeeps.sound h⟩
      · exact ⟨_, hwb, .cleanLine hkeeps.sound⟩
    obtain ⟨f, he, hf⟩ := hform
    obtain ⟨honly, hrest⟩ := pref_passes hkeeps hreads hf w sw
    refine ⟨fun hw t ht => ?_, _, he, hrest⟩
    obtain rfl : (w.elim u f).done h 1 sw = t := by
      rw [he] at ht
      exact Host.Outcome.next.inj ht
    exact honly hw
  · subst hl
    have hform : ∃ l1, (u.prefetch h l1 l).done h 1 sw = t :=
      hx.elim (fun hx => ⟨false, Host.Outcome.next.inj (hl2.symm.trans hx)⟩)
        fun hx => ⟨true, Host.Outcome.next.inj (hl1.symm.trans hx)⟩
    obtain ⟨l1, rfl⟩ := hform
    obtain ⟨_, _, e⟩ := (u.prefetch h l1 l).done_rest h 1 sw
    rw [e]
    exact State.prefetch_fills (by rw [hreads.harts.2.1, hk]) l1 l
  · subst hl
    obtain rfl : (u.dropGuest h l).done h 1 sw = t := Host.Outcome.next.inj (hginv.symm.trans hx)
    obtain ⟨_, _, e⟩ := (u.dropGuest h l).done_rest h 1 sw
    obtain ⟨-, hctx, -, -, hcore⟩ := hreads.harts
    have hdrop : u.dropGuest h l = u.dropCopy (dieOfCore (s.coreOf h)) (l.pa / 128) := by
      rw [State.dropGuest, hctx, hk, hcore]
    rw [e, ← State.guestLine_dropCopy hguests _ _ hone, ← hdrop]
    rfl
  · subst hl
    obtain rfl : (u.cleanLine l).done h 1 sw = t := Host.Outcome.next.inj (hwb.symm.trans hx)
    obtain ⟨_, _, e⟩ := (u.cleanLine l).done_rest h 1 sw
    have hclean := HartsUnmoved.cleanLine hkeeps.sound l
    rw [e]
    refine ⟨fun e he => ?_, fun j hj => ?_⟩
    · obtain ⟨hmem, hline, hguest⟩ := State.homeLine_some he
      exact State.cleanLine_clean hkeeps.sound l hmem hguest hline
    · have hpa : (l.pa / 128 * 128 + j) / 128 = l.pa / 128 := by omega
      rw [← hkeeps.same, ← hclean.keeps.same, hclean.keeps.sound.homeByte_hbm]
      · rfl
      · exact fun e he hg hl => State.cleanLine_clean hkeeps.sound l he hg (hl.trans hpa)

end

section
/-! What follows from a change (`State.sweep`), and memory: of a state whose foals are tile ops and whose partitions own no
channel of HBM4, no consequence writes a byte (R208, R254, R324, R392). The refutation of O33 needs it: the statement says of
some state before the sweep what only the state after it shows. -/

namespace Sys2Proof.Machine

/-! ### What leaves the foals alone -/

/-- The foals and the partitions' channels are as they were and, where `q` holds, so are HBM4 and the L2. -/
structure KeepsFoals (q : Prop) (s t : State) : Prop where
  foals : t.foals = s.foals
  pchan : ∀ p, (t.part p).pchan = (s.part p).pchan
  memory : q → t.l2 = s.l2 ∧ t.mem = s.mem

theorem MetersOnly.putL2 (s : State) (k : Nat) (x : L2Line) : MetersOnly s (s.putL2 k x) := .of_eq rfl

namespace KeepsFoals

variable {q : Prop}

theorem of_eq {s t : State} (hf : t.foals = s.foals) (hp : t.parts = s.parts) (hl : t.l2 = s.l2) (hm : t.mem = s.mem) :
    KeepsFoals q s t :=
  ⟨hf, fun p => by unfold State.part; rw [hp], fun _ => ⟨hl, hm⟩⟩

theorem refl (s : State) : KeepsFoals q s s := .of_eq rfl rfl rfl rfl

theorem trans {s t u : State} (hst : KeepsFoals q s t) (htu : KeepsFoals q t u) : KeepsFoals q s u :=
  ⟨htu.foals.trans hst.foals, fun p => (htu.pchan p).trans (hst.pchan p),
    fun h => ⟨(htu.memory h).1.trans (hst.memory h).1, (htu.memory h).2.trans (hst.memory h).2⟩⟩

theorem weaken {r : Prop} {s t : State} (h : KeepsFoals q s t) (hq : r → q) : KeepsFoals r s t :=
  ⟨h.foals, h.pchan, fun hr => h.memory (hq hr)⟩

theorem foldl {α : Type} {f : State → α → State} (hf : ∀ s a, KeepsFoals q s (f s a)) (l : List α) (s : State) :
    KeepsFoals q s (l.foldl f s) := by
  induction l generalizing s with
  | nil => exact .refl s
  | cons a r ih => exact (hf s a).trans (ih _)

theorem of_meters {s t : State} (hf : t.foals = s.foals) (hm : MetersOnly s t) : KeepsFoals False s t := by
  refine ⟨hf, fun p => ?_, False.elim⟩
  obtain ⟨m, e⟩ := hm.part p
  rw [e]

/-! ### Memory -/

theorem useAll (s : State) (owner : Nat) (bs : List Loc) : KeepsFoals False s (s.useAll owner bs) := by
  refine .of_meters ?_ (.useAll s owner bs)
  obtain ⟨_, _, _, _, _, e⟩ := s.useAll_reads owner bs
  rw [e]

theorem waitMet (s : State) (h : Nat) (sc sw : Bool) : KeepsFoals q s (s.waitMet h sc sw) := by
  obtain ⟨_, _, _, _, e⟩ := s.waitMet_rest h sc sw
  rw [e]
  exact .of_eq rfl rfl rfl rfl

theorem readWait (s : State) (h : Nat) (sc : Bool) (pl : List Loc) (c : WaitCond) (y : DWord) (sw : Bool) :
    KeepsFoals False s (s.readWait h sc pl c y sw) := by
  have hread : KeepsFoals False s (if sc then s else s.useAll (s.owner h) pl) := by
    split
    · exact .refl s
    · exact .useAll ..
  unfold State.readWait
  simp only
  split
  · exact .refl s
  · split
    · exact hread.trans (.waitMet ..)
    · exact hread

theorem reread (s : State) (h : Nat) : KeepsFoals False s (s.reread h) := by
  unfold State.reread
  split
  · exact .readWait ..
  all_goals exact .refl s

theorem scratch (s : State) (g o : Nat) (bs : List Byte) : KeepsFoals False s (s.scratch g o bs) := by
  have hbytes : KeepsFoals False s (s.spWrite g o bs) := by
    unfold State.spWrite
    refine foldl (fun _ _ => ?_) _ s
    exact .of_eq rfl rfl rfl rfl
  exact hbytes.trans (foldl reread _ _)

theorem writeHomeByte (s : State) (owner : Nat) (l : Loc) (b : Byte) : KeepsFoals False s (s.writeHomeByte owner l b) := by
  refine .of_meters ?_ ?_
  · obtain ⟨_, _, _, _, _, e⟩ := s.writeHomeByte_reads owner l b
    rw [e]
  · refine (MetersOnly.fillHome s owner l).trans ?_
    rw [State.writeHomeByte]
    generalize s.fillHome owner l = u
    simp only
    split
    · exact .of_eq rfl
    · split
      · exact .of_eq rfl
      · exact (MetersOnly.writeBack ..).trans (.putL2 ..)

theorem meterAdd (s : State) (p sel n : Nat) : KeepsFoals False s (s.meterAdd p sel n) := by
  refine .of_meters ?_ (.meterAdd s p sel n)
  obtain ⟨_, e⟩ := s.meterAdd_rest p sel n
  rw [e]

theorem meterWrite (s : State) (owner line n : Nat) : KeepsFoals False s (s.meterWrite owner line n) := by
  unfold State.meterWrite
  split
  · exact .meterAdd ..
  · split
    · exact .refl s
    · exact .meterAdd ..

theorem write (s : State) (owner : Nat) (src : Option Nat) (bs : List (Loc × Byte)) :
    KeepsFoals False s (s.write owner src bs) := by
  have hhome : KeepsFoals False s (s.writeHome owner src bs) := by
    unfold State.writeHome
    extract_lets s₁ s₂ invs l2
    have hbytes : KeepsFoals False s s₁ := foldl (fun s p => .writeHomeByte s owner p.1 p.2) bs s
    have hmeters : KeepsFoals False s₁ s₂ := foldl (fun s _ => .meterWrite s ..) _ s₁
    exact ⟨hmeters.foals.trans hbytes.foals, (hbytes.trans hmeters).pchan, False.elim⟩
  exact hhome.trans (foldl reread _ _)

theorem writeVa {s t : State} {part : Nat} {va : Addr} {bs : List Byte} (h : s.writeVa part va bs = some t) :
    KeepsFoals False s t := by
  unfold State.writeVa at h
  split at h
  · cases h
  · cases h
    refine trans (foldl (fun s p => ?_) _ s) (.write ..)
    unfold State.chargeWalk
    split
    · exact .refl s
    · exact .useAll ..

end KeepsFoals

/-! ### Partitions without memory -/

/-- No partition owns a channel of HBM4. -/
def State.NoChannels (s : State) : Prop := ∀ p, (s.part p).pchan = 0#768

/-- A partition without a channel owns no page of a stage-2 leaf (R392). -/
theorem stage2_error {s : State} {p : Partition} (hp : p.pchan = 0#768) (ipa : Nat) : ∃ x, stage2 s p ipa = .error x := by
  have hown : ∀ pa, p.ownsPa pa = false := fun pa => by simp [Partition.ownsPa, hp]
  unfold stage2
  split
  · exact ⟨_, rfl⟩
  · split
    · exact ⟨_, rfl⟩
    · simp only [hown]
      exact ⟨_, rfl⟩

/-- Without channels no address translates, where no cache is asked. -/
theorem State.NoChannels.translate {s : State} (hs : s.NoChannels) (part : Nat) (va : Addr) (k : Access) :
    ∃ x, Machine.translate s none part va k = .error x := by
  have hread : ∀ ipa, ∃ x, stage1Read s (s.part part) ipa = .error x := by
    intro ipa
    obtain ⟨x, hx⟩ := stage2_error (s := s) (hs part) ipa
    exact ⟨x, by simp [stage1Read, stage1Loc, hx, Except.map]⟩
  have hwalk : ∃ x, walk s part va.toNat = .error x := by
    obtain ⟨x, hx⟩ := hread ((s.part part).s1root + 8 * (va.toNat / 2 ^ 42 % 8192))
    exact ⟨x, by simp only [walk, walkStage, hx]⟩
  obtain ⟨x, hx⟩ := hwalk
  unfold Machine.translate
  simp only
  split
  · exact ⟨_, rfl⟩
  · exact ⟨x, by simp [hx]⟩

theorem State.NoChannels.translateBytes {s : State} (hs : s.NoChannels) (part : Nat) (va : Addr) (n : Nat) (k : Access) :
    ∃ x, Machine.translateBytes s none part va (n + 1) k = .error x := by
  obtain ⟨x, hx⟩ := hs.translate part va k
  exact ⟨_, by rw [Machine.translateBytes, hx]⟩

namespace KeepsFoals

variable {q : Prop}

/-! ### Entities -/

theorem msix (s : State) (fn v : Nat) : KeepsFoals q s (s.msix fn v) := by
  unfold State.msix
  simp only
  split <;> exact .of_eq rfl rfl rfl rfl

theorem queueErr (s : State) (part n : Nat) : KeepsFoals s.NoChannels s (s.queueErr part n) := by
  unfold State.queueErr
  simp only
  refine trans ?_ (.msix ..)
  by_cases hs : s.NoChannels
  · obtain ⟨x, hx⟩ := hs.translateBytes part ((s.part part).queueAddr n + 0x0F#64) 0 .readWrite
    have hread : s.readVa part ((s.part part).queueAddr n + 0x0F#64) 1 .readWrite = none := by
      rw [State.readVa, hx]
    rw [hread]
    exact .refl s
  · refine KeepsFoals.weaken (q := False) ?_ (fun h => hs h)
    split
    · cases hw : s.writeVa part _ _ with
      | none => exact .refl s
      | some t => exact .writeVa hw
    · exact .refl s
    · exact .refl s

theorem writeSignal (s : State) (part n : Nat) (va : DWord) (status reason : Nat) (launch : Word) :
    KeepsFoals s.NoChannels s (s.writeSignal part n va status reason launch) := by
  unfold State.writeSignal
  split
  · exact .refl s
  · split
    · exact .queueErr ..
    · split
      · rename_i t hw
        refine (KeepsFoals.writeVa hw).weaken fun hs => ?_
        obtain ⟨x, hx⟩ := hs.translateBytes part va 7 .write
        have hlen : (leBytes 8 (status + 2 ^ 8 * reason + 2 ^ 32 * launch.toNat)).length = 8 := by simp [leBytes]
        rw [State.writeVa, hlen, hx] at hw
        cases hw
      · exact .queueErr ..

theorem counterAdd (s : State) (e : Nat) (v : Int) : KeepsFoals q s (s.counterAdd e v) := .of_eq rfl rfl rfl rfl

theorem setQst (s : State) (part n : Nat) (x : QueueState) : KeepsFoals q s (s.setQst part n x) := by
  refine ⟨rfl, fun p => ?_, fun _ => ⟨rfl, rfl⟩⟩
  unfold State.setQst
  by_cases hp : p = part
  · subst hp
    rw [State.part_setPart]
  · exact congrArg Partition.pchan (Store.get_set_other hp)

theorem completeEntity (s : State) (e : Nat) : KeepsFoals s.NoChannels s (s.completeEntity e) := by
  unfold State.completeEntity
  extract_lets x s₁
  have herase : KeepsFoals s.NoChannels s s₁ := .of_eq rfl rfl rfl rfl
  split
  · exact herase
  · rename_i r _
    extract_lets s₂ s₃ s₄ p qs s₅
    have hsignal : KeepsFoals s.NoChannels s₁ s₂ := (KeepsFoals.writeSignal ..).weaken fun h p => h p
    have hparent : KeepsFoals s.NoChannels s₂ s₃ := by
      unfold s₃
      split
      · exact .counterAdd ..
      · exact .refl _
    have habove : KeepsFoals s.NoChannels s₃ s₄ := foldl (fun s a => .counterAdd s a (-1)) _ _
    have hqueue : KeepsFoals s.NoChannels s₄ s₅ := .setQst ..
    exact ((((herase.trans hsignal).trans hparent).trans habove).trans hqueue).trans (.of_eq rfl rfl rfl rfl)

end KeepsFoals

/-! ### Foals that end -/

/-- A tile op: it counts toward no barrier, runs on no ring and sends no notice. -/
def Foal.IsTile (f : Foal) : Prop := ∃ j, f.job = .tmma j

namespace KeepsFoals

variable {q : Prop}

theorem enqueue (s : State) (p : Nat) (f : Frame) : KeepsFoals q s (s.enqueue p f) := .of_eq rfl rfl rfl rfl

theorem transmit (s : State) (p : Nat) (f : Frame) : KeepsFoals False s (s.transmit p f) := by
  refine KeepsFoals.trans ?_ (.enqueue ..)
  split
  · exact .meterAdd ..
  · exact .refl s

theorem sendJob (s : State) (f : Frame) : KeepsFoals False s (s.sendJob f) := by
  unfold State.sendJob
  simp only
  split
  · split
    · rename_i t ht
      unfold State.inject at ht
      split at ht
      · cases ht
      · split at ht
        · cases ht
          exact .transmit ..
        · cases ht
    · exact .of_eq rfl rfl rfl rfl
  · exact .of_eq rfl rfl rfl rfl

theorem ringIdle (s : State) (f : Foal) : KeepsFoals f.IsTile s (s.ringIdle f) := by
  unfold State.ringIdle
  split
  · rename_i j hj
    split
    · exact (KeepsFoals.scratch ..).weaken fun ⟨_, hi⟩ => nomatch hj.symm.trans hi
    · exact .refl s
  all_goals exact .refl s

theorem endNotice (s : State) (k : Nat) (f : Foal) (st : FoalStatus) : KeepsFoals f.IsTile s (s.endNotice k f st) := by
  unfold State.endNotice
  split
  · rename_i j hj
    split
    · exact (KeepsFoals.sendJob ..).weaken fun ⟨_, hi⟩ => nomatch hj.symm.trans hi
    · exact .refl s
  all_goals exact .refl s

theorem endFrozen (s : State) (k : Nat) (f : Foal) : KeepsFoals f.IsTile s (s.endFrozen k f) := by
  unfold State.endFrozen
  split
  · exact .refl s
  · rename_i b hb
    have htile : f.IsTile → False := by
      rintro ⟨j, hj⟩
      simp [State.namedBarrier, hj] at hb
    split
    · exact .refl s
    · unfold State.markFrozen
      simp only
      split
      · exact .refl s
      · exact (KeepsFoals.scratch ..).weaken htile

theorem uncount (s : State) (f : Foal) : KeepsFoals q s (s.uncount f) := by
  unfold State.uncount
  split <;> exact .of_eq rfl rfl rfl rfl

end KeepsFoals

/-! ### Steps of the sweep -/

/-- What one consequence does to the foals: nothing, a new record of a foal that is there, or a slot freed. -/
inductive FoalsMove (s : State) : State → Prop
  | stay : FoalsMove s s
  | put {e : Nat × Foal} {f : Foal} (he : e ∈ s.foals) (hf : f.job = e.2.job) : FoalsMove s (s.putFoal e.1 f)
  | free (k : Nat) : FoalsMove s (s.freeSlot k)

/-- No foal but tile ops, and no partition with a channel: then what falls due writes no byte. -/
def State.Quiet (s : State) : Prop := s.NoChannels ∧ ∀ e ∈ s.foals, e.2.IsTile

/-- One consequence: the foals move once, and what else it does leaves them, and of a quiet state leaves memory. -/
def SweepStep (s t : State) : Prop := ∃ v, FoalsMove s v ∧ KeepsFoals s.Quiet v t

namespace SweepStep

theorem keeps {s t u : State} (h : SweepStep s t) (htu : KeepsFoals s.Quiet t u) : SweepStep s u := by
  obtain ⟨v, hv, hvt⟩ := h
  exact ⟨v, hv, hvt.trans htu⟩

theorem putFoal {s : State} {e : Nat × Foal} {f : Foal} (he : e ∈ s.foals) (hf : f.job = e.2.job) :
    SweepStep s (s.putFoal e.1 f) := ⟨_, .put he hf, .refl _⟩

theorem freeSlot (s : State) (k : Nat) : SweepStep s (s.freeSlot k) := ⟨_, .free k, .refl _⟩

theorem of_keeps {s t : State} (h : KeepsFoals s.Quiet s t) : SweepStep s t := ⟨s, .stay, h⟩

theorem endFoal (s : State) (k : Nat) (addr : DWord) : SweepStep s (s.endFoal k .cancelled none addr) := by
  unfold State.endFoal
  split
  · exact .of_keeps (.refl s)
  · rename_i f hf
    split
    · exact .of_keeps (.refl s)
    · have hmem : (k, f) ∈ s.foals := Store.mem_of_find hf
      extract_lets f' s₁ s₂ c s₃ s₄
      refine ⟨s.putFoal k f', .put hmem rfl, KeepsFoals.weaken (q := f.IsTile) ?_ fun hq => hq.2 _ hmem⟩
      have hring : KeepsFoals f.IsTile (s.putFoal k f') s₁ := by
        refine KeepsFoals.trans (t := (s.putFoal k f').returnPages f.wg f.pages) ?_ (.ringIdle ..)
        exact .of_eq rfl rfl rfl rfl
      have hfrozen : KeepsFoals f.IsTile s₁ s₂ := .endFrozen ..
      have hengine : KeepsFoals f.IsTile s₂ s₃ := by
        unfold s₃
        split <;> exact .of_eq rfl rfl rfl rfl
      have hended := ((hring.trans hfrozen).trans hengine).trans (.endNotice s₃ k f .cancelled)
      split
      · exact hended.trans (.uncount ..)
      · exact hended

theorem adoptByEntity {s : State} {e : Nat × Foal} (he : e ∈ s.foals) (es : List Nat) :
    SweepStep s (s.adoptByEntity e.1 e.2 es) := by
  unfold State.adoptByEntity
  simp only
  split
  · exact .keeps (.putFoal he (by rfl)) (.counterAdd ..)
  · split
    · exact .keeps (.putFoal he (by rfl)) (.counterAdd ..)
    · exact .putFoal he (by rfl)

theorem sweepFoal {s t : State} {e : Nat × Foal} (he : e ∈ s.foals) (h : s.sweepFoal e.1 e.2 = some t) : SweepStep s t := by
  unfold State.sweepFoal at h
  split at h
  · cases h
  · split at h
    · cases h
      exact .endFoal ..
    · split at h
      · cases h
      · split at h
        · cases h
          exact .putFoal he (by rfl)
        · split at h
          · cases h
          · split at h
            · cases h
              exact .putFoal he (by rfl)
            · cases h
              exact .endFoal ..

theorem sweepWg {s t : State} {g : Nat} {w : Workgroup} (h : s.sweepWg g w = some t) : SweepStep s t := by
  unfold State.sweepWg at h
  split at h
  · cases h
  · simp only at h
    split at h
    · rename_i e he
      cases h
      exact .adoptByEntity (List.mem_of_mem_filter (List.mem_of_find?_eq_some he)) _
    · split at h
      · cases h
        exact .of_keeps (.of_eq rfl rfl rfl rfl)
      · cases h

theorem sweepEntity {s t : State} {n : Nat} {x : Entity} (h : s.sweepEntity n x = some t) : SweepStep s t := by
  unfold State.sweepEntity at h
  split at h
  · cases h
    exact .of_keeps ((KeepsFoals.completeEntity s n).weaken And.left)
  · split at h
    · cases h
    · rename_i r _
      simp only at h
      split at h
      · split at h
        · cases h
        · rename_i e es hmine
          cases h
          have he : e ∈ s.foals := List.mem_of_mem_filter (hmine ▸ List.mem_cons_self)
          exact (adoptByEntity he r.above).keeps (.counterAdd ..)
      · cases h

theorem sweepOnce {s t : State} (h : s.sweepOnce = some t) : SweepStep s t := by
  simp only [State.sweepOnce, Option.orElse_eq_or, Option.or_eq_some_iff, List.findSome?_eq_some_iff] at h
  rcases h with h | ⟨-, h | ⟨-, h | ⟨-, h | ⟨-, h⟩⟩⟩⟩
  all_goals obtain ⟨l, e, r, hlist, h, -⟩ := h
  · exact .sweepFoal (hlist ▸ List.mem_append_right l List.mem_cons_self) h
  · exact .sweepWg h
  · exact .sweepEntity h
  · unfold State.sweepSlot at h
    split at h
    · cases h
      exact .freeSlot s e.1
    · cases h
  · unfold State.sweepCore at h
    split at h
    · cases h
      exact .of_keeps (.of_eq rfl rfl rfl rfl)
    · cases h

end SweepStep

theorem FoalsMove.rest {s v : State} (h : FoalsMove s v) : v.parts = s.parts ∧ v.l2 = s.l2 ∧ v.mem = s.mem := by
  cases h <;> exact ⟨rfl, rfl, rfl⟩

theorem SweepStep.pchan {s t : State} (h : SweepStep s t) (p : Nat) : (t.part p).pchan = (s.part p).pchan := by
  obtain ⟨v, hv, hkeeps⟩ := h
  rw [hkeeps.pchan, State.part, hv.rest.1, State.part]

/-- Every foal listed stands in slot `k`. -/
def State.Keyed (k : Nat) (s : State) : Prop := ∀ e ∈ s.foals, e.1 = k

/-- Of foals listed in one slot a consequence leaves all or none. -/
theorem SweepStep.keyed {k : Nat} {s t : State} (h : SweepStep s t) (hs : s.Keyed k) :
    t.Keyed k ∧ (t.foals = [] ∨ t.foals.length = s.foals.length) := by
  obtain ⟨v, hv, hkeeps⟩ := h
  unfold State.Keyed
  rw [hkeeps.foals]
  cases hv with
  | stay => exact ⟨hs, .inr rfl⟩
  | @put e f he _ =>
    obtain rfl := hs e he
    refine ⟨fun a ha => ?_, .inr ?_⟩
    · rcases Store.of_mem_put ha with rfl | ha
      · rfl
      · exact hs a ha
    · unfold State.putFoal
      cases hl : s.foals with
      | nil => simp [hl] at he
      | cons a r =>
        have ha : a.1 = e.1 := hs a (hl ▸ List.mem_cons_self)
        simp [Store.put, ha]
  | free j =>
    unfold State.freeSlot
    simp only [Store.erase_eq]
    refine ⟨fun a ha => hs a (List.mem_of_mem_filter ha), ?_⟩
    by_cases hj : j = k
    · exact .inl (List.filter_eq_nil_iff.2 fun a ha => by simp [hs a ha, hj])
    · refine .inr (congrArg List.length (List.filter_eq_self.2 fun a ha => ?_))
      have := hs a ha
      simp only [bne_iff_ne]
      omega

/-- A quiet state stays quiet, and its memory stays. -/
theorem SweepStep.quiet {s t : State} (h : SweepStep s t) (hs : s.Quiet) : t.Quiet ∧ t.l2 = s.l2 ∧ t.mem = s.mem := by
  have hchan : t.NoChannels := fun p => (h.pchan p).trans (hs.1 p)
  obtain ⟨v, hv, hkeeps⟩ := h
  obtain ⟨hl2, hmem⟩ := hkeeps.memory hs
  obtain ⟨-, hvl2, hvmem⟩ := hv.rest
  refine ⟨⟨hchan, ?_⟩, hl2.trans hvl2, hmem.trans hvmem⟩
  rw [hkeeps.foals]
  intro e he
  cases hv with
  | stay => exact hs.2 e he
  | put hput hf =>
    rcases Store.of_mem_put he with rfl | he
    · obtain ⟨j, hj⟩ := hs.2 _ hput
      exact ⟨j, hf.trans hj⟩
    · exact hs.2 e he
  | free j => exact hs.2 e ((Store.mem_erase e).1 he).1

/-! ### The sweep -/

theorem State.sweepGo_steps (n : Nat) (s : State) : Relation.ReflTransGen SweepStep s (State.sweepGo n s) := by
  induction n generalizing s with
  | zero => exact .refl
  | succ n ih =>
    unfold State.sweepGo
    split
    · exact .refl
    · rename_i t ht
      exact .head (SweepStep.sweepOnce ht) (ih t)

section
variable {s t : State} (h : Relation.ReflTransGen SweepStep s t)
include h

theorem sweepSteps_noChannels (ht : t.NoChannels) : s.NoChannels := by
  induction h with
  | refl => exact ht
  | tail _ hstep ih => exact ih fun p => (hstep.pchan p).symm.trans (ht p)

theorem sweepSteps_keyed {k : Nat} (hs : s.Keyed k) : t.Keyed k ∧ (t.foals = [] ∨ t.foals.length = s.foals.length) := by
  induction h with
  | refl => exact ⟨hs, .inr rfl⟩
  | tail _ hstep ih =>
    obtain ⟨hkeyed, hlen⟩ := ih
    obtain ⟨hkeyed', hlen'⟩ := hstep.keyed hkeyed
    refine ⟨hkeyed', ?_⟩
    rcases hlen' with hnil | hsame
    · exact .inl hnil
    · refine hlen.imp (fun hnil => ?_) hsame.trans
      exact List.length_eq_zero_iff.1 (hsame.trans (List.length_eq_zero_iff.2 hnil))

theorem sweepSteps_quiet (hs : s.Quiet) : t.Quiet ∧ t.l2 = s.l2 ∧ t.mem = s.mem := by
  induction h with
  | refl => exact ⟨hs, rfl, rfl⟩
  | tail _ hstep ih =>
    obtain ⟨hquiet, hl2, hmem⟩ := ih
    obtain ⟨hquiet', hl2', hmem'⟩ := hstep.quiet hquiet
    exact ⟨hquiet', hl2'.trans hl2, hmem'.trans hmem⟩

end

theorem Store.find_ne_none {β : Type} {e : Nat × β} {st : Store β} (he : e ∈ st) : Store.find e.1 st ≠ none := by
  induction st with
  | nil => cases he
  | cons a r ih =>
    rw [Store.find]
    split
    · exact Option.some_ne_none _
    · next hne =>
      rcases List.mem_cons.1 he with rfl | he
      · exact absurd (beq_self_eq_true _) hne
      · exact ih he

/-- Where the one foal before the sweep is a tile op, one is listed after it, and no partition owns a channel then, the sweep
has left memory as it was. -/
theorem State.sweep_memory {u : State} {k : Nat} {f : Foal} (hothers : ∀ j, j ≠ k → u.foalAt j = none)
    (hf : u.foalAt k = some f) (htile : f.IsTile) (hone : u.sweep.foals.length = 1) (hchan : u.sweep.NoChannels) :
    u.sweep.l2 = u.l2 ∧ u.sweep.mem = u.mem := by
  have hsteps : Relation.ReflTransGen SweepStep u u.sweep := State.sweepGo_steps _ u
  have hkeyed : u.Keyed k := fun e he => by
    by_contra hne
    exact Store.find_ne_none he (hothers e.1 hne)
  have hlen : u.foals.length = 1 := by
    rcases (sweepSteps_keyed hsteps hkeyed).2 with h | h
    · rw [h] at hone
      cases hone
    · exact h.symm.trans hone
  have hquiet : u.Quiet := by
    refine ⟨sweepSteps_noChannels hsteps hchan, fun e he => ?_⟩
    obtain ⟨a, ha⟩ := List.length_eq_one_iff.1 hlen
    have hmem := Store.mem_of_find hf
    rw [ha, List.mem_singleton] at he hmem
    rw [he, ← hmem]
    exact htile
  exact (sweepSteps_quiet hsteps hquiet).2

end Sys2Proof.Machine
end

section
/-! States that list a hart twice (O33, O48). A write to the scratchpad has the harts read again whose entry in the contexts
watches its bytes (`State.scratch`, R175), and each of them reads as its first entry says. Of a hart listed twice the second
entry may watch the scratchpad while the first waits on memory: then a write to the scratchpad reads a line at its home, and
that read may evict another. A clean line that agrees with HBM4 leaves no byte changed; one that does not takes its bytes
with it. The stores' operations list no hart twice (`Store.wf`), and no step makes such a line (`SoundMemory`); the
statements are about every state. -/

namespace Sys2Proof.Machine

/-- A control-core thread parked in a WAITV for 1 in eight bytes from `o`, of the scratchpad or of memory. -/
def waiter (scratch : Bool) (o : Nat) : Ctx :=
  { Ctx.blank with kind := .thread, status := .parked (.value scratch 0#64 (spLocs o 8) .eq 1#64 false) }

/-- A clean home copy of line 0xC000, its first byte 1. -/
def staleLine : L2Line :=
  { line := 0xC000, guest := false, data := 1#1024, dirty := false, owner := 0, used := 0, filled := 0, stale := false,
    wrote := 0, pois := 0#2, written := 0#128 }

/-- That byte's place; HBM4 holds 0 there. -/
def staleByte : Loc := ⟨128 * 0xC000, none⟩

/-- Hart 7 waits on line 0 of memory by its first entry and on the scratchpad of workgroup 0 from 0x20 by its second; the
copy of line 0xC000 stands in the one way that line 0 may fill. -/
def twiceListed : State :=
  { State.reset with
    ctxs := [(0, { Ctx.blank with kind := .team, status := .ready }), (7, waiter false 0), (7, waiter true 0x20)],
    l2 := [(0, staleLine)], ways := [(0, 1#16)] }

theorem twiceListed_staleByte : twiceListed.homeByte staleByte = 1#8 := by decide +kernel

/-- Whether an instruction leaves a state of which `p` holds. -/
def leaves (p : State → Bool) : Out → Bool
  | .next t => p t
  | .fault _ => false
  | .refused _ => false

/-! ### TMMA -/

/-- Team 0 is to issue, and a tile-op record of one element a side stands at offset 0: A and B at 0, C at 0x1000. -/
def tileState : State :=
  { twiceListed with
    teams := [(0, { Team.blank with exec := maskBelow 32 })],
    wgs := [(0, { Workgroup.blank with teams := [0], launch := { Launch.blank with spkib := 8 } })],
    sp := [(9, 0x10#8), (0x12, 1#8), (0x14, 1#8), (0x16, 1#8)] }

/-- The token goes to s2, and the format block is s0. -/
def tileFx : Fx := ⟨2#6, 0#6, 0#3, false, 0#2, false, 0#6, 0#7⟩

/-- TMMA writes FMTCOPY at 0x20, and line 0xC000 is gone; its foal is the only one, and no partition is listed. -/
theorem tileState_evicts :
    leaves (fun t => t.homeByte staleByte == 0#8 && t.foals.length == 1 && t.parts == [])
      (exec (.tmmaAcc false 1#6 0#2 0#2 tileFx) tileState) = true := by
  decide +kernel

/-! ### A sector that lands -/

/-- A copy of 64 bytes into the scratchpad; the read of its sector 0, one byte at 0x20, has returned. -/
def landingJob : CopyJob :=
  { copyJob .gs ⟨0#64, 64, 0xFF, 0, [1, 1, 1, 1], [0#32, 0#32, 0#32, 0#32], 0#64, 0#64⟩ 1 0#64 none none with
    next := 1, out := [{ ord := 0, global := false, wg := 0, writes := [(⟨0x20, none⟩, 9#8)], poison := none }] }

/-- The foal that runs it. -/
def landingFoal : Foal :=
  { id := 0, kind := .copy, gen := 0#12, status := .running, prio := 0, chain := 0, detached := false, regdest := false,
    depv := false, canreq := false, team := 0, teamix := 0, wg := 0, wgix := 0, origin := Launch.blank, level := .attached,
    adopter := 0, preds := [], dep := none, progress := 0, fcode := none, faddr := 0#64, flanes := 0#64, started := true,
    told := false, orphan := none, pages := [], reads := [], writes := [], throttle := none, declared := true,
    job := .copy landingJob }

/-- The copy stands in slot 0 of core 0. -/
def landingState : State := { twiceListed with foals := [(0, landingFoal)] }

theorem landingState_evicts :
    leaves (fun t => t.homeByte staleByte == 0#8) (exec (.copySectorLand 0 0 0) landingState) = true := by
  decide +kernel

end Sys2Proof.Machine

open Sys2Proof Sys2Proof.Machine

/-- Refutes O33: in `tileState` TMMA's write of FMTCOPY evicts a clean line that HBM4 does not agree with, and the statement
has every byte of memory stay. What follows from the new foal cannot have changed it (`State.sweep_memory`). -/
theorem not_matrixInstructionsCreateFoals : ¬Obligations.MatrixInstructionsCreateFoals := by
  unfold Obligations.MatrixInstructionsCreateFoals
  rintro ⟨-, htile⟩
  have hruns : TeamRuns tileState [] := ⟨by decide, by decide, by decide⟩
  obtain ⟨u, k, f, hnext, -, hfoal, -, -, -, -, -, -, -, -, hothers, hjob, -, hhome, -⟩ :=
    htile tileState false 1#6 0#2 0#2 tileFx false hruns rfl (by decide +kernel) (by decide +kernel) (by decide +kernel)
      (by decide +kernel) (by decide +kernel) (by decide +kernel) (by decide +kernel) (by decide +kernel) (by decide +kernel)
      (by decide +kernel)
  have hleft := tileState_evicts
  rw [show exec (.tmmaAcc false 1#6 0#2 0#2 tileFx) tileState = .next (u.sweep.done 0 2 false) from hnext] at hleft
  obtain ⟨cs, ts, hdone⟩ := u.sweep.done_rest 0 2 false
  simp only [leaves, hdone, Bool.and_eq_true, beq_iff_eq] at hleft
  obtain ⟨⟨hevicted, hone⟩, hparts⟩ := hleft
  have hchan : u.sweep.NoChannels := fun p => by rw [State.part, hparts]; rfl
  obtain ⟨hl2, hmem⟩ := State.sweep_memory hothers hfoal ⟨_, hjob⟩ hone hchan
  have hstale : (0#8 : Byte) = 1#8 := calc
    0#8 = u.sweep.homeByte staleByte := hevicted.symm
    _ = u.homeByte staleByte := State.homeByte_of_eq hl2 hmem _
    _ = 1#8 := (hhome staleByte).trans twiceListed_staleByte
  exact absurd hstale (by decide)

/-- Refutes O48: in `landingState` the landing of a sector in the scratchpad evicts a clean line that HBM4 does not agree
with, and the statement has every byte of memory stay. -/
theorem not_enginesWriteTheirResults : ¬Obligations.EnginesWriteTheirResults := by
  unfold Obligations.EnginesWriteTheirResults
  rintro ⟨-, hcopies⟩
  obtain ⟨-, hlands, -⟩ := hcopies landingState 0 0 landingFoal landingJob (by decide) rfl rfl rfl rfl
  obtain ⟨t, hnext, -, -, hscratch⟩ := hlands 0 _ rfl (by decide) rfl rfl rfl (by decide) rfl (by decide) (.inl rfl)
  obtain ⟨hsame, -⟩ := hscratch _ _ _ rfl rfl
  have hevicted := landingState_evicts
  rw [hnext] at hevicted
  have hevicted : t.homeByte staleByte = 0#8 := beq_iff_eq.1 hevicted
  have hstale : (0#8 : Byte) = 1#8 := calc
    0#8 = t.homeByte staleByte := hevicted.symm
    _ = 1#8 := (hsame staleByte).trans twiceListed_staleByte
  exact absurd hstale (by decide)

end

section
/-! Power declarations (O36): what PWRH.X makes of a pending and of a granted declaration (R223, R279). -/

namespace Sys2Proof.Machine

section
variable {p : PowerDecl} {us : Nat} (aged : Bool)

/-- R279: a pending declaration is lengthened at once. -/
theorem PowerDecl.extend_pending (hp : p.state = 1) (hle : p.len + us ≤ 65535) :
    p.extend us aged = ({ p with len := p.len + us }, false) := by
  have : ¬65535 < p.len + us := by omega
  simp [PowerDecl.extend, hp, this]

/-- R279: one that would pass the longest window is refused at once. -/
theorem PowerDecl.extend_refused (hp : p.state = 1) (hlt : 65535 < p.len + us) : p.extend us aged = (p, true) := by
  simp [PowerDecl.extend, hp, hlt]

/-- R279: one granted or active waits for the next evaluation. -/
theorem PowerDecl.extend_granted (hp : p.state ≠ 1) :
    p.extend us aged = ({ p with ext := some (p.ext.getD 0 + us), doomed := p.doomed || aged }, false) := by
  simp [PowerDecl.extend, hp]
end

section
variable {s : State} (h : TeamRuns s []) (sw : Bool)
include h

theorem execPwrhX_none (l : BitVec 4) (ht : (s.team s.cur).power = none) :
    execPwrhX sw l s = .next ((s.setTeam s.cur { s.team s.cur with xref := false }).done s.cur 1 sw) := by
  unfold execPwrhX
  rw [begin_team h rfl rfl]
  simp only [ht]

theorem execPwrhX_some (l : BitVec 4) {p : PowerDecl} (ht : (s.team s.cur).power = some p) {e : PowerDecl × Bool}
    (he : p.extend (2 ^ l.toNat) (s.agedPending (clusterOf (s.coreOf s.cur))) = e) :
    execPwrhX sw l s =
      .next ((s.setTeam s.cur { s.team s.cur with power := some e.1, xref := e.2 }).done s.cur 1 sw) := by
  unfold execPwrhX
  rw [begin_team h rfl rfl]
  simp only [ht, he]

/-- R223: scc says whether a declaration is granted or active. -/
theorem execPwrhQ_eq : execPwrhQ sw s =
    .next ((s.setScc s.cur ((s.team s.cur).power.any fun p => decide (2 ≤ p.state))).done s.cur 1 sw) := by
  unfold execPwrhQ
  rw [begin_team h rfl rfl]
  cases (s.team s.cur).power <;> rfl
end

end Sys2Proof.Machine

open Sys2Proof Sys2Proof.Machine

/-- Settles O36: each form writes the team record or scc; PWRH.X by where the declaration stands. -/
theorem powerIsDeclared : Obligations.PowerIsDeclared := by
  unfold Obligations.PowerIsDeclared
  intro s sw im o l h t us
  have hwrites : ∀ x n, WritesTeam s (.next ((s.setTeam s.cur x).done s.cur n sw)) x n sw := fun x n =>
    writesTeam_done s x n sw h.1
  refine ⟨?_, ?_, fun ht => ⟨?_, ?_⟩, fun p ht => ⟨fun hp hle => ?_, fun hp hlt => ?_, fun hp => ?_, ?_⟩⟩
  · show WritesTeam s (execPwrhD sw im o l s) _ 1 sw
    unfold execPwrhD
    rw [begin_team h rfl rfl]
    exact hwrites ..
  · show WritesTeam s (execPwrhE sw s) _ 1 sw
    unfold execPwrhE
    rw [begin_team h rfl rfl]
    exact hwrites ..
  · show WritesTeam s (execPwrhX sw l s) _ 1 sw
    rw [execPwrhX_none h sw l ht]
    exact hwrites ..
  · show WritesScc s (execPwrhQ sw s) _ 1 sw
    rw [execPwrhQ_eq h sw, show (s.team s.cur).power = none from ht]
    exact writesScc_done ..
  · show WritesTeam s (execPwrhX sw l s) _ 1 sw
    rw [execPwrhX_some h sw l ht (PowerDecl.extend_pending _ hp hle)]
    exact hwrites ..
  · show WritesTeam s (execPwrhX sw l s) _ 1 sw
    rw [execPwrhX_some h sw l ht (PowerDecl.extend_refused _ hp hlt),
      show ({ s.team s.cur with power := some p, xref := true } : Team) = { t with xref := true } by rw [← ht]]
    exact hwrites ..
  · have hx := execPwrhX_some h sw l ht (PowerDecl.extend_granted (us := us) _ hp)
    have hw : WritesTeam s (execPwrhX sw l s) _ 1 sw := hx ▸ hwrites _ 1
    exact ⟨_, hw, rfl, _, rfl, rfl, rfl⟩
  · show WritesScc s (execPwrhQ sw s) _ 1 sw
    rw [execPwrhQ_eq h sw, show (s.team s.cur).power = some p from ht]
    exact writesScc_done ..

end

section
/-! More states that list a hart twice (O34, O37): CPL writes ACTIVE into its ring and TBINIT a barrier into the scratchpad,
and each has a hart read again that reads a line at its home (R175, R210, R214). -/

namespace Sys2Proof.Machine

/-- Team 0 is to issue, s1 being `a`, over a scratchpad of 12 KiB; hart 7 waits on line 0 of memory by its first entry and on
the scratchpad from `o` by its second, and the copy of line 0xC000 stands in the one way that line 0 may fill. -/
def watchedTwice (a : DWord) (o : Nat) : State :=
  { twiceListed with
    ctxs := [(0, { Ctx.blank with kind := .team, status := .ready, sregs := [(1, a)] }), (7, waiter false 0), (7, waiter true o)],
    teams := [(0, { Team.blank with exec := maskBelow 32 })],
    wgs := [(0, { Workgroup.blank with teams := [0], launch := { Launch.blank with spkib := 12 } })] }

/-! ### TBINIT -/

/-- The barrier at s1 is where hart 7 waits. -/
def barrierState : State := watchedTwice 0x20#64 0x20

theorem barrierState_staleByte : barrierState.homeByte staleByte = 1#8 := by decide +kernel

theorem barrierState_evicts :
    leaves (fun t => t.homeByte staleByte == 0#8) (exec (.tbinit false 1#6 (.int 1#5)) barrierState) = true := by
  decide +kernel

/-! ### CPL -/

/-- A stream record of one byte at s0, 0, for one iteration, and at s1, 0x80, a ring of two slots of 4 KiB from 0x1000, where
hart 7 waits. -/
def ringState : State :=
  { watchedTwice 0x80#64 0x88 with
    sp := [(8, 1#8), (0x0A, 0xFF#8), (0x10, 1#8), (0x14, 1#8), (0x18, 1#8), (0x1C, 1#8), (0x40, 1#8),
      (0x81, 0x10#8), (0x85, 0x10#8), (0x88, 2#8)] }

theorem ringState_staleByte : ringState.homeByte staleByte = 1#8 := by decide +kernel

theorem ringState_evicts :
    leaves (fun t => t.homeByte staleByte == 0#8 && t.foals.length == 1 && t.parts == [])
      (exec (.cplFill false 0#6 1#6 tileFx) ringState) = true := by
  decide +kernel


/-! ### What follows from the new foal -/

/-- A foal of which nothing falls due: it has not ended, its team holds it, and it waits for no other. -/
structure Foal.Calm (f : Foal) : Prop where
  live : f.live = true
  attached : f.level = .attached
  uncancelled : f.canreq = false
  free : f.dep = none

section
variable {s t : State} (hc : ∀ e ∈ s.foals, e.2.Calm)
include hc

/-- No foal that an adopter counts. -/
theorem no_adopted {l : Level} (hl : l ≠ .attached) (p : Nat × Foal → Bool) :
    (s.foals.filter fun e => e.2.level == l && p e) = [] := by
  refine List.filter_eq_nil_iff.2 fun e he => ?_
  simp [(hc e he).attached, hl.symm]

theorem KeepsFoals.sweepWg {g : Nat} {w : Workgroup} (h : s.sweepWg g w = some t) : KeepsFoals s.NoChannels s t := by
  have hnone := no_adopted hc (l := .workgroup) (by decide) fun e => e.2.adopter == g && e.2.counted
  simp only [← Bool.and_assoc] at hnone
  unfold State.sweepWg at h
  simp only [hnone, List.find?_nil] at h
  split at h
  · cases h
  · split at h
    · cases h
      exact .of_eq rfl rfl rfl rfl
    · cases h

theorem KeepsFoals.sweepEntity {n : Nat} {x : Entity} (h : s.sweepEntity n x = some t) : KeepsFoals s.NoChannels s t := by
  have hnone := no_adopted hc (l := .launch) (by decide) fun e => e.2.adopter == n && e.2.counted
  simp only [← Bool.and_assoc] at hnone
  unfold State.sweepEntity at h
  split at h
  · cases h
    exact .completeEntity s n
  · split at h
    · cases h
    · simp only [hnone] at h
      split at h <;> cases h

/-- Of calm foals one consequence leaves each as it is, and without channels it writes no byte. -/
theorem KeepsFoals.sweepOnce (h : s.sweepOnce = some t) : KeepsFoals s.NoChannels s t := by
  simp only [State.sweepOnce, Option.orElse_eq_or, Option.or_eq_some_iff, List.findSome?_eq_some_iff] at h
  rcases h with h | ⟨-, h | ⟨-, h | ⟨-, h | ⟨-, h⟩⟩⟩⟩
  all_goals obtain ⟨l, e, r, hlist, h, -⟩ := h
  · obtain ⟨-, -, hcan, hdep⟩ := hc e (hlist ▸ List.mem_append_right l List.mem_cons_self)
    simp [State.sweepFoal, hcan, hdep] at h
  · exact .sweepWg hc h
  · exact .sweepEntity hc h
  · obtain ⟨hlive, -, -, -⟩ := hc e (hlist ▸ List.mem_append_right l List.mem_cons_self)
    simp [State.sweepSlot, Foal.reclaimable, hlive] at h
  · unfold State.sweepCore at h
    split at h
    · cases h
      exact .of_eq rfl rfl rfl rfl
    · cases h

theorem KeepsFoals.sweepGo (n : Nat) : KeepsFoals s.NoChannels s (State.sweepGo n s) := by
  induction n generalizing s with
  | zero => exact .refl s
  | succ n ih =>
    unfold State.sweepGo
    split
    · exact .refl s
    · rename_i u hu
      have hstep := KeepsFoals.sweepOnce hc hu
      exact hstep.trans ((ih (hstep.foals ▸ hc)).weaken fun hs p => (hstep.pchan p).trans (hs p))

end

/-- Where the one foal before the sweep is calm and no partition owns a channel after it, the sweep has left memory as it
was. -/
theorem State.sweep_memory_of_calm {u : State} {k : Nat} {f : Foal} (hothers : ∀ j, j ≠ k → u.foalAt j = none)
    (hf : u.foalAt k = some f) (hcalm : f.Calm) (hone : u.sweep.foals.length = 1) (hchan : u.sweep.NoChannels) :
    u.sweep.l2 = u.l2 ∧ u.sweep.mem = u.mem := by
  have hkeyed : u.Keyed k := fun e he => by
    by_contra hne
    exact Store.find_ne_none he (hothers e.1 hne)
  have hlen : u.foals.length = 1 := by
    rcases (sweepSteps_keyed (State.sweepGo_steps _ u) hkeyed).2 with h | h
    · have : u.sweep.foals = [] := h
      rw [this] at hone
      cases hone
    · exact h.symm.trans hone
  obtain ⟨a, ha⟩ := List.length_eq_one_iff.1 hlen
  have hcalms : ∀ e ∈ u.foals, e.2.Calm := fun e he => by
    have hmem := Store.mem_of_find hf
    rw [ha, List.mem_singleton] at he hmem
    rw [he, ← hmem]
    exact hcalm
  have hkeeps : KeepsFoals u.NoChannels u u.sweep := .sweepGo hcalms _
  exact hkeeps.memory fun p => (hkeeps.pchan p).symm.trans (hchan p)

end Sys2Proof.Machine

open Sys2Proof Sys2Proof.Machine

/-- Refutes O37: in `barrierState` TBINIT's write of its barrier evicts a clean line that HBM4 does not agree with, and the
statement has every byte of memory stay. -/
theorem not_ringsAndTransactionBarriers : ¬Obligations.RingsAndTransactionBarriers := by
  unfold Obligations.RingsAndTransactionBarriers
  rintro ⟨-, hbarriers⟩
  have hruns : TeamRuns barrierState [] := ⟨by decide, by decide, by decide⟩
  obtain ⟨hinit, -⟩ := hbarriers barrierState false 0#6 1#6 (.int 1#5) hruns rfl rfl (by decide +kernel)
    (by decide +kernel) (by decide +kernel)
  obtain ⟨u, hnext, ⟨-, -, hsame⟩, -⟩ := hinit (by decide +kernel) (by decide +kernel)
  have hevicted := barrierState_evicts
  rw [hnext] at hevicted
  have hevicted : u.homeByte staleByte = 0#8 := beq_iff_eq.1 hevicted
  have hstale : (0#8 : Byte) = 1#8 := calc
    0#8 = u.homeByte staleByte := hevicted.symm
    _ = 1#8 := (hsame staleByte).trans barrierState_staleByte
  exact absurd hstale (by decide)

/-- Refutes O34: in `ringState` CPL's write of ACTIVE evicts a clean line that HBM4 does not agree with, and the statement
has every byte of memory stay. What follows from the new foal cannot have changed it (`State.sweep_memory_of_calm`). -/
theorem not_copiesAndCollectivesCreateFoals : ¬Obligations.CopiesAndCollectivesCreateFoals := by
  unfold Obligations.CopiesAndCollectivesCreateFoals
  rintro ⟨hcopies, -⟩
  have hruns : TeamRuns ringState [] := ⟨by decide, by decide, by decide⟩
  obtain ⟨-, hring⟩ := hcopies ringState false 0#6 1#6 tileFx hruns rfl
  obtain ⟨u, k, f, hnext, -, hfoal, -, -, -, -, hfields, -, hdetach, hslot, hothers, -, -, hhome, -⟩ :=
    hring (.fill, .cplFill false 0#6 1#6 tileFx) (by simp) (by decide +kernel) (by decide +kernel) (by decide +kernel)
      (by decide +kernel) (by decide +kernel) (by decide +kernel) (by decide +kernel) (by decide +kernel) (by decide +kernel)
      (by decide +kernel) (by decide +kernel)
  have hleft := ringState_evicts
  rw [show exec (.cplFill false 0#6 1#6 tileFx) ringState = .next (u.sweep.done 0 2 false) from hnext] at hleft
  obtain ⟨cs, ts, hdone⟩ := u.sweep.done_rest 0 2 false
  simp only [leaves, hdone, Bool.and_eq_true, beq_iff_eq] at hleft
  obtain ⟨⟨hevicted, hone⟩, hparts⟩ := hleft
  have hchan : u.sweep.NoChannels := fun p => by rw [State.part, hparts]; rfl
  have hcalm : f.Calm := by
    simp only [Prod.mk.injEq] at hfields
    obtain ⟨-, hstatus, -⟩ := hfields
    obtain ⟨hlevel, hcancel⟩ := hdetach rfl
    exact ⟨by simp [Foal.live, hstatus], hlevel, hcancel, (hslot ⟨0, by decide, rfl⟩).2⟩
  obtain ⟨hl2, hmem⟩ := State.sweep_memory_of_calm hothers hfoal hcalm hone hchan
  have hstale : (0#8 : Byte) = 1#8 := calc
    0#8 = u.sweep.homeByte staleByte := hevicted.symm
    _ = u.homeByte staleByte := State.homeByte_of_eq hl2 hmem _
    _ = 1#8 := (hhome staleByte).trans ringState_staleByte
  exact absurd hstale (by decide)

end

section
/-! Moving on from a state whose hart stands where it did, whatever its scalar registers and the tables hold now (O35, O38, O39). -/

namespace Sys2Proof.Machine

/-- From the first state to the second the issuing hart keeps its place and its vector registers, the other harts keep theirs,
and every byte of memory reads as it did. -/
structure HoldsPlace (s v : State) : Prop where
  place : ∃ rs b, v.ctx s.cur = { s.ctx s.cur with sregs := rs, scc := b }
  vregs : SameVregs s v
  others : SameOthers s v
  memory : SameMemory s v

@[simp] theorem State.done_wg (s : State) (h n g : Nat) (sw : Bool) : (s.done h n sw).wg g = s.wg g := by
  obtain ⟨_, _, e⟩ := s.done_rest h n sw
  rw [e]
  rfl

@[simp] theorem State.done_entity (s : State) (h n e : Nat) (sw : Bool) : (s.done h n sw).entity e = s.entity e := by
  obtain ⟨_, _, he⟩ := s.done_rest h n sw
  rw [he]
  rfl

@[simp] theorem State.done_foalAt (s : State) (h n k : Nat) (sw : Bool) : (s.done h n sw).foalAt k = s.foalAt k := by
  obtain ⟨_, _, e⟩ := s.done_rest h n sw
  rw [e]
  rfl

theorem SameMemory.trans {s u v : State} (h1 : SameMemory s u) (h2 : SameMemory u v) : SameMemory s v :=
  ⟨fun l => (h2.1 l).trans (h1.1 l), fun g o => (h2.2 g o).trans (h1.2 g o)⟩

namespace HoldsPlace

theorem of_eq {s v : State} (hc : v.ctxs = s.ctxs) (ht : v.teams = s.teams) (hv : v.vregs = s.vregs) (hm : SameMemory s v) :
    HoldsPlace s v := by
  have hctx : ∀ h, v.ctx h = s.ctx h := fun h => by rw [State.ctx, hc]; rfl
  have hvreg : ∀ h r, v.vreg h r = s.vreg h r := fun h r => by rw [State.vreg, hv]; rfl
  exact ⟨⟨_, _, hctx _⟩, fun r _ => hvreg _ r, fun h _ => ⟨hctx h, by rw [State.team, ht]; rfl, fun r _ => hvreg h r⟩, hm⟩

theorem refl (s : State) : HoldsPlace s s := .of_eq rfl rfl rfl (.of_eq rfl rfl rfl)

theorem trans {s u v : State} (hc : u.cur = s.cur) (h1 : HoldsPlace s u) (h2 : HoldsPlace u v) : HoldsPlace s v := by
  obtain ⟨⟨_, _, e1⟩, v1, o1, m1⟩ := h1
  obtain ⟨⟨_, _, e2⟩, v2, o2, m2⟩ := h2
  rw [hc] at e2
  refine ⟨⟨_, _, e2.trans (by rw [e1])⟩, fun r hr => ?_, fun h hh => ?_, m1.trans m2⟩
  · have := v2 r hr
    rw [hc] at this
    exact this.trans (v1 r hr)
  · obtain ⟨c1, t1, r1⟩ := o1 h hh
    obtain ⟨c2, t2, r2⟩ := o2 h (by rwa [hc])
    exact ⟨c2.trans c1, t2.trans t1, fun r hr => (r2 r hr).trans (r1 r hr)⟩

section
variable {s v : State} (hv : HoldsPlace s v)
include hv

theorem tables {u : State} (hc : u.ctxs = v.ctxs) (ht : u.teams = v.teams) (hr : u.vregs = v.vregs) (hl : u.l2 = v.l2)
    (hm : u.mem = v.mem) (hs : u.sp = v.sp) (hcur : v.cur = s.cur) : HoldsPlace s u :=
  hv.trans hcur (.of_eq hc ht hr (.of_eq hl hm hs))

theorem setCtx {c : Ctx} (hc : ∃ rs b, c = { v.ctx s.cur with sregs := rs, scc := b }) : HoldsPlace s (v.setCtx s.cur c) := by
  obtain ⟨⟨_, _, e⟩, hr, ho, hm⟩ := hv
  obtain ⟨_, _, rfl⟩ := hc
  exact ⟨⟨_, _, (State.ctx_setCtx ..).trans (by rw [e])⟩, hr,
    fun h hh => ⟨(State.ctx_setCtx_ne _ _ hh).trans (ho h hh).1, (ho h hh).2⟩, hm.trans (.of_eq rfl rfl rfl)⟩

theorem setSreg (d : SReg) (x : DWord) : HoldsPlace s (v.setSreg s.cur d x) := hv.setCtx ⟨_, _, rfl⟩

theorem setScc (b : Bool) : HoldsPlace s (v.setScc s.cur b) := hv.setCtx ⟨_, _, rfl⟩

theorem setTeam (t : Team) : HoldsPlace s (v.setTeam s.cur t) :=
  ⟨hv.place, hv.vregs,
    fun h hh => ⟨(hv.others h hh).1, (State.team_setTeam_ne _ _ hh).trans (hv.others h hh).2.1, (hv.others h hh).2.2⟩,
    hv.memory.trans (.of_eq rfl rfl rfl)⟩

theorem kind : (v.ctx s.cur).kind = (s.ctx s.cur).kind := by
  obtain ⟨_, _, e⟩ := hv.place
  rw [e]

/-- The instruction has executed: the hart moves past its words. -/
theorem done (n : Nat) (sw : Bool) : Passed s (v.done s.cur n sw) n sw ∧ SameVregs s (v.done s.cur n sw) ∧
    SameMemory s (v.done s.cur n sw) ∧ SameOthers s (v.done s.cur n sw) := by
  obtain ⟨⟨_, _, e⟩, hr, ho, hm⟩ := hv
  refine ⟨passed_done n sw (by rw [e]) (by rw [e]) (by rw [e]) (by rw [e]) (by rw [e]), fun r hlt => ?_, ?_, fun h hh => ⟨?_, ?_, fun r hlt => ?_⟩⟩
  · rw [State.done_vreg, hr r hlt]
  · obtain ⟨_, _, hd⟩ := v.done_rest s.cur n sw
    rw [hd]
    exact hm.trans (.of_eq rfl rfl rfl)
  · rw [State.done_ctx_ne _ n sw hh, (ho h hh).1]
  · rw [State.done_team_ne _ n sw hh, (ho h hh).2.1]
  · rw [State.done_vreg, (ho h hh).2.2 r hlt]

theorem teamIs (hk : (s.ctx s.cur).kind = .team) (n : Nat) (sw : Bool) :
    TeamIs s (v.done s.cur n sw) (v.team s.cur) := teamIs_done n sw (hv.kind.trans hk)

theorem sameTeam (ht : v.team s.cur = s.team s.cur) (n : Nat) (sw : Bool) : SameTeam s (v.done s.cur n sw) :=
  sameTeam_done n sw hv.kind ht

end

end HoldsPlace

end Sys2Proof.Machine
end

section
/-! Range tasks (O39): the midpoint of an interval, the interval that an idle workgroup takes, and the forms of RTASK (R225,
R330). -/

namespace Sys2Proof.Machine

/-! ### Intervals -/

/-- An interval of a launch: WGIX, holder, first and last end. -/
abbrev Interval := Nat × Holder × DWord × DWord

def Interval.len (x : Interval) : Nat := (x.2.2.2 - x.2.2.1).toNat

/-- The longest of a list, of lowest WGIX among equals. -/
def IsFirst (xs : List Interval) (x : Interval) : Prop :=
  x ∈ xs ∧ ∀ y ∈ xs, y = x ∨ y.len < x.len ∨ (y.len = x.len ∧ x.1 < y.1)

theorem longest_mem {xs : List Interval} {x : Interval} (h : longest xs = some x) : x ∈ xs := by
  induction xs generalizing x with
  | nil => cases h
  | cons z zs ih =>
    rw [longest] at h
    cases hl : longest zs with
    | none =>
      simp only [hl, Option.some.injEq] at h
      exact h ▸ List.mem_cons_self
    | some y =>
      simp only [hl, Option.some.injEq] at h
      split at h
      · exact h ▸ List.mem_cons_self
      · exact h ▸ List.mem_cons_of_mem _ (ih hl)

theorem longest_of_isFirst {xs : List Interval} {x : Interval} (h : IsFirst xs x) : longest xs = some x := by
  induction xs with
  | nil => cases h.1
  | cons z zs ih =>
    obtain ⟨hmem, hfirst⟩ := h
    by_cases hz : x ∈ zs
    · have hl := ih ⟨hz, fun y hy => hfirst y (List.mem_cons_of_mem _ hy)⟩
      rw [longest, hl]
      rcases hfirst z List.mem_cons_self with rfl | hlt | ⟨heq, hlt⟩
      · simp
      · unfold Interval.len at hlt
        simp only [Option.some.injEq, ite_eq_right_iff, Bool.or_eq_true, Bool.and_eq_true, decide_eq_true_eq, beq_iff_eq]
        omega
      · unfold Interval.len at heq
        simp only [Option.some.injEq, ite_eq_right_iff, Bool.or_eq_true, Bool.and_eq_true, decide_eq_true_eq, beq_iff_eq]
        omega
    · obtain rfl : x = z := (List.mem_cons.1 hmem).resolve_right hz
      rw [longest]
      cases hl : longest zs with
      | none => rfl
      | some y =>
        have hy := longest_mem hl
        simp only [Option.some.injEq, ite_eq_left_iff, Bool.or_eq_true, Bool.and_eq_true, decide_eq_true_eq, beq_iff_eq]
        rcases hfirst y (List.mem_cons_of_mem _ hy) with rfl | hlt | ⟨heq, hlt⟩
        · exact absurd hy hz
        · unfold Interval.len at hlt
          omega
        · unfold Interval.len at heq
          omega

theorem IsFirst.filter {xs : List Interval} {x : Interval} (h : IsFirst xs x) {p : Interval → Bool} (hp : p x = true) :
    IsFirst (xs.filter p) x :=
  ⟨List.mem_filter.2 ⟨h.1, hp⟩, fun y hy => h.2 y (List.mem_of_mem_filter hy)⟩

theorem toNat_sub_of_ends {lo hi : DWord} (h : lo.toNat ≤ hi.toNat) : (hi - lo).toNat = hi.toNat - lo.toNat :=
  BitVec.toNat_sub_of_le (BitVec.le_def.2 h)

/-- R225: the midpoint is a number of leaves above the lower end, and no more than half way up. -/
theorem toNat_rangeMid {lo hi : DWord} (leaf : Nat) (h : lo.toNat ≤ hi.toNat) :
    (rangeMid lo hi leaf).toNat = lo.toNat + leaf * ((hi.toNat - lo.toNat) / (2 * leaf)) ∧
      2 * (leaf * ((hi.toNat - lo.toNat) / (2 * leaf))) ≤ hi.toNat - lo.toNat := by
  have hle : 2 * (leaf * ((hi.toNat - lo.toNat) / (2 * leaf))) ≤ hi.toNat - lo.toNat := by
    rw [← Nat.mul_assoc]
    exact Nat.mul_div_le ..
  refine ⟨?_, hle⟩
  have hhi := hi.isLt
  rw [rangeMid, toNat_sub_of_ends h, BitVec.toNat_add, BitVec.toNat_ofNat, Nat.add_mod_mod]
  exact Nat.mod_eq_of_lt (by omega)

theorem rangeMid_eq_ofNat {lo hi : DWord} (leaf : Nat) (h : lo.toNat ≤ hi.toNat) :
    rangeMid lo hi leaf = BitVec.ofNat 64 (lo.toNat + leaf * ((hi.toNat - lo.toNat) / (2 * leaf))) := by
  rw [← (toNat_rangeMid leaf h).1, BitVec.ofNat_toNat, BitVec.setWidth_eq]

/-! ### A workgroup that takes work -/

section
variable (s : State) (g e : Nat) (r : LaunchRec) (leaf : Nat)

theorem State.cutInterval_rest (x : Holder) (hi : DWord) :
    ∃ ws es, s.cutInterval e r x hi = { s with wgs := ws, entities := es } := by
  cases x <;> exact ⟨_, _, rfl⟩

theorem State.steal_rest : ∃ ws es, s.steal g e r leaf = { s with wgs := ws, entities := es } := by
  unfold State.steal
  simp only
  split
  · rename_i x _
    obtain ⟨_, _, hc⟩ := s.cutInterval_rest e r x.2.1 (rangeMid x.2.2.1 x.2.2.2 leaf)
    rw [hc]
    exact ⟨_, _, rfl⟩
  · split <;> exact ⟨_, _, rfl⟩

/-- The spare intervals of a launch, which stand behind those of the workgroups (log 39). -/
def LaunchRec.spares (r : LaunchRec) : List Interval :=
  r.spare.zipIdx.map fun p => (2 ^ 32 + p.2, Holder.spare p.2, p.1.1, p.1.2)

/-- Every interval of a launch. -/
def State.allIntervals : List Interval := s.intervals e r ++ r.spares

variable {s g e r leaf}

/-- R225: the upper half of the longest interval of at least two leaves. -/
theorem State.steal_half {x : Interval} (hx : IsFirst (s.allIntervals e r) x) (hlen : 2 * leaf ≤ x.len) :
    s.steal g e r leaf =
      let u := s.cutInterval e r x.2.1 (rangeMid x.2.2.1 x.2.2.2 leaf)
      u.setWg g { u.wg g with lo := rangeMid x.2.2.1 x.2.2.2 leaf, hi := x.2.2.2 } := by
  have hl := longest_of_isFirst (hx.filter (p := fun y => decide (2 * leaf ≤ (y.2.2.2 - y.2.2.1).toNat)) (decide_eq_true hlen))
  unfold State.allIntervals LaunchRec.spares at hl
  unfold State.steal
  simp only [hl]

theorem longest_of_short (hshort : ∀ x ∈ s.allIntervals e r, x.len < 2 * leaf) :
    longest ((s.allIntervals e r).filter fun y => decide (2 * leaf ≤ (y.2.2.2 - y.2.2.1).toNat)) = none := by
  rw [List.filter_eq_nil_iff.2]
  · rfl
  · intro y hy
    have := hshort y hy
    unfold Interval.len at this
    simpa using this

/-- Where none is that long, the longest spare one, whole (log 39). -/
theorem State.steal_spare {x : Interval} (hshort : ∀ x ∈ s.allIntervals e r, x.len < 2 * leaf) (hx : IsFirst r.spares x) :
    s.steal g e r leaf =
      let u := s.setLaunch e { r with spare := r.spare.eraseIdx (x.1 - 2 ^ 32) }
      u.setWg g { u.wg g with lo := x.2.2.1, hi := x.2.2.2 } := by
  have hl := longest_of_short hshort
  have hs := longest_of_isFirst hx
  unfold State.allIntervals LaunchRec.spares at hl
  unfold LaunchRec.spares at hs
  unfold State.steal
  simp only [hl, hs]
  rfl

theorem State.steal_none (hshort : ∀ x ∈ s.allIntervals e r, x.len < 2 * leaf) (hr : r.spare = []) :
    s.steal g e r leaf = s := by
  have hl := longest_of_short hshort
  unfold State.allIntervals LaunchRec.spares at hl
  unfold State.steal
  simp only [hl]
  simp only [hr]
  rfl

end

/-! ### RTAKE -/

/-- RTAKE once the workgroup's interval is settled: the next leaf of it, or HI twice. -/
def State.takeLeaf (v : State) (g : Nat) (d : SReg) (top : DWord) (leaf : Nat) (sw : Bool) : State :=
  let w := v.wg g
  if w.lo < w.hi then
    let b := if (w.hi - w.lo).toNat ≤ leaf then w.hi else w.lo + BitVec.ofNat 64 leaf
    (((v.setWg g { w with lo := b }).setSreg v.cur d w.lo).setSreg v.cur (d + 1) b).done v.cur 1 sw
  else ((v.setSreg v.cur d top).setSreg v.cur (d + 1) top).done v.cur 1 sw

/-- What RTAKE leaves beside its two registers and the intervals. -/
structure TakesPair (s u : State) (d : SReg) (sw : Bool) : Prop where
  sregs : ∀ x, x ≠ d → x ≠ d + 1 → u.sreg s.cur x = s.sreg s.cur x
  scc : SameScc s u
  vregs : SameVregs s u
  team : SameTeam s u
  memory : SameMemory s u
  others : SameOthers s u
  passed : Passed s u 1 sw

theorem SReg.ne_succ (d : SReg) : d ≠ d + 1 := by
  revert d
  decide

/-- Only the intervals and the launches' records have changed. -/
def Splits (s v : State) : Prop := ∃ ws es, v = { s with wgs := ws, entities := es }

section
variable {s v : State} {d : SReg} (sw : Bool) {leaf : Nat}

theorem Splits.refl (s : State) : Splits s s := ⟨_, _, rfl⟩

theorem takesPair_done (hs : Splits s v) (a b : DWord) :
    let u := ((v.setSreg s.cur d a).setSreg s.cur (d + 1) b).done s.cur 1 sw
    u.sreg s.cur d = a ∧ u.sreg s.cur (d + 1) = b ∧ TakesPair s u d sw := by
  obtain ⟨ws, es, rfl⟩ := hs
  have hplace : HoldsPlace s { s with wgs := ws, entities := es } := .of_eq rfl rfl rfl (.of_eq rfl rfl rfl)
  have hboth := (hplace.setSreg d a).setSreg (d + 1) b
  obtain ⟨hpassed, hvregs, hmem, hothers⟩ := hboth.done 1 sw
  refine ⟨?_, ?_, fun x h1 h2 => ?_, ?_, hvregs, hboth.sameTeam rfl 1 sw, hmem, hothers, hpassed⟩
  · rw [sameSregs_done, State.sreg_setSreg_ne _ _ _ (SReg.ne_succ d), State.sreg_setSreg]
  · rw [sameSregs_done, State.sreg_setSreg]
  · rw [sameSregs_done, State.sreg_setSreg_ne _ _ _ h2, State.sreg_setSreg_ne _ _ _ h1]
    rfl
  · rw [SameScc, sameScc_done, State.ctx_setSreg, State.ctx_setSreg]
    rfl

theorem takeLeaf_leaf (hs : Splits s v) {g : Nat} (top : DWord) {a b : DWord}
    (hw : v.wg g = { s.wg g with lo := a, hi := b }) (hlt : a.toNat < b.toNat) :
    let u := v.takeLeaf g d top leaf sw
    u.sreg s.cur d = a ∧ (u.sreg s.cur (d + 1)).toNat = min (a.toNat + leaf) b.toNat ∧ TakesPair s u d sw ∧
      u.wg g = { s.wg g with lo := u.sreg s.cur (d + 1), hi := b } ∧ (∀ k, k ≠ g → u.wg k = v.wg k) ∧
      ∀ e, u.entity e = v.entity e := by
  have hcur : v.cur = s.cur := by
    obtain ⟨_, _, rfl⟩ := hs
    rfl
  have hif : (v.wg g).lo < (v.wg g).hi := by
    rw [hw]
    exact BitVec.lt_def.2 hlt
  unfold State.takeLeaf
  simp only [if_pos hif, hcur]
  generalize hc : (if ((v.wg g).hi - (v.wg g).lo).toNat ≤ leaf then (v.wg g).hi else (v.wg g).lo + BitVec.ofNat 64 leaf) = c
  have hlo : (v.wg g).lo = a := by rw [hw]
  have hcut : c.toNat = min (a.toNat + leaf) b.toNat := by
    have hb := b.isLt
    rw [hw] at hc
    simp only [toNat_sub_of_ends hlt.le] at hc
    subst hc
    split
    · omega
    · rw [BitVec.toNat_add, BitVec.toNat_ofNat, Nat.add_mod_mod]
      omega
  have hsplit : Splits s (v.setWg g { v.wg g with lo := c }) := by
    obtain ⟨_, _, rfl⟩ := hs
    exact ⟨_, _, rfl⟩
  obtain ⟨hfirst, hsecond, hpair⟩ := takesPair_done (d := d) sw hsplit (v.wg g).lo c
  refine ⟨hfirst.trans hlo, by rw [hsecond]; exact hcut, hpair, ?_, fun k hk => ?_, fun e => ?_⟩
  · rw [hsecond, State.done_wg]
    exact (State.wg_setWg ..).trans (by rw [hw])
  · rw [State.done_wg]
    exact State.wg_setWg_ne _ _ hk
  · rw [State.done_entity]
    rfl

theorem takeLeaf_empty {g : Nat} (top : DWord) (hle : (s.wg g).hi.toNat ≤ (s.wg g).lo.toNat) :
    let u := s.takeLeaf g d top leaf sw
    u.sreg s.cur d = top ∧ u.sreg s.cur (d + 1) = top ∧ TakesPair s u d sw ∧ u.wg g = s.wg g := by
  have hif : ¬(s.wg g).lo < (s.wg g).hi := by
    rw [BitVec.lt_def]
    omega
  unfold State.takeLeaf
  simp only [if_neg hif]
  obtain ⟨hfirst, hsecond, hpair⟩ := takesPair_done (d := d) sw (.refl s) top top
  exact ⟨hfirst, hsecond, hpair, State.done_wg ..⟩
end

/-! ### The forms -/

section
variable {s : State} (h : TeamRuns s [])
include h

/-- R225: outside a range launch there is no interval. -/
theorem rtaskOp_traps (hr : (s.wgOf s.cur).launch.range = none) (k : Nat → LaunchRec → DWord → DWord → Nat → Out) :
    TrapsTeam s (rtaskOp s k) .illegalOperand 0#1024 := by
  unfold rtaskOp
  rw [begin_team h rfl rfl]
  split
  · exact .of_raise h.1 ..
  · simp only [hr]
    exact .of_raise h.1 ..

variable {r : LaunchRec} {lo hi leaf : DWord} (he : (s.entity (s.wgOf s.cur).entity).launch = some r)
  (hr : (s.wgOf s.cur).launch.range = some (lo, hi, leaf))
include he hr

theorem rtaskOp_eq (k : Nat → LaunchRec → DWord → DWord → Nat → Out) : rtaskOp s k = k s.cur r lo hi leaf.toNat := by
  unfold rtaskOp
  rw [begin_team h rfl rfl]
  simp only [he, hr]

theorem execRtake_eq (sw : Bool) {d : SReg} (hd : d ≠ 63#6) :
    execRtake sw d s =
      let w := s.wgOf s.cur
      let v := if w.lo.toNat < w.hi.toNat ∨ s.det s.cur = true then s else s.steal (s.team s.cur).wg w.entity r leaf.toNat
      .next (v.takeLeaf (s.team s.cur).wg d hi leaf.toNat sw) := by
  have hd' : ¬(d.toNat == 63) = true := by
    rw [beq_iff_eq]
    exact fun hc => hd (BitVec.eq_of_toNat_eq hc)
  unfold execRtake
  rw [rtaskOp_eq h he hr]
  simp only [if_neg hd']
  generalize hv : (if (s.wgOf s.cur).lo.toNat < (s.wgOf s.cur).hi.toNat ∨ s.det s.cur = true then s
    else s.steal (s.team s.cur).wg (s.wgOf s.cur).entity r leaf.toNat) = v
  have hv' : (if (decide ((s.wg (s.team s.cur).wg).lo < (s.wg (s.team s.cur).wg).hi) || s.det s.cur) = true then s
      else s.steal (s.team s.cur).wg (s.wg (s.team s.cur).wg).entity r leaf.toNat) = v := by
    rw [← hv]
    simp only [Bool.or_eq_true, decide_eq_true_eq, BitVec.lt_def]
    rfl
  have hcur : v.cur = s.cur := by
    rw [← hv]
    split
    · rfl
    · obtain ⟨_, _, e⟩ := s.steal_rest (s.team s.cur).wg (s.wgOf s.cur).entity r leaf.toNat
      rw [e]
  simp only [hv', State.takeLeaf, hcur]
  split <;> rfl


theorem execRtake_last (sw : Bool) : TrapsTeam s (execRtake sw 63#6 s) .illegalOperand 0#1024 := by
  unfold execRtake
  rw [rtaskOp_eq h he hr]
  exact .of_raise h.1 ..

theorem execRsplit_eq (sw : Bool) (d : SReg) :
    let g := (s.team s.cur).wg
    let w := s.wg g
    let mid := rangeMid w.lo w.hi leaf.toNat
    execRsplit sw d s =
      if s.det s.cur = true ∨ (w.hi - w.lo).toNat < 2 * leaf.toNat then .next ((s.setSreg s.cur d w.hi).done s.cur 1 sw)
      else .next ((((s.setWg g { w with hi := mid }).setLaunch w.entity { r with spare := r.spare ++ [(mid, w.hi)] }).setSreg
        s.cur d mid).done s.cur 1 sw) := by
  unfold execRsplit
  rw [rtaskOp_eq h he hr]
  simp only [Bool.or_eq_true, decide_eq_true_eq]

theorem execRdone_eq (sw : Bool) (b : SReg) :
    let n := (s.sreg s.cur b).toNat
    execRdone sw b s =
      if (hi - lo).toNat < r.done + n then .next (s.raise s.cur .illegalOperand 1)
      else .next ((s.setLaunch (s.wgOf s.cur).entity { r with done := r.done + n }).done s.cur 1 sw) := by
  unfold execRdone
  rw [rtaskOp_eq h he hr]

end

theorem State.launch_setLaunch (s : State) (e : Nat) (r : LaunchRec) : ((s.setLaunch e r).entity e).launch = some r := by
  show (Store.get Entity.blank (Store.set Entity.blank s.entities e _) e).launch = _
  rw [Store.get_set_same]

section
variable {s : State} (h : TeamRuns s [])
include h

theorem rsplit_splits (sw : Bool) (d : SReg) {r : LaunchRec} {lo hi leaf : DWord}
    (he : (s.entity (s.wgOf s.cur).entity).launch = some r) (hr : (s.wgOf s.cur).launch.range = some (lo, hi, leaf)) :
    let g := (s.team s.cur).wg
    let w := s.wg g
    w.lo.toNat ≤ w.hi.toNat → s.det s.cur = false → 2 * leaf.toNat ≤ w.hi.toNat - w.lo.toNat →
    ∃ u, exec (.rsplit sw d) s = .next u ∧
      (u.sreg s.cur d).toNat = w.lo.toNat + leaf.toNat * ((w.hi.toNat - w.lo.toNat) / (2 * leaf.toNat)) ∧
      SameSregsBut d s u ∧ SameScc s u ∧ u.wg g = { w with hi := u.sreg s.cur d } ∧
      (u.entity w.entity).launch = some { r with spare := r.spare ++ [(u.sreg s.cur d, w.hi)] } ∧
      SameVregs s u ∧ SameTeam s u ∧ SameMemory s u ∧ SameOthers s u ∧ Passed s u 1 sw := by
  intro g w hle hdet hlen
  have hx : execRsplit sw d s = _ := execRsplit_eq h he hr sw d
  rw [if_neg (by
    rintro (hd | hlt)
    · rw [hdet] at hd
      cases hd
    · rw [toNat_sub_of_ends hle] at hlt
      omega)] at hx
  let v := (s.setWg g { w with hi := rangeMid w.lo w.hi leaf.toNat }).setLaunch w.entity
    { r with spare := r.spare ++ [(rangeMid w.lo w.hi leaf.toNat, w.hi)] }
  have hplace : HoldsPlace s v := .of_eq rfl rfl rfl (.of_eq rfl rfl rfl)
  have hwrite := hplace.setSreg d (rangeMid w.lo w.hi leaf.toNat)
  obtain ⟨hpassed, hvregs, hmem, hothers⟩ := hwrite.done 1 sw
  refine ⟨_, hx, ?_, fun x hne => ?_, ?_, ?_, ?_, hvregs, hwrite.sameTeam rfl 1 sw, hmem, hothers, hpassed⟩
  · rw [sameSregs_done, State.sreg_setSreg]
    exact (toNat_rangeMid _ hle).1
  · rw [sameSregs_done, State.sreg_setSreg_ne _ _ _ hne]
    rfl
  · rw [SameScc, sameScc_done, State.ctx_setSreg]
    rfl
  · rw [sameSregs_done, State.sreg_setSreg, State.done_wg]
    exact State.wg_setWg ..
  · rw [sameSregs_done, State.sreg_setSreg, State.done_entity]
    exact State.launch_setLaunch ..

end

/-! ### RTAKE by what it finds -/

section
variable {s : State} {e : Nat} {r : LaunchRec}

theorem State.wg_cutInterval (x : Holder) (hi : DWord) (g : Nat) :
    ∃ hi', (s.cutInterval e r x hi).wg g = { s.wg g with hi := hi' } := by
  cases x with
  | wg k =>
    by_cases hk : g = k
    · subst hk
      exact ⟨hi, State.wg_setWg ..⟩
    · exact ⟨(s.wg g).hi, State.wg_setWg_ne _ _ hk⟩
  | piece _ => exact ⟨(s.wg g).hi, rfl⟩
  | spare _ => exact ⟨(s.wg g).hi, rfl⟩

/-- The workgroup's own interval after it has taken one, the other ends moved before. -/
theorem State.wg_takes {v : State} {g : Nat} {hi' : DWord} (hv : v.wg g = { s.wg g with hi := hi' }) (a b : DWord) :
    (v.setWg g { v.wg g with lo := a, hi := b }).wg g = { s.wg g with lo := a, hi := b } := by
  rw [State.wg_setWg, hv]

/-- The outcome `o` is RTAKE's with the leaf of an interval from `a` to `b`, which becomes the workgroup's up to `z`. -/
def Takes (s u : State) (o : Out) (d : SReg) (leaf : Nat) (a b z : DWord) (sw : Bool) : Prop :=
  o = .next u ∧ u.sreg s.cur d = a ∧ (u.sreg s.cur (d + 1)).toNat = min (a.toNat + leaf) b.toNat ∧
    (∀ x, x ≠ d → x ≠ d + 1 → u.sreg s.cur x = s.sreg s.cur x) ∧
    u.wg (s.team s.cur).wg = { s.wg (s.team s.cur).wg with lo := u.sreg s.cur (d + 1), hi := z } ∧
    SameScc s u ∧ SameVregs s u ∧ SameTeam s u ∧ SameMemory s u ∧ SameOthers s u ∧ Passed s u 1 sw

/-- The outcome `o` is RTAKE's where there is nothing to take. -/
def TakesNothing (s : State) (o : Out) (d : SReg) (hi : DWord) (sw : Bool) : Prop :=
  ∃ u, o = .next u ∧ u.sreg s.cur d = hi ∧ u.sreg s.cur (d + 1) = hi ∧
    (∀ x, x ≠ d → x ≠ d + 1 → u.sreg s.cur x = s.sreg s.cur x) ∧ u.wg (s.team s.cur).wg = s.wg (s.team s.cur).wg ∧
    SameScc s u ∧ SameVregs s u ∧ SameTeam s u ∧ SameMemory s u ∧ SameOthers s u ∧ Passed s u 1 sw

variable {d : SReg} (sw : Bool) {leaf : Nat} {top : DWord} {o : Out}

theorem Takes.of_takeLeaf {v : State} {a b : DWord} (ho : o = .next (v.takeLeaf (s.team s.cur).wg d top leaf sw)) (hs : Splits s v)
    (hw : v.wg (s.team s.cur).wg = { s.wg (s.team s.cur).wg with lo := a, hi := b }) (hlt : a.toNat < b.toNat) :
    ∃ u, Takes s u o d leaf a b b sw ∧ (∀ k, k ≠ (s.team s.cur).wg → u.wg k = v.wg k) ∧ ∀ e, u.entity e = v.entity e := by
  obtain ⟨hfirst, hsecond, hpair, hwg, hwgs, hent⟩ := takeLeaf_leaf sw hs top hw hlt
  exact ⟨_, ⟨ho, hfirst, hsecond, hpair.sregs, hwg, hpair.scc, hpair.vregs, hpair.team, hpair.memory, hpair.others, hpair.passed⟩,
    hwgs, hent⟩

theorem TakesNothing.of_takeLeaf (ho : o = .next (s.takeLeaf (s.team s.cur).wg d top leaf sw))
    (hle : (s.wg (s.team s.cur).wg).hi.toNat ≤ (s.wg (s.team s.cur).wg).lo.toNat) : TakesNothing s o d top sw := by
  obtain ⟨hfirst, hsecond, hpair, hwg⟩ := takeLeaf_empty (d := d) (leaf := leaf) sw top hle
  exact ⟨_, ho, hfirst, hsecond, hpair.sregs, hwg, hpair.scc, hpair.vregs, hpair.team, hpair.memory, hpair.others, hpair.passed⟩

/-- R225, R330: it takes the upper half of the longest interval, and its holder keeps the lower. -/
theorem Takes.half {x : Interval} (ho : o = .next ((s.steal (s.team s.cur).wg e r leaf).takeLeaf (s.team s.cur).wg d top leaf sw))
    (hx : IsFirst (s.allIntervals e r) x) (hlen : 2 * leaf ≤ x.len) (hle : x.2.2.1.toNat ≤ x.2.2.2.toNat) (hpos : 0 < leaf) :
    let m := rangeMid x.2.2.1 x.2.2.2 leaf
    ∃ u, Takes s u o d leaf m x.2.2.2 x.2.2.2 sw ∧
      (∀ k, x.2.1 = .wg k → k ≠ (s.team s.cur).wg → u.wg k = { s.wg k with hi := m }) ∧
      (∀ i, x.2.1 = .piece i → (u.entity e).launch = some { r with pieces := r.pieces.modify i fun p => (p.1, m) }) ∧
      ∀ i, x.2.1 = .spare i → (u.entity e).launch = some { r with spare := r.spare.modify i fun p => (p.1, m) } := by
  intro m
  rw [State.steal_half hx hlen] at ho
  obtain ⟨hi', hwg⟩ := State.wg_cutInterval (s := s) (e := e) (r := r) x.2.1 m (s.team s.cur).wg
  have hsplit : Splits s ((s.cutInterval e r x.2.1 m).setWg (s.team s.cur).wg
      { (s.cutInterval e r x.2.1 m).wg (s.team s.cur).wg with lo := m, hi := x.2.2.2 }) := by
    obtain ⟨_, _, hc⟩ := s.cutInterval_rest e r x.2.1 m
    rw [hc]
    exact ⟨_, _, rfl⟩
  have hlt : m.toNat < x.2.2.2.toNat := by
    obtain ⟨hm, hhalf⟩ := toNat_rangeMid leaf hle
    rw [Interval.len, toNat_sub_of_ends hle] at hlen
    show (rangeMid x.2.2.1 x.2.2.2 leaf).toNat < _
    omega
  obtain ⟨u, hu, hwgs, hent⟩ := Takes.of_takeLeaf sw ho hsplit (State.wg_takes hwg _ _) hlt
  refine ⟨u, hu, fun k hk hne => ?_, fun i hi => ?_, fun i hi => ?_⟩
  · rw [hwgs k hne, State.wg_setWg_ne _ _ hne, hk]
    exact State.wg_setWg ..
  · rw [hent, hi]
    exact State.launch_setLaunch ..
  · rw [hent, hi]
    exact State.launch_setLaunch ..

/-- Log 39: or the longest spare one, whole. -/
theorem Takes.spare {x : Interval} (ho : o = .next ((s.steal (s.team s.cur).wg e r leaf).takeLeaf (s.team s.cur).wg d top leaf sw))
    (hshort : ∀ y ∈ s.allIntervals e r, y.len < 2 * leaf) (hx : IsFirst r.spares x) (hlt : x.2.2.1.toNat < x.2.2.2.toNat) :
    ∃ u, Takes s u o d leaf x.2.2.1 x.2.2.2 x.2.2.2 sw ∧
      ∀ i, x.2.1 = .spare i → (u.entity e).launch = some { r with spare := r.spare.eraseIdx i } := by
  rw [State.steal_spare hshort hx] at ho
  have hsplit : Splits s ((s.setLaunch e { r with spare := r.spare.eraseIdx (x.1 - 2 ^ 32) }).setWg (s.team s.cur).wg
      { s.wg (s.team s.cur).wg with lo := x.2.2.1, hi := x.2.2.2 }) := ⟨_, _, rfl⟩
  obtain ⟨u, hu, -, hent⟩ := Takes.of_takeLeaf sw ho hsplit (State.wg_setWg ..) hlt
  refine ⟨u, hu, fun i hi => ?_⟩
  have hnum : x.1 - 2 ^ 32 = i := by
    obtain ⟨p, -, rfl⟩ := List.mem_map.1 hx.1
    cases hi
    exact Nat.add_sub_cancel_left ..
  rw [hent, ← hnum]
  exact State.launch_setLaunch ..

end

end Sys2Proof.Machine

open Sys2Proof Sys2Proof.Machine

/-- Settles O39: RTAKE by the interval that it finds, RSPLIT at the midpoint, RDONE by what the launch still has to report. -/
theorem rangeTasksAreTakenAndSplit : Obligations.RangeTasksAreTakenAndSplit := by
  unfold Obligations.RangeTasksAreTakenAndSplit
  intro s sw d b h hart g w
  refine ⟨fun hr i hi => ?_, ?_⟩
  · simp only [List.mem_cons, List.not_mem_nil, or_false] at hi
    rcases hi with rfl | rfl | rfl
    · exact (rtaskOp_traps h hr _ : TrapsTeam s (execRtake sw d s) _ _)
    · exact (rtaskOp_traps h hr _ : TrapsTeam s (execRsplit sw d s) _ _)
    · exact (rtaskOp_traps h hr _ : TrapsTeam s (execRdone sw b s) _ _)
  intro lo hi leaf r hr he mid
  refine ⟨?_, fun hd hlt => ?_, fun hd hle hdet => ?_, ?_, fun hle hwhole => ?_, fun hle hdet hlen => ?_, fun hle hdone => ?_,
    fun hle hdone => ?_⟩
  · rintro rfl
    exact execRtake_last h he hr sw
  · have hx : execRtake sw d s = _ := execRtake_eq h he hr sw hd
    simp only at hx
    rw [if_pos (.inl hlt)] at hx
    obtain ⟨u, ⟨hnext, hfirst, hsecond, hregs, hwg, hrest⟩, -⟩ := Takes.of_takeLeaf sw hx (.refl s) rfl hlt
    exact ⟨u, hnext, hfirst, hsecond, hregs, hwg, hrest⟩
  · have hx : execRtake sw d s = _ := execRtake_eq h he hr sw hd
    simp only at hx
    rw [if_pos (.inr hdet)] at hx
    exact TakesNothing.of_takeLeaf sw hx hle
  · intro hd hempty hdet hpos spares all long first takes
    have hx : execRtake sw d s = _ := execRtake_eq h he hr sw hd
    simp only at hx
    rw [if_neg (by
      rintro (hlt | hdet')
      · exact absurd hlt (by rw [show (s.wgOf s.cur).hi = (s.wgOf s.cur).lo from hempty]; exact Nat.lt_irrefl _)
      · exact Bool.false_ne_true (hdet.symm.trans hdet'))] at hx
    refine ⟨fun x hfirst hlen hle => ?_, fun hshort x hfirst hlt => Takes.spare sw hx hshort hfirst hlt, fun hshort hnone => ?_⟩
    · rw [← rangeMid_eq_ofNat leaf.toNat hle]
      exact Takes.half sw hx hfirst hlen hle hpos
    · have hnothing : s.steal (s.team s.cur).wg (s.wgOf s.cur).entity r leaf.toNat = s := State.steal_none hshort hnone
      rw [hnothing] at hx
      exact TakesNothing.of_takeLeaf sw hx (congrArg BitVec.toNat hempty).le
  · have hx : execRsplit sw d s = _ := execRsplit_eq h he hr sw d
    rw [if_pos (hwhole.imp_right fun hlt => by rwa [toNat_sub_of_ends hle])] at hx
    show WritesSreg s (execRsplit sw d s) d w.hi 1 sw
    rw [hx]
    exact writesSreg_done ..
  · exact rsplit_splits h sw d he hr hle hdet hlen
  · have hx : execRdone sw b s = _ := execRdone_eq h he hr sw b
    rw [if_neg (by rw [toNat_sub_of_ends hle]; exact Nat.not_lt.2 hdone)] at hx
    have hplace : HoldsPlace s (s.setLaunch w.entity { r with done := r.done + (s.sreg s.cur b).toNat }) :=
      .of_eq rfl rfl rfl (.of_eq rfl rfl rfl)
    obtain ⟨hpassed, hvregs, hmem, hothers⟩ := hplace.done 1 sw
    refine ⟨_, hx, ?_, fun x => ?_, ?_, hvregs, hplace.sameTeam rfl 1 sw, hmem, hothers, hpassed⟩
    · rw [State.done_entity]
      exact State.launch_setLaunch ..
    · rw [sameSregs_done]
      rfl
    · rw [SameScc, sameScc_done]
      rfl
  · have hx : execRdone sw b s = _ := execRdone_eq h he hr sw b
    rw [if_pos (by rwa [toNat_sub_of_ends hle])] at hx
    show TrapsTeam s (execRdone sw b s) _ _
    rw [hx]
    exact .of_raise h.1 ..

end

section
/-! Foals that a team waits for (O35, R221): what FWAIT, FWAIT.T, FTEST and FWAITALL leave. -/

namespace Sys2Proof.Machine
open Sys2Proof.Claims

/-- A foal of the team's table after its FAULT has been returned (R117, R266). -/
def State.toldAt (s : State) (h : Nat) (tok : DWord) (k : Nat) : Option Foal :=
  match s.resolve h tok with
  | some (j, f) => if k = j ∧ f.status = .fault then some { f with told := true } else s.foalAt k
  | none => s.foalAt k

theorem State.tell_rest (s : State) (h : Nat) (tok : DWord) : ∃ fs, s.tell h tok = { s with foals := fs } := by
  unfold State.tell
  split
  · exact ⟨_, rfl⟩
  · split <;> exact ⟨_, rfl⟩

theorem State.foalAt_putFoal (s : State) (k : Nat) (f : Foal) : (s.putFoal k f).foalAt k = some f := Store.find_put_same

theorem State.foalAt_putFoal_ne (s : State) {j k : Nat} (f : Foal) (h : j ≠ k) : (s.putFoal k f).foalAt j = s.foalAt j :=
  Store.find_put_other h

theorem State.tell_foalAt (s : State) (h : Nat) (tok : DWord) (k : Nat) : (s.tell h tok).foalAt k = s.toldAt h tok k := by
  unfold State.tell State.toldAt
  cases s.resolve h tok with
  | none => rfl
  | some e =>
    obtain ⟨j, f⟩ := e
    by_cases hf : f.status = .fault
    · by_cases hk : k = j
      · subst hk
        simp [hf, State.foalAt_putFoal]
      · simp [hf, hk, State.foalAt_putFoal_ne]
    · simp [hf]

/-- The token names a foal that is running or frozen. -/
theorem State.foalWait_live {s : State} {h : Nat} {tok : DWord} {k : Nat} {f : Foal} (hr : s.resolve h tok = some (k, f))
    (hf : f.live = true) : s.foalWait h tok = some (s.park h (.foal (k % 256) f.gen.toNat)) := by
  simp only [State.foalWait, hr, hf, if_true]

theorem State.foalWait_ended {s : State} {h : Nat} {tok : DWord} (he : ∀ e, s.resolve h tok = some e → e.2.live = false) :
    s.foalWait h tok = none := by
  unfold State.foalWait
  split
  · rfl
  · rename_i k f hr
    simp [he _ hr]

/-- s[D] holds the answer, and the other registers, vector registers, harts and bytes are as they were. -/
def Answers (s u : State) (d : SReg) (x : DWord) : Prop :=
  u.sreg s.cur d = x ∧ SameSregsBut d s u ∧ SameVregs s u ∧ SameMemory s u ∧ SameOthers s u

/-- An answer in s[D], and the hart moves on. -/
theorem HoldsPlace.answers {s v : State} (hv : HoldsPlace s v) {d : SReg} {x : DWord} (hx : v.sreg s.cur d = x)
    (hregs : SameSregsBut d s v) (n : Nat) (sw : Bool) : Answers s (v.done s.cur n sw) d x := by
  obtain ⟨-, hvregs, hmem, hothers⟩ := hv.done n sw
  exact ⟨(sameSregs_done ..).trans hx, fun r hr => (sameSregs_done ..).trans (hregs r hr), hvregs, hmem, hothers⟩

/-- The issuing team stands trapped at its instruction, with `code` and the address `a` in its record (R53, R370). -/
def TrapsAt (s u : State) (code : TrapCode) (a : DWord) : Prop :=
  (u.ctx s.cur).status = .trapped ∧ (u.ctx s.cur).pc = (s.ctx s.cur).pc ∧ (u.ctx s.cur).widx = (s.ctx s.cur).widx ∧
    ∃ r, (u.team s.cur).trap = some r ∧ r.code = code ∧ r.addr = a

/-- An answer in s[D], and the instruction traps. -/
theorem HoldsPlace.traps {s v : State} (hv : HoldsPlace s v) (hk : (v.ctx s.cur).kind = .team) {d : SReg} {x : DWord}
    (hx : v.sreg s.cur d = x) (hregs : SameSregsBut d s v) (code : TrapCode) (n : Nat) (a : DWord) :
    ∃ u, v.raiseAt s.cur code n a 0#1024 false = u ∧ Answers s u d x ∧ u.foals = v.foals ∧ TrapsAt s u code a := by
  obtain ⟨⟨_, _, hctx⟩, hvregs, hothers, hmem⟩ := hv
  obtain ⟨r, hraise, hcode, haddr⟩ :
      ∃ r, v.raiseAt s.cur code n a 0#1024 false = v.teamTrap s.cur r ∧ r.code = code ∧ r.addr = a := by
    unfold State.raiseAt
    simp only [hk]
    exact ⟨_, rfl, rfl, rfl⟩
  have hsreg : ∀ j, (v.teamTrap s.cur r).sreg s.cur j = v.sreg s.cur j := fun j => by
    rw [State.sreg, teamTrap_ctx]
    rfl
  refine ⟨_, hraise, ⟨(hsreg d).trans hx, fun j hne => (hsreg j).trans (hregs j hne), hvregs, hmem.trans (.of_eq rfl rfl rfl),
    fun k hne => ?_⟩, rfl, ?_, ?_, ?_, trapRecord v s.cur r, ?_, hcode, haddr⟩
  · obtain ⟨hc, ht, -⟩ := HartsStay.teamTrap v s.cur r k hne
    obtain ⟨hc', ht', hr'⟩ := hothers k hne
    exact ⟨hc.trans hc', ht.trans ht', hr'⟩
  · rw [teamTrap_ctx]
  · rw [teamTrap_ctx, hctx]
  · rw [teamTrap_ctx, hctx]
  · rw [teamTrap_team]

section
variable (s : State) (tok : DWord) (d : SReg)

/-- The fault told and the answer written, before the hart moves on. -/
def State.told (x : DWord) : State := (s.tell s.cur tok).setSreg s.cur d x

theorem State.told_place (x : DWord) : HoldsPlace s (s.told tok d x) := by
  unfold State.told
  refine HoldsPlace.setSreg ?_ d x
  obtain ⟨_, e⟩ := s.tell_rest s.cur tok
  rw [e]
  exact .of_eq rfl rfl rfl (.of_eq rfl rfl rfl)

theorem State.told_cur (x : DWord) : (s.told tok d x).cur = s.cur := by
  obtain ⟨_, e⟩ := s.tell_rest s.cur tok
  simp only [State.told, e]
  rfl

theorem State.told_sreg (x : DWord) : (s.told tok d x).sreg s.cur d = x := State.sreg_setSreg ..

theorem State.told_sregs (x : DWord) : SameSregsBut d s (s.told tok d x) := by
  obtain ⟨_, e⟩ := s.tell_rest s.cur tok
  intro r hr
  rw [State.told, State.sreg_setSreg_ne _ _ _ hr, e]
  rfl

theorem State.told_scc (x : DWord) : SameScc s (s.told tok d x) := by
  obtain ⟨_, e⟩ := s.tell_rest s.cur tok
  rw [SameScc, State.told, State.ctx_setSreg, e]
  rfl

theorem State.told_team (x : DWord) : (s.told tok d x).team s.cur = s.team s.cur := by
  obtain ⟨_, e⟩ := s.tell_rest s.cur tok
  rw [State.told, State.team_setSreg, e]
  rfl

theorem State.told_wgOf (x : DWord) : (s.told tok d x).wgOf s.cur = s.wgOf s.cur := by
  obtain ⟨_, e⟩ := s.tell_rest s.cur tok
  rw [State.told, e]
  rfl

theorem State.told_foalAt (x : DWord) (k : Nat) : (s.told tok d x).foalAt k = s.toldAt s.cur tok k := s.tell_foalAt ..

end

/-- A team's record with its watchdog loaded afresh (R375). -/
def State.watchLoaded (s : State) (h : Nat) : Team := { s.team h with wdleft := 2 ^ (s.wgOf h).launch.wdlim }

theorem State.watch_team (s : State) (h : Nat) :
    (s.watch h).team h = s.watchLoaded h := State.team_setTeam ..

section
variable {s : State} {tok : DWord} {x : DWord} (d : SReg) (sw : Bool)

/-- The status has been answered: `u` is the state told, with the watchdog loaded, moved on. -/
theorem told_answers (hk : (s.ctx s.cur).kind = .team) :
    let u := ((s.told tok d x).watch s.cur).done s.cur 1 sw
    Answers s u d x ∧ SameScc s u ∧ (∀ k, u.foalAt k = s.toldAt s.cur tok k) ∧
      TeamIs s u (s.watchLoaded s.cur) ∧ Passed s u 1 sw := by
  have hplace : HoldsPlace s ((s.told tok d x).watch s.cur) := (s.told_place tok d x).setTeam _
  have hteam : ((s.told tok d x).watch s.cur).team s.cur = s.watchLoaded s.cur := by
    rw [State.watch_team, State.watchLoaded, State.told_team, State.told_wgOf]
    rfl
  refine ⟨hplace.answers (s.told_sreg tok d x) (s.told_sregs tok d x) 1 sw, ?_, fun k => ?_, ?_, (hplace.done 1 sw).1⟩
  · rw [SameScc, sameScc_done]
    exact s.told_scc tok d x
  · rw [State.done_foalAt]
    exact s.told_foalAt tok d x k
  · exact hteam ▸ hplace.teamIs hk 1 sw

/-- The same, where FWAIT.T traps in place of moving on. -/
theorem told_traps (hk : (s.ctx s.cur).kind = .team) (code : TrapCode) :
    ∃ u, ((s.told tok d x).watch s.cur).raiseAt s.cur code 1 tok 0#1024 false = u ∧ Answers s u d x ∧
      (∀ k, u.foalAt k = s.toldAt s.cur tok k) ∧ TrapsAt s u code tok := by
  have hplace : HoldsPlace s ((s.told tok d x).watch s.cur) := (s.told_place tok d x).setTeam _
  obtain ⟨u, hu, hans, hfoals, htrap⟩ :=
    hplace.traps (hplace.kind.trans hk) (s.told_sreg tok d x) (s.told_sregs tok d x) code 1 tok
  refine ⟨u, hu, hans, fun k => ?_, htrap⟩
  rw [State.foalAt, hfoals]
  exact s.told_foalAt tok d x k

/-- FTEST answers at once, with scc. -/
theorem told_tests (hk : (s.ctx s.cur).kind = .team) (b : Bool) :
    let u := ((s.told tok d x).setScc s.cur b).done s.cur 1 sw
    Answers s u d x ∧ (u.ctx s.cur).scc = b ∧ (∀ k, u.foalAt k = s.toldAt s.cur tok k) ∧
      TeamIs s u (s.team s.cur) ∧ Passed s u 1 sw := by
  have hplace := (s.told_place tok d x).setScc b
  have hsreg : ∀ r, ((s.told tok d x).setScc s.cur b).sreg s.cur r = (s.told tok d x).sreg s.cur r := fun r => by
    rw [State.sreg, State.ctx_setScc]
    rfl
  have hteam : ((s.told tok d x).setScc s.cur b).team s.cur = s.team s.cur := s.told_team tok d x
  refine ⟨hplace.answers ((hsreg d).trans (s.told_sreg tok d x)) (fun r hr => (hsreg r).trans (s.told_sregs tok d x r hr)) 1 sw,
    ?_, fun k => ?_, ?_, (hplace.done 1 sw).1⟩
  · rw [sameScc_done, State.ctx_setScc]
  · rw [State.done_foalAt]
    exact s.told_foalAt tok d x k
  · exact hteam ▸ hplace.teamIs hk 1 sw

end

/-! ### The forms -/

section
variable {s : State} (h : TeamRuns s []) (sw : Bool) (d b : SReg)
include h

theorem fwaitOp_live (trap : Bool) {k : Nat} {f : Foal} (hr : s.resolve s.cur (s.sreg s.cur b) = some (k, f)) (hf : f.live = true) :
    fwaitOp trap sw d b s = .next (s.park s.cur (.foal (k % 256) f.gen.toNat)) := by
  unfold fwaitOp
  rw [begin_team h rfl rfl]
  simp only [State.foalWait_live hr hf]

theorem fwaitOp_ended (trap : Bool) (he : ∀ e, s.resolve s.cur (s.sreg s.cur b) = some e → e.2.live = false) :
    fwaitOp trap sw d b s =
      let tok := s.sreg s.cur b
      let st := (s.tokenStatus s.cur tok).1
      let v := (s.told tok d (BitVec.ofNat 64 st)).watch s.cur
      if (trap && st == 2) = true then .next (v.raiseAt s.cur .foalFault 1 tok 0#1024 false) else .next (v.done s.cur 1 sw) := by
  unfold fwaitOp
  rw [begin_team h rfl rfl]
  simp only [State.foalWait_ended he]
  rfl

theorem execFtest_eq (hn : s.det s.cur = false ∨ ∀ e, s.resolve s.cur (s.sreg s.cur b) = some e → e.2.live = false) :
    execFtest sw d b s =
      let tok := s.sreg s.cur b
      let st := (s.tokenStatus s.cur tok).1
      let x := if st = 5 then 0 else st
      .next (((s.told tok d (BitVec.ofNat 64 x)).setScc s.cur (x != 0)).done s.cur 1 sw) := by
  have hwait : (if s.det s.cur then s.foalWait s.cur (s.sreg s.cur b) else none) = none := by
    rcases hn with hdet | he
    · simp [hdet]
    · simp [State.foalWait_ended he]
  unfold execFtest
  rw [begin_team h rfl rfl]
  simp only [hwait, beq_iff_eq]
  rfl

theorem execFwaitall_live (hl : ∃ e ∈ s.attachedOf s.cur, e.2.live = true) :
    execFwaitall sw d s = .next (s.park s.cur .allFoals) := by
  unfold execFwaitall
  rw [begin_team h rfl rfl]
  simp only [List.any_eq_true.2 hl, if_true]

theorem execFwaitall_ended (hl : ∀ e ∈ s.attachedOf s.cur, e.2.live = false) :
    execFwaitall sw d s = .next (((s.setSreg s.cur d
      (BitVec.ofNat 64 ((s.attachedOf s.cur).filter fun e => e.2.status == .fault).length)).watch s.cur).done s.cur 1 sw) := by
  have hnone : ((s.attachedOf s.cur).any fun e => e.2.live) = false := by simpa using hl
  unfold execFwaitall
  rw [begin_team h rfl rfl]
  simp only [hnone, Bool.false_eq_true, if_false]

end
end Sys2Proof.Machine
end

section
/-! A new foal (O35): the slot that it takes, what it is given, and the token that names it (R220, R251-R253). -/

namespace Sys2Proof.Machine

/-! ### The slot -/

theorem oldestFoal_eq_none {l : List (Nat × Foal)} (h : oldestFoal l = none) : l = [] := by
  cases l with
  | nil => rfl
  | cons e r =>
    rw [oldestFoal] at h
    split at h <;> cases h

theorem oldestFoal_mem {l : List (Nat × Foal)} {e : Nat × Foal} (h : oldestFoal l = some e) : e ∈ l := by
  induction l generalizing e with
  | nil => cases h
  | cons a r ih =>
    rw [oldestFoal] at h
    cases hr : oldestFoal r with
    | none =>
      simp only [hr, Option.some.injEq] at h
      exact h ▸ List.mem_cons_self
    | some x =>
      simp only [hr, Option.some.injEq] at h
      split at h
      · exact h ▸ List.mem_cons_of_mem _ (ih hr)
      · exact h ▸ List.mem_cons_self

/-- A core of which no slot is free has a foal for each of the 256. -/
theorem State.foalsOn_length {s : State} {core : Nat} (h : ∀ n < 256, (s.foalAt (foalKey core n)).isSome) :
    256 ≤ (s.foalsOn core).length := by
  have hsub : ((List.range 256).map (foalKey core)) ⊆ (s.foalsOn core).map (·.1) := by
    intro k hk
    obtain ⟨n, hn, rfl⟩ := List.mem_map.1 hk
    have hlt := List.mem_range.1 hn
    obtain ⟨f, hf⟩ := Option.isSome_iff_exists.1 (h n hlt)
    refine List.mem_map.2 ⟨_, List.mem_filter.2 ⟨Store.mem_of_find hf, ?_⟩, rfl⟩
    rw [foalKey, beq_iff_eq]
    omega
  have hnodup : ((List.range 256).map (foalKey core)).Nodup :=
    List.nodup_range.map fun a b hab => by
      rw [foalKey, foalKey] at hab
      omega
  simpa using (List.subperm_of_subset hnodup hsub).length_le

/-- Only the foal table and its generations have changed. -/
def Slots (s u : State) : Prop := ∃ fs gs, u = { s with foals := fs, foalGens := gs }

/-- R220, R252: where there is room, a slot of the core is taken. -/
theorem State.takeSlot_spec {s : State} {core : Nat} (wg : Nat) (h : 0 < s.slotRoom core) :
    ∃ u k, s.takeSlot core wg = some (u, k) ∧ k / 256 = core ∧ Slots s u := by
  unfold State.takeSlot
  cases hf : (List.range 256).find? fun n => (s.foalAt (foalKey core n)).isNone with
  | some n =>
    have hn := List.mem_range.1 (List.mem_of_find?_eq_some hf)
    refine ⟨_, _, rfl, ?_, _, _, rfl⟩
    rw [foalKey]
    omega
  | none =>
    simp only
    have hfull : ∀ n < 256, (s.foalAt (foalKey core n)).isSome := fun n hn => by
      simpa [Option.isSome_iff_ne_none] using List.find?_eq_none.1 hf n (List.mem_range.2 hn)
    have hlen := s.foalsOn_length hfull
    have hon : ∀ e ∈ s.foalsOn core, e.1 / 256 = core := fun e he => by simpa using (List.mem_filter.1 he).2
    split
    · rename_i e he
      exact ⟨_, _, rfl, hon e (List.mem_of_mem_filter (List.mem_of_mem_filter (oldestFoal_mem he))), _, _, rfl⟩
    · cases hold : oldestFoal ((s.foalsOn core).filter fun e => e.2.reclaimable) with
      | some e => exact ⟨_, _, rfl, hon e (List.mem_of_mem_filter (oldestFoal_mem hold)), _, _, rfl⟩
      | none =>
        have hnone := List.filter_eq_nil_iff.1 (oldestFoal_eq_none hold)
        have hall : ((s.foalsOn core).filter fun e => !e.2.reclaimable) = s.foalsOn core :=
          List.filter_eq_self.2 fun e he => by simpa using hnone e he
        rw [State.slotRoom, hall] at h
        omega

theorem State.slotRoom_of_foalRoom {s : State} {h : Nat} {k : FoalKind} (hr : s.foalRoom h k = true) :
    0 < s.slotRoom (s.coreOf h) := by
  simp only [State.foalRoom, Bool.and_eq_true, decide_eq_true_eq] at hr
  omega

/-! ### The foal -/

theorem State.flipToEngine_coreOf (s : State) (g : Nat) (ps : List Nat) (h : Nat) : (s.flipToEngine g ps).coreOf h = s.coreOf h := by
  show ((s.flipToEngine g ps).wg (s.team h).wg).core = (s.wg (s.team h).wg).core
  unfold State.flipToEngine
  by_cases hg : (s.team h).wg = g
  · rw [hg, State.wg_setWg]
  · rw [State.wg_setWg_ne _ _ hg]

/-- R251-R253: what a foal that stays attached is given; the state changes in the foal table, the core's queue and the
workgroup's pages. -/
theorem State.createFoal_spec {s : State} {h : Nat} {n : NewFoal} (hr : s.foalRoom h n.kind = true) (hd : n.detach = false) :
    ∃ u k f, s.createFoal h n = (u, f.token (k % 256)) ∧ k / 256 = s.coreOf h ∧ u.foalAt k = some f ∧ u.slotGen k = f.gen ∧
      (f.kind, f.status, f.team, f.job, f.wg) = (n.kind, .running, h, n.job, (s.team h).wg) ∧ u.coreOf h = s.coreOf h ∧
      ∃ fs gs cs ws m, u = { s with foals := fs, foalGens := gs, cores := cs, wgs := ws, nextId := m } := by
  obtain ⟨v, k, hslot, hk, fs, gs, rfl⟩ := State.takeSlot_spec (s.team h).wg (State.slotRoom_of_foalRoom hr)
  unfold State.createFoal
  simp only [hslot, hd, Bool.false_eq_true, if_false]
  exact ⟨_, k, _, rfl, hk, Store.find_put_same, rfl, rfl, State.flipToEngine_coreOf .., _, _, _, _, _, rfl⟩

/-! ### The token -/

theorem FoalKind.code_lt (k : FoalKind) : k.code < 4 := by
  cases k <;> decide

theorem Foal.toNat_token (f : Foal) {slot : Nat} (h : slot < 256) :
    (f.token slot).toNat = slot + 2 ^ 8 * f.gen.toNat + 2 ^ 20 * f.kind.code := by
  have hgen := f.gen.isLt
  have hkind := f.kind.code_lt
  rw [Foal.token, BitVec.toNat_ofNat, Nat.mod_eq_of_lt (by omega)]

/-- R220, R253: the token of a foal names it to its workgroup. -/
theorem State.resolve_token {s : State} {h k : Nat} {f : Foal} (hf : s.foalAt k = some f) (hg : s.slotGen k = f.gen)
    (hw : f.wg = (s.team h).wg) (hc : k / 256 = s.coreOf h) : s.resolve h (f.token (k % 256)) = some (k, f) := by
  have hgen := f.gen.isLt
  have hkind := f.kind.code_lt
  have htok := f.toNat_token (Nat.mod_lt k (by decide : 256 > 0))
  have hhigh : (f.token (k % 256)).extractLsb' 24 8 = 0#8 := BitVec.eq_of_toNat_eq (by
    rw [BitVec.extractLsb'_toNat, htok, Nat.shiftRight_eq_div_pow]
    show _ = 0
    omega)
  have hcode : ((f.token (k % 256)).extractLsb' 20 4).toNat = f.kind.code := by
    rw [BitVec.extractLsb'_toNat, htok, Nat.shiftRight_eq_div_pow]
    omega
  have hslot : ((f.token (k % 256)).extractLsb' 0 8).toNat = k % 256 := by
    rw [BitVec.extractLsb'_toNat, htok, Nat.shiftRight_eq_div_pow]
    omega
  have hmid : (f.token (k % 256)).extractLsb' 8 12 = f.gen := BitVec.eq_of_toNat_eq (by
    rw [BitVec.extractLsb'_toNat, htok, Nat.shiftRight_eq_div_pow]
    omega)
  have hkey : foalKey (s.coreOf h) (k % 256) = k := by
    rw [foalKey]
    omega
  unfold State.resolve
  simp only [hhigh, hcode, hslot, hmid, hkey, hg, hf, hw]
  simp [Nat.not_le.2 hkind]

/-! ### LCSEAL -/

/-- A batch is sealed: its token is answered, and the next slot opens (R216). -/
def State.sealsAs (s : State) (h : Nat) (d : SReg) (tok : DWord) : State :=
  (s.setSreg h d tok).setTeam h { s.team h with openSlot := ((s.team h).openSlot + 1) % 4 }

section
variable {s : State} (h : TeamRuns s []) (sw : Bool) (d : SReg)
include h

/-- R216: the slot holds a sealed batch. -/
theorem execLcseal_parks (hs : s.sealedOpen s.cur = true) : execLcseal sw d s = .next (s.park s.cur .batch) := by
  unfold execLcseal
  rw [begin_team h rfl rfl]
  simp only [hs, if_true]

omit h in
/-- The token goes to s[D] and the next slot opens: the foal is still found. -/
theorem State.sealsAs_resolve {v : State} {k : Nat} {f : Foal} (hf : v.foalAt k = some f) (hg : v.slotGen k = f.gen)
    (hw : f.wg = (v.team s.cur).wg) (hc : k / 256 = v.coreOf s.cur) :
    (v.sealsAs s.cur d (f.token (k % 256))).resolve s.cur (f.token (k % 256)) = some (k, f) := by
  have hteam : ((v.sealsAs s.cur d (f.token (k % 256))).team s.cur).wg = (v.team s.cur).wg := by
    unfold State.sealsAs
    rw [State.team_setTeam]
  refine State.resolve_token hf hg (hw.trans hteam.symm) (hc.trans ?_)
  show (v.wg (v.team s.cur).wg).core = (v.wg ((v.sealsAs s.cur d (f.token (k % 256))).team s.cur).wg).core
  rw [hteam]

/-- R216, R253: the batch's foal, its token and the next slot. -/
theorem execLcseal_seals (hs : s.sealedOpen s.cur = false) (hr : s.foalRoom s.cur .lanebatch = true) :
    let t := s.team s.cur
    ∃ (u : State) (k : Nat) (f : Foal), execLcseal sw d s = .next ((u.batchEnd s.cur t.openSlot).done s.cur 1 sw) ∧
      u.foalAt k = some f ∧ k / 256 = s.coreOf s.cur ∧
      (f.kind, f.status, f.team, f.job) = (.lanebatch, .running, s.cur, .batch t.openSlot) ∧
      f.progress = (Store.get BatchSlot.blank t.slots t.openSlot).landed ∧
      u.sreg s.cur d = f.token (k % 256) ∧ SameSregsBut d s u ∧ u.team s.cur = { t with openSlot := (t.openSlot + 1) % 4 } := by
  intro t
  obtain ⟨v, k, f, hnew, hk, hf, hgen, hfields, hcore, fs, gs, cs, ws, m, hv⟩ :=
    State.createFoal_spec (n := ⟨.lanebatch, 0, 0, false, false, none, [], [], [], .batch (s.team s.cur).openSlot⟩) hr rfl
  simp only [Prod.mk.injEq] at hfields
  obtain ⟨hkind, hstatus, hteam, hjob, hwg⟩ := hfields
  have hregs : ∀ r, v.sreg s.cur r = s.sreg s.cur r := fun r => by rw [hv]; rfl
  have hvteam : v.team s.cur = s.team s.cur := by rw [hv]; rfl
  have hnamed := State.sealsAs_resolve d hf hgen (by rw [hvteam]; exact hwg) (hk.trans hcore.symm)
  refine ⟨(v.sealsAs s.cur d (f.token (k % 256))).putFoal k
      { f with progress := (Store.get BatchSlot.blank t.slots t.openSlot).landed }, k, _, ?_, State.foalAt_putFoal ..,
    hk, by simp only [hkind, hstatus, hteam, hjob, t], rfl, State.sreg_setSreg .., fun r hr => ?_, ?_⟩
  · unfold execLcseal
    rw [begin_team h rfl rfl]
    simp only [hs, hr, Bool.false_eq_true, if_false, Bool.not_true, hnew, State.team_setSreg]
    unfold State.sealsAs at hnamed
    rw [hvteam] at hnamed ⊢
    simp only [hnamed, State.team_setTeam]
    unfold State.sealsAs
    rw [hvteam]
  · exact (State.sreg_setSreg_ne _ _ _ hr).trans (hregs r)
  · exact (State.team_setTeam ..).trans (by rw [hvteam])

end

end Sys2Proof.Machine
end

section
/-! Foals that a team controls (O35, R222): what FCANCEL, FDETACH, FPRIO and FSTAT leave. -/

namespace Sys2Proof.Machine

/-- R220: a token names a foal of the table, of the team's workgroup. -/
theorem State.foalAt_of_resolve {s : State} {h : Nat} {tok : DWord} {k : Nat} {f : Foal} (hr : s.resolve h tok = some (k, f)) :
    s.foalAt k = some f ∧ f.wg = (s.team h).wg := by
  unfold State.resolve at hr
  split at hr
  · cases hr
  · simp only at hr
    split at hr
    · cases hr
    · split at hr
      · cases hr
      · rename_i g hg
        split at hr
        · rename_i hw
          obtain ⟨rfl, rfl⟩ : _ ∧ g = f := by simpa using hr
          exact ⟨hg, by simpa using hw⟩
        · cases hr

/-! ### Detaching -/

/-- The workgroup takes a foal that is detached: it has scratchpad operands, or the workgroup goes on (R260). -/
def State.TakenByWg (s : State) (f : Foal) : Prop :=
  f.hasScratch = true ∨ ((s.entity (s.wg f.wg).entity).cancelled = false ∧ s.liveTeams (s.wg f.wg) ≠ [])

/-- The state `u` holds the foal of key `k` detached, at the level that R260 gives it, its work as it was; the other foals
stay. -/
def Detached (s : State) (k : Nat) (f : Foal) (u : State) : Prop :=
  ∃ x, u.foalAt k = some x ∧ x.detached = true ∧
    (s.TakenByWg f → x.level = .workgroup) ∧
    x.job = f.job ∧ x.status = f.status ∧ ∀ j, j ≠ k → u.foalAt j = s.foalAt j

/-- A detached foal goes into the table, and its adopter counts it. -/
theorem Detached.of_put {s u : State} {k : Nat} {f x : Foal} (hu : u.foals = (s.putFoal k x).foals) (hd : x.detached = true)
    (hl : s.TakenByWg f → x.level = .workgroup)
    (hj : x.job = f.job) (hst : x.status = f.status) : Detached s k f u := by
  have hat : ∀ j, u.foalAt j = (s.putFoal k x).foalAt j := fun j => congrArg (Store.find j) hu
  exact ⟨x, (hat k).trans (State.foalAt_putFoal ..), hd, hl, hj, hst,
    fun j hne => (hat j).trans (State.foalAt_putFoal_ne _ _ hne)⟩

theorem State.detach_detached {s : State} {k : Nat} {f : Foal} (hf : s.foalAt k = some f) : Detached s k f (s.detach k) := by
  unfold State.detach
  simp only [hf]
  split
  · exact .of_put rfl rfl (fun _ => rfl) rfl rfl
  · rename_i hno
    have hnot : ¬s.TakenByWg f := by
      have hno : ¬(f.hasScratch || (!(s.entity (s.wg f.wg).entity).cancelled && !(s.liveTeams (s.wg f.wg)).isEmpty)) = true := hno
      simpa [State.TakenByWg] using hno
    split
    · exact .of_put rfl rfl (absurd · hnot) rfl rfl
    · unfold State.adoptByEntity
      simp only
      split
      · exact .of_put rfl rfl (absurd · hnot) rfl rfl
      · split
        · exact .of_put rfl rfl (absurd · hnot) rfl rfl
        · exact .of_put rfl rfl (absurd · hnot) rfl rfl

/-! ### The forms -/

section
variable {s : State} (h : TeamRuns s []) (sw : Bool) (d b : SReg)
include h

theorem execFcancel_none (hr : s.resolve s.cur (s.sreg s.cur b) = none) : execFcancel sw b s = .next (s.done s.cur 1 sw) := by
  unfold execFcancel
  rw [begin_team h rfl rfl]
  simp only [hr]

/-- R262: a cancel reaches a foal that has not ended. -/
theorem execFcancel_some {k : Nat} {f : Foal} (hr : s.resolve s.cur (s.sreg s.cur b) = some (k, f)) :
    execFcancel sw b s =
      .next (State.done (State.sweep (if f.live = true then s.putFoal k { f with canreq := true } else s)) s.cur 1 sw) := by
  unfold execFcancel
  rw [begin_team h rfl rfl]
  simp only [hr]
  unfold State.cancelFoal
  simp only [(State.foalAt_of_resolve hr).1]

theorem execFdetach_none (hr : s.resolve s.cur (s.sreg s.cur b) = none) : execFdetach sw b s = .next (s.done s.cur 1 sw) := by
  unfold execFdetach
  rw [begin_team h rfl rfl]
  simp only [hr]

/-- R222, R258, R266: a foal that has not ended goes up, unless its destination is registers. -/
theorem execFdetach_live {k : Nat} {f : Foal} (hr : s.resolve s.cur (s.sreg s.cur b) = some (k, f)) (hf : f.live = true) :
    execFdetach sw b s = .next (if f.regdest = true then s.raise s.cur .detachReg 1
      else if f.detached = true then s.done s.cur 1 sw else (s.detach k).sweep.done s.cur 1 sw) := by
  unfold execFdetach
  rw [begin_team h rfl rfl]
  simp only [hr, hf, if_true]
  split
  · rfl
  · split <;> rfl

/-- R222, R266: of an ended foal only a FAULT that has not been returned goes up. -/
theorem execFdetach_ended {k : Nat} {f : Foal} (hr : s.resolve s.cur (s.sreg s.cur b) = some (k, f)) (hf : f.live = false)
    (ht : f.status ≠ .fault ∨ f.told = true) : execFdetach sw b s = .next (s.done s.cur 1 sw) := by
  unfold execFdetach
  rw [begin_team h rfl rfl]
  rcases ht with ht | ht <;> simp [hr, hf, ht]

/-- R221, R375: an answer in s[D], with the watchdog loaded. -/
theorem watched_answers (x : DWord) :
    let u := ((s.setSreg s.cur d x).watch s.cur).done s.cur 1 sw
    Answers s u d x ∧ SameScc s u ∧ TeamIs s u (s.watchLoaded s.cur) ∧ Passed s u 1 sw := by
  have hplace : HoldsPlace s ((s.setSreg s.cur d x).watch s.cur) := ((HoldsPlace.refl s).setSreg d x).setTeam _
  have hteam : ((s.setSreg s.cur d x).watch s.cur).team s.cur = s.watchLoaded s.cur := State.watch_team ..
  refine ⟨hplace.answers (State.sreg_setSreg ..) (fun r hr => State.sreg_setSreg_ne _ _ _ hr) 1 sw, ?_, ?_, (hplace.done 1 sw).1⟩
  · rw [SameScc, sameScc_done]
    show ((s.setSreg s.cur d x).ctx s.cur).scc = _
    rw [State.ctx_setSreg]
  · exact hteam ▸ hplace.teamIs h.1 1 sw

variable {a : Src} (ha : Src.scalOk a = true)
include ha

/-- R222: the priorities are 0 to 7. -/
theorem execFprio_traps (hp : 8 ≤ (Src.scalar s s.cur a).toNat) : TrapsTeam s (execFprio sw b a s) .illegalOperand 0#1024 := by
  unfold execFprio
  rw [begin_team h rfl ha]
  simp only [hp, if_true]
  exact .of_raise h.1 ..

theorem execFprio_none (hp : (Src.scalar s s.cur a).toNat < 8) (hr : s.resolve s.cur (s.sreg s.cur b) = none) :
    execFprio sw b a s = .next (s.done s.cur (Src.len a) sw) := by
  unfold execFprio
  rw [begin_team h rfl ha]
  simp only [Nat.not_le.2 hp, if_false, hr]

/-- R222, R255: 0 is the team's own priority, and PRIOCEIL bounds the others. -/
theorem execFprio_some (hp : (Src.scalar s s.cur a).toNat < 8) {k : Nat} {f : Foal}
    (hr : s.resolve s.cur (s.sreg s.cur b) = some (k, f)) :
    execFprio sw b a s = .next ((if f.live = true then s.putFoal k { f with prio := s.foalPrio s.cur (Src.scalar s s.cur a).toNat }
      else s).done s.cur (Src.len a) sw) := by
  unfold execFprio
  rw [begin_team h rfl ha]
  simp only [Nat.not_le.2 hp, if_false, hr]

/-- R222: a record has 16 words. -/
theorem execFstat_traps (hn : 16 ≤ (Src.scalar s s.cur a).toNat) : TrapsTeam s (execFstat sw d b a s) .illegalOperand 0#1024 := by
  unfold execFstat
  rw [begin_team h rfl ha]
  simp only [hn, if_true]
  exact .of_raise h.1 ..

theorem execFstat_none (hn : (Src.scalar s s.cur a).toNat < 16) (hr : s.resolve s.cur (s.sreg s.cur b) = none) :
    execFstat sw d b a s = .next ((s.setSreg s.cur d 0#64).done s.cur (Src.len a) sw) := by
  have hwait : (if s.det s.cur then s.foalWait s.cur (s.sreg s.cur b) else none) = none := by
    simp [State.foalWait_ended (s := s) (h := s.cur) (tok := s.sreg s.cur b) (by simp [hr])]
  unfold execFstat
  rw [begin_team h rfl ha]
  simp only [Nat.not_le.2 hn, if_false, hwait, hr]

theorem execFstat_some (hn : (Src.scalar s s.cur a).toNat < 16) {k : Nat} {f : Foal}
    (hr : s.resolve s.cur (s.sreg s.cur b) = some (k, f)) (hw : s.det s.cur = false ∨ f.live = false) :
    execFstat sw d b a s = .next ((s.setSreg s.cur d (BitVec.ofNat 64
      (leNat (((f.record (k % 256)).drop (8 * (Src.scalar s s.cur a).toNat)).take 8)))).done s.cur (Src.len a) sw) := by
  have hwait : (if s.det s.cur then s.foalWait s.cur (s.sreg s.cur b) else none) = none := by
    rcases hw with hdet | hf
    · simp [hdet]
    · simp [State.foalWait_ended (s := s) (h := s.cur) (tok := s.sreg s.cur b) (by simp [hr, hf])]
  unfold execFstat
  rw [begin_team h rfl ha]
  simp only [Nat.not_le.2 hn, if_false, hwait, hr]

end
end Sys2Proof.Machine

open Sys2Proof Sys2Proof.Machine

/-- R221: scc is clear for RUNNING, as which FROZEN shows. -/
theorem scc_of_code (c : Nat) : ((if c = 5 then 0 else c) != 0) = decide (c ≠ 0 ∧ c ≠ 5) := by
  by_cases h : c = 5
  · simp [h]
  · simp [h, bne, beq_eq_decide]

/-- R216, R221, R264: the forms that wait, by what the token names. -/
theorem foalsAreWaitedFor : Claims.FoalsAreWaitedFor := by
  unfold Claims.FoalsAreWaitedFor
  intro s sw d b h hh t tok named code ended told kept watched
  have hcode : (s.tokenStatus s.cur tok).1 = code := by
    show _ = (match s.resolve s.cur tok with | none => 4 | some (_, f) => f.status.code)
    unfold State.tokenStatus
    cases s.resolve s.cur tok <;> rfl
  refine ⟨fun k f hr hl i hi => ?_, fun he => ⟨?_, fun hne => ?_, fun heq => ?_⟩, fun hn => ?_, fun hl => ?_, fun hl => ?_,
    fun hs hroom => ?_, fun hs => ?_⟩
  · simp only [List.mem_cons, List.not_mem_nil, or_false] at hi
    rcases hi with rfl | rfl
    · exact ⟨_, fwaitOp_live h sw d b false hr hl, .of_park ..⟩
    · exact ⟨_, fwaitOp_live h sw d b true hr hl, .of_park ..⟩
  · have hx : exec (.fwait sw d b) s = _ := fwaitOp_ended h sw d b false he
    simp only [Bool.false_and, Bool.false_eq_true, if_false, show (s.tokenStatus s.cur (s.sreg s.cur b)).1 = code from hcode] at hx
    obtain ⟨⟨hd, hkept⟩, hscc, hat, hrest⟩ := told_answers (tok := tok) (x := BitVec.ofNat 64 code) d sw h.1
    exact ⟨_, hx, hd, hkept, hscc, hat, hrest⟩
  · have hx : exec (.fwaitT sw d b) s = _ := fwaitOp_ended h sw d b true he
    simp only [show (s.tokenStatus s.cur (s.sreg s.cur b)).1 = code from hcode] at hx
    rw [if_neg (by simpa using hne)] at hx
    obtain ⟨⟨hd, hkept⟩, hscc, hat, hrest⟩ := told_answers (tok := tok) (x := BitVec.ofNat 64 code) d sw h.1
    exact ⟨_, hx, hd, hkept, hscc, hat, hrest⟩
  · have hx : exec (.fwaitT sw d b) s = _ := fwaitOp_ended h sw d b true he
    simp only [show (s.tokenStatus s.cur (s.sreg s.cur b)).1 = code from hcode, heq] at hx
    rw [if_pos (by decide)] at hx
    obtain ⟨u, hu, ⟨hd, hkept⟩, hat, hst, hpc, hwidx, r, htrap, hrc, hra⟩ :=
      told_traps (tok := tok) (x := 2#64) d h.1 .foalFault
    exact ⟨u, r, hx.trans (congrArg _ hu), hd, hkept, hat, hst, hpc, hwidx, htrap, hrc, hra⟩
  · have hx : exec (.ftest sw d b) s = _ := execFtest_eq h sw d b hn
    simp only [show (s.tokenStatus s.cur (s.sreg s.cur b)).1 = code from hcode] at hx
    obtain ⟨⟨hd, hkept⟩, hscc, hat, hrest⟩ :=
      told_tests (tok := tok) (x := BitVec.ofNat 64 (if code = 5 then 0 else code)) d sw h.1 ((if code = 5 then 0 else code) != 0)
    exact ⟨_, hx, hd, hkept, hscc.trans (scc_of_code code), hat, hrest⟩
  · exact ⟨_, execFwaitall_live h sw d hl, .of_park ..⟩
  · obtain ⟨⟨hd, hkept⟩, hscc, hteam, hpassed⟩ := watched_answers h sw d
        (BitVec.ofNat 64 ((s.attachedOf s.cur).filter fun e => e.2.status == .fault).length)
    exact ⟨_, execFwaitall_ended h sw d hl, hkept, hscc, hteam, hpassed, hd⟩
  · obtain ⟨u, k, f, hx, hf, hk, hfields, hprog, hd, hregs, hteam⟩ := execLcseal_seals h sw d hs hroom
    have hkind : f.kind = .lanebatch := congrArg Prod.fst hfields
    refine ⟨u, k, f, hx, hf, hk, hfields, hprog, hd.trans ?_, hregs, hteam⟩
    rw [Foal.token, hkind]
    rfl
  · exact ⟨_, execLcseal_parks h sw d hs, .of_park ..⟩

/-- R222, R265: the forms that control, by what the token names. -/
theorem foalsAreControlled : Claims.FoalsAreControlled := by
  unfold Claims.FoalsAreControlled
  intro s sw d b a h ha hh tok n put
  refine ⟨fun hr => ⟨?_, ?_, fun hn => ?_, fun hn => ?_⟩, fun k f hr => ⟨?_, fun hl hreg => ?_,
    fun hl hreg hd => ?_, fun hl hreg hd => ?_, fun hl ht => ?_, fun hn => ?_, fun hn hw => ?_⟩, fun hn => ?_, fun hn => ?_⟩
  · show OnlyPasses s (execFcancel sw b s) 1 sw
    rw [execFcancel_none h sw b hr]
    exact onlyPasses_done ..
  · show OnlyPasses s (execFdetach sw b s) 1 sw
    rw [execFdetach_none h sw b hr]
    exact onlyPasses_done ..
  · show OnlyPasses s (execFprio sw b a s) _ sw
    rw [execFprio_none h sw b ha hn hr]
    exact onlyPasses_done ..
  · show WritesSreg s (execFstat sw d b a s) d _ _ sw
    rw [execFstat_none h sw d b ha hn hr]
    exact writesSreg_done ..
  · exact execFcancel_some h sw b hr
  · show TrapsTeam s (execFdetach sw b s) _ _
    rw [execFdetach_live h sw b hr hl, if_pos hreg]
    exact .of_raise h.1 ..
  · have hx : exec (.fdetach sw b) s = _ := execFdetach_live h sw b hr hl
    rw [if_neg (by simp [hreg]), if_neg (by simp [hd])] at hx
    obtain ⟨hf, hwg⟩ := State.foalAt_of_resolve hr
    obtain ⟨x, hput⟩ := State.detach_detached hf
    rw [State.TakenByWg, hwg] at hput
    exact ⟨_, x, hx, hput⟩
  · show OnlyPasses s (execFdetach sw b s) 1 sw
    rw [execFdetach_live h sw b hr hl, if_neg (by simp [hreg]), if_pos hd]
    exact onlyPasses_done ..
  · show OnlyPasses s (execFdetach sw b s) 1 sw
    rw [execFdetach_ended h sw b hr hl ht]
    exact onlyPasses_done ..
  · refine (execFprio_some h sw b ha hn hr).trans ?_
    simp only [State.foalPrio, beq_iff_eq]
    rfl
  · show WritesSreg s (execFstat sw d b a s) d _ _ sw
    rw [execFstat_some h sw d b ha hn hr hw]
    exact writesSreg_done ..
  · exact execFprio_traps h sw b ha hn
  · exact execFstat_traps h sw d b ha hn

/-- Settles O35: the forms that wait and those that control. -/
theorem foalsAreWaitedForAndControlled : Obligations.FoalsAreWaitedForAndControlled :=
  ⟨foalsAreWaitedFor, foalsAreControlled⟩
end

section
/-! Packets and counters (O38): what an engine's write leaves (R205, R302), the forms of QPOST (R224) and of CNT (R226). -/

namespace Sys2Proof.Machine

/-! ### A write shown to its own die -/

theorem StoresBytes.of_same {s s' v v' : State} {ps : List (Loc × Byte)} (h : StoresBytes s' v ps) (hs : SameMemory s s')
    (hv : SameMemory v v') : StoresBytes s v' ps := by
  obtain ⟨hother, hbyte, hscratch⟩ := h
  obtain ⟨hsHome, hsScratch⟩ := hs
  obtain ⟨hvHome, hvScratch⟩ := hv
  exact ⟨fun l hl => (hvHome l).trans ((hother l hl).trans (hsHome l)), fun hn p hp => (hvHome p.1).trans (hbyte hn p hp),
    fun g o => (hvScratch g o).trans ((hscratch g o).trans (hsScratch g o))⟩

/-- What an engine's write changes beside the bytes it stores: caches, the code kept, and harts whose WAITV it ends. -/
def Wrote (s t : State) : Prop :=
  ∃ oc cs ts x l m p ps i n, t = { s with oldCode := oc, ctxs := cs, teams := ts, l1 := x, l2 := l, mem := m, poison := p,
                                          parts := ps, invals := i, now := n }

theorem Wrote.trans {s t u : State} (h1 : Wrote s t) (h2 : Wrote t u) : Wrote s u := by
  obtain ⟨_, _, _, _, _, _, _, _, _, _, rfl⟩ := h1
  obtain ⟨_, _, _, _, _, _, _, _, _, _, rfl⟩ := h2
  exact ⟨_, _, _, _, _, _, _, _, _, _, rfl⟩

theorem Rereads.wrote {s t : State} (h : Rereads s t) : Wrote s t := by
  obtain ⟨_, _, _, _, _, _, _, _, rfl⟩ := h
  exact ⟨_, _, _, _, _, _, _, _, _, _, rfl⟩

theorem State.keepCode_rest (s : State) (e : Nat) (bs : List Loc) : ∃ oc, s.keepCode e bs = { s with oldCode := oc } := by
  unfold State.keepCode
  induction bs generalizing s with
  | nil => exact ⟨_, rfl⟩
  | cons b r ih =>
    rw [List.foldl_cons]
    split
    · exact ih s
    · exact ih _

/-- R175: a WAITV that reads again. -/
theorem State.reread_rereads (s : State) (k : Nat) : Rereads s (s.reread k) := by
  have hread : ∀ (sc : Bool) (pl : List Loc), Rereads s (if sc then s else s.useAll (s.owner k) pl) := fun sc pl => by
    cases sc
    · exact (s.useAll_reads (s.owner k) pl).rereads
    · exact (ReadsHome.refl s).rereads
  unfold State.reread
  split
  · rename_i sc _ pl c y sw _
    unfold State.readWait
    dsimp only
    split
    · exact (ReadsHome.refl s).rereads
    · specialize hread sc pl
      generalize (if sc = true then s else s.useAll (s.owner k) pl) = r at hread
      split
      · obtain ⟨_, _, _, _, e⟩ := r.waitMet_rest k sc sw
        rw [e]
        exact hread.trans ⟨_, _, _, _, _, _, _, _, rfl⟩
      · exact hread
  all_goals exact (ReadsHome.refl s).rereads

theorem State.write_wrote (s : State) (owner : Nat) (src : Option Nat) (bs : List (Loc × Byte)) :
    Wrote s (s.write owner src bs) := by
  have hhome : Wrote s (s.writeHome owner src bs) := by
    obtain ⟨_, _, _, _, _, _, e⟩ := s.writeHome_rest owner src bs
    rw [e]
    exact ⟨_, _, _, _, _, _, _, _, _, _, rfl⟩
  unfold State.write
  dsimp only
  refine hhome.trans (Rereads.wrote ?_)
  generalize s.writeHome owner src bs = u
  generalize (u.ctxs.filter _).map _ = hs
  induction hs generalizing u with
  | nil => exact (ReadsHome.refl u).rereads
  | cons k r ih => exact (u.reread_rereads k).trans (ih _)

theorem State.showOwn_spec {s : State} (hs : Sound s.mem s.l2) (core : Nat) (ls : List Loc) :
    KeepsHome s (s.showOwn core ls) ∧ ∃ x l n, s.showOwn core ls = { s with l1 := x, l2 := l, now := n } := by
  unfold State.showOwn
  dsimp only
  generalize ls.map _ = bs
  generalize ls.map _ = ds
  obtain ⟨x, hx⟩ := s.writeL1_rest core bs
  have hl1 : KeepsHome s (s.writeL1 core bs) := .of_eq hs (by rw [hx]) (by rw [hx])
  refine ⟨hl1.trans (State.writeGuest_keeps hl1.sound ..), ?_⟩
  rw [hx]
  obtain ⟨l, n, hl⟩ := State.writeGuest_rest { s with l1 := x } (dieOfCore core) ds
  exact ⟨x, l, n, hl⟩

/-- R205, R302: the bytes of an engine's write stand at the home; a hart that issues, and what the write does not concern,
stay. -/
theorem State.engineWrite_spec {s : State} (hs : Sound s.mem s.l2) {h : Nat} (hr : (s.ctx h).status = .ready) (core part e : Nat)
    (ws : List (Loc × Byte)) :
    let u := s.engineWrite core part e ws
    StoresBytes s u ws ∧ u.ctx h = s.ctx h ∧ Wrote s u := by
  obtain ⟨oc, hkeep⟩ := s.keepCode_rest e (ws.map (·.1))
  unfold State.engineWrite
  rw [hkeep]
  have hr' : (({ s with oldCode := oc } : State).ctx h).status = .ready := hr
  obtain ⟨hsound, hbytes⟩ := State.write_spec (s := { s with oldCode := oc }) hs part (some (dieOfCore core)) ws
  have hctx := (State.write_spares hr' part (some (dieOfCore core)) ws).1
  have hwrote := State.write_wrote { s with oldCode := oc } part (some (dieOfCore core)) ws
  obtain ⟨hkeeps, x, l, n, hshow⟩ := State.showOwn_spec hsound core (ws.map (·.1))
  refine ⟨hbytes.of_same (.of_eq rfl rfl rfl) ⟨hkeeps.same, State.spByte_of_eq (by rw [hshow])⟩, ?_,
    Wrote.trans ⟨_, _, _, _, _, _, _, _, _, _, rfl⟩ (hwrote.trans ?_)⟩
  · rw [hshow]
    exact hctx
  · rw [hshow]
    exact ⟨_, _, _, _, _, _, _, _, _, _, rfl⟩

/-- An answer in s[D] after a write that leaves the hart: it moves on. -/
theorem answered_done {s v : State} (hc : v.ctx s.cur = s.ctx s.cur) (hv : v.vregs = s.vregs) (d : SReg) (x : DWord) (n : Nat)
    (sw : Bool) :
    let u := (v.setSreg s.cur d x).done s.cur n sw
    u.sreg s.cur d = x ∧ SameSregsBut d s u ∧ SameScc s u ∧ SameVregs s u ∧ Passed s u n sw := by
  have hw : (v.setSreg s.cur d x).ctx s.cur = { s.ctx s.cur with sregs := Store.set 0#64 (s.ctx s.cur).sregs d.toNat x } := by
    rw [State.setSreg, State.ctx_setCtx, hc]
  refine ⟨?_, fun r hr => ?_, ?_, fun r _ => ?_, passed_done n sw ?_ ?_ ?_ ?_ ?_⟩
  · rw [sameSregs_done, State.sreg_setSreg]
  · rw [sameSregs_done, State.sreg_setSreg_ne _ _ _ hr, State.sreg, hc]
    rfl
  · rw [SameScc, sameScc_done, hw]
  · rw [State.done_vreg]
    show Store.get _ v.vregs _ = _
    rw [hv]
    rfl
  iterate 5 rw [hw]

/-! ### QPOST (R224) -/

section
variable {s : State} (h : TeamRuns s []) {a : Src} (ha : Src.scalOk a = true) (kind : Nat) (sw : Bool) (d b : SReg)
include h ha

theorem qpostOp_det (hdet : s.det s.cur = true) : TrapsTeam s (qpostOp kind sw d b a s) .detViolation 0#1024 := by
  unfold qpostOp
  rw [begin_team h rfl ha]
  simp only [hdet, if_true]
  exact .of_raise h.1 ..

theorem qpostOp_waits (hdet : s.det s.cur = false)
    (hw : (s.team s.cur).loads ≠ 0 ∨ (s.team s.cur).stores ≠ 0 ∨ s.engineMay (foalKey (s.coreOf s.cur) 0) = false) :
    qpostOp kind sw d b a s = .next (s.park s.cur (.counts .switchMarker true false)) := by
  unfold qpostOp
  rw [begin_team h rfl ha]
  simp only [hdet, Bool.false_eq_true, if_false]
  rw [if_pos (by simpa [or_assoc] using hw)]

section
variable (hdet : s.det s.cur = false) (hl : (s.team s.cur).loads = 0) (hst : (s.team s.cur).stores = 0)
  (hmay : s.engineMay (foalKey (s.coreOf s.cur) 0) = true)
include hdet hl hst hmay

theorem qpostOp_misaligned (hal : (s.sreg s.cur b).toNat % 64 ≠ 0 ∨ (Src.scalar s s.cur a).toNat % 128 ≠ 0) :
    TrapsTeam s (qpostOp kind sw d b a s) .align 0#1024 := by
  unfold qpostOp
  rw [begin_team h rfl ha]
  simp only [hdet, hl, hst, hmay, Bool.false_eq_true, if_false, bne_self_eq_false, Bool.not_true, Bool.or_self]
  split
  · exact .of_raiseAt h.1 ..
  · rename_i hda
    rw [if_pos (by simpa using hal.resolve_left (by simpa using hda))]
    exact .of_raiseAt h.1 ..

/-- The descriptor and the packet have been read and are in order: a full queue is waited for, else the packet is posted. -/
theorem qpostOp_checked (hda : (s.sreg s.cur b).toNat % 64 = 0) (hpa : (Src.scalar s s.cur a).toNat % 128 = 0)
    (hwalks : s.unwalked s.cur (vpagesOf (s.sreg s.cur b) 64 ++ vpagesOf (Src.scalar s s.cur a) 128) = [])
    {dl pl : List Loc} (hdl : s.teamBytes s.cur (s.sreg s.cur b) 64 .readWrite = .ok dl)
    (hpl : s.teamBytes s.cur (Src.scalar s s.cur a) 128 .read = .ok pl) {q : Queue} (hq : Queue.ofBytes (dl.map s.homeByte) = q)
    (hslot : s.unwalked s.cur (vpagesOf (q.slotAddr q.write) 128) = []) {pkt : List Byte} (hpkt : pl.map s.homeByte = pkt)
    (hok : q.ok = true) (hpart : q.part = (s.wgOf s.cur).launch.part) (hkind : recNat pkt 0 2 = kind) (hzero : packetZeros pkt = true)
    (hparent : kind ≤ 2 → recNat pkt 0x38 8 = 0) :
    let v := s.useAll (s.wgOf s.cur).launch.part (dl ++ pl)
    (q.size ≤ q.count → ∀ l, dl.head? = some l → qpostOp kind sw d b a s = .next (v.park s.cur (.queueRoom l))) ∧
    (q.count < q.size → qpostOp kind sw d b a s = .next (v.post s.cur kind d (Src.len a) q dl pkt sw)) := by
  intro v
  have hvpart : (v.wgOf s.cur).launch.part = q.part := by
    obtain ⟨_, _, _, _, _, e⟩ := s.useAll_reads (s.wgOf s.cur).launch.part (dl ++ pl)
    rw [hpart]
    show ((s.useAll _ _).wgOf s.cur).launch.part = _
    rw [e]
    rfl
  have hbad : (recNat pkt 0 2 != kind || !packetZeros pkt || recNat pkt 0x38 8 != 0 && decide (kind ≤ 2)) = false := by
    simpa [hkind, hzero] using fun hne => Nat.lt_of_not_le fun hle => hne (hparent hle)
  have hx : qpostOp kind sw d b a s = if q.size ≤ q.count then
      .next (dl.head?.elim v fun l => v.park s.cur (.queueRoom l)) else .next (v.post s.cur kind d (Src.len a) q dl pkt sw) := by
    unfold qpostOp
    rw [begin_team h rfl ha]
    simp only [hdet, hl, hst, hmay, hda, hpa, hwalks, hdl, hpl, hq, hpkt, hslot, hok, hbad, Bool.false_eq_true, if_false,
      bne_self_eq_false, Bool.not_true, Bool.or_self, List.isEmpty_nil, Bool.and_false, ← hpart]
    rw [if_neg (by rw [show s.useAll q.part (dl ++ pl) = v by rw [hpart], hvpart]; simp), hpart]
    cases dl <;> rfl
  refine ⟨fun hle l hhead => ?_, fun hlt => ?_⟩
  · rw [hx, if_pos hle]
    rw [hhead]
    rfl
  · rw [hx, if_neg (Nat.not_le.2 hlt)]
end
end

/-- The packet as it is posted, with its launch's entry in PARENT. -/
def State.sent (s : State) (h kind : Nat) (pkt : List Byte) : List Byte :=
  if kind ≤ 2 then pkt.take 0x38 ++ leBytes 8 (s.wgOf h).entity ++ pkt.drop 0x40 else pkt

/-- The bytes that posting writes: the packet in its slot and the next write index. -/
def State.postWrites (s : State) (h kind : Nat) (q : Queue) (dl sl : List Loc) (pkt : List Byte) : List (Loc × Byte) :=
  sl.zip (s.sent h kind pkt) ++ (dl.drop 0x20).zip (leBytes 8 (q.write.toNat + 1))

theorem Fetches.translateBytes_walks {s t : State} (hst : Fetches s t) (core : Option Nat) (part : Nat) (va : Addr) (n : Nat)
    (k : Access) (ws : List Walked) : Machine.translateBytes t core part va n k ws = Machine.translateBytes s core part va n k ws := by
  have htr : ∀ v, translate t core part v k ws = translate s core part v k ws := fun v => by
    simp only [translate, hst.cached, hst.walk]
  simp only [Machine.translateBytes, htr]

theorem Fetches.teamBytes {s t : State} (hst : Fetches s t) (h : Nat) (va : Addr) (n : Nat) (k : Access) :
    t.teamBytes h va n k = s.teamBytes h va n k := by
  have hrest : t.coreOf h = s.coreOf h ∧ t.wgOf h = s.wgOf h ∧ t.walksOf h = s.walksOf h := by
    obtain ⟨_, _, _, _, _, rfl⟩ := hst.reads
    exact ⟨rfl, rfl, rfl⟩
  obtain ⟨hcore, hwg, hwalks⟩ := hrest
  unfold State.teamBytes
  rw [hcore, hwg, hwalks, hst.translateBytes_walks]

/-- One more, where a child is counted. -/
theorem State.counterAdd_one (s : State) (e : Nat) : ((s.counterAdd e 1).entity e).counter = (s.entity e).counter + 1#64 := by
  have hent : (s.counterAdd e 1).entity e = { s.entity e with counter := BitVec.ofInt 64 ((s.entity e).counter.toNat + 1) } :=
    Store.get_set_same
  rw [hent]
  refine BitVec.eq_of_toNat_eq ?_
  simp only [BitVec.toNat_ofInt, BitVec.toNat_add, BitVec.toNat_ofNat]
  omega

/-- A child that is counted, or none. -/
def State.counted (s : State) (kind e : Nat) : State := if kind ≤ 2 then s.counterAdd e 1 else s

theorem State.counted_rest (s : State) (kind e : Nat) : ∃ es, s.counted kind e = { s with entities := es } := by
  unfold State.counted
  split <;> exact ⟨_, rfl⟩

theorem State.counted_counter (s : State) (kind e : Nat) :
    ((s.counted kind e).entity e).counter = (s.entity e).counter + (if kind ≤ 2 then 1#64 else 0#64) := by
  unfold State.counted
  split
  · exact s.counterAdd_one e
  · simp

/-- R224: the packet is in its slot, the index has risen, the child is counted and the old index is answered. -/
theorem State.post_posts {s v : State} (hv : Fetches s v) (hr : (s.ctx s.cur).status = .ready) (kind : Nat) (d : SReg) (n : Nat)
    (q : Queue) (dl : List Loc) (pkt : List Byte) (sw : Bool) {sl : List Loc} (hsl : s.teamBytes s.cur (q.slotAddr q.write) 128 .write = .ok sl) :
    let u := v.post s.cur kind d n q dl pkt sw
    u.sreg s.cur d = q.write ∧ SameSregsBut d s u ∧ SameScc s u ∧ SameVregs s u ∧ Passed s u n sw ∧
      StoresBytes s u (s.postWrites s.cur kind q dl sl pkt) ∧
      (u.entity (s.wgOf s.cur).entity).counter = (s.entity (s.wgOf s.cur).entity).counter + (if kind ≤ 2 then 1#64 else 0#64) := by
  have hrest : v.ctx s.cur = s.ctx s.cur ∧ v.vregs = s.vregs ∧ v.entities = s.entities ∧ v.wgOf s.cur = s.wgOf s.cur := by
    obtain ⟨_, _, _, _, _, rfl⟩ := hv.reads
    exact ⟨rfl, rfl, rfl, rfl⟩
  obtain ⟨hvctx, hvregs, hvents, hvwg⟩ := hrest
  have hready : (v.ctx s.cur).status = .ready := by rw [hvctx, hr]
  obtain ⟨hbytes, hctx, hwrote⟩ := State.engineWrite_spec hv.keeps.sound hready (v.coreOf s.cur) (v.wgOf s.cur).launch.part
    (v.wgOf s.cur).entity (s.postWrites s.cur kind q dl sl pkt)
  intro u
  have hu : u = (((v.teamWrite s.cur (s.postWrites s.cur kind q dl sl pkt)).counted kind (s.wgOf s.cur).entity).setSreg s.cur d
      q.write).done s.cur n sw := by
    show v.post s.cur kind d n q dl pkt sw = _
    unfold State.post
    simp only [hv.teamBytes, hsl, hvwg]
    rfl
  generalize hw : v.teamWrite s.cur (s.postWrites s.cur kind q dl sl pkt) = w at hu
  have hwe : v.engineWrite (v.coreOf s.cur) (v.wgOf s.cur).launch.part (v.wgOf s.cur).entity
      (s.postWrites s.cur kind q dl sl pkt) = w := hw
  rw [hwe] at hbytes hctx hwrote
  have hwvregs : w.vregs = v.vregs := by
    obtain ⟨_, _, _, _, _, _, _, _, _, _, rfl⟩ := hwrote
    rfl
  have hwents : w.entities = v.entities := by
    obtain ⟨_, _, _, _, _, _, _, _, _, _, rfl⟩ := hwrote
    rfl
  have hcount := w.counted_counter kind (s.wgOf s.cur).entity
  obtain ⟨es, hes⟩ := w.counted_rest kind (s.wgOf s.cur).entity
  rw [hes] at hu hcount
  obtain ⟨hsreg, hregs, hscc, hvreg, hpassed⟩ := answered_done (s := s) (v := { w with entities := es }) (hctx.trans hvctx)
    (hwvregs.trans hvregs) d q.write n sw
  rw [← hu] at hsreg hregs hscc hvreg hpassed
  refine ⟨hsreg, hregs, hscc, hvreg, hpassed, hbytes.of_same hv.sameMemory ?_, ?_⟩
  · rw [hu]
    obtain ⟨cs, ts, e⟩ := State.done_rest (({ w with entities := es } : State).setSreg s.cur d q.write) s.cur n sw
    rw [e]
    exact .of_eq rfl rfl rfl
  · rw [hu, State.done_entity]
    refine Eq.trans hcount ?_
    rw [State.entity, hwents, hvents]
    rfl

/-- The park after the descriptor and the packet have been read. -/
theorem Fetches.park_onlyReads {s v : State} (hv : Fetches s v) (w : Wait) :
    let u := v.park s.cur w
    OnlyReads s u ∧ u.team s.cur = s.team s.cur ∧ SameVregs s u ∧ u.ctx s.cur = { s.ctx s.cur with status := .parked w } := by
  have hhome : SameMemory v (v.park s.cur w) := .of_eq rfl rfl rfl
  have hmem := hv.sameMemory.trans hhome
  obtain ⟨l, m, p, ps, n, rfl⟩ := hv.reads
  exact ⟨⟨⟨_, _, _, _, _, _, _, _, rfl⟩, fun k hk => ⟨State.ctx_setCtx_ne _ _ hk, rfl, fun _ _ => rfl⟩, hmem⟩, rfl,
    fun _ _ => rfl, State.ctx_setCtx ..⟩

end Sys2Proof.Machine

open Sys2Proof Sys2Proof.Machine

/-- R224: QPOST, by the check that stops it. -/
theorem packetsArePosted : Claims.PacketsArePosted := by
  unfold Claims.PacketsArePosted
  intro s sw d b a hsound h ha hready hh t w da pa may p hp
  have hsound := (soundMemory_iff s).1 hsound
  have hx : exec p.2 s = qpostOp p.1 sw d b a s := by
    simp only [List.mem_cons, List.not_mem_nil, or_false] at hp
    rcases hp with rfl | rfl | rfl <;> rfl
  rw [hx]
  refine ⟨qpostOp_det h ha p.1 sw d b, fun hdet hw => ⟨_, qpostOp_waits h ha p.1 sw d b hdet hw, .of_park ..⟩,
    fun hdet hl hst hmay hal => qpostOp_misaligned h ha p.1 sw d b hdet hl hst hmay hal, ?_⟩
  intro hdet hl hst hmay hda hpa hwalks dl pl hdl hpl q hslot pkt hok hpart hkind hzero hparent
  obtain ⟨hfull, hroom⟩ := qpostOp_checked h ha p.1 sw d b hdet hl hst hmay hda hpa hwalks hdl hpl (q := q) rfl hslot
    (pkt := pkt) rfl hok hpart hkind hzero hparent
  have hv : Fetches s (s.useAll (s.wgOf s.cur).launch.part (dl ++ pl)) := .useAll hsound ..
  refine ⟨fun hle l hhead => ⟨_, hfull hle l hhead, hv.park_onlyReads _⟩, fun hlt sl hsl => ?_⟩
  exact ⟨_, hroom hlt, State.post_posts hv hready p.1 d (Src.len a) q dl pkt sw hsl⟩

end

section
/-! Counters (O38, R226): what the forms of CNT leave, by the entity that they name. -/

namespace Sys2Proof.Machine

/-- An entity of another job that A names (R226). -/
def State.Foreign (s : State) (e : Nat) (x : DWord) : Prop :=
  (s.entity e).job ≠ (s.wgOf s.cur).launch.job ∧ x ≠ BitVec.allOnes 64

section
variable {s : State} (h : TeamRuns s []) {a : Src} (ha : Src.scalOk a = true) {l : BitVec 3} (hl : l.toNat ≤ 3)
include h ha hl

/-! ### The entity named -/

section
variable (det : Bool) (k : Nat → Named → Out)

theorem cntOp_det (hd : (det && s.det s.cur) = true) : TrapsTeam s (cntOp det l a s k) .detViolation 0#1024 := by
  unfold cntOp
  rw [begin_team h rfl (by simp [ha, hl])]
  simp only [hd, if_true]
  exact .of_raise h.1 ..

variable (hd : (det && s.det s.cur) = false)
include hd

theorem cntOp_absent (hn : s.named s.cur l.toNat (Src.scalar s s.cur a) = .absent) : cntOp det l a s k = k s.cur .absent := by
  unfold cntOp
  rw [begin_team h rfl (by simp [ha, hl])]
  simp only [hd, hn, Bool.false_eq_true, if_false]

theorem cntOp_foreign {e : Nat} (hn : s.named s.cur l.toNat (Src.scalar s s.cur a) = .live e)
    (hf : s.Foreign e (Src.scalar s s.cur a)) : TrapsTeam s (cntOp det l a s k) .perm 0#1024 := by
  unfold cntOp
  rw [begin_team h rfl (by simp [ha, hl])]
  simp only [hd, hn, Bool.false_eq_true, if_false]
  rw [if_pos (by simpa [State.Foreign] using hf)]
  exact .of_raise h.1 ..

theorem cntOp_live {e : Nat} (hn : s.named s.cur l.toNat (Src.scalar s s.cur a) = .live e)
    (hf : ¬s.Foreign e (Src.scalar s s.cur a)) : cntOp det l a s k = k s.cur (.live e) := by
  unfold cntOp
  rw [begin_team h rfl (by simp [ha, hl])]
  simp only [hd, hn, Bool.false_eq_true, if_false]
  rw [if_neg (by simpa [State.Foreign] using hf)]

end

/-! ### CNT.ADD -/

section
variable (sw : Bool) (d : SReg) {e : Nat} (he : s.ownEntity s.cur l.toNat = some e)
include he

/-- R226: the part of others is left. -/
theorem execCntAdd_traps (hlt : (s.entity e).added + (Src.scalar s s.cur a).toInt < 0) :
    TrapsTeam s (execCntAdd sw d l a s) .illegalOperand 0#1024 := by
  unfold execCntAdd
  rw [begin_team h rfl (by simp [ha, hl])]
  simp only [he, hlt, if_true]
  exact .of_raise h.1 ..

theorem execCntAdd_adds (hle : 0 ≤ (s.entity e).added + (Src.scalar s s.cur a).toInt)
    (hc : ((s.entity e).counter.toNat : Int) + (Src.scalar s s.cur a).toInt < 2 ^ 64) :
    let c := BitVec.ofInt 64 ((s.entity e).counter.toNat + (Src.scalar s s.cur a).toInt)
    execCntAdd sw d l a s = .next ((((s.setEntity e { s.entity e with
      counter := c, added := (s.entity e).added + (Src.scalar s s.cur a).toInt }).setSreg s.cur d c).done s.cur
        (Src.len a) sw).sweep) := by
  unfold execCntAdd
  rw [begin_team h rfl (by simp [ha, hl])]
  simp only [he, Int.not_lt.2 hle, if_false, hc, if_true]

end

end

/-- The entity's counter and its part are set, and the counter is answered. -/
theorem adds_done (s : State) (e : Nat) (d : SReg) (c : DWord) (v : Int) (n : Nat) (sw : Bool) :
    let u := ((s.setEntity e { s.entity e with counter := c, added := v }).setSreg s.cur d c).done s.cur n sw
    u.sreg s.cur d = c ∧ u.entity e = { s.entity e with counter := u.sreg s.cur d, added := v } ∧ SameSregsBut d s u ∧
      SameScc s u ∧ SameVregs s u ∧ SameTeam s u ∧ SameMemory s u ∧ SameOthers s u ∧ Passed s u n sw := by
  intro u
  have hset : HoldsPlace s (s.setEntity e { s.entity e with counter := c, added := v }) := .of_eq rfl rfl rfl (.of_eq rfl rfl rfl)
  have hplace := hset.setSreg d c
  obtain ⟨hsreg, hregs, hscc, hvregs, hpassed⟩ :=
    answered_done (s := s) (v := s.setEntity e { s.entity e with counter := c, added := v }) rfl rfl d c n sw
  obtain ⟨-, -, hmem, hothers⟩ := hplace.done n sw
  refine ⟨hsreg, ?_, hregs, hscc, hvregs, hplace.sameTeam rfl n sw, hmem, hothers, hpassed⟩
  rw [hsreg, State.done_entity]
  exact Store.get_set_same

/-! ### CNT.WAIT -/

/-- R226: an acquire, and the hart moves on. -/
theorem cntWait_passes {s : State} (h : TeamRuns s []) (a : Src) (sw : Bool) :
    let u := (s.acquire s.cur .pkg).done s.cur (Src.len a) sw
    SameSregs s u ∧ SameScc s u ∧ SameVregs s u ∧ SameMemory s u ∧ SameOthers s u ∧ Passed s u (Src.len a) sw ∧
      TeamIs s u { s.team s.cur with fresh := s.now } ∧ ∀ line, line < 2 ^ 45 → u.l1Line (s.coreOf s.cur) line = none := by
  have hstand := HartsStand.acquire s .pkg
  obtain ⟨hpassed, hregs, hscc, hvregs, hmem, hothers⟩ := hstand.done (Src.len a) sw
  obtain ⟨hlines, -, hteam⟩ := State.acquire_spec (s := s) (h := s.cur) (c := .pkg) h.1 (by decide)
  refine ⟨hregs, hscc, hvregs, hmem, hothers, hpassed, ?_, fun line hline => ?_⟩
  · have ht := hstand.teamIs h.1 (Src.len a) sw
    rw [hteam] at ht
    exact ht
  · obtain ⟨_, _, e⟩ := (s.acquire s.cur .pkg).done_rest s.cur (Src.len a) sw
    rw [e]
    exact hlines (by decide) line hline

end Sys2Proof.Machine

open Sys2Proof Sys2Proof.Machine

/-- R226: CNT, by its form and by the entity that is named. -/
theorem countersAreAddedAndAwaited : Claims.CountersAreAddedAndAwaited := by
  unfold Claims.CountersAreAddedAndAwaited
  intro s sw d l a h ha hl hh A n name foreign
  refine ⟨fun e he => ?_, fun e hn hf => ?_, fun e hn hf => ?_, fun hn hdet => ?_, fun hn hA => ?_,
    fun hn hA => ?_, ?_, fun hdet => ?_⟩
  · intro x
    refine ⟨fun hlt => execCntAdd_traps h ha hl sw d he hlt, fun hle hc => ⟨_, execCntAdd_adds h ha hl sw d he hle hc, ?_⟩⟩
    exact adds_done s e d _ _ _ sw
  · refine ⟨?_, ?_, fun hdet => ?_⟩
    · show TrapsTeam s (execCntWait sw d l a s) _ _
      exact cntOp_foreign h ha hl false _ rfl hn hf
    · show TrapsTeam s (execCntCncl sw l a s) _ _
      exact cntOp_foreign h ha hl false _ rfl hn hf
    · show TrapsTeam s (execCntRd sw d l a s) _ _
      exact cntOp_foreign h ha hl true _ hdet hn hf
  · refine ⟨fun hdet => ?_, ?_, fun hlt => ?_⟩
    · show WritesSreg s (execCntRd sw d l a s) d _ _ sw
      unfold execCntRd
      rw [cntOp_live h ha hl true _ hdet hn hf]
      exact writesSreg_done ..
    · exact (cntOp_live h ha hl false _ rfl hn hf : execCntCncl sw l a s = _)
    · have hx : exec (.cntWait sw d l a) s = _ := (cntOp_live h ha hl false _ rfl hn hf : execCntWait sw d l a s = _)
      exact ⟨_, hx.trans (if_neg (BitVec.not_le.2 hlt)), .of_park ..⟩
  · show WritesSreg s (execCntRd sw d l a s) d _ _ sw
    unfold execCntRd
    rw [cntOp_absent h ha hl true _ hdet hn]
    exact writesSreg_done ..
  · show OnlyPasses s (execCntCncl sw l a s) _ sw
    unfold execCntCncl
    rw [cntOp_absent h ha hl false _ rfl hn]
    simp only [show 2 ^ 32 ≤ (Src.scalar s s.cur a).toNat from hA, if_true]
    exact onlyPasses_done ..
  · show execCntCncl sw l a s = _
    unfold execCntCncl
    rw [cntOp_absent h ha hl false _ rfl hn]
    simp only [Nat.not_le.2 (show (Src.scalar s s.cur a).toNat < 2 ^ 32 from hA), if_false]
    rfl
  · rintro (hn | ⟨e, hn, hf, hle⟩)
    · have hx : exec (.cntWait sw d l a) s = _ := (cntOp_absent h ha hl false _ rfl hn : execCntWait sw d l a s = _)
      exact ⟨_, hx, cntWait_passes h a sw⟩
    · have hx : exec (.cntWait sw d l a) s = _ := (cntOp_live h ha hl false _ rfl hn hf : execCntWait sw d l a s = _)
      exact ⟨_, hx.trans (if_pos hle), cntWait_passes h a sw⟩
  · show TrapsTeam s (execCntRd sw d l a s) _ _
    exact cntOp_det h ha hl true _ hdet

/-- Settles O38: QPOST's packets and CNT's counters. -/
theorem packetsAndCounters : Obligations.PacketsAndCounters := ⟨packetsArePosted, countersAreAddedAndAwaited⟩
end

section
/-! An ended foal whose team stands keeps its slot, whatever else follows from its end (R252, R254): `State.sweep_stays`. A
collective that ends early needs it (O49, R218). -/

namespace Sys2Proof.Machine

/-! ### Foals beside one -/

/-- The foal table has changed in at most one slot, another than `k`. -/
inductive Beside (k : Nat) (fs : Store Foal) : Store Foal → Prop
  | stay : Beside k fs fs
  | put {j : Nat} {f : Foal} (hj : j ≠ k) : Beside k fs (Store.put j f fs)
  | erase {j : Nat} (hj : j ≠ k) : Beside k fs (Store.erase j fs)

namespace Beside

variable {k : Nat} {fs gs : Store Foal} (h : Beside k fs gs)
include h

theorem find : Store.find k gs = Store.find k fs := by
  cases h with
  | stay => rfl
  | put hj => exact Store.find_put_other hj.symm
  | erase hj => exact Store.find_erase_other hj.symm

theorem sorted (hs : fs.Sorted) : gs.Sorted := by
  cases h with
  | stay => exact hs
  | put => exact Store.sorted_put hs
  | erase => exact Store.sorted_erase hs

end Beside

/-! ### A foal that ends -/

/-- The record of a foal that has ended (R254). -/
def Foal.endedAs (f : Foal) (st : FoalStatus) (code : Option TrapCode) (addr : DWord) : Foal :=
  { f with status := st, fcode := code, faddr := addr, dep := none, preds := [], pages := [], reads := [], writes := [] }

/-- The foals are as they were, and every hart keeps its kind. -/
structure Aside (s t : State) : Prop where
  foals : t.foals = s.foals
  kinds : KeepsKinds s t

namespace Aside

theorem of_eq {s t : State} (hf : t.foals = s.foals) (hc : t.ctxs = s.ctxs) : Aside s t := ⟨hf, .of_eq hc⟩

theorem trans {s t u : State} (hst : Aside s t) (htu : Aside t u) : Aside s u :=
  ⟨htu.foals.trans hst.foals, hst.kinds.trans htu.kinds⟩

theorem of_keeps {q : Prop} {s t : State} (hf : KeepsFoals q s t) (hk : KeepsKinds s t) : Aside s t := ⟨hf.foals, hk⟩

theorem uncount (s : State) (f : Foal) : Aside s (s.uncount f) := of_keeps (q := False) (.uncount s f) (.uncount s f)

end Aside

section
variable {s : State} {k : Nat} {f : Foal} {st : FoalStatus} (code : Option TrapCode) (addr : DWord) (hf : s.foalAt k = some f)
include hf

/-- A foal that ends and is not reported takes its record's end, and every hart keeps its kind. -/
theorem State.endFoal_aside (hl : f.live = true) (hst : st ≠ .fault ∨ f.detached = false) :
    Aside (s.putFoal k (f.endedAs st code addr)) (s.endFoal k st code addr) := by
  unfold State.endFoal
  split
  · rename_i hnone
    cases hf.symm.trans hnone
  rename_i g hg
  obtain rfl : f = g := Option.some.inj (hf.symm.trans hg)
  rw [if_neg (by simp [hl])]
  extract_lets f' s₁ s₂ c s₃ s₄
  have hreturn : Aside (s.putFoal k f') ((s.putFoal k f').returnPages f.wg f.pages) := .of_eq rfl rfl
  have hring : Aside ((s.putFoal k f').returnPages f.wg f.pages) s₁ := .of_keeps (.ringIdle _ f) (.ringIdle _ f)
  have hfrozen : Aside s₁ s₂ := .of_keeps (.endFrozen _ k f) (.endFrozen _ k f)
  have hengine : Aside s₂ s₃ := by
    unfold s₃
    split <;> exact .of_eq rfl rfl
  have hnotice : Aside s₃ s₄ := .of_keeps (.endNotice _ k f st) (.endNotice _ k f st)
  have hended := (((hreturn.trans hring).trans hfrozen).trans hengine).trans hnotice
  split
  · rename_i hd
    rw [if_neg (by simpa [hd] using hst)]
    exact hended.trans (.uncount ..)
  · exact hended

end

/-! ### The sweep -/

/-- The ended foal in slot `k`, its team still there. -/
structure Stays (k : Nat) (y : Foal) (s : State) : Prop where
  sorted : s.foals.Sorted
  at_ : s.foalAt k = some y
  ended : y.live = false
  attached : y.level = .attached
  held : (s.ctx y.team).kind ≠ .absent

theorem Stays.mono {k : Nat} {y : Foal} {s t : State} (h : Stays k y s) (hb : Beside k s.foals t.foals) (hk : KeepsKinds s t) :
    Stays k y t :=
  ⟨hb.sorted h.sorted, hb.find.trans h.at_, h.ended, h.attached, by rw [hk.kind]; exact h.held⟩

section
variable {k : Nat} {y : Foal} {s t : State} (hs : Stays k y s)
include hs

/-- A foal that is another one, by what is said of it, stands in another slot. -/
theorem Stays.ne_of {e : Nat × Foal} (he : e ∈ s.foals) (hne : e.2 ≠ y) : e.1 ≠ k := fun hk =>
  hne (congrArg Prod.snd (hs.sorted.inj he ((Store.find_eq_some hs.sorted).1 hs.at_) hk))

theorem Stays.endFoal {e : Nat × Foal} (he : e ∈ s.foals) (hl : e.2.live = true) (addr : DWord) :
    Beside k s.foals (s.endFoal e.1 .cancelled none addr).foals := by
  have hat : s.foalAt e.1 = some e.2 := (Store.find_eq_some hs.sorted).2 he
  rw [(State.endFoal_aside none addr hat hl (.inl (by decide))).foals]
  exact .put (hs.ne_of he fun h => by rw [h, hs.ended] at hl; cases hl)

theorem Stays.adoptByEntity {e : Nat × Foal} (he : e ∈ s.foals) (hl : e.2.level ≠ .attached) (es : List Nat) :
    Beside k s.foals (s.adoptByEntity e.1 e.2 es).foals := by
  have hne := hs.ne_of he fun h => hl (h ▸ hs.attached)
  unfold State.adoptByEntity
  simp only
  split
  · exact .put hne
  · split
    · exact .put hne
    · exact .put hne

theorem Stays.sweepFoal {e : Nat × Foal} (he : e ∈ s.foals) (h : s.sweepFoal e.1 e.2 = some t) : Beside k s.foals t.foals := by
  unfold State.sweepFoal at h
  split at h
  · cases h
  · rename_i hgo
    have hl : e.2.live = true := by
      simp only [Bool.or_eq_true, not_or, Bool.not_eq_true', Bool.not_eq_false] at hgo
      exact hgo.1
    have hne := hs.ne_of he fun h => by rw [h, hs.ended] at hl; cases hl
    split at h
    · cases h
      exact hs.endFoal he hl _
    · split at h
      · cases h
      · split at h
        · cases h
          exact .put hne
        · split at h
          · cases h
          · split at h
            · cases h
              exact .put hne
            · cases h
              exact hs.endFoal he hl _

theorem Stays.sweepWg {g : Nat} {w : Workgroup} (h : s.sweepWg g w = some t) : Beside k s.foals t.foals := by
  unfold State.sweepWg at h
  split at h
  · cases h
  · simp only at h
    split at h
    · rename_i e he
      cases h
      have hmine := List.mem_of_find?_eq_some he
      refine hs.adoptByEntity (List.mem_of_mem_filter hmine) (fun hl => ?_) _
      have := (List.mem_filter.1 hmine).2
      simp [hl] at this
    · split at h
      · cases h
        exact .stay
      · cases h

theorem Stays.sweepEntity {n : Nat} {x : Entity} (h : s.sweepEntity n x = some t) : Beside k s.foals t.foals := by
  unfold State.sweepEntity at h
  split at h
  · cases h
    rw [(KeepsFoals.completeEntity s n).foals]
    exact .stay
  · split at h
    · cases h
    · rename_i r _
      simp only at h
      split at h
      · split at h
        · cases h
        · rename_i e es hmine
          cases h
          have hmem : e ∈ s.foals.filter _ := hmine ▸ List.mem_cons_self
          refine hs.adoptByEntity (List.mem_of_mem_filter hmem) (fun hl => ?_) r.above
          have := (List.mem_filter.1 hmem).2
          simp [hl] at this
      · cases h

theorem Stays.sweepSlot {e : Nat × Foal} (he : e ∈ s.foals) (h : s.sweepSlot e.1 e.2 = some t) : Beside k s.foals t.foals := by
  unfold State.sweepSlot at h
  split at h
  · rename_i hgone
    cases h
    have habsent : (s.ctx e.2.team).kind = .absent := beq_iff_eq.1 (Bool.and_eq_true _ _ ▸ hgone).2
    exact .erase (hs.ne_of he fun h => hs.held (h ▸ habsent))
  · cases h

theorem Stays.sweepOnce (h : s.sweepOnce = some t) : Stays k y t := by
  refine hs.mono ?_ (KeepsKinds.sweepOnce h)
  simp only [State.sweepOnce, Option.orElse_eq_or, Option.or_eq_some_iff, List.findSome?_eq_some_iff] at h
  rcases h with h | ⟨-, h | ⟨-, h | ⟨-, h | ⟨-, h⟩⟩⟩⟩
  all_goals obtain ⟨l, e, r, hlist, h, -⟩ := h
  · exact hs.sweepFoal (hlist ▸ List.mem_append_right l List.mem_cons_self) h
  · exact hs.sweepWg h
  · exact hs.sweepEntity h
  · exact hs.sweepSlot (hlist ▸ List.mem_append_right l List.mem_cons_self) h
  · unfold State.sweepCore at h
    split at h
    · cases h
      exact .stay
    · cases h

end

theorem Stays.sweepGo {k : Nat} {y : Foal} (n : Nat) {s : State} (hs : Stays k y s) : Stays k y (State.sweepGo n s) := by
  induction n generalizing s with
  | zero => exact hs
  | succ n ih =>
    unfold State.sweepGo
    split
    · exact hs
    · rename_i t ht
      exact ih (hs.sweepOnce ht)

/-- R252: nothing that follows frees the slot of an ended foal whose team stands. -/
theorem State.sweep_stays {k : Nat} {y : Foal} {s : State} (hs : Stays k y s) : s.sweep.foalAt k = some y := (hs.sweepGo _).at_

end Sys2Proof.Machine
end

section
/-! Collective packets (O49): a frame taken from a link (R419), a packet delivered to its collective (R218, R361), and a packet
injected (R359, R360). -/

namespace Sys2Proof.Machine
open Sys2Proof.Claims

/-! ### From the link -/

@[simp] theorem State.port_setPort (s : State) (p : Nat) (x : Port) : (s.setPort p x).port p = x := Store.get_set_same

/-- R419: a frame that is the next in order is counted, and the buffer, all acknowledged, is emptied. -/
theorem linkIn_takes {s : State} {p : Nat} {f : Frame} (h : TakesFrame s p f) :
    ∃ ps, s.linkIn p f = ({ s with ports := ps }, true) ∧
      (({ s with ports := ps } : State).port p).nextIn = (s.port p).nextIn + 1#16 := by
  obtain ⟨hup, hok, hseq, hacked⟩ := h
  have hrest : ((s.port p).buffer.filter fun g => !acked f.lack g.lseq) = [] :=
    List.filter_eq_nil_iff.2 fun g hg => by simpa [acked] using hacked g hg
  have hlack : ∃ y, s.seeLack p f.lack = s.setPort p y ∧ y.nextIn = (s.port p).nextIn := by
    unfold State.seeLack
    simp only [hrest]
    unfold State.resendAll
    simp only [State.port_setPort, List.isEmpty_nil, if_true]
    exact ⟨_, rfl, rfl⟩
  obtain ⟨y, hy, hin⟩ := hlack
  unfold State.linkIn
  simp only [hup, hok, hy, State.port_setPort, hin, hseq, Bool.not_true, Bool.false_eq_true, if_false, beq_self_eq_true, if_true]
  exact ⟨_, rfl, congrArg Port.nextIn (State.port_setPort (s.setPort p y) p _)⟩

/-- R361, R383: a packet of a running job, on a port of its partition, is delivered. -/
theorem jobIn_delivers {s : State} {p : Nat} {f : Frame} (h : ForJob s p f) {cls : Nat} (hc : f.cls.toNat = cls) :
    ∃ ps, s.jobIn p cls f = ({ s with ports := ps } : State).deliver f ∧
      (({ s with ports := ps } : State).port p).nextIn = (s.port p).nextIn + 1#16 := by
  obtain ⟨htakes, hpkg, hlive, hkept, hport, hinc, hruns⟩ := h
  obtain ⟨ps, hlink, hin⟩ := linkIn_takes htakes
  refine ⟨ps, ?_, hin⟩
  have hlive' : (({ s with ports := ps } : State).part f.part.toNat).live = true := hlive
  have hkept' : (({ s with ports := ps } : State).part f.part.toNat).destroying = false := hkept
  have hport' : (({ s with ports := ps } : State).part f.part.toNat).ports.getLsbD p = true := hport
  have hinc' : ({ s with ports := ps } : State).incarnation f.part.toNat f.job = f.inc.toNat := hinc.symm
  have hruns' : ({ s with ports := ps } : State).jobRuns f.part.toNat f.job f.inc.toNat = true := hruns
  unfold State.jobIn
  simp only [hc, bne_self_eq_false, Bool.false_and, Bool.false_or, hpkg, Bool.false_eq_true, if_false, hlink, hlive',
    hport', Bool.not_true, Bool.and_false]
  unfold State.arrive361
  simp only [hlive', hkept', hinc', hruns', Bool.not_true, Bool.or_self, Bool.false_eq_true, if_false, Nat.lt_irrefl, if_true]

/-! ### To its collective -/

theorem State.foalAt_putColl (s : State) (k : Nat) (f : Foal) (j : CollJob) :
    (s.putColl k f j).foalAt k = some { f with job := .coll j } :=
  State.foalAt_putFoal ..

section
variable {s : State} {k : Nat} {x : Foal} {j : CollJob} (hx : s.foalAt k = some x) (hj : x.job = .coll j)
include hx hj

/-- A running collective that is not complete and that no cancel has reached goes on. -/
theorem State.collSettle_running (hr : x.status = .running) (hc : x.canreq = false) (hn : j.complete = false) :
    s.collSettle k = s := by
  unfold State.collSettle
  simp [hx, hj, hr, hc, hn]

/-- Nothing is combined while the next chunk has not come. -/
theorem State.collCombine_waits (ha : ∀ a ∈ j.arrived, a.1 ≠ j.recvd) (n : Nat) : s.collCombine k n = s := by
  have hnone : (j.arrived.find? fun a => a.1 == j.recvd) = none := List.find?_eq_none.2 fun a hmem => by simpa using ha a hmem
  cases n with
  | zero => rfl
  | succ n =>
    unfold State.collCombine
    simp [hx, hj, hnone]

end

/-- R218, R361: a packet of a running collective whose context is here. -/
theorem deliver_toColl {s : State} {f : Frame} {k : Nat} {x : Foal} {j : CollJob} (hfor : s.collFor f = some (k, x))
    (hj : x.job = .coll j) (hr : x.status = .running) (haway : s.collAway k x = false)
    (hc : f.cls = 1#8 ∨ f.cls = 2#8 ∨ (f.cls = 3#8 ∧ f.payload.head? = some 1#8)) :
    s.deliver f = if f.cls = 1#8 then s.deliverChunk k x j f else if f.cls = 2#8 then s.deliverAck k x j f
      else s.deliverRefusal k x j := by
  have hlive : x.live = true := by simp [Foal.live, hr]
  unfold State.deliver
  simp only [hfor, hj, hlive, haway]
  rcases hc with hc | hc | ⟨hc, hp⟩
  · simp [hc]
  · simp [hc]
  · simp [hc, hp]

/-- What one of them leaves: the link's count, the collective's record, and memory as it was. -/
def CollIs (s : State) (p k : Nat) (x : Foal) (j : CollJob) (t : State) : Prop :=
  (t.port p).nextIn = (s.port p).nextIn + 1#16 ∧ t.foalAt k = some { x with job := .coll j } ∧ SameMemory s t

/-- Its record is put, the ports having changed. -/
theorem CollIs.of_put {s : State} {p : Nat} {ps : Store Port}
    (hin : (({ s with ports := ps } : State).port p).nextIn = (s.port p).nextIn + 1#16) (k : Nat) (x : Foal) (j : CollJob) :
    CollIs s p k x j (({ s with ports := ps } : State).putColl k x j) :=
  ⟨hin, State.foalAt_putColl .., .of_eq rfl rfl rfl⟩

section
variable {s : State} {p : Nat} {f : Frame} {k : Nat} {x : Foal} {j : CollJob} (h : ForCollective s p f k x j)
include h

/-- R218: a chunk that comes out of order is kept. -/
theorem jobIn_keepsChunk (hc : f.cls = 1#8) (hq : j.recvd < f.chunkNo)
    (ha : ∀ a ∈ j.arrived, a.1 ≠ f.chunkNo ∧ a.1 ≠ j.recvd) :
    CollIs s p k x { j with arrived := j.arrived ++ [(f.chunkNo, f.desc, f.payload)] } (s.jobIn p 1 f) := by
  obtain ⟨hjob, hfor, -, hj, hr, haway, -⟩ := h
  obtain ⟨ps, hx, hin⟩ := jobIn_delivers hjob (cls := 1) (by rw [hc]; rfl)
  have hnew : (j.arrived.any fun a => a.1 == f.chunkNo) = false := by simpa using fun a b c hm => (ha (a, b, c) hm).1
  have hdeliver := deliver_toColl (s := { s with ports := ps }) hfor hj hr haway (.inl hc)
  rw [hx, hdeliver, if_pos hc]
  unfold State.deliverChunk
  simp only [Nat.not_lt.2 hq.le, hnew, Bool.false_eq_true, if_false]
  rw [State.collCombine_waits (State.foalAt_putColl ..) rfl fun a hm => ?_]
  · exact .of_put hin ..
  · rcases List.mem_append.1 hm with hm | hm
    · exact (ha a hm).2
    · rw [List.mem_singleton.1 hm]
      exact hq.ne'

/-- R218: an acknowledgement covers its chunk and every earlier one. -/
theorem jobIn_acks (hc : f.cls = 2#8) (ha : j.acked < min (f.chunkNo + 1) j.nextSend) :
    CollIs s p k x { j with acked := min (f.chunkNo + 1) j.nextSend,
                            ready := j.ready.filter fun y => decide (min (f.chunkNo + 1) j.nextSend ≤ y.1) } (s.jobIn p 2 f) := by
  obtain ⟨hjob, hfor, -, hj, hr, haway, hcan, hne⟩ := h
  obtain ⟨ps, hx, hin⟩ := jobIn_delivers hjob (cls := 2) (by rw [hc]; rfl)
  have hdeliver := deliver_toColl (s := { s with ports := ps }) hfor hj hr haway (.inr (.inl hc))
  rw [hx, hdeliver, if_neg (by simp [hc]), if_pos hc]
  unfold State.deliverAck
  simp only [Nat.not_le.2 ha, if_false]
  rw [State.collSettle_running (State.foalAt_putColl ..) rfl hr hcan]
  · exact .of_put hin ..
  · have hin' : ∀ a r, CollJob.inTotal { j with acked := a, ready := r } = j.inTotal := fun _ _ => rfl
    simp [CollJob.complete, hin', hne]

/-- R218, R361: a refusal takes the sender back to the first chunk that is not acknowledged. -/
theorem jobIn_refused (hc : f.cls = 3#8) (hp : f.payload.head? = some 1#8) :
    CollIs s p k x { j with nextSend := j.acked } (s.jobIn p 3 f) := by
  obtain ⟨hjob, hfor, -, hj, hr, haway, -⟩ := h
  obtain ⟨ps, hx, hin⟩ := jobIn_delivers hjob (cls := 3) (by rw [hc]; rfl)
  have hdeliver := deliver_toColl (s := { s with ports := ps }) hfor hj hr haway (.inr (.inr ⟨hc, hp⟩))
  rw [hx, hdeliver, if_neg (by simp [hc]), if_neg (by simp [hc])]
  exact .of_put hin ..

end

/-! ### Injected -/

/-- The frame `f` as it leaves: with SLOT as it stands, and the port's sequence numbers (R359, R419). -/
def State.injected (s : State) (p : Nat) (f : Frame) : Frame :=
  { f with slot := (s.part f.part.toNat).slotSeq, lseq := (s.port p).nextOut, lack := (s.port p).nextIn - 1#16 }

/-- R359, R360: a packet goes out on its partition's port, and stays in the retry buffer. -/
theorem inject_sends {s : State} {f : Frame} {p : Nat} (hroute : s.jobRoute f.part.toNat f.dstpkg.toNat = some p)
    (hroom : s.portRoom p = true) :
    ∃ ps qs, s.inject f = some { s with parts := ps, ports := qs, msgs := .frame p (s.injected p f) :: s.msgs } ∧
      (({ s with ports := qs } : State).port p).buffer = (s.port p).buffer ++ [s.injected p f] := by
  have hmeter : ∀ g : Frame, ∃ ps,
      (if g.isJob && (s.part g.part.toNat).live then s.meterAdd g.part.toNat 6 g.size else s) = { s with parts := ps } := fun g => by
      split
      · exact s.meterAdd_rest ..
      · exact ⟨_, rfl⟩
  unfold State.inject
  simp only [hroute, hroom, if_true]
  unfold State.transmit
  obtain ⟨ps, hps⟩ := hmeter { f with slot := (s.part f.part.toNat).slotSeq }
  simp only [hps]
  exact ⟨ps, _, rfl, congrArg Port.buffer (State.port_setPort s p _)⟩

/-- R361: a refused notice is sent again. -/
theorem execAckResendTimer_sends {s : State} {n p : Nat} {r : Resend} (hr : s.resends[n]? = some r) (hdue : r.due ≤ s.time)
    (hc : r.frame.cls ≠ 2#8) (hmay : s.mayInject r.frame.part.toNat r.frame.job r.frame.inc.toNat = true)
    (hroute : s.jobRoute r.frame.part.toNat r.frame.dstpkg.toNat = some p) (hroom : s.portRoom p = true) :
    ∃ ps qs, execAckResendTimer n s = .next { s with resends := s.resends.eraseIdx n, parts := ps, ports := qs,
                                                     msgs := .frame p (s.injected p r.frame) :: s.msgs } := by
  obtain ⟨ps, qs, hinject, -⟩ := inject_sends (s := { s with resends := s.resends.eraseIdx n }) hroute hroom
  refine ⟨ps, qs, ?_⟩
  unfold execAckResendTimer
  simp only [hr, show ¬s.time < r.due from BitVec.not_lt.2 hdue, if_false, beq_iff_eq, hc, hmay, Bool.or_true, if_true, hinject]
  rfl

/-! ### The next chunk -/

theorem bestFoal_mem {l : List (Nat × Foal)} (h : l ≠ []) : ∃ e ∈ l, bestFoal l = some e := by
  induction l with
  | nil => exact absurd rfl h
  | cons e r ih =>
    rw [bestFoal]
    cases hr : bestFoal r with
    | none => exact ⟨e, List.mem_cons_self, rfl⟩
    | some x =>
      have hxr : x ∈ r := by
        cases r with
        | nil => cases hr
        | cons a l =>
          obtain ⟨y, hy, he⟩ := ih (List.cons_ne_nil _ _)
          exact Option.some.inj (he.symm.trans hr) ▸ hy
      simp only
      split
      · exact ⟨x, List.mem_cons_of_mem _ hxr, rfl⟩
      · exact ⟨e, List.mem_cons_self, rfl⟩

/-- The packet of the next chunk, before its injection (R218). -/
def State.chunkFrame (s : State) (core : Nat) (x : Foal) (j : CollJob) (b : List Byte) : Frame :=
  { s.jobFrame x.origin (s.core core).inc 1 j.nextMember j.group (chunkField j.ordinal j.nextSend) b with
    desc := if j.nextSend == 0 then j.descriptor else [] }

theorem toNat_chunkField (n q : Nat) : (chunkField n q).toNat % 2 ^ 40 = q % 2 ^ 40 := by
  rw [chunkField, BitVec.toNat_ofNat]
  omega

section
variable {s : State} {k : Nat} {x : Foal} {j : CollJob} {core slot : Nat} (hk : k = foalKey core slot) (hx : s.foalAt k = some x)
  (hj : x.job = .coll j) (hr : x.status = .running) (hcan : x.canreq = false) (hcomplete : j.complete = false)
  (ha : ∀ a ∈ j.arrived, a.1 ≠ j.recvd) (hready : s.collReady k x = true)
  (honly : ∀ e ∈ s.foals, s.collReady e.1 e.2 = true → (∃ i, e.2.job = .coll i ∧ i.engine = j.engine) → e.1 = k)
  {b : List Byte} (hb : j.ready.find? (fun y => y.1 == j.nextSend) = some (j.nextSend, b))
include hk hx hj hr hcan hcomplete ha hready honly hb

/-- R201, R218: the collective that its engine chooses injects its next chunk. -/
theorem execCollChunkSend_injects {t : State} (hinject : s.inject (s.chunkFrame core x j b) = some t) :
    execCollChunkSend core slot s =
      .next (t.putColl k { x with started := true } { j with nextSend := j.nextSend + 1 }) := by
  subst hk
  unfold execCollChunkSend
  simp only [State.collSettle_running hx hj hr hcan hcomplete, State.collCombine_waits hx hj ha, hx, hj]
  generalize hmine : s.foals.filter _ = mine
  have hmem : (foalKey core slot, x) ∈ mine := by
    rw [← hmine]
    exact List.mem_filter.2 ⟨Store.mem_of_find hx, by simp [hready, hj]⟩
  obtain ⟨e, he, hbest⟩ := bestFoal_mem (List.ne_nil_of_mem hmem)
  have hkey : e.1 = foalKey core slot := by
    rw [← hmine] at he
    obtain ⟨hfoal, hcond⟩ := List.mem_filter.1 he
    rw [Bool.and_eq_true] at hcond
    refine honly e hfoal hcond.1 ?_
    cases hjob : e.2.job with
    | coll i => exact ⟨i, rfl, by simpa [hjob] using hcond.2⟩
    | mma _ | tmma _ | copy _ | batch _ => simp [hjob] at hcond
  have hpayload : ∀ f, s.collPayload (foalKey core slot) f j = .ok (s, j, b) := fun f => by
    unfold State.collPayload
    simp only [hb]
  simp only [hbest, hkey, bne_self_eq_false, Bool.false_eq_true, if_false, hpayload]
  unfold State.chunkFrame at hinject
  simp only [hinject, hx]

end

/-! ### A notice (R218) -/

namespace Aside

theorem engineWrite (s : State) (core part e : Nat) (ws : List (Loc × Byte)) : Aside s (s.engineWrite core part e ws) := by
  have hkeep : Aside s (s.keepCode e (ws.map (·.1))) := by
    obtain ⟨_, h⟩ := s.keepCode_rest e (ws.map (·.1))
    rw [h]
    exact .of_eq rfl rfl
  have hshow : ∀ (u : State) (ls : List Loc), Aside u (u.showOwn core ls) := fun u ls => by
    unfold State.showOwn
    obtain ⟨_, h1⟩ := u.writeL1_rest core
      (ls.map fun l => (l, overByte (pendingStores (u.coreReqs core) (l.pa / 128)) (l.pa % 128) (u.homeByte l)))
    simp only [h1]
    obtain ⟨_, _, h2⟩ := State.writeGuest_rest { u with l1 := _ } (dieOfCore core)
      (ls.map fun l => (l, overByte (pendingStores (u.dieReqs (dieOfCore core)) (l.pa / 128)) (l.pa % 128) (u.homeByte l)))
    rw [h2]
    exact .of_eq rfl rfl
  exact (hkeep.trans (.of_keeps (.write ..) (.write ..))).trans (hshow ..)

theorem flushWords (s : State) (k : Nat) : Aside s (s.flushWords k) := by
  unfold State.flushWords
  split
  · exact .of_eq rfl rfl
  · split
    · simp only
      split
      · exact .of_eq rfl rfl
      · exact .engineWrite ..
    all_goals exact .of_eq rfl rfl

end Aside

/-- R218: a collective that ends in FAULT, its team still there, keeps the record of its end. -/
theorem State.collFault_foalAt {s : State} {k : Nat} {f : Foal} {j : CollJob} (hsorted : s.foals.Sorted) (hf : s.foalAt k = some f)
    (hl : f.live = true) (hd : f.detached = false) (hlevel : f.level = .attached) (hteam : (s.ctx f.team).kind ≠ .absent)
    (hj : j.tb = none) (x : Foal) (c : TrapCode) (a : DWord) :
    (s.collFault k x j c a).foalAt k = some (f.endedAs .fault (some c) a) := by
  have hflush := Aside.flushWords s k
  have hf' : (s.flushWords k).foalAt k = some f := (congrArg (Store.find k) hflush.foals).trans hf
  have hend := State.endFoal_aside (some c) a hf' hl (st := .fault) (.inr hd)
  have hfoals : ((s.flushWords k).endFoal k .fault (some c) a).foals = Store.put k (f.endedAs .fault (some c) a) s.foals :=
    hend.foals.trans (congrArg (Store.put k _) hflush.foals)
  unfold State.collFault
  simp only [hj]
  refine State.sweep_stays ⟨?_, ?_, rfl, hlevel, ?_⟩
  · rw [hfoals]
    exact Store.sorted_put hsorted
  · rw [State.foalAt, hfoals]
    exact Store.find_put_same
  · rw [hend.kinds.kind]
    exact (hflush.kinds.kind _).trans_ne hteam

section
variable {s : State} {p : Nat} {f : Frame} {k : Nat} {x : Foal} {j : CollJob} (h : ForJob s p f)
  (hj : x.job = .coll j) (hr : x.status = .running) (hsorted : s.foals.Sorted) (hc : f.cls = 6#8) (hsrc : f.srcpkg.toNat ≠ s.pkg)
  (hkind : f.chunk.toNat % 256 = 2) (htb : j.tb = none) (hold : s.oldestColl f.part.toNat f.job f.group = some (k, x))
  (haway : s.collAway k x = false) (hd : x.detached = false) (hlevel : x.level = .attached) (hteam : (s.ctx x.team).kind = .team)
include h hj hr hsorted hc hsrc hkind htb hold haway hd hlevel hteam

/-- R218: a notice of a mismatch ends the collective in FAULT. -/
theorem jobIn_mismatch :
    (s.jobIn p 6 f).foalAt k =
      some (Foal.endedAs { x with job := .coll { j with noticed := true } } .fault (some .illegalOperand) 0#64) := by
  obtain ⟨ps, hdeliver, -⟩ := jobIn_delivers h (cls := 6) (by rw [hc]; rfl)
  have hold' : ({ s with ports := ps } : State).oldestColl f.part.toNat f.job f.group = some (k, x) := hold
  have haway' : ({ s with ports := ps } : State).collAway k x = false := haway
  have hsrc' : ¬f.srcpkg.toNat = ({ s with ports := ps } : State).pkg := hsrc
  rw [hdeliver]
  unfold State.deliver
  simp only [hc, beq_self_eq_true, if_true, hold', haway', Bool.false_eq_true, if_false]
  unfold State.deliverNotice
  simp only [beq_iff_eq, hsrc', if_false, hold', hj, hkind, if_true]
  have hpass : Aside { s with ports := ps } (({ s with ports := ps } : State).passNotice f j.nextMember) :=
    .of_keeps (.sendJob _ _) (.sendJob _ _)
  generalize ({ s with ports := ps } : State).passNotice f j.nextMember = u at hpass
  have hfoals : u.foals = s.foals := hpass.foals
  refine State.collFault_foalAt ?_ (State.foalAt_putColl ..) ?_ hd hlevel ?_ htb _ _ _
  · show (Store.put k _ u.foals).Sorted
    rw [hfoals]
    exact Store.sorted_put hsorted
  · simp [Foal.live, hr]
  · show (u.ctx x.team).kind ≠ .absent
    rw [hpass.kinds.kind]
    exact hteam.trans_ne (by decide)

end

end Sys2Proof.Machine

open Sys2Proof Sys2Proof.Machine

/-- Settles O49: the next chunk's packet, the four classes received, and the packet that is sent again. -/
theorem collectivePacketsAreSentAndReceived : Obligations.CollectivePacketsAreSentAndReceived := by
  unfold Obligations.CollectivePacketsAreSentAndReceived
  intro s k x j
  refine ⟨?_, fun p f h hc hq ha => ?_, fun p f h hc ha => ?_, fun p f h hc hp => ?_, ?_,
    fun n r p hr hdue hc hmay hroute hroom => ?_⟩
  · intro core slot p b hk hslot hx hj hr hcan hcomplete ha hready honly hb hroute hroom
    have hroute' : s.jobRoute (BitVec.ofNat 8 x.origin.part).toNat (BitVec.ofNat 16 j.nextMember).toNat = some p := by
      rwa [BitVec.toNat_ofNat, BitVec.toNat_ofNat]
    obtain ⟨ps, qs, hinject, hbuffer⟩ := inject_sends (s := s) (f := s.chunkFrame core x j b) hroute' hroom
    exact ⟨_, s.injected p (s.chunkFrame core x j b),
      execCollChunkSend_injects hk hx hj hr hcan hcomplete ha hready honly hb hinject, rfl, rfl, toNat_chunkField .., rfl, rfl, hbuffer, State.foalAt_putColl .., .of_eq rfl rfl rfl⟩
  · exact ⟨_, rfl, jobIn_keepsChunk h hc hq ha⟩
  · exact ⟨_, rfl, jobIn_acks h hc ha⟩
  · exact ⟨_, rfl, jobIn_refused h hc hp⟩
  · intro p f h hx hj hr hsorted hc hsrc hkind htb hold haway hd hlevel hteam
    exact ⟨_, _, rfl, jobIn_mismatch h hj hr hsorted hc hsrc hkind htb hold haway hd hlevel hteam, rfl, rfl⟩
  · obtain ⟨ps, qs, hx⟩ := execAckResendTimer_sends hr hdue hc hmay hroute hroom
    exact ⟨_, s.injected p r.frame, hx, rfl, rfl, rfl, rfl, .of_eq rfl rfl rfl⟩

end

section
/-! The package at power-on (O6). -/

open Sys2Proof Sys2Proof.Machine

/-- Settles O6: power-on lists nothing in any store, so each reads as its default. -/
theorem resetIsSoundAndAtItsValues : Obligations.ResetIsSoundAndAtItsValues :=
  ⟨(soundMemory_iff State.reset).2 reset_sound, rfl, rfl, rfl, rfl, fun _ => ⟨rfl, rfl, rfl, rfl⟩, fun _ _ => ⟨rfl, rfl, rfl⟩⟩
end

section
/-! Exceptions and HALT (O40): TRAP, BRK, HALT and ERET once their level is checked (R229-R232). -/

namespace Sys2Proof.Machine

section
variable {s : State}

/-- R229: TRAP and BRK on a control-core thread. -/
theorem takesException_trapOp (h : ThreadRuns s 0) (code : TrapCode) (im : BitVec 16) :
    TakesException s (trapOp code im s) code.num (BitVec.ofNat 64 im.toNat) := by
  have hk : (s.ctx s.cur).kind = .thread := h.1
  rw [trapOp, begin_thread (n := need1) h rfl rfl]
  simp only [hk, show (HartKind.thread == HartKind.team) = false from rfl, Bool.false_and, Bool.false_eq_true, if_false]
  rw [BitVec.ofNat_toNat]
  exact .of_raiseAt hk code 1 _ _ _

/-- R229: TRAP and BRK on a team whose counts are 0. -/
theorem trapsTeam_trapOp (h : TeamRuns s []) (hl : (s.team s.cur).loads = 0) (hs : (s.team s.cur).stores = 0)
    (code : TrapCode) (im : BitVec 16) : TrapsTeam s (trapOp code im s) code 0#1024 := by
  rw [trapOp, begin_team (n := need1) h rfl rfl]
  simp only [hl, hs, bne_self_eq_false, Bool.or_self, Bool.and_false, Bool.false_eq_true, if_false]
  exact .of_raiseAt h.1 code 1 _ _ _

/-- R229: a team waits for its counts before TRAP and BRK. -/
theorem trapOp_parks (h : TeamRuns s []) (hc : (s.team s.cur).loads ≠ 0 ∨ (s.team s.cur).stores ≠ 0) (code : TrapCode)
    (im : BitVec 16) : trapOp code im s = .next (s.park s.cur (.counts .switchMarker true false)) := by
  rw [trapOp, begin_team (n := need1) h rfl rfl]
  exact if_pos (by simpa [h.1] using hc)

/-- R230: HALT moves on, and parks where no exception is pending. -/
theorem execHalt_eq (h : ThreadRuns s 1) (sw : Bool) :
    execHalt sw s = .next (if (s.thread s.cur).events = [] then (s.done s.cur 1 sw).park s.cur .halt else s.done s.cur 1 sw) := by
  obtain ⟨_, _, hd⟩ := s.done_rest s.cur 1 sw
  have hev : ((s.done s.cur 1 sw).thread s.cur).events = (s.thread s.cur).events := by rw [hd]; rfl
  rw [execHalt, begin_thread (n := { need1 with level := 1 }) h rfl rfl]
  simp only [hev, List.isEmpty_iff]

/-- R232: ERET, by what PLEV holds. -/
theorem execEret_eq (h : ThreadRuns s 1) (sw : Bool) :
    execEret sw s = .next (if (s.thread s.cur).plev = 0#2 ∨ (s.thread s.cur).plev = 3#2 then s.raise s.cur .illegalOperand 1
      else if (s.thread s.cur).level < (s.thread s.cur).plev then s.raise s.cur .priv 1 else s.exceptionReturn s.cur) := by
  rw [execEret, begin_thread (n := { need1 with level := 1 }) h rfl rfl]
  simp only [Bool.or_eq_true, beq_iff_eq]
  split
  · rfl
  · split <;> rfl

end

/-- R230: what HALT leaves that parks. -/
theorem movedTo_park_done (s : State) (n : Nat) (sw : Bool) (w : Wait) :
    let u := (s.done s.cur n sw).park s.cur w
    MovedTo s u n (.parked w) ∧ SameSregs s u ∧ SameScc s u ∧ OnlyHart s u := by
  obtain ⟨hkind, -, hwithin, hbeyond⟩ := passed_done (s := s) (s' := s) n sw rfl rfl rfl rfl rfl
  obtain ⟨⟨_, _, _, hrest⟩, hothers, hmem⟩ := onlyHart_done (s := s) (s' := s) n sw ⟨_, _, _, rfl⟩
    fun _ _ => ⟨rfl, rfl, fun _ _ => rfl⟩
  have hctx : ((s.done s.cur n sw).park s.cur w).ctx s.cur = { (s.done s.cur n sw).ctx s.cur with status := .parked w } :=
    State.ctx_setCtx ..
  refine ⟨?_, fun r => ?_, ?_, ⟨_, _, _, (congrArg (State.park · s.cur w) hrest :)⟩, fun h hh => ?_,
    hmem.trans (.of_eq rfl rfl rfl)⟩
  · rw [MovedTo, hctx]
    exact ⟨hkind, rfl, hwithin, hbeyond⟩
  · rw [State.sreg, hctx]
    exact sameSregs_done n sw r
  · rw [SameScc, hctx]
    exact sameScc_done n sw
  · obtain ⟨hc, ht, hv⟩ := hothers h hh
    exact ⟨(State.ctx_setCtx_ne _ _ hh).trans hc, ht, hv⟩

end Sys2Proof.Machine

open Sys2Proof Sys2Proof.Machine

/-- Settles O40: TRAP and BRK by the hart's kind, HALT by its events, ERET by PLEV. -/
theorem exceptionsAreTakenAndLeft : Obligations.ExceptionsAreTakenAndLeft := by
  unfold Obligations.ExceptionsAreTakenAndLeft
  intro s sw im h t
  refine ⟨fun hr => ⟨takesException_trapOp hr .swtrap im, takesException_trapOp hr .brk im⟩,
    fun hr hl hs => ⟨trapsTeam_trapOp hr hl hs .swtrap im, trapsTeam_trapOp hr hl hs .brk im⟩, fun hr hc i hi => ?_,
    fun hr he => ?_, fun hr he => ?_, fun hr hp hle => ?_, fun hr hp => ?_, fun hr hp hlt => ?_⟩
  · simp only [List.mem_cons, List.not_mem_nil, or_false] at hi
    rcases hi with rfl | rfl
    · exact ⟨_, trapOp_parks hr hc .swtrap im, .of_park s _⟩
    · exact ⟨_, trapOp_parks hr hc .brk im, .of_park s _⟩
  · exact ⟨_, (execHalt_eq hr sw).trans (by rw [if_pos he]), movedTo_park_done s 1 sw .halt⟩
  · have hx : exec (.halt sw) s = _ := execHalt_eq hr sw
    rw [hx, if_neg he]
    exact onlyPasses_done s 1 sw
  · have hbad : ¬(t.plev = 0#2 ∨ t.plev = 3#2) := by
      rcases hp with hp | hp <;> simp [hp]
    have hlow : ¬t.level < t.plev := Nat.not_lt.2 hle
    have hx : exec (.eret sw) s = .next (s.exceptionReturn s.cur) :=
      (execEret_eq hr sw).trans (by rw [if_neg hbad, if_neg hlow])
    exact ⟨_, hx, State.thread_setThread .., State.ctx_setCtx .., ⟨_, _, rfl⟩,
      fun k hk => ⟨State.ctx_setCtx_ne _ _ hk, State.thread_setThread_ne _ _ hk⟩⟩
  · have hx : exec (.eret sw) s = _ := execEret_eq hr sw
    rw [hx, if_pos hp]
    exact .of_raise hr.1 .illegalOperand 1
  · have hbad : ¬(t.plev = 0#2 ∨ t.plev = 3#2) := by
      rintro (h0 | h3)
      · rw [h0] at hlt
        exact absurd hlt (Nat.not_lt_zero _)
      · exact hp h3
    have hlow : t.level < t.plev := hlt
    have hx : exec (.eret sw) s = _ := execEret_eq hr sw
    rw [hx, if_neg hbad, if_pos hlow]
    exact .of_raise hr.1 .priv 1
end

section
/-! Control registers (O41): what CSRR, CSRW, CSRS and CSRC do to the registers of R234, by their level (R233-R236). -/

namespace Sys2Proof.Machine
open Sys2Proof.Claims

/-! ### The tables -/

theorem Thread.cstatus_eq (t : Thread) :
    t.cstatus = BitVec.ofNat 64 (t.level.toNat + 4 * t.plev.toNat + 16 * t.ie.toNat + 32 * t.pie.toNat) := by
  obtain ⟨level, plev, ie, pie⟩ := t
  simp only [Thread.cstatus]
  revert level plev ie pie
  decide

theorem Partition.pcfg_eq (p : Partition) :
    p.pcfg = BitVec.ofNat 64 (p.det.toNat + 2 * p.live.toNat + 4 * p.creating.toNat) := by
  simp only [Partition.pcfg]
  cases p.det <;> cases p.live <;> cases p.creating <;> rfl

theorem tqsizeOk_iff (v : DWord) : tqsizeOk v = true ↔ ∃ k, k ≤ 10 ∧ v.toNat = 64 * 2 ^ k := by
  simp [tqsizeOk, Nat.lt_succ_iff]

/-- R234: a thread's own registers ask for supervisor level. -/
theorem csrLevel_of_thread (t : Thread) : ∀ p ∈ threadCsrs t, p.1 < 4096 ∧ csrLevel p.1 = some 1 := by
  simp only [threadCsrs, List.forall_mem_cons, List.not_mem_nil, false_imp_iff, implies_true, and_true]
  decide

theorem csrLevel_of_package (s : State) : ∀ p ∈ packageCsrs s, p.1 < 4096 ∧ csrLevel p.1 = some p.2.1 := by
  simp only [packageCsrs, List.forall_mem_cons, List.not_mem_nil, false_imp_iff, implies_true, and_true]
  decide

/-- R234: no other number is assigned. -/
theorem csrLevel_of_unassigned {n : Nat}
    (hn : n ∉ [0, 1, 2, 3, 4, 5, 0x10, 0x11, 0x12, 0x13, 0x20, 0x100, 0x101, 0x102]) : csrLevel n = none := by
  simp only [List.mem_cons, List.not_mem_nil, or_false, not_or] at hn
  unfold csrLevel
  rw [if_neg, if_neg]
  · simp only [Bool.and_eq_true, decide_eq_true_eq]
    omega
  · simp only [Bool.or_eq_true, Bool.and_eq_true, decide_eq_true_eq, beq_iff_eq]
    omega

section
variable (s : State) (h : Nat)

theorem csrRead_thread : ∀ p ∈ threadCsrs (s.thread h), s.csrRead h p.1 = p.2.1 := by
  simp only [threadCsrs, List.forall_mem_cons, List.not_mem_nil, false_imp_iff, implies_true, and_true]
  exact ⟨Thread.cstatus_eq _, rfl, (BitVec.ofNat_toNat ..).symm, rfl, rfl, rfl, rfl⟩

theorem csrWrite_thread (v : DWord) : ∀ p ∈ threadCsrs (s.thread h),
    (∃ ts, s.csrWrite h p.1 v = { s with threads := ts }) ∧ (s.csrWrite h p.1 v).thread h = p.2.2 v ∧
      ∀ k, k ≠ h → (s.csrWrite h p.1 v).thread k = s.thread k := by
  have hset : ∀ t, (∃ ts, s.setThread h t = { s with threads := ts }) ∧ (s.setThread h t).thread h = t ∧
      ∀ k, k ≠ h → (s.setThread h t).thread k = s.thread k := fun t =>
    ⟨⟨_, rfl⟩, State.thread_setThread .., fun k hk => State.thread_setThread_ne s t hk⟩
  simp only [threadCsrs, List.forall_mem_cons, List.not_mem_nil, false_imp_iff, implies_true, and_true]
  refine ⟨hset _, hset _, hset _, hset _, hset _, hset _, ?_⟩
  show (∃ ts, (ite _ _ _ : State) = _) ∧ (ite _ _ _ : State).thread h = _ ∧ ∀ k, k ≠ h → (ite _ _ _ : State).thread k = _
  split
  · exact hset _
  · exact ⟨⟨_, rfl⟩, rfl, fun _ _ => rfl⟩

theorem csrRead_package : ∀ p ∈ packageCsrs s, s.csrRead s.cur p.1 = p.2.2.1 := by
  simp only [packageCsrs, List.forall_mem_cons, List.not_mem_nil, false_imp_iff, implies_true, and_true]
  exact ⟨rfl, rfl, rfl, rfl, Partition.pcfg_eq _, rfl, rfl⟩

theorem csrWrite_package (v : DWord) : ∀ p ∈ packageCsrs s, s.csrWrite s.cur p.1 v = p.2.2.2 v := by
  simp only [packageCsrs, List.forall_mem_cons, List.not_mem_nil, false_imp_iff, implies_true, and_true]
  refine ⟨rfl, rfl, rfl, ?_, rfl, rfl, rfl⟩
  show ite _ _ _ = _
  simp only [tqsizeOk_iff]

end

/-! ### The forms -/

section
variable {s : State} (h : ThreadRuns s 1) {a : Src} (ha : Src.scalOk a = true) (f : DWord → Option DWord) (d : SReg) (sw : Bool)
include h ha

theorem csrOp_unassigned (hn : csrLevel (Src.scalar s s.cur a).toNat = none) :
    TakesException s (csrOp f d a sw s) 0x03 0#64 := by
  rw [csrOp, begin_thread (n := { needS a with level := 1 }) h rfl ha]
  simp only [hn, ite_self]
  exact .of_raise h.1 .illegalOperand _

variable {n l : Nat} (hv : (Src.scalar s s.cur a).toNat = n) (hn : n < 4096) (hl : csrLevel n = some l)
include hv hn hl

theorem csrOp_priv (hlt : (s.thread s.cur).level.toNat < l) : TakesException s (csrOp f d a sw s) 0x04 0#64 := by
  rw [csrOp, begin_thread (n := { needS a with level := 1 }) h rfl ha]
  simp only [hv, hn, if_true, hl, hlt]
  exact .of_raise h.1 .priv _

/-- R233: s[D] takes the old value, and the register the new one. -/
theorem csrOp_eq (hle : l ≤ (s.thread s.cur).level.toNat) :
    csrOp f d a sw s = .next (((match f (s.csrRead s.cur n) with
      | none => s
      | some v => s.csrWrite s.cur n v).setSreg s.cur d (s.csrRead s.cur n)).done s.cur (Src.len a) sw) := by
  rw [csrOp, begin_thread (n := { needS a with level := 1 }) h rfl ha]
  cases hf : f (s.csrRead s.cur n) <;> simp only [hv, hn, if_true, hl, Nat.not_lt.2 hle, if_false, hf]

end

/-- A thread's own registers have changed and s[D] takes a value: the thread moves on. -/
theorem threadsWritten_done {s v : State} (hk : (s.ctx s.cur).kind = .thread) (hv : ∃ ts, v = { s with threads := ts }) (d : SReg)
    (x : DWord) (n : Nat) (sw : Bool) :
    let u := (v.setSreg s.cur d x).done s.cur n sw
    u.sreg s.cur d = x ∧ u.threads = v.threads ∧ SameSregsBut d s u ∧ SameScc s u ∧ Passed s u n sw ∧ SameOthers s u ∧
      ∃ cs ts, u = { s with ctxs := cs, threads := ts } := by
  obtain ⟨ts, rfl⟩ := hv
  have hplace : HoldsPlace s { s with threads := ts } := .of_eq rfl rfl rfl (.of_eq rfl rfl rfl)
  have hset := hplace.setSreg d x
  obtain ⟨hsreg, hregs, hscc, -, hpassed⟩ := answered_done (s := s) (v := { s with threads := ts }) rfl rfl d x n sw
  obtain ⟨-, -, -, hothers⟩ := hset.done n sw
  obtain ⟨cs, e⟩ := State.done_rest_of_thread (hset.kind.trans hk) n sw
  exact ⟨hsreg, by rw [e]; rfl, hregs, hscc, hpassed, hothers, cs, ts, e⟩

end Sys2Proof.Machine

namespace Sys2Proof.Claims
open Sys2Proof.Machine

/-- R233-R236: by the table that names the register. -/
theorem controlRegistersAreReadAndWritten : ControlRegistersAreReadAndWritten := by
  unfold ControlRegistersAreReadAndWritten
  intro s sw d b a hr ha h n len x forms
  have hforms : ∀ f ∈ forms, exec f.1 s = csrOp (fun o => some (f.2 o)) d a sw s := by
    simp only [forms, List.forall_mem_cons, List.not_mem_nil, false_imp_iff, implies_true, and_true]
    exact ⟨rfl, rfl, rfl⟩
  have hread : exec (.csrr sw d a) s = csrOp (fun _ => none) d a sw s := rfl
  refine ⟨fun p hp hn => ?_, fun p hp hn => ⟨fun hle => ⟨?_, fun f hf => ?_⟩, fun hlt => ⟨?_, fun f hf => ?_⟩⟩,
    fun hn => ⟨?_, fun f hf => ?_⟩⟩
  · obtain ⟨hlt, hl⟩ := csrLevel_of_thread (s.thread h) p hp
    have hold := csrRead_thread s h p hp
    refine ⟨?_, fun f hf => ?_⟩
    · rw [hread, csrOp_eq hr ha _ d sw hn hlt hl hr.2, hold]
      exact writesSreg_done ..
    · obtain ⟨hrest, hthread, hthreads⟩ := csrWrite_thread s h (f.2 p.2.1) p hp
      obtain ⟨hsreg, htable, hregs, hscc, hpassed, hothers, hu⟩ := threadsWritten_done hr.1 hrest d p.2.1 len sw
      have hth : ∀ k, _ = (s.csrWrite h p.1 (f.2 p.2.1)).thread k := fun k => congrArg (Store.get Thread.blank · k) htable
      refine ⟨_, ?_, hsreg, (hth h).trans hthread, hregs, hscc, hpassed, fun k hk => (hth k).trans (hthreads k hk), hothers, hu⟩
      rw [hforms f hf, csrOp_eq hr ha _ d sw hn hlt hl hr.2, hold]
  · obtain ⟨hlt, hl⟩ := csrLevel_of_package s p hp
    rw [hread, csrOp_eq hr ha _ d sw hn hlt hl hle, csrRead_package s p hp]
    exact writesSreg_done ..
  · obtain ⟨hlt, hl⟩ := csrLevel_of_package s p hp
    rw [hforms f hf, csrOp_eq hr ha _ d sw hn hlt hl hle, csrRead_package s p hp]
    simp only [csrWrite_package s _ p hp]
    rfl
  · obtain ⟨hlt', hl⟩ := csrLevel_of_package s p hp
    rw [hread]
    exact csrOp_priv hr ha _ d sw hn hlt' hl hlt
  · obtain ⟨hlt', hl⟩ := csrLevel_of_package s p hp
    rw [hforms f hf]
    exact csrOp_priv hr ha _ d sw hn hlt' hl hlt
  · rw [hread]
    exact csrOp_unassigned hr ha _ d sw (csrLevel_of_unassigned hn)
  · rw [hforms f hf]
    exact csrOp_unassigned hr ha _ d sw (csrLevel_of_unassigned hn)

end Sys2Proof.Claims
end

section
/-! Translations invalidated (O41): the forms of TLBI, and what TLBI.SYNC makes of the harts that watch memory through a
translation (R237, R238). -/

namespace Sys2Proof.Machine
open Sys2Proof.Claims

/-! ### TLBI.VA, TLBI.PART and TLBI.ALL -/

/-- What a TLBI leaves that drops the entries that `out` names (log 41). -/
def Drops (s : State) (o : Out) (out : TlbEntry → Prop) (n : Nat) (sw : Bool) : Prop :=
  ∃ u : State, o = .next u ∧ (∀ e, e ∈ u.tlb ↔ e ∈ s.tlb ∧ ¬out e) ∧
    u.thread s.cur = { s.thread s.cur with posted := s.nextId } ∧ Passed s u n sw ∧ SameSregs s u ∧ SameScc s u ∧
    SameOthers s u ∧ ∃ cs ts x, u = { s with ctxs := cs, threads := ts, tlb := x }

theorem drops_done {s : State} (hk : (s.ctx s.cur).kind = .thread) {p : TlbEntry → Bool} {out : TlbEntry → Prop}
    (hp : ∀ e, p e = true ↔ out e) (n : Nat) (sw : Bool) : Drops s (.next ((s.dropTlb s.cur p).done s.cur n sw)) out n sw := by
  have hplace : HoldsPlace s (s.dropTlb s.cur p) := .of_eq rfl rfl rfl (.of_eq rfl rfl rfl)
  obtain ⟨hpassed, -, -, hothers⟩ := hplace.done n sw
  obtain ⟨cs, e⟩ := State.done_rest_of_thread (s := s.dropTlb s.cur p) hk n sw
  refine ⟨_, rfl, fun x => ?_, ?_, hpassed, fun r => sameSregs_done n sw r, sameScc_done n sw, hothers, cs, _, _, e⟩
  · rw [e]
    show x ∈ s.tlb.filter (fun y => !p y) ↔ _
    rw [List.mem_filter, Bool.not_eq_true', ← Bool.not_eq_true, hp]
  · rw [e]
    exact State.thread_setThread ..

theorem TlbEntry.covers_iff (e : TlbEntry) (part vpage : Nat) :
    e.covers part vpage = true ↔ e.part = part ∧ e.vpage ≤ vpage ∧ vpage < e.vpage + e.pages := by
  simp [TlbEntry.covers]

section
variable {s : State} (h : ThreadRuns s 1) (sw : Bool)
include h

theorem execTlbiAll_drops : Drops s (execTlbiAll sw s) (fun _ => True) 1 sw := by
  rw [execTlbiAll, begin_thread (n := { need1 with level := 1 }) h rfl rfl]
  exact drops_done h.1 (fun _ => by simp) 1 sw

variable {a : Src} (ha : Src.scalOk a = true)
include ha

/-- R238: the page of A in the partition that PSEL names. -/
theorem execTlbiVa_drops (hv : (Src.scalar s s.cur a).toNat < 2 ^ 55) :
    Drops s (execTlbiVa sw a s) (fun e => e.part = (s.thread s.cur).psel ∧ e.vpage ≤ (Src.scalar s s.cur a).toNat / 65536 ∧
      (Src.scalar s s.cur a).toNat / 65536 < e.vpage + e.pages) (Src.len a) sw := by
  rw [execTlbiVa, begin_thread (n := { needS a with level := 1 }) h rfl ha]
  simp only [Nat.not_le.2 hv, if_false]
  exact drops_done h.1 (fun e => e.covers_iff ..) _ sw

theorem execTlbiVa_traps (hv : 2 ^ 55 ≤ (Src.scalar s s.cur a).toNat) : TakesException s (execTlbiVa sw a s) 0x03 0#64 := by
  rw [execTlbiVa, begin_thread (n := { needS a with level := 1 }) h rfl ha]
  simp only [hv, if_true]
  exact .of_raise h.1 .illegalOperand _

theorem execTlbiPart_drops (h1 : 1 ≤ (Src.scalar s s.cur a).toNat) (h63 : (Src.scalar s s.cur a).toNat ≤ 63) :
    Drops s (execTlbiPart sw a s) (fun e => e.part = (Src.scalar s s.cur a).toNat) (Src.len a) sw := by
  rw [execTlbiPart, begin_thread (n := { needS a with level := 1 }) h rfl ha]
  have hgood : ((Src.scalar s s.cur a).toNat == 0 || decide (63 < (Src.scalar s s.cur a).toNat)) = false := by
    simp only [Bool.or_eq_false_iff, beq_eq_false_iff_ne, decide_eq_false_iff_not]
    omega
  simp only [hgood, Bool.false_eq_true, if_false]
  exact drops_done h.1 (fun e => beq_iff_eq) _ sw

theorem execTlbiPart_traps (hv : (Src.scalar s s.cur a).toNat = 0 ∨ 63 < (Src.scalar s s.cur a).toNat) :
    TakesException s (execTlbiPart sw a s) 0x03 0#64 := by
  rw [execTlbiPart, begin_thread (n := { needS a with level := 1 }) h rfl ha]
  have hbad : ((Src.scalar s s.cur a).toNat == 0 || decide (63 < (Src.scalar s s.cur a).toNat)) = true := by simpa using hv
  simp only [hbad, if_true]
  exact .of_raise h.1 .illegalOperand _

end

/-! ### The accesses that TLBI.SYNC waits for -/

theorem performedBefore_iff (s : State) (n : Nat) : s.performedBefore n = true ↔
    (∀ e ∈ s.teams, (∀ r ∈ e.2.reqs, r.id < n → r.todo = []) ∧ ∀ c ∈ e.2.copies, n ≤ c.id) ∧
      ∀ e ∈ s.foals, e.2.id < n → e.2.landing = false := by
  simp only [State.performedBefore, Bool.and_eq_true, List.all_eq_true, Bool.or_eq_true, decide_eq_true_eq, List.isEmpty_iff,
    Bool.not_eq_true', ← Nat.not_lt, imp_iff_not_or]

theorem execTlbiSync_eq {s : State} (h : ThreadRuns s 1) (sw : Bool) : execTlbiSync sw s =
    .next (if s.performedBefore (s.thread s.cur).posted then s.retranslateAll.done s.cur 1 sw else s.park s.cur .tlbi) := by
  rw [execTlbiSync, begin_thread (n := { need1 with level := 1 }) h rfl rfl]

/-! ### What is parked translates again (log 72) -/

/-- A hart is absent, or listed. -/
theorem State.ctx_listed (s : State) (k : Nat) : s.ctx k = Ctx.blank ∨ (k, s.ctx k) ∈ s.ctxs := by
  unfold State.ctx Store.get
  cases hf : Store.find k s.ctxs with
  | none => exact .inl rfl
  | some c => exact .inr (Store.mem_of_find hf)

/-- A hart's status is that of a park that TLBI.SYNC translates again. -/
def Status.Translated (st : Status) : Prop :=
  (∃ va pl c y w, st = .parked (.value false va pl c y w)) ∨ ∃ l, st = .parked (.queueRoom l)

theorem State.retranslate_other {s : State} {k : Nat} (h : ¬(s.ctx k).status.Translated) : s.retranslate k = s := by
  unfold State.retranslate
  split
  · rename_i hs
    exact absurd (.inl ⟨_, _, _, _, _, hs⟩) h
  · rename_i hs
    exact absurd (.inr ⟨_, hs⟩) h
  · rfl

theorem State.retranslateAll_other {s : State} (h : ∀ e ∈ s.ctxs, ¬e.2.status.Translated) : s.retranslateAll = s := by
  have hk : ∀ k, s.retranslate k = s := fun k => State.retranslate_other <| by
    rcases s.ctx_listed k with hb | hm
    · rw [hb]
      simp [Status.Translated, Ctx.blank]
    · exact h _ hm
  unfold State.retranslateAll
  generalize s.ctxs.map _ = ks
  induction ks with
  | nil => rfl
  | cons k r ih => rw [List.foldl_cons, hk, ih]

theorem State.retranslate_spares (s : State) {h k : Nat} (hk : k ≠ h) : Spares k s (s.retranslate h) := by
  have hset : ∀ c, Spares k s (s.setCtx h c) := fun c => ⟨State.ctx_setCtx_ne s c hk, rfl⟩
  unfold State.retranslate
  split
  · split
    · exact (hset _).trans (State.readWait_spares _ _ _ _ _ _ hk)
    · exact hset _
  · exact hset _
  · exact ⟨rfl, rfl⟩

/-- Once a hart stands where TLBI.SYNC leaves it, it stays there. -/
theorem retranslates_ctx {k : Nat} (ks : List Nat) {s : State} (h : ¬(s.ctx k).status.Translated) :
    (ks.foldl State.retranslate s).ctx k = s.ctx k := by
  induction ks generalizing s with
  | nil => rfl
  | cons j r ih =>
    have hj : (s.retranslate j).ctx k = s.ctx k := by
      by_cases hk : k = j
      · rw [← hk, State.retranslate_other h]
      · exact (s.retranslate_spares hk).1
    rw [List.foldl_cons, ih (by rwa [hj]), hj]

/-- A QPOST that waits for room is to issue again. -/
theorem retranslates_queueRoom {k : Nat} {l : Loc} {ks : List Nat} (hmem : k ∈ ks) {s : State} (hk : (s.ctx k).kind = .team)
    (hs : (s.ctx k).status = .parked (.queueRoom l)) :
    (ks.foldl State.retranslate s).ctx k = { s.ctx k with status := .ready } := by
  induction ks generalizing s with
  | nil => cases hmem
  | cons j r ih =>
    rw [List.foldl_cons]
    by_cases hj : k = j
    · subst hj
      have hready : s.retranslate k = s.setCtx k { s.ctx k with status := .ready } := by
        unfold State.retranslate
        rw [hk, hs]
      have hctx : (s.retranslate k).ctx k = { s.ctx k with status := .ready } := by rw [hready, State.ctx_setCtx]
      rw [retranslates_ctx r (by simp [hctx, Status.Translated]), hctx]
    · have hctx := (s.retranslate_spares hj).1
      rw [ih ((List.mem_cons.1 hmem).resolve_left hj) (by rwa [hctx]) (by rwa [hctx]), hctx]

/-! ### A WAITV that still waits -/

/-- Other harts' WAITVs have read again: no byte, no table and no translation has changed, and hart `k`'s team record is as it
was. -/
structure ReadsBeside (k : Nat) (s t : State) : Prop where
  keeps : KeepsHome s t
  rereads : Rereads s t
  meters : MetersOnly s t
  team : t.team k = s.team k

namespace ReadsBeside

theorem refl {s : State} (hs : Sound s.mem s.l2) (k : Nat) : ReadsBeside k s s :=
  ⟨.refl hs, (ReadsHome.refl s).rereads, .of_eq rfl, rfl⟩

theorem trans {k : Nat} {s t u : State} (hst : ReadsBeside k s t) (htu : ReadsBeside k t u) : ReadsBeside k s u :=
  ⟨hst.keeps.trans htu.keeps, hst.rereads.trans htu.rereads, hst.meters.trans htu.meters, htu.team.trans hst.team⟩

theorem setCtx {s : State} (hs : Sound s.mem s.l2) (k h : Nat) (c : Ctx) : ReadsBeside k s (s.setCtx h c) :=
  ⟨.of_eq hs rfl rfl, ⟨_, _, _, _, _, _, _, _, rfl⟩, .of_eq rfl, rfl⟩

theorem of_fetches {s t : State} (h : Fetches s t) (k : Nat) : ReadsBeside k s t :=
  ⟨h.keeps, h.reads.rereads, h.meters, h.reads.harts.2.2.2.1 k⟩

theorem waitMet {s : State} (hs : Sound s.mem s.l2) {k h : Nat} (hk : k ≠ h) (sc sw : Bool) :
    ReadsBeside k s (s.waitMet h sc sw) := by
  obtain ⟨_, _, _, _, e⟩ := s.waitMet_rest h sc sw
  refine ⟨.of_eq hs (by rw [e]) (by rw [e]), by rw [e]; exact ⟨_, _, _, _, _, _, _, _, rfl⟩, .of_eq (by rw [e]), ?_⟩
  have hacq : ((s.setCtx h { s.ctx h with status := .ready }).acquire h .pkg).team k = s.team k := by
    unfold State.acquire
    split
    · rfl
    · rfl
    · exact State.team_setTeam_ne _ _ hk
  rw [State.waitMet, State.done_team_ne _ 1 sw hk]
  cases sc
  · exact hacq
  · rfl

theorem readWait {s : State} (hs : Sound s.mem s.l2) {k h : Nat} (hk : k ≠ h) (pl : List Loc) (c : WaitCond) (y : DWord)
    (sw : Bool) : ReadsBeside k s (s.readWait h false pl c y sw) := by
  have hread := Fetches.useAll hs (s.owner h) pl
  unfold State.readWait
  split
  · exact .refl hs k
  · simp only [Bool.false_eq_true, if_false]
    split
    · exact (of_fetches hread k).trans (.waitMet hread.keeps.sound hk ..)
    · exact of_fetches hread k

theorem retranslate {s : State} (hs : Sound s.mem s.l2) {k h : Nat} (hk : k ≠ h) : ReadsBeside k s (s.retranslate h) := by
  unfold State.retranslate
  split
  · split
    · exact (ReadsBeside.setCtx hs k h _).trans (.readWait (s := s.park h _) hs hk ..)
    · exact .setCtx hs k h _
  · exact .setCtx hs k h _
  · exact .refl hs k

section
variable {k : Nat} {s t : State} (h : ReadsBeside k s t)
include h

theorem home64 (pa : Nat) : t.home64 pa = s.home64 pa := by
  simp only [State.home64, h.keeps.same]

theorem walkStage (s2 : Bool) (rd : Nat → Except XErr Nat) (root a : Nat) :
    Machine.walkStage t s2 rd root a = Machine.walkStage s s2 rd root a := by
  simp only [Machine.walkStage, h.home64]

theorem stage2 (p : Partition) (ipa : Nat) : Machine.stage2 t p ipa = Machine.stage2 s p ipa := by
  simp only [Machine.stage2, h.walkStage]

theorem walk (part va : Nat) : Machine.walk t part va = Machine.walk s part va := by
  obtain ⟨m, hm⟩ := h.meters.part part
  have hr1 : (t.part part).s1root = (s.part part).s1root := by rw [hm]
  have hr2 : (t.part part).s2root = (s.part part).s2root := by rw [hm]
  have hp : (t.part part).pchan = (s.part part).pchan := by rw [hm]
  have hread : ∀ p, stage1Read t p = stage1Read s p := fun p => by
    funext ipa
    simp only [stage1Read, stage1Loc, h.stage2]
  simp only [Machine.walk, hread, h.walkStage, h.stage2, hr1, stage1Read_congr s hr2 hp, stage2_congr s hr2 hp]

theorem translateBytes (core : Option Nat) (part : Nat) (va : Addr) (n : Nat) (acc : Access) (ws : List Walked) :
    Machine.translateBytes t core part va n acc ws = Machine.translateBytes s core part va n acc ws := by
  have hcached : ∀ c v, t.cached c part v = s.cached c part v := fun c v => by
    obtain ⟨_, _, _, _, _, _, _, _, e⟩ := h.rereads
    rw [e]
    rfl
  simp only [Machine.translateBytes, translate, hcached, h.walk]

theorem checkAsk (acc : Access) (va : Addr) (n : Nat) : t.checkAsk k .global acc va n = s.checkAsk k .global acc va n := by
  have hrest : t.wgs = s.wgs ∧ t.threads = s.threads := by
    obtain ⟨_, _, _, _, _, _, _, _, e⟩ := h.rereads
    rw [e]
    exact ⟨rfl, rfl⟩
  have hwg : t.wgOf k = s.wgOf k := by
    simp only [State.wgOf, State.wg, h.team, hrest.1]
  have hwalks : t.walksOf k = s.walksOf k := by
    simp only [State.walksOf, h.team, hrest.2]
  simp only [State.checkAsk, State.coreOf, hwg, hwalks, h.translateBytes]

theorem watched (pl : List Loc) : t.watched k false pl = s.watched k false pl := by
  simp only [State.watched, Bool.false_eq_true, if_false, h.keeps.same]

end

end ReadsBeside

section
variable {k : Nat} {s : State} (hs : Sound s.mem s.l2) (hk : (s.ctx k).kind = .team) {va : Addr} {pl pl' : List Loc} {c : WaitCond}
  {y : DWord} {w : Bool} (hp : (s.ctx k).status = .parked (.value false va pl c y w))
  (hok : s.checkAsk k .global .read va 8 = .ok pl') (hc : c.holds (s.watched k false pl') y = false)
include hs hk hp hok hc

/-- A WAITV whose condition is not met stays parked, and watches its bytes where they translate now. -/
theorem State.retranslate_waits : ReadsBeside k s (s.retranslate k) ∧
    (s.retranslate k).ctx k = { s.ctx k with status := .parked (.value false va pl' c y w) } := by
  have hpark := ReadsBeside.setCtx hs k k { s.ctx k with status := .parked (.value false va pl' c y w) }
  have hread := Fetches.useAll (s := s.park k (.value false va pl' c y w)) hs ((s.park k (.value false va pl' c y w)).owner k) pl'
  have hunmet : c.holds ((s.park k (.value false va pl' c y w)).watched k false pl') y = false :=
    (congrArg (c.holds · y) (hpark.watched pl')).trans hc
  have hctx : (s.park k (.value false va pl' c y w)).ctx k = { s.ctx k with status := .parked (.value false va pl' c y w) } :=
    State.ctx_setCtx ..
  have he : s.retranslate k = (s.park k (.value false va pl' c y w)).readWait k false pl' c y w := by
    unfold State.retranslate
    rw [hk, hp]
    simp only [hok]
  rw [he]
  unfold State.readWait
  split
  · exact ⟨hpark, hctx⟩
  · simp only [Bool.false_eq_true, if_false, hunmet]
    exact ⟨hpark.trans (.of_fetches hread k), (hread.reads.harts.2.1 k).trans hctx⟩

end

/-- So it does wherever in the order of the harts it stands. -/
theorem retranslates_waits {k : Nat} {va : Addr} {pl' : List Loc} {c : WaitCond} {y : DWord} {w : Bool} (ks : List Nat) {s : State}
    (hs : Sound s.mem s.l2) (hk : (s.ctx k).kind = .team) {pl : List Loc}
    (hp : (s.ctx k).status = .parked (.value false va pl c y w)) (hok : s.checkAsk k .global .read va 8 = .ok pl')
    (hc : c.holds (s.watched k false pl') y = false) (hmem : k ∈ ks ∨ pl = pl') :
    (ks.foldl State.retranslate s).ctx k = { s.ctx k with status := .parked (.value false va pl' c y w) } := by
  induction ks generalizing s pl with
  | nil =>
    have hpl : pl = pl' := hmem.resolve_left List.not_mem_nil
    rw [List.foldl_nil, ← hpl, ← hp]
  | cons j r ih =>
    rw [List.foldl_cons]
    by_cases hj : k = j
    · subst hj
      obtain ⟨hbeside, hctx⟩ := State.retranslate_waits hs hk hp hok hc
      rw [ih hbeside.keeps.sound (by rw [hctx]; exact hk) (congrArg Ctx.status hctx) ((hbeside.checkAsk ..).trans hok)
        (by rw [hbeside.watched]; exact hc) (.inr rfl), hctx]
    · have hbeside := ReadsBeside.retranslate hs hj
      have hctx := (s.retranslate_spares hj).1
      rw [ih hbeside.keeps.sound (by rwa [hctx]) (by rwa [hctx]) ((hbeside.checkAsk ..).trans hok) (by rw [hbeside.watched]; exact hc)
        (hmem.imp_left fun hm => (List.mem_cons.1 hm).resolve_left hj), hctx]

end Sys2Proof.Machine

namespace Sys2Proof.Claims
open Sys2Proof.Machine

/-- R237, R238: the forms that drop translations, and TLBI.SYNC by what it waits for. -/
theorem translationsAreInvalidated : TranslationsAreInvalidated := by
  unfold TranslationsAreInvalidated
  intro s sw a hr ha h v t drops done
  refine ⟨execTlbiVa_drops hr sw ha, execTlbiVa_traps hr sw ha, execTlbiPart_drops hr sw ha, execTlbiPart_traps hr sw ha,
    execTlbiAll_drops hr sw, fun hdone => ?_, fun ⟨e, he, r, hreq, hid, htodo⟩ => ?_⟩
  · have hx : exec (.tlbiSync sw) s = .next (s.retranslateAll.done h 1 sw) :=
      (execTlbiSync_eq hr sw).trans (by rw [if_pos ((performedBefore_iff ..).2 hdone)])
    have hteam : ∀ k, (s.ctx k).kind = .team → k ≠ s.cur ∧ k ∈ s.ctxs.map (·.1) := fun k hk => by
      refine ⟨?_, ?_⟩
      · rintro rfl
        cases hk.symm.trans hr.1
      · rcases s.ctx_listed k with hb | hm
        · rw [hb] at hk
          cases hk
        · exact List.mem_map_of_mem (f := (·.1)) hm
    refine ⟨hx, fun hnone => ?_, fun k l hk hp => ?_, fun hs k va pl c y w pl' hk hp hok hc => ?_⟩
    · rw [hx, State.retranslateAll_other fun e he => ?_]
      · exact onlyPasses_done s 1 sw
      · rintro (⟨va, pl, c, y, w, hp⟩ | ⟨l, hp⟩)
        · exact (hnone e he).1 va pl c y w hp
        · exact (hnone e he).2 l hp
    · obtain ⟨hne, hmem⟩ := hteam k hk
      exact ⟨_, hx, (State.done_ctx_ne _ 1 sw hne).trans (retranslates_queueRoom hmem hk hp)⟩
    · obtain ⟨hne, hmem⟩ := hteam k hk
      exact ⟨_, hx, (State.done_ctx_ne _ 1 sw hne).trans
        (retranslates_waits _ ((soundMemory_iff s).1 hs) hk hp hok hc (.inl hmem))⟩
  · have hopen : ¬s.performedBefore t.posted = true := fun hp =>
      htodo (((performedBefore_iff ..).1 hp).1 e he |>.1 r hreq hid)
    exact ⟨_, (execTlbiSync_eq hr sw).trans (by rw [if_neg hopen]), .of_park s _⟩

end Sys2Proof.Claims

open Sys2Proof

/-- Settles O41: the registers by their tables, and the forms of TLBI. -/
theorem controlRegistersAndTranslations : Obligations.ControlRegistersAndTranslations :=
  ⟨Claims.controlRegistersAreReadAndWritten, Claims.translationsAreInvalidated⟩
end

section
/-! Meters, capability space and usage records (O42): MRDC, CAPR and MSIGN (R239, R240, R247, R402-R404). -/

namespace Sys2Proof.Machine
open Sys2Proof.Claims

/-! ### MRDC -/

/-- The selector's partition. -/
theorem toNat_extractLsb'_8_8 {a : DWord} (h : a.toNat < 2 ^ 16) : (a.extractLsb' 8 8).toNat = a.toNat / 256 := by
  rw [BitVec.extractLsb'_toNat, Nat.shiftRight_eq_div_pow]
  omega

section
variable {team : Bool} {a : DWord} {own : Nat}

theorem mrdcTrap_high (h : 2 ^ 16 ≤ a.toNat) : mrdcTrap team a own = some .illegalOperand := if_pos h

variable (hv : a.toNat < 2 ^ 16)
include hv

/-- MRDC's trap, by the fields of its operand. -/
theorem mrdcTrap_eq : mrdcTrap team a own =
    if team = true ∧ a.toNat / 256 ≠ 0 ∧ a.toNat / 256 ≠ own then some .perm
    else if (team = false ∧ a.toNat / 256 = 0) ∨ 10 ≤ a.toNat % 256 then some .illegalOperand else none := by
  unfold mrdcTrap
  simp only [toNat_extractLsb'_8_8 hv, Nat.not_le.2 hv, if_false]
  simp [and_assoc]

end

section
variable {s : State} (h : HartRuns s) (sw : Bool) (d : SReg) {a : Src} (ha : Src.scalOk a = true)
include h ha

/-- A trap of MRDC, at the hart it is on. -/
theorem execMrdc_stops {c : TrapCode}
    (hc : mrdcTrap ((s.ctx s.cur).kind == .team) (Src.scalar s s.cur a) (s.wgOf s.cur).launch.part = some c) :
    ((s.ctx s.cur).kind = .team → TrapsTeam s (execMrdc sw d a s) c 0#1024) ∧
      ((s.ctx s.cur).kind = .thread → TakesException s (execMrdc sw d a s) c.num 0#64) := by
  rw [execMrdc, begin_hart (n := needS a) h rfl rfl rfl ha]
  simp only [hc]
  exact ⟨fun hk => .of_raise hk .., fun hk => .of_raise hk ..⟩

variable {p : Nat} (hp : p = if (Src.scalar s s.cur a).toNat / 256 = 0 then (s.wgOf s.cur).launch.part
    else (Src.scalar s s.cur a).toNat / 256) (hv : (Src.scalar s s.cur a).toNat < 2 ^ 16)
  (hc : mrdcTrap ((s.ctx s.cur).kind == .team) (Src.scalar s s.cur a) (s.wgOf s.cur).launch.part = none)
include hp hv hc

theorem execMrdc_reads (h63 : p ≤ 63) : WritesSreg s (execMrdc sw d a s) d
    (Store.get 0#64 (s.part p).meters ((Src.scalar s s.cur a).toNat % 256)) (Src.len a) sw := by
  rw [execMrdc, begin_hart (n := needS a) h rfl rfl rfl ha]
  simp only [hc, toNat_extractLsb'_8_8 hv, beq_iff_eq, ← hp, h63, if_true]
  exact writesSreg_done s d _ _ sw

/-- Log 5: a partition that has no meters. -/
theorem execMrdc_free (h63 : 63 < p) : ∃ x, execMrdc sw d a s =
    .next (State.done (State.setSreg { s with freeCtr := s.freeCtr + 1 } s.cur d x) s.cur (Src.len a) sw) := by
  refine ⟨s.free.2, ?_⟩
  rw [execMrdc, begin_hart (n := needS a) h rfl rfl rfl ha]
  simp only [hc, toNat_extractLsb'_8_8 hv, beq_iff_eq, ← hp, Nat.not_le.2 h63, if_false]
  rfl

end

/-! ### CAPR -/

theorem capRead_beyond {o : Nat} (h : 160 ≤ o) : capRead o = 0#64 := if_pos (by omega)

/-- R416: a record's header word holds its id and the offset of the next one. -/
theorem capRead_header : ∀ k < 10, (capRead (16 * k)).toNat % 2 ^ 16 = k + 1 ∧
    (capRead (16 * k)).toNat / 2 ^ 32 = if k = 9 then 0 else 16 * (k + 1) := by
  decide

section
variable {s : State} (h : HartRuns s) (sw : Bool) (d : SReg) {a : Src} (ha : Src.scalOk a = true)
include h ha

theorem execCapr_reads (hv : (Src.scalar s s.cur a).toNat % 8 = 0) :
    WritesSreg s (execCapr sw d a s) d (capRead (Src.scalar s s.cur a).toNat) (Src.len a) sw := by
  rw [execCapr, begin_hart (n := needS a) h rfl rfl rfl ha]
  simp only [hv, bne_self_eq_false, Bool.false_eq_true, if_false]
  exact writesSreg_done s d _ _ sw

theorem execCapr_stops (hv : (Src.scalar s s.cur a).toNat % 8 ≠ 0) :
    ((s.ctx s.cur).kind = .team → TrapsTeam s (execCapr sw d a s) .align 0#1024) ∧
      ((s.ctx s.cur).kind = .thread → TakesException s (execCapr sw d a s) TrapCode.align.num (Src.scalar s s.cur a)) := by
  rw [execCapr, begin_hart (n := needS a) h rfl rfl rfl ha]
  simp only [bne_iff_ne.2 hv, if_true]
  exact ⟨fun hk => .of_raiseAt hk .., fun hk => .of_raiseAt hk ..⟩

end

/-! ### What a write leaves of the partitions -/

namespace MetersOnly

theorem foldl {α : Type} {f : State → α → State} (hf : ∀ s a, MetersOnly s (f s a)) (l : List α) (s : State) :
    MetersOnly s (l.foldl f s) := by
  induction l generalizing s with
  | nil => exact .of_eq rfl
  | cons a r ih => exact (hf s a).trans (ih _)

theorem writeHomeByte (s : State) (owner : Nat) (l : Loc) (b : Byte) : MetersOnly s (s.writeHomeByte owner l b) := by
  refine (MetersOnly.fillHome s owner l).trans ?_
  rw [State.writeHomeByte]
  generalize s.fillHome owner l = u
  simp only
  split
  · exact .of_eq rfl
  · split
    · exact .of_eq rfl
    · exact (MetersOnly.writeBack ..).trans (.putL2 ..)

theorem meterWrite (s : State) (owner line n : Nat) : MetersOnly s (s.meterWrite owner line n) := by
  unfold State.meterWrite
  split
  · exact .meterAdd ..
  · split
    · exact .of_eq rfl
    · exact .meterAdd ..

theorem writeHome (s : State) (owner : Nat) (src : Option Nat) (bs : List (Loc × Byte)) :
    MetersOnly s (s.writeHome owner src bs) := by
  unfold State.writeHome
  extract_lets s₁ s₂ invs l2
  have hbytes : MetersOnly s s₁ := foldl (fun s p => .writeHomeByte s owner p.1 p.2) bs s
  have hmeters : MetersOnly s₁ s₂ := foldl (fun s _ => .meterWrite s ..) _ s₁
  exact (hbytes.trans hmeters).trans (.of_eq rfl)

theorem waitMet (s : State) (h : Nat) (sc sw : Bool) : MetersOnly s (s.waitMet h sc sw) := by
  obtain ⟨_, _, _, _, e⟩ := s.waitMet_rest h sc sw
  exact .of_eq (by rw [e])

theorem reread (s : State) (h : Nat) : MetersOnly s (s.reread h) := by
  unfold State.reread
  split
  · rename_i sc _ pl c y sw _
    have hread : MetersOnly s (if sc then s else s.useAll (s.owner h) pl) := by
      split
      · exact .of_eq rfl
      · exact .useAll ..
    unfold State.readWait
    simp only
    split
    · exact .of_eq rfl
    · split
      · exact hread.trans (.waitMet ..)
      · exact hread
  all_goals exact .of_eq rfl

theorem write (s : State) (owner : Nat) (src : Option Nat) (bs : List (Loc × Byte)) : MetersOnly s (s.write owner src bs) :=
  (MetersOnly.writeHome s owner src bs).trans (foldl reread _ _)

end MetersOnly

/-! ### A usage record -/

theorem length_keccakRound (a : List DWord) (rc : DWord) : (keccakRound a rc).length = 25 := by
  unfold keccakRound
  extract_lets at_ c d t b e
  have he : e.length = 25 := by rw [List.length_map, List.length_range]
  match e, he with
  | _ :: _, he => exact he

theorem length_keccakF (a : List DWord) : (keccakF a).length = 25 := length_keccakRound _ _

theorem length_sha3Absorb (n : Nat) (bs : List Byte) {a : List DWord} (ha : a.length = 25) : (sha3Absorb n bs a).length = 25 := by
  induction n generalizing bs a with
  | zero => exact ha
  | succ n ih => exact ih _ (length_keccakF _)

theorem length_leBytes (n x : Nat) : (leBytes n x).length = n := by
  rw [leBytes, List.length_map, List.length_range]

/-- A digest is 64 bytes. -/
theorem length_sha3 (bs : List Byte) : (sha3 bs).length = 64 := by
  unfold sha3
  dsimp only
  generalize ha : sha3Absorb _ _ _ = a
  have hlen : a.length = 25 := ha ▸ length_sha3Absorb _ _ (List.length_replicate ..)
  rw [List.length_flatMap, List.map_congr_left fun x _ => length_leBytes 8 x.toNat, List.map_const', List.sum_replicate,
    List.length_take, hlen]
  rfl

theorem length_fillTo (n : Nat) (bs : List Byte) : (fillTo n bs).length = max n bs.length := by
  rw [fillTo, List.length_append, length_leBytes]
  omega

/-- R403: a record is 256 bytes, or more where the chain's digest is. -/
theorem State.length_usageBytes (s : State) (part kind : Nat) (e : Option TEntry) :
    256 ≤ (s.usageBytes part kind e).length := by
  have hmeters : ((List.range 10).flatMap fun k => leBytes 8 (Store.get 0#64 (s.part part).meters k).toNat).length = 80 := by
    rw [List.length_flatMap, List.map_congr_left fun k _ => length_leBytes 8 _]
    rfl
  simp only [State.usageBytes, List.length_append, length_fillTo, length_leBytes, hmeters, deviceId, List.length_take, length_sha3]
  omega

theorem fillTo_getD {n i : Nat} {bs : List Byte} (h : i < bs.length) : (fillTo n bs).getD i 0#8 = bs.getD i 0#8 := by
  rw [fillTo, List.getD_append _ _ _ _ h]

/-- Bytes at consecutive addresses, each at its own. -/
theorem StoresBytes.homeByte {s t : State} {pa i : Nat} {bs : List Byte}
    (h : StoresBytes s t (bs.zipIdx.map fun p => (⟨pa + p.2, none⟩, p.1))) (hi : i < bs.length) :
    t.homeByte ⟨pa + i, none⟩ = bs.getD i 0#8 := by
  obtain ⟨-, hbyte, -⟩ := h
  have hnodup : ((bs.zipIdx.map fun p => ((⟨pa + p.2, none⟩ : Loc), p.1)).map fun p => p.1.pa).Nodup := by
    have he : (bs.zipIdx.map fun p => ((⟨pa + p.2, none⟩ : Loc), p.1)).map (fun p => p.1.pa) =
        (List.range bs.length).map (pa + ·) := by
      rw [List.map_map, List.range_eq_range', ← List.zipIdx_map_snd 0 bs, List.map_map]
      rfl
    rw [he]
    exact List.nodup_range.map fun _ _ => Nat.add_left_cancel
  have hmem : (bs[i], i) ∈ bs.zipIdx := List.mk_mem_zipIdx_iff_getElem?.2 (List.getElem?_eq_getElem hi)
  rw [List.getD_eq_getElem _ _ hi]
  exact hbyte hnodup _ (List.mem_map.2 ⟨_, hmem, rfl⟩)

/-- What a write to HBM4 leaves: a sound memory, its bytes, the hart that performs it, the vectors and all of the partitions but
their meters. -/
structure PhysWrites (s t : State) (h pa : Nat) (bs : List Byte) : Prop where
  sound : Sound t.mem t.l2
  stores : StoresBytes s t (bs.zipIdx.map fun p => (⟨pa + p.2, none⟩, p.1))
  ctx : t.ctx h = s.ctx h
  vregs : t.vregs = s.vregs
  meters : MetersOnly s t

theorem State.physWrite_writes {s : State} (hs : Sound s.mem s.l2) {h : Nat} (hr : (s.ctx h).status = .ready) (owner : Nat)
    {pa : Nat} (hpa : pa < hbmTop) (bs : List Byte) : PhysWrites s (s.physWrite owner pa bs) h pa bs := by
  obtain ⟨hstores, hctx, -⟩ := State.physWrite_spec hs hr owner hpa bs
  have he : s.physWrite owner pa bs = s.write owner none (bs.zipIdx.map fun p => (s.physLoc owner (pa + p.2), p.1)) := by
    rw [State.physWrite, regionOf_hbm hpa]
  rw [he] at hstores hctx ⊢
  obtain ⟨_, _, _, _, _, _, _, _, _, _, ew⟩ := s.write_wrote owner none (bs.zipIdx.map fun p => (s.physLoc owner (pa + p.2), p.1))
  exact ⟨(State.write_spec hs ..).1, hstores, hctx, by rw [ew], .write ..⟩

/-- An event and an interrupt leave memory, the harts' registers and the partitions. -/
theorem State.raiseEvent_msix_rest (s : State) (code : Nat) (v : DWord) (fn k : Nat) :
    ∃ ts vs ms, (s.raiseEvent code v).msix fn k = { s with threads := ts, vectors := vs, msgs := ms } := by
  unfold State.msix
  dsimp only
  split <;> exact ⟨_, _, _, rfl⟩

/-! ### MSIGN -/

section
variable {s : State} (hs : Sound s.mem s.l2) {h : Nat} (hr : (s.ctx h).status = .ready) {part : Nat}
  (hlog : (s.part part).ulogbase + 5120 * ((s.part part).usage.seq % (s.part part).ulogn) < hbmTop) (kind : Nat)
  (e : Option TEntry)
include hs hr hlog

/-- R402, R404: a record that closes: the partition's next one follows it, and what it leaves is fit to write the slot. -/
theorem State.closeUsage_spec :
    let u := (s.closeUsage part kind e).1
    Sound u.mem u.l2 ∧ u.ctx h = s.ctx h ∧ u.vregs = s.vregs ∧ (u.part part).usage.seq = (s.part part).usage.seq + 1 ∧
      (u.part part).usage.tend = s.time := by
  unfold State.closeUsage
  extract_lets r g s₁ slot p x s₂ s₃ u
  have hw : PhysWrites s₂ s₃ h _ slot := State.physWrite_writes (s := s₂) hs hr 0 hlog slot
  obtain ⟨_, _, _, hrest⟩ := s₃.raiseEvent_msix_rest 0x102 0#64 part 0
  have hu : u = (s₃.raiseEvent 0x102 0#64).msix part 0 := rfl
  have husage : (u.part part).usage = { p.usage with seq := p.usage.seq + 1, tend := s.time, prev := sha3 (r ++ g.2) } := by
    obtain ⟨m, hm⟩ := hw.meters.part part
    have hkept : u.part part = s₃.part part := by rw [hu, hrest]; rfl
    have hset : s₂.part part = _ := State.part_setPart ..
    rw [hkept, hm, hset]
    rfl
  refine ⟨?_, ?_, ?_, congrArg Usage.seq husage, congrArg Usage.tend husage⟩
  · rw [hu, hrest]
    exact hw.sound
  · rw [hu, hrest]
    exact hw.ctx
  · rw [hu, hrest]
    exact hw.vregs

end

/-- R404: the slot begins with the record. -/
theorem State.closeUsage_slot (s : State) (part kind : Nat) (e : Option TEntry) :
    256 ≤ (s.closeUsage part kind e).2.length ∧
      ∀ i < 256, (s.closeUsage part kind e).2.getD i 0#8 = (s.usageBytes part kind e).getD i 0#8 := by
  have hlen := s.length_usageBytes part kind e
  refine ⟨?_, fun i hi => ?_⟩
  · show 256 ≤ (fillTo 5120 _).length
    rw [length_fillTo]
    omega
  · show (fillTo 5120 (_ ++ _)).getD i 0#8 = _
    rw [fillTo_getD (by rw [List.length_append]; omega), List.getD_append _ _ _ _ (by omega)]

/-- R240: the trap of a buffer in HBM4. -/
theorem bufferTrap_of_hbm {a : DWord} {n align level : Nat} (h : a.toNat + n ≤ hbmTop) :
    bufferTrap a n align level = if a.toNat % align ≠ 0 then some (.align, a) else none := by
  simp only [bufferTrap, physCheck_of_hbm level h, bne_iff_ne]

section
variable {s : State} (h : ThreadRuns s 2) (sw : Bool) (d b : SReg) {a : Src} (ha : Src.scalOk a = true)
include h ha

theorem execMsign_traps (hp : (Src.scalar s s.cur a).toNat = 0 ∨ 63 < (Src.scalar s s.cur a).toNat ∨
    (s.part (Src.scalar s s.cur a).toNat).live = false) : TakesException s (execMsign sw d b a s) 0x03 0#64 := by
  rw [execMsign, begin_thread (n := { needS a with level := 2 }) h rfl ha]
  have hbad : ((Src.scalar s s.cur a).toNat == 0 || decide (63 < (Src.scalar s s.cur a).toNat) ||
      !(s.part (Src.scalar s s.cur a).toNat).live) = true := by simpa [or_assoc] using hp
  simp only [hbad, if_true]
  exact .of_raise h.1 .illegalOperand _

variable (h1 : 1 ≤ (Src.scalar s s.cur a).toNat) (h63 : (Src.scalar s s.cur a).toNat ≤ 63)
  (hlive : (s.part (Src.scalar s s.cur a).toNat).live = true) (hbuf : (s.sreg s.cur b).toNat + 5120 ≤ hbmTop)
include h1 h63 hlive hbuf

/-- MSIGN for a live partition, by where its buffer lies. -/
theorem execMsign_eq : execMsign sw d b a s =
    if (s.sreg s.cur b).toNat % 256 ≠ 0 then .next (s.raiseAt s.cur .align (Src.len a) (s.sreg s.cur b) 0#1024 false)
    else
      let p := (Src.scalar s s.cur a).toNat
      let r := s.closeUsage p 3 (s.part p).slotEntry
      .next (((r.1.physWrite 0 (s.sreg s.cur b).toNat r.2).setSreg s.cur d (BitVec.ofNat 64 (s.part p).usage.seq)).done s.cur
        (Src.len a) sw) := by
  rw [execMsign, begin_thread (n := { needS a with level := 2 }) h rfl ha]
  have hgood : ((Src.scalar s s.cur a).toNat == 0 || decide (63 < (Src.scalar s s.cur a).toNat) ||
      !(s.part (Src.scalar s s.cur a).toNat).live) = false := by
    simp only [hlive, Bool.not_true, Bool.or_false, Bool.or_eq_false_iff, beq_eq_false_iff_ne, decide_eq_false_iff_not]
    omega
  simp only [hgood, Bool.false_eq_true, if_false, bufferTrap_of_hbm hbuf]
  by_cases halign : (s.sreg s.cur b).toNat % 256 ≠ 0
  · simp only [if_pos halign]
  · simp only [if_neg halign]

end

end Sys2Proof.Machine

namespace Sys2Proof.Claims
open Sys2Proof.Machine

/-- R239, R247: MRDC by its fields and the hart's kind, CAPR by its offset. -/
theorem metersAndCapabilitiesAreRead : MetersAndCapabilitiesAreRead := by
  unfold MetersAndCapabilitiesAreRead
  intro s sw d a hr ha h v sel p own len stops
  have htrap : v < 2 ^ 16 → mrdcTrap ((s.ctx h).kind == .team) (Src.scalar s h a) own =
      if ((s.ctx h).kind == .team) = true ∧ p ≠ 0 ∧ p ≠ own then some .perm
      else if ((s.ctx h).kind == .team) = false ∧ p = 0 ∨ 10 ≤ sel then some .illegalOperand else none := mrdcTrap_eq
  have hnot : (s.ctx h).kind = .thread → ((s.ctx h).kind == .team) = false := fun hk => by rw [hk]; rfl
  refine ⟨fun hv => execMrdc_stops hr sw d ha (mrdcTrap_high hv), fun hv hk hp hown => ?_, fun hv hsel hp => ?_,
    fun hv hsel => ⟨fun hk hown hp => ?_, fun hk hp => ?_, fun hk h1 h63 => ?_, fun hk h63 => ?_⟩,
    fun hv => ⟨_, execCapr_reads hr sw d ha hv, capRead_beyond, fun k hk e => ?_⟩, fun hv => ?_⟩
  · exact (execMrdc_stops hr sw d ha ((htrap hv).trans (if_pos ⟨by rw [hk]; rfl, hp, hown⟩))).1 hk
  · refine execMrdc_stops hr sw d ha ((htrap hv).trans ?_)
    rw [if_neg fun ⟨hk, h0, hown⟩ => (hp (eq_of_beq hk)).elim h0 hown, if_pos (.inr hsel)]
  · have hnone : mrdcTrap ((s.ctx h).kind == .team) (Src.scalar s h a) own = none := by
      rw [htrap hv, if_neg fun ⟨_, h0, hne⟩ => hp.elim h0 hne, if_neg]
      rintro (⟨hk', -⟩ | hsel')
      · rw [hk] at hk'
        cases hk'
      · omega
    refine execMrdc_reads hr sw d ha (p := own) ?_ hv hnone hown
    split
    · rfl
    · exact (hp.resolve_left ‹_›).symm
  · have hperm : ¬(((s.ctx h).kind == .team) = true ∧ p ≠ 0 ∧ p ≠ own) := fun ⟨_, h0, _⟩ => h0 hp
    exact (execMrdc_stops hr sw d ha ((htrap hv).trans ((if_neg hperm).trans (if_pos (.inl ⟨hnot hk, hp⟩))))).2 hk
  · have hnone : mrdcTrap ((s.ctx h).kind == .team) (Src.scalar s h a) own = none := by
      rw [htrap hv, hnot hk, if_neg (by simp), if_neg (by omega)]
    exact execMrdc_reads hr sw d ha (p := p) (if_neg (show ¬p = 0 by omega)).symm hv hnone h63
  · have hnone : mrdcTrap ((s.ctx h).kind == .team) (Src.scalar s h a) own = none := by
      rw [htrap hv, hnot hk, if_neg (by simp), if_neg (by omega)]
    obtain ⟨x, hx⟩ := execMrdc_free hr sw d ha (p := p) (if_neg (show ¬p = 0 by omega)).symm hv hnone h63
    obtain ⟨-, hregs, hscc, -, hpassed⟩ := answered_done (s := s) (v := { s with freeCtr := s.freeCtr + 1 }) rfl rfl d x len sw
    obtain ⟨_, e⟩ := State.done_rest_of_thread (s := State.setSreg { s with freeCtr := s.freeCtr + 1 } h d x)
      (by rw [State.ctx_setSreg]; exact hk) len sw
    exact ⟨_, hx, hregs, hscc, hpassed, .of_eq (by rw [e]; rfl) (by rw [e]; rfl) (by rw [e]; rfl)⟩
  · show (capRead v).toNat % _ = _ ∧ (capRead v).toNat / _ = _
    rw [e]
    exact capRead_header k hk
  · show ((s.ctx h).kind = .team → _) ∧ ((s.ctx h).kind = .thread → TakesException s _ _ (BitVec.ofNat 64 (BitVec.toNat _)))
    rw [BitVec.ofNat_toNat, BitVec.setWidth_eq]
    exact execCapr_stops hr sw d ha hv

/-- R240, R402-R404: MSIGN, by its operand and its buffer; the buffer's bytes are those of the slot. -/
theorem meterRecordsAreSigned : MeterRecordsAreSigned := by
  unfold MeterRecordsAreSigned
  intro s sw d b a hs hr ha hready h p x pa
  refine ⟨execMsign_traps hr sw d b ha, fun h1 h63 hlive hbuf halign => ?_, fun h1 h63 hlive hbuf halign hlog hn => ?_⟩
  · have hx : exec (.msign sw d b a) s = _ := execMsign_eq hr sw d b ha h1 h63 hlive hbuf
    rw [hx, if_pos halign]
    show TakesException s _ _ (BitVec.ofNat 64 (BitVec.toNat _))
    rw [BitVec.ofNat_toNat, BitVec.setWidth_eq]
    exact .of_raiseAt hr.1 .align ..
  · have hslot : x.ulogbase + 5120 * (x.usage.seq % x.ulogn) < hbmTop := by
      have hmod := Nat.mod_lt x.usage.seq hn
      have htop : hbmTop = 0x12000000000 := rfl
      omega
    obtain ⟨hsound, hctx, hvregs, hseq, htend⟩ :=
      State.closeUsage_spec ((soundMemory_iff s).1 hs) hready hslot 3 x.slotEntry
    obtain ⟨hlen, hbytes⟩ := s.closeUsage_slot p 3 x.slotEntry
    have hw := State.physWrite_writes hsound (hctx ▸ hready) 0 (pa := pa) (show pa < 0x12000000000 by omega)
      (s.closeUsage p 3 x.slotEntry).2
    have hx : exec (.msign sw d b a) s = _ := execMsign_eq hr sw d b ha h1 h63 hlive hbuf
    rw [if_neg (not_not.2 halign)] at hx
    obtain ⟨hd, hregs, hscc, -, hpassed⟩ := answered_done (hw.ctx.trans hctx) (hw.vregs.trans hvregs) d
      (BitVec.ofNat 64 x.usage.seq) (Src.len a) sw
    obtain ⟨m, hm⟩ := hw.meters.part p
    obtain ⟨_, e⟩ := State.done_rest_of_thread (s := ((s.closeUsage p 3 x.slotEntry).1.physWrite 0 pa
      (s.closeUsage p 3 x.slotEntry).2).setSreg h d (BitVec.ofNat 64 x.usage.seq))
      (by rw [State.ctx_setSreg, hw.ctx, hctx]; exact hr.1) (Src.len a) sw
    refine ⟨_, hx, hd, hregs, hscc, hpassed, ?_, ?_, fun i hi => ?_⟩
    · rw [e]
      exact (congrArg (fun y : Partition => y.usage.seq) hm).trans hseq
    · rw [e]
      exact (congrArg (fun y : Partition => y.usage.tend) hm).trans htend
    · rw [e]
      exact (hw.stores.homeByte (by omega)).trans (hbytes i hi)

end Sys2Proof.Claims

open Sys2Proof

/-- Settles O42: meters and capability space as they are read, and the record that MSIGN writes. -/
theorem metersCapabilitiesAndRecords : Obligations.MetersCapabilitiesAndRecords :=
  ⟨Claims.metersAndCapabilitiesAreRead, Claims.meterRecordsAreSigned⟩
end

section
/-! The trapped contexts of teams (O43): RCTX at the package that holds them, and at another (R241-R243). -/

namespace Sys2Proof.Machine
open Sys2Proof.Claims

/-! ### What the target answers -/

section
variable {s : State} {hd : DWord}

/-- A handle that is live nowhere. -/
theorem State.rctxAt_none (ht : s.trapped hd = none) (ho : s.orphaned hd = none) (src : Nat) (op : RctxOp) (a v : DWord) :
    s.rctxAt src op hd a v = (s, if rctxLegal op a v = true then .value 0#64 else .trap .illegalOperand) := by
  simp only [State.rctxAt, ht, ho, Bool.not_eq_true']
  cases rctxLegal op a v <;> rfl

/-- The live handle of an orphan. -/
theorem State.rctxAt_orphan {k : Nat} {f : Foal} (ht : s.trapped hd = none) (ho : s.orphaned hd = some (k, f))
    {op : RctxOp} {a v : DWord} (hl : rctxLegal op a v = true) : s.rctxAt (s.part f.origin.part).fsrv op hd a v =
      s.rctxOrphan k f op a := by
  simp only [State.rctxAt, ht, ho, hl, bne_self_eq_false, Bool.not_true, Bool.false_eq_true, if_false]

section
variable {g : Nat} {r : TrapRec} (ht : s.trapped hd = some (g, r))
include ht

/-- R241: another package's fault server. -/
theorem State.rctxAt_perm {src : Nat} (hsrc : (s.part (s.wgOf g).launch.part).fsrv ≠ src) (op : RctxOp) (a v : DWord) :
    s.rctxAt src op hd a v = (s, .trap .perm) := by
  simp only [State.rctxAt, ht, bne_iff_ne.2 hsrc, if_true]

theorem State.rctxAt_illegal {op : RctxOp} {a v : DWord} (hl : ¬rctxLegal op a v = true) :
    s.rctxAt (s.part (s.wgOf g).launch.part).fsrv op hd a v = (s, .trap .illegalOperand) := by
  simp only [State.rctxAt, ht, bne_self_eq_false, Bool.false_eq_true, if_false, Bool.not_eq_true _ ▸ hl, Bool.not_false, if_true]

theorem State.rctxAt_team {op : RctxOp} {a v : DWord} (hl : rctxLegal op a v = true) :
    s.rctxAt (s.part (s.wgOf g).launch.part).fsrv op hd a v = s.rctxTeam g r op a v := by
  simp only [State.rctxAt, ht, hl, bne_self_eq_false, Bool.not_true, Bool.false_eq_true, if_false]

end

end

/-! ### The executing thread -/

/-- A frame of a trap class is no job's: sending it leaves the harts and memory. -/
theorem State.sendTrap_rest {f : Frame} (s : State) (hf : f.isJob = false) :
    ∃ ps st ms, s.sendTrap f = { s with ports := ps, stuck := st, msgs := ms } := by
  unfold State.sendTrap
  split
  · exact ⟨_, _, _, rfl⟩
  · split
    · rw [State.transmit]
      simp only [hf, Bool.false_and, Bool.false_eq_true, if_false]
      exact ⟨_, _, _, rfl⟩
    · exact ⟨_, _, _, rfl⟩

section
variable {s : State} (h : ThreadRuns s 1) (op : RctxOp) (sw : Bool) (d b : SReg) {a : Src} (ha : Src.scalOk a = true)
include h ha

/-- RCTX, by where the handle's package is. -/
theorem rctxOp_here (hhere : ((s.sreg s.cur b).extractLsb' 32 12).toNat = s.pkg ∨ 2 ^ 44 ≤ (s.sreg s.cur b).toNat)
    {r : State × RctxAnswer} (hr : s.rctxAt s.pkg op (s.sreg s.cur b) (Src.scalar s s.cur a) (s.sreg s.cur d) = r) :
    rctxOp op sw d b a s = .next (r.1.rctxDone s.cur d (Src.len a) sw r.2) := by
  rw [rctxOp, begin_thread (n := { needS a with level := 1 }) h rfl ha]
  have hcond : (((s.sreg s.cur b).extractLsb' 32 12).toNat == s.pkg || decide (2 ^ 44 ≤ (s.sreg s.cur b).toNat)) = true := by
    simpa only [Bool.or_eq_true, beq_iff_eq, decide_eq_true_eq] using hhere
  simp only [hcond, if_true, hr]

/-- A handle of another package: the request leaves, and the thread waits for its answer. -/
theorem rctxOp_away (hhere : ¬(((s.sreg s.cur b).extractLsb' 32 12).toNat = s.pkg ∨ 2 ^ 44 ≤ (s.sreg s.cur b).toNat)) :
    ∃ u, rctxOp op sw d b a s = .next u ∧ u.nextId = s.nextId + 1 ∧
      u.ctx s.cur = { s.ctx s.cur with status := .parked (.rctx s.nextId d.toNat (Src.len a)) } ∧ SameMemory s u := by
  rw [rctxOp, begin_thread (n := { needS a with level := 1 }) h rfl ha]
  have hcond : (((s.sreg s.cur b).extractLsb' 32 12).toNat == s.pkg || decide (2 ^ 44 ≤ (s.sreg s.cur b).toNat)) = false := by
    rw [← Bool.not_eq_true]
    simpa only [Bool.or_eq_true, beq_iff_eq, decide_eq_true_eq] using hhere
  simp only [hcond, Bool.false_eq_true, if_false]
  obtain ⟨_, _, _, hsend⟩ := State.sendTrap_rest { s with nextId := s.nextId + 1 }
    (f := Frame.make 0 5 s.pkg ((s.sreg s.cur b).extractLsb' 32 12).toNat
      (rctxPayload op.code 0 (s.sreg s.cur b) (Src.scalar s s.cur a) (s.sreg s.cur d) s.nextId)) rfl
  rw [hsend]
  exact ⟨_, rfl, rfl, State.ctx_setCtx .., .of_eq rfl rfl rfl⟩

end

/-! ### The items -/

theorem Item.cls_of_ok {i : Item} (h : i.ok = true) : i.cls ≤ 11 := by
  obtain ⟨cls, r, p⟩ := i
  by_contra hc
  obtain ⟨n, rfl⟩ : ∃ n, cls = n + 12 := ⟨cls - 12, by simp only at hc; omega⟩
  cases h

theorem Item.fits_iff (i : Item) (t : Team) : i.fits t = true ↔ (i.cls = 1 → i.r < t.vregs ∧ i.p < t.width) := by
  simp only [Item.fits, Bool.or_eq_true, bne_iff_ne, decide_eq_true_eq, imp_iff_not_or]

/-- R242: the items, class by class. -/
theorem State.itemRead_eq (s : State) (g : Nat) {i : Item} (h : i.ok = true) : s.itemRead g i =
    match i.cls with
    | 0 => s.sreg g (BitVec.ofNat 6 i.r)
    | 1 => BitVec.ofNat 64 ((s.vreg g i.r).lane i.p).toNat
    | 2 => ((s.team g).lmk i.r).extractLsb' (64 * i.p) 64
    | 3 => (s.team g).exec.extractLsb' (64 * i.p) 64
    | 4 => ((s.team g).entry i.r).extractLsb' (64 * i.p) 64
    | 5 => (s.ctx g).pc
    | 6 => BitVec.ofNat 64 (s.ctx g).widx
    | 7 => BitVec.ofNat 64 ((s.team g).depth + 2 ^ 16 * (s.team g).spill.toNat)
    | 8 => (Store.get 0#1024 (s.team g).spillSlots i.r).extractLsb' (64 * i.p) 64
    | 9 => BitVec.ofNat 64 (s.ctx g).scc.toNat
    | 10 => BitVec.ofNat 64 (s.team g).flags.toNat
    | _ => (s.team g).flane.extractLsb' (64 * i.p) 64 := by
  have hcls := Item.cls_of_ok h
  obtain ⟨cls, r, p⟩ := i
  match cls, hcls with
  | 0, _ =>
    have hr : r < 64 := of_decide_eq_true h
    show Store.get _ _ r = Store.get _ _ (BitVec.ofNat 6 r).toNat
    rw [BitVec.toNat_ofNat, Nat.mod_eq_of_lt hr]
  | 1, _ => exact (BitVec.ofNat_toNat ..).symm
  | 10, _ => exact (BitVec.ofNat_toNat ..).symm
  | 2, _ | 3, _ | 4, _ | 5, _ | 6, _ | 7, _ | 8, _ | 9, _ | 11, _ => rfl

theorem rctxLegal_item {op : RctxOp} (hop : op = .rd ∨ op = .wr) {a v : DWord} (h : rctxLegal op a v = true) :
    (Item.ofA a).ok = true := by
  rcases hop with rfl | rfl
  · exact (Bool.and_eq_true_iff.1 h).2
  · exact (Bool.and_eq_true_iff.1 (Bool.and_eq_true_iff.1 h).1).2

/-! ### A reply -/

/-- R243: RETRY of a load or store that failed in some lanes: the team issues it again for those. -/
theorem State.replyTeam_retry {s : State} {g : Nat} {r : TrapRec} (hsaved : (s.wgOf g).saved = none) (hcode : r.code = .memFault)
    (hreplay : r.replay = false) (hlen : r.len = 1) (hlanes : r.lanes ≠ 0#1024) (hnone : (s.team g).replay = []) :
    ∃ v, s.replyTeam g r 1 = State.sweep v ∧ v.ctx g = { s.ctx g with status := .ready } ∧ (v.team g).trap = none ∧
      (v.team g).retry = some (s.team g).flane := by
  have hleft : (s.leaveTrap g .ready).team g = { s.team g with trap := none, unsent := false, reply := none } :=
    State.team_setTeam ..
  have hgo : s.replyGo g r 1 = (s.leaveTrap g .ready).setTeam g
      { (s.leaveTrap g .ready).team g with retry := some ((s.leaveTrap g .ready).team g).flane } := by
    have hnot : (TrapCode.memFault == .watchdog || TrapCode.memFault == .timer || TrapCode.memFault == .memPoison) = false := rfl
    simp only [State.replyGo, hreplay, hcode, hlen, hnot, bne_iff_ne.2 hlanes, Bool.and_true, Bool.false_eq_true, if_false]
    rfl
  rw [hleft] at hgo
  have hteam : (s.replyGo g r 1).team g =
      { s.team g with trap := none, unsent := false, reply := none, retry := some (s.team g).flane } := by
    rw [hgo, State.team_setTeam]
  have hreissue : (s.replyGo g r 1).reissueAll g = s.replyGo g r 1 := by
    have hleft' : ((s.replyGo g r 1).team g).replay = [] := by rw [hteam, hnone]
    rw [State.reissueAll, State.reissue]
    simp only [hleft']
  refine ⟨s.replyGo g r 1, ?_, ?_, by rw [hteam], by rw [hteam]⟩
  · have hact : s.replyTeam g r 1 = ((s.replyGo g r 1).reissueAll g).sweep := by
      have hnot : (TrapCode.memFault == TrapCode.mstkUnder) = false := rfl
      simp only [State.replyTeam, State.replyAct, hsaved, hcode, hnot, Option.isSome_none, Bool.false_and, Bool.false_eq_true,
        if_false]
      rfl
    rw [hact, hreissue]
  · rw [hgo]
    show (State.setCtx _ g _).ctx g = _
    rw [State.ctx_setCtx]
    rfl

end Sys2Proof.Machine

open Sys2Proof Sys2Proof.Machine

/-- Settles O43: RCTX by where its handle is live, and the reply that retries. -/
theorem trappedContextsAreServed : Obligations.TrappedContextsAreServed := by
  unfold Obligations.TrappedContextsAreServed
  intro s sw d b a hr ha h A hd i len forms ok here
  have hform : ∀ f ∈ forms, exec f.2 s = rctxOp f.1 sw d b a s := by
    simp only [forms, List.forall_mem_cons, List.not_mem_nil, false_imp_iff, implies_true, and_true]
    exact ⟨rfl, rfl, rfl, rfl⟩
  have hat : here → ∀ op r, s.rctxAt s.pkg op hd A (s.sreg h d) = r →
      rctxOp op sw d b a s = .next (r.1.rctxDone h d len sw r.2) := fun hhere op r => rctxOp_here hr op sw d b ha hhere
  refine ⟨fun f hf hhere ht ho => ⟨fun hbad => ?_, fun hok => ?_⟩, fun f hf hhere => ?_, fun k f hhere ht ho hfsrv => ?_,
    fun g r hhere ht => ?_⟩
  · rw [hform f hf, hat hhere f.1 _ (State.rctxAt_none ht ho ..), if_neg hbad]
    exact .of_raise hr.1 .illegalOperand _
  · rw [hform f hf, hat hhere f.1 _ (State.rctxAt_none ht ho ..), if_pos hok]
    exact writesSreg_done s d _ len sw
  · rw [hform f hf]
    exact rctxOp_away hr f.1 sw d b ha hhere
  · have horphan : ∀ op, ok op → s.rctxAt s.pkg op hd A (s.sreg h d) = s.rctxOrphan k f op A := fun op hok =>
      hfsrv ▸ State.rctxAt_orphan ht ho hok
    refine ⟨fun hok => ?_, fun hok => ?_⟩
    · have hx : exec (.rctxRd sw d b a) s = _ := hat hhere .rd _ (horphan .rd hok)
      rw [hx]
      exact writesSreg_done s d _ len sw
    · have hx : exec (.rctxWr sw d b a) s = _ := hat hhere .wr _ (horphan .wr hok)
      rw [hx]
      exact writesSreg_done s d _ len sw
  · intro t fsrv
    have hteam : fsrv = s.pkg → ∀ op, ok op → s.rctxAt s.pkg op hd A (s.sreg h d) = s.rctxTeam g r op A (s.sreg h d) :=
      fun hfsrv op hok => hfsrv ▸ State.rctxAt_team ht hok
    refine ⟨fun f hf hfsrv => ?_, fun f hf hfsrv hbad => ?_, fun hfsrv hok hfits => ?_, fun hfsrv hok hfits => ?_,
      fun hfsrv hok => hat hhere .resume _ (hteam hfsrv .resume hok), fun hfsrv hok => hat hhere .kill _ (hteam hfsrv .kill hok),
      State.replyTeam_retry⟩
    · rw [hform f hf, hat hhere f.1 _ (State.rctxAt_perm ht hfsrv ..)]
      exact .of_raise hr.1 .perm _
    · have hillegal : s.rctxAt s.pkg f.1 hd A (s.sreg h d) = (s, .trap .illegalOperand) := hfsrv ▸ State.rctxAt_illegal ht hbad
      rw [hform f hf, hat hhere f.1 _ hillegal]
      exact .of_raise hr.1 .illegalOperand _
    · have hread : s.rctxTeam g r .rd A (s.sreg h d) = (s, .value (s.itemRead g i)) := if_pos ((i.fits_iff t).2 hfits)
      have hx : exec (.rctxRd sw d b a) s = _ := hat hhere .rd _ ((hteam hfsrv .rd hok).trans hread)
      rw [hx, s.itemRead_eq g (rctxLegal_item (.inl rfl) hok)]
      exact writesSreg_done s d _ len sw
    · have hwrite : s.rctxTeam g r .wr A (s.sreg h d) = ((s.itemWrite g i (s.sreg h d)).renewImage (s.coreOf g), .value 1#64) :=
        if_pos ((i.fits_iff t).2 hfits)
      exact hat hhere .wr _ ((hteam hfsrv .wr hok).trans hwrite)
end

section
/-! Timetable entries (O44): arming and cancelling (R244). -/

namespace Sys2Proof.Machine
open Sys2Proof.Claims

/-! ### An answer beside a change that is not the hart's -/

/-- A thread's answer in s[D] after a change that leaves every hart and memory. -/
theorem answered_beside {s v : State} (hk : (s.ctx s.cur).kind = .thread) (hc : v.ctxs = s.ctxs) (ht : v.teams = s.teams)
    (hv : v.vregs = s.vregs) (hm : SameMemory s v) (d : SReg) (x : DWord) (n : Nat) (sw : Bool) :
    let u := (v.setSreg s.cur d x).done s.cur n sw
    u.sreg s.cur d = x ∧ (SameSregsBut d s u ∧ SameScc s u ∧ Passed s u n sw ∧ SameMemory s u ∧ SameOthers s u) ∧
      ∃ cs, u = { v with ctxs := cs } := by
  intro u
  have hctx : ∀ k, v.ctx k = s.ctx k := fun k => by
    unfold State.ctx
    rw [hc]
  obtain ⟨hd, hregs, hscc, -, hpassed⟩ := answered_done (hctx s.cur) hv d x n sw
  obtain ⟨cs, e⟩ := State.done_rest_of_thread (s := v.setSreg s.cur d x) (by rw [State.ctx_setSreg, hctx]; exact hk) n sw
  have hu : u = { v with ctxs := cs } := e
  refine ⟨hd, ⟨hregs, hscc, hpassed, hm.trans (.of_eq (by rw [hu]) (by rw [hu]) (by rw [hu])),
    fun k hne => ⟨?_, ?_, fun r _ => ?_⟩⟩,
    cs, hu⟩
  · exact (State.done_ctx_ne _ n sw hne).trans ((State.ctx_setSreg_ne v d x hne).trans (hctx k))
  · rw [hu]
    show Store.get _ v.teams k = _
    rw [ht]
    rfl
  · rw [hu]
    show Store.get _ v.vregs _ = _
    rw [hv]
    rfl

/-! ### Arming -/

/-- An entry lies behind what is armed for its partition, or beside it (R244). -/
def State.Behind (s : State) (e : TEntry) : Prop :=
  (∃ q, (s.part e.part).armed = some q ∧ e.seq.toNat ≤ q.toNat) ∨ ∃ x ∈ s.arms, x.2.part = e.part ∧ x.2.start = e.start

/-- The refusal of a verified entry, in the order of the table. -/
theorem State.armRefusal_eq (s : State) (urgent : Bool) (e : TEntry) : ∃ b : Bool, (b = true ↔ s.Behind e) ∧
    s.armRefusal urgent (some e) = if e.urgent ≠ urgent then some 3 else if b = true then some 4
      else if e.start.toNat < s.time.toNat + 3000 then some 1 else if s.freeArm = none then some 2 else none := by
  unfold State.armRefusal
  simp only [bne_iff_ne, Option.isNone_iff_eq_none]
  refine ⟨_, ?_, rfl⟩
  rw [Bool.or_eq_true, State.Behind]
  refine or_congr ?_ ?_
  · cases (s.part e.part).armed with
    | none => simp
    | some q => simp [BitVec.le_def]
  · simp only [List.any_eq_true, Bool.and_eq_true, beq_iff_eq]

theorem State.freeArm_none {s : State} (h : ∀ n, n < 256 → Store.find n s.arms ≠ none) : s.freeArm = none := by
  rw [State.freeArm, List.find?_eq_none]
  intro k hk
  rw [Option.isNone_iff_eq_none]
  exact h k (List.mem_range.1 hk)

theorem State.freeArm_some {s : State} {n : Nat} (hn : n < 256) (hfree : Store.find n s.arms = none)
    (hleast : ∀ m, m < n → Store.find m s.arms ≠ none) : s.freeArm = some n := by
  rw [State.freeArm, List.find?_range_eq_some]
  refine ⟨by rw [hfree]; rfl, List.mem_range.2 hn, fun m hm => ?_⟩
  rw [Bool.not_eq_true', Option.isNone_eq_false_iff, Option.isSome_iff_ne_none]
  exact hleast m hm

/-- What arming an entry at an index leaves. -/
def State.armAt (s : State) (e : TEntry) (k : Nat) : State :=
  State.setPart { s with arms := Store.put k e s.arms } e.part { s.part e.part with armed := some e.seq }

section
variable {s : State} (h : ThreadRuns s 2) (urgent sw : Bool) (d b : SReg) (hin : (s.sreg s.cur b).toNat + 32 ≤ hbmTop)
  (halign : (s.sreg s.cur b).toNat % 32 = 0)
include h hin halign

theorem armOp_refused {n : Nat} (hn : s.armRefusal urgent (s.pageEntry (s.sreg s.cur b).toNat) = some n) :
    armOp urgent sw d b s = .next ((s.setSreg s.cur d (refusal n)).done s.cur 1 sw) := by
  rw [armOp, begin_thread (n := { need1 with level := 2 }) h rfl rfl]
  simp only [bufferTrap_of_hbm hin, halign, ne_eq, not_true_eq_false, if_false, hn]

theorem armOp_arms {e : TEntry} {k : Nat} (hn : s.armRefusal urgent (s.pageEntry (s.sreg s.cur b).toNat) = none)
    (he : s.pageEntry (s.sreg s.cur b).toNat = some e) (hk : s.freeArm = some k) :
    armOp urgent sw d b s = .next (((s.armAt e k).setSreg s.cur d (BitVec.ofNat 64 k)).done s.cur 1 sw) := by
  rw [armOp, begin_thread (n := { need1 with level := 2 }) h rfl rfl]
  rw [he] at hn
  simp only [bufferTrap_of_hbm hin, halign, ne_eq, not_true_eq_false, if_false, he, hn, hk]
  rfl

end

/-! ### Cancelling -/

section
variable {s : State} (h : ThreadRuns s 2) (sw : Bool) (d : SReg) {a : Src} (ha : Src.scalOk a = true)
include h ha

theorem execSwitchCancel_none (hn : 255 < (Src.scalar s s.cur a).toNat ∨ Store.find (Src.scalar s s.cur a).toNat s.arms = none) :
    execSwitchCancel sw d a s = .next ((s.setSreg s.cur d 0#64).done s.cur (Src.len a) sw) := by
  have hnone : (if (Src.scalar s s.cur a).toNat ≤ 255 then Store.find (Src.scalar s s.cur a).toNat s.arms else none) = none := by
    split
    · exact hn.resolve_left (by omega)
    · rfl
  rw [execSwitchCancel, begin_thread (n := { needS a with level := 2 }) h rfl ha]
  simp only [hnone]

theorem execSwitchCancel_some {e : TEntry} (hk : (Src.scalar s s.cur a).toNat ≤ 255)
    (he : Store.find (Src.scalar s s.cur a).toNat s.arms = some e) :
    execSwitchCancel sw d a s = .next (if s.time.toNat + 3000 ≤ e.start.toNat then
      (State.setSreg { s with arms := Store.erase (Src.scalar s s.cur a).toNat s.arms } s.cur d 1#64).done s.cur (Src.len a) sw
      else (s.setSreg s.cur d 0#64).done s.cur (Src.len a) sw) := by
  rw [execSwitchCancel, begin_thread (n := { needS a with level := 2 }) h rfl ha]
  simp only [if_pos hk, he]
  split <;> rfl

end

end Sys2Proof.Machine

namespace Sys2Proof.Claims
open Sys2Proof.Machine

/-- R244: arming by the order of the refusals, cancelling by the time that is left. -/
theorem switchesAreArmed : SwitchesAreArmed := by
  unfold SwitchesAreArmed
  intro s sw d b a hr ha h pa k code
  refine ⟨fun f hf hin halign => ?_, fun e hk he => ⟨fun htime => ?_, fun htime => ?_⟩, fun hk => ?_⟩
  · have hform : exec f.2 s = armOp f.1 sw d b s := by
      simp only [List.mem_cons, List.not_mem_nil, or_false] at hf
      rcases hf with rfl | rfl <;> rfl
    rw [hform]
    have hrefused : ∀ n, s.armRefusal f.1 (s.pageEntry pa) = some n → WritesSreg s (armOp f.1 sw d b s) d (code n) 1 sw :=
      fun n hn => by
        rw [armOp_refused hr f.1 sw d b hin halign hn]
        exact writesSreg_done s d _ 1 sw
    refine ⟨fun hnone => hrefused 3 (by rw [hnone]; rfl), fun e he => ?_⟩
    obtain ⟨x, hx, hrefusal⟩ := s.armRefusal_eq f.1 e
    rw [← he] at hrefusal
    refine ⟨fun hu => hrefused 3 ?_, fun hu hbehind => hrefused 4 ?_, fun hu hbehind htime => hrefused 1 ?_,
      fun hu hbehind htime hfull => hrefused 2 ?_, fun n hn hfree hleast hu hbehind htime => ?_⟩
    · rw [hrefusal, if_pos hu]
    · rw [hrefusal, if_neg (not_not.2 hu), if_pos (hx.2 hbehind)]
    · rw [hrefusal, if_neg (not_not.2 hu), if_neg (mt hx.1 hbehind), if_pos htime]
    · rw [hrefusal, if_neg (not_not.2 hu), if_neg (mt hx.1 hbehind), if_neg (Nat.not_lt.2 htime),
        if_pos (State.freeArm_none hfull)]
    · have hk := State.freeArm_some hn hfree hleast
      rw [if_neg (not_not.2 hu), if_neg (mt hx.1 hbehind), if_neg (Nat.not_lt.2 htime), if_neg (by rw [hk]; nofun)] at hrefusal
      obtain ⟨hd, ⟨hregs, hscc, hpassed, hmem, hothers⟩, cs, e'⟩ := answered_beside (v := s.armAt e n) hr.1 rfl rfl rfl
        (.of_eq rfl rfl rfl) d (BitVec.ofNat 64 n) 1 sw
      refine ⟨_, armOp_arms hr f.1 sw d b hin halign hrefusal he hk, hd, ?_, fun m hm => ?_, ?_, hregs, hscc, hpassed, hmem,
        hothers⟩
      · rw [e']
        exact Store.find_put_same
      · rw [e']
        exact Store.find_put_other hm
      · rw [e']
        exact State.part_setPart ..
  · have hx : exec (.switchCancel sw d a) s = _ := execSwitchCancel_some hr sw d ha hk he
    rw [if_pos htime] at hx
    obtain ⟨hd, ⟨hregs, hscc, hpassed, hmem, hothers⟩, cs, e'⟩ := answered_beside
      (v := { s with arms := Store.erase k s.arms }) hr.1 rfl rfl rfl (.of_eq rfl rfl rfl) d 1#64 (Src.len a) sw
    refine ⟨_, hx, hd, ?_, fun m hm => ?_, hregs, hscc, hpassed, hmem, hothers⟩
    · rw [e']
      exact Store.find_erase_same
    · rw [e']
      exact Store.find_erase_other hm
  · have hx : exec (.switchCancel sw d a) s = _ := execSwitchCancel_some hr sw d ha hk he
    rw [hx, if_neg (by omega)]
    exact writesSreg_done s d _ _ sw
  · have hx : exec (.switchCancel sw d a) s = _ := execSwitchCancel_none hr sw d ha hk
    rw [hx]
    exact writesSreg_done s d _ _ sw

end Sys2Proof.Claims
end

section
/-! Partitions made, and their fill masks changed (O44): PART.CREATE and PART.WAYS (R245, R246, R383-R387, R396). -/

namespace Sys2Proof.Machine
open Sys2Proof.Claims

theorem partNo_some {v : DWord} (h1 : 1 ≤ v.toNat) (h63 : v.toNat ≤ 63) : partNo v = some v.toNat := if_pos ⟨h1, h63⟩

theorem partNo_none {v : DWord} (h : v.toNat = 0 ∨ 63 < v.toNat) : partNo v = none := if_neg (by omega)

/-! ### Fill masks -/

theorem State.fillMask_setWays (s : State) (part k j : Nat) (m : BitVec 16) :
    (s.setWays part k m).fillMask part j = if j = k then m else s.fillMask part j := by
  unfold State.setWays State.fillMask
  by_cases hj : j = k
  · subst hj
    rw [if_pos rfl, Store.get_set_same]
  · rw [if_neg hj, Store.get_set_other (by omega)]

/-- The fill masks of a partition, set slice by slice. -/
theorem State.setWays_foldl (part : Nat) (f : Nat → BitVec 16) (ks : List Nat) (s : State) :
    let t := ks.foldl (fun s k => s.setWays part k (f k)) s
    (∃ ws, t = { s with ways := ws }) ∧ ∀ j, t.fillMask part j = if j ∈ ks then f j else s.fillMask part j := by
  induction ks generalizing s with
  | nil => exact ⟨⟨_, rfl⟩, fun j => (if_neg List.not_mem_nil).symm⟩
  | cons k r ih =>
    obtain ⟨⟨ws, e⟩, hmask⟩ := ih (s.setWays part k (f k))
    refine ⟨⟨ws, e⟩, fun j => ?_⟩
    rw [List.foldl_cons, hmask, State.fillMask_setWays]
    by_cases hr : j ∈ r
    · simp [hr]
    · by_cases hj : j = k
      · simp [hj]
      · simp [hr, hj]

/-! ### PART.CREATE -/

/-- R387, steps 1 and 2. -/
theorem State.install_spec (s : State) (part : Nat) (bs : List Byte) :
    let t := s.install part bs
    (∃ ps ws x, t = { s with parts := ps, ways := ws, tlb := x }) ∧
      t.part part = { blockPart bs with det := (s.part part).det, fsrv := (s.part part).fsrv, creating := true,
                                        meters := (s.part part).meters, usage := ⟨0, s.time, [], 0, 0, 0⟩ } ∧
      (∀ k, k < 576 → t.fillMask part k = BitVec.ofNat 16 (recNat bs (0x300 + 2 * k) 2)) ∧
      ∀ e, e ∈ t.tlb ↔ e ∈ s.tlb ∧ e.part ≠ part := by
  unfold State.install
  extract_lets old x s₁ s₂ t
  obtain ⟨⟨ws, e⟩, hmask⟩ := State.setWays_foldl part (fun k => BitVec.ofNat 16 (recNat bs (0x300 + 2 * k) 2)) (List.range 576) s₁
  have ht : t = { s₁ with ways := ws, tlb := s.tlb.filter fun e => e.part != part } :=
    congrArg (fun v : State => { v with tlb := v.tlb.filter fun e => e.part != part }) e
  refine ⟨⟨_, _, _, ht⟩, ?_, fun k hk => ?_, fun y => ?_⟩
  · rw [ht]
    exact State.part_setPart ..
  · rw [e] at hmask
    rw [ht]
    exact (hmask k).trans (if_pos (List.mem_range.2 hk))
  · rw [ht]
    show y ∈ s.tlb.filter (fun e => e.part != part) ↔ _
    rw [List.mem_filter, bne_iff_ne]

section
variable {s : State} (h : ThreadRuns s 2) (sw : Bool) (d b : SReg) {a : Src} (ha : Src.scalOk a = true)
include h ha

theorem execPartCreate_traps (hp : (Src.scalar s s.cur a).toNat = 0 ∨ 63 < (Src.scalar s s.cur a).toNat) :
    TakesException s (execPartCreate sw d b a s) 0x03 0#64 := by
  rw [execPartCreate, begin_thread (n := { needS a with level := 2 }) h rfl ha]
  simp only [partNo_none hp]
  exact .of_raise h.1 .illegalOperand _

section
variable (h1 : 1 ≤ (Src.scalar s s.cur a).toNat) (h63 : (Src.scalar s s.cur a).toNat ≤ 63)
include h1 h63

theorem execPartCreate_taken (hx : (s.part (Src.scalar s s.cur a).toNat).live = true ∨
    (s.part (Src.scalar s s.cur a).toNat).creating = true) :
    execPartCreate sw d b a s = .next ((s.setSreg s.cur d (refusal 1)).done s.cur (Src.len a) sw) := by
  rw [execPartCreate, begin_thread (n := { needS a with level := 2 }) h rfl ha]
  simp only [partNo_some h1 h63, Bool.or_eq_true, hx, if_true]

/-- R245: CREATE for a number that is free, by what its block says. -/
theorem execPartCreate_eq (hlive : (s.part (Src.scalar s s.cur a).toNat).live = false)
    (hcreating : (s.part (Src.scalar s s.cur a).toNat).creating = false) (halign : (s.sreg s.cur b).toNat % 4096 = 0)
    (hin : (s.sreg s.cur b).toNat + 2048 ≤ hbmTop) {bs : List Byte} (hbs : s.physRead (s.sreg s.cur b).toNat 2048 = bs) :
    execPartCreate sw d b a s = .next (
      if blockOk bs = false ∨ s.blockFits bs = false then (s.setSreg s.cur d (refusal 3)).done s.cur (Src.len a) sw
      else if s.owners.any (fun e => (blockPart bs).conflicts e.2) = true then
        (s.setSreg s.cur d (refusal 2)).done s.cur (Src.len a) sw
      else ((s.install (Src.scalar s s.cur a).toNat bs).setSreg s.cur d 0#64).done s.cur (Src.len a) sw) := by
  rw [execPartCreate, begin_thread (n := { needS a with level := 2 }) h rfl ha]
  simp only [partNo_some h1 h63, hlive, hcreating, Bool.or_self, Bool.false_eq_true, if_false, bufferTrap_of_hbm hin, halign,
    ne_eq, not_true_eq_false, hbs, Bool.or_eq_true, Bool.not_eq_true']
  split
  · rfl
  · split <;> rfl

end

/-! ### PART.WAYS -/

omit h ha in
/-- A way cleaned is read and written back only. -/
theorem State.cleanWay_reads (s : State) (slice way : Nat) : ReadsHome s (s.cleanWay slice way) := by
  unfold State.cleanWay
  generalize s.l2.filter _ = es
  induction es generalizing s with
  | nil => exact .refl s
  | cons e r ih =>
    have hback : ReadsHome s (((s.writeBack e.2).putL2 e.1 { e.2 with dirty := false }).meterAdd e.2.owner 5 128) :=
      (s.writeBack_reads e.2).trans (ReadsHome.trans ⟨_, _, _, _, _, rfl⟩ (State.meterAdd_reads ..))
    exact hback.trans (ih _)

end

/-- What changing the fill masks of slices `ks` to `m` leaves of a sound memory (R396). -/
structure ChangesWays (part : Nat) (ks : List Nat) (m : BitVec 16) (s t : State) : Prop where
  keeps : KeepsHome s t
  rest : ∃ l mm p ps n ws, t = { s with l2 := l, mem := mm, poison := p, parts := ps, now := n, ways := ws }
  mask : ∀ j, t.fillMask part j = if j ∈ ks then m else s.fillMask part j

theorem State.changeWays_spec {s : State} (hs : Sound s.mem s.l2) (part slice : Nat) (m : BitVec 16) :
    ChangesWays part [slice] m s (s.changeWays part slice m) := by
  unfold State.changeWays
  extract_lets old t
  have hclean : ∀ (ws : List Nat) {v : State}, Sound v.mem v.l2 →
      let u := ws.foldl (fun s w => if (old.getLsbD w && !m.getLsbD w) = true then s.cleanWay slice w else s) v
      KeepsHome v u ∧ ReadsHome v u := fun ws => by
    induction ws with
    | nil => exact fun hv => ⟨.refl hv, .refl _⟩
    | cons w r ih =>
      intro v hv
      rw [List.foldl_cons]
      split
      · have hw := State.cleanWay_keeps hv slice w
        obtain ⟨hk, hr⟩ := ih hw.sound
        exact ⟨hw.trans hk, (v.cleanWay_reads slice w).trans hr⟩
      · exact ih hv
  obtain ⟨hk, hr⟩ := hclean (List.range 16) hs
  obtain ⟨_, _, _, _, _, e⟩ := hr
  have ht : t = _ := e
  refine ⟨hk.trans (.of_eq hk.sound rfl rfl), ⟨_, _, _, _, _, _, by rw [ht]; rfl⟩, fun j => ?_⟩
  rw [State.fillMask_setWays, ht]
  simp only [List.mem_singleton]
  rfl

theorem State.changeWays_foldl (part : Nat) (m : BitVec 16) (ks : List Nat) {s : State} (hs : Sound s.mem s.l2) :
    ChangesWays part ks m s (ks.foldl (fun s k => s.changeWays part k m) s) := by
  induction ks generalizing s with
  | nil => exact ⟨.refl hs, ⟨_, _, _, _, _, _, rfl⟩, fun j => (if_neg List.not_mem_nil).symm⟩
  | cons k r ih =>
    obtain ⟨hkeeps, ⟨_, _, _, _, _, _, e⟩, hmask⟩ := State.changeWays_spec hs part k m
    obtain ⟨hkeeps', ⟨_, _, _, _, _, _, e'⟩, hmask'⟩ := ih hkeeps.sound
    refine ⟨hkeeps.trans hkeeps', ⟨_, _, _, _, _, _, by rw [List.foldl_cons, e', e]⟩, fun j => ?_⟩
    rw [List.foldl_cons, hmask', hmask]
    by_cases hr : j ∈ r
    · simp [hr]
    · by_cases hj : j = k
      · simp [hj]
      · simp [hr, hj]

section
variable {s : State} (h : ThreadRuns s 2) (sw : Bool) (d b : SReg) {a : Src} (ha : Src.scalOk a = true)
include h ha

theorem execPartWays_traps (hp : (Src.scalar s s.cur a).toNat = 0 ∨ 63 < (Src.scalar s s.cur a).toNat) :
    TakesException s (execPartWays sw d b a s) 0x03 0#64 := by
  rw [execPartWays, begin_thread (n := { needS a with level := 2 }) h rfl ha]
  simp only [partNo_none hp]
  exact .of_raise h.1 .illegalOperand _

/-- R246: WAYS for a slice that there is, or all of them. -/
theorem execPartWays_eq (h1 : 1 ≤ (Src.scalar s s.cur a).toNat) (h63 : (Src.scalar s s.cur a).toNat ≤ 63)
    (hk : (s.sreg s.cur b).toNat % 2 ^ 10 < 576 ∨ (s.sreg s.cur b).toNat % 2 ^ 10 = 0x3FF)
    (hhigh : (s.sreg s.cur b).toNat < 2 ^ 32) (hzero : (s.sreg s.cur b).extractLsb' 10 6 = 0#6) :
    execPartWays sw d b a s = .next (
      let p := (Src.scalar s s.cur a).toNat
      let v := s.sreg s.cur b
      let k := v.toNat % 1024
      if (s.part p).live = true then
        (State.setSreg ((if k = 0x3FF then List.range 576 else [k]).foldl (fun s k => s.changeWays p k (v.extractLsb' 16 16)) s) s.cur d
          ((s.fillMask p (if k = 0x3FF then 0 else k)).setWidth 64)).done s.cur (Src.len a) sw
      else (s.setSreg s.cur d (refusal 1)).done s.cur (Src.len a) sw) := by
  have hgood : (decide (2 ^ 32 ≤ (s.sreg s.cur b).toNat) || (s.sreg s.cur b).extractLsb' 10 6 != 0#6 ||
      (decide (576 ≤ (s.sreg s.cur b).toNat % 1024) && (s.sreg s.cur b).toNat % 1024 != 0x3FF)) = false := by
    simp only [hzero, bne_self_eq_false, Bool.or_false, ← Bool.not_eq_true, Bool.or_eq_true, Bool.and_eq_true, decide_eq_true_eq,
      bne_iff_ne]
    omega
  rw [execPartWays, begin_thread (n := { needS a with level := 2 }) h rfl ha]
  simp only [partNo_some h1 h63, hgood, Bool.false_eq_true, if_false, beq_iff_eq, Bool.not_eq_true']
  by_cases hlive : (s.part (Src.scalar s s.cur a).toNat).live = true
  · simp [hlive]
  · simp [hlive]

end

end Sys2Proof.Machine
end

section
/-! Bitmaps of partitions (O44): PART.BITMAP (R246, R383). -/

namespace Sys2Proof.Machine
open Sys2Proof.Claims

/-! ### Units -/

/-- A partition owns a unit of a kind (R383). -/
def Partition.ownsUnit (p : Partition) (kind i : Nat) : Bool :=
  if kind = 0 then p.clusters.getLsbD i else if kind = 1 then p.pchan.getLsbD i
  else if kind = 2 then p.ceng.getLsbD i else p.ports.getLsbD i

theorem Partition.testBit_bitmap (p : Partition) (kind i : Nat) : (p.bitmap kind).testBit i = p.ownsUnit kind i := by
  simp only [Partition.bitmap, Partition.ownsUnit, beq_iff_eq, apply_ite (fun x : Nat => x.testBit i), BitVec.getLsbD]

theorem kindWidth_eq (kind : Nat) :
    kindWidth kind = if kind = 0 then 144 else if kind = 1 then 768 else if kind = 2 then 48 else 24 := by
  simp only [kindWidth, beq_iff_eq]

/-- A new bitmap says which units the partition owns. -/
theorem Partition.ownsUnit_setBitmap (p : Partition) {kind m i : Nat} (hi : i < kindWidth kind) :
    (p.setBitmap kind m).ownsUnit kind i = m.testBit i := by
  rw [kindWidth_eq] at hi
  unfold Partition.setBitmap Partition.ownsUnit
  simp only [beq_iff_eq]
  split
  · rename_i h0
    rw [if_pos h0] at hi
    rw [BitVec.getLsbD_ofNat, decide_eq_true hi, Bool.true_and]
  · rename_i h0
    rw [if_neg h0] at hi
    split
    · rename_i h1
      rw [if_pos h1] at hi
      rw [BitVec.getLsbD_ofNat, decide_eq_true hi, Bool.true_and]
    · rename_i h1
      rw [if_neg h1] at hi
      split
      · rename_i h2
        rw [if_pos h2] at hi
        rw [BitVec.getLsbD_ofNat, decide_eq_true hi, Bool.true_and]
      · rename_i h2
        rw [if_neg h2] at hi
        rw [BitVec.getLsbD_ofNat, decide_eq_true hi, Bool.true_and]

/-- A range has a byte in a pseudo-channel. -/
theorem inChannel_iff (a n c : Nat) : inChannel a n c = true ↔ ∃ j, j < n ∧ (a + j) / 0x60000000 = c := by
  rw [inChannel, rangesMeet, decide_eq_true_eq]
  refine ⟨fun ⟨hn, _, hlo, hhi⟩ => ⟨0x60000000 * c - a, by omega, by omega⟩, fun ⟨j, hj, e⟩ => ?_⟩
  omega

/-- A foal of a partition that has not ended. -/
def Foal.runsFor (e : Nat × Foal) (p : Nat) : Prop := e.2.live = true ∧ e.2.origin.part = p

/-- A unit is in use by a partition (R246). -/
def State.Uses (s : State) (p kind i : Nat) : Prop :=
  let x := s.part p
  if kind = 0 then (∃ e ∈ s.cores, e.2.part = p ∧ e.1 < 2304 ∧ clusterOf e.1 = i) ∨
    ∃ e ∈ s.foals, Foal.runsFor e p ∧ e.1 / 256 < 2304 ∧ clusterOf (e.1 / 256) = i
  else if kind = 1 then ∃ r ∈ ([(x.penbase, x.penbytes), (x.ctxbase, x.ctxbytes), (x.ulogbase, 5120 * x.ulogn),
      (x.gtbase, 8192 * x.gtcount)] : List (Nat × Nat)), ∃ j, j < r.2 ∧ (r.1 + j) / 0x60000000 = i
  else if kind = 2 then ∃ e ∈ s.foals, Foal.runsFor e p ∧ ∃ j, e.2.job = .coll j ∧ j.engine = i
  else ∃ f ∈ (s.port i).buffer, f.isJob = true ∧ f.part.toNat = p

theorem State.unitUsed_iff (s : State) (p kind i : Nat) : s.unitUsed p kind i = true ↔ s.Uses p kind i := by
  unfold State.unitUsed State.Uses Foal.runsFor
  simp only [beq_iff_eq]
  split
  · simp [and_assoc]
  · split
    · simp [inChannel_iff, or_assoc]
    · split
      · simp only [List.any_eq_true, Bool.and_eq_true, beq_iff_eq]
        refine exists_congr fun e => and_congr_right fun _ => and_congr_right fun _ => ?_
        cases e.2.job <;> simp
      · simp

/-! ### The refusals -/

/-- A unit that the bitmap adds is another partition's. -/
def State.TakesUnit (s : State) (p kind w m : Nat) : Prop :=
  ∃ i, i < w ∧ m.testBit i = true ∧ (s.part p).ownsUnit kind i = false ∧
    ∃ e ∈ s.parts, e.1 ≠ p ∧ (e.2.live = true ∨ e.2.creating = true) ∧ e.2.ownsUnit kind i = true

/-- A unit that the bitmap removes is in use. -/
def State.DropsUsed (s : State) (p kind w m : Nat) : Prop :=
  ∃ i, i < w ∧ (s.part p).ownsUnit kind i = true ∧ m.testBit i = false ∧ s.Uses p kind i

/-- R246: the refusals of BITMAP in their order. -/
theorem State.bitmapRefusal_eq (s : State) (p kind m : Nat) : ∃ taken busy : Bool,
    (taken = true ↔ s.TakesUnit p kind (kindWidth kind) m) ∧ (busy = true ↔ s.DropsUsed p kind (kindWidth kind) m) ∧
    s.bitmapRefusal p kind m = if (s.part p).live = false then some 1 else if 2 ^ kindWidth kind ≤ m then some 3
      else if taken = true then some 2 else if busy = true then some 4 else none := by
  unfold State.bitmapRefusal
  simp only [Bool.not_eq_true', Partition.testBit_bitmap]
  refine ⟨_, _, ?_, ?_, rfl⟩
  · simp only [State.TakesUnit, State.owners, List.any_eq_true, List.mem_range, Bool.and_eq_true, Bool.not_eq_true', List.mem_filter,
      Bool.or_eq_true, bne_iff_ne, and_assoc]
    refine exists_congr fun i => and_congr_right fun _ => and_congr_right fun _ => and_congr_right fun _ => exists_congr fun e =>
      and_congr_right fun _ => and_left_comm
  · simp only [State.DropsUsed, List.any_eq_true, List.mem_range, Bool.and_eq_true, Bool.not_eq_true', State.unitUsed_iff, and_assoc]

/-! ### The form -/

/-- The number that a buffer's 128 bytes are. -/
theorem State.leNat_physRead {s : State} {pa n : Nat} (h : pa + n ≤ hbmTop) :
    leNat (s.physRead pa n) = ((List.range n).map fun i => (s.homeByte ⟨pa + i, none⟩).toNat * 2 ^ (8 * i)).sum := by
  rw [leNat_eq_sum, physRead_of_hbm h, map_zipIdx_map_range]

section
variable {s : State} (h : ThreadRuns s 2) (sw : Bool) (d b : SReg) {a : Src} (ha : Src.scalOk a = true)
include h ha

omit h ha in
/-- The fields of A. -/
theorem bitmapFields (A : DWord) : ((A.extractLsb' 0 8).setWidth 64).toNat = A.toNat % 256 ∧
    (A.extractLsb' 8 3).toNat = A.toNat / 256 % 8 := by
  refine ⟨?_, by rw [BitVec.extractLsb'_toNat, Nat.shiftRight_eq_div_pow]⟩
  rw [BitVec.toNat_setWidth, BitVec.extractLsb'_toNat, Nat.shiftRight_zero]
  omega

theorem execPartBitmap_traps (hA : 63 < (Src.scalar s s.cur a).toNat % 256 ∨ (Src.scalar s s.cur a).toNat % 256 = 0 ∨
    2 ^ 10 ≤ (Src.scalar s s.cur a).toNat) : TakesException s (execPartBitmap sw d b a s) 0x03 0#64 := by
  obtain ⟨hpart, hkind⟩ := bitmapFields (Src.scalar s s.cur a)
  rw [execPartBitmap, begin_thread (n := { needS a with level := 2 }) h rfl ha]
  by_cases hp : 1 ≤ (Src.scalar s s.cur a).toNat % 256 ∧ (Src.scalar s s.cur a).toNat % 256 ≤ 63
  · have hbad : (decide (4 ≤ (Src.scalar s s.cur a).toNat / 256 % 8) || decide (2 ^ 11 ≤ (Src.scalar s s.cur a).toNat)) = true := by
      rw [Bool.or_eq_true, decide_eq_true_eq, decide_eq_true_eq]
      omega
    simp only [partNo_some (v := ((Src.scalar s s.cur a).extractLsb' 0 8).setWidth 64) (by omega) (by omega), hkind, hbad, if_true]
    exact .of_raise h.1 .illegalOperand _
  · simp only [partNo_none (v := ((Src.scalar s s.cur a).extractLsb' 0 8).setWidth 64) (by omega)]
    exact .of_raise h.1 .illegalOperand _

section
variable {p kind m : Nat} (hA : (Src.scalar s s.cur a).toNat = p + 256 * kind) (h1 : 1 ≤ p) (h63 : p ≤ 63) (hk : kind < 4)
  (halign : (s.sreg s.cur b).toNat % 64 = 0) (hin : (s.sreg s.cur b).toNat + 128 ≤ hbmTop)
  (hm : leNat (s.physRead (s.sreg s.cur b).toNat 128) = m)
include hA h1 h63 hk halign hin hm

/-- BITMAP for a partition and a kind that there are, by its refusal. -/
theorem execPartBitmap_spec :
    (∀ n, s.bitmapRefusal p kind m = some n →
      execPartBitmap sw d b a s = .next ((s.setSreg s.cur d (refusal n)).done s.cur (Src.len a) sw)) ∧
    (s.bitmapRefusal p kind m = none → execPartBitmap sw d b a s =
      .next (((s.setPart p ((s.part p).setBitmap kind m)).setSreg s.cur d 0#64).done s.cur (Src.len a) sw)) := by
  obtain ⟨hpart, hkind⟩ := bitmapFields (Src.scalar s s.cur a)
  have hpart' : ((Src.scalar s s.cur a).toNat) % 256 = p := by omega
  have hkind' : (Src.scalar s s.cur a).toNat / 256 % 8 = kind := by omega
  have hgood : (decide (4 ≤ kind) || decide (2 ^ 11 ≤ (Src.scalar s s.cur a).toNat)) = false := by
    rw [Bool.or_eq_false_iff, decide_eq_false_iff_not, decide_eq_false_iff_not]
    omega
  rw [execPartBitmap, begin_thread (n := { needS a with level := 2 }) h rfl ha]
  simp only [partNo_some (v := ((Src.scalar s s.cur a).extractLsb' 0 8).setWidth 64) (by omega) (by omega), hpart, hpart', hkind,
    hkind', hgood, Bool.false_eq_true, if_false, bufferTrap_of_hbm hin, halign, ne_eq, not_true_eq_false, hm]
  exact ⟨fun n hn => by simp only [hn], fun hn => by simp only [hn]⟩

end

end

end Sys2Proof.Machine
end

section
/-! What performs a team's accesses to its scratchpad leaves alone (R163, R249): no workgroup and no foal changes, and every hart
keeps its kind. -/

namespace Sys2Proof.Machine

/-- The workgroups and the foals are as they were, and every hart keeps its kind. -/
structure SparesWork (s t : State) : Prop where
  wgs : t.wgs = s.wgs
  foals : t.foals = s.foals
  kinds : KeepsKinds s t

namespace SparesWork

theorem of_eq {s t : State} (hw : t.wgs = s.wgs) (hf : t.foals = s.foals) (hc : t.ctxs = s.ctxs) : SparesWork s t :=
  ⟨hw, hf, .of_eq hc⟩

theorem refl (s : State) : SparesWork s s := .of_eq rfl rfl rfl

theorem trans {s t u : State} (hst : SparesWork s t) (htu : SparesWork t u) : SparesWork s u :=
  ⟨htu.wgs.trans hst.wgs, htu.foals.trans hst.foals, hst.kinds.trans htu.kinds⟩

theorem foldl {α : Type} {f : State → α → State} (hf : ∀ s a, SparesWork s (f s a)) (l : List α) (s : State) :
    SparesWork s (l.foldl f s) := by
  induction l generalizing s with
  | nil => exact .refl s
  | cons a r ih => exact (hf s a).trans (ih _)

theorem of_rereads {s t : State} (h : Rereads s t) (hk : KeepsKinds s t) : SparesWork s t := by
  obtain ⟨_, _, _, _, _, _, _, _, rfl⟩ := h
  exact ⟨rfl, rfl, hk⟩

theorem of_readsHome {s t : State} (h : ReadsHome s t) : SparesWork s t := of_rereads h.rereads (.of_readsHome h)

/-! ### Caches -/

theorem touch (s : State) (k : Nat) : SparesWork s (s.touch k) := by
  unfold State.touch
  split <;> exact .of_eq rfl rfl rfl

theorem useHome (s : State) (owner : Nat) (l : Loc) : SparesWork s (s.useHome owner l) := of_readsHome (s.useHome_reads owner l)

theorem useDie (s : State) (owner die : Nat) (l : Loc) : SparesWork s (s.useDie owner die l) := by
  unfold State.useDie
  split
  · exact .touch ..
  · exact .useHome ..

theorem fillL1 (s : State) (core line : Nat) (data : BitVec 1024) (age : Nat) : SparesWork s (s.fillL1 core line data age) := by
  unfold State.fillL1
  extract_lets free
  split
  · exact .refl s
  · extract_lets set t
    clear_value set
    have ht : SparesWork s t := by
      unfold t
      split
      · exact .refl s
      · split <;> exact .of_eq rfl rfl rfl
    exact ht.trans (.of_eq rfl rfl rfl)

theorem dropCopy (s : State) (die line : Nat) : SparesWork s (s.dropCopy die line) := by
  unfold State.dropCopy
  split <;> exact .of_eq rfl rfl rfl

theorem fillGuest (s : State) (owner die : Nat) (l : Loc) : SparesWork s (s.fillGuest owner die l) := by
  unfold State.fillGuest
  extract_lets line t data
  have ht : SparesWork s t := .useHome s owner l
  refine ht.trans ?_
  split
  · exact .refl t
  · split
    · exact .dropCopy ..
    · split
      · exact .of_eq rfl rfl rfl
      · split
        · exact .refl t
        · exact (of_readsHome (t.evict_reads _)).trans (.of_eq rfl rfl rfl)

theorem renew (s : State) (core owner : Nat) (l : Loc) : SparesWork s (s.renew core owner l) := by
  unfold State.renew
  extract_lets t
  have ht : SparesWork s t := .of_eq rfl rfl rfl
  split
  · exact ht.trans (.fillGuest ..)
  · exact ht

theorem afterServe (s : State) (core owner fresh : Nat) (reach : Reach) (l : Loc) (d : BitVec 1024) (p : BitVec 2) :
    SparesWork s (s.afterServe core owner fresh reach l d p) := by
  unfold State.afterServe
  extract_lets die line
  split
  · split
    · exact .refl s
    · split
      · exact (SparesWork.useDie ..).trans (.fillL1 ..)
      · exact .useDie ..
  · exact (SparesWork.useDie ..).trans (.of_eq rfl rfl rfl)
  · exact (SparesWork.useHome ..).trans (.renew ..)

/-- R164: the lines of a load, read where it may read them. -/
theorem fetchLines {s u t : State} {core owner fresh : Nat} {reach : Reach} {bs : List Loc} {ls : List Loc}
    {got : List (Nat × BitVec 1024 × BitVec 2)} {ds : List Byte} {p : Bool}
    (h : s.fetchLines core owner fresh reach bs ls u got = .got t ds p) : SparesWork u t := by
  induction ls generalizing u got with
  | nil =>
    cases h
    exact .refl _
  | cons l r ih =>
    rw [State.fetchLines] at h
    split at h
    · cases h
    · cases h
    · rename_i d q copy _
      refine trans ?_ (ih h)
      have hserve : SparesWork u (u.afterServe core owner fresh reach l d q) := .afterServe ..
      cases copy
      · exact hserve
      · exact hserve.trans (.of_eq rfl rfl rfl)

theorem fetchBytes {s t : State} {core owner fresh : Nat} {reach : Reach} {bs : List Loc} {ds : List Byte} {p : Bool}
    (h : s.fetchBytes core owner fresh reach bs = .got t ds p) : SparesWork s t := fetchLines h

theorem dropStale (s : State) (die : Nat) (r : Req) : SparesWork s (s.dropStale die r) := by
  refine foldl (fun s line => ?_) _ s
  split
  · exact .refl s
  · extract_lets own
    split
    · exact .of_eq rfl rfl rfl
    · exact .refl s

theorem showStore (s : State) (core : Nat) (qs : List LaneReq) : SparesWork s (s.showStore core qs) := by
  refine foldl (fun s q => ?_) _ s
  obtain ⟨x, hx⟩ := s.writeL1_rest core q.placed
  obtain ⟨l, n, hl⟩ := State.writeGuest_rest (s.writeL1 core q.placed) (dieOfCore core) q.placed
  rw [hl, hx]
  exact .of_eq rfl rfl rfl

/-! ### Landing -/

theorem setCtx (s : State) {h : Nat} {c : Ctx} (hc : c.kind = (s.ctx h).kind) : SparesWork s (s.setCtx h c) :=
  ⟨rfl, rfl, .setCtx s hc⟩

theorem scratch (s : State) (g o : Nat) (bs : List Byte) : SparesWork s (s.scratch g o bs) := by
  have hbytes : SparesWork s (s.spWrite g o bs) := by
    unfold State.spWrite
    refine foldl (fun _ _ => ?_) _ s
    exact .of_eq rfl rfl rfl
  exact hbytes.trans (foldl (fun s k => of_rereads (s.reread_rereads k) (.reread s k)) _ _)

theorem land (s : State) (h lane : Nat) (d : Dest) (sext : Bool) (n x : Nat) : SparesWork s (s.land h lane d sext n x) := by
  unfold State.land
  split
  · exact .refl s
  · exact .setCtx s rfl
  · extract_lets word lo
    refine foldl (fun _ _ => ?_) _ s
    exact .of_eq rfl rfl rfl

theorem setReqs (s : State) (h : Nat) (f : List Req → List Req) : SparesWork s (s.setReqs h f) := .of_eq rfl rfl rfl

theorem putReq (s : State) (h : Nat) (r : Req) : SparesWork s (s.putReq h r) := .setReqs ..

theorem marked (s : State) (h : Nat) (sw : Bool) : SparesWork s (s.marked h sw) := by
  unfold State.marked
  split
  · exact .setCtx s rfl
  · exact .refl s

theorem landedWake (s : State) (h id : Nat) : SparesWork s (s.landedWake h id) := by
  unfold State.landedWake
  split
  · split
    · exact (SparesWork.setCtx s (c := { s.ctx h with status := .ready }) rfl).trans (.marked ..)
    · exact .refl s
  all_goals exact .refl s

theorem acquire (s : State) (h : Nat) (c : Scope) : SparesWork s (s.acquire h c) := by
  obtain ⟨_, _, _, e⟩ := s.acquire_rest h c
  rw [e]
  exact .of_eq rfl rfl rfl

theorem finishReq (s : State) (h id : Nat) : SparesWork s (s.finishReq h id) := by
  unfold State.finishReq
  split
  · exact .refl s
  · split
    · exact .refl s
    · extract_lets t s₁ s₂ s₃
      have h₂ : SparesWork s s₂ := .of_eq rfl rfl rfl
      have h₃ : SparesWork s₂ s₃ := by
        unfold s₃
        split
        · exact .acquire ..
        · exact .refl _
      exact (h₂.trans h₃).trans (.landedWake ..)

theorem laneRead (s : State) (h : Nat) (r : Req) (q : LaneReq) (bs : List Byte) (pois : Bool) :
    SparesWork s (s.laneRead h r q bs pois) := by
  unfold State.laneRead
  split
  · exact .setReqs ..
  · refine SparesWork.trans ?_ (.setReqs ..)
    split
    · exact .refl s
    · exact .land ..

theorem addFill (s : State) (f : Fill) : SparesWork s (s.addFill f) := by
  unfold State.addFill
  split <;> exact .of_eq rfl rfl rfl

theorem loadLane (s : State) (h : Nat) (r : Req) (q : LaneReq) : SparesWork s (s.loadLane h r q) := by
  unfold State.loadLane
  extract_lets t
  split
  · exact .refl s
  · split
    · exact .laneRead ..
    · split
      · split
        · exact .refl s
        · exact .addFill ..
      · exact .refl s
      · rename_i hgot
        exact (fetchBytes hgot).trans (.laneRead ..)

theorem showStores (s : State) (h : Nat) : SparesWork s (s.showStores h) := by
  refine foldl (fun s r => ?_) _ s
  split
  · exact (SparesWork.showStore ..).trans (.putReq ..)
  · exact .refl s

theorem atomScratch (s : State) (h : Nat) (r : Req) (op : Aop) : SparesWork s (s.atomScratch h r op) := by
  unfold State.atomScratch
  extract_lets g t
  refine SparesWork.trans (foldl (fun s q => ?_) _ s) (.putReq ..)
  split
  · exact .refl s
  · exact (SparesWork.scratch ..).trans (.land ..)

theorem loadReturn (s : State) (h id : Nat) (lanes : Mask) : SparesWork s (s.loadReturn h id lanes) := by
  unfold State.loadReturn
  split
  · exact .refl s
  · split
    · extract_lets t
      have ht : SparesWork s t := by
        refine foldl (fun s q => ?_) _ s
        split
        · exact .loadLane ..
        · exact .refl s
      exact (ht.trans (.finishReq ..)).trans (.showStores ..)
    · split
      · split
        · exact (SparesWork.atomScratch ..).trans (.finishReq ..)
        · exact .refl s
      · extract_lets now n t u
        have ht : SparesWork s t := by
          refine foldl (fun s b => ?_) _ s
          split
          · exact .land ..
          · exact .refl s
        exact (ht.trans (.putReq ..)).trans (.finishReq ..)
    · exact .refl s
    · exact .refl s

theorem storeAck (s : State) (h id : Nat) : SparesWork s (s.storeAck h id) := by
  unfold State.storeAck
  split
  · exact .refl s
  · split
    · exact .refl s
    · split
      · split
        · exact .finishReq ..
        · split
          · exact ((SparesWork.scratch ..).trans (.putReq ..)).trans (.finishReq ..)
          · exact .refl s
      · split
        · exact (SparesWork.finishReq ..).trans (.dropStale ..)
        · exact .refl s

/-- R163, R249: a team's own scratchpad accesses performed. -/
theorem settle (s : State) (h : Nat) : SparesWork s (s.settle h) := by
  refine foldl (fun s r => ?_) _ s
  split
  · refine foldl (fun s _ => ?_) _ s
    split
    · exact .loadReturn ..
    · exact .storeAck ..
  · exact .refl s

/-! ### A foal's end -/

theorem endFrozen (s : State) (k : Nat) (f : Foal) : SparesWork s (s.endFrozen k f) := by
  unfold State.endFrozen
  split
  · exact .refl s
  · split
    · exact .refl s
    · unfold State.markFrozen
      extract_lets x
      split
      · exact .refl s
      · exact .scratch ..

theorem ringIdle (s : State) (f : Foal) : SparesWork s (s.ringIdle f) := by
  unfold State.ringIdle
  split
  · split
    · exact .scratch ..
    · exact .refl s
  all_goals exact .refl s

theorem transmit (s : State) (p : Nat) (f : Frame) : SparesWork s (s.transmit p f) := by
  unfold State.transmit
  extract_lets t
  have ht : SparesWork s t := by
    unfold t
    split
    · exact of_readsHome (s.meterAdd_reads ..)
    · exact .refl s
  exact ht.trans (.of_eq rfl rfl rfl)

theorem sendJob (s : State) (f : Frame) : SparesWork s (s.sendJob f) := by
  unfold State.sendJob
  extract_lets again
  have hagain : SparesWork s again := .of_eq rfl rfl rfl
  split
  · split
    · rename_i t ht
      unfold State.inject at ht
      split at ht
      · cases ht
      · split at ht
        · cases ht
          exact .transmit ..
        · cases ht
    · exact hagain
  · exact hagain

theorem endNotice (s : State) (k : Nat) (f : Foal) (st : FoalStatus) : SparesWork s (s.endNotice k f st) := by
  unfold State.endNotice
  split
  · split
    · exact .sendJob ..
    · exact .refl s
  all_goals exact .refl s

theorem counterAdd (s : State) (e : Nat) (v : Int) : SparesWork s (s.counterAdd e v) := .of_eq rfl rfl rfl

theorem uncount (s : State) (f : Foal) : SparesWork s (s.uncount f) := by
  unfold State.uncount
  split
  · exact .refl s
  · exact .refl s
  all_goals exact .counterAdd ..

end SparesWork

end Sys2Proof.Machine
end

section
/-! Kills (O44): what KILL_TEAM, KILL_WG and KILL_CONTEXT end (R263, R372), and what they keep. -/

namespace Sys2Proof.Machine

/-! ### What may only end -/

/-- Teams and foals have ended or been cancelled, and nothing has begun: a hart keeps its kind or is absent, each workgroup keeps
its teams and its core, and a foal that has ended or that a cancel has reached stays so. -/
structure OnlyEnds (s t : State) : Prop where
  kinds : ∀ h, (t.ctx h).kind = (s.ctx h).kind ∨ (t.ctx h).kind = .absent
  teams : ∀ g, (t.wg g).teams = (s.wg g).teams
  cores : ∀ e ∈ s.wgs, (s.wg e.1).teams ≠ [] → ∃ e' ∈ t.wgs, e'.1 = e.1 ∧ e'.2.core = e.2.core
  foals : ∀ k f, s.foalAt k = some f → ∃ f', t.foalAt k = some f' ∧
    (f'.live = true → f.live = true ∧ (f.canreq = true → f'.canreq = true))

theorem Store.mem_put_or {β : Type} {e : Nat × β} {st : Store β} (h : e ∈ st) (k : Nat) (v : β) :
    e ∈ Store.put k v st ∨ e.1 = k ∧ Store.find k st = some e.2 := by
  induction st with
  | nil => cases h
  | cons a r ih =>
    obtain ⟨j, w⟩ := a
    unfold Store.put
    split
    · rename_i hj
      rcases List.mem_cons.1 h with rfl | hr
      · exact .inl List.mem_cons_self
      · refine (ih hr).imp (List.mem_cons_of_mem _) fun ⟨hk, hf⟩ => ⟨hk, ?_⟩
        rw [Store.find, if_neg (by simp; omega), hf]
    · split
      · rename_i hj
        rcases List.mem_cons.1 h with rfl | hr
        · exact .inr ⟨eq_of_beq hj, by rw [Store.find, if_pos hj]⟩
        · exact .inl (List.mem_cons_of_mem _ hr)
      · exact .inl (List.mem_cons_of_mem _ h)

namespace OnlyEnds

theorem of_spares {s t : State} (h : SparesWork s t) : OnlyEnds s t := by
  obtain ⟨hw, hf, hk⟩ := h
  refine ⟨fun k => .inl (hk.kind k), fun g => ?_, fun e he _ => ⟨e, by rwa [hw], rfl, rfl⟩,
    fun k f hat => ⟨f, ?_, fun hl => ⟨hl, id⟩⟩⟩
  · unfold State.wg
    rw [hw]
  · unfold State.foalAt
    rwa [hf]

theorem refl (s : State) : OnlyEnds s s := of_spares (.refl s)

theorem trans {s t u : State} (hst : OnlyEnds s t) (htu : OnlyEnds t u) : OnlyEnds s u := by
  refine ⟨fun h => ?_, fun g => (htu.teams g).trans (hst.teams g), fun e he hne => ?_, fun k f hf => ?_⟩
  · rcases htu.kinds h with hk | hk
    · rw [hk]
      exact hst.kinds h
    · exact .inr hk
  · obtain ⟨e', he', hkey, hcore⟩ := hst.cores e he hne
    obtain ⟨e'', he'', hkey', hcore'⟩ := htu.cores e' he' (by rwa [hkey, hst.teams])
    exact ⟨e'', he'', hkey'.trans hkey, hcore'.trans hcore⟩
  · obtain ⟨f', hf', hend⟩ := hst.foals k f hf
    obtain ⟨f'', hf'', hend'⟩ := htu.foals k f' hf'
    exact ⟨f'', hf'', fun hl => ⟨(hend (hend' hl).1).1, fun hc => (hend' hl).2 ((hend (hend' hl).1).2 hc)⟩⟩

theorem foldl {α : Type} {f : State → α → State} (hf : ∀ s a, OnlyEnds s (f s a)) (l : List α) (s : State) :
    OnlyEnds s (l.foldl f s) := by
  induction l generalizing s with
  | nil => exact .refl s
  | cons a r ih => exact (hf s a).trans (ih _)

theorem absent {s t : State} (h : OnlyEnds s t) {k : Nat} (hk : (s.ctx k).kind = .absent) : (t.ctx k).kind = .absent :=
  (h.kinds k).elim (·.trans hk) id

/-! ### Records -/

theorem setWg (s : State) {g : Nat} {w : Workgroup} (ht : w.teams = (s.wg g).teams) (hc : w.core = (s.wg g).core) :
    OnlyEnds s (s.setWg g w) := by
  refine ⟨fun h => .inl rfl, fun k => ?_, fun e he hne => ?_, fun k f hf => ⟨f, hf, fun hl => ⟨hl, id⟩⟩⟩
  · by_cases hk : k = g
    · subst hk
      exact (congrArg Workgroup.teams Store.get_set_same).trans ht
    · exact congrArg Workgroup.teams (Store.get_set_other hk)
  · show ∃ e' ∈ Store.set Workgroup.blank s.wgs g w, _
    unfold Store.set
    split
    · rename_i hblank
      refine ⟨e, (Store.mem_erase e).2 ⟨he, fun hg => hne ?_⟩, rfl, rfl⟩
      rw [hg, ← ht, hblank]
      rfl
    · rcases Store.mem_put_or he g w with hput | ⟨hg, hfind⟩
      · exact ⟨e, hput, rfl, rfl⟩
      · refine ⟨(g, w), Store.mem_of_find Store.find_put_same, hg.symm, hc.trans ?_⟩
        show (Store.get Workgroup.blank s.wgs g).core = _
        rw [Store.get, hfind]
        rfl

theorem putFoal {s : State} {k : Nat} {f f' : Foal} (hf : s.foalAt k = some f)
    (hend : f'.live = true → f.live = true ∧ (f.canreq = true → f'.canreq = true)) : OnlyEnds s (s.putFoal k f') := by
  refine ⟨fun h => .inl rfl, fun g => rfl, fun e he _ => ⟨e, he, rfl, rfl⟩, fun j x hx => ?_⟩
  by_cases hj : j = k
  · subst hj
    obtain rfl : f = x := Option.some.inj (hf.symm.trans hx)
    exact ⟨f', State.foalAt_putFoal .., hend⟩
  · exact ⟨x, (State.foalAt_putFoal_ne s f' hj).trans hx, fun hl => ⟨hl, id⟩⟩

/-! ### A team's end -/

theorem leaveBarrier (s : State) (b h : Nat) : OnlyEnds s (s.leaveBarrier b h) := by
  refine of_spares ?_
  unfold State.leaveBarrier
  split
  · split
    · have hready : SparesWork s (s.setCtx h { s.ctx h with status := .ready }) := .setCtx s rfl
      refine (hready.trans (.of_eq rfl rfl rfl) : SparesWork s ((s.setCtx h { s.ctx h with status := .ready }).watch h)).trans ?_
      obtain ⟨_, _, e⟩ := State.done_rest ((s.setCtx h { s.ctx h with status := .ready }).watch h) h 1 ‹Bool›
      exact ⟨by rw [e], by rw [e], .done ..⟩
    · exact .refl s
  all_goals exact .refl s

theorem barrierCheck (s : State) (g b : Nat) : OnlyEnds s (s.barrierCheck g b) := by
  unfold State.barrierCheck
  extract_lets w x need t
  split
  · exact (OnlyEnds.setWg s rfl rfl : OnlyEnds s t).trans (foldl (fun s h => .leaveBarrier s b h) _ _)
  · exact .refl s

theorem barriersCheck (s : State) (g : Nat) : OnlyEnds s (s.barriersCheck g) := by
  unfold State.barriersCheck
  split
  · exact .refl s
  · refine foldl (fun s b => ?_) _ s
    split
    · exact .barrierCheck ..
    · exact .refl s

/-- TEAM_END leaves no context. -/
theorem endTeam (s : State) (h : Nat) : OnlyEnds s (s.endTeam h) ∧ ((s.endTeam h).ctx h).kind = .absent := by
  unfold State.endTeam
  extract_lets t rest u
  have hgone : (u.ctx h).kind = .absent := by
    have hfind : Store.find h u.ctxs = none := Store.find_erase_same
    rw [State.ctx, Store.get, hfind]
    rfl
  have hu : OnlyEnds s u := by
    refine ⟨fun k => ?_, fun g => rfl, fun e he _ => ⟨e, he, rfl, rfl⟩, fun k f hf => ⟨f, hf, fun hl => ⟨hl, id⟩⟩⟩
    by_cases hk : k = h
    · rw [hk]
      exact .inr hgone
    · have hfind : Store.find k u.ctxs = Store.find k s.ctxs := Store.find_erase_other hk
      refine .inl (congrArg Ctx.kind ?_)
      simp only [State.ctx, Store.get, hfind]
  have hrest := (of_spares (.showStores u h)).trans (.barriersCheck (u.showStores h) t.wg)
  exact ⟨hu.trans hrest, hrest.absent hgone⟩

/-! ### Foals -/

theorem cancelFoal (s : State) (k : Nat) : OnlyEnds s (s.cancelFoal k) := by
  unfold State.cancelFoal
  split
  · exact .refl s
  · rename_i f hf
    split
    · exact .putFoal hf fun hl => ⟨hl, fun _ => rfl⟩
    · exact .refl s

theorem putCounted {s : State} {k : Nat} {f f' : Foal} (hf : s.foalAt k = some f)
    (hend : f'.live = true → f.live = true ∧ (f.canreq = true → f'.canreq = true)) (e : Nat) (v : Int) :
    OnlyEnds s ((s.putFoal k f').counterAdd e v) :=
  (OnlyEnds.putFoal hf hend).trans (of_spares (.counterAdd ..))

theorem adoptByEntity {s : State} {k : Nat} {f g : Foal} (hf : s.foalAt k = some f) (hl : g.live = f.live)
    (hc : f.canreq = true → g.canreq = true) (es : List Nat) : OnlyEnds s (s.adoptByEntity k g es) := by
  unfold State.adoptByEntity
  extract_lets es'
  split
  · refine putCounted hf ?_ _ _
    exact fun h => ⟨hl.symm.trans h, hc⟩
  · clear_value es'
    split
    · refine putCounted hf ?_ _ _
      exact fun h => ⟨hl.symm.trans h, fun _ => rfl⟩
    · exact putFoal hf fun h => ⟨hl.symm.trans h, fun _ => rfl⟩

theorem detach (s : State) (k : Nat) : OnlyEnds s (s.detach k) := by
  unfold State.detach
  split
  · exact .refl s
  · rename_i f hf
    extract_lets w dead g
    have hc : f.canreq = true → g.canreq = true := fun h => by
      show (f.canreq || dead) = true
      rw [h, Bool.true_or]
    split
    · exact putFoal hf fun h => ⟨h, hc⟩
    · split
      · refine putCounted hf ?_ _ _
        exact fun h => ⟨h, hc⟩
      · exact .adoptByEntity (g := g) hf rfl hc _

theorem returnPages (s : State) (g : Nat) (ps : List Nat) : OnlyEnds s (s.returnPages g ps) := .setWg s rfl rfl

theorem endFoal (s : State) (k : Nat) (addr : DWord) : OnlyEnds s (s.endFoal k .cancelled none addr) := by
  unfold State.endFoal
  split
  · exact .refl s
  · rename_i f hf
    split
    · exact .refl s
    · extract_lets f' s₁ s₂ c s₃ s₄
      have hput : OnlyEnds s (s.putFoal k f') := .putFoal hf fun hl => by cases hl
      have h₁ : OnlyEnds s s₁ := (hput.trans (.returnPages ..)).trans (of_spares (.ringIdle ..))
      have h₂ : OnlyEnds s₁ s₂ := of_spares (.endFrozen ..)
      have h₃ : OnlyEnds s₂ s₃ := of_spares (by
        unfold s₃
        split <;> exact .of_eq rfl rfl rfl)
      have h₄ : OnlyEnds s s₄ := ((h₁.trans h₂).trans h₃).trans (of_spares (.endNotice ..))
      split
      · exact h₄.trans (of_spares (.uncount ..))
      · exact h₄

/-! ### Kills -/

/-- KILL_TEAM ends its team. -/
theorem killTeam (s : State) (h : Nat) : OnlyEnds s (s.killTeam h) ∧ ((s.killTeam h).ctx h).kind = .absent := by
  unfold State.killTeam
  extract_lets t fs u
  have hsettle : OnlyEnds s t := of_spares (.settle s h)
  obtain ⟨hend, hgone⟩ := OnlyEnds.endTeam t h
  have hfoals : OnlyEnds u (fs.foldl (fun s e => if e.2.regdest then s.endFoal e.1 .cancelled none 0#64
      else (s.detach e.1).cancelFoal e.1) u) := by
    refine foldl (fun s e => ?_) _ u
    split
    · exact .endFoal ..
    · exact (OnlyEnds.detach ..).trans (.cancelFoal ..)
  exact ⟨(hsettle.trans hend).trans hfoals, hfoals.absent hgone⟩

theorem killTeams (hs : List Nat) (s : State) : OnlyEnds s (hs.foldl State.killTeam s) ∧
    ∀ h ∈ hs, ((hs.foldl State.killTeam s).ctx h).kind = .absent := by
  induction hs generalizing s with
  | nil => exact ⟨.refl s, fun h hh => nomatch hh⟩
  | cons k r ih =>
    obtain ⟨hk, hgone⟩ := OnlyEnds.killTeam s k
    obtain ⟨hr, hrest⟩ := ih (s.killTeam k)
    refine ⟨hk.trans hr, fun h hh => ?_⟩
    rcases List.mem_cons.1 hh with rfl | hh
    · exact hr.absent hgone
    · exact hrest h hh

/-- KILL_WG ends the live teams of its workgroup. -/
theorem killWg (s : State) (g : Nat) : OnlyEnds s (s.killWg g) ∧ ∀ h ∈ s.liveTeams (s.wg g), ((s.killWg g).ctx h).kind = .absent := by
  unfold State.killWg
  extract_lets w t u x
  have hset : OnlyEnds s (s.setWg g { w with killed := true }) := .setWg s rfl rfl
  obtain ⟨hkill, hgone⟩ := OnlyEnds.killTeams (s.liveTeams w) (s.setWg g { w with killed := true })
  have hcancel : OnlyEnds t u := foldl (fun s (e : Nat × Foal) => .cancelFoal s e.1) _ t
  have hentity : OnlyEnds u (u.setEntity w.entity { x with launch := x.launch.map fun r => { r with killed := true } }) :=
    of_spares (.of_eq rfl rfl rfl)
  exact ⟨((hset.trans hkill).trans hcancel).trans hentity, fun h hh => (hcancel.trans hentity).absent (hgone h hh)⟩

theorem killWgs (es : List (Nat × Workgroup)) (s : State) : OnlyEnds s (es.foldl (fun s e => s.killWg e.1) s) ∧
    ∀ e ∈ es, ∀ h ∈ s.liveTeams (s.wg e.1), ((es.foldl (fun s e => s.killWg e.1) s).ctx h).kind = .absent := by
  induction es generalizing s with
  | nil => exact ⟨.refl s, fun e he => nomatch he⟩
  | cons a r ih =>
    obtain ⟨ha, hgone⟩ := OnlyEnds.killWg s a.1
    obtain ⟨hr, hrest⟩ := ih (s.killWg a.1)
    refine ⟨ha.trans hr, fun e he h hh => ?_⟩
    rcases List.mem_cons.1 he with rfl | he
    · exact hr.absent (hgone h hh)
    · rcases ha.kinds h with hk | hk
      · refine hrest e he h ?_
        rw [State.liveTeams, List.mem_filter, beq_iff_eq] at hh ⊢
        rw [ha.teams, hk]
        exact hh
      · exact hr.absent hk

theorem cancelFoals (es : List (Nat × Foal)) (s : State) : OnlyEnds s (es.foldl (fun s e => s.cancelFoal e.1) s) ∧
    ∀ e ∈ es, ∀ f, s.foalAt e.1 = some f →
      ∃ f', (es.foldl (fun s e => s.cancelFoal e.1) s).foalAt e.1 = some f' ∧ (f'.canreq = true ∨ f'.live = false) := by
  induction es generalizing s with
  | nil => exact ⟨.refl s, fun e he => nomatch he⟩
  | cons a r ih =>
    have ha := OnlyEnds.cancelFoal s a.1
    obtain ⟨hr, hrest⟩ := ih (s.cancelFoal a.1)
    refine ⟨ha.trans hr, fun e he f hf => ?_⟩
    obtain ⟨g, hg, -⟩ := ha.foals _ f hf
    rcases List.mem_cons.1 he with rfl | he
    · have hreached : g.canreq = true ∨ g.live = false := by
        unfold State.cancelFoal at hg
        rw [hf] at hg
        simp only at hg
        split at hg
        · rw [State.foalAt_putFoal] at hg
          cases hg
          exact .inl rfl
        · rename_i hl
          cases hf.symm.trans hg
          exact .inr (Bool.not_eq_true _ ▸ hl)
      obtain ⟨f', hf', hend⟩ := hr.foals _ g hg
      refine ⟨f', hf', ?_⟩
      cases hl : f'.live
      · exact .inr rfl
      · obtain ⟨hgl, hcan⟩ := hend hl
        exact .inl (hcan (hreached.resolve_right (by simp [hgl])))
    · exact hrest e he g hg

end OnlyEnds

end Sys2Proof.Machine
end

section
/-! The end of a partition (O44): each of its contexts is killed as by KILL_CONTEXT, with a record to the fault server (R245, R263,
R368, R371, R389). The trap queue may lie in the management window, and then a record can ask for a start (R409, R414), which
leaves nothing to kill. -/

namespace Sys2Proof.Machine

/-! ### A record's way -/

/-- Beside the harts, the workgroups and the foals, the generations of foal slots, the entities and the cores are as they were. -/
structure SparesTables (s t : State) : Prop where
  work : SparesWork s t
  gens : t.foalGens = s.foalGens
  entities : t.entities = s.entities
  cores : t.cores = s.cores

/-- Nothing runs: no hart, no workgroup, no foal, no entity and no core context. -/
structure Idle (s : State) : Prop where
  kinds : ∀ h, (s.ctx h).kind = .absent
  wgs : s.wgs = []
  foals : s.foals = []
  gens : s.foalGens = []
  entities : s.entities = []
  cores : s.cores = []

/-- What a record's way to the fault server may leave: all that runs as it was, or a start's state. -/
def Reports (s t : State) : Prop := SparesTables s t ∨ Idle t

theorem SparesTables.of_eq {s t : State} (hw : t.wgs = s.wgs) (hf : t.foals = s.foals) (hc : t.ctxs = s.ctxs)
    (hg : t.foalGens = s.foalGens) (he : t.entities = s.entities) (hk : t.cores = s.cores) : SparesTables s t :=
  ⟨.of_eq hw hf hc, hg, he, hk⟩

theorem Idle.spared {s t : State} (hs : Idle s) (h : SparesTables s t) : Idle t :=
  ⟨fun k => (h.work.kinds.kind k).trans (hs.kinds k), h.work.wgs.trans hs.wgs, h.work.foals.trans hs.foals, h.gens.trans hs.gens,
    h.entities.trans hs.entities, h.cores.trans hs.cores⟩

theorem State.beginStart_idle (s : State) (cold : Bool) : Idle (s.beginStart cold) := ⟨fun _ => rfl, rfl, rfl, rfl, rfl, rfl⟩

namespace Reports

theorem of_eq {s t : State} (hw : t.wgs = s.wgs) (hf : t.foals = s.foals) (hc : t.ctxs = s.ctxs)
    (hg : t.foalGens = s.foalGens) (he : t.entities = s.entities) (hk : t.cores = s.cores) : Reports s t :=
  .inl (.of_eq hw hf hc hg he hk)

theorem refl (s : State) : Reports s s := .of_eq rfl rfl rfl rfl rfl rfl

theorem trans {s t u : State} (hst : Reports s t) (htu : Reports t u) : Reports s u := by
  rcases htu with htu | htu
  · rcases hst with hst | hst
    · exact .inl ⟨hst.work.trans htu.work, htu.gens.trans hst.gens, htu.entities.trans hst.entities, htu.cores.trans hst.cores⟩
    · exact .inr (hst.spared htu)
  · exact .inr htu

theorem idle {s t : State} (h : Reports s t) (hs : Idle s) : Idle t := h.elim hs.spared id

theorem foldl {α : Type} {f : State → α → State} (hf : ∀ s a, Reports s (f s a)) (l : List α) (s : State) :
    Reports s (l.foldl f s) := by
  induction l generalizing s with
  | nil => exact .refl s
  | cons a r ih => exact (hf s a).trans (ih _)

/-! ### The management window -/

theorem msix (s : State) (fn v : Nat) : Reports s (s.msix fn v) := by
  unfold State.msix
  extract_lets x
  split <;> exact .of_eq rfl rfl rfl rfl rfl rfl

theorem msixWrite (s : State) (fn o : Nat) (v : DWord) : Reports s (s.msixWrite fn o v) := by
  unfold State.msixWrite
  split
  · extract_lets k x t
    split
    · exact .of_eq rfl rfl rfl rfl rfl rfl
    · have ht : Reports s t := .of_eq rfl rfl rfl rfl rfl rfl
      refine ht.trans ?_
      split
      · exact .refl t
      · unfold State.unmask
        extract_lets y u
        split <;> exact .of_eq rfl rfl rfl rfl rfl rfl
  · split
    · refine foldl (fun s i => ?_) _ s
      exact .of_eq rfl rfl rfl rfl rfl rfl
    · exact .refl s

theorem windowWrite (s : State) (w o : Nat) (v : DWord) : Reports s (s.windowWrite w o v) := by
  unfold State.windowWrite
  extract_lets x
  split
  · exact .of_eq rfl rfl rfl rfl rfl rfl
  · split
    · exact .of_eq rfl rfl rfl rfl rfl rfl
    · split
      · split
        · unfold State.attestGo
          dsimp only
          split <;> exact .of_eq rfl rfl rfl rfl rfl rfl
        · exact .refl s
      · exact .refl s

theorem startRequest (s : State) (v : DWord) : Reports s (s.startRequest v) := by
  unfold State.startRequest
  split
  · exact .refl s
  · split
    · exact .inr (s.beginStart_idle _)
    · split
      · exact .inr (s.beginStart_idle _)
      · exact .refl s

theorem mgmtWrite (s : State) (o : Nat) (v : DWord) : Reports s (s.mgmtWrite o v) := by
  unfold State.mgmtWrite
  split
  · extract_lets p
    split
    · unfold State.writePortcfg
      split <;> exact .of_eq rfl rfl rfl rfl rfl rfl
    · exact .of_eq rfl rfl rfl rfl rfl rfl
  · split
    · exact .startRequest ..
    · split
      · exact .of_eq rfl rfl rfl rfl rfl rfl
      · split
        · exact .windowWrite ..
        · split
          · refine foldl (fun s i => ?_) _ s
            exact .of_eq rfl rfl rfl rfl rfl rfl
          · split
            · exact .msixWrite ..
            · exact .refl s

theorem physWrite (s : State) (owner pa : Nat) (bs : List Byte) : Reports s (s.physWrite owner pa bs) := by
  unfold State.physWrite
  split
  · generalize bs.zipIdx.map _ = ps
    obtain ⟨_, _, _, _, _, _, _, _, _, _, e⟩ := s.write_wrote owner none ps
    exact .inl ⟨⟨by rw [e], by rw [e], .write s owner none ps⟩, by rw [e], by rw [e], by rw [e]⟩
  · unfold State.mgmtWriteBytes
    extract_lets regs
    exact foldl (fun s r => .mgmtWrite ..) _ s
  · exact .refl s
  · exact .refl s

/-! ### Sending -/

theorem queueRecord {s t : State} {hd : DWord} {bs : List Byte} (h : s.queueRecord hd bs = some t) : Reports s t := by
  unfold State.queueRecord at h
  extract_lets n u at h
  split at h
  · cases h
  · cases h
    have hu : Reports s u := foldl (fun s i => .physWrite ..) _ s
    exact hu.trans (.of_eq rfl rfl rfl rfl rfl rfl)

theorem meterAdd (s : State) (p sel n : Nat) : Reports s (s.meterAdd p sel n) := by
  obtain ⟨_, e⟩ := s.meterAdd_rest p sel n
  rw [e]
  exact .of_eq rfl rfl rfl rfl rfl rfl

theorem enqueue (s : State) (p : Nat) (f : Frame) : Reports s (s.enqueue p f) := .of_eq rfl rfl rfl rfl rfl rfl

theorem transmit (s : State) (p : Nat) (f : Frame) : Reports s (s.transmit p f) := by
  unfold State.transmit
  refine Reports.trans ?_ (.enqueue ..)
  split
  · exact .meterAdd ..
  · exact .refl s

theorem sendRecord {s t : State} {m : TrapMsg} (h : s.sendRecord m = some t) : Reports s t := by
  unfold State.sendRecord at h
  extract_lets dst at h
  split at h
  · exact .queueRecord h
  · split at h
    · cases h
    · split at h
      · cases h
      · split at h
        · cases h
          exact .transmit ..
        · cases h

theorem flush (s : State) : Reports s s.flush := by
  refine foldl (fun s m => ?_) _ s
  split
  · exact .refl s
  · split
    · exact .refl s
    · rename_i t ht
      exact (sendRecord ht).trans (.of_eq rfl rfl rfl rfl rfl rfl)

theorem postRecord (s : State) (m : TrapMsg) : Reports s (s.postRecord m) := by
  unfold State.postRecord
  extract_lets t
  have ht : Reports s t := by
    unfold t
    split <;> exact .of_eq rfl rfl rfl rfl rfl rfl
  have hlist : Reports t { t with records := t.records ++ [m] } := .of_eq rfl rfl rfl rfl rfl rfl
  exact (ht.trans hlist).trans (.flush _)

theorem notifyServer (s : State) (w : Place) (code : TrapCode) (addr : DWord) (bs : List Byte) :
    Reports s (s.notifyServer w code addr bs).1 := by
  have hhandle : Reports s s.newHandle.1 := .of_eq rfl rfl rfl rfl rfl rfl
  exact hhandle.trans (.postRecord ..)

end Reports

/-! ### KILL_CONTEXT -/

/-- The context of a core is killed: its teams are absent, each of its foals that had not ended has ended or is to be cancelled. -/
structure Killed (core : Nat) (s u : State) : Prop where
  teams : ∀ e ∈ s.wgsOn core, ∀ h ∈ s.liveTeams (s.wg e.1), (u.ctx h).kind = .absent
  foals : ∀ k f, s.foalAt k = some f → k / 256 = core → f.live = true →
    ∃ f', u.foalAt k = some f' ∧ (f'.canreq = true ∨ f'.live = false)

theorem Killed.mono {core : Nat} {s u v : State} (h : Killed core s u) (huv : OnlyEnds u v) : Killed core s v := by
  refine ⟨fun e he t ht => huv.absent (h.teams e he t ht), fun k f hf hk hl => ?_⟩
  obtain ⟨g, hg, hreached⟩ := h.foals k f hf hk hl
  obtain ⟨f', hf', hend⟩ := huv.foals k g hg
  refine ⟨f', hf', ?_⟩
  cases hl' : f'.live
  · exact .inr rfl
  · obtain ⟨hgl, hcan⟩ := hend hl'
    exact .inl (hcan (hreached.resolve_right (by simp [hgl])))

/-- What has ended before the kill does not come back with it. -/
theorem Killed.of_later {core : Nat} {s u v : State} (hsu : OnlyEnds s u) (huv : OnlyEnds u v) (h : Killed core u v) :
    Killed core s v := by
  refine ⟨fun e he t ht => ?_, fun k f hf hk hl => ?_⟩
  · obtain ⟨hmem, hcore⟩ := List.mem_filter.1 he
    obtain ⟨hteam, hkind⟩ := List.mem_filter.1 ht
    obtain ⟨e', he', hkey, hcore'⟩ := hsu.cores e hmem (List.ne_nil_of_mem hteam)
    rcases hsu.kinds t with hk | hk
    · refine h.teams e' (List.mem_filter.2 ⟨he', by rw [hcore']; exact hcore⟩) t (List.mem_filter.2 ⟨?_, by rw [hk]; exact hkind⟩)
      rw [hkey, hsu.teams]
      exact hteam
    · exact huv.absent hk
  · obtain ⟨g, hg, -⟩ := hsu.foals k f hf
    cases hgl : g.live
    · obtain ⟨f', hf', hend⟩ := huv.foals k g hg
      refine ⟨f', hf', .inr ?_⟩
      cases hl' : f'.live
      · rfl
      · exact absurd (hend hl').1 (by simp [hgl])
    · exact h.foals k g hg hk hgl

/-- R263, R372: KILL_CONTEXT kills what stands on its core, or its record has asked for a start. -/
theorem State.killContext_spec (s : State) (core : Nat) :
    (OnlyEnds s (s.killContext core) ∧ Killed core s (s.killContext core)) ∨ Idle (s.killContext core) := by
  unfold State.killContext
  extract_lets c t u v
  obtain ⟨hwgs, hgone⟩ := OnlyEnds.killWgs (s.wgsOn core) s
  obtain ⟨hfoals, hreached⟩ := OnlyEnds.cancelFoals (t.foalsOn core) t
  have hkilled : Killed core s u := by
    refine ⟨fun e he h hh => hfoals.absent (hgone e he h hh), fun k f hf hk hl => ?_⟩
    obtain ⟨g, hg, -⟩ := hwgs.foals k f hf
    exact hreached (k, g) (List.mem_filter.2 ⟨Store.mem_of_find hg, beq_iff_eq.2 hk⟩) g hg
  have hreport : Reports u (v.msix c.part 1) := (Reports.notifyServer ..).trans (.msix ..)
  rcases hreport with hspares | hidle
  · have hends := OnlyEnds.of_spares hspares.work
    exact .inl ⟨(hwgs.trans hfoals).trans hends, hkilled.mono hends⟩
  · exact .inr hidle

/-- Nothing is killed where nothing runs. -/
theorem Idle.killContext {s : State} (hs : Idle s) (core : Nat) : Idle (s.killContext core) := by
  have hwgs : s.wgsOn core = [] := by rw [State.wgsOn, hs.wgs]; rfl
  have hfoals : s.foalsOn core = [] := by rw [State.foalsOn, hs.foals]; rfl
  unfold State.killContext
  simp only [hwgs, List.foldl_nil, hfoals]
  exact ((Reports.notifyServer ..).trans (.msix ..) : Reports s _).idle hs

/-- The contexts of several cores killed. -/
theorem State.killContexts_spec (cs : List Nat) (s : State) :
    (OnlyEnds s (cs.foldl State.killContext s) ∧ ∀ c ∈ cs, Killed c s (cs.foldl State.killContext s)) ∨
      Idle (cs.foldl State.killContext s) := by
  induction cs generalizing s with
  | nil => exact .inl ⟨.refl s, fun c hc => nomatch hc⟩
  | cons a r ih =>
    have hidle : ∀ {v : State}, Idle v → Idle (r.foldl State.killContext v) := fun {v} hv => by
      clear ih
      induction r generalizing v with
      | nil => exact hv
      | cons b r ih => exact ih (hv.killContext b)
    rcases s.killContext_spec a with ⟨ha, hkilled⟩ | ha
    · rcases ih (s.killContext a) with ⟨hr, hrest⟩ | hr
      · refine .inl ⟨ha.trans hr, fun c hc => ?_⟩
        rcases List.mem_cons.1 hc with rfl | hc
        · exact hkilled.mono hr
        · exact (hrest c hc).of_later ha hr
      · exact .inr hr
    · exact .inr (hidle ha)

end Sys2Proof.Machine
end

section
/-! PART.DESTROY, and the PART forms together (O44): R245, R246, R383-R389, R396. -/

namespace Sys2Proof.Machine
open Sys2Proof.Claims

/-! ### The sweep of an idle state -/

theorem Idle.sweepGo {s : State} (hs : Idle s) (n : Nat) : State.sweepGo n s = s := by
  have hnone : s.sweepOnce = none := by
    simp only [State.sweepOnce, hs.wgs, hs.foals, hs.entities, hs.cores, List.findSome?_nil, Option.orElse_none]
  cases n with
  | zero => rfl
  | succ n =>
    unfold State.sweepGo
    simp only [hnone]

/-- A foal that has ended, and that nothing needs any more. -/
def Foal.gone (f : Foal) : Foal := { f with status := .cancelled, orphan := none }

/-- The slots of a list of foals, each one's foal gone. -/
def goneFoals (fs : Store Foal) : Store Foal := fs.foldr (fun e m => Store.put e.1 e.2.gone m) []

theorem goneFoals_sorted (fs : Store Foal) : (goneFoals fs).Sorted := by
  induction fs with
  | nil => exact List.Pairwise.nil
  | cons e r ih => exact Store.sorted_put ih

theorem goneFoals_reclaimable (fs : Store Foal) : ∀ e ∈ goneFoals fs, e.2.reclaimable = true := by
  induction fs with
  | nil => exact fun e he => nomatch he
  | cons a r ih =>
    intro e he
    rcases Store.of_mem_put he with rfl | he
    · rfl
    · exact ih e he

theorem find_goneFoals {fs : Store Foal} {k : Nat} {f : Foal} (h : Store.find k fs = some f) :
    Store.find k (goneFoals fs) = some f.gone := by
  induction fs with
  | nil => cases h
  | cons a r ih =>
    obtain ⟨j, g⟩ := a
    show Store.find k (Store.put j g.gone (goneFoals r)) = _
    rw [Store.find] at h
    split at h
    · rename_i hj
      cases h
      rw [eq_of_beq hj, Store.find_put_same]
    · rename_i hj
      rw [Store.find_put_other fun e => hj (beq_iff_eq.2 e.symm), ih h]

/-- A state with foals that are gone, each slot at its last generation: freed, nothing of it is left (R252). -/
def State.withGone (s : State) (fs : Store Foal) : State :=
  { s with foals := fs, foalGens := fs.map fun e => (e.1, 4095#12) }

section
variable {s : State} (hs : Idle s)
include hs

theorem Idle.withGone_nil : s.withGone [] = s := by
  have hf := hs.foals
  have hg := hs.gens
  obtain ⟨⟩ := s
  simp only at hf hg
  subst hf hg
  rfl

/-- The first of the slots is freed. -/
theorem Idle.sweepOnce_withGone {e : Nat × Foal} {r : Store Foal} (hsorted : Store.Sorted (e :: r))
    (hgone : ∀ x ∈ e :: r, x.2.reclaimable = true) : (s.withGone (e :: r)).sweepOnce = some (s.withGone r) := by
  obtain ⟨hfirst, -⟩ := List.pairwise_cons.1 hsorted
  have hfoal : (e :: r).findSome? (fun x => (s.withGone (e :: r)).sweepFoal x.1 x.2) = none := by
    rw [List.findSome?_eq_none_iff]
    intro x hx
    have hlive : x.2.live = false := by
      have := hgone x hx
      rw [Foal.reclaimable, Bool.and_eq_true, Bool.not_eq_true'] at this
      exact this.1
    unfold State.sweepFoal
    rw [if_pos (by rw [hlive]; rfl)]
  have herase : ∀ {β : Type} (g : Nat × Foal → Nat × β), (∀ x, (g x).1 = x.1) →
      Store.erase e.1 ((e :: r).map g) = r.map g := fun g hg => by
    rw [Store.erase_eq, List.map_cons, List.filter_cons_of_neg (by simp [hg]), List.filter_eq_self]
    intro y hy
    obtain ⟨x, hx, rfl⟩ := List.mem_map.1 hy
    rw [hg, bne_iff_ne]
    exact (Nat.ne_of_lt (hfirst x hx)).symm
  have hslot : (s.withGone (e :: r)).sweepSlot e.1 e.2 = some (s.withGone r) := by
    have hgen : (s.withGone (e :: r)).slotGen e.1 + 1#12 = 0#12 := by
      have hfind : (s.withGone (e :: r)).slotGen e.1 = 4095#12 := by
        show (Store.find e.1 ((e.1, 4095#12) :: _)).getD _ = _
        rw [Store.find, if_pos (beq_self_eq_true _)]
        rfl
      rw [hfind]
      rfl
    unfold State.sweepSlot
    rw [if_pos (by
      rw [hgone e List.mem_cons_self, Bool.true_and, beq_iff_eq]
      exact hs.kinds _), State.freeSlot, hgen, Store.set, if_pos rfl]
    have hfoals := herase id fun _ => rfl
    rw [List.map_id, List.map_id] at hfoals
    have hgens := herase (fun x => (x.1, 4095#12)) fun _ => rfl
    unfold State.withGone
    simp only [hfoals, hgens]
  have hwgs : (s.withGone (e :: r)).wgs = [] := hs.wgs
  have hentities : (s.withGone (e :: r)).entities = [] := hs.entities
  have hfoals : (s.withGone (e :: r)).foals = e :: r := rfl
  unfold State.sweepOnce
  rw [hwgs, hentities, hfoals, hfoal, List.findSome?_cons, hslot]
  rfl

/-- The sweep frees them all. -/
theorem Idle.sweepGo_withGone {fs : Store Foal} (hsorted : fs.Sorted) (hgone : ∀ e ∈ fs, e.2.reclaimable = true) (n : Nat) :
    State.sweepGo (n + fs.length) (s.withGone fs) = s := by
  induction fs with
  | nil => rw [hs.withGone_nil, hs.sweepGo]
  | cons e r ih =>
    rw [List.length_cons, ← Nat.add_assoc, State.sweepGo, hs.sweepOnce_withGone hsorted hgone]
    exact ih (List.pairwise_cons.1 hsorted).2 fun x hx => hgone x (List.mem_cons_of_mem _ hx)

theorem Idle.sweep_withGone {fs : Store Foal} (hsorted : fs.Sorted) (hgone : ∀ e ∈ fs, e.2.reclaimable = true) :
    (s.withGone fs).sweep = s.sweep := by
  have hfuel : State.sweep (s.withGone fs) = State.sweepGo (7 * fs.length + 8 + fs.length) (s.withGone fs) := by
    unfold State.sweep
    have hlen : 8 * ((s.withGone fs).foals.length + (s.withGone fs).wgs.length + (s.withGone fs).entities.length +
        (s.withGone fs).cores.length) + 8 = 7 * fs.length + 8 + fs.length := by
      show 8 * (fs.length + s.wgs.length + s.entities.length + s.cores.length) + 8 = _
      rw [hs.wgs, hs.entities, hs.cores]
      simp only [List.length_nil]
      omega
    rw [hlen]
  rw [hfuel, hs.sweepGo_withGone hsorted hgone, State.sweep, hs.sweepGo]

end

/-! ### PART.DESTROY -/

/-- What PART.DESTROY leaves before what follows from it: the contexts of the partition killed, its pens, its switch and its arms
gone. -/
def State.destroyed (s : State) (p : Nat) : State :=
  let t := (s.coresOf p).foldl State.killContext s
  let u := t.setPart p { t.part p with pens := [], switch := none, destroying := true }
  { u with arms := u.arms.filter fun e => e.2.part != p,
           cores := u.cores.map fun (e : Nat × Core) => if e.2.part == p then (e.1, { e.2 with step := .running }) else e }

theorem State.destroyed_part (s : State) (p : Nat) : ∃ t, t = (s.coresOf p).foldl State.killContext s ∧
    (s.destroyed p).part p = { t.part p with pens := [], switch := none, destroying := true } ∧
    ∀ e ∈ (s.destroyed p).arms, e.2.part ≠ p :=
  ⟨_, rfl, State.part_setPart .., fun _ he => bne_iff_ne.1 (List.mem_filter.1 he).2⟩

/-- R389: the contexts of a partition that is destroyed are killed; where one's record has asked for a start, foals that are gone
stand for those that it has unlisted. -/
theorem State.destroyed_kills (s : State) (p : Nat) : ∃ u : State, u.sweep = (s.destroyed p).sweep ∧
    u.part p = (s.destroyed p).part p ∧ u.arms = (s.destroyed p).arms ∧ ∀ c ∈ s.coresOf p, Killed c s u := by
  rcases State.killContexts_spec (s.coresOf p) s with ⟨-, hkilled⟩ | hidle
  · refine ⟨s.destroyed p, rfl, rfl, rfl, fun c hc => (hkilled c hc).mono (.of_spares (.of_eq rfl rfl rfl))⟩
  · have hidle' : Idle (s.destroyed p) :=
      ⟨hidle.kinds, hidle.wgs, hidle.foals, hidle.gens, hidle.entities, by
        show List.map _ ((s.coresOf p).foldl State.killContext s).cores = []
        rw [hidle.cores]
        rfl⟩
    refine ⟨(s.destroyed p).withGone (goneFoals s.foals),
      hidle'.sweep_withGone (goneFoals_sorted _) (goneFoals_reclaimable _), rfl, rfl, fun c _ => ⟨fun e _ h _ => hidle.kinds h,
        fun k f hf _ _ => ⟨f.gone, find_goneFoals hf, .inr rfl⟩⟩⟩

section
variable {s : State} (h : ThreadRuns s 2) (sw : Bool) (d : SReg) {a : Src} (ha : Src.scalOk a = true)
include h ha

theorem execPartDestroy_traps (hp : (Src.scalar s s.cur a).toNat = 0 ∨ 63 < (Src.scalar s s.cur a).toNat) :
    TakesException s (execPartDestroy sw d a s) 0x03 0#64 := by
  rw [execPartDestroy, begin_thread (n := { needS a with level := 2 }) h rfl ha]
  simp only [partNo_none hp]
  exact .of_raise h.1 .illegalOperand _

/-- R245: DESTROY of a partition that there is, and of one that there is not. -/
theorem execPartDestroy_eq (h1 : 1 ≤ (Src.scalar s s.cur a).toNat) (h63 : (Src.scalar s s.cur a).toNat ≤ 63) :
    execPartDestroy sw d a s = .next (
      let p := (Src.scalar s s.cur a).toNat
      if (s.part p).live = true ∨ (s.part p).creating = true then
        (((s.coresOf p).foldl State.renewImage (s.destroyed p).sweep).setSreg s.cur d 0#64).done s.cur (Src.len a) sw
      else (s.setSreg s.cur d (refusal 1)).done s.cur (Src.len a) sw) := by
  rw [execPartDestroy, begin_thread (n := { needS a with level := 2 }) h rfl ha]
  simp only [partNo_some h1 h63, Bool.and_eq_true, Bool.not_eq_true']
  by_cases hx : (s.part (Src.scalar s s.cur a).toNat).live = true ∨ (s.part (Src.scalar s s.cur a).toNat).creating = true
  · rw [if_neg (by simpa [imp_iff_not_or] using hx), if_pos hx]
    rfl
  · rw [if_pos (by simpa using hx), if_neg hx]

end

end Sys2Proof.Machine
end

section
/-! The PART forms together (O44): each by its own rule (R245, R246). -/

namespace Sys2Proof.Claims
open Sys2Proof.Machine

/-- An answer leaves the partitions, their fill masks and the translations that are cached. -/
theorem tables_answered {v : State} {h : Nat} (hk : (v.ctx h).kind = .thread) (d : SReg) (x : DWord) (n : Nat) (sw : Bool) :
    let u := (v.setSreg h d x).done h n sw
    (∀ p, u.part p = v.part p) ∧ (∀ p k, u.fillMask p k = v.fillMask p k) ∧ ∀ y, y ∈ u.tlb ↔ y ∈ v.tlb := by
  obtain ⟨cs, e⟩ := State.done_rest_of_thread (s := v.setSreg h d x) (by rw [State.ctx_setSreg]; exact hk) n sw
  intro u
  have hu : u = { v with ctxs := cs } := e
  exact ⟨fun p => by rw [hu]; rfl, fun p k => by rw [hu]; rfl, fun y => by rw [hu]⟩

/-- The answer of a CREATE that installs its partition. -/
theorem installed_answers {s : State} (hk : (s.ctx s.cur).kind = .thread) (p : Nat) (bs : List Byte) (d : SReg) (n : Nat) (sw : Bool) :
    let u := ((s.install p bs).setSreg s.cur d 0#64).done s.cur n sw
    u.sreg s.cur d = 0#64 ∧ (SameSregsBut d s u ∧ SameScc s u ∧ Passed s u n sw ∧ SameMemory s u ∧ SameOthers s u) ∧
      u.part p = { blockPart bs with det := (s.part p).det, fsrv := (s.part p).fsrv, creating := true, meters := (s.part p).meters,
                                     usage := ⟨0, s.time, [], 0, 0, 0⟩ } ∧
      (∀ k, k < 576 → u.fillMask p k = BitVec.ofNat 16 (recNat bs (0x300 + 2 * k) 2)) ∧
      ∀ e, e ∈ u.tlb ↔ e ∈ s.tlb ∧ e.part ≠ p := by
  obtain ⟨⟨_, _, _, e⟩, hpart, hmask, htlb⟩ := s.install_spec p bs
  obtain ⟨hd, hkept, -⟩ := answered_beside (v := s.install p bs) hk (by rw [e]) (by rw [e]) (by rw [e])
    (.of_eq (by rw [e]) (by rw [e]) (by rw [e])) d 0#64 n sw
  obtain ⟨hparts, hmasks, htlbs⟩ := tables_answered (v := s.install p bs) (h := s.cur) (by rw [e]; exact hk) d 0#64 n sw
  exact ⟨hd, hkept, (hparts p).trans hpart, fun k hk => (hmasks p k).trans (hmask k hk), fun y => (htlbs y).trans (htlb y)⟩

section
variable {s : State} (hr : ThreadRuns s 2) (sw : Bool) (d b : SReg) {a : Src} (ha : Src.scalOk a = true)
include hr ha

/-- R384, R385, R387: CREATE of a number that is free, by its block. -/
theorem partCreate_answers (h1 : 1 ≤ (Src.scalar s s.cur a).toNat) (h63 : (Src.scalar s s.cur a).toNat ≤ 63) :
    let A := (Src.scalar s s.cur a).toNat
    let x := s.part A
    let B := s.sreg s.cur b
    let bs := s.physRead B.toNat 2048
    let o := exec (.partCreate sw d b a) s
    x.live = false → x.creating = false → B.toNat % 4096 = 0 → B.toNat + 2048 ≤ hbmTop →
      (blockOk bs = false ∨ s.blockFits bs = false → WritesSreg s o d (refusal 3) (Src.len a) sw) ∧
      (blockOk bs = true → s.blockFits bs = true → (∃ e ∈ s.owners, (blockPart bs).conflicts e.2 = true) →
        WritesSreg s o d (refusal 2) (Src.len a) sw) ∧
      (blockOk bs = true → s.blockFits bs = true → (∀ e ∈ s.owners, (blockPart bs).conflicts e.2 = false) →
        ∃ u, o = .next u ∧ u.sreg s.cur d = 0#64 ∧
          (SameSregsBut d s u ∧ SameScc s u ∧ Passed s u (Src.len a) sw ∧ SameMemory s u ∧ SameOthers s u) ∧
          u.part A = { blockPart bs with det := x.det, fsrv := x.fsrv, creating := true, meters := x.meters,
                                         usage := ⟨0, s.time, [], 0, 0, 0⟩ } ∧
          (∀ k, k < 576 → u.fillMask A k = BitVec.ofNat 16 (recNat bs (0x300 + 2 * k) 2)) ∧
          ∀ e, e ∈ u.tlb ↔ e ∈ s.tlb ∧ e.part ≠ A) := by
  intro A x B bs o hlive hcreating halign hin
  have hx : o = _ := execPartCreate_eq hr sw d b ha h1 h63 hlive hcreating halign hin rfl
  rw [hx]
  refine ⟨fun hbad => ?_, fun hok hfits ⟨e, he, hc⟩ => ?_, fun hok hfits hnone => ?_⟩
  · rw [if_pos hbad]
    exact writesSreg_done s d _ _ sw
  · rw [if_neg (by rw [hok, hfits]; simp), if_pos (List.any_eq_true.2 ⟨e, he, hc⟩)]
    exact writesSreg_done s d _ _ sw
  · rw [if_neg (by rw [hok, hfits]; simp), if_neg fun hany => by
      obtain ⟨e, he, hc⟩ := List.any_eq_true.1 hany
      cases (hnone e he).symm.trans hc]
    exact ⟨_, rfl, installed_answers hr.1 A bs d (Src.len a) sw⟩

/-- R396: WAYS for a live partition. -/
theorem partWays_answers (h1 : 1 ≤ (Src.scalar s s.cur a).toNat) (h63 : (Src.scalar s s.cur a).toNat ≤ 63) (hs : SoundMemory s)
    (hk : (s.sreg s.cur b).toNat % 2 ^ 10 < 576 ∨ (s.sreg s.cur b).toNat % 2 ^ 10 = 0x3FF)
    (hhigh : (s.sreg s.cur b).toNat < 2 ^ 32) (hzero : (s.sreg s.cur b).extractLsb' 10 6 = 0#6)
    (hlive : (s.part (Src.scalar s s.cur a).toNat).live = true) :
    let A := (Src.scalar s s.cur a).toNat
    let B := s.sreg s.cur b
    let all := decide (B.toNat % 2 ^ 10 = 0x3FF)
    let k := B.toNat % 2 ^ 10
    ∃ u, exec (.partWays sw d b a) s = .next u ∧
      (SameSregsBut d s u ∧ SameScc s u ∧ Passed s u (Src.len a) sw ∧ SameMemory s u ∧ SameOthers s u) ∧
      u.sreg s.cur d = BitVec.ofNat 64 (s.fillMask A (if all then 0 else k)).toNat ∧
      ∀ j, j < 576 → u.fillMask A j = if all ∨ j = k then B.extractLsb' 16 16 else s.fillMask A j := by
  intro A B all k
  have hx : exec (.partWays sw d b a) s = .next (State.done (State.setSreg ((if k = 0x3FF then List.range 576 else [k]).foldl
      (fun s k => s.changeWays A k (B.extractLsb' 16 16)) s) s.cur d ((s.fillMask A (if k = 0x3FF then 0 else k)).setWidth 64))
      s.cur (Src.len a) sw) :=
    (execPartWays_eq hr sw d b ha h1 h63 hk hhigh hzero).trans (congrArg Host.Outcome.next (if_pos hlive))
  have hways := State.changeWays_foldl A (B.extractLsb' 16 16) (if k = 0x3FF then List.range 576 else [k])
    ((soundMemory_iff s).1 hs)
  rw [hx]
  generalize (if k = 0x3FF then List.range 576 else [k]).foldl (fun s k => s.changeWays A k (B.extractLsb' 16 16)) s = v at hways ⊢
  obtain ⟨hkeeps, ⟨_, _, _, _, _, _, e⟩, hmask⟩ := hways
  obtain ⟨hd, hkept, cs, e'⟩ := answered_beside (s := s) (v := v) hr.1 (by rw [e]) (by rw [e]) (by rw [e])
    ⟨hkeeps.same, State.spByte_of_eq (by rw [e])⟩ d ((s.fillMask A (if k = 0x3FF then 0 else k)).setWidth 64) (Src.len a) sw
  refine ⟨_, rfl, hkept, hd.trans ?_, fun j hj => ?_⟩
  · simp only [all, decide_eq_true_eq, BitVec.ofNat_toNat]
    rfl
  · rw [e']
    refine (hmask j).trans ?_
    by_cases hall : k = 0x3FF
    · have hall' : all = true := decide_eq_true hall
      rw [if_pos (by rw [if_pos hall]; exact List.mem_range.2 hj), if_pos (.inl hall')]
    · have hall' : all = false := decide_eq_false hall
      rw [if_neg hall]
      simp only [List.mem_singleton, hall', Bool.false_eq_true, false_or]

/-- R245, R389: DESTROY of a partition that there is. -/
theorem partDestroy_answers (h1 : 1 ≤ (Src.scalar s s.cur a).toNat) (h63 : (Src.scalar s s.cur a).toNat ≤ 63)
    (hx : (s.part (Src.scalar s s.cur a).toNat).live = true ∨ (s.part (Src.scalar s s.cur a).toNat).creating = true) :
    let A := (Src.scalar s s.cur a).toNat
    ∃ u, exec (.partDestroy sw d a) s =
        .next (State.done (State.setSreg ((s.coresOf A).foldl State.renewImage (State.sweep u)) s.cur d 0#64) s.cur (Src.len a) sw) ∧
      u.part A = (s.destroyed A).part A ∧ (∀ e ∈ u.arms, e.2.part ≠ A) ∧ ∀ c ∈ s.coresOf A, Killed c s u := by
  intro A
  obtain ⟨u, hsweep, hpart, harms, hkilled⟩ := s.destroyed_kills A
  obtain ⟨_, -, -, hgone⟩ := s.destroyed_part A
  have he : exec (.partDestroy sw d a) s = _ := (execPartDestroy_eq hr sw d ha h1 h63).trans (by rw [if_pos hx])
  exact ⟨u, by rw [hsweep]; exact he, hpart, harms ▸ hgone, hkilled⟩

end

/-- R245, R246: CREATE, DESTROY, WAYS and BITMAP, each by the partition that A names. -/
theorem partitionsAreMadeAndChanged : PartitionsAreMadeAndChanged := by
  unfold PartitionsAreMadeAndChanged
  intro s sw d b a hr ha h len A B code answers kept
  refine ⟨fun i hi hA => ?_, fun h1 h63 => ?_, fun p kind hA h1 h63 hk halign hin => ?_, execPartBitmap_traps hr sw d b ha⟩
  · simp only [List.mem_cons, List.not_mem_nil, or_false] at hi
    rcases hi with rfl | rfl | rfl
    · exact execPartCreate_traps hr sw d b ha hA
    · exact execPartDestroy_traps hr sw d ha hA
    · exact execPartWays_traps hr sw d b ha hA
  · intro x
    refine ⟨fun hx => ?_, partCreate_answers hr sw d b ha h1 h63, fun hlive hcreating => ?_, fun hx hcs => ?_, fun hx => ?_,
      fun hslice hhigh hzero hlive => ?_, fun hs hslice hhigh hzero hlive =>
        partWays_answers hr sw d b ha h1 h63 hs hslice hhigh hzero hlive⟩
    · have he : exec (.partCreate sw d b a) s = _ := execPartCreate_taken hr sw d b ha h1 h63 hx
      show WritesSreg s _ d _ _ _
      rw [he]
      exact writesSreg_done s d _ _ sw
    · have he : exec (.partDestroy sw d a) s = _ := (execPartDestroy_eq hr sw d ha h1 h63).trans
        (by rw [if_neg (by rw [show (s.part _).live = false from hlive, show (s.part _).creating = false from hcreating]; simp)])
      show WritesSreg s _ d _ _ _
      rw [he]
      exact writesSreg_done s d _ _ sw
    · have he : exec (.partDestroy sw d a) s = _ := (execPartDestroy_eq hr sw d ha h1 h63).trans (by rw [if_pos hx])
      obtain ⟨t, ht, hpart, harms⟩ := s.destroyed_part A
      rw [hcs] at ht
      refine ⟨s.destroyed A, he.trans ?_, ?_, harms⟩
      · show Host.Outcome.next (State.done (State.setSreg ((s.coresOf A).foldl _ _) _ _ _) _ _ _) = _
        rw [hcs]
        rfl
      · rw [hpart, ht]
        rfl
    · obtain ⟨u, he, hpart, harms, hkilled⟩ := partDestroy_answers hr sw d ha h1 h63 hx
      obtain ⟨t, -, hset, -⟩ := s.destroyed_part A
      rw [hset] at hpart
      exact ⟨u, he, congrArg Partition.pens hpart, congrArg Partition.switch hpart, congrArg Partition.destroying hpart, harms,
        fun c hc => ⟨(hkilled c hc).teams, (hkilled c hc).foals⟩⟩
    · have he : exec (.partWays sw d b a) s = _ := execPartWays_eq hr sw d b ha h1 h63 hslice hhigh hzero
      show WritesSreg s _ d _ _ _
      rw [he]
      simp only [show (s.part (Src.scalar s s.cur a).toNat).live = false from hlive, Bool.false_eq_true, if_false]
      exact writesSreg_done s d _ _ sw
  · intro m o x w owns runs used taken busy
    obtain ⟨hrefused, hsets⟩ := execPartBitmap_spec hr sw d b ha hA h1 h63 hk halign hin (State.leNat_physRead hin)
    obtain ⟨t, y, ht, hy, hrefusal⟩ := s.bitmapRefusal_eq p kind m
    rw [kindWidth_eq] at ht hy hrefusal
    have hanswers : ∀ n, s.bitmapRefusal p kind m = some n → answers o (code n) := fun n hn => by
      have he : o = _ := hrefused n hn
      show WritesSreg s o d _ _ _
      rw [he]
      exact writesSreg_done s d _ _ sw
    refine ⟨fun hlive => hanswers 1 ?_, fun hlive hm => hanswers 3 ?_, fun hlive hm htaken => hanswers 2 ?_,
      fun hlive hm htaken hbusy => hanswers 4 ?_, fun hlive hm htaken hbusy => ?_⟩
    · rw [hrefusal, if_pos hlive]
    · rw [hrefusal, if_neg (by rw [show (s.part p).live = true from hlive]; simp), if_pos hm]
    · rw [hrefusal, if_neg (by rw [show (s.part p).live = true from hlive]; simp), if_neg (Nat.not_le.2 hm), if_pos (ht.2 htaken)]
    · rw [hrefusal, if_neg (by rw [show (s.part p).live = true from hlive]; simp), if_neg (Nat.not_le.2 hm),
        if_neg (mt ht.1 htaken), if_pos (hy.2 hbusy)]
    · rw [if_neg (by rw [show (s.part p).live = true from hlive]; simp), if_neg (Nat.not_le.2 hm), if_neg (mt ht.1 htaken),
        if_neg (mt hy.1 hbusy)] at hrefusal
      obtain ⟨hd, hkept, cs, e⟩ := answered_beside (v := s.setPart p (x.setBitmap kind m)) hr.1 rfl rfl rfl (.of_eq rfl rfl rfl) d
        0#64 len sw
      have hpart := State.part_setPart s p (x.setBitmap kind m)
      refine ⟨_, hsets hrefusal, hd, hkept, ?_, fun i hi => ?_⟩
      · rw [e]
        exact hpart
      · rw [e]
        show Partition.ownsUnit ((s.setPart p (x.setBitmap kind m)).part p) kind i = _
        rw [hpart]
        exact Partition.ownsUnit_setBitmap x (by rw [kindWidth_eq]; exact hi)

end Sys2Proof.Claims

open Sys2Proof

/-- Settles O44: arming and cancelling, and the PART forms. -/
theorem switchesAndPartitions : Obligations.SwitchesAndPartitions :=
  ⟨Claims.switchesAreArmed, Claims.partitionsAreMadeAndChanged⟩
end
